-- ==== Sys2Proof/Word.lean ====
section
/-! DEFINITION. The plain types that the instruction set and the machine share: bytes and words, operand codes, and
the small closed sets of names that an outside act carries. -/

namespace Sys2Proof

/-- One byte of memory. -/
abbrev Byte := BitVec 8

/-- One register's 32 bits (R25). -/
abbrev Word := BitVec 32

/-- A register pair, an address or an instruction word: 64 bits (R4, R42). -/
abbrev DWord := BitVec 64

/-- A 7-bit operand code: one place in the register namespace of R4. -/
abbrev Code := BitVec 7

/-- The IOMMU's answer to an ATS request (R16). -/
inductive AtsReply where
  /-- A translation with this host address and page size, and its R, W and U bits. -/
  | granted (addr : Nat) (size : Nat) (r w u : Bool)
  /-- The page is not resident: the device asks for it with PRI. -/
  | notResident
  /-- The request completes with Unsupported Request. -/
  | unsupported
  /-- The request completes with Completer Abort. -/
  | abort
  deriving DecidableEq, Repr

/-- The completion status of a PCI Express request (R90). -/
inductive HostStatus where
  | ok
  | unsupported
  | abort
  deriving DecidableEq, Repr

/-- Where an error strikes (R359). -/
inductive ErrTarget where
  /-- A physical DRAM address. -/
  | dram (pa : Nat)
  /-- A line of sealed DRAM whose MAC does not match when it is filled, by an address in it (R368). -/
  | mac (pa : Nat)
  /-- A sector of a core's L1, by the number of 64-byte sectors before it in DRAM, or in host memory. -/
  | l1 (core : Nat) (host : Bool) (sector : Nat)
  /-- A byte of a core's scratchpad. -/
  | scratchpad (core off : Nat)
  /-- A byte of a core's operand arena. -/
  | arena (core off : Nat)
  /-- A g register of a slot. -/
  | register (slot code : Nat)
  deriving DecidableEq, Repr

/-- What reaches the SPDM responder or the TDISP interface of a function (R376, R378): a measurement request with its
nonce, a session, IDE keys, and the two TDISP requests of the tenant. -/
inductive SpdmMessage where
  | attest (nonce : List Byte)
  | session
  | ideKm
  | lockInterface
  | startInterface
  /-- The IDE session or the TDISP binding of the function is lost. -/
  | lost
  deriving DecidableEq, Repr

/-- Which link an outside act concerns. -/
inductive LinkKind where
  | host
  | fabric (port : Fin 16)
  deriving DecidableEq, Repr

end Sys2Proof
end

