-- ==== Sys2Proof/Config.lean ====
section
/-! DEFINITION. What the spec leaves open. Each constant has no body, so nothing can be proved of its value: a
statement about the machine holds whatever it is. Free values that may differ from one use to the next are functions
of State.draws, the counter of values drawn so far. -/

namespace Sys2Proof.Config

/-- How much longer than its uncontended time an access or a message takes (R97, R395). -/
opaque delay : Nat → Nat

/-- Whether a home slice holds a line that is read (R97). -/
opaque sliceHit : Nat → Bool

/-- Whether two dies are column neighbours, so that traffic between them does not pass through the S-die (R366), and the
hops from a core to the S-die (R395): the spec gives no placement of the dies. -/
opaque columnNeighbours : Nat → Nat → Bool
opaque hopsToHub : Nat → Nat

/-- Which entry of a full TLB, and which block of a full instruction buffer, gives way to a new one (R109, R110): an
index. -/
opaque displaced : Nat → Nat

/-- Which free entry of a handle table a new tile takes: an index (R137 names none). -/
opaque entryChoice : Nat → Nat

/-- The 45-bit-keyed check value of a handle word, per world (R127). -/
opaque handleCheck : Nat → DWord → BitVec 19

/-- A 64-bit value that the spec does not give: XINST where no word was fetched. -/
opaque freeWord : Nat → DWord

/-- Whether a fill picks up bytes that another L1 holds dirty: when a store becomes visible is open (R113). -/
opaque snoop : Nat → Bool

/-- Whether a core of another package is a live core of the same world: package, die, y and x (R141, R232). -/
opaque remoteLive : Nat → Nat → Bool

/-- What a package knows of a tile homed on another (R133): how long it is, how many tiles a fill covers, what stands in its
entry in a given cycle, and the trap that its home's translation of an access brings: PAGE or PROT, with its code. -/
opaque remoteLength : DWord → Nat
opaque remoteMembers : DWord → Nat
opaque remoteEntry : DWord → Nat → Word
opaque remoteFault : Nat → Option (Bool × Nat)

/-- Which of the pieces of a copy, and which running copy of a cluster, is served next (R226 names no order). -/
opaque copyChoice : Nat → Nat

/-- Settles a rounding that 640 bits of working precision leave open (R181). -/
opaque hardRounding : Nat → Bool

/-- Firmware version of the Curator (R304), its image's hash and the library's bytes (R309), by the number of firmware
updates: the part's own. -/
opaque firmwareVersion : Nat → DWord
opaque firmwareHash : Nat → Nat → Byte
opaque libraryByte : Nat → Nat → Byte

/-- SPDM measurement 1, the boot ROM's hash, without and with the debug state (R376, R390). -/
opaque romHash : Bool → Nat → Byte

/-- The Ed25519 and the ML-DSA-65 signature of the package's keys over some bytes, byte by byte (R376, R379). -/
opaque signEd25519 : List Byte → Nat → Byte
opaque signMldsa : List Byte → Nat → Byte


/-- Where in the code arena the Curator puts an image, as a number of 4 KiB places (R110). -/
opaque codePlace : Nat → Nat

/-- Which register a routine of the emulation library keeps in a word of its save area (R312); 0 for none. -/
opaque librarySaves : Nat → BitVec 6

/-- Where on its dies the Curator puts the undo log of a world, in MiB (R371). -/
opaque undoPlace : Nat → Nat

/-- Whether the die-to-die ports of a die pass training at a reset (R389). -/
opaque portsTrain : Nat → Bool

/-- Where in the code arena translators stand, as a number of 4 KiB places (R110, R297). -/
opaque translatorPlace : Nat

/-- Which live core of a partition a translator runs on (R298). -/
opaque coreChoice : Nat → Nat

/-- The identifier of the first launch; each later one takes the next (R39). -/
opaque firstIdent : Word

/-- Whether the module's power is low enough for frequency class 7 (R387). -/
opaque powerLow : Nat → Bool

/-- A byte that the spec leaves open. -/
opaque freeByte : Nat → Byte

end Sys2Proof.Config
end

