-- ==== Sys2Proof/Syntax.lean ====
section
/-! DEFINITION. The instruction set as abstract syntax: the six forms of an instruction word (R43) and ONE inductive
with a constructor for every row of the opcode table. A constructor of an instruction word carries the word's form
with every field the program chooses; the function code is the constructor. A device step that the outside
world brings about carries what the outside chooses. A device step of the machine's own carries nothing: what it acts
on stands in State.subject, put there with the step when it comes due. -/

namespace Sys2Proof

/-- The R-form (R43): three sources, a function FN8 (held by the constructor) and a rounding mode. -/
structure RForm where
  d : Code := 0
  a : Code := 0
  b : Code := 0
  c : Code := 0
  /-- EP bits 32, 33 and 34 of the word, for A, B and C (R13). -/
  ep : BitVec 3 := 0
  rnd : BitVec 3 := 0
  deriving DecidableEq, Repr

/-- The I-form (R43): one source and a 32-bit immediate. -/
structure IForm where
  d : Code := 0
  a : Code := 0
  /-- EP bit 32, for A. -/
  ep : BitVec 1 := 0
  imm : BitVec 32 := 0
  deriving DecidableEq, Repr

/-- The B-form (R43, R71): two sources and a signed offset in 8-byte words. -/
structure BForm where
  a : Code := 0
  b : Code := 0
  /-- EP bits 32 and 33, for A and B. -/
  ep : BitVec 2 := 0
  off : BitVec 32 := 0
  deriving DecidableEq, Repr

/-- The M-form (R43): a memory access. -/
structure MForm where
  d : Code := 0
  a : Code := 0
  ord : BitVec 2 := 0
  scope : BitVec 3 := 0
  space : BitVec 2 := 0
  /-- EP bit 34, for the data source D. -/
  epD : BitVec 1 := 0
  /-- EP bit 33, for the base A. -/
  epA : BitVec 1 := 0
  size : BitVec 3 := 0
  /-- Eviction priority, or the type of an ATOM. -/
  evict : BitVec 3 := 0
  /-- Read-count code, or the function of an ATOM. -/
  rdc : BitVec 3 := 0
  off : BitVec 24 := 0
  deriving DecidableEq, Repr

/-- The V-form (R43): a vector operation under a mask pair. -/
structure VForm where
  d : Code := 0
  a : Code := 0
  b : Code := 0
  c : Code := 0
  ep : BitVec 3 := 0
  k : BitVec 2 := 0
  rnd : BitVec 3 := 0
  sat : BitVec 1 := 0
  sign : BitVec 1 := 0
  imm : BitVec 12 := 0
  deriving DecidableEq, Repr

/-- The T-form (R43): a tile operation. -/
structure TForm where
  d : Code := 0
  a : Code := 0
  b : Code := 0
  /-- EP bits 32, 33 and 34, for A, B and the accumulator D. -/
  ep : BitVec 3 := 0
  /-- Semiring or function. -/
  tfn : BitVec 4 := 0
  popA : BitVec 1 := 0
  popB : BitVec 1 := 0
  k : BitVec 2 := 0
  savA : BitVec 2 := 0
  savB : BitVec 2 := 0
  had : BitVec 2 := 0
  rnd : BitVec 2 := 0
  sat : BitVec 1 := 0
  noRec : BitVec 1 := 0
  imm : BitVec 8 := 0
  deriving DecidableEq, Repr

/-- Every step of the opcode table: instruction words first, then the device's other indivisible steps. -/
inductive Instr where
  /-- ADD (R59). Writes the 32-bit sum a + b, modulo 2^32, to D. -/
  | add (f : RForm)
  /-- SUB (R59). Writes the 32-bit difference a − b to D. -/
  | sub (f : RForm)
  /-- AND (R59). Writes the bitwise AND of a and b to D. -/
  | and (f : RForm)
  /-- OR (R59). Writes the bitwise OR of a and b to D. -/
  | or (f : RForm)
  /-- XOR (R59). Writes the bitwise XOR of a and b to D. -/
  | xor (f : RForm)
  /-- SHL (R59). Shifts a left by b[4:0] and writes the result to D. -/
  | shl (f : RForm)
  /-- SHR (R59). Shifts a right logically by b[4:0] and writes the result to D. -/
  | shr (f : RForm)
  /-- SRA (R59). Shifts a right arithmetically by b[4:0] and writes the result to D. -/
  | sra (f : RForm)
  /-- SLT (R59). Writes 1 to D if a < b signed, else 0. -/
  | slt (f : RForm)
  /-- SLTB (R59). Writes 1 to D if a < b unsigned, else 0. -/
  | sltb (f : RForm)
  /-- SEQ (R59). Writes 1 to D if a = b, else 0. -/
  | seq (f : RForm)
  /-- MUL (R59). Writes the low 32 bits of a·b to D. -/
  | mul (f : RForm)
  /-- MULHB (R59). Writes the high 32 bits of the unsigned product of a and b to D. -/
  | mulhb (f : RForm)
  /-- MIN (R59). Writes the signed minimum of a and b to D. -/
  | min (f : RForm)
  /-- MAX (R59). Writes the signed maximum of a and b to D. -/
  | max (f : RForm)
  /-- MINB (R59). Writes the unsigned minimum of a and b to D. -/
  | minb (f : RForm)
  /-- MAXB (R59). Writes the unsigned maximum of a and b to D. -/
  | maxb (f : RForm)
  /-- ADDW (R59). Writes the 64-bit sum of two pairs to a pair. -/
  | addw (f : RForm)
  /-- SUBW (R59). Writes the 64-bit difference of two pairs to a pair. -/
  | subw (f : RForm)
  /-- ADDI (R60). Writes a + IMM32 to D. -/
  | addi (f : IForm)
  /-- ANDI (R60). Writes a AND IMM32 to D. -/
  | andi (f : IForm)
  /-- ORI (R60). Writes a OR IMM32 to D. -/
  | ori (f : IForm)
  /-- XORI (R60). Writes a XOR IMM32 to D. -/
  | xori (f : IForm)
  /-- SHLI (R60). Shifts a left by IMM32; an IMM32 above 31 traps ILLEGAL. -/
  | shli (f : IForm)
  /-- SHRI (R60). Shifts a right logically by IMM32. -/
  | shri (f : IForm)
  /-- SRAI (R60). Shifts a right arithmetically by IMM32. -/
  | srai (f : IForm)
  /-- SLTI (R60). Writes 1 to D if a < IMM32, both signed. -/
  | slti (f : IForm)
  /-- SLTBI (R60). Writes 1 to D if a < IMM32, both unsigned. -/
  | sltbi (f : IForm)
  /-- SEQI (R60). Writes 1 to D if a = IMM32. -/
  | seqi (f : IForm)
  /-- MULI (R60). Writes the low 32 bits of a·IMM32 to D. -/
  | muli (f : IForm)
  /-- ADDWI (R60). Adds the sign-extended IMM32 to a pair, modulo 2^64. -/
  | addwi (f : IForm)
  /-- MOVI (R60). Writes IMM32 to D. -/
  | movi (f : IForm)
  /-- LD (R84). Checks and translates the address, marks D empty and starts a zero-extending load. -/
  | ld (f : MForm)
  /-- LDS (R84). Checks and translates the address, marks D empty and starts a sign-extending load. -/
  | lds (f : MForm)
  /-- ST (R85). Checks and translates the address and issues a store of the data registers. -/
  | st (f : MForm)
  /-- BEQ (R71). Branches when a = b. -/
  | beq (f : BForm)
  /-- BNE (R71). Branches when a ≠ b. -/
  | bne (f : BForm)
  /-- BLT (R71). Branches when a < b signed. -/
  | blt (f : BForm)
  /-- BGE (R71). Branches when a ≥ b signed. -/
  | bge (f : BForm)
  /-- BLTB (R71). Branches when a < b unsigned. -/
  | bltb (f : BForm)
  /-- BGEB (R71). Branches when a ≥ b unsigned. -/
  | bgeb (f : BForm)
  /-- JAL (R72). Writes PC + 8 to D and jumps by the IMM32 word offset. -/
  | jal (f : IForm)
  /-- JALR (R73). Writes PC + 8 to D and jumps to a + IMM32. -/
  | jalr (f : IForm)
  /-- KEND (R293). Ends a translator run without a trap once every store of the slot is performed. -/
  | kend (f : IForm)
  /-- KMTR (R300). Reads the remaining meter into D and may lower KMETER. -/
  | kmtr (f : IForm)
  /-- TRAP (R75). Takes a trap with cause TRAP, with the immediate and the value of A. -/
  | trap (f : IForm)
  /-- DIV (R61). Marks D empty and starts a signed division that lands 18 cycles later. -/
  | div (f : RForm)
  /-- DIVB (R61). Marks D empty and starts an unsigned division that lands 18 cycles later. -/
  | divb (f : RForm)
  /-- REM (R61). Signed remainder; emulated on this part and traps ILLEGAL if it is not rewritten. -/
  | rem (f : RForm)
  /-- REMB (R61). Unsigned remainder; emulated on this part. -/
  | remb (f : RForm)
  /-- MULH (R61). Writes the high word of the signed product of a and b. -/
  | mulh (f : RForm)
  /-- CLZ (R61). Counts the leading zero bits of a. -/
  | clz (f : RForm)
  /-- CTZ (R61). Counts the trailing zero bits of a. -/
  | ctz (f : RForm)
  /-- POPC (R61). Counts the one bits of a. -/
  | popc (f : RForm)
  /-- ROTL (R61). Rotates a left by b[4:0]. -/
  | rotl (f : RForm)
  /-- ROTR (R61). Rotates a right by b[4:0]. -/
  | rotr (f : RForm)
  /-- BEXT (R61). Extracts the bit field of a that b describes. -/
  | bext (f : RForm)
  /-- BINS (R61). Replaces the bit field of a that b describes with bits of c. -/
  | bins (f : RForm)
  /-- SHLW (R61). Shifts a pair left by b[5:0]. -/
  | shlw (f : RForm)
  /-- SHRW (R61). Shifts a pair right logically by b[5:0]. -/
  | shrw (f : RForm)
  /-- SRAW (R61). Shifts a pair right arithmetically by b[5:0]. -/
  | sraw (f : RForm)
  /-- MULW (R61). Writes the low 64 bits of the product of two pairs. -/
  | mulw (f : RForm)
  /-- MULWB (R61). Writes the high 64 bits of the unsigned product of two pairs. -/
  | mulwb (f : RForm)
  /-- SLTW (R61). Writes 1 if pair a < pair b signed. -/
  | sltw (f : RForm)
  /-- SLTWB (R61). Writes 1 if pair a < pair b unsigned. -/
  | sltwb (f : RForm)
  /-- SEL (R61). Writes a if c ≠ 0, else b. -/
  | sel (f : RForm)
  /-- FADD_F32 (R65). FP32 add, rounded once. -/
  | faddF32 (f : RForm)
  /-- FSUB_F32 (R65). FP32 subtract, rounded once. -/
  | fsubF32 (f : RForm)
  /-- FMUL_F32 (R65). FP32 multiply, rounded once. -/
  | fmulF32 (f : RForm)
  /-- FFMA_F32 (R65). FP32 fused multiply-add, rounded once. -/
  | ffmaF32 (f : RForm)
  /-- FDIV_F32 (R65). FP32 divide, rounded once. -/
  | fdivF32 (f : RForm)
  /-- FSQRT_F32 (R65). FP32 square root, rounded once. -/
  | fsqrtF32 (f : RForm)
  /-- FMIN_F32 (R67). FP32 minimumNumber. -/
  | fminF32 (f : RForm)
  /-- FMAX_F32 (R67). FP32 maximumNumber. -/
  | fmaxF32 (f : RForm)
  /-- FABS_F32 (R67). Clears the sign bit of an FP32 value. -/
  | fabsF32 (f : RForm)
  /-- FNEG_F32 (R67). Inverts the sign bit of an FP32 value. -/
  | fnegF32 (f : RForm)
  /-- FEQ_F32 (R67). FP32 equality compare into a g register. -/
  | feqF32 (f : RForm)
  /-- FLT_F32 (R67). FP32 less-than compare into a g register. -/
  | fltF32 (f : RForm)
  /-- FLE_F32 (R67). FP32 less-or-equal compare into a g register. -/
  | fleF32 (f : RForm)
  /-- FCLS_F32 (R68). Writes the class mask of an FP32 value. -/
  | fclsF32 (f : RForm)
  /-- FADD_F64 (R65). FP64 add on pairs, rounded once. -/
  | faddF64 (f : RForm)
  /-- FSUB_F64 (R65). FP64 subtract on pairs, rounded once. -/
  | fsubF64 (f : RForm)
  /-- FMUL_F64 (R65). FP64 multiply on pairs, rounded once. -/
  | fmulF64 (f : RForm)
  /-- FFMA_F64 (R65). FP64 fused multiply-add on pairs. -/
  | ffmaF64 (f : RForm)
  /-- FDIV_F64 (R79). FP64 divide; emulated on this part. -/
  | fdivF64 (f : RForm)
  /-- FSQRT_F64 (R79). FP64 square root; emulated on this part. -/
  | fsqrtF64 (f : RForm)
  /-- FMIN_F64 (R67). FP64 minimumNumber. -/
  | fminF64 (f : RForm)
  /-- FMAX_F64 (R67). FP64 maximumNumber. -/
  | fmaxF64 (f : RForm)
  /-- FABS_F64 (R67). Clears the sign bit of an FP64 value. -/
  | fabsF64 (f : RForm)
  /-- FNEG_F64 (R67). Inverts the sign bit of an FP64 value. -/
  | fnegF64 (f : RForm)
  /-- FEQ_F64 (R67). FP64 equality compare into a g register. -/
  | feqF64 (f : RForm)
  /-- FLT_F64 (R67). FP64 less-than compare into a g register. -/
  | fltF64 (f : RForm)
  /-- FLE_F64 (R67). FP64 less-or-equal compare into a g register. -/
  | fleF64 (f : RForm)
  /-- FCLS_F64 (R68). Writes the class mask of an FP64 value. -/
  | fclsF64 (f : RForm)
  /-- FCVT (R70). Converts A between the source and destination formats that FN8 names. -/
  | fcvt (fn : BitVec 8) (f : RForm)
  /-- CSRR (R74). Reads a CSR into D. -/
  | csrr (f : IForm)
  /-- CSRW (R74). Writes a CSR and returns its old value. -/
  | csrw (f : IForm)
  /-- CSRS (R74). Sets bits of a CSR and returns its old value. -/
  | csrs (f : IForm)
  /-- CSRC (R74). Clears bits of a CSR and returns its old value. -/
  | csrc (f : IForm)
  /-- ERET (R77). Returns from handler mode to task mode at XPC. -/
  | eret (f : IForm)
  /-- BRK (R76). Takes a trap with cause BREAK. -/
  | brk (f : IForm)
  /-- NOP (R78). Advances PC with no other effect. -/
  | nop (f : IForm)
  /-- ATOM (R88). Marks D empty and performs an atomic read-modify-write at the place of R87. -/
  | atom (f : MForm)
  /-- ASWP (R88). Atomically swaps memory with the data registers and returns the old value. -/
  | aswp (f : MForm)
  /-- ACAS (R88). Atomic compare-and-swap returning the old value into the compare registers. -/
  | acas (f : MForm)
  /-- FENCE (R95). Orders the slot's accesses at the named scope. -/
  | fence (f : MForm)
  /-- PREF (R94). Requests a line fill with the given hints and retires at once. -/
  | pref (f : MForm)
  /-- HNEW (R137). Creates a global paired tile and writes its fill and see handles. -/
  | hnew (f : RForm)
  /-- HNEW_SP (R137). Creates a scratchpad paired tile and writes its fill and see handles. -/
  | hnewSp (f : RForm)
  /-- HCOPY (R138). Copies a see handle into a free register. -/
  | hcopy (f : RForm)
  /-- HDROP (R138). Drops a handle, publishing a fill. -/
  | hdrop (f : RForm)
  /-- HMOVE (R138). Moves a handle between handle registers. -/
  | hmove (f : RForm)
  /-- HINFO (R139). Writes a tile's length and state to a pair. -/
  | hinfo (f : RForm)
  /-- HWAIT (R140). Waits until the tile is published and acquires, or traps ABANDON. -/
  | hwait (f : RForm)
  /-- HSEND (R141). Moves a handle into a message to another slot's inbox. -/
  | hsend (f : RForm)
  /-- HRECV (R142). Takes the oldest handle message for this slot into a handle register. -/
  | hrecv (f : RForm)
  /-- HLD (R143). Loads from a tile through a handle. -/
  | hld (f : MForm)
  /-- HST (R143). Stores into a tile through its fill handle. -/
  | hst (f : MForm)
  /-- QCFG (R146). Configures or deconfigures a ring register from a descriptor. -/
  | qcfg (f : RForm)
  /-- QRSV (R147). Reserves the tail slot of a ring and writes a fill handle. -/
  | qrsv (f : RForm)
  /-- QPOP (R149). Pops the head slot of an own ring without reading it. -/
  | qpop (f : RForm)
  /-- QSTAT (R150). Writes a ring's state to a pair. -/
  | qstat (f : RForm)
  /-- VADD (R181). Vector float add. -/
  | vadd (f : VForm)
  /-- VSUB (R181). Vector float subtract. -/
  | vsub (f : VForm)
  /-- VMUL (R181). Vector float multiply. -/
  | vmul (f : VForm)
  /-- VFMA (R181). Vector float fused multiply-add. -/
  | vfma (f : VForm)
  /-- VMIN (R181). Vector float minimum. -/
  | vmin (f : VForm)
  /-- VMAX (R181). Vector float maximum. -/
  | vmax (f : VForm)
  /-- VABS (R181). Vector float absolute value. -/
  | vabs (f : VForm)
  /-- VNEG (R181). Vector float negation. -/
  | vneg (f : VForm)
  /-- VRCP (R182). Vector correctly rounded reciprocal. -/
  | vrcp (f : VForm)
  /-- VRSQ (R182). Vector correctly rounded reciprocal square root. -/
  | vrsq (f : VForm)
  /-- VEXP2 (R182). Vector correctly rounded 2^a. -/
  | vexp2 (f : VForm)
  /-- VLOG2 (R182). Vector correctly rounded log2. -/
  | vlog2 (f : VForm)
  /-- VTANH (R182). Vector correctly rounded tanh. -/
  | vtanh (f : VForm)
  /-- VIADD (R183). Vector integer add. -/
  | viadd (f : VForm)
  /-- VISUB (R183). Vector integer subtract. -/
  | visub (f : VForm)
  /-- VIMUL (R183). Vector integer multiply. -/
  | vimul (f : VForm)
  /-- VAND (R183). Vector bitwise AND. -/
  | vand (f : VForm)
  /-- VOR (R183). Vector bitwise OR. -/
  | vor (f : VForm)
  /-- VXOR (R183). Vector bitwise XOR. -/
  | vxor (f : VForm)
  /-- VSHL (R183). Vector shift left. -/
  | vshl (f : VForm)
  /-- VSHR (R183). Vector logical shift right. -/
  | vshr (f : VForm)
  /-- VSRA (R183). Vector arithmetic shift right. -/
  | vsra (f : VForm)
  /-- VIMIN (R183). Vector integer minimum. -/
  | vimin (f : VForm)
  /-- VIMAX (R183). Vector integer maximum. -/
  | vimax (f : VForm)
  /-- VHASH (R184). Vector 32-bit hash of a and b with a seed. -/
  | vhash (f : VForm)
  /-- VLUT (R185). Vector table lookup from a one-row view. -/
  | vlut (f : VForm)
  /-- VIDX (R183). Writes a + linear index into each element. -/
  | vidx (f : VForm)
  /-- VCMP (R186). Compares a row or column and writes a mask pair. -/
  | vcmp (rel : BitVec 6) (f : VForm)
  /-- VMOV (R187). Moves a view or broadcast scalar into D under the mask. -/
  | vmov (f : VForm)
  /-- VSEL (R187). Selects between A and B per element by the mask. -/
  | vsel (f : VForm)
  /-- VBCAST (R187). Broadcasts one element of A into D. -/
  | vbcast (f : VForm)
  /-- VPERM (R187). Permutes columns of A by an index view. -/
  | vperm (f : VForm)
  /-- VTRN (R187). Transposes A into D. -/
  | vtrn (f : VForm)
  /-- VRSUM (R188). Reduces the active elements to a sum in a register. -/
  | vrsum (f : VForm)
  /-- VRMIN (R188). Reduces the active elements to a minimum. -/
  | vrmin (f : VForm)
  /-- VRMAX (R188). Reduces the active elements to a maximum. -/
  | vrmax (f : VForm)
  /-- VRMINI (R189). Reduces to a minimum and its lowest linear index. -/
  | vrmini (f : VForm)
  /-- VRMAXI (R189). Reduces to a maximum and its lowest linear index. -/
  | vrmaxi (f : VForm)
  /-- VROR (R188). Reduces integer elements by bitwise OR. -/
  | vror (f : VForm)
  /-- VCVT (R190). Converts each element from A's format to D's format. -/
  | vcvt (f : VForm)
  /-- VLD (R192). Loads a view's rectangle from memory, making D owed. -/
  | vld (f : MForm)
  /-- VST (R192). Stores a view's rectangle to memory. -/
  | vst (f : MForm)
  /-- VLDH (R192). Loads a view's rectangle from a tile through a handle. -/
  | vldh (f : MForm)
  /-- VSTH (R192). Stores a view's rectangle into a tile through its fill handle. -/
  | vsth (f : MForm)
  /-- VGATH (R193). Gathers elements from global memory by an index view. -/
  | vgath (f : RForm)
  /-- VSCAT (R193). Scatters elements to global memory by an index view. -/
  | vscat (f : RForm)
  /-- VSET (R179). Sets a view register's format, shape, stride and offset. -/
  | vset (fmt : BitVec 8) (f : RForm)
  /-- MSET (R180). Loads a mask pair from two register pairs. -/
  | mset (f : RForm)
  /-- TMMA (R211). Dense matrix multiply-accumulate in a semiring on the cluster matrix unit. -/
  | tmma (f : TForm)
  /-- TMMS (R211). Sparse-A matrix multiply-accumulate on the cluster matrix unit. -/
  | tmms (f : TForm)
  /-- TADD (R213). Scaled elementwise tile add. -/
  | tadd (f : TForm)
  /-- TEMUL (R213). Elementwise tile multiply. -/
  | temul (f : TForm)
  /-- TACT (R214). Applies an activation function to each tile element. -/
  | tact (f : TForm)
  /-- TTRN (R217). Transposes a tile view. -/
  | ttrn (f : TForm)
  /-- TRED (R216). Reduces a tile by row or column sum or maximum. -/
  | tred (f : TForm)
  /-- TCVT (R218). Converts a tile view, optionally with a Hadamard transform. -/
  | tcvt (f : TForm)
  /-- TSMX (R215). Row-wise softmax over the active columns. -/
  | tsmx (f : TForm)
  /-- TZERO (R219). Writes zero into each active element of D. -/
  | tzero (f : TForm)
  /-- TFMT (R198). Sets the slot's tile format context and returns the old one. -/
  | tfmt (f : RForm)
  /-- TREC (R255). Sets TRC.EN from a[0]. -/
  | trec (f : RForm)
  /-- TLOGB (R256). Sets the log window base and length and resets the tail and cursor. -/
  | tlogb (f : RForm)
  /-- TMARK (R257). Writes TLTAIL to D as a mark. -/
  | tmark (f : RForm)
  /-- TREV (R258). Runs the recorded adjoints backwards from TRCUR down to the mark. -/
  | trev (f : RForm)
  /-- TGMAP_VIEW (R259). Sets the gradient offset of a view. -/
  | tgmapView (f : RForm)
  /-- TGMAP_DELTA (R259). Sets GDELTA from a pair. -/
  | tgmapDelta (f : RForm)
  /-- TLSTAT (R260). Writes TLTAIL and TRCUR to a pair in one step. -/
  | tlstat (f : RForm)
  /-- CPY (R225). Checks a copy descriptor and queues a copy on the cluster copy engine. -/
  | cpy (f : RForm)
  /-- CPYH (R225). Queues a copy into the tile of a fill handle taken by move. -/
  | cpyh (f : RForm)
  /-- CPYM (R225). Queues a copy into every member of a joint fill taken by move. -/
  | cpym (f : RForm)
  /-- SEND (R232). Sends the staged outbox words to the core named by a register, as a release. -/
  | send (f : RForm)
  /-- SEND_CHANNEL (R232). Sends the staged outbox words along route-table channel FN8. -/
  | sendChannel (ch : BitVec 8) (f : RForm)
  /-- RECV (R236). Selects a matching message, makes it current and returns its header. -/
  | recv (f : RForm)
  /-- FORK (R267). Pushes a task descriptor onto the core's deque, as a release at die scope. -/
  | fork (f : IForm)
  /-- JOIN (R274). Waits until a join counter is at most zero, then acquires. -/
  | join (f : RForm)
  /-- EXIT (R273). Ends the task, drops its handles and decrements its join counter. -/
  | exit (f : RForm)
  /-- YIELD (R275). Makes the slot not ready for a while so that other slots issue. -/
  | yield (f : RForm)
  /-- WAITQ (R276). Waits until a memory word differs from b, then acquires. -/
  | waitq (f : RForm)
  /-- EVWT (R281). Waits for a nonzero event line count and consumes it unless KEEP. -/
  | evwt (f : RForm)
  /-- EVSIG (R280). Raises an event line count locally or in another cluster. -/
  | evsig (f : RForm)
  /-- EVBAR (R282). Arrives at a cluster, die or world barrier and waits for departure. -/
  | evbar (f : RForm)
  /-- EVLCK (R283). Takes a cluster mutex or waits for it. -/
  | evlck (f : RForm)
  /-- EVUNL (R283). Frees a cluster mutex owned by the slot. -/
  | evunl (f : RForm)
  /-- LANDING_FPTRAP (R40). A pending FPTRAP from landing tile flags is taken at the slot's next examination in task mode. -/
  | landingFptrap
  /-- METER_EXHAUSTED (R292). An instruction that finds KMETER at 0 traps METER and ends the run. -/
  | meterExhausted
  /-- LOAD_VALUE_LANDS (R84). A load's data arrives and fills its destination registers full. -/
  | loadValueLands
  /-- DIVISION_LANDS (R63). A quotient or remainder lands in its empty destination 18 cycles after issue. -/
  | divisionLands
  /-- ATOMIC_PERFORMED (R88). An atomic is performed at its home and the old value lands in D. -/
  | atomicPerformed
  /-- HOST_ATOMICOP_COMPLETION (R90). A PCI Express AtomicOp completion returns the old value or traps PAGE. -/
  | hostAtomicopCompletion (slot : Nat) (id : Nat) (st : HostStatus)
  /-- STORE_PERFORMED (R113). A store becomes performed for the agents that can read it. -/
  | storePerformed
  /-- ATS_COMPLETION (R16). An ATS translation completion fills the TLB, starts a page request or traps. -/
  | atsCompletion (req : Nat) (reply : AtsReply)
  /-- PRI_RESPONSE (R16). A page request response repeats the ATS request or traps PAGE. -/
  | priResponse (req : Nat) (code : BitVec 4)
  /-- ATS_INVALIDATION (R17). A host ATS invalidation is received and held until old-entry accesses drain. -/
  | atsInvalidation (pasid : Option Nat) (va : Nat) (len : Nat)
  /-- ATS_INVALIDATION_COMPLETE (R17). Once old-entry accesses are performed and lines flushed, the invalidation completes. -/
  | atsInvalidationComplete
  /-- VECTOR_WRITES_LAND (R170). A vector instruction's owed view, register or mask writes land. -/
  | vectorWritesLand
  /-- MATRIX_GRANT (R195). The free matrix unit grants one pending request by round robin, issuing that tile instruction. -/
  | matrixGrant
  /-- TILE_RESULTS_LAND (R196). A tile instruction's results, flags and counters land together. -/
  | tileResultsLand
  /-- HELD_SPAN_RELEASE (R206). The unit finishes reading a view source and its hold ends. -/
  | heldSpanRelease
  /-- RING_SLOT_FREES (R145). A drained ring slot becomes FREE once the unit has read it and its entry retires. -/
  | ringSlotFrees
  /-- COPY_START (R226). A queued copy starts once the issuing slot's earlier accesses are performed. -/
  | copyStart
  /-- COPY_FAULT (R227). A copy meets PAGE or PROT and ends, abandoning any held fill. -/
  | copyFault
  /-- COPY_COMPLETION (R228). A finished copy drops its fill and enqueues its completion message in order. -/
  | copyCompletion
  /-- MESSAGE_ENTERS_INBOX (R235). A routed message reaches its destination inbox when a place is free. -/
  | messageEntersInbox
  /-- EVENT_MESSAGE_ARRIVES (R280). An event message from another cluster raises a line count there. -/
  | eventMessageArrives
  /-- BARRIER_DEPARTURE (R282). A completed barrier releases its members in one cycle, as an acquire. -/
  | barrierDeparture
  /-- DIE_BARRIER_ARRIVAL (R282). A complete cluster's arrival reaches a die or world barrier. -/
  | dieBarrierArrival
  /-- BOUNDED_WAIT_EXPIRY (R277). A bounded wait reaches its cycle limit and traps WAITX. -/
  | boundedWaitExpiry
  /-- WAIT_WORD_REREAD (R277). A parked JOIN or WAITQ re-reads its word on a store to its sector or every 256 cycles. -/
  | waitWordReread
  /-- TASK_START (R268). The lowest free slot takes the newest ready deque entry and starts it. -/
  | taskStart
  /-- DEQUE_REFILL (R269). When ONCHIP falls to 16 or fewer, spilled entries are brought back. -/
  | dequeRefill
  /-- STEAL_ATTEMPT (R270). A core with a free slot and no ready entry asks its candidates for a task. -/
  | stealAttempt
  /-- STEAL_ANSWER (R270). A candidate answers a steal request, giving up its oldest ready unpinned entry or nothing. -/
  | stealAnswer
  /-- START_EVENT (R271). The start event fires and every entry slot fetches its first word. -/
  | startEvent
  /-- QUIESCENCE_SAMPLE (R287). After quiet cycles the front end samples message counts and may decide. -/
  | quiescenceSample
  /-- PREEMPT_SAVE (R357). Pre-emption stops a partition's cores and saves each into its context area. -/
  | preemptSave
  /-- CONTEXT_RESTORE (R357). A pre-empted launch's cores are restored and resume at their PCs. -/
  | contextRestore
  /-- PREEMPT_TIMEOUT (R358). A slot still in handler mode 65,536 cycles after a pre-emption request traps PREEMPT. -/
  | preemptTimeout
  /-- POISON_ERROR (R359). An uncorrectable error poisons a sector or register. -/
  | poisonError (tgt : ErrTarget)
  /-- UNCONTAINED_ERROR (R360). An error that cannot be kept as poison rolls back or aborts the touched launches. -/
  | uncontainedError (site : Nat) (at_ : Nat)
  /-- INTERVAL_BOUNDARY (R361). An interval boundary checkpoints every core and releases the commit buffer. -/
  | intervalBoundary
  /-- ROLLBACK (R363). Discards the commit buffer, undoes the log and restores from the checkpoint. -/
  | rollback
  /-- PARTITION_DRAIN_RESET (R364). Kills every slot of a partition, drains its engines and clears its state. -/
  | partitionDrainReset
  /-- DIE_PORT_REFUSAL (R366). A die-to-die request with a foreign WID is refused as an uncontained error. -/
  | diePortRefusal (wid : Nat) (die : Nat)
  /-- LINK_FRAME_INTEGRITY_FAIL (R369). A host or fabric frame failing its integrity check is dropped. -/
  | linkFrameIntegrityFail (link : LinkKind)
  /-- KICK (R334). A write to a queue's KICK register offers packets if it passes the range check. -/
  | kick (q : Nat) (w : Word)
  /-- QUEUE_RESET (R344). Writing RESET drains the queue, clears its error and sets RIDX to KICK. -/
  | queueReset (q : Nat)
  /-- QUEUE_DRAIN_COMPLETE (R344). A draining queue whose taken packets have ended becomes idle. -/
  | queueDrainComplete
  /-- PACKET_TAKE (R336). The front end takes the next packet of the highest-priority eligible queue. -/
  | packetTake
  /-- NOP_PACKET (R342). A NOP packet completes at once. -/
  | nopPacket
  /-- LAUNCH_LOAD (R347). A LAUNCH packet whose partition is free is loaded and its start event prepared. -/
  | launchLoad
  /-- TRANSLATE_PACKET (R298). A TRANSLATE packet hits the accession cache or sets up and runs its translator. -/
  | translatePacket
  /-- LOADER_VALIDATE (R310). After KEND the loader checks, rewrites and caches the translator's output. -/
  | loaderValidate
  /-- COPY_PACKET (R342). A COPY packet copies LEN bytes in the queue's world. -/
  | copyPacket
  /-- SIGNAL_PACKET (R327). A SIGNAL packet adds to or stores a signal atomically. -/
  | signalPacket
  /-- BARRIER_PACKET (R328). A BARRIER packet enters the wait list and is evaluated. -/
  | barrierPacket
  /-- BARRIER_EVALUATE (R328). A named signal changes and a waiting BARRIER completes, aborts or stays. -/
  | barrierEvaluate
  /-- HOST_SIGNAL_POLL (R344). The front end reads each waited-on host signal every 1 µs. -/
  | hostSignalPoll
  /-- TIMESTAMP_PACKET (R342). A TIMESTAMP packet stores the time at which it was taken. -/
  | timestampPacket
  /-- PROVENANCE_PACKET (R343). A PROVENANCE packet copies the signed record of a held packet. -/
  | provenancePacket
  /-- PACKET_END (R345). A packet's work, result record and CSIG update are released at system scope. -/
  | packetEnd
  /-- LAUNCH_END (R348). A launch ends: stores performed, provenance signed, completion released. -/
  | launchEnd
  /-- LAUNCH_PREEMPT (R338). A higher-priority PREEMPT launch displaces a running lower one. -/
  | launchPreempt
  /-- FRONT_END_PAGE_WAIT (R394). A front-end host access completes its ATS or PRI round and goes on. -/
  | frontEndPageWait (pk : Nat) (reply : AtsReply)
  /-- WATCHDOG_EXPIRY (R349). A queue's watchdog expires and fails every unended packet. -/
  | watchdogExpiry
  /-- CREATE_WORLD (R371). Creates a confidential world on named dies with keys and a seed region. -/
  | createWorld
  /-- DESTROY_WORLD (R377). Drains, signs, erases keys, scrubs and returns a world's dies. -/
  | destroyWorld
  /-- OFFER (R374). Scrubs a host frame and gives it to a world. -/
  | offer
  /-- RECLAIM (R374). Asks a world to return a frame through a notice. -/
  | reclaim
  /-- FORCE (R374). Takes a frame back by destroying its world. -/
  | force
  /-- IMPORT (R375). Checks an export record and decrypts it into a frame of the world. -/
  | importPage
  /-- SET_ROOT (R372). Sets world 0's page-table root for its next launch. -/
  | setRoot
  /-- CREATE_QUEUE (R332). Creates a hardware queue from a queue record. -/
  | createQueue
  /-- DESTROY_QUEUE (R370). Stops a queue's kicks and removes it once drained. -/
  | destroyQueue
  /-- SET_WINDOW (R384). Sets up a reduction window at a launch boundary. -/
  | setWindow
  /-- CLEAR_WINDOW (R384). Removes a reduction window at a launch boundary. -/
  | clearWindow
  /-- DEBUG_UNLOCK (R390). Accepts a signed token, destroys confidential worlds and sets DEBUG. -/
  | debugUnlock
  /-- ACCEPT (R374). The runtime accepts a reclaim; the frame is scrubbed and returned to the host. -/
  | accept
  /-- REFUSE (R374). The runtime refuses a reclaim. -/
  | refuse
  /-- EXPORT (R375). Seals a world frame into an export record in host memory. -/
  | exportPage
  /-- SPDM_REQUEST (R376). The SPDM responder answers a request with dual-signed data. -/
  | spdmRequest (vf : Nat) (msg : SpdmMessage)
  /-- LINK_DOWN (R378). Host link-down loses IDE keys and TDISP bindings; host accesses trap. -/
  | linkDown
  /-- FUNCTION_LEVEL_RESET (R378). A VF reset destroys its world. -/
  | functionLevelReset (vf : Nat)
  /-- HOT_RESET (R378). A hot or PF reset destroys confidential worlds and aborts world 0 launches. -/
  | hotReset
  /-- POWER_ON_RESET (R386). Resets everything and re-reads the live map. -/
  | powerOnReset (pkgid : Byte)
  /-- DEVICE_RESET (R386). Resets as power-on but keeps PKGID, the retirement record and saved queues. -/
  | deviceReset
  /-- FIRMWARE_UPDATE (R381). Stops taking packets, destroys confidential worlds, saves world 0 queues and resets. -/
  | firmwareUpdate
  /-- FREQUENCY_CLASS_CHANGE (R387). A partition's dies move to a requested operating point. -/
  | frequencyClassChange
  /-- THROTTLE (R387). Near a power or temperature limit the Curator lowers classes and sets THROT. -/
  | throttle
  /-- UNTHROTTLE (R387). After 100 ms clear of the limit the classes are raised again. -/
  | unthrottle
  /-- RETIREMENT (R389). Failing cores, clusters or dies are retired and DREQ set. -/
  | retire
  /-- LIVE_MAP_CHANGE (R316). At a launch boundary the Catalogue is rebuilt and stale accession entries deleted. -/
  | liveMapChange
  /-- DEBUG_FREEZE (R390). The test access port stops every clock of an unlocked package. -/
  | debugFreeze
  /-- FABRIC_PATH_DOWN (R383). A fabric path down for 1 ms makes its package unreachable. -/
  | fabricPathDown
  /-- COMBINE_BUFFER_FORWARD (R385). A held reduction contribution is forwarded toward its home after its hold time. -/
  | combineBufferForward
  /-- REDUCTION_PERFORMED (R98). A merged reduction contribution is combined at the home memory port. -/
  | reductionPerformed
  /-- REDUCTION_ACCEPTED (R98). The issuing package's router accepts a reduction and D receives 0. -/
  | reductionAccepted
  /-- REGISTER_WRITE (R391). A write to a device register with no behaviour of its own, such as MBADDR. -/
  | registerWrite (off : Nat) (val : DWord)
  /-- ILLEGAL_INSTRUCTION (R47). A slot issues a word whose major or function value is unassigned and takes a precise ILLEGAL trap. -/
  | illegalInstruction
  /-- PORT_WORD_DELIVERY (R28). A pushed link-port word reaches the neighbour's incoming FIFO and can be popped, 2 cycles after the push. -/
  | portWordDelivery
  /-- PRI_RESET (R107). The host resets the function's PRI state, ending the state in which every page request traps at once after a Response Failure. -/
  | priReset (fn : Nat)
  /-- HOST_LINK_UP (R378). The host link comes back up after link-down, after which SPDM, IDE_KM and TDISP can restore service. -/
  | hostLinkUp
  /-- FABRIC_PATH_FAILURE (R392). A fabric path to a package fails, holding combined reductions and starting the 1 ms count before the package is unreachable. -/
  | fabricPathFailure (pkg : Nat)
  /-- FABRIC_PATH_RECOVERY (R383). A failed fabric path, or a retrained port after a reset, recovers; held reductions are forwarded and new accesses are served. -/
  | fabricPathRecovery (pkg : Nat)
  /-- CORRECTED_SOFT_ERROR (R359). A corrected soft error occurs and is counted toward the Curator's retirement of failing cores. -/
  | correctedSoftError (core : Nat)
  deriving DecidableEq, Repr

end Sys2Proof
end

