-- ==== Sys2Proof/WellFormed.lean ====
section
/-! DEFINITION. Which field values an instruction word may hold: the operand classes of R24, the field values of R45
and R46, the zero fields of R48, and the limits each instruction's own rule gives. A word that breaks one of them
traps ILLEGAL at decode (R52, step 2). Mode, privilege and Catalogue status are not checked here: they depend on the
machine (Machine/Ops.lean). -/

namespace Sys2Proof

/-- The classes of operand code (R24), and the narrower ones that single instructions name. -/
inductive OpClass where
  /-- The field is not used and must be 0 (R48). -/
  | zero
  /-- Any value: the field holds a number, not a register. -/
  | any
  /-- A scalar source: g0 to g63, a link port or the inbox. -/
  | scalar
  /-- A scalar destination written at issue: g0 to g63, a link port or the outbox. -/
  | dest
  /-- g0 to g63: a destination that is marked empty, or a plain g register. -/
  | general
  /-- A pair: an even code below 64 (R10). -/
  | pair
  /-- The first of eight g registers: a multiple of 8, at most 56. -/
  | octet
  /-- v0 to v15. -/
  | view
  /-- A vector source: a view, or g0 to g63 as a broadcast scalar. -/
  | viewOrGeneral
  /-- A tile operand: a view or a ring. -/
  | viewOrRing
  /-- h0 to h15. -/
  | handle
  /-- h0 to h14: the first of the two handle registers that HNEW writes (R135). -/
  | handleFirst
  /-- h0 to h15, or code 0 (R146). -/
  | handleOrZero
  /-- q0 to q7. -/
  | ring
  /-- k0 to k3. -/
  | mask
  /-- k1 to k3: a mask destination (R35). -/
  | maskDest
  deriving DecidableEq, Repr

def Code.isGeneral (c : Code) : Bool := decide (c.toNat ≤ 63)
def Code.isPair (c : Code) : Bool := decide (c.toNat ≤ 63) && decide (c.toNat % 2 = 0)
def Code.isPort (c : Code) : Bool := decide (64 ≤ c.toNat) && decide (c.toNat ≤ 67)
def Code.isView (c : Code) : Bool := decide (80 ≤ c.toNat) && decide (c.toNat ≤ 95)
def Code.isHandle (c : Code) : Bool := decide (96 ≤ c.toNat) && decide (c.toNat ≤ 111)
def Code.isRing (c : Code) : Bool := decide (112 ≤ c.toNat) && decide (c.toNat ≤ 119)
def Code.isMask (c : Code) : Bool := decide (120 ≤ c.toNat) && decide (c.toNat ≤ 123)

/-- The codes an operand class accepts. -/
def OpClass.accepts : OpClass → Code → Bool
  | .zero, c => c == 0
  | .any, _ => true
  | .scalar, c => decide (c.toNat ≤ 68)
  | .dest, c => decide (c.toNat ≤ 67) || c == 69
  | .general, c => c.isGeneral
  | .pair, c => c.isPair
  | .octet, c => decide (c.toNat ≤ 56) && decide (c.toNat % 8 = 0)
  | .view, c => c.isView
  | .viewOrGeneral, c => c.isView || c.isGeneral
  | .viewOrRing, c => c.isView || c.isRing
  | .handle, c => c.isHandle
  | .handleFirst, c => c.isHandle && decide (c.toNat ≤ 110)
  | .handleOrZero, c => c.isHandle || c == 0
  | .ring, c => c.isRing
  | .mask, c => c.isMask
  | .maskDest, c => c.isMask && c != 120

/-- What an R-form instruction uses: its operand classes, which EP bits cover a source, and the largest RND. -/
structure RShape where
  d : OpClass := .zero
  a : OpClass := .zero
  b : OpClass := .zero
  c : OpClass := .zero
  ep : BitVec 3 := 0
  rnd : Nat := 0

def RForm.fits (f : RForm) (sh : RShape) : Bool :=
  sh.d.accepts f.d && sh.a.accepts f.a && sh.b.accepts f.b && sh.c.accepts f.c
    && (f.ep &&& ~~~sh.ep) == 0 && decide (f.rnd.toNat ≤ sh.rnd)

/-- The CSR numbers of R38. -/
def csrListed (n : Nat) : Bool :=
  decide (n ≤ 0x009) || (decide (0x010 ≤ n) && decide (n ≤ 0x012)) || (decide (0x018 ≤ n) && decide (n ≤ 0x01B))
    || (decide (0x020 ≤ n) && decide (n ≤ 0x024)) || (decide (0x030 ≤ n) && decide (n ≤ 0x033))
    || n == 0x040 || n == 0x041 || n == 0x048 || (decide (0x050 ≤ n) && decide (n ≤ 0x053))
    || (decide (0x060 ≤ n) && decide (n ≤ 0x077)) || (decide (0x080 ≤ n) && decide (n ≤ 0x082)) || n == 0x090

/-- What an I-form instruction may hold in IMM32. -/
inductive ImmRule where
  | any
  | zero
  /-- A shift count of at most 31 (R60). -/
  | shift
  /-- A CSR number of R38 (R74). -/
  | csr
  deriving DecidableEq, Repr

def ImmRule.accepts : ImmRule → BitVec 32 → Bool
  | .any, _ => true
  | .zero, i => i == 0
  | .shift, i => decide (i.toNat ≤ 31)
  | .csr, i => csrListed i.toNat

structure IShape where
  d : OpClass := .zero
  a : OpClass := .zero
  ep : BitVec 1 := 0
  imm : ImmRule := .any

def IForm.fits (f : IForm) (sh : IShape) : Bool :=
  sh.d.accepts f.d && sh.a.accepts f.a && (f.ep &&& ~~~sh.ep) == 0 && sh.imm.accepts f.imm

/-- A branch takes two scalar sources (R71). -/
def BForm.wf (f : BForm) : Bool := OpClass.scalar.accepts f.a && OpClass.scalar.accepts f.b

/-- R45: SCOPE 7 is reserved; R80: a plain access has SCOPE 0. -/
def MForm.scopeOk (f : MForm) : Bool := decide (f.scope.toNat ≤ 6) && (f.ord != 0 || f.scope == 0)

/-- R80: hints only in the global space. -/
def MForm.hintsOk (f : MForm) : Bool := f.space == 0 || (f.evict == 0 && f.rdc == 0)

/-- R44: the register or registers that D names, by SIZE. `one` is the class for a single register. -/
def MForm.dataOk (f : MForm) (one : OpClass) : Bool :=
  if f.size.toNat ≤ 2 then one.accepts f.d
  else if f.size = 3 then f.d.isPair
  else if f.size = 4 then decide (f.d.toNat ≤ 60) && decide (f.d.toNat % 4 = 0)
  else f.size == 5 && decide (f.d.toNat ≤ 56) && decide (f.d.toNat % 8 = 0)

def MForm.wfLd (f : MForm) : Bool :=
  f.a.isPair && decide (f.size.toNat ≤ 5) && decide (f.ord.toNat ≤ 1) && f.scopeOk && f.hintsOk
    && f.dataOk .general && f.epD == 0

def MForm.wfLds (f : MForm) : Bool := f.wfLd && decide (f.size.toNat ≤ 3)

def MForm.wfSt (f : MForm) : Bool :=
  f.a.isPair && decide (f.size.toNat ≤ 5) && (f.ord == 0 || f.ord == 2) && f.scopeOk && f.hintsOk
    && f.dataOk .scalar

/-- What the three atomics share (R80): any ORD, any SCOPE but 7, SPACE 0 to 2. -/
def MForm.wfAtomic (f : MForm) : Bool := f.a.isPair && decide (f.scope.toNat ≤ 6) && decide (f.space.toNat ≤ 2)

/-- R46 and R87: the functions and sizes of each ATOM type. -/
def MForm.wfAtom (f : MForm) : Bool :=
  f.wfAtomic && f.dataOk .general && decide (f.evict.toNat ≤ 3)
    && (if f.evict = 0 then f.size == 2 || f.size == 3
        else (f.rdc == 0 || f.rdc == 4 || f.rdc == 5) && f.size == (if f.evict = 3 then 3 else 2))

def MForm.wfAswp (f : MForm) : Bool :=
  f.wfAtomic && f.dataOk .general && (f.size == 2 || f.size == 3) && f.evict == 0 && f.rdc == 0

def MForm.wfAcas (f : MForm) : Bool :=
  f.wfAtomic && f.evict == 0 && f.rdc == 0
    && ((f.size == 2 && f.d.isPair) || (f.size == 3 && decide (f.d.toNat ≤ 60) && decide (f.d.toNat % 4 = 0)))

def MForm.wfFence (f : MForm) : Bool :=
  f.ord != 0 && decide (f.scope.toNat ≤ 6) && f.d == 0 && f.a == 0 && f.space == 0 && f.epD == 0 && f.epA == 0
    && f.size == 0 && f.evict == 0 && f.rdc == 0 && f.off == 0

def MForm.wfPref (f : MForm) : Bool :=
  f.a.isPair && f.d == 0 && f.ord == 0 && f.scope == 0 && f.space == 0 && f.epD == 0 && f.size == 0

/-- R143: handle loads and stores. -/
def MForm.wfHandle (f : MForm) : Bool := f.a.isHandle && f.ord == 0 && f.scope == 0 && f.space == 0

def MForm.wfHld (f : MForm) : Bool :=
  f.wfHandle && decide (f.size.toNat ≤ 5) && f.dataOk .general && f.epD == 0
def MForm.wfHst (f : MForm) : Bool := f.wfHandle && decide (f.size.toNat ≤ 5) && f.dataOk .scalar

/-- R191: a view moved to or from memory. -/
def MForm.wfView (f : MForm) : Bool := f.d.isView && f.size == 0

def MForm.wfVld (f : MForm) : Bool :=
  f.wfView && f.a.isPair && decide (f.ord.toNat ≤ 1) && f.scopeOk && decide (f.space.toNat ≤ 2) && f.hintsOk
    && f.epD == 0
def MForm.wfVst (f : MForm) : Bool :=
  f.wfView && f.a.isPair && (f.ord == 0 || f.ord == 2) && f.scopeOk && decide (f.space.toNat ≤ 2) && f.hintsOk
def MForm.wfVldh (f : MForm) : Bool := f.wfView && f.wfHandle && f.epD == 0
def MForm.wfVsth (f : MForm) : Bool := f.wfView && f.wfHandle

structure VShape where
  d : OpClass := .zero
  a : OpClass := .zero
  b : OpClass := .zero
  c : OpClass := .zero
  ep : BitVec 3 := 0
  rnd : Nat := 0
  sat : BitVec 1 := 0
  sign : BitVec 1 := 0
  imm : BitVec 12 := 0

def VForm.fits (f : VForm) (sh : VShape) : Bool :=
  sh.d.accepts f.d && sh.a.accepts f.a && sh.b.accepts f.b && sh.c.accepts f.c
    && (f.ep &&& ~~~sh.ep) == 0 && decide (f.rnd.toNat ≤ sh.rnd) && (f.sat &&& ~~~sh.sat) == 0
    && (f.sign &&& ~~~sh.sign) == 0 && (f.imm &&& ~~~sh.imm) == 0

/-- What a tile instruction uses (R210). D is always a view; NOREC and K are used by all ten. -/
structure TShape where
  a : OpClass := .zero
  b : OpClass := .zero
  ep : BitVec 3 := 0
  /-- The number of TFN values. -/
  tfns : Nat := 1
  rnd : Bool := false
  sat : BitVec 1 := 0
  had : Nat := 0
  imm : BitVec 8 := 0

/-- POPx and SAVx belong to an operand: POPx needs a ring (R48), SAVx an operand that is used (R210). -/
def TForm.operandOk (cls : OpClass) (c : Code) (pop : BitVec 1) (sav : BitVec 2) : Bool :=
  cls.accepts c && (pop == 0 || c.isRing) && (sav == 0 || cls != .zero)

def TForm.fits (f : TForm) (sh : TShape) : Bool :=
  f.d.isView && TForm.operandOk sh.a f.a f.popA f.savA && TForm.operandOk sh.b f.b f.popB f.savB
    && (f.ep &&& ~~~sh.ep) == 0 && decide (f.tfn.toNat < sh.tfns) && (sh.rnd || f.rnd == 0)
    && (f.sat &&& ~~~sh.sat) == 0 && decide (f.had.toNat ≤ sh.had) && (f.imm &&& ~~~sh.imm) == 0

/-- R69: FCVT's codes. Codes 3, 6 and 7 occupy a pair, the others one register. -/
def fcvtWide (code : Nat) : Bool := code == 3 || code == 6 || code == 7

/-- A code of FCVT that is a floating format. -/
def fcvtFloat (code : Nat) : Bool := decide (2 ≤ code) && decide (code ≤ 5)

/-- R69: destination and source codes differ, one is a floating format, bits 7 and 3 are 0. -/
def RForm.wfFcvt (f : RForm) (fn : BitVec 8) : Bool :=
  let dst := (fn.extractLsb' 4 3).toNat
  let src := (fn.extractLsb' 0 3).toNat
  (fn &&& 0x88) == 0 && dst != src && (fcvtFloat dst || fcvtFloat src)
    && f.fits { d := if fcvtWide dst then .pair else .dest, a := if fcvtWide src then .pair else .scalar,
                ep := 1, rnd := 5 }

/-- The legal instructions: every field within its instruction's limits. A device step has no word and is always
well formed. SIGN = 1 on VROR, and on a float view in major 0x34, is accepted (DESIGN CHOICE, assumption 87). -/
def Instr.wf : Instr → Bool
  | .add f => f.fits { d := .dest, a := .scalar, b := .scalar, ep := 3 }
  | .sub f => f.fits { d := .dest, a := .scalar, b := .scalar, ep := 3 }
  | .and f => f.fits { d := .dest, a := .scalar, b := .scalar, ep := 3 }
  | .or f => f.fits { d := .dest, a := .scalar, b := .scalar, ep := 3 }
  | .xor f => f.fits { d := .dest, a := .scalar, b := .scalar, ep := 3 }
  | .shl f => f.fits { d := .dest, a := .scalar, b := .scalar, ep := 3 }
  | .shr f => f.fits { d := .dest, a := .scalar, b := .scalar, ep := 3 }
  | .sra f => f.fits { d := .dest, a := .scalar, b := .scalar, ep := 3 }
  | .slt f => f.fits { d := .dest, a := .scalar, b := .scalar, ep := 3 }
  | .sltb f => f.fits { d := .dest, a := .scalar, b := .scalar, ep := 3 }
  | .seq f => f.fits { d := .dest, a := .scalar, b := .scalar, ep := 3 }
  | .mul f => f.fits { d := .dest, a := .scalar, b := .scalar, ep := 3 }
  | .mulhb f => f.fits { d := .dest, a := .scalar, b := .scalar, ep := 3 }
  | .min f => f.fits { d := .dest, a := .scalar, b := .scalar, ep := 3 }
  | .max f => f.fits { d := .dest, a := .scalar, b := .scalar, ep := 3 }
  | .minb f => f.fits { d := .dest, a := .scalar, b := .scalar, ep := 3 }
  | .maxb f => f.fits { d := .dest, a := .scalar, b := .scalar, ep := 3 }
  | .addw f => f.fits { d := .pair, a := .pair, b := .pair, ep := 3 }
  | .subw f => f.fits { d := .pair, a := .pair, b := .pair, ep := 3 }
  | .addi f => f.fits { d := .dest, a := .scalar, ep := 1, imm := .any }
  | .andi f => f.fits { d := .dest, a := .scalar, ep := 1, imm := .any }
  | .ori f => f.fits { d := .dest, a := .scalar, ep := 1, imm := .any }
  | .xori f => f.fits { d := .dest, a := .scalar, ep := 1, imm := .any }
  | .shli f => f.fits { d := .dest, a := .scalar, ep := 1, imm := .shift }
  | .shri f => f.fits { d := .dest, a := .scalar, ep := 1, imm := .shift }
  | .srai f => f.fits { d := .dest, a := .scalar, ep := 1, imm := .shift }
  | .slti f => f.fits { d := .dest, a := .scalar, ep := 1, imm := .any }
  | .sltbi f => f.fits { d := .dest, a := .scalar, ep := 1, imm := .any }
  | .seqi f => f.fits { d := .dest, a := .scalar, ep := 1, imm := .any }
  | .muli f => f.fits { d := .dest, a := .scalar, ep := 1, imm := .any }
  | .addwi f => f.fits { d := .pair, a := .pair, ep := 1, imm := .any }
  | .movi f => f.fits { d := .dest, imm := .any }
  | .ld f => f.wfLd
  | .lds f => f.wfLds
  | .st f => f.wfSt
  | .beq f => f.wf
  | .bne f => f.wf
  | .blt f => f.wf
  | .bge f => f.wf
  | .bltb f => f.wf
  | .bgeb f => f.wf
  | .jal f => f.fits { d := .dest, imm := .any }
  | .jalr f => f.fits { d := .dest, a := .scalar, ep := 1, imm := .any }
  | .kend f => f.fits { imm := .zero }
  | .kmtr f => f.fits { d := .dest, a := .scalar, ep := 1, imm := .zero }
  | .trap f => f.fits { a := .scalar, ep := 1, imm := .any }
  | .div f => f.fits { d := .general, a := .scalar, b := .scalar, ep := 3 }
  | .divb f => f.fits { d := .general, a := .scalar, b := .scalar, ep := 3 }
  | .rem f => f.fits { d := .general, a := .scalar, b := .scalar, ep := 3 }
  | .remb f => f.fits { d := .general, a := .scalar, b := .scalar, ep := 3 }
  | .mulh f => f.fits { d := .dest, a := .scalar, b := .scalar, ep := 3 }
  | .clz f => f.fits { d := .dest, a := .scalar, ep := 1 }
  | .ctz f => f.fits { d := .dest, a := .scalar, ep := 1 }
  | .popc f => f.fits { d := .dest, a := .scalar, ep := 1 }
  | .rotl f => f.fits { d := .dest, a := .scalar, b := .scalar, ep := 3 }
  | .rotr f => f.fits { d := .dest, a := .scalar, b := .scalar, ep := 3 }
  | .bext f => f.fits { d := .dest, a := .scalar, b := .scalar, ep := 3 }
  | .bins f => f.fits { d := .dest, a := .scalar, b := .scalar, c := .scalar, ep := 7 }
  | .shlw f => f.fits { d := .pair, a := .pair, b := .scalar, ep := 3 }
  | .shrw f => f.fits { d := .pair, a := .pair, b := .scalar, ep := 3 }
  | .sraw f => f.fits { d := .pair, a := .pair, b := .scalar, ep := 3 }
  | .mulw f => f.fits { d := .pair, a := .pair, b := .pair, ep := 3 }
  | .mulwb f => f.fits { d := .pair, a := .pair, b := .pair, ep := 3 }
  | .sltw f => f.fits { d := .dest, a := .pair, b := .pair, ep := 3 }
  | .sltwb f => f.fits { d := .dest, a := .pair, b := .pair, ep := 3 }
  | .sel f => f.fits { d := .dest, a := .scalar, b := .scalar, c := .scalar, ep := 7 }
  | .faddF32 f => f.fits { d := .dest, a := .scalar, b := .scalar, ep := 3, rnd := 5 }
  | .fsubF32 f => f.fits { d := .dest, a := .scalar, b := .scalar, ep := 3, rnd := 5 }
  | .fmulF32 f => f.fits { d := .dest, a := .scalar, b := .scalar, ep := 3, rnd := 5 }
  | .ffmaF32 f => f.fits { d := .dest, a := .scalar, b := .scalar, c := .scalar, ep := 7, rnd := 5 }
  | .fdivF32 f => f.fits { d := .dest, a := .scalar, b := .scalar, ep := 3, rnd := 5 }
  | .fsqrtF32 f => f.fits { d := .dest, a := .scalar, ep := 1, rnd := 5 }
  | .fminF32 f => f.fits { d := .dest, a := .scalar, b := .scalar, ep := 3 }
  | .fmaxF32 f => f.fits { d := .dest, a := .scalar, b := .scalar, ep := 3 }
  | .fabsF32 f => f.fits { d := .dest, a := .scalar, ep := 1 }
  | .fnegF32 f => f.fits { d := .dest, a := .scalar, ep := 1 }
  | .feqF32 f => f.fits { d := .dest, a := .scalar, b := .scalar, ep := 3 }
  | .fltF32 f => f.fits { d := .dest, a := .scalar, b := .scalar, ep := 3 }
  | .fleF32 f => f.fits { d := .dest, a := .scalar, b := .scalar, ep := 3 }
  | .fclsF32 f => f.fits { d := .dest, a := .scalar, ep := 1 }
  | .faddF64 f => f.fits { d := .pair, a := .pair, b := .pair, ep := 3, rnd := 5 }
  | .fsubF64 f => f.fits { d := .pair, a := .pair, b := .pair, ep := 3, rnd := 5 }
  | .fmulF64 f => f.fits { d := .pair, a := .pair, b := .pair, ep := 3, rnd := 5 }
  | .ffmaF64 f => f.fits { d := .pair, a := .pair, b := .pair, c := .pair, ep := 7, rnd := 5 }
  | .fdivF64 f => f.fits { d := .pair, a := .pair, b := .pair, ep := 3, rnd := 5 }
  | .fsqrtF64 f => f.fits { d := .pair, a := .pair, ep := 1, rnd := 5 }
  | .fminF64 f => f.fits { d := .pair, a := .pair, b := .pair, ep := 3 }
  | .fmaxF64 f => f.fits { d := .pair, a := .pair, b := .pair, ep := 3 }
  | .fabsF64 f => f.fits { d := .pair, a := .pair, ep := 1 }
  | .fnegF64 f => f.fits { d := .pair, a := .pair, ep := 1 }
  | .feqF64 f => f.fits { d := .dest, a := .pair, b := .pair, ep := 3 }
  | .fltF64 f => f.fits { d := .dest, a := .pair, b := .pair, ep := 3 }
  | .fleF64 f => f.fits { d := .dest, a := .pair, b := .pair, ep := 3 }
  | .fclsF64 f => f.fits { d := .dest, a := .pair, ep := 1 }
  | .fcvt fn f => f.wfFcvt fn
  | .csrr f => f.fits { d := .dest, imm := .csr }
  | .csrw f => f.fits { d := .dest, a := .scalar, ep := 1, imm := .csr }
  | .csrs f => f.fits { d := .dest, a := .scalar, ep := 1, imm := .csr }
  | .csrc f => f.fits { d := .dest, a := .scalar, ep := 1, imm := .csr }
  | .eret f => f.fits { imm := .zero }
  | .brk f => f.fits { imm := .any }
  | .nop f => f.fits { imm := .zero }
  | .atom f => f.wfAtom
  | .aswp f => f.wfAswp
  | .acas f => f.wfAcas
  | .fence f => f.wfFence
  | .pref f => f.wfPref
  | .hnew f => f.fits { d := .handleFirst, a := .pair, b := .scalar, ep := 3 }
  | .hnewSp f => f.fits { d := .handleFirst, a := .pair, b := .scalar, ep := 3 }
  | .hcopy f => f.fits { d := .handle, a := .handle, ep := 1 }
  | .hdrop f => f.fits { a := .handle }
  | .hmove f => f.fits { d := .handle, a := .handle }
  | .hinfo f => f.fits { d := .pair, a := .handle }
  | .hwait f => f.fits { a := .handle, ep := 1 }
  | .hsend f => f.fits { a := .handle, b := .scalar, c := .scalar, ep := 6 }
  | .hrecv f => f.fits { d := .handle, a := .scalar, ep := 1 }
  | .hld f => f.wfHld
  | .hst f => f.wfHst
  | .qcfg f => f.fits { d := .ring, a := .octet, ep := 1 }
  | .qrsv f => f.fits { d := .handle, a := .ring, b := .scalar, ep := 2 }
  | .qpop f => f.fits { d := .handleOrZero, a := .ring }
  | .qstat f => f.fits { d := .pair, a := .ring }
  | .vadd f => f.fits { d := .view, a := .viewOrGeneral, b := .viewOrGeneral, ep := 3, rnd := 5, sat := 1 }
  | .vsub f => f.fits { d := .view, a := .viewOrGeneral, b := .viewOrGeneral, ep := 3, rnd := 5, sat := 1 }
  | .vmul f => f.fits { d := .view, a := .viewOrGeneral, b := .viewOrGeneral, ep := 3, rnd := 5, sat := 1 }
  | .vfma f => f.fits { d := .view, a := .viewOrGeneral, b := .viewOrGeneral, c := .viewOrGeneral, ep := 7, rnd := 5, sat := 1 }
  | .vmin f => f.fits { d := .view, a := .viewOrGeneral, b := .viewOrGeneral, ep := 3 }
  | .vmax f => f.fits { d := .view, a := .viewOrGeneral, b := .viewOrGeneral, ep := 3 }
  | .vabs f => f.fits { d := .view, a := .viewOrGeneral, ep := 1 }
  | .vneg f => f.fits { d := .view, a := .viewOrGeneral, ep := 1 }
  | .vrcp f => f.fits { d := .view, a := .viewOrGeneral, ep := 1, rnd := 5, sat := 1 }
  | .vrsq f => f.fits { d := .view, a := .viewOrGeneral, ep := 1, rnd := 5, sat := 1 }
  | .vexp2 f => f.fits { d := .view, a := .viewOrGeneral, ep := 1, rnd := 5, sat := 1 }
  | .vlog2 f => f.fits { d := .view, a := .viewOrGeneral, ep := 1, rnd := 5, sat := 1 }
  | .vtanh f => f.fits { d := .view, a := .viewOrGeneral, ep := 1, rnd := 5, sat := 1 }
  | .viadd f => f.fits { d := .view, a := .viewOrGeneral, b := .viewOrGeneral, ep := 3, sat := 1, sign := 1 }
  | .visub f => f.fits { d := .view, a := .viewOrGeneral, b := .viewOrGeneral, ep := 3, sat := 1, sign := 1 }
  | .vimul f => f.fits { d := .view, a := .viewOrGeneral, b := .viewOrGeneral, ep := 3, sat := 1, sign := 1 }
  | .vand f => f.fits { d := .view, a := .viewOrGeneral, b := .viewOrGeneral, ep := 3 }
  | .vor f => f.fits { d := .view, a := .viewOrGeneral, b := .viewOrGeneral, ep := 3 }
  | .vxor f => f.fits { d := .view, a := .viewOrGeneral, b := .viewOrGeneral, ep := 3 }
  | .vshl f => f.fits { d := .view, a := .viewOrGeneral, b := .viewOrGeneral, ep := 3 }
  | .vshr f => f.fits { d := .view, a := .viewOrGeneral, b := .viewOrGeneral, ep := 3 }
  | .vsra f => f.fits { d := .view, a := .viewOrGeneral, b := .viewOrGeneral, ep := 3 }
  | .vimin f => f.fits { d := .view, a := .viewOrGeneral, b := .viewOrGeneral, ep := 3, sign := 1 }
  | .vimax f => f.fits { d := .view, a := .viewOrGeneral, b := .viewOrGeneral, ep := 3, sign := 1 }
  | .vhash f => f.fits { d := .view, a := .viewOrGeneral, b := .viewOrGeneral, ep := 3, imm := 0xFFF }
  | .vlut f => f.fits { d := .view, a := .viewOrGeneral, b := .viewOrGeneral, ep := 3 }
  | .vidx f => f.fits { d := .view, a := .viewOrGeneral, ep := 1 }
  | .vcmp rel f => decide (rel.toNat ≤ 0xB) && f.fits { d := .maskDest, a := .viewOrGeneral, b := .viewOrGeneral, ep := 3 }
  | .vmov f => f.fits { d := .view, a := .viewOrGeneral, ep := 1 }
  | .vsel f => f.fits { d := .view, a := .viewOrGeneral, b := .viewOrGeneral, ep := 3 }
  | .vbcast f => f.fits { d := .view, a := .viewOrGeneral, ep := 1, imm := 0xFFF }
  | .vperm f => f.fits { d := .view, a := .viewOrGeneral, b := .viewOrGeneral, ep := 3 }
  | .vtrn f => f.fits { d := .view, a := .viewOrGeneral, ep := 1 }
  | .vrsum f => f.fits { d := .general, a := .viewOrGeneral, ep := 1, rnd := 5, sat := 1, sign := 1 }
  | .vrmin f => f.fits { d := .general, a := .viewOrGeneral, ep := 1, sign := 1 }
  | .vrmax f => f.fits { d := .general, a := .viewOrGeneral, ep := 1, sign := 1 }
  | .vrmini f => f.fits { d := .general, a := .viewOrGeneral, ep := 1, sign := 1 }
  | .vrmaxi f => f.fits { d := .general, a := .viewOrGeneral, ep := 1, sign := 1 }
  | .vror f => f.fits { d := .general, a := .viewOrGeneral, ep := 1, sign := 1 }
  | .vcvt f => f.fits { d := .view, a := .viewOrGeneral, ep := 1, rnd := 5, sat := 1 }
  | .vld f => f.wfVld
  | .vst f => f.wfVst
  | .vldh f => f.wfVldh
  | .vsth f => f.wfVsth
  | .vgath f => f.fits { d := .view, a := .pair, b := .viewOrGeneral, c := .mask, ep := 3 }
  | .vscat f => f.fits { d := .view, a := .pair, b := .viewOrGeneral, c := .mask, ep := 3 }
  | .vset fmt f => decide (fmt.toNat ≤ 0xC) && f.fits { d := .view, a := .scalar, b := .scalar, ep := 3 }
  | .mset f => f.fits { d := .maskDest, a := .pair, b := .pair, ep := 3 }
  | .tmma f => f.fits { a := .viewOrRing, b := .viewOrRing, ep := 7, tfns := 5, sat := 1, imm := 0xf }
  | .tmms f => f.fits { a := .viewOrRing, b := .viewOrRing, ep := 7, tfns := 5, sat := 1, imm := 0x3f } && f.imm.extractLsb' 4 2 != 3
  | .tadd f => f.fits { a := .viewOrRing, b := .viewOrRing, ep := 3, tfns := 1, rnd := true, sat := 1, imm := 0xff }
  | .temul f => f.fits { a := .viewOrRing, b := .viewOrRing, ep := 3, tfns := 1, rnd := true, sat := 1 }
  | .tact f => f.fits { a := .viewOrRing, ep := 1, tfns := 5, rnd := true, sat := 1 }
  | .ttrn f => f.fits { a := .view, ep := 1, tfns := 1 }
  | .tred f => f.fits { a := .viewOrRing, ep := 1, tfns := 4, rnd := true, sat := 1, imm := 0x3f } && (f.a.isRing || f.imm == 0)
  | .tcvt f => f.fits { a := .view, ep := 1, tfns := 1, rnd := true, sat := 1, had := 2, imm := 0x1 }
  | .tsmx f => f.fits { a := .viewOrRing, ep := 1, tfns := 1, rnd := true, sat := 1 }
  | .tzero f => f.fits { tfns := 1 }
  | .tfmt f => f.fits { d := .dest, a := .general, ep := 1 }
  | .trec f => f.fits { a := .scalar, ep := 1 }
  | .tlogb f => f.fits { a := .pair, b := .scalar, ep := 3 }
  | .tmark f => f.fits { d := .dest }
  | .trev f => f.fits { a := .scalar, ep := 1 }
  | .tgmapView f => f.fits { d := .view, a := .scalar, ep := 1 }
  | .tgmapDelta f => f.fits { a := .pair, ep := 1 }
  | .tlstat f => f.fits { d := .pair }
  | .cpy f => f.fits { a := .pair, b := .scalar, c := .any, ep := 3 }
  | .cpyh f => f.fits { d := .handle, a := .pair, b := .scalar, c := .any, ep := 3 }
  | .cpym f => f.fits { d := .handle, a := .pair, b := .scalar, c := .any, ep := 3 }
  | .send f => f.fits { a := .scalar, b := .scalar, ep := 3 }
  | .sendChannel ch f => ch != 0 && f.fits {}
  | .recv f => f.fits { d := .general, a := .scalar, b := .scalar, ep := 3 }
  | .fork f => f.fits { a := .octet, ep := 1, imm := .any }
  | .join f => f.fits { a := .pair, b := .scalar, ep := 3 }
  | .exit f => f.fits {}
  | .yield f => f.fits {}
  | .waitq f => f.fits { a := .pair, b := .scalar, c := .scalar, ep := 7 }
  | .evwt f => f.fits { a := .scalar, b := .scalar, ep := 3 }
  | .evsig f => f.fits { a := .scalar, b := .scalar, ep := 3 }
  | .evbar f => f.fits { a := .scalar, b := .scalar, ep := 3 }
  | .evlck f => f.fits { a := .scalar, b := .scalar, ep := 3 }
  | .evunl f => f.fits { a := .scalar, ep := 1 }
  | .landingFptrap => true
  | .meterExhausted => true
  | .loadValueLands => true
  | .divisionLands => true
  | .atomicPerformed => true
  | .hostAtomicopCompletion _ _ _ => true
  | .storePerformed => true
  | .atsCompletion _ _ => true
  | .priResponse _ _ => true
  | .atsInvalidation _ _ _ => true
  | .atsInvalidationComplete => true
  | .vectorWritesLand => true
  | .matrixGrant => true
  | .tileResultsLand => true
  | .heldSpanRelease => true
  | .ringSlotFrees => true
  | .copyStart => true
  | .copyFault => true
  | .copyCompletion => true
  | .messageEntersInbox => true
  | .eventMessageArrives => true
  | .barrierDeparture => true
  | .dieBarrierArrival => true
  | .boundedWaitExpiry => true
  | .waitWordReread => true
  | .taskStart => true
  | .dequeRefill => true
  | .stealAttempt => true
  | .stealAnswer => true
  | .startEvent => true
  | .quiescenceSample => true
  | .preemptSave => true
  | .contextRestore => true
  | .preemptTimeout => true
  | .poisonError _ => true
  | .uncontainedError _ _ => true
  | .intervalBoundary => true
  | .rollback => true
  | .partitionDrainReset => true
  | .diePortRefusal _ _ => true
  | .linkFrameIntegrityFail _ => true
  | .kick _ _ => true
  | .queueReset _ => true
  | .queueDrainComplete => true
  | .packetTake => true
  | .nopPacket => true
  | .launchLoad => true
  | .translatePacket => true
  | .loaderValidate => true
  | .copyPacket => true
  | .signalPacket => true
  | .barrierPacket => true
  | .barrierEvaluate => true
  | .hostSignalPoll => true
  | .timestampPacket => true
  | .provenancePacket => true
  | .packetEnd => true
  | .launchEnd => true
  | .launchPreempt => true
  | .frontEndPageWait _ _ => true
  | .watchdogExpiry => true
  | .createWorld => true
  | .destroyWorld => true
  | .offer => true
  | .reclaim => true
  | .force => true
  | .importPage => true
  | .setRoot => true
  | .createQueue => true
  | .destroyQueue => true
  | .setWindow => true
  | .clearWindow => true
  | .debugUnlock => true
  | .accept => true
  | .refuse => true
  | .exportPage => true
  | .spdmRequest _ _ => true
  | .linkDown => true
  | .functionLevelReset _ => true
  | .hotReset => true
  | .powerOnReset _ => true
  | .deviceReset => true
  | .firmwareUpdate => true
  | .frequencyClassChange => true
  | .throttle => true
  | .unthrottle => true
  | .retire => true
  | .liveMapChange => true
  | .debugFreeze => true
  | .fabricPathDown => true
  | .combineBufferForward => true
  | .reductionPerformed => true
  | .reductionAccepted => true
  | .registerWrite _ _ => true
  | .illegalInstruction => true
  | .portWordDelivery => true
  | .priReset _ => true
  | .hostLinkUp => true
  | .fabricPathFailure _ => true
  | .fabricPathRecovery _ => true
  | .correctedSoftError _ => true

end Sys2Proof
end

