-- ==== Sys2Proof/Decode.lean ====
section
/-! DEFINITION. The decoder and, after it, the encoder of instruction words. A word is taken apart by the form of its
major opcode (R42, R43), its major and function are looked up in the tables of R47, and the fields are checked
against Instr.wf. Every word that stands for no instruction is rejected by name; at the machine each rejection is the
ILLEGAL trap of R52, step 2. -/

namespace Sys2Proof

/-- Why a word stands for no instruction. -/
inductive Reject where
  /-- The bytes are fewer than the eight of a word. -/
  | tooShort
  /-- An unassigned major opcode (R47, R49). -/
  | unassignedMajor
  /-- A function value that R47 does not list. -/
  | unassignedFunction
  /-- A nonzero bit where the form has none (R43, R48). -/
  | reservedBits
  /-- A field value outside the instruction's limits (R24, R44 to R46, R48). -/
  | illegalField
  deriving DecidableEq, Repr

/-- The six forms (R43). -/
inductive FormKind where
  | rForm | iForm | bForm | mForm | vForm | tForm
  deriving DecidableEq, Repr

/-- The form of each assigned major opcode (R47). -/
def formOf : Nat → Option FormKind
  | 0x01 => some .rForm
  | 0x02 => some .iForm
  | 0x03 => some .mForm
  | 0x04 => some .mForm
  | 0x05 => some .mForm
  | 0x06 => some .bForm
  | 0x07 => some .iForm
  | 0x08 => some .iForm
  | 0x09 => some .iForm
  | 0x10 => some .rForm
  | 0x11 => some .rForm
  | 0x12 => some .rForm
  | 0x13 => some .iForm
  | 0x15 => some .iForm
  | 0x18 => some .mForm
  | 0x19 => some .mForm
  | 0x1A => some .mForm
  | 0x1B => some .mForm
  | 0x1C => some .mForm
  | 0x20 => some .rForm
  | 0x21 => some .rForm
  | 0x22 => some .rForm
  | 0x23 => some .rForm
  | 0x24 => some .mForm
  | 0x25 => some .mForm
  | 0x28 => some .rForm
  | 0x30 => some .vForm
  | 0x31 => some .vForm
  | 0x32 => some .vForm
  | 0x33 => some .vForm
  | 0x34 => some .vForm
  | 0x35 => some .vForm
  | 0x36 => some .mForm
  | 0x37 => some .mForm
  | 0x38 => some .rForm
  | 0x39 => some .rForm
  | 0x3A => some .mForm
  | 0x3B => some .mForm
  | 0x3C => some .rForm
  | 0x3D => some .rForm
  | 0x40 => some .tForm
  | 0x41 => some .tForm
  | 0x42 => some .tForm
  | 0x43 => some .tForm
  | 0x44 => some .tForm
  | 0x45 => some .tForm
  | 0x46 => some .tForm
  | 0x47 => some .tForm
  | 0x48 => some .tForm
  | 0x49 => some .tForm
  | 0x4A => some .rForm
  | 0x50 => some .rForm
  | 0x58 => some .rForm
  | 0x59 => some .rForm
  | 0x5A => some .rForm
  | 0x60 => some .iForm
  | 0x61 => some .rForm
  | 0x62 => some .rForm
  | _ => none

/-- A word taken apart: its form, its major, its function where the form has one, and its other fields. -/
inductive Parts where
  | r (op : BitVec 8) (fn : BitVec 8) (f : RForm)
  | i (op : BitVec 8) (fn : BitVec 7) (f : IForm)
  | b (fn : BitVec 7) (f : BForm)
  | m (op : BitVec 8) (f : MForm)
  | v (op : BitVec 8) (fn : BitVec 6) (f : VForm)
  | t (op : BitVec 8) (f : TForm)
  deriving DecidableEq, Repr

/-! ## Taking a word apart -/

/-- The unsigned field of n bits from bit lo (R55, f). -/
def fieldOf (w : DWord) (lo n : Nat) : BitVec n := w.extractLsb' lo n

def opOf (w : DWord) : BitVec 8 := fieldOf w 56 8

def readR (w : DWord) : Parts :=
  .r (opOf w) (fieldOf w 17 8)
    { d := fieldOf w 49 7, a := fieldOf w 42 7, b := fieldOf w 35 7, ep := fieldOf w 32 3, c := fieldOf w 25 7,
      rnd := fieldOf w 14 3 }

def readI (w : DWord) : Parts :=
  .i (opOf w) (fieldOf w 35 7)
    { d := fieldOf w 49 7, a := fieldOf w 42 7, ep := fieldOf w 32 1, imm := fieldOf w 0 32 }

def readB (w : DWord) : Parts :=
  .b (fieldOf w 49 7) { a := fieldOf w 42 7, b := fieldOf w 35 7, ep := fieldOf w 32 2, off := fieldOf w 0 32 }

def readM (w : DWord) : Parts :=
  .m (opOf w)
    { d := fieldOf w 49 7, a := fieldOf w 42 7, ord := fieldOf w 40 2, scope := fieldOf w 37 3,
      space := fieldOf w 35 2, epD := fieldOf w 34 1, epA := fieldOf w 33 1, size := fieldOf w 30 3,
      evict := fieldOf w 27 3, rdc := fieldOf w 24 3, off := fieldOf w 0 24 }

def readV (w : DWord) : Parts :=
  .v (opOf w) (fieldOf w 19 6)
    { d := fieldOf w 49 7, a := fieldOf w 42 7, b := fieldOf w 35 7, ep := fieldOf w 32 3, c := fieldOf w 25 7,
      k := fieldOf w 17 2, rnd := fieldOf w 14 3, sat := fieldOf w 13 1, sign := fieldOf w 12 1,
      imm := fieldOf w 0 12 }

def readT (w : DWord) : Parts :=
  .t (opOf w)
    { d := fieldOf w 49 7, a := fieldOf w 42 7, b := fieldOf w 35 7, ep := fieldOf w 32 3, tfn := fieldOf w 28 4,
      popA := fieldOf w 27 1, popB := fieldOf w 26 1, k := fieldOf w 24 2, savA := fieldOf w 22 2,
      savB := fieldOf w 20 2, had := fieldOf w 18 2, rnd := fieldOf w 16 2, sat := fieldOf w 15 1,
      noRec := fieldOf w 14 1, imm := fieldOf w 0 8 }

/-- The bits a form leaves zero (R43): the R-form's [13:0], the I-form's [34:33], the B-form's 34, the T-form's
[13:8]. -/
def reservedZero (k : FormKind) (w : DWord) : Bool :=
  match k with
  | .rForm => fieldOf w 0 14 == 0
  | .iForm => fieldOf w 33 2 == 0
  | .bForm => fieldOf w 34 1 == 0
  | .mForm => true
  | .vForm => true
  | .tForm => fieldOf w 8 6 == 0

def readParts (k : FormKind) (w : DWord) : Parts :=
  match k with
  | .rForm => readR w
  | .iForm => readI w
  | .bForm => readB w
  | .mForm => readM w
  | .vForm => readV w
  | .tForm => readT w

/-! ## The tables of R47 -/

/-- Major 0x01, R-form, by FN8 (R47). -/
def rTable01 : List (Option (RForm → Instr)) :=
  [some .add, some .sub, some .and, some .or, some .xor, some .shl, some .shr, some .sra,
   some .slt, some .sltb, some .seq, some .mul, some .mulhb, some .min, some .max, some .minb,
   some .maxb, some .addw, some .subw]

/-- Major 0x10, R-form, by FN8 (R47). -/
def rTable10 : List (Option (RForm → Instr)) :=
  [some .div, some .divb, some .rem, some .remb, some .mulh, some .clz, some .ctz, some .popc,
   some .rotl, some .rotr, some .bext, some .bins, some .shlw, some .shrw, some .sraw, some .mulw,
   some .mulwb, some .sltw, some .sltwb, some .sel]

/-- Major 0x11, the FP32 functions (R65). -/
def rTable11 : List (Option (RForm → Instr)) :=
  [some .faddF32, some .fsubF32, some .fmulF32, some .ffmaF32, some .fdivF32, some .fsqrtF32,
   some .fminF32, some .fmaxF32, some .fabsF32, some .fnegF32, some .feqF32, some .fltF32,
   some .fleF32, some .fclsF32]

/-- Major 0x11, the FP64 functions, from 0x80 on (R64). -/
def rTable11Wide : List (Option (RForm → Instr)) :=
  [some .faddF64, some .fsubF64, some .fmulF64, some .ffmaF64, some .fdivF64, some .fsqrtF64,
   some .fminF64, some .fmaxF64, some .fabsF64, some .fnegF64, some .feqF64, some .fltF64,
   some .fleF64, some .fclsF64]

/-- Major 0x20, R-form, by FN8 (R47). -/
def rTable20 : List (Option (RForm → Instr)) :=
  [some .hnew, some .hnewSp]

/-- Major 0x21, R-form, by FN8 (R47). -/
def rTable21 : List (Option (RForm → Instr)) :=
  [some .hcopy, some .hdrop, some .hmove, some .hinfo, some .hwait]

/-- Major 0x22, R-form, by FN8 (R47). -/
def rTable22 : List (Option (RForm → Instr)) :=
  [some .hsend]

/-- Major 0x23, R-form, by FN8 (R47). -/
def rTable23 : List (Option (RForm → Instr)) :=
  [some .hrecv]

/-- Major 0x28, R-form, by FN8 (R47). -/
def rTable28 : List (Option (RForm → Instr)) :=
  [some .qcfg, some .qrsv, some .qpop, some .qstat]

/-- Major 0x38, R-form, by FN8 (R47). -/
def rTable38 : List (Option (RForm → Instr)) :=
  [some .vgath]

/-- Major 0x39, R-form, by FN8 (R47). -/
def rTable39 : List (Option (RForm → Instr)) :=
  [some .vscat]

/-- Major 0x3D, R-form, by FN8 (R47). -/
def rTable3D : List (Option (RForm → Instr)) :=
  [some .mset]

/-- Major 0x4A, R-form, by FN8 (R47). -/
def rTable4A : List (Option (RForm → Instr)) :=
  [some .tfmt]

/-- Major 0x50 (R47); function 4, TGMAP, has two forms and is read apart (R256). -/
def rTable50 : List (Option (RForm → Instr)) :=
  [some .trec, some .tlogb, some .tmark, some .trev, none, some .tlstat]

/-- Major 0x58, R-form, by FN8 (R47). -/
def rTable58 : List (Option (RForm → Instr)) :=
  [some .cpy, some .cpyh, some .cpym]

/-- Major 0x5A, R-form, by FN8 (R47). -/
def rTable5A : List (Option (RForm → Instr)) :=
  [some .recv]

/-- Major 0x61, R-form, by FN8 (R47). -/
def rTable61 : List (Option (RForm → Instr)) :=
  [some .join, some .exit, some .yield, some .waitq]

/-- Major 0x62, R-form, by FN8 (R47). -/
def rTable62 : List (Option (RForm → Instr)) :=
  [some .evwt, some .evsig, some .evbar, some .evlck, some .evunl]

/-- Major 0x02, I-form, by FN7 (R47). -/
def iTable02 : List (Option (IForm → Instr)) :=
  [some .addi, none, some .andi, some .ori, some .xori, some .shli, some .shri, some .srai,
   some .slti, some .sltbi, some .seqi, some .muli, none, none, none, none, none, some .addwi,
   none, none, none, none, none, none, none, none, none, none, none, none, none, none, some .movi]

/-- Major 0x07, I-form, by FN7 (R47). -/
def iTable07 : List (Option (IForm → Instr)) :=
  [some .jal]

/-- Major 0x08, I-form, by FN7 (R47). -/
def iTable08 : List (Option (IForm → Instr)) :=
  [some .jalr]

/-- Major 0x09, I-form, by FN7 (R47). -/
def iTable09 : List (Option (IForm → Instr)) :=
  [some .kend, some .kmtr, some .trap]

/-- Major 0x13, I-form, by FN7 (R47). -/
def iTable13 : List (Option (IForm → Instr)) :=
  [some .csrr, some .csrw, some .csrs, some .csrc]

/-- Major 0x15, I-form, by FN7 (R47). -/
def iTable15 : List (Option (IForm → Instr)) :=
  [some .eret, some .brk, some .nop]

/-- Major 0x60, I-form, by FN7 (R47). -/
def iTable60 : List (Option (IForm → Instr)) :=
  [some .fork]

/-- Major 0x30, V-form, by FN6 (R47). -/
def vTable30 : List (Option (VForm → Instr)) :=
  [some .vadd, some .vsub, some .vmul, some .vfma, some .vmin, some .vmax, some .vabs, some .vneg,
   some .vrcp, some .vrsq, some .vexp2, some .vlog2, some .vtanh]

/-- Major 0x31, V-form, by FN6 (R47). -/
def vTable31 : List (Option (VForm → Instr)) :=
  [some .viadd, some .visub, some .vimul, some .vand, some .vor, some .vxor, some .vshl,
   some .vshr, some .vsra, some .vimin, some .vimax, some .vhash, some .vlut, some .vidx]

/-- Major 0x33, V-form, by FN6 (R47). -/
def vTable33 : List (Option (VForm → Instr)) :=
  [some .vmov, some .vsel, some .vbcast, some .vperm, some .vtrn]

/-- Major 0x34, V-form, by FN6 (R47). -/
def vTable34 : List (Option (VForm → Instr)) :=
  [some .vrsum, some .vrmin, some .vrmax, some .vrmini, some .vrmaxi, some .vror]

/-- Major 0x35, V-form, by FN6 (R47). -/
def vTable35 : List (Option (VForm → Instr)) :=
  [some .vcvt]

/-- Major 0x06, B-form, by FN7 (R71). -/
def bTable : List (Option (BForm → Instr)) :=
  [some .beq, some .bne, some .blt, some .bge, some .bltb, some .bgeb]

/-- The row of a table at a function value, applied to the form. -/
def lookup {α : Type} (table : List (Option (α → Instr))) (fn : Nat) (f : α) : Option Instr :=
  match table[fn]? with
  | some (some mk) => some (mk f)
  | _ => none

def instrOfR : Nat → Nat → RForm → Option Instr
  | 0x01, fn, f => lookup rTable01 fn f
  | 0x10, fn, f => lookup rTable10 fn f
  | 0x11, fn, f => if fn < 0x80 then lookup rTable11 fn f else lookup rTable11Wide (fn - 0x80) f
  | 0x12, fn, f => some (.fcvt (BitVec.ofNat 8 fn) f)
  | 0x20, fn, f => lookup rTable20 fn f
  | 0x21, fn, f => lookup rTable21 fn f
  | 0x22, fn, f => lookup rTable22 fn f
  | 0x23, fn, f => lookup rTable23 fn f
  | 0x28, fn, f => lookup rTable28 fn f
  | 0x38, fn, f => lookup rTable38 fn f
  | 0x39, fn, f => lookup rTable39 fn f
  | 0x3C, fn, f => some (.vset (BitVec.ofNat 8 fn) f)
  | 0x3D, fn, f => lookup rTable3D fn f
  | 0x4A, fn, f => lookup rTable4A fn f
  | 0x50, fn, f =>
    if fn = 4 then some (if f.d = 0 then .tgmapDelta f else .tgmapView f) else lookup rTable50 fn f
  | 0x58, fn, f => lookup rTable58 fn f
  | 0x59, fn, f => if fn = 0 then some (.send f) else some (.sendChannel (BitVec.ofNat 8 fn) f)
  | 0x5A, fn, f => lookup rTable5A fn f
  | 0x61, fn, f => lookup rTable61 fn f
  | 0x62, fn, f => lookup rTable62 fn f
  | _, _, _ => none

def instrOfI : Nat → Nat → IForm → Option Instr
  | 0x02, fn, f => lookup iTable02 fn f
  | 0x07, fn, f => lookup iTable07 fn f
  | 0x08, fn, f => lookup iTable08 fn f
  | 0x09, fn, f => lookup iTable09 fn f
  | 0x13, fn, f => lookup iTable13 fn f
  | 0x15, fn, f => lookup iTable15 fn f
  | 0x60, fn, f => lookup iTable60 fn f
  | _, _, _ => none

def instrOfV : Nat → Nat → VForm → Option Instr
  | 0x30, fn, f => lookup vTable30 fn f
  | 0x31, fn, f => lookup vTable31 fn f
  | 0x32, fn, f => some (.vcmp (BitVec.ofNat 6 fn) f)
  | 0x33, fn, f => lookup vTable33 fn f
  | 0x34, fn, f => lookup vTable34 fn f
  | 0x35, fn, f => lookup vTable35 fn f
  | _, _, _ => none

def instrOfM : Nat → MForm → Option Instr
  | 0x03, f => some (.ld f)
  | 0x04, f => some (.lds f)
  | 0x05, f => some (.st f)
  | 0x18, f => some (.atom f)
  | 0x19, f => some (.aswp f)
  | 0x1A, f => some (.acas f)
  | 0x1B, f => some (.fence f)
  | 0x1C, f => some (.pref f)
  | 0x24, f => some (.hld f)
  | 0x25, f => some (.hst f)
  | 0x36, f => some (.vld f)
  | 0x37, f => some (.vst f)
  | 0x3A, f => some (.vldh f)
  | 0x3B, f => some (.vsth f)
  | _, _ => none

def instrOfT : Nat → TForm → Option Instr
  | 0x40, f => some (.tmma f)
  | 0x41, f => some (.tmms f)
  | 0x42, f => some (.tadd f)
  | 0x43, f => some (.temul f)
  | 0x44, f => some (.tact f)
  | 0x45, f => some (.ttrn f)
  | 0x46, f => some (.tred f)
  | 0x47, f => some (.tcvt f)
  | 0x48, f => some (.tsmx f)
  | 0x49, f => some (.tzero f)
  | _, _ => none

/-- The instruction that a word's parts name (R47), its fields not yet checked. -/
def instrOfParts : Parts → Option Instr
  | .r op fn f => instrOfR op.toNat fn.toNat f
  | .i op fn f => instrOfI op.toNat fn.toNat f
  | .b fn f => lookup bTable fn.toNat f
  | .m op f => instrOfM op.toNat f
  | .v op fn f => instrOfV op.toNat fn.toNat f
  | .t op f => instrOfT op.toNat f

/-- The instruction a 64-bit word holds, or why it holds none. -/
def decode (w : DWord) : Except Reject Instr :=
  match formOf (opOf w).toNat with
  | none => .error .unassignedMajor
  | some k =>
    match instrOfParts (readParts k w) with
    | none => .error .unassignedFunction
    | some i =>
      if reservedZero k w then
        if i.wf then .ok i else .error .illegalField
      else .error .reservedBits

/-- A word of bytes, low byte first (R2). -/
def wordOfBytes : List Byte → Nat
  | [] => 0
  | b :: bs => b.toNat + 256 * wordOfBytes bs

/-- The low n bytes of a number, low byte first (R2). -/
def bytesOfWord : Nat → Nat → List Byte
  | 0, _ => []
  | n + 1, w => BitVec.ofNat 8 w :: bytesOfWord n (w / 256)

/-- The instruction at the head of a list of bytes, and the bytes after it (R42). -/
def decodeBytes (bs : List Byte) : Except Reject (Instr × List Byte) :=
  if bs.length < 8 then .error .tooShort
  else
    match decode (BitVec.ofNat 64 (wordOfBytes (bs.take 8))) with
    | .ok i => .ok (i, bs.drop 8)
    | .error r => .error r

/-- The instruction read from a word numbered as the opcode table numbers bits: one 64-bit word, stored
little-endian (R42), so bit 0 of the table is bit 0 of the word. The bits from nbits up are 0. -/
def decodeTableWord (nbits w : Nat) : Option Instr :=
  match decodeBytes (bytesOfWord 8 (w % 2 ^ nbits)) with
  | .ok (i, _) => some i
  | .error _ => none

/-! ## The encoder -/

/-- The parts of an instruction's word, from the encoding tables; a device step has no word. -/
def partsOf : Instr → Option Parts
  | .add f => some (.r 0x01 0x00 f)
  | .sub f => some (.r 0x01 0x01 f)
  | .and f => some (.r 0x01 0x02 f)
  | .or f => some (.r 0x01 0x03 f)
  | .xor f => some (.r 0x01 0x04 f)
  | .shl f => some (.r 0x01 0x05 f)
  | .shr f => some (.r 0x01 0x06 f)
  | .sra f => some (.r 0x01 0x07 f)
  | .slt f => some (.r 0x01 0x08 f)
  | .sltb f => some (.r 0x01 0x09 f)
  | .seq f => some (.r 0x01 0x0A f)
  | .mul f => some (.r 0x01 0x0B f)
  | .mulhb f => some (.r 0x01 0x0C f)
  | .min f => some (.r 0x01 0x0D f)
  | .max f => some (.r 0x01 0x0E f)
  | .minb f => some (.r 0x01 0x0F f)
  | .maxb f => some (.r 0x01 0x10 f)
  | .addw f => some (.r 0x01 0x11 f)
  | .subw f => some (.r 0x01 0x12 f)
  | .addi f => some (.i 0x02 0x00 f)
  | .andi f => some (.i 0x02 0x02 f)
  | .ori f => some (.i 0x02 0x03 f)
  | .xori f => some (.i 0x02 0x04 f)
  | .shli f => some (.i 0x02 0x05 f)
  | .shri f => some (.i 0x02 0x06 f)
  | .srai f => some (.i 0x02 0x07 f)
  | .slti f => some (.i 0x02 0x08 f)
  | .sltbi f => some (.i 0x02 0x09 f)
  | .seqi f => some (.i 0x02 0x0A f)
  | .muli f => some (.i 0x02 0x0B f)
  | .addwi f => some (.i 0x02 0x11 f)
  | .movi f => some (.i 0x02 0x20 f)
  | .ld f => some (.m 0x03 f)
  | .lds f => some (.m 0x04 f)
  | .st f => some (.m 0x05 f)
  | .beq f => some (.b 0 f)
  | .bne f => some (.b 1 f)
  | .blt f => some (.b 2 f)
  | .bge f => some (.b 3 f)
  | .bltb f => some (.b 4 f)
  | .bgeb f => some (.b 5 f)
  | .jal f => some (.i 0x07 0x00 f)
  | .jalr f => some (.i 0x08 0x00 f)
  | .kend f => some (.i 0x09 0x00 f)
  | .kmtr f => some (.i 0x09 0x01 f)
  | .trap f => some (.i 0x09 0x02 f)
  | .div f => some (.r 0x10 0x00 f)
  | .divb f => some (.r 0x10 0x01 f)
  | .rem f => some (.r 0x10 0x02 f)
  | .remb f => some (.r 0x10 0x03 f)
  | .mulh f => some (.r 0x10 0x04 f)
  | .clz f => some (.r 0x10 0x05 f)
  | .ctz f => some (.r 0x10 0x06 f)
  | .popc f => some (.r 0x10 0x07 f)
  | .rotl f => some (.r 0x10 0x08 f)
  | .rotr f => some (.r 0x10 0x09 f)
  | .bext f => some (.r 0x10 0x0A f)
  | .bins f => some (.r 0x10 0x0B f)
  | .shlw f => some (.r 0x10 0x0C f)
  | .shrw f => some (.r 0x10 0x0D f)
  | .sraw f => some (.r 0x10 0x0E f)
  | .mulw f => some (.r 0x10 0x0F f)
  | .mulwb f => some (.r 0x10 0x10 f)
  | .sltw f => some (.r 0x10 0x11 f)
  | .sltwb f => some (.r 0x10 0x12 f)
  | .sel f => some (.r 0x10 0x13 f)
  | .faddF32 f => some (.r 0x11 0x00 f)
  | .fsubF32 f => some (.r 0x11 0x01 f)
  | .fmulF32 f => some (.r 0x11 0x02 f)
  | .ffmaF32 f => some (.r 0x11 0x03 f)
  | .fdivF32 f => some (.r 0x11 0x04 f)
  | .fsqrtF32 f => some (.r 0x11 0x05 f)
  | .fminF32 f => some (.r 0x11 0x06 f)
  | .fmaxF32 f => some (.r 0x11 0x07 f)
  | .fabsF32 f => some (.r 0x11 0x08 f)
  | .fnegF32 f => some (.r 0x11 0x09 f)
  | .feqF32 f => some (.r 0x11 0x0A f)
  | .fltF32 f => some (.r 0x11 0x0B f)
  | .fleF32 f => some (.r 0x11 0x0C f)
  | .fclsF32 f => some (.r 0x11 0x0D f)
  | .faddF64 f => some (.r 0x11 0x80 f)
  | .fsubF64 f => some (.r 0x11 0x81 f)
  | .fmulF64 f => some (.r 0x11 0x82 f)
  | .ffmaF64 f => some (.r 0x11 0x83 f)
  | .fdivF64 f => some (.r 0x11 0x84 f)
  | .fsqrtF64 f => some (.r 0x11 0x85 f)
  | .fminF64 f => some (.r 0x11 0x86 f)
  | .fmaxF64 f => some (.r 0x11 0x87 f)
  | .fabsF64 f => some (.r 0x11 0x88 f)
  | .fnegF64 f => some (.r 0x11 0x89 f)
  | .feqF64 f => some (.r 0x11 0x8A f)
  | .fltF64 f => some (.r 0x11 0x8B f)
  | .fleF64 f => some (.r 0x11 0x8C f)
  | .fclsF64 f => some (.r 0x11 0x8D f)
  | .fcvt fn f => some (.r 0x12 fn f)
  | .csrr f => some (.i 0x13 0x00 f)
  | .csrw f => some (.i 0x13 0x01 f)
  | .csrs f => some (.i 0x13 0x02 f)
  | .csrc f => some (.i 0x13 0x03 f)
  | .eret f => some (.i 0x15 0x00 f)
  | .brk f => some (.i 0x15 0x01 f)
  | .nop f => some (.i 0x15 0x02 f)
  | .atom f => some (.m 0x18 f)
  | .aswp f => some (.m 0x19 f)
  | .acas f => some (.m 0x1A f)
  | .fence f => some (.m 0x1B f)
  | .pref f => some (.m 0x1C f)
  | .hnew f => some (.r 0x20 0x00 f)
  | .hnewSp f => some (.r 0x20 0x01 f)
  | .hcopy f => some (.r 0x21 0x00 f)
  | .hdrop f => some (.r 0x21 0x01 f)
  | .hmove f => some (.r 0x21 0x02 f)
  | .hinfo f => some (.r 0x21 0x03 f)
  | .hwait f => some (.r 0x21 0x04 f)
  | .hsend f => some (.r 0x22 0x00 f)
  | .hrecv f => some (.r 0x23 0x00 f)
  | .hld f => some (.m 0x24 f)
  | .hst f => some (.m 0x25 f)
  | .qcfg f => some (.r 0x28 0x00 f)
  | .qrsv f => some (.r 0x28 0x01 f)
  | .qpop f => some (.r 0x28 0x02 f)
  | .qstat f => some (.r 0x28 0x03 f)
  | .vadd f => some (.v 0x30 0x00 f)
  | .vsub f => some (.v 0x30 0x01 f)
  | .vmul f => some (.v 0x30 0x02 f)
  | .vfma f => some (.v 0x30 0x03 f)
  | .vmin f => some (.v 0x30 0x04 f)
  | .vmax f => some (.v 0x30 0x05 f)
  | .vabs f => some (.v 0x30 0x06 f)
  | .vneg f => some (.v 0x30 0x07 f)
  | .vrcp f => some (.v 0x30 0x08 f)
  | .vrsq f => some (.v 0x30 0x09 f)
  | .vexp2 f => some (.v 0x30 0x0A f)
  | .vlog2 f => some (.v 0x30 0x0B f)
  | .vtanh f => some (.v 0x30 0x0C f)
  | .viadd f => some (.v 0x31 0x00 f)
  | .visub f => some (.v 0x31 0x01 f)
  | .vimul f => some (.v 0x31 0x02 f)
  | .vand f => some (.v 0x31 0x03 f)
  | .vor f => some (.v 0x31 0x04 f)
  | .vxor f => some (.v 0x31 0x05 f)
  | .vshl f => some (.v 0x31 0x06 f)
  | .vshr f => some (.v 0x31 0x07 f)
  | .vsra f => some (.v 0x31 0x08 f)
  | .vimin f => some (.v 0x31 0x09 f)
  | .vimax f => some (.v 0x31 0x0A f)
  | .vhash f => some (.v 0x31 0x0B f)
  | .vlut f => some (.v 0x31 0x0C f)
  | .vidx f => some (.v 0x31 0x0D f)
  | .vcmp rel f => some (.v 0x32 rel f)
  | .vmov f => some (.v 0x33 0x00 f)
  | .vsel f => some (.v 0x33 0x01 f)
  | .vbcast f => some (.v 0x33 0x02 f)
  | .vperm f => some (.v 0x33 0x03 f)
  | .vtrn f => some (.v 0x33 0x04 f)
  | .vrsum f => some (.v 0x34 0x00 f)
  | .vrmin f => some (.v 0x34 0x01 f)
  | .vrmax f => some (.v 0x34 0x02 f)
  | .vrmini f => some (.v 0x34 0x03 f)
  | .vrmaxi f => some (.v 0x34 0x04 f)
  | .vror f => some (.v 0x34 0x05 f)
  | .vcvt f => some (.v 0x35 0x00 f)
  | .vld f => some (.m 0x36 f)
  | .vst f => some (.m 0x37 f)
  | .vldh f => some (.m 0x3A f)
  | .vsth f => some (.m 0x3B f)
  | .vgath f => some (.r 0x38 0x00 f)
  | .vscat f => some (.r 0x39 0x00 f)
  | .vset fmt f => some (.r 0x3C fmt f)
  | .mset f => some (.r 0x3D 0x00 f)
  | .tmma f => some (.t 0x40 f)
  | .tmms f => some (.t 0x41 f)
  | .tadd f => some (.t 0x42 f)
  | .temul f => some (.t 0x43 f)
  | .tact f => some (.t 0x44 f)
  | .ttrn f => some (.t 0x45 f)
  | .tred f => some (.t 0x46 f)
  | .tcvt f => some (.t 0x47 f)
  | .tsmx f => some (.t 0x48 f)
  | .tzero f => some (.t 0x49 f)
  | .tfmt f => some (.r 0x4A 0x00 f)
  | .trec f => some (.r 0x50 0x00 f)
  | .tlogb f => some (.r 0x50 0x01 f)
  | .tmark f => some (.r 0x50 0x02 f)
  | .trev f => some (.r 0x50 0x03 f)
  | .tgmapView f => some (.r 0x50 0x04 f)
  | .tgmapDelta f => some (.r 0x50 0x04 f)
  | .tlstat f => some (.r 0x50 0x05 f)
  | .cpy f => some (.r 0x58 0x00 f)
  | .cpyh f => some (.r 0x58 0x01 f)
  | .cpym f => some (.r 0x58 0x02 f)
  | .send f => some (.r 0x59 0x00 f)
  | .sendChannel ch f => some (.r 0x59 ch f)
  | .recv f => some (.r 0x5A 0x00 f)
  | .fork f => some (.i 0x60 0x00 f)
  | .join f => some (.r 0x61 0x00 f)
  | .exit f => some (.r 0x61 0x01 f)
  | .yield f => some (.r 0x61 0x02 f)
  | .waitq f => some (.r 0x61 0x03 f)
  | .evwt f => some (.r 0x62 0x00 f)
  | .evsig f => some (.r 0x62 0x01 f)
  | .evbar f => some (.r 0x62 0x02 f)
  | .evlck f => some (.r 0x62 0x03 f)
  | .evunl f => some (.r 0x62 0x04 f)
  | .landingFptrap => none
  | .meterExhausted => none
  | .loadValueLands => none
  | .divisionLands => none
  | .atomicPerformed => none
  | .hostAtomicopCompletion _ _ _ => none
  | .storePerformed => none
  | .atsCompletion _ _ => none
  | .priResponse _ _ => none
  | .atsInvalidation _ _ _ => none
  | .atsInvalidationComplete => none
  | .vectorWritesLand => none
  | .matrixGrant => none
  | .tileResultsLand => none
  | .heldSpanRelease => none
  | .ringSlotFrees => none
  | .copyStart => none
  | .copyFault => none
  | .copyCompletion => none
  | .messageEntersInbox => none
  | .eventMessageArrives => none
  | .barrierDeparture => none
  | .dieBarrierArrival => none
  | .boundedWaitExpiry => none
  | .waitWordReread => none
  | .taskStart => none
  | .dequeRefill => none
  | .stealAttempt => none
  | .stealAnswer => none
  | .startEvent => none
  | .quiescenceSample => none
  | .preemptSave => none
  | .contextRestore => none
  | .preemptTimeout => none
  | .poisonError _ => none
  | .uncontainedError _ _ => none
  | .intervalBoundary => none
  | .rollback => none
  | .partitionDrainReset => none
  | .diePortRefusal _ _ => none
  | .linkFrameIntegrityFail _ => none
  | .kick _ _ => none
  | .queueReset _ => none
  | .queueDrainComplete => none
  | .packetTake => none
  | .nopPacket => none
  | .launchLoad => none
  | .translatePacket => none
  | .loaderValidate => none
  | .copyPacket => none
  | .signalPacket => none
  | .barrierPacket => none
  | .barrierEvaluate => none
  | .hostSignalPoll => none
  | .timestampPacket => none
  | .provenancePacket => none
  | .packetEnd => none
  | .launchEnd => none
  | .launchPreempt => none
  | .frontEndPageWait _ _ => none
  | .watchdogExpiry => none
  | .createWorld => none
  | .destroyWorld => none
  | .offer => none
  | .reclaim => none
  | .force => none
  | .importPage => none
  | .setRoot => none
  | .createQueue => none
  | .destroyQueue => none
  | .setWindow => none
  | .clearWindow => none
  | .debugUnlock => none
  | .accept => none
  | .refuse => none
  | .exportPage => none
  | .spdmRequest _ _ => none
  | .linkDown => none
  | .functionLevelReset _ => none
  | .hotReset => none
  | .powerOnReset _ => none
  | .deviceReset => none
  | .firmwareUpdate => none
  | .frequencyClassChange => none
  | .throttle => none
  | .unthrottle => none
  | .retire => none
  | .liveMapChange => none
  | .debugFreeze => none
  | .fabricPathDown => none
  | .combineBufferForward => none
  | .reductionPerformed => none
  | .reductionAccepted => none
  | .registerWrite _ _ => none
  | .illegalInstruction => none
  | .portWordDelivery => none
  | .priReset _ => none
  | .hostLinkUp => none
  | .fabricPathFailure _ => none
  | .fabricPathRecovery _ => none
  | .correctedSoftError _ => none

def writeR (op : BitVec 8) (fn : BitVec 8) (f : RForm) : DWord :=
  op ++ f.d ++ f.a ++ f.b ++ f.ep ++ f.c ++ fn ++ f.rnd ++ (0 : BitVec 14)

def writeI (op : BitVec 8) (fn : BitVec 7) (f : IForm) : DWord :=
  op ++ f.d ++ f.a ++ fn ++ (0 : BitVec 2) ++ f.ep ++ f.imm

def writeB (fn : BitVec 7) (f : BForm) : DWord :=
  (0x06 : BitVec 8) ++ fn ++ f.a ++ f.b ++ (0 : BitVec 1) ++ f.ep ++ f.off

def writeM (op : BitVec 8) (f : MForm) : DWord :=
  op ++ f.d ++ f.a ++ f.ord ++ f.scope ++ f.space ++ f.epD ++ f.epA ++ f.size ++ f.evict ++ f.rdc ++ f.off

def writeV (op : BitVec 8) (fn : BitVec 6) (f : VForm) : DWord :=
  op ++ f.d ++ f.a ++ f.b ++ f.ep ++ f.c ++ fn ++ f.k ++ f.rnd ++ f.sat ++ f.sign ++ f.imm

def writeT (op : BitVec 8) (f : TForm) : DWord :=
  op ++ f.d ++ f.a ++ f.b ++ f.ep ++ f.tfn ++ f.popA ++ f.popB ++ f.k ++ f.savA ++ f.savB ++ f.had ++ f.rnd
    ++ f.sat ++ f.noRec ++ (0 : BitVec 6) ++ f.imm

def Parts.word : Parts → DWord
  | .r op fn f => writeR op fn f
  | .i op fn f => writeI op fn f
  | .b fn f => writeB fn f
  | .m op f => writeM op f
  | .v op fn f => writeV op fn f
  | .t op f => writeT op f

/-- The word of an instruction (R42, R43); a device step has none. -/
def encode (i : Instr) : Option DWord := (partsOf i).map Parts.word

end Sys2Proof
end

