-- ==== Sys2Proof/Machine/Assoc.lean ====
section
/-! DEFINITION. Sparse data by key, in one canonical form: a list of key and value pairs with rising keys and no entry
equal to what an unlisted key reads as. Register files, memories, queues of units and every other indexed part of the
state are held this way, so equal contents are equal data. What an unlisted key reads as is a function of the key,
given with each use. -/

namespace Sys2Proof.Machine

/-- Values by key. -/
abbrev Assoc (α : Type) := List (Nat × α)

/-- The value at a key: the listed one, or what an unlisted key reads as. -/
def Assoc.get {α : Type} (dflt : Nat → α) (m : Assoc α) (k : Nat) : α :=
  match m with
  | [] => dflt k
  | (k', v) :: rest => if k' = k then v else Assoc.get dflt rest k

/-- Whether a key is listed. -/
def Assoc.has {α : Type} (m : Assoc α) (k : Nat) : Bool := m.any (fun e => e.1 == k)

/-- The list without a key. -/
def Assoc.erase {α : Type} (m : Assoc α) (k : Nat) : Assoc α := m.filter (fun e => e.1 != k)

/-- A new pair in its place among rising keys. -/
def Assoc.insert {α : Type} (m : Assoc α) (k : Nat) (v : α) : Assoc α :=
  match m with
  | [] => [(k, v)]
  | (k', v') :: rest => if k < k' then (k, v) :: (k', v') :: rest else (k', v') :: Assoc.insert rest k v

/-- Write a value at a key. Writing what an unlisted key reads as removes the entry. -/
def Assoc.set {α : Type} [DecidableEq α] (dflt : Nat → α) (m : Assoc α) (k : Nat) (v : α) : Assoc α :=
  if v = dflt k then Assoc.erase m k else Assoc.insert (Assoc.erase m k) k v

/-- Rising keys. -/
def Assoc.rising {α : Type} : Assoc α → Bool
  | [] => true
  | [_] => true
  | a :: b :: rest => decide (a.1 < b.1) && Assoc.rising (b :: rest)

/-- The canonical form. -/
def Assoc.wf {α : Type} [DecidableEq α] (dflt : Nat → α) (m : Assoc α) : Bool :=
  Assoc.rising m && m.all (fun e => decide (e.2 ≠ dflt e.1))

/-- The listed value at a key, if any. -/
def Assoc.find {α : Type} (m : Assoc α) (k : Nat) : Option α :=
  match m with
  | [] => none
  | (k', v) :: rest => if k' = k then some v else Assoc.find rest k

/-- List a value at a key whatever it is: for tables in which every listed key exists and no other does. -/
def Assoc.put {α : Type} (m : Assoc α) (k : Nat) (v : α) : Assoc α := Assoc.insert (Assoc.erase m k) k v

/-- A function of every listed value, in canonical form. -/
def Assoc.mapVals {α : Type} [DecidableEq α] (dflt : Nat → α) (m : Assoc α) (f : α → α) : Assoc α :=
  (m.map (fun e => (e.1, f e.2))).filter (fun e => decide (e.2 ≠ dflt e.1))

end Sys2Proof.Machine
end

