-- ==== Sys2Proof/Machine/Parts.lean ====
section
/-! DEFINITION. The pieces of the machine's state: a slot's registers, a core, a cluster's shared units, memory and
what is in flight. Every piece is plain data. State.lean puts them together. -/

namespace Sys2Proof.Machine

/-! ## Trap causes (R354) -/

/-- The causes of a trap, and the packet statuses that share their codes. -/
inductive Cause where
  | illegal | priv | fetchb | align | page | prot | empty | poison | handle | abandon | waitx | deadlock | logfull
  | tformat | meter | confine | fptrap | trap | break | preempt | watchdog | abort | noport | integrity
  deriving DecidableEq, Repr

/-- The code of a cause (R354). -/
def Cause.code : Cause → Byte
  | .illegal => 0x01 | .priv => 0x02 | .fetchb => 0x03 | .align => 0x04 | .page => 0x05 | .prot => 0x06
  | .empty => 0x07 | .poison => 0x08 | .handle => 0x09 | .abandon => 0x0A | .waitx => 0x0B | .deadlock => 0x0C
  | .logfull => 0x0D | .tformat => 0x0E | .meter => 0x0F | .confine => 0x10 | .fptrap => 0x11 | .trap => 0x13
  | .break => 0x14 | .preempt => 0x15 | .watchdog => 0x16 | .abort => 0x17 | .noport => 0x18 | .integrity => 0x19

/-! ## Steps to come -/

/-- A step that is no slot's instruction, due at the end of a cycle: an act of the outside, or a step of the machine's
own with what it acts on. -/
structure Due where
  at_ : Nat
  step : Instr
  subject : List Nat := []
  deriving DecidableEq, Repr

/-! ## A slot -/

/-- The privilege mode of a slot (R6). Firmware mode belongs to the Curator and is never entered by a slot. -/
inductive Mode where
  | task
  | handler
  deriving DecidableEq, Repr

/-- A 32-bit value with its poison bit (R54). -/
structure Val where
  w : Word := 0
  poison : Bool := false
  deriving DecidableEq, Repr

/-- A 64-bit value with its poison bit: a pair (R55, rdp). -/
structure Val2 where
  w : DWord := 0
  poison : Bool := false
  deriving DecidableEq, Repr

/-- A general register: 32 bits with a full/empty bit and a poison bit (R25). -/
structure Reg where
  val : Word := 0
  full : Bool := true
  poison : Bool := false
  deriving DecidableEq, Repr

/-- A view register (R30). OWED is not held: it says whether a span is owed (R33). -/
structure View where
  fmt : BitVec 4 := 0
  cols1 : BitVec 6 := 0
  rows1 : BitVec 6 := 0
  stride : BitVec 16 := 0
  off : BitVec 16 := 0
  deriving DecidableEq, Repr

/-- A mask pair (R35). -/
structure MaskPair where
  ky : DWord := 0
  kx : DWord := 0
  deriving DecidableEq, Repr

/-- One slot of a ring (R145). -/
structure RingSlot where
  /-- The handle-table entry that stands for the slot. -/
  entry : Nat := 0
  /-- The slot is reserved and not popped: the ring holds its see handle. -/
  held : Bool := false
  /-- Popped and not yet free (DRAIN). -/
  drain : Bool := false
  /-- How many tile instructions are still reading the slot. -/
  readers : Nat := 0
  /-- Its see handle's word has been changed in a context buffer: it is stale (R356). -/
  broken : Bool := false
  /-- The cycle in which it last became FREE: a QRSV finds it so from the next cycle on (R21). -/
  freed : Option Nat := none
  deriving DecidableEq, Repr

/-- A ring register (R144, R145). -/
structure Ring where
  configured : Bool := false
  link : Bool := false
  base : Nat := 0
  slotBytes : Nat := 0
  nslot : Nat := 0
  members : BitVec 8 := 0
  mslot : Nat := 0
  mring : Nat := 0
  gbase : DWord := 0
  gstride : Word := 0
  h : Nat := 0
  t : Nat := 0
  res : Nat := 0
  slots : Assoc RingSlot := []
  deriving DecidableEq, Repr

/-- A place that holds bytes. -/
inductive Place where
  /-- Device DRAM, by physical address (R393). -/
  | dram
  /-- Host memory, by host address (R105). -/
  | host
  /-- A core's scratchpad, by offset. -/
  | scratchpad (core : Nat)
  /-- A core's operand arena, by offset: four windows of 64 KiB. -/
  | arena (core : Nat)
  /-- A translator run's window, by run and address (R291). -/
  | window (run : Nat)
  deriving DecidableEq, Repr

/-- A host page that is sent untranslated (R105): the page, its host address, and what the grant permits (R106). -/
structure OnceGrant where
  page : Nat
  base : Nat
  r : Bool
  w : Bool
  deriving DecidableEq, Repr

/-- A translation that waits for the host: the address, whether it is written, and for whom (R16, R105, R133). -/
structure TransReq where
  va : Nat
  write : Bool
  die : Nat
  world : Nat
  pasid : Option Nat
  deriving DecidableEq, Repr

/-- What a parked slot waits on: the values a WAITX or DEADLOCK trap would report (R277, R289). -/
structure Wait where
  /-- XVAL: the object waited on. -/
  xval : DWord := 0
  /-- XVAL2 of WAITX. -/
  xval2 : DWord := 0
  /-- XVAL2 of DEADLOCK (R289). -/
  reason : Byte := 0
  /-- The cycle limit of a bounded wait; none where the park has no limit. -/
  limit : Option Word := none
  /-- An armed host wake: a WAITQ on host memory, or an ATS or PRI request (R286). -/
  hostWake : Bool := false
  /-- The host translation awaited (R16). -/
  translate : Option TransReq := none
  /-- The word a JOIN or WAITQ waits on: its place and offset (R277). -/
  word : Option (Place × Nat) := none
  deriving DecidableEq, Repr

/-- A parked slot: what it waits on, and the cycle it first parked. -/
structure Parked where
  wait : Wait
  since : Nat
  /-- A JOIN or WAITQ: the value its word last read (R277). -/
  last : Option Word := none
  deriving DecidableEq, Repr

/-! ## Memory and accesses in flight -/

/-- Memory: the bytes written, and the bytes that are poisoned. A poisoned write poisons every byte of the sectors it
touches; a clean one clears the bytes it writes (R85). -/
structure Mem where
  cells : List (Nat × Byte) := []
  poison : Assoc Bool := []
  deriving DecidableEq, Repr

/-- Part of an access that is single-copy atomic: a place, an offset and a length (R96). -/
structure Piece where
  place : Place
  off : Nat
  len : Nat
  deriving DecidableEq, Repr

/-- A byte held in an L1 line. -/
structure LineByte where
  val : Byte
  dirty : Bool
  poison : Bool
  deriving DecidableEq, Repr

/-- A 256-byte line of an L1 (R91 to R93). Only valid bytes are listed, by offset in the line. -/
structure Line where
  bytes : Assoc LineByte := []
  evict : BitVec 3 := 0
  rdc : BitVec 3 := 0
  /-- Reads counted so far. -/
  reads : Nat := 0
  /-- When the line was used last, for replacement. -/
  used : Nat := 0
  /-- Sectors that a poisoned store has poisoned and that are not yet poisoned at home (R85). -/
  poisoned : List Nat := []
  /-- Slots whose stores have stood in the line, or that have read such bytes (R116, R121). -/
  marks : List Nat := []
  deriving DecidableEq, Repr

/-- What an atomic computes (R88, R89). -/
inductive AtomKind where
  /-- ATOM with its type and function. -/
  | op (type fn : BitVec 3)
  | swap
  | cas
  deriving DecidableEq, Repr

/-- Where a load's bytes go when they land. -/
inductive Dest where
  | none
  /-- n registers from a register index (as Slot.regs counts them); sign tells LDS, nb the bytes read. -/
  | regs (index n nb : Nat) (sign : Bool)
  /-- The bytes from an arena offset, as part of the result with this identity; or one nibble of a byte. -/
  | vector (id off : Nat)
  | nibble (id off : Nat) (high : Bool)
  deriving DecidableEq, Repr

inductive AccKind where
  | load
  | store
  /-- An atomic with its operands, low byte first. -/
  | atomic (k : AtomKind) (operand compare : List Byte) (poison : Bool)
  /-- A store of one nibble of a byte (R192). -/
  | nibble
  /-- A reduction waiting to be combined at its home (R98). -/
  | reduction (fn ty : BitVec 3) (operand : List Byte)
  deriving DecidableEq, Repr

/-- One access of a slot that is not finished, in program order (R84, R85, R88, R95). -/
structure Acc where
  id : Nat
  kind : AccKind
  ord : BitVec 2 := 0
  scope : Nat := 0
  /-- The bytes touched: several pieces where the access tears (R96). -/
  pieces : List Piece := []
  /-- A store's bytes, over its pieces in order. -/
  data : List Byte := []
  /-- A store's poison (R85). -/
  poison : Bool := false
  evict : BitVec 3 := 0
  rdc : BitVec 3 := 0
  dest : Dest := .none
  /-- A store is in the L1, and its pieces not yet at home remain. -/
  localDone : Bool := false
  /-- The VSCAT whose elements are performed in order (R193). -/
  chain : Option Nat := none
  /-- A load or atomic that has been performed and has not landed: the bytes and their poison. -/
  got : Option (List Byte × Bool) := none
  deriving DecidableEq, Repr

/-- An AtomicOp request to the host, whose slot is parked at the atomic until the completion returns (R90). -/
structure HostOp where
  id : Nat
  /-- The address of the access, and the host address. -/
  va : Nat
  piece : Piece
  kind : AtomKind
  operand : List Byte
  compare : List Byte
  poison : Bool
  ord : BitVec 2
  scope : Nat
  /-- The registers of D, empty until the atomic ends: the first index, and how many. -/
  index : Nat := 0
  regs : Nat := 0
  /-- The completion: its status, and the old bytes. -/
  answer : Option (HostStatus × List Byte × Bool) := none
  deriving DecidableEq, Repr

/-- A value owed to registers of a slot: a division or a message header (R63, R236). -/
structure Owed where
  id : Nat
  /-- The first register's index, as Slot.regs counts them. -/
  index : Nat
  vals : List Val
  deriving DecidableEq, Repr

/-- A record of the newest sixteen: its offset and the word DESCD (R245). -/
structure RecentRecord where
  off : Word
  descD : DWord
  deriving DecidableEq, Repr

/-- A floating value: a NaN, an infinity, or (−1)^neg · m · 2^e. -/
inductive FVal where
  | nan (signalling : Bool)
  | inf (neg : Bool)
  | fin (neg : Bool) (m : Nat) (e : Int)
  deriving DecidableEq, Repr

/-- What one gradient element takes: a value between two bounds, which are equal where it is known exactly. -/
structure Share where
  r : Nat
  c : Nat
  lo : FVal
  hi : FVal
  invalid : Bool := false
  poison : Bool := false
  deriving DecidableEq, Repr

/-- Where a gradient stands: in the arena, or in global memory, of which the pages are listed with their places. -/
structure Gradient where
  code : Code
  view : Bool
  base : Nat
  stride : Nat
  rows : Nat
  cols : Nat
  pages : List (Nat × Place × Nat) := []
  deriving DecidableEq, Repr

/-- What is left of the record at TRCUR, whose first request has been granted (R258): the record before it, and what its
second request still adds to the gradient of B, with its occupancy. -/
structure Reversal where
  prev : Word
  occ : Nat
  grad : Option Gradient
  shares : List Share
  deriving DecidableEq, Repr

/-- A slot (R20, R25 to R41). An unlisted part is at its task-start value. -/
structure Slot where
  occupied : Bool := false
  pc : Word := 0
  lastPc : Word := 0
  cbase : Word := 0
  cbound : Word := 0
  /-- The task's bounds while a handler runs (R351). -/
  taskBase : Word := 0
  taskBound : Word := 0
  mode : Mode := .task
  /-- STATUS.XLT: translator mode. -/
  xlt : Bool := false
  /-- g0 to g63 by number, and the handler's own g56 to g63 at 120 to 127 (R352). -/
  regs : Assoc Reg := []
  views : Assoc View := []
  masks : Assoc MaskPair := []
  handles : Assoc DWord := []
  rings : Assoc Ring := []
  xcause : Byte := 0
  xpc : Word := 0
  xval : DWord := 0
  xval2 : DWord := 0
  xinst : DWord := 0
  xsave : Word := 0
  fflags : BitVec 5 := 0
  fenable : BitVec 5 := 0
  frnd : BitVec 3 := 0
  mxc : Assoc Word := []
  tilec : DWord := 0
  retired : DWord := 0
  /-- The latched high words of CYCLE, RETIRED, TLBASE and GDELTA, by CSR number of the low word (R37). -/
  latched : Assoc (Option Word) := []
  /-- ARBASE.WIN. -/
  window : BitVec 2 := 0
  lut : Assoc Word := []
  trcEn : Bool := false
  trcSusp : Bool := false
  tlbase : DWord := 0
  tllim : Word := 0
  tltail : Word := 0
  trcur : Word := 0xFFFFFFFF
  gdelta : DWord := 0
  gvoff : Assoc (BitVec 16) := []
  recent : List RecentRecord := []
  /-- The second request of the record that TREV is at, still to be granted (R258). -/
  reversal : Option Reversal := none
  kmeter : Word := 0
  /-- The enabled flags whose landing has made an FPTRAP pending (R40); 0 where none is pending. -/
  fptrap : BitVec 5 := 0
  /-- The flags that have landed since, whether enabled or not: XVAL of that trap tells those then enabled (R40). -/
  landed : BitVec 5 := 0
  /-- The 13-bit format context word (R197, R198). -/
  tfmt : BitVec 13 := 0
  outbox : List Val := []
  /-- A FENCE at scope 6 holds later stores and loads until these cycles (R112). -/
  hioStores : Nat := 0
  hioLoads : Nat := 0
  /-- The task's CTRL word and join address (R265). -/
  ctrl : Word := 0
  jaddr : DWord := 0
  /-- The barrier whose arrival is recorded, while the slot waits to leave it (R282). -/
  arrived : Option Nat := none
  /-- Set when the barrier the slot waits at is complete, or failed with this code. -/
  depart : Option Byte := none
  parked : Option Parked := none
  /-- The first cycle in which the slot may issue (R268, R271). -/
  ready : Nat := 0
  /-- After YIELD: the other slots that were ready, each with its RETIRED and program counter, and the cycle that ends
  the hold (R275). -/
  yielded : Option (List (Nat × DWord × Word) × Nat) := none
  /-- An EVWT with KEEP 1 that waits has seen its line rise (R281). -/
  signalled : Bool := false
  /-- A matrix-unit request is posted, from this cycle (R195). -/
  request : Option Nat := none
  /-- The matrix unit has granted the posted request. -/
  granted : Bool := false
  /-- Accesses not finished, oldest first. -/
  accs : List Acc := []
  hostOp : Option HostOp := none
  owed : List Owed := []
  /-- The task has ended, and the slot is not yet free because values are still owed (R273). -/
  draining : Bool := false
  /-- The cycle at whose end data that the instruction reads at issue have arrived (R225). -/
  arrival : Option Nat := none
  /-- A host translation the slot waited on has failed: the page, the cause and the code (R16, R105, R106). -/
  atsFail : Option (Nat × Cause × Nat) := none
  /-- Untranslated-only grants for the accesses of the instruction that waits (R105). -/
  atsOnce : List OnceGrant := []
  /-- A routine of the emulation library runs (R309, R312): the words of its save area and their poison, as it left
  them. -/
  library : Option (List (Nat × Bool)) := none
  deriving DecidableEq, Repr

/-! ## A core -/

/-- A word in an incoming port FIFO; arrived tells that it can be popped (R28). -/
structure PortWord where
  val : Val
  arrived : Bool
  deriving DecidableEq, Repr

/-- A message (R229, R230). -/
inductive MsgKind where
  | data
  | completion
  | handle (word : DWord) (slot : Nat)
  deriving DecidableEq, Repr

structure Msg where
  kind : MsgKind := .data
  /-- The header word of R229 without LEN. -/
  header : Word := 0
  /-- The words not yet popped. -/
  words : List Val := []
  /-- How many words have been popped. -/
  popped : Nat := 0
  deriving DecidableEq, Repr

/-- A message that has left its sender and not entered its inbox (R235). -/
structure FlyingMsg where
  id : Nat
  msg : Msg
  /-- The sending slot: messages of one slot to one core keep their order. -/
  src : Nat
  /-- The destination core; of another package where one is named. -/
  dst : Nat
  remote : Option Nat := none
  lid : Nat
  /-- It waits in the network for a place in a full inbox. -/
  blocked : Bool := false
  deriving DecidableEq, Repr

/-- A task descriptor (R265). -/
structure TaskDesc where
  entry : Word := 0
  ctrl : Word := 0
  tile : Word := 0
  args : List Word := []
  jaddr : DWord := 0
  handles : List DWord := []
  deriving DecidableEq, Repr

/-- A descriptor in the spill area: the address its 64 bytes were written to, if that translated (R269). -/
structure Spilled where
  desc : TaskDesc
  va : Option Nat
  deriving DecidableEq, Repr

/-- A steal attempt in progress (R270). -/
structure Steal where
  /-- Candidates not yet answered; the first is the one asked. -/
  candidates : List Nat
  asked : Nat
  deriving DecidableEq, Repr

/-- A core (R19 to R23, R28 to R30). -/
structure Core where
  /-- The slot that issued last (R21). -/
  last : Nat := 3
  stage : BitVec 16 := 0
  /-- Incoming FIFOs of the four ports, oldest first, by direction 0 north to 3 west. -/
  ports : Assoc (List PortWord) := []
  /-- The cycle of the last pop of each port, and the words popped in it: their places are free from the next cycle on
  (R21). -/
  pops : Assoc (Nat × Nat) := []
  inbox : List Msg := []
  /-- The first pop has made a message of the inbox current: its position. -/
  current : Option Nat := none
  sendQueue : List FlyingMsg := []
  /-- Descriptors on chip, oldest first. -/
  deque : List TaskDesc := []
  /-- Descriptors in the spill area, oldest first. -/
  spilled : List Spilled := []
  steal : Option Steal := none
  /-- The cycle the last failed steal attempt ended, and whether the last attempt found none (R23, R270). -/
  stealEnd : Option Nat := none
  stealNone : Bool := false
  /-- The vector unit is busy up to this cycle (R170). -/
  vectorBusy : Nat := 0
  copySeq : BitVec 16 := 0
  /-- Identities of the core's copies whose completion message is owed, in order (R228). -/
  copies : List Nat := []
  lines : Assoc Line := []
  /-- Slots whose stores have stood in a line of the L1, or that have observed such, and those whose atomics have written it:
  what an acquire of the line passes on, whether or not the L1 holds it still (R116). -/
  stored : Assoc (List Nat) := []
  /-- The instruction buffer: blocks of 256 bytes of code, each with the cycle in which it arrives (R110). -/
  code : List (Nat × Nat) := []
  /-- When the thief that it last gave an entry to had asked (R290). -/
  gave : Option Nat := none
  /-- Pushes into this core's FIFOs park while its context is saved (R237). -/
  saved : Bool := false
  deriving DecidableEq, Repr

end Sys2Proof.Machine
end

