-- ==== Sys2Proof/Machine/Units.lean ====
section
/-! DEFINITION. The pieces of state that cores share: the event unit and the matrix unit of a cluster, the handle
table and the barriers of a die, spans of the arena and results on their way to it. -/

namespace Sys2Proof.Machine

/-! ## The event unit (R278 to R283) -/

/-- A barrier of a cluster (R282). -/
structure Barrier where
  /-- The slots (4k + s) that have arrived. -/
  arrived : List Nat := []
  /-- The values a and b of the first arrival. -/
  first : Option (Word × Word) := none
  /-- The cluster is complete and its arrival has been sent to the die barrier. -/
  sent : Bool := false
  deriving DecidableEq, Repr

/-- A mutex: its owner, and the cycle in which it was freed last: a waiter takes it from the next cycle on (R21,
R283). -/
structure Mutex where
  owner : Option Nat := none
  freed : Option Nat := none
  deriving DecidableEq, Repr

/-- A copy descriptor, checked (R222). -/
structure CopyDesc where
  src : Nat
  dst : Nat
  /-- Element bytes. -/
  esize : Nat
  counts : List Nat
  sstrides : List Int
  dstrides : List Int
  srcSpace : Nat
  dstSpace : Nat
  deriving DecidableEq, Repr

/-- A copy command (R225). -/
structure CopyCmd where
  id : Nat
  /-- The issuing slot. -/
  slot : Nat
  desc : CopyDesc
  /-- The value added to the source base. -/
  extra : Nat
  tag : Byte
  /-- The fill handle taken; 0 for CPY. -/
  word : DWord
  seq : BitVec 16
  lid : Nat
  pasid : Option Nat
  accepted : Nat
  deriving DecidableEq, Repr

/-- Bytes that a copy has read and not yet written: 8 bytes of a piece in host memory (R96). -/
structure CopyWrite where
  off : Nat
  bytes : List Byte
  poison : Bool
  /-- The world whose write it is. -/
  world : Nat
  deriving DecidableEq, Repr

/-- A copy in a running place (R221). -/
structure CopyRun where
  cmd : CopyCmd
  /-- The first cycle in which a byte lands: one read latency after the start; none before its first read (R221). -/
  lands : Option Nat := none
  /-- Writes to host memory still to be made. -/
  pending : List CopyWrite := []
  /-- The pieces not yet moved: ranges of piece numbers. -/
  remaining : List (Nat × Nat)
  /-- The fault that ends it, with the XVAL2 code (R227). -/
  fault : Option (Cause × Nat) := none
  ended : Bool := false
  /-- Its fill handle has been dropped. -/
  dropped : Bool := false
  /-- Its completion message has found the inbox full (R228). -/
  blocked : Bool := false
  deriving DecidableEq, Repr

/-- One cluster (R278, R195, R221). -/
structure Cluster where
  /-- Counts of the 32 event lines. -/
  lines : Assoc (BitVec 8) := []
  /-- Slots parked in a consuming EVWT, oldest first, by line (R281). -/
  lineWaiters : Assoc (List Nat) := []
  /-- Slots parked in an EVWT with KEEP 1, by line. -/
  keepWaiters : Assoc (List Nat) := []
  barriers : Assoc Barrier := []
  mutexes : Assoc Mutex := []
  /-- Slots parked in EVLCK, oldest first, by mutex (R283). -/
  mutexWaiters : Assoc (List Nat) := []
  /-- The matrix unit is busy up to this cycle (R195). -/
  matrixBusy : Nat := 0
  /-- The core granted last, and each core's slot granted last (R195). -/
  matrixCore : Nat := 3
  matrixSlot : Assoc Nat := []
  fused : Bool := false
  copyQueue : List CopyCmd := []
  copyRuns : List CopyRun := []
  deriving DecidableEq, Repr

/-- A die barrier: the clusters that have arrived, and CL and WLD of the first (R282). -/
structure DieBarrier where
  arrived : List Nat := []
  cl : Option Nat := none
  world : Bool := false
  sent : Bool := false
  deriving DecidableEq, Repr

/-- A signal on its way to an event line: an event message where it goes to another cluster (R280). -/
structure FlyingEvent where
  id : Nat
  cl : Nat
  line : Nat
  src : Nat
  lid : Nat
  /-- It is a message, counted as sent and received. -/
  counted : Bool
  deriving DecidableEq, Repr

/-! ## Tiles and handles (R126, R127) -/

inductive TileState where
  | open
  | published
  | abandoned
  deriving DecidableEq, Repr

/-- An entry of a die's handle table (R126). -/
structure Entry where
  /-- The entry is in use: a fill or a see handle of it lives, or a ring slot keeps it. -/
  used : Bool := false
  base : DWord := 0
  /-- Space 1: the scratchpad of the creating core. -/
  scratch : Bool := false
  core : Nat := 0
  len : DWord := 0
  state : TileState := .open
  fill : Bool := false
  sees : Nat := 0
  gen : BitVec 16 := 0
  /-- The ring register and slot number that keep the entry: slot identity, ring number, slot number. -/
  ring : Option (Nat × Nat × Nat) := none
  /-- The member entries of a joint reservation. -/
  members : List Nat := []
  /-- The cycle in which the tile was published or abandoned: a see access finds it so from the next cycle on (R21). -/
  settled : Option Nat := none
  /-- The world and launch of the task that created it: its page tables and PASID translate the tile (R133). -/
  world : Nat := 0
  lid : Nat := 0
  deriving DecidableEq, Repr

/-! ## Spans and results in flight (R33, R170, R196, R206) -/

/-- Bytes of an arena window that are owed, or held by the matrix unit as a view source. -/
structure Span where
  id : Nat
  /-- The slot that created it: its limit of eight counts the span (R33). -/
  slot : Nat
  core : Nat
  window : BitVec 2
  /-- First byte and byte past the last. -/
  lo : Nat
  hi : Nat
  /-- Held (a source being read, R206) rather than owed. -/
  held : Bool
  deriving DecidableEq, Repr

/-- What a vector or tile instruction still has to write. -/
structure Result where
  id : Nat := 0
  slot : Nat := 0
  /-- Bytes for the arena of a core, by offset in the arena, in the order written. -/
  core : Nat := 0
  writes : List (Nat × Byte) := []
  /-- Offsets in the arena whose sectors take poison, after the writes (R178). -/
  poisoned : List Nat := []
  /-- Registers to fill, by index. -/
  regs : List (Nat × Val) := []
  /-- Cycles from the last loaded element to the landing (R192). -/
  tail : Nat := 0
  /-- A mask pair to write. -/
  mask : Option (Nat × MaskPair) := none
  flags : BitVec 5 := 0
  /-- Additions to MXC0 to MXC3. -/
  counts : Assoc Nat := []
  /-- A selection block is written when the result lands (R243). -/
  selects : Bool := false
  deriving DecidableEq, Repr

end Sys2Proof.Machine
end

