-- ==== Sys2Proof/Machine/System.lean ====
section
/-! DEFINITION. The pieces of state outside the cores: translation, launches and translator runs, the front end's
queues and packets, the copy engines, and the Curator's worlds. -/

namespace Sys2Proof.Machine

/-! ## Translation (R16, R17, R99 to R109) -/

/-- An entry of a die's TLB, or of the micro-TLB of one of its cores (R103, R105, R109). -/
structure TlbEntry where
  /-- The core whose micro-TLB holds it; none for the die TLB. -/
  core : Option Nat := none
  /-- Displaced from the die TLB: it translates nothing any more, and what it has translated is still answered for when
  an invalidation comes (R17). -/
  gone : Bool := false
  die : Nat
  /-- The world whose tables filled it. -/
  world : Nat
  /-- A host entry: its PASID; none for a device page. -/
  pasid : Option Nat
  va : Nat
  size : Nat
  base : Nat
  r : Bool
  w : Bool
  deriving DecidableEq, Repr

/-- Who waits for a host translation. -/
inductive AtsUser where
  | slot (slot : Nat)
  | copy (id : Nat)
  | poisoning (id : Nat)
  | packet (pk : Nat)
  /-- The slots of a saved launch: a grant still fills the TLB (R107). -/
  | saved (lid : Nat)
  deriving DecidableEq, Repr

/-- An outstanding ATS or PRI request (R16, R105 to R107). -/
structure AtsReq where
  id : Nat
  die : Nat
  world : Nat
  pasid : Nat
  va : Nat
  /-- A write is wanted. -/
  write : Bool
  /-- The page request has been sent and not answered. -/
  pri : Bool := false
  /-- A page request with write access has been answered: a further lack of permission traps (R106). -/
  asked : Bool := false
  /-- The page request waits for one of the 1,024 places of R111. -/
  queued : Bool := false
  /-- An invalidation has overtaken it: its completion is discarded (R107). -/
  stale : Bool := false
  /-- The ATS request is with the host; else it waits for the invalidation to complete (R107). -/
  sent : Bool := true
  /-- Its users are gone, and what the host answers to the page request is dropped on arrival (R107). -/
  dropped : Bool := false
  users : List AtsUser := []
  /-- Those of its users that may write (R106). -/
  writers : List AtsUser := []
  deriving DecidableEq, Repr

/-- An ATS invalidation received and not completed (R17). -/
structure Invalidation where
  id : Nat
  /-- None for a global invalidation (R111). -/
  pasid : Option Nat
  va : Nat
  len : Nat
  /-- Accesses translated through a dropped entry and not yet performed: slot and access identity. -/
  waits : List (Nat × Nat)
  /-- Host frames that were mapped: their lines are flushed at completion. -/
  frames : List (Nat × Nat)
  deriving DecidableEq, Repr

/-! ## Worlds (R366 to R375) -/

/-- A frame that a confidential world holds (R374); asked while a RECLAIM waits for its answer. -/
structure Frame where
  pa : Nat
  /-- Page-size code (R102). -/
  size : Nat
  asked : Bool := false
  deriving DecidableEq, Repr

/-- The states of a TDISP interface (R376, R378). -/
inductive Tdisp where
  | unlocked
  | locked
  | run
  | error
  deriving DecidableEq, Repr

/-- A world (R371). World 0 has no seed, no frames of its own and no virtual function. -/
structure World where
  alive : Bool := false
  /-- The world record, 64 bytes (R371). -/
  record : List Byte := []
  vf : Nat := 0
  ptroot : Option Nat := none
  seed : Nat := 0
  /-- The handler image (R351). -/
  handler : List Byte := []
  /-- The interval period in cycles; none outside interval mode (R361). -/
  period : Option Nat := none
  /-- The undo log's MiB, and where the Curator has placed it on the world's dies. -/
  undo : Nat := 0
  undoBase : Nat := 0
  ckpt : Nat := 0
  frames : List Frame := []
  /-- Reduction windows: base, length and home package (R384). -/
  windows : List (Nat × Nat × Nat) := []
  /-- Outstanding exports: EID, VER and SIZE (R375). -/
  exports : List (Nat × Nat × Nat) := []
  exportCount : Nat := 0
  /-- SEQ of the next provenance record (R379). -/
  provSeq : Nat := 0
  /-- SEQ of the next notice (R373). -/
  noticeSeq : Nat := 0
  /-- The IDE session or the TDISP binding is lost (R107, R378). -/
  tdispError : Bool := false
  /-- An SPDM session and IDE keys stand (R376), and the state of the TDISP interface. -/
  session : Bool := false
  ide : Bool := false
  tdisp : Tdisp := .unlocked
  /-- Names the keys drawn at creation (R367). -/
  keys : Nat := 0
  /-- The cycle of the last interval boundary, and the rollbacks of the interval since (R361, R363). -/
  boundary : Nat := 0
  rolls : Nat := 0
  /-- RTAIL as the Curator has served it, as it has seen it last, and the first entry that it ignores (R373). -/
  served : Nat := 0
  seen : Nat := 0
  limit : Nat := 0
  deriving DecidableEq, Repr

/-- A stretch of an abandoned global tile that is still to be poisoned: for whom it is translated, the next address,
and the bytes left (R131). -/
structure Poisoning where
  id : Nat
  die : Nat
  world : Nat
  pasid : Option Nat
  va : Nat
  left : Nat
  deriving DecidableEq, Repr

/-! ## Launches and translator runs -/

/-- A translator run (R291, R298, R299), by its slot. Its windows stand in State.windows under the slot. -/
structure Run where
  /-- The TRANSLATE packet. -/
  pk : Nat
  world : Nat
  /-- Lengths of the four windows. -/
  catalogue : Nat
  input : Nat
  output : Nat
  scratch : Nat
  meter : Nat
  deriving DecidableEq, Repr

/-- Values of a trap that ends a launch or a packet (R341). -/
structure EndValues where
  status : Nat := 0
  code : Nat := 0
  xpc : Word := 0
  xval : DWord := 0
  xval2 : DWord := 0
  /-- It is a trap's in produced code: BPOS applies (R295). -/
  trap : Bool := false
  deriving DecidableEq, Repr

/-- A reduction on its way to its home (R98, R385): what it matches by, its operand, and the accesses it stands for. -/
structure Contribution where
  id : Nat
  world : Nat
  va : Nat
  /-- The bytes at home, where this package is the home. -/
  piece : Option Piece
  home : Nat
  len : Nat
  type : BitVec 3
  fn : BitVec 3
  operand : List Byte
  poison : Bool
  /-- The slot and access of each reduction merged in it. -/
  parts : List (Nat × Nat)
  /-- The router has accepted it. -/
  accepted : Bool := false
  /-- It stands in the combine buffer, since this cycle. -/
  held : Bool
  since : Nat := 0
  /-- It has left the router for its home. -/
  sent : Bool := false
  deriving DecidableEq, Repr

/-! ## The front end (R332 to R343) -/

/-- A hardware queue (R332, R333, R349). -/
structure Queue where
  wid : Nat := 0
  /-- The Curator's copy of the queue record, 64 bytes. -/
  record : List Byte := []
  ring : Nat := 0
  nslot : Nat := 0
  prio : Nat := 0
  pasid : Option Nat := none
  /-- The watchdog period in µs. -/
  wdog : Nat := 0
  kick : Word := 0
  ridx : Word := 0
  errStat : Nat := 0
  errIdx : Word := 0
  errSig : DWord := 0
  error : Bool := false
  draining : Bool := false
  /-- DESTROY_QUEUE has been accepted: the queue is removed once it has drained. -/
  destroying : Bool := false
  /-- The oldest unended packet, or the ring slot waited for, and how long it has been oldest (R349). -/
  oldest : Option (Nat × Nat) := none
  deriving DecidableEq, Repr

/-- A condition of a BARRIER (R326): the address of its signal, where that stands, the comparison and the threshold. -/
structure Cond where
  va : Nat
  place : Place
  off : Nat
  cmp : Nat
  thr : DWord
  deriving DecidableEq, Repr

/-- An entry of the accession cache (R314, R315). -/
structure Image where
  key : List Byte
  wid : Nat
  /-- The code image of R311. -/
  code : List Byte
  codeLen : Nat
  /-- Offset of the library; the image's length where nothing is emulated. -/
  lib : Nat
  emulates : Bool
  routes : List DWord
  place : List DWord
  backMap : List (Nat × Nat)
  cost : Nat
  ht : List Byte
  hc : List Byte
  hcode : List Byte
  /-- When it was used last. -/
  used : Nat
  deriving DecidableEq, Repr

/-- What step 1 of loading a LAUNCH has found (R347): the dies, the launch record, the image, the placement, the entry
tasks by slot, and the scratchpad items with their core, offset, source and length. -/
structure LoadPlan where
  dies : List Nat
  record : List Byte
  image : Image
  cores : List (Nat × Nat)
  entries : List (Nat × TaskDesc)
  items : List (Nat × Nat × Nat × Nat)
  deriving DecidableEq, Repr

/-- A packet that has been taken and has not ended (R336, R337). -/
structure Packet where
  id : Nat
  queue : Nat
  idx : Word
  wid : Nat
  pasid : Option Nat
  prio : Nat
  /-- The 128 bytes. -/
  bytes : List Byte
  type : Nat
  /-- When it was taken, and when its work began, in ns of the device time base. -/
  taken : Nat
  tstart : Nat := 0
  /-- It waits for the host to translate an address (R394). -/
  waiting : Bool := false
  /-- A LAUNCH or TRANSLATE that has its partition. -/
  working : Bool := false
  /-- Bytes of a COPY moved so far. -/
  done : Nat := 0
  conds : List Cond := []
  /-- When its host signals are read next (R344). -/
  poll : Nat := 0
  /-- What an evaluation of a BARRIER has decided: aborted by the signal at an address, or complete (R328). -/
  verdict : Option (Option Nat) := none
  /-- How the packet ends, once that is decided. -/
  result : Option EndValues := none
  dropt : Nat := 0
  bpos : Word := 0xFFFFFFFF
  cost : Nat := 0
  key : List Byte := []
  /-- The result record has been written, and the CSIG update is left (R345). -/
  recorded : Bool := false
  /-- The CSIG update has faulted, and the record is to be rewritten (R340). -/
  faulted : Bool := false
  /-- A LAUNCH of a world in interval mode whose boundary at its end has been taken (R361). -/
  released : Bool := false
  /-- The block of a COPY that is moved first (R226 names no order). -/
  first : Nat := 0
  /-- A LAUNCH has been checked and has asked for its frequency class (R347). -/
  plan : Option LoadPlan := none
  /-- The launch or run is over, and its provenance record is made (R348). -/
  proved : Bool := false
  /-- What the provenance record tells of the launch or run (R379). -/
  dies : List Nat := []
  ht : List Byte := []
  hcode : List Byte := []
  npoison : Nat := 0
  nroll : Nat := 0
  deriving DecidableEq, Repr

/-- A provenance record that the Curator holds (R343, R379). -/
structure ProvRecord where
  queue : Nat
  idx : Word
  bytes : List Byte
  deriving DecidableEq, Repr

/-- A notice in the host mailbox that a world has been destroyed, with its final record (R377). -/
structure HostNotice where
  wid : Nat
  reason : Nat
  record : List Byte
  deriving DecidableEq, Repr

/-- The Curator mailbox (R391), and the request in progress: its record's host address. -/
structure Mailbox where
  addr : DWord := 0
  done : Bool := false
  busy : Option Nat := none
  deriving DecidableEq, Repr

/-- What the SPDM responder answered last (R376): the function attested, the nonce, the measurements and the pair of
signatures over them. -/
structure Attestation where
  vf : Nat
  nonce : List Byte
  measurements : List (List Byte)
  signatures : List Byte
  deriving DecidableEq, Repr

/-- The health registers and what stands behind them (R386 to R391). -/
structure Health where
  dreq : Bool := false
  throt : Bool := false
  debug : Bool := false
  /-- Corrected and contained errors of each core: the times, in ns. -/
  contained : Assoc (List Nat) := []
  /-- Uncontained errors that name a core, and those that name a unit of a cluster: of cluster c the event unit at 2 c and
  the copy engine at 2 c + 1. -/
  cores : Assoc Nat := []
  clusters : Assoc Nat := []
  /-- Dies whose die-to-die ports have failed training. -/
  untrained : List Nat := []
  deriving DecidableEq, Repr

/-- What is held of a partition outside its context areas while its launch is saved, and at an interval boundary (R357,
R361). -/
structure Saved where
  cycle : Nat := 0
  /-- It is restored from what is held here, and not from context buffers: a checkpoint's (R363). -/
  whole : Bool := false
  /-- It is the checkpoint of a launch that was pre-empted at the boundary. -/
  away : Bool := false
  slots : Assoc Slot := []
  cores : Assoc Core := []
  clusters : Assoc Cluster := []
  handles : Assoc (Assoc Entry) := []
  barriers : Assoc (Assoc DieBarrier) := []
  arena : Assoc Mem := []
  scratch : Assoc Mem := []
  /-- A translator run and its windows (R298). -/
  runs : Assoc Run := []
  windows : Assoc Mem := []
  /-- Abandoned tiles of the world that were still being poisoned (R131). -/
  poisonings : List Poisoning := []
  flying : List FlyingMsg := []
  flyingEvents : List FlyingEvent := []
  /-- Messages of chained barriers that are on their way (R282). -/
  barrierMessages : List Due := []
  /-- The dies that have arrived at each world barrier. -/
  worldBarriers : Assoc (List Nat) := []
  sent : Nat := 0
  received : Nat := 0
  /-- A DEADLOCK had been delivered (R289). -/
  deadlock : Bool := false
  deriving DecidableEq, Repr

/-- A launch loaded on a partition (R347, R348). -/
structure Launch where
  lid : Nat
  pk : Nat
  world : Nat
  prio : Nat
  /-- The dies of the partition, in rising order: die index p is position p. -/
  dies : List Nat
  key : List Byte := []
  ident : Word := 0
  codeBase : Nat := 0
  codeLen : Nat := 0
  /-- Where the code proper ends: the emulation span runs from there to the end (R313). -/
  codeEnd : Nat := 0
  /-- The library's span within the code: first offset and length (R311, R312). -/
  libBase : Nat := 0
  libLen : Nat := 0
  backMap : List (Nat × Nat) := []
  ht : List Byte := []
  hcode : List Byte := []
  /-- The time of the start event, in ns. -/
  tstart : Nat := 0
  handler : Option (Nat × Nat) := none
  routes : Assoc DWord := []
  spill : DWord := 0
  ctx : DWord := 0
  preemptable : Bool := false
  pasid : Option Nat := none
  /-- The cycle of the start event; none before it. -/
  start : Option Nat := none
  started : Bool := false
  /-- Entry tasks placed and waiting for the start event. -/
  entries : List Nat := []
  sent : Nat := 0
  received : Nat := 0
  quietSince : Option Nat := none
  sample : Option (Nat × Nat × Nat) := none
  deadlock : Bool := false
  dropped : Nat := 0
  /-- The dies that have arrived at each world barrier (R282). -/
  barriers : Assoc (List Nat) := []
  /-- How the launch ends, once that is decided. -/
  ending : Option EndValues := none
  /-- That end is its completion (R288). -/
  completing : Bool := false
  /-- Pre-empted, with its context saved. -/
  saved : Bool := false
  /-- It is being restored. -/
  restoring : Bool := false
  /-- A pre-emption has been requested, at this cycle (R357, R358). -/
  preempting : Option Nat := none
  /-- The stop is an interval boundary's, not a pre-emption's (R361). -/
  checkpointing : Bool := false
  /-- Every core is ready, and the save has begun. -/
  saving : Bool := false
  held : Saved := {}
  checkpoint : Option Saved := none
  /-- Counts of poison errors and rollbacks for its provenance record (R379). -/
  npoison : Nat := 0
  nroll : Nat := 0
  deriving DecidableEq, Repr

end Sys2Proof.Machine
end

