-- ==== Sys2Proof/Machine/State.lean ====
section
/-! DEFINITION. The whole state of the package, its fixed reasons for a stop, and the state after reset. -/

namespace Sys2Proof.Machine

/-- One die (R5, R387). -/
structure Die where
  wid : Nat := 0
  valid : Bool := true
  /-- The frequency class in force, the one asked for, and the fastest that throttling allows (R387). -/
  fclass : Nat := 0
  wanted : Nat := 0
  ceiling : Option Nat := none
  barriers : Assoc DieBarrier := []
  handles : Assoc Entry := []
  deriving DecidableEq, Repr

/-- The state of the machine. Every indexed part is sparse: an unlisted index is at its reset value. -/
structure State where
  /-- Cycles since reset. -/
  cycle : Nat := 0
  /-- The core that issues next in this cycle, and how many of its slots have been examined. -/
  turn : Nat := 0
  tried : Nat := 0
  /-- The end of the cycle has begun: no slot issues in it any more. -/
  closing : Bool := false
  /-- Steps that come before any slot issues in this cycle. -/
  early : List Due := []
  /-- The slot whose instruction is being run. -/
  cur : Nat := 0
  /-- Identities of accesses, results, requests and packets, rising. -/
  nextId : Nat := 0
  /-- How many free values have been drawn (Config). -/
  draws : Nat := 0
  /-- Steps to come that are no instruction's, by the cycle at whose end they run. -/
  agenda : List Due := []
  /-- What the step taken from the agenda acts on. -/
  subject : List Nat := []
  slots : Assoc Slot := []
  cores : Assoc Core := []
  clusters : Assoc Cluster := []
  dies : Assoc Die := []
  /-- Device DRAM, as the sealing engines decrypt it where a confidential world owns it (R367). -/
  dram : Mem := {}
  /-- How often each line of a confidential world has been written back: its version (R367). -/
  versions : Assoc Nat := []
  /-- Host memory as the device sees it: bytes listed in commit the host still sees as they were. -/
  hostMem : Mem := {}
  scratch : Assoc Mem := []
  arena : Assoc Mem := []
  windows : Assoc Mem := []
  tlb : List TlbEntry := []
  /-- Cycles that the translations of the running instruction have taken (R109). -/
  lag : Nat := 0
  ats : List AtsReq := []
  invalidations : List Invalidation := []
  spans : List Span := []
  results : List Result := []
  flying : List FlyingMsg := []
  flyingEvents : List FlyingEvent := []
  launches : Assoc Launch := []
  /-- Storage of abandoned tiles still to be poisoned (R131). -/
  poisonings : List Poisoning := []
  /-- Cores that the live map in force shows as retired, and the retirement record (R307, R316, R389). -/
  deadCores : List Nat := []
  retiredCores : List Nat := []
  worlds : Assoc World := []
  runs : Assoc Run := []
  /-- Reductions that have left their slots and are not performed (R98, R385). -/
  contributions : List Contribution := []
  /-- Fabric paths that are down, by package, with the time they failed (R383, R392). -/
  pathsDown : Assoc Nat := []
  /-- Packages that cannot be reached over the fabric (R383). -/
  unreachable : List Nat := []
  /-- The time since the last device reset, in units of 1/4284 ns: every frequency class has a whole period (R341,
  R387). -/
  time : Nat := 0
  queues : Assoc Queue := []
  /-- Packets taken and not ended, oldest first. -/
  packets : List Packet := []
  /-- The time from which the front end may take its next packet (R336). -/
  nextTake : Nat := 0
  /-- The queue served last, by priority (R336). -/
  served : Assoc Nat := []
  /-- Failures, and grants for one access, that host requests have brought copies, poisonings and packets: for whom, the
  page, and the cause and code or the host address (R105, R394). -/
  hostFails : List (AtsUser × Nat × Cause × Nat) := []
  hostOnce : List (AtsUser × OnceGrant) := []
  nextLid : Nat := 0
  /-- The number of the next launch identifier (R39): it goes on over resets. -/
  nextIdent : Nat := 0
  images : List Image := []
  provs : List ProvRecord := []
  mailbox : Mailbox := {}
  notices : List HostNotice := []
  attestation : Option Attestation := none
  health : Health := {}
  /-- Dies that the live map in force shows as retired, and the retirement record. -/
  deadDies : List Nat := []
  retiredDies : List Nat := []
  /-- World 0's queues kept over a firmware update (R381): the number, the saved bytes, whether the queue is being
  destroyed, and what the front end knows of the waiting BARRIERs besides their bytes. -/
  savedQueues : List (Nat × List Byte × Bool × List Packet) := []
  /-- A firmware update waits for the packets taken to end (R381). -/
  updating : Bool := false
  /-- Bytes of host memory written by worlds in interval mode and not yet released: the world, the address, and the byte
  that the host still sees, with its poison (R362). -/
  commit : List (Nat × Nat × Byte × Bool) := []
  /-- Functions whose page requests all fail since a Response Failure (R107). -/
  priFailed : List Nat := []
  hostDown : Bool := false
  frozen : Bool := false
  /-- PKGID (R391). -/
  pkgid : Byte := 0
  /-- How many firmware updates there have been (R381). -/
  firmware : Nat := 0
  /-- Worlds in interval mode (R361): STATUS.IVL. -/
  intervalWorlds : List Nat := []
  /-- The undo log (R362): the world, the line number, the old image and its poison, newest first. -/
  undo : List (Nat × Nat × List (Byte × Bool)) := []
  deriving DecidableEq, Repr

inductive Fault where
  /-- The package is frozen by DEBUG_FREEZE: no clock runs, and no further step exists (R390). Raised by step.
  Safe: the spec gives a frozen package no further step. -/
  | frozen
  deriving DecidableEq, Repr

inductive Refusal where
  /-- The instruction has no meaning in the model yet. Raised by exec. Safe. -/
  | notModelled (mnemonic : String)
  deriving DecidableEq, Repr

def State.reset : State := {}

end Sys2Proof.Machine
end

