-- ==== Sys2Proof/Machine/Bytes.lean ====
section
/-! DEFINITION. Memory as bytes (R2): one byte read and written, runs of bytes, little-endian words, and the poison of
64-byte sectors. A byte that nothing has written reads as zero. -/

namespace Sys2Proof.Machine

def byteDefault (_ : Nat) : Byte := 0
def poisonDefault (_ : Nat) : Bool := false

/-- The canonical form of a memory: rising addresses, no byte equal to what an unlisted address reads as, and the same
of its poisoned sectors. -/
def Mem.wf (m : Mem) : Bool := Assoc.wf byteDefault m.cells && Assoc.wf poisonDefault m.poison

def Mem.byte (m : Mem) (a : Nat) : Byte := Assoc.get byteDefault m.cells a
def Mem.setByte (m : Mem) (a : Nat) (v : Byte) : Mem := { m with cells := Assoc.set byteDefault m.cells a v }

/-- n bytes from an address. -/
def Mem.bytes (m : Mem) (a : Nat) : Nat → List Byte
  | 0 => []
  | n + 1 => m.byte a :: m.bytes (a + 1) n

def Mem.setBytes (m : Mem) (a : Nat) : List Byte → Mem
  | [] => m
  | b :: bs => (m.setByte a b).setBytes (a + 1) bs

/-- Whether a byte is poisoned. -/
def Mem.poisonAt (m : Mem) (a : Nat) : Bool := m.poison.get poisonDefault a

/-- Any of n bytes from an address is poisoned (R84). -/
def Mem.poisonIn (m : Mem) (a n : Nat) : Bool := (List.range n).any (fun i => m.poisonAt (a + i))

/-- Poison, or clear, n bytes from an address. -/
def Mem.setPoison (m : Mem) (a n : Nat) (p : Bool) : Mem :=
  (List.range n).foldl (fun m i => { m with poison := m.poison.set poisonDefault (a + i) p }) m

/-- Write one byte with its poison. -/
def Mem.putByte (m : Mem) (a : Nat) (v : Byte) (poison : Bool) : Mem := (m.setByte a v).setPoison a 1 poison

/-- The first byte of the sector of an address, and the bytes of every sector that n bytes touch. -/
def sectorBase (a : Nat) : Nat := a / 64 * 64
def sectorSpan (a n : Nat) : Nat := sectorBase (a + n - 1) + 64 - sectorBase a

/-- Poison every sector that n bytes from an address touch. -/
def Mem.poisonSectors (m : Mem) (a n : Nat) : Mem := m.setPoison (sectorBase a) (sectorSpan a n) true

/-- Write bytes (R85): a poisoned write poisons the sectors it touches; a clean one clears the bytes it writes. -/
def Mem.write (m : Mem) (a : Nat) (bs : List Byte) (poison : Bool) : Mem :=
  let m := m.setBytes a bs
  if bs.isEmpty then m
  else if poison then m.poisonSectors a bs.length else m.setPoison a bs.length false

/-- A little-endian number of n bytes (R2). -/
def Mem.word (m : Mem) (a n : Nat) : Nat := wordOfBytes (m.bytes a n)

/-- The entries of a list within a range, moved to another place. -/
def Assoc.shifted {α : Type} (m : Assoc α) (off n a : Nat) : Assoc α :=
  (m.filter (fun e => decide (off ≤ e.1) && decide (e.1 < off + n))).map (fun e => (e.1 - off + a, e.2))

/-- A list with the entries of a range replaced by those of another list's range of the same length. -/
def Assoc.splice {α : Type} (m : Assoc α) (a n : Nat) (src : Assoc α) (off : Nat) : Assoc α :=
  m.filter (fun e => decide (e.1 < a)) ++ src.shifted off n a ++ m.filter (fun e => decide (a + n ≤ e.1))

/-- n bytes and their poison, copied from another memory. -/
def Mem.copyIn (m : Mem) (a n : Nat) (src : Mem) (off : Nat) : Mem :=
  { cells := Assoc.splice m.cells a n src.cells off, poison := Assoc.splice m.poison a n src.poison off }

/-- n bytes set to zero, without poison. -/
def Mem.clear (m : Mem) (a n : Nat) : Mem := m.copyIn a n {} 0

/-- The listed bytes of a block, from an address. -/
def listed (a : Nat) : List Byte → Assoc Byte
  | [] => []
  | b :: bs => if b = 0 then listed (a + 1) bs else (a, b) :: listed (a + 1) bs

/-- A memory that holds a block from address 0 on. -/
def memoryOf (bs : List Byte) : Mem := { cells := listed 0 bs }

/-- A block written, without poison. -/
def Mem.overwrite (m : Mem) (a : Nat) (bs : List Byte) : Mem := m.copyIn a bs.length (memoryOf bs) 0

/-! ## The code arena (R110, R393) -/

/-- The DRAM of a die begins here. -/
def dieBase (die : Nat) : Nat := die * 0x1000000000

/-- The physical address of a code-arena offset of a die. -/
def codeAddress (die off : Nat) : Nat := dieBase die + 0xAC0000000 + off

/-- The word that a slot of a die fetches at a program counter (R110). -/
def State.codeWord (s : State) (die : Nat) (pc : Word) : DWord :=
  BitVec.ofNat 64 (s.dram.word (codeAddress die pc.toNat) 8)

/-- R42: whether a fetch at the program counter is legal. -/
def Slot.fetchLegal (sl : Slot) : Bool :=
  decide (sl.pc.toNat % 8 = 0) && decide (sl.cbase.toNat ≤ sl.pc.toNat) && decide (sl.pc.toNat < sl.cbound.toNat)

end Sys2Proof.Machine
end

