-- ==== Sys2Proof/Machine/Ops.lean ====
section
/-! DEFINITION. The operations every meaning is built from: reading and writing the parts of the state, running an
instruction as one indivisible step that retires, traps or parks (R54), taking a trap (R55, R351 to R353) and
returning from one (R77). -/

namespace Sys2Proof.Machine

abbrev Outcome := Host.Outcome State Fault Refusal

/-! ## Where things stand (R19)

A core is numbered die · 288 + y · 18 + x over the package, a slot core · 4 + s, a cluster die · 72 + c. -/

def coresPerDie : Nat := 288
def clustersPerDie : Nat := 72
def dieCount : Nat := 8

def coreOfSlot (slot : Nat) : Nat := slot / 4
def slotNumber (slot : Nat) : Nat := slot % 4
def dieOfCore (core : Nat) : Nat := core / 288
def numberOfCore (core : Nat) : Nat := core % 288
def xOfCore (core : Nat) : Nat := core % 288 % 18
def yOfCore (core : Nat) : Nat := core % 288 / 18

/-- The core at a position of a die. -/
def coreAt (die x y : Nat) : Nat := die * 288 + y * 18 + x

/-- The cluster of a core: cluster c stands at columns 2 · (c mod 9) and rows 2 · (c div 9). -/
def clusterOfCore (core : Nat) : Nat := dieOfCore core * 72 + yOfCore core / 2 * 9 + xOfCore core / 2

/-- k: the core's number within its cluster. -/
def coreInCluster (core : Nat) : Nat := yOfCore core % 2 * 2 + xOfCore core % 2

def dieOfCluster (cl : Nat) : Nat := cl / 72

/-- Core k of a cluster. -/
def coreOfCluster (cl k : Nat) : Nat :=
  coreAt (cl / 72) (2 * (cl % 72 % 9) + k % 2) (2 * (cl % 72 / 9) + k / 2)

def distance (a b : Nat) : Nat := (a - b) + (b - a)

/-- Manhattan distance between the positions of two cores, whichever dies they stand on. -/
def hops (a b : Nat) : Nat := distance (xOfCore a) (xOfCore b) + distance (yOfCore a) (yOfCore b)

/-- Directions of the mesh: 0 north, 1 east, 2 south, 3 west. -/
def oppositeDir (dir : Nat) : Nat := (dir + 2) % 4

/-- The neighbour in a direction; none beyond the die edge (R28). -/
def neighbour (core dir : Nat) : Option Nat :=
  let x := xOfCore core
  let y := yOfCore core
  match dir with
  | 0 => if y = 0 then none else some (core - 18)
  | 1 => if x = 17 then none else some (core + 1)
  | 2 => if y = 15 then none else some (core + 18)
  | 3 => if x = 0 then none else some (core - 1)
  | _ => none

/-! ## The parts of the state -/

/-- A slot at its task-start values: its arena window is its own number (R30). -/
def slotDefault (slot : Nat) : Slot := { window := BitVec.ofNat 2 slot }

def coreDefault (_ : Nat) : Core := {}
def clusterDefault (_ : Nat) : Cluster := {}
def dieDefault (_ : Nat) : Die := {}

def State.slot (s : State) (k : Nat) : Slot := s.slots.get slotDefault k
def State.core (s : State) (k : Nat) : Core := s.cores.get coreDefault k
def State.cluster (s : State) (k : Nat) : Cluster := s.clusters.get clusterDefault k
def State.die (s : State) (k : Nat) : Die := s.dies.get dieDefault k

def State.setSlot (s : State) (k : Nat) (v : Slot) : State := { s with slots := s.slots.set slotDefault k v }
def State.setCore (s : State) (k : Nat) (v : Core) : State := { s with cores := s.cores.set coreDefault k v }
def State.setCluster (s : State) (k : Nat) (v : Cluster) : State :=
  { s with clusters := s.clusters.set clusterDefault k v }
def State.setDie (s : State) (k : Nat) (v : Die) : State := { s with dies := s.dies.set dieDefault k v }

def State.modSlot (s : State) (k : Nat) (f : Slot → Slot) : State := s.setSlot k (f (s.slot k))
def State.modCore (s : State) (k : Nat) (f : Core → Core) : State := s.setCore k (f (s.core k))
def State.modCluster (s : State) (k : Nat) (f : Cluster → Cluster) : State := s.setCluster k (f (s.cluster k))
def State.modDie (s : State) (k : Nat) (f : Die → Die) : State := s.setDie k (f (s.die k))

/-- The slot whose instruction is being run. -/
def State.me (s : State) : Slot := s.slot s.cur
def State.setMe (s : State) (v : Slot) : State := s.setSlot s.cur v
def State.myCore (s : State) : Nat := coreOfSlot s.cur
def State.myDie (s : State) : Nat := dieOfCore (coreOfSlot s.cur)

/-- The launch that runs on a die, its context not saved. -/
def State.launchOn (s : State) (die : Nat) : Option Launch :=
  (s.launches.find? (fun e => e.2.dies.contains die && !e.2.saved)).map Prod.snd

/-- A launch is saved: what is on its way to its partition waits for it (R235, R278). -/
def State.launchSaved (s : State) (lid : Nat) : Bool := (s.launches.find lid).any (fun l => l.saved)

def State.modLaunch (s : State) (lid : Nat) (f : Launch → Launch) : State :=
  match s.launches.find lid with
  | none => s
  | some l => { s with launches := s.launches.put lid (f l) }

/-- Put a step on the agenda, after every entry due no later. -/
def agendaInsert (d : Due) : List Due → List Due
  | [] => [d]
  | e :: rest => if d.at_ < e.at_ then d :: e :: rest else e :: agendaInsert d rest

/-- A step comes due at the end of the given cycle. -/
def State.schedule (s : State) (due : Nat) (i : Instr) (subject : List Nat := []) : State :=
  { s with agenda := agendaInsert { at_ := due, step := i, subject := subject } s.agenda }

/-! ## Time (R341, R387) -/

/-- The clock period of a frequency class in units of 1/4284 ns. -/
def classPeriod (fclass : Nat) : Nat :=
  ([5040, 5355, 5712, 6120, 7140, 8568, 10710, 4760] : List Nat).getD fclass 5040

/-- The period of a cycle of the package: that of its slowest die. -/
def State.period (s : State) : Nat :=
  ((List.range dieCount).map (fun d => classPeriod (s.die d).fclass)).foldl max 0

/-- Nanoseconds of the device time base. -/
def State.now (s : State) : Nat := s.time / 4284

/-- The least number of cycles that last a number of nanoseconds. -/
def State.cyclesFor (s : State) (ns : Nat) : Nat := (ns * 4284 + s.period - 1) / s.period

/-! ## One indivisible step (R54)

A meaning is a function of the state that ends normally, or stops with a trap or a park. A stop drops every change
the meaning had made. -/

inductive Stop where
  | trap (cause : Cause) (val val2 : DWord)
  | park (w : Wait)
  /-- A park that keeps what the meaning has done: an arrival, a place in a queue, a word that was read. -/
  | wait (w : Wait) (s : State)
  deriving DecidableEq, Repr

abbrev Act (α : Type) := StateT State (Except Stop) α

def Act.trap {α : Type} (cause : Cause) (val val2 : DWord) : Act α := fun _ => .error (.trap cause val val2)
def Act.park {α : Type} (w : Wait) : Act α := fun _ => .error (.park w)
def Act.wait {α : Type} (w : Wait) : Act α := fun s => .error (.wait w s)
def Act.state : Act State := fun s => .ok (s, s)
def Act.modify (f : State → State) : Act Unit := fun s => .ok ((), f s)
def Act.me : Act Slot := fun s => .ok (s.me, s)
def Act.modMe (f : Slot → Slot) : Act Unit := fun s => .ok ((), s.setMe (f s.me))

/-- A check goes through: it stops nothing and changes nothing. -/
def Act.passes {α : Type} (a : Act α) (s : State) : Prop := ∃ x, a s = .ok (x, s)

/-- Trap when a condition holds. -/
def Act.trapIf (c : Bool) (cause : Cause) (val val2 : DWord) : Act Unit :=
  if c then Act.trap cause val val2 else pure ()

def Act.parkIf (c : Bool) (w : Wait) : Act Unit := if c then Act.park w else pure ()

/-- A fresh identity. -/
def Act.fresh : Act Nat := fun s => .ok (s.nextId, { s with nextId := s.nextId + 1 })

/-- The index of the next free value. -/
def Act.draw : Act Nat := fun s => .ok (s.draws, { s with draws := s.draws + 1 })

def Act.schedule (due : Nat) (i : Instr) (subject : List Nat := []) : Act Unit :=
  Act.modify (fun s => s.schedule due i subject)

/-! ## Waiting in the event unit (R281 to R283) -/

def queueDefault (_ : Nat) : List Nat := []
def barrierDefault (_ : Nat) : Barrier := {}

def dieBarrierDefault (_ : Nat) : DieBarrier := {}

def Barrier.without (b : Barrier) (k : Nat) : Barrier :=
  if b.arrived.contains k then
    let left := b.arrived.filter (fun x => x != k)
    { arrived := left, first := if left.isEmpty then none else b.first, sent := false }
  else b

def DieBarrier.without (b : DieBarrier) (cl : Nat) : DieBarrier :=
  let left := b.arrived.filter (fun x => x != cl)
  if left.isEmpty then {} else { b with arrived := left, sent := false }

/-- A slot withdraws from a barrier whose cluster has arrived at the die barrier: so does its cluster, and its die from
the world barrier. -/
def State.withdrawCluster (s : State) (k : Nat) : State :=
  let cl := clusterOfCore (coreOfSlot k)
  let die := dieOfCluster cl
  let bars := ((s.cluster cl).barriers.filter (fun e => e.2.sent && e.2.arrived.contains k)).map Prod.fst
  bars.foldl (fun s n =>
    let world := ((s.die die).barriers.get dieBarrierDefault n).sent
    let s := s.modDie die (fun d => { d with
      barriers := d.barriers.set dieBarrierDefault n ((d.barriers.get dieBarrierDefault n).without cl) })
    match s.launchOn die with
    | some l => if world then s.modLaunch l.lid (fun l => { l with
        barriers := l.barriers.set queueDefault n ((l.barriers.get queueDefault n).filter (fun x => x != die)) }) else s
    | none => s) s

/-- A slot gives up its places in the queues of the event unit. -/
def State.leaveWaits (s : State) (k : Nat) : State :=
  let s := s.modCluster (clusterOfCore (coreOfSlot k)) (fun c =>
    { c with
      lineWaiters := c.lineWaiters.mapVals queueDefault (fun q => q.filter (fun x => x != k))
      keepWaiters := c.keepWaiters.mapVals queueDefault (fun q => q.filter (fun x => x != k))
      mutexWaiters := c.mutexWaiters.mapVals queueDefault (fun q => q.filter (fun x => x != k)) })
  s.modSlot k (fun sl => { sl with signalled := false })

/-- An EVBAR arrival that has not departed is withdrawn (R282). -/
def State.withdrawArrival (s : State) (k : Nat) : State :=
  let s := (s.withdrawCluster k).modCluster (clusterOfCore (coreOfSlot k)) (fun c =>
    { c with barriers := c.barriers.mapVals barrierDefault (fun b => b.without k) })
  s.modSlot k (fun sl => { sl with arrived := none, depart := none })

/-- A slot that is killed leaves the event unit. -/
def State.leaveQueues (s : State) (k : Nat) : State := (s.withdrawArrival k).leaveWaits k

/-- A slot that traps gives up its places; a DEADLOCK, or a barrier that has failed, withdraws its arrival too (R282). -/
def State.leaveFor (s : State) (k : Nat) (cause : Cause) : State :=
  if cause == .deadlock || (s.slot k).depart.any (fun c => c != 0) then s.leaveQueues k else s.leaveWaits k

/-! ## Traps -/

/-- A launch ends before it completes: its end is decided, and its partition is drained and reset (R353, R364). The
first decision stands. -/
def State.abortLaunch (s : State) (lid : Nat) (v : EndValues) : State :=
  match s.launches.find lid with
  | none => s
  | some l =>
    if l.ending.isSome then s
    else (s.modLaunch lid (fun l => { l with ending := some v })).schedule s.cycle .partitionDrainReset [lid]

/-- The trap registers that every trap writes (R55, R354). -/
def Slot.saveTrap (sl : Slot) (cause : Cause) (xpc : Word) (val val2 iw : DWord) : Slot :=
  { sl with xcause := cause.code, xpc := xpc, xval := val, xval2 := val2, xinst := iw }

/-- Entry into handler mode (R351): the task's bounds are hidden, the handler span bounds the fetch. -/
def Slot.enterHandler (sl : Slot) (base bound : Word) : Slot :=
  { sl with mode := .handler, taskBase := sl.cbase, taskBound := sl.cbound, cbase := base, cbound := bound,
            pc := base }

/-- A launch's emulation span: its stubs and the emulation library (R313). -/
def Launch.emulates (l : Launch) (pc : Word) : Bool :=
  decide (0 < l.libLen) && decide (l.codeBase + l.codeEnd ≤ pc.toNat) && decide (pc.toNat < l.codeBase + l.codeLen)

/-- The offset a trap reports: within the emulation span that of the call word, which g63 tells (R313). -/
def Slot.trapPc (sl : Slot) (l : Option Launch) : Word :=
  if sl.mode = .task && l.any (fun l => l.emulates sl.pc) then (sl.regs.get (fun _ => {}) 63).val - 8 else sl.pc

/-- An atomic on host memory ends without its value: the registers of D are full again as they were (R90). -/
def Slot.dropHostOp (sl : Slot) : Slot :=
  match sl.hostOp with
  | none => sl
  | some op =>
    { sl with
      hostOp := none
      regs := (List.range op.regs).foldl (fun (m : Assoc Reg) i =>
        m.set (fun _ => {}) (op.index + i) { m.get (fun _ => {}) (op.index + i) with full := true }) sl.regs }

/-- TAKING A TRAP, the one operation (R55 with R293, R351 to R353). The trap registers are written; then the slot
enters its world's handler, or, where no handler may run, the launch or the translator run ends with the trap as its
status. -/
def State.takeTrap (s : State) (k : Nat) (cause : Cause) (val val2 iw : DWord) : State :=
  let s := s.leaveFor k cause
  let sl := s.slot k
  let xpc := sl.trapPc (s.launchOn (dieOfCore (coreOfSlot k)))
  let word := if xpc = sl.pc then iw else s.codeWord (dieOfCore (coreOfSlot k)) xpc
  let saved := { (sl.saveTrap cause xpc val val2 word).dropHostOp with
    parked := none, yielded := none, request := none, granted := false,
    atsFail := none, atsOnce := [], arrival := none, trcSusp := false, library := none }
  let v : EndValues := { status := cause.code.toNat, xpc := xpc, xval := val, xval2 := val2, trap := sl.mode == .task && !sl.xlt }
  match s.launchOn (dieOfCore (coreOfSlot k)) with
  | none => s.setSlot k saved
  | some l =>
    match l.handler with
    | some (base, len) =>
      if sl.mode = .task && !sl.xlt then
        s.setSlot k (saved.enterHandler (BitVec.ofNat 32 base) (BitVec.ofNat 32 (base + len)))
      else (s.setSlot k saved).abortLaunch l.lid v
    | none => (s.setSlot k saved).abortLaunch l.lid v

/-- RETURN FROM A TRAP (R77, R351): task mode resumes at XPC under the task's own bounds. -/
def Slot.leaveHandler (sl : Slot) : Slot :=
  { sl with mode := .task, cbase := sl.taskBase, cbound := sl.taskBound, pc := sl.xpc }

/-- TRCUR moves: what was left of the record that it named is no longer to be run (R258). -/
def Slot.setTrcur (sl : Slot) (v : Word) : Slot := { sl with trcur := v, reversal := none }

/-! ## Retiring, trapping and parking -/

/-- The core has issued: its turn in this cycle is over, and L is the slot that issued (R21). -/
def State.issued (s : State) (k : Nat) : State :=
  let c := coreOfSlot k
  { s.modCore c (fun x => { x with last := slotNumber k }) with turn := c + 1, tried := 0, lag := 0 }

/-- Retiring (R39, R42, R292): the program counter moves to the next instruction, RETIRED counts, KMETER falls in
translator mode. -/
def Slot.retire (sl : Slot) (here next : Word) : Slot :=
  { sl with pc := next, lastPc := here, retired := sl.retired + 1,
            kmeter := if sl.xlt then sl.kmeter - 1 else sl.kmeter,
            parked := none, request := none, granted := false, arrival := none,
            atsFail := none, atsOnce := [] }

/-- The instruction of a slot at a program counter has retired, and its core has issued. -/
def State.retireAt (s : State) (k : Nat) (here next : Word) : State :=
  (s.modSlot k (fun sl => sl.retire here next)).issued k

end Sys2Proof.Machine
end

