-- ==== Sys2Proof/Machine/Translate.lean ====
section
/-! DEFINITION. Address translation: the walk of a world's page tables (R100 to R104), the TLB of a die (R109), host
delegation through ATS and PRI (R16, R105 to R107), and the host's answers and invalidations (R17). -/

namespace Sys2Proof.Machine

def worldDefault (_ : Nat) : World := {}
def State.world (s : State) (w : Nat) : World := s.worlds.get worldDefault w
def State.modWorld (s : State) (w : Nat) (f : World → World) : State :=
  { s with worlds := s.worlds.set worldDefault w (f (s.world w)) }

/-! ## Where a world's data stands (R393) -/

/-- The bytes of a page, by its size code (R102). -/
def pageBytes (size : Nat) : Nat :=
  match size with
  | 0 => 0x1000 | 1 => 0x4000 | 2 => 0x10000 | 3 => 0x40000 | 4 => 0x100000 | 5 => 0x200000
  | 6 => 0x400000 | 7 => 0x1000000 | 8 => 0x4000000 | 9 => 0x10000000 | 10 => 0x40000000 | _ => 0x100000000

/-- The level at which a leaf of a size stands (R102); none for a malformed size. -/
def pageLevel (size : Nat) : Option Nat :=
  if size ≤ 4 then some 0 else if size ≤ 9 then some 1 else if size ≤ 11 then some 2 else none

def dieOfAddress (pa : Nat) : Nat := pa / 0x1000000000

/-- A range lies in the data range of one die (R393). -/
def inDataRange (pa len : Nat) : Bool :=
  decide (dieOfAddress pa < 8) && decide (pa % 0x1000000000 + len ≤ 0xA80000000)

/-- What a confidential world has been given of its dies' data ranges: its seed region and its frames (R393). -/
def World.given (x : World) : List (Nat × Nat) := (x.seed, 0x10000) :: x.frames.map (fun f => (f.pa, pageBytes f.size))

/-- Ranges cover every address from one to another, one after the other; the first number bounds how many are taken. -/
def coverRange (rs : List (Nat × Nat)) : Nat → Nat → Nat → Bool
  | 0, a, b => decide (b ≤ a)
  | n + 1, a, b =>
    decide (b ≤ a) || (match rs.find? (fun r => decide (r.1 ≤ a) && decide (a < r.1 + r.2)) with
      | none => false
      | some r => coverRange rs n (r.1 + r.2) b)

/-- A range lies in a world's data DRAM (R393): for world 0 the data range of its dies; for a confidential world what it
has been given, whether or not one frame holds the whole range. -/
def State.ownsDram (s : State) (w pa len : Nat) : Bool :=
  let d := s.die (dieOfAddress pa)
  let rs := (s.world w).given
  inDataRange pa len && d.valid && d.wid == w && (w == 0 || coverRange rs rs.length pa (pa + len))

/-! ## The walk (R103) -/

inductive WalkResult where
  /-- A leaf: the page's virtual start, its bytes, its frame and W. -/
  | leaf (va size base : Nat) (w : Bool)
  | host
  | trap (cause : Cause) (code : Nat)
  deriving DecidableEq, Repr

/-- The index of an address at a level (R100). -/
def walkIndex (va level : Nat) : Nat := va / 2 ^ (12 + 9 * level) % (if level = 4 then 256 else 512)

/-- Reserved bits of a table entry and of a leaf (R101). -/
def tableReserved (e : Nat) : Bool := e / 2 ^ 52 != 0 || e / 4 % 2 ^ 10 != 0
def leafReserved (e : Nat) : Bool := e / 2 ^ 52 != 0 || e / 2 ^ 8 % 2 ^ 4 != 0 || e / 8 % 2 != 0

/-- Bits [51:12] of an entry, as an address. -/
def entryAddress (e : Nat) : Nat := e / 2 ^ 12 % 2 ^ 40 * 2 ^ 12

/-- What one entry says: where the next table stands, or how the walk ends. -/
inductive WalkStep where
  | next (table : Nat)
  | done (r : WalkResult)
  deriving DecidableEq, Repr

/-- Read and check the entry that an address indexes in a table at a level (R103). -/
def State.walkEntry (s : State) (w va table level : Nat) : WalkStep :=
  let a := table + 8 * walkIndex va level
  let e := s.dram.word a 8
  if s.dram.poisonIn a 8 then .done (.trap .page (0x330 + level))
  else
    match e % 4 with
    | 0 => .done (.trap .page (0x310 + level))
    | 1 =>
      if level = 0 || tableReserved e || !s.ownsDram w (entryAddress e) 0x1000 then
        .done (.trap .page (0x320 + level))
      else .next (entryAddress e)
    | 2 =>
      let size := e / 16 % 16
      let bytes := pageBytes size
      if leafReserved e || pageLevel size != some level || entryAddress e % bytes != 0 then
        .done (.trap .page (0x320 + level))
      else if !s.ownsDram w (entryAddress e) bytes then .done (.trap .prot 0x123)
      else .done (.leaf (va / bytes * bytes) bytes (entryAddress e) (decide (e / 4 % 2 = 1)))
    | _ => if level < 2 || e / 4 != 0 then .done (.trap .page (0x320 + level)) else .done .host

/-- The walk from a table of a level down. -/
def State.walkFrom (s : State) (w va : Nat) : Nat → Nat → WalkResult
  | 0, table =>
    match s.walkEntry w va table 0 with
    | .done r => r
    | .next _ => .trap .page 0x320
  | level + 1, table =>
    match s.walkEntry w va table (level + 1) with
    | .done r => r
    | .next t => s.walkFrom w va level t

/-- The walk from the world's root; without a root every walk finds an invalid level-4 entry (R372). -/
def State.walk (s : State) (w va : Nat) : WalkResult :=
  match (s.world w).ptroot with
  | none => .trap .page 0x314
  | some root => s.walkFrom w va 4 root

/-! ## Translating one access -/

/-- Who translates: a die, a world, the PASID of the queue that launched the work, and the user. -/
structure Translator where
  die : Nat
  world : Nat
  pasid : Option Nat
  user : AtsUser
  deriving DecidableEq, Repr

inductive Translation where
  | dram (pa : Nat)
  | host (addr : Nat)
  | trap (cause : Cause) (code : Nat)
  /-- An ATS or PRI request is outstanding. -/
  | wait
  deriving DecidableEq, Repr

/-- The core whose micro-TLB a translator uses: a slot's. -/
def Translator.core (t : Translator) : Option Nat :=
  match t.user with
  | .slot k => some (coreOfSlot k)
  | _ => none

def TlbEntry.covers (e : TlbEntry) (t : Translator) (va : Nat) : Bool :=
  !e.gone && e.die == t.die && e.world == t.world && (e.pasid.isNone || e.pasid == t.pasid)
    && (e.core.isNone || e.core == t.core) && decide (e.va ≤ va) && decide (va < e.va + e.size)

/-- The entry that translates an address: the micro-TLB comes before the die TLB. -/
def State.tlbFind (s : State) (t : Translator) (va : Nat) : Option TlbEntry :=
  match s.tlb.find? (fun e => e.core.isSome && e.covers t va) with
  | some e => some e
  | none => s.tlb.find? (fun e => e.covers t va)

/-- Two entries stand in the same TLB. -/
def TlbEntry.beside (x e : TlbEntry) : Bool := !x.gone && x.core == e.core && (e.core.isSome || x.die == e.die)

def rangesMeet (a n b m : Nat) : Bool := decide (a < b + m) && decide (b < a + n)

/-- A grant of the host stands in the place of every earlier one for its pages, copies in the micro-TLBs included (R106).
Where it gives another frame, what the earlier one has translated is still answered for (R17). -/
def State.supplant (s : State) (e : TlbEntry) : State :=
  let old := fun (x : TlbEntry) =>
    !x.gone && x.die == e.die && x.world == e.world && x.pasid == e.pasid && rangesMeet x.va x.size e.va e.size
  { s with tlb := s.tlb.flatMap (fun x =>
      if !old x then [x]
      else if x.core.isNone && (x.va != e.va || x.size != e.size || x.base != e.base) then [{ x with gone := true }]
      else []) }

/-- A TLB takes an entry (R109): a micro-TLB holds 64 and a die TLB 4,096, and which of them gives way is open. -/
def State.fillTlb (s : State) (e : TlbEntry) : State :=
  let same := fun (x : TlbEntry) => x.beside e && x.die == e.die && x.world == e.world && x.pasid == e.pasid && x.va == e.va
  let tlb := s.tlb.filter (fun x => !same x)
  let held := tlb.filter (fun x => x.beside e)
  if held.length < (if e.core.isSome then 64 else 4096) then { s with tlb := tlb ++ [e] }
  else
    let out := held[Config.displaced s.draws % held.length]?
    let tlb := tlb.flatMap (fun x =>
      if some x != out then [x] else if x.core.isNone && x.pasid.isSome then [{ x with gone := true }] else [])
    { s with draws := s.draws + 1, tlb := tlb ++ [e] }

/-- The micro-TLB of the core takes a copy of an entry that the running slot has used. -/
def State.fillMicro (s : State) (t : Translator) (e : TlbEntry) : State :=
  match t.core with
  | some c => if e.core.isSome then s else s.fillTlb { e with core := some c }
  | none => s

/-- What a translation takes, where a slot waits for it. -/
def State.addLag (s : State) (t : Translator) (cycles : Nat) : State :=
  if t.core.isSome then { s with lag := s.lag + cycles } else s

/-- Home slices stand beside core 0 of their cluster, at x = 2 (s mod 9) and y = 2 (s div 9) (R97). -/
def hopsToSlice (core pa : Nat) : Nat :=
  let c := pa / 256 % 72
  distance (xOfCore core) (2 * (c % 9)) + distance (yOfCore core) (2 * (c / 9))

def homeCycles (core pa : Nat) : Nat := 24 + 2 * hopsToSlice core pa

/-- The entries that a walk reads from a table of a level down. -/
def State.walkReads (s : State) (w va : Nat) : Nat → Nat → List Nat
  | 0, table => [table + 8 * walkIndex va 0]
  | level + 1, table =>
    (table + 8 * walkIndex va (level + 1)) ::
      (match s.walkEntry w va table (level + 1) with
        | .done _ => []
        | .next t => s.walkReads w va level t)

/-- What a walk takes (R109): one read of a home slice for each level. -/
def State.walkCycles (s : State) (t : Translator) (va : Nat) : Nat :=
  match t.core, (s.world t.world).ptroot with
  | some c, some root => ((s.walkReads t.world va 4 root).map (homeCycles c)).sum
  | _, _ => 0

/-- The 4 KiB page of an address. -/
def pageOf (va : Nat) : Nat := va / 0x1000 * 0x1000

/-- The function a world's requests carry: its virtual function, or the physical function for world 0 (R111). -/
def State.functionOf (s : State) (w : Nat) : Nat := (s.world w).vf

def AtsReq.isFor (r : AtsReq) (t : Translator) (pasid va : Nat) : Bool :=
  !r.dropped && r.die == t.die && r.world == t.world && r.pasid == pasid && r.va == pageOf va

def withUser (u : AtsUser) (us : List AtsUser) : List AtsUser := if us.contains u then us else us ++ [u]

/-- One ATS request serves every user of the die that misses on its page (R107). -/
def State.requestAts (s : State) (t : Translator) (pasid va : Nat) (write : Bool) : State :=
  if s.ats.any (fun r => r.isFor t pasid va) then
    { s with ats := s.ats.map (fun r =>
        if r.isFor t pasid va then
          { r with
            write := r.write || write, users := withUser t.user r.users
            writers := if write then withUser t.user r.writers else r.writers.filter (fun u => u != t.user) }
        else r) }
  else
    { s with
      nextId := s.nextId + 1
      ats := s.ats ++ [{ id := s.nextId, die := t.die, world := t.world, pasid := pasid, va := pageOf va, write := write,
                         users := [t.user], writers := if write then [t.user] else [] }] }

def State.modAts (s : State) (id : Nat) (f : AtsReq → AtsReq) : State :=
  { s with ats := s.ats.map (fun r => if r.id = id then f r else r) }

/-- Users whose request ends without a translation: every slot that waits takes the trap at its parked instruction, and
every other user meets the failure at its next try. -/
def State.failUsers (s : State) (us : List AtsUser) (va : Nat) (c : Cause) (code : Nat) : State :=
  us.foldl (fun s u =>
    match u with
    | .slot k => s.modSlot k (fun sl => { sl with atsFail := some (va, c, code) })
    | .saved _ => s
    | u => { s with hostFails := (u, va, c, code) :: s.hostFails }) s

/-- A request ends for all its users. -/
def State.failAts (s : State) (r : AtsReq) (c : Cause) (code : Nat) : State :=
  ({ s with ats := s.ats.filter (fun x => x.id != r.id) } : State).failUsers r.users r.va c code

/-- A page request is sent, or fails at once where the function's page requests fail (R107). At most 1,024 are
outstanding (R111): a further one is sent when one of them has been answered. -/
def State.sendPri (s : State) (r : AtsReq) : State :=
  if s.priFailed.contains (s.functionOf r.world) then s.failAts r .page 0x00F
  else if 1024 ≤ (s.ats.filter (fun x => x.pri)).length then s.modAts r.id (fun r => { r with queued := true })
  else s.modAts r.id (fun r => { r with pri := true })

/-- Page requests that have waited for a place are sent, the oldest first, while there is room; the number bounds how
many. -/
def State.sendQueued : Nat → State → State
  | 0, s => s
  | n + 1, s =>
    match s.ats.find? (fun r => r.queued) with
    | some r =>
      if 1024 ≤ (s.ats.filter (fun x => x.pri)).length then s
      else State.sendQueued n ((s.modAts r.id (fun r => { r with queued := false })).sendPri r)
    | none => s

def State.nextPri (s : State) : State := State.sendQueued s.ats.length s

/-- Requests whose users are gone (R107): what the host still answers is dropped on arrival. A page request holds its place
until then (R111). -/
def State.dropRequests (s : State) (gone : AtsReq → Bool) : State :=
  { s with ats := s.ats.flatMap (fun r =>
      if !gone r then [r] else if r.pri then [{ r with dropped := true, users := [], writers := [] }] else []) }

/-- Some users no longer wait for the host; requests that nobody waits for any more are dropped. -/
def State.withdrawUsers (s : State) (leaves : AtsUser → Bool) : State :=
  let s := s.dropRequests (fun r => r.users.any leaves && r.users.all leaves)
  { s with ats := s.ats.map (fun r => { r with
      users := r.users.filter (fun u => !leaves u), writers := r.writers.filter (fun u => !leaves u) }) }

/-- A host access whose cached grant lacks a permission sends a page request (R106). -/
def State.requestPri (s : State) (t : Translator) (pasid va : Nat) (write : Bool) : State :=
  let s := s.requestAts t pasid va write
  match s.ats.find? (fun r => r.isFor t pasid va && !r.pri && !r.queued && !r.asked) with
  | some r => (s.modAts r.id (fun r => { r with asked := true })).sendPri r
  | none => s

/-- A failure that a host request has brought this user for this page. -/
def State.takeFailure (s : State) (t : Translator) (va : Nat) : Option (Cause × Nat) × State :=
  match t.user with
  | .slot k =>
    match (s.slot k).atsFail with
    | some (p, c, code) =>
      let s := s.modSlot k (fun sl => { sl with atsFail := none })
      if p = pageOf va then (some (c, code), s) else (none, s)
    | none => (none, s)
  | u =>
    match s.hostFails.find? (fun f => f.1 == u && f.2.1 == pageOf va) with
    | some (_, _, c, code) =>
      (some (c, code), { s with hostFails := s.hostFails.filter (fun f => !(f.1 == u && f.2.1 == pageOf va)) })
    | none => (none, s)

def OnceGrant.serves (g : OnceGrant) (va : Nat) (write : Bool) : Bool :=
  g.page == pageOf va && (if write then g.w else g.r)

/-- An untranslated grant for this user and page (R105). A slot's serves the accesses of its instruction, and a packet's
the whole of its step. -/
def State.takeOnce (s : State) (t : Translator) (va : Nat) (write : Bool) : Option Nat × State :=
  match t.user with
  | .slot k => (((s.slot k).atsOnce.find? (fun g => g.serves va write)).map (fun g => g.base + va % 0x1000), s)
  | u =>
    match s.hostOnce.find? (fun f => f.1 == u && f.2.serves va write) with
    | some (_, g) =>
      let keep := match u with
        | .packet _ => s.hostOnce
        | _ => s.hostOnce.filter (fun f => !(f.1 == u && f.2.page == pageOf va))
      (some (g.base + va % 0x1000), { s with hostOnce := keep })
    | none => (none, s)

/-- The host cannot be reached for a world (R107). -/
def State.hostLost (s : State) (w : Nat) : Bool := s.hostDown || (s.world w).tdispError

/-- Translate through the host (R105, R107). An access that has no PASID traps for that, whether or not the link is up
(DESIGN CHOICE, assumption 76). -/
def State.hostTranslate (s : State) (t : Translator) (va : Nat) (write : Bool) : Translation × State :=
  match t.pasid with
  | none => (.trap .page 0x401, s)
  | some p =>
    if s.hostLost t.world then (.trap .page 0x400, s)
    else
      match s.takeFailure t va with
      | (some (c, code), s) => (.trap c code, s)
      | (none, s) =>
        match s.takeOnce t va write with
        | (some addr, s) => (.host addr, s)
        | (none, s) => (.wait, s.requestAts t p va write)

/-- Translate through an entry of a TLB. -/
def State.translateBy (s : State) (e : TlbEntry) (t : Translator) (va : Nat) (write : Bool) : Translation × State :=
  match e.pasid with
  | none => if write && !e.w then (.trap .prot 0x120, s) else (.dram (e.base + (va - e.va)), s)
  | some p =>
    if s.hostLost t.world then (.trap .page 0x400, s)
    else if (if write then e.w else e.r) then (.host (e.base + (va - e.va)), s)
    else
      match s.takeFailure t va with
      | (some (c, code), s) => (.trap c code, s)
      | (none, s) =>
        if s.priFailed.contains (s.functionOf t.world) then (.trap .page 0x00F, s)
        else (.wait, s.requestPri t p va write)

/-- Translate a global address (R99, R103, R109): the canonical check, the micro-TLB, the die TLB, then the walk. -/
def State.translate (s : State) (t : Translator) (va : Nat) (write : Bool) : Translation × State :=
  if 2 ^ 56 ≤ va then (.trap .page 0x300, s)
  else
    match s.tlbFind t va with
    | some e =>
      let s := if e.core.isSome then s else (s.fillMicro t e).addLag t 6
      s.translateBy e t va write
    | none =>
      let s := s.addLag t (s.walkCycles t va)
      match s.walk t.world va with
      | .trap c code => (.trap c code, s)
      | .host => s.hostTranslate t va write
      | .leaf v size base w =>
        let e : TlbEntry := { die := t.die, world := t.world, pasid := none, va := v, size := size, base := base, r := true,
                              w := w }
        ((s.fillTlb e).fillMicro t e).translateBy e t va write

/-- Who translates for a slot: its die, its die's world, and the PASID of its launch's queue. -/
def State.translatorOf (s : State) (k : Nat) : Translator :=
  let die := dieOfCore (coreOfSlot k)
  { die := die, world := (s.die die).wid, pasid := (s.launchOn die).bind Launch.pasid, user := .slot k }

/-- The park of a slot that waits for a host translation: an armed host wake (R16, R286). The request it makes is
sent when the slot parks. -/
def waitAts (t : Translator) (va : Nat) (write : Bool) : Wait :=
  { xval := BitVec.ofNat 64 va, hostWake := true,
    translate := some { va := va, write := write, die := t.die, world := t.world, pasid := t.pasid } }

/-- An acquire of the slot has not been performed: no walk for a later access is made before it (R104). -/
def Slot.acquiring (sl : Slot) : Bool :=
  sl.accs.any (fun x => x.got.isNone && (x.ord == 1 || x.ord == 3) && (match x.kind with
    | .load => true
    | .atomic _ _ _ _ => true
    | _ => false))

/-- Translate for the running instruction: a trap with the address as XVAL (R108), or a park until the host answers. What
needs a walk parks while an acquire before it has not been performed (R104). -/
def translateAs (t : Translator) (va : Nat) (write : Bool) : Act (Place × Nat) := fun s =>
  if s.me.acquiring && decide (va < 2 ^ 56) && (s.tlbFind t va).isNone then .error (.park { xval := BitVec.ofNat 64 va })
  else
  match s.translate t va write with
  | (.dram pa, s) => .ok ((.dram, pa), s)
  | (.host a, s) => .ok ((.host, a), s)
  | (.trap c code, _) => .error (.trap c (BitVec.ofNat 64 va) (BitVec.ofNat 64 code))
  | (.wait, _) => .error (.park (waitAts t va write))

def translateMe (va : Nat) (write : Bool) : Act (Place × Nat) := fun s =>
  translateAs (s.translatorOf s.cur) va write s

/-! ## The host's answers (R16, R105 to R107) -/

/-- The largest page size of R102 that is at most a power of two the host reports (R105). -/
def heldSize (size : Nat) : Nat :=
  ((List.range 12).map pageBytes).foldl (fun best b => if b ≤ size && best ≤ b then b else best) 0x1000

/-- Whether a grant permits what a user wants (R106): W where it may write, else R. -/
def AtsReq.permits (r : AtsReq) (rd wr : Bool) (u : AtsUser) : Bool := if r.writers.contains u then wr else rd

def State.giveOnce (s : State) (g : OnceGrant) (u : AtsUser) : State :=
  match u with
  | .slot k => s.modSlot k (fun sl => { sl with atsOnce := sl.atsOnce.filter (fun x => x.page != g.page) ++ [g] })
  | .saved _ => s
  | u => { s with hostOnce := (u, g) :: s.hostOnce }

/-- A granted translation (R105, R106). Those whom it does not permit what they want ask for the page once, and trap when
the repeated grant lacks it still. -/
def State.atsGranted (s : State) (r : AtsReq) (addr bytes : Nat) (rd wr u : Bool) : State :=
  let size := max bytes 0x1000
  let frame := addr + (r.va - r.va / size * size)
  let held := heldSize size
  let va := r.va / held * held
  let fit := r.users.filter (r.permits rd wr)
  let left := r.users.filter (fun x => !r.permits rd wr x)
  let s :=
    if u then fit.foldl (fun s x => s.giveOnce { page := r.va, base := frame, r := rd, w := wr } x) s
    else
      let e : TlbEntry := { die := r.die, world := r.world, pasid := some r.pasid, va := va, size := held,
                            base := addr + (va - r.va / size * size), r := rd, w := wr }
      (s.supplant e).fillTlb e
  let s : State := { s with ats := s.ats.filter (fun x => x.id != r.id) }
  if left.isEmpty then s
  else if r.asked then
    (s.failUsers (left.filter r.writers.contains) r.va .prot 0x121).failUsers
      (left.filter (fun x => !r.writers.contains x)) r.va .prot 0x122
  else
    let r' : AtsReq := { r with asked := true, users := left, writers := r.writers.filter left.contains,
                                write := left.any r.writers.contains }
    ({ s with ats := s.ats ++ [r'] } : State).sendPri r'

/-- An invalidation covers a page of a PASID; a global one covers every PASID (R111). -/
def Invalidation.covers (x : Invalidation) (pasid va : Nat) : Bool :=
  (x.pasid.isNone || x.pasid == some pasid) && rangesMeet va 0x1000 x.va x.len

/-- An ATS completion for an outstanding request. One that an invalidation has overtaken is discarded; the fresh request is
sent once the invalidation has completed (R107). -/
def State.atsAnswer (s : State) (r : AtsReq) (reply : AtsReply) : State :=
  if r.pri || r.queued || r.dropped || !r.sent then s
  else if r.stale then
    s.modAts r.id (fun r => { r with stale := false, sent := !(s.invalidations.any (fun x => x.covers r.pasid r.va)) })
  else
    match reply with
    | .granted addr size rd wr u => s.atsGranted r addr size rd wr u
    | .notResident => s.sendPri r
    | .unsupported => s.failAts r .page 0x201
    | .abort => s.failAts r .page 0x204

def execAtsCompletion (req : Nat) (reply : AtsReply) (s : State) : Outcome :=
  .next (match s.ats.find? (fun r => r.id == req) with
    | some r => s.atsAnswer r reply
    | none => s)

/-- A page-request response (R16): Success repeats the ATS request; Response Failure also fails every later page
request of the function (R107); any other response traps with its code. -/
def State.priAnswer (s : State) (r : AtsReq) (code : Nat) : State :=
  if code = 0 then
    (if r.dropped then { s with ats := s.ats.filter (fun x => x.id != r.id) }
      else s.modAts r.id (fun r => { r with pri := false }) : State).nextPri
  else
    let s := if code = 0xF then { s with priFailed := s.functionOf r.world :: s.priFailed } else s
    (s.failAts r .page code).nextPri

def execPriResponse (req : Nat) (code : BitVec 4) (s : State) : Outcome :=
  .next (match s.ats.find? (fun r => r.id == req && r.pri) with
    | some r => s.priAnswer r code.toNat
    | none => s)

/-- The host resets a function's page-request state (R107). -/
def execPriReset (fn : Nat) (s : State) : Outcome :=
  .next { s with priFailed := s.priFailed.filter (fun f => f != fn) }

end Sys2Proof.Machine
end

