-- ==== Sys2Proof/Machine/Issue.lean ====
section
/-! DEFINITION. Running one instruction (R52 to R54): the mode that lets it run, and the three ways it ends. -/

namespace Sys2Proof.Machine

/-- Parking (R22, R53): nothing has happened; the slot is examined again. The first park of a bounded wait starts its
limit, which runs on while the slot waits for a translation (R277). -/
def State.parkSlot (s : State) (k : Nat) (w : Wait) : State :=
  let sl := s.slot k
  -- a bounded wait counts from its own first park
  let old := sl.parked.filter (fun p => w.limit.isNone || p.wait.limit.isSome)
  let since := (old.map Parked.since).getD s.cycle
  let limit := w.limit.orElse (fun _ => old.bind (fun p => p.wait.limit))
  let s := match w.translate with
    | some r =>
      (s.translate { die := r.die, world := r.world, pasid := r.pasid, user := .slot k } r.va r.write).2
    | none => s
  let p : Parked := { wait := { w with limit := limit }, since := since, last := sl.parked.bind Parked.last }
  let s := s.modSlot k (fun sl => { sl with parked := some p, granted := false })
  let s := { s with turn := coreOfSlot k, tried := s.tried + 1, lag := 0 }
  match w.limit, old with
  | some lim, none => if lim = 0xFFFFFFFF then s else s.schedule (s.cycle + lim.toNat) .boundedWaitExpiry [k, s.cycle]
  | _, _ => s

/-- A bounded wait (R142, R277): a limit of 0 traps at once. -/
def boundedWait (w : Wait) (limit : Word) : Act Unit :=
  if limit = 0 then Act.trap .waitx w.xval w.xval2 else Act.park { w with limit := some limit }

/-- Whether the slot's mode lets an instruction run at all (R50, R11): translator mode has the bootstrap majors in
their frozen forms, and only translator mode has KEND and KMTR. -/
def modeLegal (i : Instr) (xlt : Bool) : Bool :=
  match i with
  | .kend _ => xlt
  | .kmtr _ => xlt
  | .ld f | .lds f | .st f =>
    !xlt || (f.ord == 0 && f.scope == 0 && f.space == 0 && f.evict == 0 && f.rdc == 0 && decide (f.size.toNat ≤ 3))
  | _ =>
    !xlt || (match partsOf i with
      | some (.r op _ _) => decide (op.toNat ≤ 9)
      | some (.i op _ _) => decide (op.toNat ≤ 9)
      | some (.b _ _) => true
      | some (.m op _) => decide (op.toNat ≤ 9)
      | _ => false)

/-- The word of an instruction, for XINST. -/
def wordOf (i : Instr) : DWord := (encode i).getD 0

/-- What a step that does not retire leaves of its core's ports and inbox: it pops nothing (R28, R54). -/
def State.unpop (s s' : State) : State :=
  let c := s.core s.myCore
  s'.modCore s.myCore (fun x => { x with ports := c.ports, pops := c.pops, inbox := c.inbox, current := c.current })

/-- An instruction that has stopped: it traps or parks. -/
def State.stop (s : State) (i : Instr) : Stop → State
  | .trap c v v2 => (s.takeTrap s.cur c v v2 (wordOf i)).issued s.cur
  | .park w => (s.setMe { s.me with request := none }).parkSlot s.cur w
  | .wait w s' => (s.unpop s').parkSlot s.cur w

/-- Run one instruction that ends at a given next program counter (R54): it retires, traps or parks. -/
def issueTo (i : Instr) (a : Act Word) (s : State) : Outcome :=
  if modeLegal i s.me.xlt then
    match a s with
    | .ok (next, s') => .next (s'.retireAt s.cur s.me.pc next)
    | .error e => .next (s.stop i e)
  else .next ((s.takeTrap s.cur .illegal 0 0 (wordOf i)).issued s.cur)

/-- Run one instruction that falls through to the next word (R42). -/
def issue (i : Instr) (a : Act Unit) (s : State) : Outcome :=
  issueTo i (do a; return s.me.pc + 8) s

end Sys2Proof.Machine
end

