-- ==== Sys2Proof/Machine/Spans.lean ====
section
/-! DEFINITION. Views as rectangles of an arena window (R30 to R32), and the spans of a window that are owed or held
(R33, R34, R206). -/

namespace Sys2Proof.Machine

/-! ## Element formats (R31, R154 to R156) -/

/-- The bits of one element of a format code. A px8 element has eight bits on average. -/
def fmtBits (fmt : Nat) : Nat :=
  match fmt with
  | 0x0 => 32 | 0x1 => 64 | 0x2 => 16 | 0x3 => 16 | 0x4 => 8 | 0x5 => 8 | 0x6 => 8 | 0x7 => 16 | 0x8 => 32
  | 0x9 => 8 | 0xA => 16 | 0xB => 32 | _ => 4

def fmtF32 : Nat := 0x0
def fmtF64 : Nat := 0x1
def fmtPx8 : Nat := 0x5
def fmtS32 : Nat := 0x8
def fmtB32 : Nat := 0xB
def fmtQ4 : Nat := 0xC

/-- The alignment of a format's elements (R179). -/
def fmtAlign (fmt : Nat) : Nat := if fmt = fmtPx8 then 32 else if fmt = fmtQ4 then 1 else fmtBits fmt / 8

/-- The bytes of a row of n elements (R179). -/
def rowBytes (fmt n : Nat) : Nat :=
  if fmt = fmtPx8 then 32 * ((n + 31) / 32) else if fmt = fmtQ4 then (n + 1) / 2 else n * (fmtBits fmt / 8)

/-- Where element j of a row stands, and the bytes it takes: its block for px8, its byte for q4. -/
def elementAt (fmt j : Nat) : Nat × Nat :=
  if fmt = fmtPx8 then (32 * (j / 32), 32) else if fmt = fmtQ4 then (j / 2, 1) else (j * (fmtBits fmt / 8), fmtBits fmt / 8)

/-! ## Views -/

def View.format (v : View) : Nat := v.fmt.toNat
def View.rows (v : View) : Nat := v.rows1.toNat + 1
def View.cols (v : View) : Nat := v.cols1.toNat + 1
/-- The first byte of row i, in the window. -/
def View.rowAt (v : View) (i : Nat) : Nat := v.off.toNat + i * v.stride.toNat
def View.rowLen (v : View) : Nat := rowBytes v.format v.cols
/-- The span (R32): its first byte, and the byte past its last. -/
def View.lo (v : View) : Nat := v.off.toNat
def View.hi (v : View) : Nat := v.rowAt (v.rows - 1) + v.rowLen

def viewDefault (_ : Nat) : View := {}
/-- The view register that a code names. -/
def Slot.view (sl : Slot) (code : Code) : View := sl.views.get viewDefault (code.toNat - 80)
def Slot.setView (sl : Slot) (code : Code) (v : View) : Slot :=
  { sl with views := sl.views.set viewDefault (code.toNat - 80) v }

/-! ## Spans -/

/-- A range of an arena window overlaps an owed span. -/
def State.owedIn (s : State) (core : Nat) (window : BitVec 2) (lo hi : Nat) : Bool :=
  s.spans.any (fun x => !x.held && x.core == core && x.window == window && decide (x.lo < hi) && decide (lo < x.hi))

/-- A range of an arena window overlaps a held span. -/
def State.heldIn (s : State) (core : Nat) (window : BitVec 2) (lo hi : Nat) : Bool :=
  s.spans.any (fun x => x.held && x.core == core && x.window == window && decide (x.lo < hi) && decide (lo < x.hi))

/-- A view of the running slot overlaps an owed span, or a held one. -/
def State.viewOwed (s : State) (code : Code) : Bool :=
  let v := s.me.view code
  s.owedIn s.myCore s.me.window v.lo v.hi

def State.viewHeld (s : State) (code : Code) : Bool :=
  let v := s.me.view code
  s.heldIn s.myCore s.me.window v.lo v.hi

/-- How many owed spans a slot has created (R33). -/
def State.owedCount (s : State) (k : Nat) : Nat := (s.spans.filter (fun x => x.slot == k && !x.held)).length

/-- The offset in a core's arena of a byte of a slot's window. -/
def Slot.arenaOffset (sl : Slot) (addr : Nat) : Nat := sl.window.toNat * 0x10000 + addr

/-- The park of an access to a span that is owed or held. -/
def waitSpan (code : Code) : Wait := { xval := code.toNat, reason := 0x03 }

end Sys2Proof.Machine
end

