-- ==== Sys2Proof/Machine/Operands.lean ====
section
/-! DEFINITION. Operands: the register namespace of R4 read and written as R24 to R29 and R55 say. A source is first
checked for a value (check), then taken (rd, rdp); a destination is written (wr, wrp) or marked empty (markEmpty). -/

namespace Sys2Proof.Machine

/-! ## General registers (R25, R352) -/

def regDefault (_ : Nat) : Reg := {}

/-- Where a g register's contents stand: handler mode has its own g56 to g63, at indices 120 to 127 (R352). -/
def regIndex (m : Mode) (code : Nat) : Nat := if m = .handler && decide (56 ≤ code) then code + 64 else code

/-- A register by index; index 0 is g0, which reads zero, full and unpoisoned (R25). -/
def Slot.regAt (sl : Slot) (index : Nat) : Reg := if index = 0 then {} else sl.regs.get regDefault index

/-- Write a register by index; writes to g0 are dropped (R25). -/
def Slot.setRegAt (sl : Slot) (index : Nat) (r : Reg) : Slot :=
  if index = 0 then sl else { sl with regs := sl.regs.set regDefault index r }

def Slot.reg (sl : Slot) (code : Nat) : Reg := sl.regAt (regIndex sl.mode code)
def Slot.setReg (sl : Slot) (code : Nat) (r : Reg) : Slot := sl.setRegAt (regIndex sl.mode code) r

/-- A register written with a value becomes full and takes its poison bit (R26, R55). -/
def Val.toReg (v : Val) : Reg := { val := v.w, full := true, poison := v.poison }
def Reg.toVal (r : Reg) : Val := { w := r.val, poison := r.poison }

/-- All n registers from a code are full (R26). -/
def Slot.fullFrom (sl : Slot) (code : Nat) : Nat → Bool
  | 0 => true
  | n + 1 => (sl.reg code).full && sl.fullFrom (code + 1) n

/-- Write consecutive registers from an index: a value that lands (R26). -/
def Slot.land (sl : Slot) (index : Nat) : List Val → Slot
  | [] => sl
  | v :: vs => (sl.setRegAt index v.toReg).land (index + 1) vs

/-- Mark n registers from a code empty; g0 stays full (R55, mark_empty). -/
def Slot.markEmpty (sl : Slot) (code : Nat) : Nat → Slot
  | 0 => sl
  | n + 1 =>
    let r := sl.reg code
    (if code = 0 then sl else sl.setReg code { r with full := false }).markEmpty (code + 1) n

/-! ## Link ports, inbox and outbox (R28, R29, R230, R231) -/

def portDefault (_ : Nat) : List PortWord := []

/-- The incoming FIFO of a port code (64 north to 67 west). -/
def Core.port (c : Core) (dir : Nat) : List PortWord := c.ports.get portDefault dir
def Core.setPort (c : Core) (dir : Nat) (q : List PortWord) : Core := { c with ports := c.ports.set portDefault dir q }

/-- The words of a port FIFO that can be popped. -/
def Core.portReady (c : Core) (dir : Nat) : Nat := ((c.port dir).takeWhile (fun w => w.arrived)).length

/-- The words an inbox offers: those of its data and completion messages (R230). -/
def Core.inboxReady (c : Core) : Nat :=
  c.inbox.foldl (fun n m => match m.kind with
    | .handle _ _ => n
    | _ => n + m.words.length) 0

/-- The oldest data or completion message. -/
def oldestPlain (inbox : List Msg) : Option Nat :=
  inbox.findIdx? (fun m => match m.kind with
    | .handle _ _ => false
    | _ => true)

/-- Pop ibx: the next word of the current message, the oldest becoming current where none is (R230). -/
def Core.popInbox (c : Core) : Option (Val × Core) :=
  match c.current.orElse (fun _ => oldestPlain c.inbox) with
  | none => none
  | some i =>
    match c.inbox[i]? with
    | none => none
    | some m =>
      match m.words with
      | [] => none
      | [w] => some (w, { c with inbox := c.inbox.eraseIdx i, current := none })
      | w :: ws =>
        some (w, { c with inbox := c.inbox.set i { m with words := ws, popped := m.popped + 1 }, current := some i })

def popsDefault (_ : Nat) : Nat × Nat := (0, 0)

/-- The words popped from a port in a cycle. -/
def Core.popsIn (c : Core) (dir cycle : Nat) : Nat :=
  let p := c.pops.get popsDefault dir
  if p.1 = cycle then p.2 else 0

/-- Pop a link port: its oldest word (R28). -/
def Core.popPort (c : Core) (dir cycle : Nat) : Option (Val × Core) :=
  match c.port dir with
  | [] => none
  | w :: ws =>
    some (w.val, { c.setPort dir ws with pops := c.pops.set popsDefault dir (cycle, c.popsIn dir cycle + 1) })

/-- A word pushed into a port waits in the neighbour's FIFO (R28, R237): eight words fill it, and one whose core is
saved takes none. -/
def State.portFull (s : State) (core dir : Nat) : Bool :=
  match neighbour core dir with
  | none => false
  | some nb =>
    let c := s.core nb
    c.saved || decide (8 ≤ (c.port (oppositeDir dir)).length + c.popsIn (oppositeDir dir) s.cycle)

def State.pushPort (s : State) (core dir : Nat) (v : Val) : State :=
  match neighbour core dir with
  | none => s
  | some nb =>
    let back := oppositeDir dir
    let s := s.modCore nb (fun c => c.setPort back (c.port back ++ [{ val := v, arrived := false }]))
    s.schedule (s.cycle + 1) .portWordDelivery [nb, back]

/-! ## Sources (R52 step 5, R55) -/

/-- A source operand: a code, how many registers it names, and its EP bit. -/
structure Src where
  code : Code
  n : Nat := 1
  ep : Bool := false
  deriving DecidableEq, Repr

/-- The registers of a source, each a source of its own: what FORK and QCFG read one by one (R146, R267). -/
def Src.each (x : Src) : List Src :=
  (List.range x.n).map (fun i => { code := x.code + BitVec.ofNat 7 i, ep := x.ep })

def bitSet {n : Nat} (b : BitVec n) (i : Nat) : Bool := b.getLsbD i

/-- The words that the sources before this one take from the same port or inbox (R28). -/
def namings (prior : List Src) (code : Code) : Nat := (prior.filter (fun p => p.code == code)).length

/-- Whether a source holds no value yet; a view does not while it overlaps an owed span (R33). -/
def State.srcEmpty (s : State) (prior : List Src) (x : Src) : Bool :=
  let c := s.core s.myCore
  if x.code.toNat ≤ 63 then !(s.me.fullFrom x.code.toNat x.n)
  else if x.code.isView then s.viewOwed x.code
  else if x.code.toNat = 68 then decide (c.inboxReady ≤ namings prior x.code)
  else decide (c.portReady (x.code.toNat - 64) ≤ namings prior x.code)

/-- The sources that hold no value, in order. -/
def State.emptySources (s : State) (prior : List Src) : List Src → List Src
  | [] => []
  | x :: rest =>
    if s.srcEmpty prior x then x :: s.emptySources (prior ++ [x]) rest else s.emptySources (prior ++ [x]) rest

/-- The park of a source or destination without a value: DEADLOCK reason 0x01 for a register, 0x02 for a port or the
inbox, 0x03 for a view (R289). -/
def waitOn (code : Code) : Wait :=
  { xval := code.toNat, reason := if code.toNat ≤ 63 then 0x01 else if code.isView then 0x03 else 0x02 }

/-- A port operand whose neighbour lies beyond the die edge (R28). -/
def State.unconnected (s : State) (code : Code) : Bool :=
  code.isPort && (neighbour s.myCore (code.toNat - 64)).isNone

/-- R52 step 4: unconnected ports, in the order A, B, C, D; in translator mode any port, inbox or outbox code instead
(R298). -/
def checkPorts (codes : List Code) : Act Unit := fun s =>
  if s.me.xlt then
    match codes.find? (fun c => decide (64 ≤ c.toNat) && decide (c.toNat ≤ 69)) with
    | some c => .error (.trap .confine c.toNat 0x03)
    | none => .ok ((), s)
  else
    match codes.find? s.unconnected with
    | some c => .error (.trap .noport c.toNat 0)
    | none => .ok ((), s)

/-- R52 step 5 for the sources: EMPTY for the first empty source whose EP bit is set, else a park on the first empty
source. -/
def checkSources (srcs : List Src) : Act Unit := fun s =>
  let es := s.emptySources [] srcs
  match es.find? (fun x => x.ep) with
  | some x => .error (.trap .empty x.code.toNat 0)
  | none =>
    match es with
    | x :: _ => .error (.park (waitOn x.code))
    | [] => .ok ((), s)

/-- A destination: a code and how many registers it names. -/
structure Dst where
  code : Code
  n : Nat := 1
  deriving DecidableEq, Repr

/-- A destination that cannot be written yet: a register still waiting for a value, a full port, or a view that
overlaps an owed or held span (R22, R27, R33, R206). -/
def State.dstWaits (s : State) (x : Dst) : Bool :=
  if x.code.toNat ≤ 63 then !(s.me.fullFrom x.code.toNat x.n)
  else if x.code.isView then s.viewOwed x.code || s.viewHeld x.code
  else x.code.isPort && s.portFull s.myCore (x.code.toNat - 64)

/-- R52 step 5 for the destinations. -/
def checkDests (dests : List Dst) : Act Unit := fun s =>
  match dests.find? s.dstWaits with
  | some x => .error (.park (waitOn x.code))
  | none => .ok ((), s)

/-- Steps 4 and 5 of R52 for an instruction's sources and destinations. -/
def check (srcs : List Src) (dests : List Dst := []) : Act Unit := do
  checkPorts (srcs.map Src.code ++ dests.map Dst.code)
  checkSources srcs
  checkDests dests

/-- Take one 32-bit source: a register is read, a word of the inbox or of a link port is popped; none where there is no
word. -/
def State.take (s : State) (code : Code) : Option (Val × State) :=
  if code.toNat ≤ 63 then some ((s.me.reg code.toNat).toVal, s)
  else
    let core := s.myCore
    let popped := if code.toNat = 68 then (s.core core).popInbox else (s.core core).popPort (code.toNat - 64) s.cycle
    popped.map (fun r => (r.1, s.setCore core r.2))

/-- One 32-bit source (R55, rd); the check has found its value present. -/
def rd (code : Code) : Act Val := fun s =>
  match s.take code with
  | some r => .ok r
  | none => .error (.park (waitOn code))

/-- A pair, low word first (R55, rdp). -/
def Slot.pair (sl : Slot) (code : Nat) : Val2 :=
  let lo := sl.reg code
  let hi := sl.reg (code + 1)
  { w := hi.val ++ lo.val, poison := lo.poison || hi.poison }

def rdp (code : Code) : Act Val2 := fun s => .ok (s.me.pair code.toNat, s)

/-- n registers from a code, in order. -/
def Slot.regsFrom (sl : Slot) (code : Nat) : Nat → List Val
  | 0 => []
  | n + 1 => (sl.reg code).toVal :: sl.regsFrom (code + 1) n

/-! ## Destinations (R27, R55) -/

/-- Put a 32-bit result where a code says: a register, the neighbour behind a link port, or the outbox. -/
def State.put (s : State) (code : Code) (v : Val) : State :=
  if code.toNat ≤ 63 then s.setMe (s.me.setReg code.toNat v.toReg)
  else if code.toNat ≤ 67 then s.pushPort s.myCore (code.toNat - 64) v
  else s.setMe { s.me with outbox := s.me.outbox ++ [v] }

/-- The outbox, as a destination, holds eight words already. -/
def State.outboxFull (s : State) (code : Code) : Bool := decide (67 < code.toNat) && decide (8 ≤ s.me.outbox.length)

/-- Write a 32-bit result (R55, wr). -/
def wr (code : Code) (v : Val) : Act Unit := fun s =>
  if s.dstWaits { code := code } then .error (.park (waitOn code))
  else if s.outboxFull code then .error (.trap .prot 69 0x143)
  else .ok ((), s.put code v)

def Val2.lo (v : Val2) : Val := { w := v.w.extractLsb' 0 32, poison := v.poison }
def Val2.hi (v : Val2) : Val := { w := v.w.extractLsb' 32 32, poison := v.poison }

/-- Write a pair (R55, wrp). -/
def wrp (code : Code) (v : Val2) : Act Unit := do
  wr code v.lo
  wr (code + 1) v.hi

/-- Mark n registers from a code empty at issue (R55, mark_empty): a register still waiting parks. -/
def markEmpty (code : Code) (n : Nat) : Act Unit := fun s =>
  if s.me.fullFrom code.toNat n then .ok ((), s.setMe (s.me.markEmpty code.toNat n))
  else .error (.park (waitOn code))

end Sys2Proof.Machine
end

