-- ==== Sys2Proof/Machine/Float.lean ====
section
/-! DEFINITION. Floating-point arithmetic: values taken apart from their bits (R152, R153), exact results, and the one
rounding function of R55 with its flags. Every operation computes exactly and rounds once. -/

namespace Sys2Proof.Machine

/-- A floating format: a sign bit, then exponent bits, then fraction bits (R152). -/
structure FFmt where
  ebits : Nat
  fbits : Nat
  deriving DecidableEq, Repr

def f32 : FFmt := { ebits := 8, fbits := 23 }
def f64 : FFmt := { ebits := 11, fbits := 52 }
def f16 : FFmt := { ebits := 5, fbits := 10 }
def bf16 : FFmt := { ebits := 8, fbits := 7 }
def f8 : FFmt := { ebits := 4, fbits := 3 }

def FFmt.bias (f : FFmt) : Nat := 2 ^ (f.ebits - 1) - 1
/-- The exponent of the smallest normal. -/
def FFmt.emin (f : FFmt) : Int := 1 - (f.bias : Int)
/-- The all-ones exponent field. -/
def FFmt.expMask (f : FFmt) : Nat := 2 ^ f.ebits - 1
def FFmt.signBit (f : FFmt) : Nat := 2 ^ (f.ebits + f.fbits)

def FFmt.withSign (f : FFmt) (neg : Bool) (bits : Nat) : Nat := if neg then f.signBit + bits else bits
/-- Sign 0, an all-ones exponent, the top fraction bit set (R55). -/
def FFmt.canonicalNaN (f : FFmt) : Nat := f.expMask * 2 ^ f.fbits + 2 ^ (f.fbits - 1)
def FFmt.infinity (f : FFmt) (neg : Bool) : Nat := f.withSign neg (f.expMask * 2 ^ f.fbits)
def FFmt.largest (f : FFmt) (neg : Bool) : Nat := f.withSign neg (f.expMask * 2 ^ f.fbits - 1)

/-- The value that a format's bits stand for. -/
def FFmt.decode (f : FFmt) (bits : Nat) : FVal :=
  let frac := bits % 2 ^ f.fbits
  let ex := bits / 2 ^ f.fbits % 2 ^ f.ebits
  let neg := decide (bits / f.signBit % 2 = 1)
  if ex = f.expMask then
    if frac = 0 then .inf neg else .nan (decide (frac < 2 ^ (f.fbits - 1)))
  else if ex = 0 then .fin neg frac (f.emin - f.fbits)
  else .fin neg (2 ^ f.fbits + frac) ((ex : Int) - f.bias - f.fbits)

/-! ## Flags (R39): NV, DZ, OF, UF, NX from bit 4 down to bit 0 -/

abbrev FlagBits := BitVec 5
def flagNV : FlagBits := 0x10
def flagDZ : FlagBits := 0x08
def flagOF : FlagBits := 0x04
def flagUF : FlagBits := 0x02
def flagNX : FlagBits := 0x01

/-! ## Exact results and rounding -/

/-- An exact result before rounding. A finite magnitude is m · 2^e, or, with sticky, strictly between m · 2^e and
(m + 1) · 2^e; a sticky m always has more bits than any format it is rounded into. -/
inductive Exact where
  /-- A NaN result; invalid tells whether it raises NV. -/
  | nan (invalid : Bool)
  | inf (neg : Bool)
  /-- An infinity from a division by zero: DZ. -/
  | divZero (neg : Bool)
  | fin (neg : Bool) (m : Nat) (e : Int) (sticky : Bool)
  deriving DecidableEq, Repr

/-- Whether to round the magnitude up (R45): half compares the discarded part with a half of the last place. -/
def roundsUp (rnd : Nat) (neg odd : Bool) (half : Ordering) (inexact : Bool) : Bool :=
  match rnd with
  | 1 => false
  | 2 => inexact && !neg
  | 3 => inexact && neg
  | 4 => half != .lt
  | _ => half == .gt || (half == .eq && odd)

/-- A magnitude m (with sticky) divided by 2^sh and rounded to an integer, and whether that was inexact. -/
def roundShift (rnd : Nat) (neg : Bool) (m sh : Nat) (sticky : Bool) : Nat × Bool :=
  let q := m / 2 ^ sh
  let r := m % 2 ^ sh
  let inexact := decide (r ≠ 0) || sticky
  let half : Ordering :=
    if sh = 0 then .lt
    else if 2 ^ (sh - 1) < r || (r = 2 ^ (sh - 1) && sticky) then .gt
    else if r = 2 ^ (sh - 1) then .eq
    else .lt
  (if roundsUp rnd neg (decide (q % 2 = 1)) half inexact then q + 1 else q, inexact)

/-- m · 2^e to a multiple of 2^q, as a count of 2^q. -/
def roundTo (rnd : Nat) (neg : Bool) (m : Nat) (e q : Int) (sticky : Bool) : Nat × Bool :=
  if q ≤ e then (m * 2 ^ (e - q).toNat, sticky)
  else roundShift rnd neg m (q - e).toNat sticky

/-- The overflowed result (R55): an infinity or the largest finite value, as the mode directs; the largest under SAT
(R162). -/
def FFmt.overflow (f : FFmt) (rnd : Nat) (neg sat : Bool) : Nat :=
  let toLargest := sat || rnd = 1 || (rnd = 2 && neg) || (rnd = 3 && !neg)
  if toLargest then f.largest neg else f.infinity neg

/-- round (R55): the member of the format that the mode selects, and the flags OF, UF and NX. -/
def FFmt.roundFin (f : FFmt) (rnd : Nat) (sat neg : Bool) (m : Nat) (e : Int) (sticky : Bool) : Nat × FlagBits :=
  if m = 0 && !sticky then (f.withSign neg 0, 0)
  else
    let top : Int := e + (Nat.log2 m : Int)
    let p : Int := (f.fbits : Int)
    -- with unbounded exponent range
    let u := roundTo rnd neg m e (top - p) sticky
    let uTop : Int := top - p + (Nat.log2 u.1 : Int)
    if (f.bias : Int) < uTop then (f.overflow rnd neg sat, flagOF ||| flagNX)
    else
      let q : Int := if top < f.emin then f.emin - p else top - p
      let r := roundTo rnd neg m e q sticky
      -- a count below 2^fbits is subnormal; at or above it the exponent field is that of the quantum
      let bits :=
        if r.1 < 2 ^ f.fbits then r.1
        else if r.1 < 2 ^ (f.fbits + 1) then r.1 - 2 ^ f.fbits + ((q + p + f.bias).toNat) * 2 ^ f.fbits
        else (q + p + f.bias + 1).toNat * 2 ^ f.fbits
      let tiny := decide (uTop < f.emin)
      let fl := (if r.2 then flagNX else 0) ||| (if r.2 && tiny then flagUF else 0)
      (f.withSign neg bits, fl)

/-- An exact result rounded into a format under a mode and SAT. -/
def FFmt.round (f : FFmt) (rnd : Nat) (sat : Bool) : Exact → Nat × FlagBits
  | .nan invalid => (f.canonicalNaN, if invalid then flagNV else 0)
  | .inf neg => (f.infinity neg, 0)
  | .divZero neg => (f.infinity neg, flagDZ)
  | .fin neg m e sticky => f.roundFin rnd sat neg m e sticky

/-! ## Exact operations (R65, R66) -/

def FVal.isNaN : FVal → Bool
  | .nan _ => true
  | _ => false

def FVal.isSignalling : FVal → Bool
  | .nan s => s
  | _ => false

def FVal.neg : FVal → FVal
  | .nan s => .nan s
  | .inf n => .inf (!n)
  | .fin n m e => .fin (!n) m e

def FVal.isNeg : FVal → Bool
  | .nan _ => false
  | .inf n => n
  | .fin n _ _ => n

def FVal.isZero : FVal → Bool
  | .fin _ m _ => m == 0
  | _ => false

/-- A finite value as it stands. -/
def FVal.exact : FVal → Exact
  | .nan s => .nan s
  | .inf n => .inf n
  | .fin n m e => .fin n m e false

/-- The signed integer n with value n · 2^lo, for a lo no larger than the exponent. -/
def scaled (neg : Bool) (m : Nat) (e lo : Int) : Int :=
  let n : Int := (m : Int) * (2 : Int) ^ (e - lo).toNat
  if neg then -n else n

/-- The sum of two finite values; an exact zero from operands of opposite sign is +0, or −0 under rounding downward
(R66). -/
def addFin (rnd : Nat) (n1 : Bool) (m1 : Nat) (e1 : Int) (n2 : Bool) (m2 : Nat) (e2 : Int) : Exact :=
  let lo := if e1 ≤ e2 then e1 else e2
  let t := scaled n1 m1 e1 lo + scaled n2 m2 e2 lo
  if t = 0 then .fin (if n1 = n2 then n1 else decide (rnd = 3)) 0 lo false
  else .fin (decide (t < 0)) t.natAbs lo false

def addExact (rnd : Nat) (a b : FVal) : Exact :=
  match a, b with
  | .nan s, y => .nan (s || y.isSignalling)
  | x, .nan s => .nan (x.isSignalling || s)
  | .inf n1, .inf n2 => if n1 = n2 then .inf n1 else .nan true
  | .inf n, .fin _ _ _ => .inf n
  | .fin _ _ _, .inf n => .inf n
  | .fin n1 m1 e1, .fin n2 m2 e2 => addFin rnd n1 m1 e1 n2 m2 e2

def mulExact (a b : FVal) : Exact :=
  match a, b with
  | .nan s, y => .nan (s || y.isSignalling)
  | x, .nan s => .nan (x.isSignalling || s)
  | .inf n1, .inf n2 => .inf (n1 != n2)
  | .inf n1, .fin n2 m _ => if m = 0 then .nan true else .inf (n1 != n2)
  | .fin n1 m _, .inf n2 => if m = 0 then .nan true else .inf (n1 != n2)
  | .fin n1 m1 e1, .fin n2 m2 e2 => .fin (n1 != n2) (m1 * m2) (e1 + e2) false

/-- a · b + c, the product not rounded (R66): 0 · ∞ raises NV even where c is a quiet NaN. -/
def fmaExact (rnd : Nat) (a b c : FVal) : Exact :=
  match mulExact a b with
  | .nan inv => .nan (inv || c.isSignalling)
  | .inf n => addExact rnd (.inf n) c
  | .divZero n => addExact rnd (.inf n) c
  | .fin n m e _ => addExact rnd (.fin n m e) c

/-- The quotient, with 70 bits more than any operand has, so that a sticky quotient rounds rightly. -/
def divExact (a b : FVal) : Exact :=
  match a, b with
  | .nan s, y => .nan (s || y.isSignalling)
  | x, .nan s => .nan (x.isSignalling || s)
  | .inf _, .inf _ => .nan true
  | .inf n1, .fin n2 _ _ => .inf (n1 != n2)
  | .fin n1 _ e1, .inf n2 => .fin (n1 != n2) 0 e1 false
  | .fin n1 m1 e1, .fin n2 m2 e2 =>
    if m2 = 0 then (if m1 = 0 then .nan true else .divZero (n1 != n2))
    else
      let k : Nat := 128
      .fin (n1 != n2) (m1 * 2 ^ k / m2) (e1 - e2 - k) (decide (m1 * 2 ^ k % m2 ≠ 0))

/-- The integer square root of n < 4^k, bit by bit from bit k − 1 down. -/
def sqrtBits (n : Nat) : Nat → Nat → Nat
  | 0, r => r
  | k + 1, r =>
    let r' := r + 2 ^ k
    sqrtBits n k (if r' * r' ≤ n then r' else r)

def natSqrt (n : Nat) : Nat := sqrtBits n (Nat.log2 n / 2 + 1) 0

def sqrtExact (a : FVal) : Exact :=
  match a with
  | .nan s => .nan s
  | .inf n => if n then .nan true else .inf false
  | .fin n m e =>
    if m = 0 then .fin n 0 e false
    else if n then .nan true
    else
      -- an even exponent, and at least 64 bits in the root
      let odd := decide (e % 2 ≠ 0)
      let m' := (if odd then 2 * m else m) * 2 ^ 128
      let e' := (if odd then e - 1 else e) - 128
      let r := natSqrt m'
      .fin false r (e' / 2) (decide (r * r ≠ m'))

/-! ## Comparisons (R67) -/

/-- The order of two values that are no NaNs; −0 and +0 are equal. -/
def FVal.order (a b : FVal) : Ordering :=
  match a, b with
  | .inf n1, .inf n2 => if n1 = n2 then .eq else if n1 then .lt else .gt
  | .inf n, _ => if n then .lt else .gt
  | _, .inf n => if n then .gt else .lt
  | .fin n1 m1 e1, .fin n2 m2 e2 =>
    let lo := if e1 ≤ e2 then e1 else e2
    compare (scaled n1 m1 e1 lo) (scaled n2 m2 e2 lo)
  | _, _ => .eq

def FVal.less (a b : FVal) : Bool := !a.isNaN && !b.isNaN && a.order b == .lt
def FVal.same (a b : FVal) : Bool := !a.isNaN && !b.isNaN && a.order b == .eq

/-- Whether a minimum takes a rather than b, neither being a NaN: −0 is less than +0. -/
def FVal.before (a b : FVal) : Bool :=
  match a.order b with
  | .lt => true
  | .gt => false
  | .eq => a.isNeg || !b.isNeg

/-- FMIN (max false) and FMAX (max true) on bits: the numeric operand where exactly one is a NaN, the canonical NaN
where both are; NV for a signalling NaN (R67). -/
def FFmt.minMax (f : FFmt) (max : Bool) (a b : Nat) : Nat × FlagBits :=
  let x := f.decode a
  let y := f.decode b
  let fl := if x.isSignalling || y.isSignalling then flagNV else 0
  let r :=
    if x.isNaN && y.isNaN then f.canonicalNaN
    else if x.isNaN then b
    else if y.isNaN then a
    else if max then (if x.before y then b else a)
    else (if x.before y then a else b)
  (r, fl)

/-- FEQ, FLT and FLE (R67) with their flags. -/
def feqBits (f : FFmt) (a b : Nat) : Bool × FlagBits :=
  let x := f.decode a
  let y := f.decode b
  (x.same y, if x.isSignalling || y.isSignalling then flagNV else 0)

def fltBits (f : FFmt) (a b : Nat) : Bool × FlagBits :=
  let x := f.decode a
  let y := f.decode b
  (x.less y, if x.isNaN || y.isNaN then flagNV else 0)

def fleBits (f : FFmt) (a b : Nat) : Bool × FlagBits :=
  let x := f.decode a
  let y := f.decode b
  (x.less y || x.same y, if x.isNaN || y.isNaN then flagNV else 0)

/-- The class mask of R68. -/
def FFmt.classMask (f : FFmt) (a : Nat) : Nat :=
  match f.decode a with
  | .nan s => if s then 2 ^ 8 else 2 ^ 9
  | .inf n => if n then 2 ^ 0 else 2 ^ 7
  | .fin n m _ =>
    if m = 0 then (if n then 2 ^ 3 else 2 ^ 4)
    else if m < 2 ^ f.fbits then (if n then 2 ^ 2 else 2 ^ 5)
    else (if n then 2 ^ 1 else 2 ^ 6)

/-- The sign bit cleared, or inverted (R67). -/
def FFmt.absBits (f : FFmt) (a : Nat) : Nat := a % f.signBit
def FFmt.negBits (f : FFmt) (a : Nat) : Nat :=
  if a / f.signBit % 2 = 1 then a % f.signBit else a % f.signBit + f.signBit

/-! ## Integers -/

/-- An integer as a floating value. -/
def intVal (n : Int) : FVal := .fin (decide (n < 0)) n.natAbs 0

/-- A value rounded to an integer in [lo, hi] (R70): 0 with NV for a NaN, the nearer bound with NV out of range, NX
where the integer differs from the value. -/
def FVal.toInt (rnd : Nat) (lo hi : Int) : FVal → Int × FlagBits
  | .nan _ => (0, flagNV)
  | .inf n => (if n then lo else hi, flagNV)
  | .fin n m e =>
    let r := roundTo rnd n m e 0 false
    let v : Int := if n then -(r.1 : Int) else (r.1 : Int)
    if v < lo then (lo, flagNV)
    else if hi < v then (hi, flagNV)
    else (v, if r.2 then flagNX else 0)

end Sys2Proof.Machine
end

