-- ==== Sys2Proof/Machine/Flags.lean ====
section
/-! DEFINITION. The sticky floating-point flags (R39, R55) and the words a compare or a flag produces. -/

namespace Sys2Proof.Machine

/-- Flags are ORed into FFLAGS. -/
def State.addFlags (s : State) (fl : FlagBits) : State := s.setMe { s.me with fflags := s.me.fflags ||| fl }

/-- raise (R55): an enabled flag traps with all the flags of the step, and leaves FFLAGS as it was; otherwise the
flags are ORed in. -/
def raise (fl : FlagBits) : Act Unit := fun s =>
  if fl &&& s.me.fenable != 0 then .error (.trap .fptrap fl.toNat 0) else .ok ((), s.addFlags fl)

/-- A step's flags count only where no source is poisoned (R57, R65). -/
def raiseClean (poison : Bool) (fl : FlagBits) : Act Unit := if poison then pure () else raise fl

/-- A flag or a compare as a 32-bit result: 1 or 0. -/
def boolWord (b : Bool) : Word := if b then 1 else 0

/-- The rounding mode of an instruction: code 5 takes FRND (R55). -/
def roundMode (sl : Slot) (rnd : BitVec 3) : Nat := if rnd = 5 then sl.frnd.toNat else rnd.toNat

/-- Flags that land from owed tile writes: ORed into FFLAGS, and an enabled one makes an FPTRAP pending (R40). -/
def Slot.landFlags (sl : Slot) (fl : FlagBits) : Slot :=
  { sl with fflags := sl.fflags ||| fl, landed := sl.landed ||| fl, fptrap := sl.fptrap ||| (fl &&& sl.fenable) }

def mxcDefault (_ : Nat) : Word := 0

/-- A saturating count (R39). -/
def satAdd (a : Word) (n : Nat) : Word := BitVec.ofNat 32 (min (a.toNat + n) 0xFFFFFFFF)

/-- MXC0 to MXC3 after a landing (R40). -/
def Slot.addCounts (sl : Slot) (counts : Assoc Nat) : Slot :=
  counts.foldl (fun sl e =>
    { sl with mxc := sl.mxc.set mxcDefault e.1 (satAdd (sl.mxc.get mxcDefault e.1) e.2) }) sl

end Sys2Proof.Machine
end

