-- ==== Sys2Proof/Machine/Scalar.lean ====
section
/-! DEFINITION. The scalar integer instructions: majors 0x01, 0x02 and 0x10 (R56 to R63), and NOP's kin that only move
words. Each result is a function of its operands; the shapes below say how operands are read and the result written. -/

namespace Sys2Proof

def RForm.srcA (f : RForm) (n : Nat := 1) : Machine.Src := { code := f.a, n := n, ep := Machine.bitSet f.ep 0 }
def RForm.srcB (f : RForm) (n : Nat := 1) : Machine.Src := { code := f.b, n := n, ep := Machine.bitSet f.ep 1 }
def RForm.srcC (f : RForm) (n : Nat := 1) : Machine.Src := { code := f.c, n := n, ep := Machine.bitSet f.ep 2 }
def RForm.dst (f : RForm) (n : Nat := 1) : Machine.Dst := { code := f.d, n := n }
def IForm.srcA (f : IForm) (n : Nat := 1) : Machine.Src := { code := f.a, n := n, ep := Machine.bitSet f.ep 0 }
def IForm.dst (f : IForm) (n : Nat := 1) : Machine.Dst := { code := f.d, n := n }

end Sys2Proof

namespace Sys2Proof.Machine

/-! ## Results -/

def shl (a b : Word) : Word := a <<< (b.toNat % 32)
def shr (a b : Word) : Word := a >>> (b.toNat % 32)
def sra (a b : Word) : Word := a.sshiftRight (b.toNat % 32)
def slt (a b : Word) : Word := boolWord (a.slt b)
def sltb (a b : Word) : Word := boolWord (a.ult b)
def seq (a b : Word) : Word := boolWord (a == b)
/-- The high word of the unsigned product (R59, MULHB). -/
def mulhb (a b : Word) : Word := BitVec.ofNat 32 (a.toNat * b.toNat / 2 ^ 32)
/-- The high word of the signed product (R61, MULH). -/
def mulh (a b : Word) : Word := BitVec.ofInt 32 (a.toInt * b.toInt / 2 ^ 32)
def minS (a b : Word) : Word := if b.slt a then b else a
def maxS (a b : Word) : Word := if a.slt b then b else a
def minU (a b : Word) : Word := if b.ult a then b else a
def maxU (a b : Word) : Word := if a.ult b then b else a

/-- DIV (R61, R62): truncated towards zero; all ones for a zero divisor; the most negative number by −1 is itself. -/
def divS (a b : Word) : Word := if b = 0 then 0xFFFFFFFF else BitVec.ofInt 32 (a.toInt.tdiv b.toInt)
def divU (a b : Word) : Word := if b = 0 then 0xFFFFFFFF else BitVec.ofNat 32 (a.toNat / b.toNat)
/-- REM (R61, R62): a − b · DIV(a, b), with the sign of a; a for a zero divisor. -/
def remS (a b : Word) : Word := if b = 0 then a else BitVec.ofInt 32 (a.toInt.tmod b.toInt)
def remU (a b : Word) : Word := if b = 0 then a else BitVec.ofNat 32 (a.toNat % b.toNat)

/-- Leading zero bits, counted from the top: the first n bits below position n. -/
def leadingZeros (a : Word) : Nat → Nat
  | 0 => 0
  | n + 1 => if a.getLsbD n then 0 else 1 + leadingZeros a n

/-- Trailing zero bits from position i on, at most n. -/
def trailingZeros (a : Word) (i : Nat) : Nat → Nat
  | 0 => 0
  | n + 1 => if a.getLsbD i then 0 else 1 + trailingZeros a (i + 1) n

def oneBits (a : Word) : Nat → Nat
  | 0 => 0
  | n + 1 => (if a.getLsbD n then 1 else 0) + oneBits a n

def clz (a : Word) : Word := BitVec.ofNat 32 (leadingZeros a 32)
def ctz (a : Word) : Word := BitVec.ofNat 32 (trailingZeros a 0 32)
def popc (a : Word) : Word := BitVec.ofNat 32 (oneBits a 32)
def rotl (a b : Word) : Word := a.rotateLeft (b.toNat % 32)
def rotr (a b : Word) : Word := a.rotateRight (b.toNat % 32)

/-- BEXT and BINS (R61): B gives the position p = b[4:0] and the width w = min(b[13:8], 32). -/
def fieldPos (b : Word) : Nat := b.toNat % 32
def fieldMask (b : Word) : Nat := 2 ^ min (b.toNat / 256 % 64) 32 - 1
def bext (a b : Word) : Word := (a >>> fieldPos b) &&& BitVec.ofNat 32 (fieldMask b)
def bins (a b c : Word) : Word :=
  let m := BitVec.ofNat 32 (fieldMask b)
  (a &&& ~~~(m <<< fieldPos b)) ||| ((c &&& m) <<< fieldPos b)

def sel (a b c : Word) : Word := if c ≠ 0 then a else b

def shlw (a : DWord) (b : Word) : DWord := a <<< (b.toNat % 64)
def shrw (a : DWord) (b : Word) : DWord := a >>> (b.toNat % 64)
def sraw (a : DWord) (b : Word) : DWord := a.sshiftRight (b.toNat % 64)
/-- The high half of the unsigned product of pairs (R61, MULWB). -/
def mulwb (a b : DWord) : DWord := BitVec.ofNat 64 (a.toNat * b.toNat / 2 ^ 64)

/-! ## Shapes (R56, R57): read A, B, C in order, compute, write D; the result is poisoned with any source -/

def unary (f : RForm) (op : Word → Word) : Act Unit := do
  check [f.srcA] [f.dst]
  let a ← rd f.a
  wr f.d { w := op a.w, poison := a.poison }

def binary (f : RForm) (op : Word → Word → Word) : Act Unit := do
  check [f.srcA, f.srcB] [f.dst]
  let a ← rd f.a
  let b ← rd f.b
  wr f.d { w := op a.w b.w, poison := a.poison || b.poison }

def ternary (f : RForm) (op : Word → Word → Word → Word) : Act Unit := do
  check [f.srcA, f.srcB, f.srcC] [f.dst]
  let a ← rd f.a
  let b ← rd f.b
  let c ← rd f.c
  wr f.d { w := op a.w b.w c.w, poison := a.poison || b.poison || c.poison }

/-- A pair from two pairs. -/
def binaryPair (f : RForm) (op : DWord → DWord → DWord) : Act Unit := do
  check [f.srcA 2, f.srcB 2] [f.dst 2]
  let a ← rdp f.a
  let b ← rdp f.b
  wrp f.d { w := op a.w b.w, poison := a.poison || b.poison }

/-- One register from two pairs. -/
def comparePair (f : RForm) (op : DWord → DWord → Bool) : Act Unit := do
  check [f.srcA 2, f.srcB 2] [f.dst]
  let a ← rdp f.a
  let b ← rdp f.b
  wr f.d { w := boolWord (op a.w b.w), poison := a.poison || b.poison }

/-- A pair shifted by a 32-bit source. -/
def shiftPair (f : RForm) (op : DWord → Word → DWord) : Act Unit := do
  check [f.srcA 2, f.srcB] [f.dst 2]
  let a ← rdp f.a
  let b ← rd f.b
  wrp f.d { w := op a.w b.w, poison := a.poison || b.poison }

def immediate (f : IForm) (op : Word → Word → Word) : Act Unit := do
  check [f.srcA] [f.dst]
  let a ← rd f.a
  wr f.d { w := op a.w f.imm, poison := a.poison }

/-- D is marked empty, and a value is owed to it, to land some cycles from now. -/
def State.owe (s : State) (code : Code) (vals : List Val) (cycles : Nat) (step : Instr) : State :=
  let sl := s.me.markEmpty code.toNat vals.length
  let o : Owed := { id := s.nextId, index := regIndex s.me.mode code.toNat, vals := vals }
  ({ s.setMe { sl with owed := sl.owed ++ [o] } with nextId := s.nextId + 1 } : State).schedule (s.cycle + cycles) step
    [s.cur, s.nextId]

/-- A value is owed to D: it lands at the given number of cycles after issue, whatever happens to the slot (R63). A
register that still waits for a value parks. -/
def oweRegs (code : Code) (vals : List Val) (cycles : Nat) (step : Instr) : Act Unit := fun s =>
  if s.me.fullFrom code.toNat vals.length then .ok ((), s.owe code vals cycles step)
  else .error (.park (waitOn code))

/-- DIV and DIVB (R63): D is marked empty, and the quotient lands exactly 18 cycles after issue. -/
def divide (f : RForm) (op : Word → Word → Word) : Act Unit := do
  check [f.srcA, f.srcB] [f.dst]
  let a ← rd f.a
  let b ← rd f.b
  oweRegs f.d [{ w := op a.w b.w, poison := a.poison || b.poison }] 18 .divisionLands

/-- A word whose pair the Catalogue gives as emulated: the loader replaces it with a call, and one that reaches
execution traps ILLEGAL (R51). -/
def emulatedWord : Act Unit := Act.trap .illegal 0 0

/-! ## Major 0x01 (R59) -/

def execAdd (f : RForm) (s : State) : Outcome := issue (.add f) (binary f (· + ·)) s
def execSub (f : RForm) (s : State) : Outcome := issue (.sub f) (binary f (· - ·)) s
def execAnd (f : RForm) (s : State) : Outcome := issue (.and f) (binary f (· &&& ·)) s
def execOr (f : RForm) (s : State) : Outcome := issue (.or f) (binary f (· ||| ·)) s
def execXor (f : RForm) (s : State) : Outcome := issue (.xor f) (binary f (· ^^^ ·)) s
def execShl (f : RForm) (s : State) : Outcome := issue (.shl f) (binary f shl) s
def execShr (f : RForm) (s : State) : Outcome := issue (.shr f) (binary f shr) s
def execSra (f : RForm) (s : State) : Outcome := issue (.sra f) (binary f sra) s
def execSlt (f : RForm) (s : State) : Outcome := issue (.slt f) (binary f slt) s
def execSltb (f : RForm) (s : State) : Outcome := issue (.sltb f) (binary f sltb) s
def execSeq (f : RForm) (s : State) : Outcome := issue (.seq f) (binary f seq) s
def execMul (f : RForm) (s : State) : Outcome := issue (.mul f) (binary f (· * ·)) s
def execMulhb (f : RForm) (s : State) : Outcome := issue (.mulhb f) (binary f mulhb) s
def execMin (f : RForm) (s : State) : Outcome := issue (.min f) (binary f minS) s
def execMax (f : RForm) (s : State) : Outcome := issue (.max f) (binary f maxS) s
def execMinb (f : RForm) (s : State) : Outcome := issue (.minb f) (binary f minU) s
def execMaxb (f : RForm) (s : State) : Outcome := issue (.maxb f) (binary f maxU) s
def execAddw (f : RForm) (s : State) : Outcome := issue (.addw f) (binaryPair f (· + ·)) s
def execSubw (f : RForm) (s : State) : Outcome := issue (.subw f) (binaryPair f (· - ·)) s

/-! ## Major 0x02 (R60) -/

def execAddi (f : IForm) (s : State) : Outcome := issue (.addi f) (immediate f (· + ·)) s
def execAndi (f : IForm) (s : State) : Outcome := issue (.andi f) (immediate f (· &&& ·)) s
def execOri (f : IForm) (s : State) : Outcome := issue (.ori f) (immediate f (· ||| ·)) s
def execXori (f : IForm) (s : State) : Outcome := issue (.xori f) (immediate f (· ^^^ ·)) s
def execShli (f : IForm) (s : State) : Outcome := issue (.shli f) (immediate f shl) s
def execShri (f : IForm) (s : State) : Outcome := issue (.shri f) (immediate f shr) s
def execSrai (f : IForm) (s : State) : Outcome := issue (.srai f) (immediate f sra) s
def execSlti (f : IForm) (s : State) : Outcome := issue (.slti f) (immediate f slt) s
def execSltbi (f : IForm) (s : State) : Outcome := issue (.sltbi f) (immediate f sltb) s
def execSeqi (f : IForm) (s : State) : Outcome := issue (.seqi f) (immediate f seq) s
def execMuli (f : IForm) (s : State) : Outcome := issue (.muli f) (immediate f (· * ·)) s

/-- ADDWI (R60): the immediate is sign-extended to the pair. -/
def execAddwi (f : IForm) (s : State) : Outcome :=
  issue (.addwi f) (do
    check [f.srcA 2] [f.dst 2]
    let a ← rdp f.a
    wrp f.d { w := a.w + f.imm.signExtend 64, poison := a.poison }) s

def execMovi (f : IForm) (s : State) : Outcome :=
  issue (.movi f) (do
    check [] [f.dst]
    wr f.d { w := f.imm }) s

/-! ## Major 0x10 (R61 to R63) -/

def execDiv (f : RForm) (s : State) : Outcome := issue (.div f) (divide f divS) s
def execDivb (f : RForm) (s : State) : Outcome := issue (.divb f) (divide f divU) s
def execRem (f : RForm) (s : State) : Outcome := issue (.rem f) emulatedWord s
def execRemb (f : RForm) (s : State) : Outcome := issue (.remb f) emulatedWord s
def execMulh (f : RForm) (s : State) : Outcome := issue (.mulh f) (binary f mulh) s
def execClz (f : RForm) (s : State) : Outcome := issue (.clz f) (unary f clz) s
def execCtz (f : RForm) (s : State) : Outcome := issue (.ctz f) (unary f ctz) s
def execPopc (f : RForm) (s : State) : Outcome := issue (.popc f) (unary f popc) s
def execRotl (f : RForm) (s : State) : Outcome := issue (.rotl f) (binary f rotl) s
def execRotr (f : RForm) (s : State) : Outcome := issue (.rotr f) (binary f rotr) s
def execBext (f : RForm) (s : State) : Outcome := issue (.bext f) (binary f bext) s
def execBins (f : RForm) (s : State) : Outcome := issue (.bins f) (ternary f bins) s
def execShlw (f : RForm) (s : State) : Outcome := issue (.shlw f) (shiftPair f shlw) s
def execShrw (f : RForm) (s : State) : Outcome := issue (.shrw f) (shiftPair f shrw) s
def execSraw (f : RForm) (s : State) : Outcome := issue (.sraw f) (shiftPair f sraw) s
def execMulw (f : RForm) (s : State) : Outcome := issue (.mulw f) (binaryPair f (· * ·)) s
def execMulwb (f : RForm) (s : State) : Outcome := issue (.mulwb f) (binaryPair f mulwb) s
def execSltw (f : RForm) (s : State) : Outcome := issue (.sltw f) (comparePair f BitVec.slt) s
def execSltwb (f : RForm) (s : State) : Outcome := issue (.sltwb f) (comparePair f BitVec.ult) s
def execSel (f : RForm) (s : State) : Outcome := issue (.sel f) (ternary f sel) s

end Sys2Proof.Machine
end

