-- ==== Sys2Proof/Machine/Tiles.lean ====
section
/-! DEFINITION. Handle words and handle-table entries (R126 to R132): reading a word, telling whether it is stale,
dropping a handle, and whether a task's see handles let it start (R134). -/

namespace Sys2Proof.Machine

/-! ## The word (R127) -/

def handleKind (w : DWord) : Nat := (w.extractLsb' 62 2).toNat
def handlePkg (w : DWord) : Byte := w.extractLsb' 54 8
def handleDie (w : DWord) : Nat := (w.extractLsb' 51 3).toNat
def handleIndex (w : DWord) : Nat := (w.extractLsb' 35 16).toNat
def handleGen (w : DWord) : BitVec 16 := w.extractLsb' 19 16

def kindSee : Nat := 1
def kindFill : Nat := 2
def kindJoint : Nat := 3

/-- A word without its check value. -/
def handleBody (kind : Nat) (pkg : Byte) (die index : Nat) (gen : BitVec 16) : DWord :=
  BitVec.ofNat 2 kind ++ pkg ++ BitVec.ofNat 3 die ++ BitVec.ofNat 16 index ++ gen ++ (0 : BitVec 19)

/-- A word with the CHECK that the device computes for it (R127). -/
def withCheck (world : Nat) (body : DWord) : DWord :=
  let clear := body &&& ~~~(0x7FFFF : DWord)
  clear ||| (Config.handleCheck world clear).zeroExtend 64

/-- A word whose CHECK is wrong, whatever it was. -/
def spoiledWord (world : Nat) (w : DWord) : DWord := withCheck world w ^^^ 1

/-! ## The table (R126) -/

def entryDefault (_ : Nat) : Entry := {}

/-- An entry by its identity die · 65,536 + index. -/
def State.entry (s : State) (e : Nat) : Entry := (s.die (e / 65536)).handles.get entryDefault (e % 65536)

def State.setEntry (s : State) (e : Nat) (v : Entry) : State :=
  s.modDie (e / 65536) (fun d => { d with handles := d.handles.set entryDefault (e % 65536) v })

def State.modEntry (s : State) (e : Nat) (f : Entry → Entry) : State := s.setEntry e (f (s.entry e))

def handleEntry (w : DWord) : Nat := handleDie w * 65536 + handleIndex w

/-- The word of a handle to an entry. -/
def State.handleTo (s : State) (kind e : Nat) : DWord :=
  withCheck (s.die (e / 65536)).wid (handleBody kind s.pkgid (e / 65536) (e % 65536) (s.entry e).gen)

/-- A word of a tile that is homed on another package. -/
def State.away (s : State) (w : DWord) : Bool := handlePkg w != s.pkgid

/-- Such a package cannot be reached (R383). -/
def State.awayLost (s : State) (w : DWord) : Bool := s.unreachable.contains (handlePkg w).toNat

/-- What this package can tell of a tile homed on another: the tile of a package that cannot be reached is abandoned
(R383), and else all of it is open. -/
def State.awayEntry (s : State) (w : DWord) : Entry :=
  let x := Config.remoteEntry w s.cycle
  { used := true, len := BitVec.ofNat 64 (Config.remoteLength w), fill := handleKind w != kindSee
    sees := (x.extractLsb' 0 16).toNat, scratch := x.getLsbD 16, ring := if x.getLsbD 17 then some (0, 0, 0) else none
    gen := handleGen w
    state := if s.awayLost w then .abandoned else if x.getLsbD 18 then .open else if x.getLsbD 19 then .published
      else .abandoned }

/-- The entry that a word names, as this package knows it. -/
def State.wordEntry (s : State) (w : DWord) : Entry := if s.away w then s.awayEntry w else s.entry (handleEntry w)

/-- Whether a word is stale for a world (R128); of one that names another package only its CHECK is known here. The fill of a
tile that a partition reset has abandoned is dead wherever its word still stands (DESIGN CHOICE, assumption 77). -/
def State.stale (s : State) (world : Nat) (w : DWord) : Bool :=
  let e := s.entry (handleEntry w)
  withCheck world w != w || (!s.away w && (!e.used || e.gen != handleGen w || (s.die (handleDie w)).wid != world
    || (handleKind w != kindSee && !e.fill)))

/-! ## Retiring an entry (R126, R145) -/

def ringDefault (_ : Nat) : Ring := {}

def State.modRing (s : State) (slot q : Nat) (f : Ring → Ring) : State :=
  s.modSlot slot (fun sl => { sl with rings := sl.rings.set ringDefault q (f (sl.rings.get ringDefault q)) })

def State.modRingSlot (s : State) (slot q i : Nat) (f : RingSlot → RingSlot) : State :=
  s.modRing slot q (fun r =>
    match r.slots.find i with
    | some x => { r with slots := r.slots.put i (f x) }
    | none => r)

/-- A popped ring slot becomes free once no tile instruction reads it and its entry has retired (R145). -/
def RingSlot.settle (r : RingSlot) (s : State) : RingSlot :=
  if r.drain && r.readers == 0 && !(s.entry r.entry).fill && (s.entry r.entry).sees == 0 then
    { r with drain := false, freed := some s.cycle }
  else r

def State.settleRingSlot (s : State) (slot q i : Nat) : State := s.modRingSlot slot q i (fun r => r.settle s)

/-- The same for a ring whose launch is saved: its registers stand in what is held of it. -/
def State.settleHeldSlot (s : State) (lid slot q i : Nat) : State :=
  s.modLaunch lid (fun l =>
    let sl := l.held.slots.get slotDefault slot
    let ring := sl.rings.get ringDefault q
    match ring.slots.find i with
    | some r =>
      let ring := { ring with slots := ring.slots.put i (r.settle s) }
      { l with held := { l.held with
        slots := l.held.slots.set slotDefault slot { sl with rings := sl.rings.set ringDefault q ring } } }
    | none => l)

/-- An entry whose fill is dead and which no see handle names retires: its generation moves on, and it is free unless
a ring slot keeps it (R126, R145). -/
def State.retireEntry (s : State) (e : Nat) : State :=
  let x := s.entry e
  if x.used && !x.fill && x.sees == 0 then
    match x.ring with
    | none => s.setEntry e { gen := x.gen + 1 }
    | some (slot, q, i) =>
      let s := s.setEntry e { x with gen := x.gen + 1 }
      if s.launchSaved x.lid then s.settleHeldSlot x.lid slot q i
      else if ((((s.slot slot).rings.get ringDefault q).slots.find i).any (fun r => r.entry == e)) then
        s.settleRingSlot slot q i
      else s
  else s

/-- The last see handle of an entry may have died (R131). -/
def State.dropSee (s : State) (e : Nat) : State :=
  (s.modEntry e (fun x => { x with sees := x.sees - 1 })).retireEntry e

/-- A fill handle dies: its tile is published, or abandoned. A joint fill settles every member together (R123). One that has
died before settles nothing. -/
def State.settleFill (s : State) (e : Nat) (st : TileState) : State :=
  let x := s.entry e
  if !x.fill then s
  else
  let members := if x.members.isEmpty then [e] else x.members
  let s := members.foldl (fun s m =>
    (s.modEntry m (fun y => { y with state := st, fill := false, settled := some s.cycle })).retireEntry m) s
  if x.members.isEmpty then s
  else (s.modEntry e (fun y => { y with fill := false, state := st, settled := some s.cycle })).retireEntry e

/-! ## Readiness (R134, R268) -/

/-- A see handle of a descriptor lets its task start when its tile is published or abandoned. -/
def State.seeReady (s : State) (w : DWord) : Bool :=
  handleKind w != kindSee || (s.wordEntry w).state != .open

def State.descReady (s : State) (d : TaskDesc) : Bool := d.handles.all s.seeReady

/-- Ready entries of a core's deque on chip. -/
def State.readyCount (s : State) (core : Nat) : Nat := ((s.core core).deque.filter s.descReady).length

end Sys2Proof.Machine
end

