-- ==== Sys2Proof/Machine/Csr.lean ====
section
/-! DEFINITION. The control and state registers (R37 to R39) and the four instructions that reach them (R74). -/

namespace Sys2Proof.Machine

inductive CsrAccess where
  | none
  | read
  | write
  deriving DecidableEq, Repr

/-- What a mode may do with a CSR (R38). -/
def csrAccess (m : Mode) (n : Nat) : CsrAccess :=
  if n = 0x000 then .read
  else if n ≤ 0x009 then (if m = .task then .none else .write)
  else if n ≤ 0x01B then .write
  else if n = 0x022 ∨ n = 0x023 then (if m = .task then .read else .write)
  else if n ≤ 0x041 then .read
  else if n = 0x048 then (if m = .task then .read else .write)
  else if n ≤ 0x053 ∨ n = 0x060 then .write
  else if n ≤ 0x065 then (if m = .task then .read else .write)
  else if n ≤ 0x077 then .write
  else .read

def loWord (w : DWord) : Word := w.extractLsb' 0 32
def hiWord (w : DWord) : Word := w.extractLsb' 32 32
def setLo (w : DWord) (v : Word) : DWord := hiWord w ++ v
def setHi (w : DWord) (v : Word) : DWord := v ++ loWord w

/-- STATUS (R39). -/
def State.status (s : State) (k : Nat) : Word :=
  let sl := s.slot k
  let core := coreOfSlot k
  let wid := (s.die (dieOfCore core)).wid
  BitVec.ofNat 8 wid ++ (0 : BitVec 17)
    ++ BitVec.ofBool (s.cluster (clusterOfCore core)).fused ++ BitVec.ofBool (s.intervalWorlds.contains wid)
    ++ BitVec.ofBool sl.xlt ++ (0 : BitVec 2) ++ (match sl.mode with
      | .task => (0 : BitVec 2)
      | .handler => (1 : BitVec 2))

/-- COORD of a slot (R39). -/
def coordOf (k : Nat) : Word :=
  let core := coreOfSlot k
  BitVec.ofNat 8 (dieOfCore core) ++ BitVec.ofNat 8 (yOfCore core) ++ BitVec.ofNat 8 (xOfCore core)
    ++ (0 : BitVec 6) ++ BitVec.ofNat 2 (slotNumber k)

/-- CYCLE: compute cycles since the start event of the slot's launch (R39). -/
def State.cycleCount (s : State) (k : Nat) : DWord :=
  match s.launchOn (dieOfCore (coreOfSlot k)) with
  | some l => BitVec.ofNat 64 (s.cycle - l.start.getD s.cycle)
  | none => 0

/-- CLOAD (R39). Like DEQSTAT.READY it counts the ready tasks that the deque holds on chip, and not those spilled to
memory: the spec does not say which of them READYk means (DESIGN CHOICE, assumption 77). -/
def State.cload (s : State) (core : Nat) : Word :=
  let cl := clusterOfCore core
  let ready := fun k => BitVec.ofNat 8 (min 255 (s.readyCount (coreOfCluster cl k)))
  ready 3 ++ ready 2 ++ ready 1 ++ ready 0

/-- DEQSTAT (R39). -/
def State.deqstat (s : State) (core : Nat) : Word :=
  let c := s.core core
  BitVec.ofNat 16 (min 0xFFFF c.spilled.length) ++ BitVec.ofNat 8 (s.readyCount core)
    ++ BitVec.ofBool (!c.spilled.isEmpty) ++ BitVec.ofNat 7 c.deque.length

def lutDefault (_ : Nat) : Word := 0
def gvoffDefault (_ : Nat) : BitVec 16 := 0

/-- The value a CSR holds now (R38, R39). -/
def State.csr (s : State) (k n : Nat) : Word :=
  let sl := s.slot k
  let core := coreOfSlot k
  match n with
  | 0x000 => s.status k
  | 0x001 => sl.xcause.zeroExtend 32
  | 0x002 => sl.xpc
  | 0x003 => loWord sl.xval
  | 0x004 => hiWord sl.xval
  | 0x005 => loWord sl.xval2
  | 0x006 => hiWord sl.xval2
  | 0x007 => loWord sl.xinst
  | 0x008 => hiWord sl.xinst
  | 0x009 => sl.xsave
  | 0x010 => sl.fflags.zeroExtend 32
  | 0x011 => sl.fenable.zeroExtend 32
  | 0x012 => sl.frnd.zeroExtend 32
  | 0x020 => coordOf k
  | 0x021 => (s.core core).stage.zeroExtend 32
  | 0x022 => loWord sl.tilec
  | 0x023 => hiWord sl.tilec
  | 0x024 => ((s.launchOn (dieOfCore core)).map Launch.ident).getD 0
  | 0x030 => loWord (s.cycleCount k)
  | 0x031 => hiWord (s.cycleCount k)
  | 0x032 => loWord sl.retired
  | 0x033 => hiWord sl.retired
  | 0x040 => sl.cbase
  | 0x041 => sl.cbound
  | 0x048 => sl.window.zeroExtend 32
  | 0x060 => (0 : BitVec 30) ++ BitVec.ofBool sl.trcSusp ++ BitVec.ofBool sl.trcEn
  | 0x061 => loWord sl.tlbase
  | 0x062 => hiWord sl.tlbase
  | 0x063 => sl.tllim
  | 0x064 => sl.tltail
  | 0x065 => sl.trcur
  | 0x066 => loWord sl.gdelta
  | 0x067 => hiWord sl.gdelta
  | 0x080 => 0x08102020
  | 0x081 => s.cload core
  | 0x082 => s.deqstat core
  | 0x090 => sl.kmeter
  | n =>
    if 0x018 ≤ n ∧ n ≤ 0x01B then sl.mxc.get mxcDefault (n - 0x018)
    else if 0x050 ≤ n ∧ n ≤ 0x053 then sl.lut.get lutDefault (n - 0x050)
    else if 0x068 ≤ n ∧ n ≤ 0x077 then (sl.gvoff.get gvoffDefault (n - 0x068)).zeroExtend 32
    else 0

/-- FFLAGS or FENABLE written: a pending landing FPTRAP is withdrawn when no enabled flag stands. One that stays pending
still tells what has landed (R40). -/
def Slot.withdraw (sl : Slot) : Slot :=
  let left := if sl.fflags &&& sl.fenable = 0 then 0 else sl.fptrap
  { sl with fptrap := left, landed := if left = 0 then sl.landed &&& sl.fflags else sl.landed }

/-- Write a CSR; reserved bits are ignored (R3, R39). Only CSRs that some mode may write are listed. -/
def Slot.setCsr (sl : Slot) (n : Nat) (v : Word) : Slot :=
  match n with
  | 0x001 => { sl with xcause := v.extractLsb' 0 8 }
  | 0x002 => { sl with xpc := v }
  | 0x003 => { sl with xval := setLo sl.xval v }
  | 0x004 => { sl with xval := setHi sl.xval v }
  | 0x005 => { sl with xval2 := setLo sl.xval2 v }
  | 0x006 => { sl with xval2 := setHi sl.xval2 v }
  | 0x007 => { sl with xinst := setLo sl.xinst v }
  | 0x008 => { sl with xinst := setHi sl.xinst v }
  | 0x009 => { sl with xsave := v }
  | 0x010 => { sl with fflags := v.extractLsb' 0 5 }.withdraw
  | 0x011 => { sl with fenable := v.extractLsb' 0 5 }.withdraw
  | 0x012 => { sl with frnd := v.extractLsb' 0 3 }
  | 0x022 => { sl with tilec := setLo sl.tilec v }
  | 0x023 => { sl with tilec := setHi sl.tilec (v &&& 0xFFFF) }
  | 0x048 => { sl with window := v.extractLsb' 0 2 }
  | 0x060 => { sl with trcEn := v.getLsbD 0 }
  | 0x061 => { sl with tlbase := setLo sl.tlbase v }
  | 0x062 => { sl with tlbase := setHi sl.tlbase v }
  | 0x063 => { sl with tllim := v }
  | 0x064 => { sl with tltail := v }
  | 0x065 => sl.setTrcur v
  | 0x066 => { sl with gdelta := setLo sl.gdelta v }
  | 0x067 => { sl with gdelta := setHi sl.gdelta v }
  | n =>
    if 0x018 ≤ n ∧ n ≤ 0x01B then { sl with mxc := sl.mxc.set mxcDefault (n - 0x018) v }
    else if 0x050 ≤ n ∧ n ≤ 0x053 then { sl with lut := sl.lut.set lutDefault (n - 0x050) v }
    else if 0x068 ≤ n ∧ n ≤ 0x077 then
      { sl with gvoff := sl.gvoff.set gvoffDefault (n - 0x068) (v.extractLsb' 0 16) }
    else sl

/-! ## Latched high words (R37) -/

def latchedDefault (_ : Nat) : Option Word := none

/-- The low words whose reading latches the high word. -/
def latchLow (n : Nat) : Bool := n == 0x030 || n == 0x032 || n == 0x061 || n == 0x066

/-- Read a CSR: a low word latches its high word, and the next read of the high word returns what was latched. -/
def readCsr (n : Nat) : Act Word := fun s =>
  let k := s.cur
  let sl := s.me
  if latchLow n then
    .ok (s.csr k n, s.setMe { sl with latched := sl.latched.set latchedDefault n (some (s.csr k (n + 1))) })
  else
    match sl.latched.get latchedDefault (n - 1) with
    | some v =>
      if latchLow (n - 1) then .ok (v, s.setMe { sl with latched := sl.latched.set latchedDefault (n - 1) none })
      else .ok (s.csr k n, s)
    | none => .ok (s.csr k n, s)

/-- Owed spans of a slot (R33). -/
def State.owes (s : State) (k : Nat) : Bool := s.spans.any (fun x => x.slot == k && !x.held)

/-- A CSR instruction (R74): op is none for CSRR, or gives the new value from the old and a. -/
def csrOp (f : IForm) (op : Option (Word → Word → Word)) : Act Unit := do
  let n := f.imm.toNat
  let sl ← Act.me
  Act.trapIf (csrAccess sl.mode n == .none) .priv 0 0
  Act.trapIf (op.isSome && csrAccess sl.mode n == .read) .illegal 0 0
  check (if op.isSome then [f.srcA] else []) [f.dst]
  let s ← Act.state
  Act.parkIf ((n == 0x010 || (decide (0x018 ≤ n) && decide (n ≤ 0x01B)) || (op.isSome && n == 0x048)) && s.owes s.cur)
    { xval := f.d.toNat, reason := 0x03 }
  let old ← readCsr n
  match op with
  | none => pure ()
  | some g => do
    let a ← rd f.a
    Act.trapIf a.poison .poison f.a.toNat 0
    let new := g old a.w
    -- TRC.SUSP is the one field of a writable CSR that is read-only (R39)
    Act.trapIf (n == 0x060 && new.getLsbD 1 != old.getLsbD 1) .illegal 0 0
    Act.trapIf (n == 0x012 && decide (5 ≤ new.toNat % 8)) .illegal 0 0
    Act.modMe (fun sl => sl.setCsr n new)
  wr f.d { w := old }

def execCsrr (f : IForm) (s : State) : Outcome := issue (.csrr f) (csrOp f none) s
def execCsrw (f : IForm) (s : State) : Outcome := issue (.csrw f) (csrOp f (some (fun _ a => a))) s
def execCsrs (f : IForm) (s : State) : Outcome := issue (.csrs f) (csrOp f (some (fun old a => old ||| a))) s
def execCsrc (f : IForm) (s : State) : Outcome := issue (.csrc f) (csrOp f (some (fun old a => old &&& ~~~a))) s

end Sys2Proof.Machine
end

