-- ==== Sys2Proof/Machine/Hash.lean ====
section
/-! DEFINITION. SHA-512, the hash of R309, R314, R376 and R379. The spec names it and does not restate it: the algorithm
is taken from its standard, FIPS 180-4 (PRESUMED). -/

namespace Sys2Proof.Machine

/-- Word i of a row of n words that stand in one number, the first at its top. -/
def rowWord (row n i : Nat) : DWord := BitVec.ofNat 64 (row / 2 ^ (64 * (n - 1 - i)))

/-- The constants of sixteen rounds, as one number: the first 64 bits of the fractional parts of the cube roots of sixteen
primes. -/
def shaRow (r : Nat) : Nat :=
  match r with
  | 0 =>
    0x428a2f98d728ae227137449123ef65cdb5c0fbcfec4d3b2fe9b5dba58189dbbc3956c25bf348b53859f111f1b605d019923f82a4af194f9bab1c5ed5da6d8118d807aa98a303024212835b0145706fbe243185be4ee4b28c550c7dc3d5ffb4e272be5d74f27b896f80deb1fe3b1696b19bdc06a725c71235c19bf174cf692694
  | 1 =>
    0xe49b69c19ef14ad2efbe4786384f25e30fc19dc68b8cd5b5240ca1cc77ac9c652de92c6f592b02754a7484aa6ea6e4835cb0a9dcbd41fbd476f988da831153b5983e5152ee66dfaba831c66d2db43210b00327c898fb213fbf597fc7beef0ee4c6e00bf33da88fc2d5a79147930aa72506ca6351e003826f142929670a0e6e70
  | 2 =>
    0x27b70a8546d22ffc2e1b21385c26c9264d2c6dfc5ac42aed53380d139d95b3df650a73548baf63de766a0abb3c77b2a881c2c92e47edaee692722c851482353ba2bfe8a14cf10364a81a664bbc423001c24b8b70d0f89791c76c51a30654be30d192e819d6ef5218d69906245565a910f40e35855771202a106aa07032bbd1b8
  | 3 =>
    0x19a4c116b8d2d0c81e376c085141ab532748774cdf8eeb9934b0bcb5e19b48a8391c0cb3c5c95a634ed8aa4ae3418acb5b9cca4f7763e373682e6ff3d6b2b8a3748f82ee5defb2fc78a5636f43172f6084c87814a1f0ab728cc702081a6439ec90befffa23631e28a4506cebde82bde9bef9a3f7b2c67915c67178f2e372532b
  | _ =>
    0xca273eceea26619cd186b8c721c0c207eada7dd6cde0eb1ef57d4f7fee6ed17806f067aa72176fba0a637dc5a2c898a6113f9804bef90dae1b710b35131c471b28db77f523047d8432caab7b40c724933c9ebe0a15c9bebc431d67c49c100d4c4cc5d4becb3e42b6597f299cfc657e2a5fcb6fab3ad6faec6c44198c4a475817

/-- The constant of round t. -/
def shaConstant (t : Nat) : DWord := rowWord (shaRow (t / 16)) 16 (t % 16)

/-- The eight words a hash starts from: the same of the square roots of the first eight primes. -/
def shaStart : List DWord :=
  (List.range 8).map (rowWord
    0x6a09e667f3bcc908bb67ae8584caa73b3c6ef372fe94f82ba54ff53a5f1d36f1510e527fade682d19b05688c2b3e6c1f1f83d9abfb41bd6b5be0cd19137e2179 8)

/-- The padding after n bytes: a one bit, zeros, and the length in bits as a big-endian 128-bit number. -/
def shaPad (n : Nat) : List Byte :=
  0x80 :: List.replicate ((239 - n % 128) % 128) 0
    ++ ((List.range 16).map (fun i => BitVec.ofNat 8 (8 * n / 256 ^ (15 - i))))

/-- The first eight bytes as a big-endian word. -/
def bigWord (bs : List Byte) : DWord := (bs.take 8).foldl (fun w b => w <<< 8 ||| b.zeroExtend 64) 0

/-- n words of a block, the last first. -/
def shaWords (bs : List Byte) : Nat → List DWord → List DWord
  | 0, ws => ws
  | n + 1, ws => shaWords (bs.drop 8) n (bigWord bs :: ws)

/-- A word turned right by each of some counts, all of them added bit by bit. -/
def turned (x : DWord) (counts : List Nat) : DWord := (counts.map x.rotateRight).foldl (· ^^^ ·) 0

/-- The message schedule grows by n words; the last word comes first. -/
def shaSchedule : Nat → List DWord → List DWord
  | 0, ws => ws
  | n + 1, ws =>
    let ago := fun (i : Nat) => ws.getD (i - 1) 0
    let early := turned (ago 15) [1, 8] ^^^ ago 15 >>> 7
    let late := turned (ago 2) [19, 61] ^^^ ago 2 >>> 6
    shaSchedule n ((ago 16 + early + ago 7 + late) :: ws)

/-- Round t with its word of the schedule: the first bit of three that a word chooses by, and the one that most of three
agree on. -/
def shaRound (v : List DWord) (step : Nat × DWord) : List DWord :=
  let at_ := fun (i : Nat) => v.getD i 0
  let chosen := at_ 6 ^^^ at_ 4 &&& (at_ 5 ^^^ at_ 6)
  let most := at_ 0 &&& at_ 1 ||| at_ 2 &&& (at_ 0 ||| at_ 1)
  let mixed := shaConstant step.1 + step.2 + at_ 7 + turned (at_ 4) [14, 18, 41] + chosen
  (mixed + most + turned (at_ 0) [28, 34, 39]) :: (v.take 3 ++ (at_ 3 + mixed) :: (v.drop 4).take 3)

/-- One block of 128 bytes. -/
def shaBlock (h : List DWord) (bs : List Byte) : List DWord :=
  let ws := (shaSchedule 64 (shaWords bs 16 [])).reverse
  let v := ((List.range 80).zip ws).foldl shaRound h
  (List.range 8).map (fun i => h.getD i 0 + v.getD i 0)

/-- The hash of n blocks. -/
def shaBlocks : Nat → List Byte → List DWord → List DWord
  | 0, _, h => h
  | n + 1, bs, h => shaBlocks n (bs.drop 128) (shaBlock h (bs.take 128))

/-- SHA-512: 64 bytes. -/
def sha512 (bs : List Byte) : List Byte :=
  let padded := bs ++ shaPad bs.length
  (shaBlocks (padded.length / 128) padded shaStart).flatMap (fun w =>
    (List.range 8).map (fun i => w.extractLsb' (56 - 8 * i) 8))

end Sys2Proof.Machine
end

