-- ==== Sys2Proof/Machine/Catalogue.lean ====
section
/-! DEFINITION. The Catalogue (R304 to R309), from which a translator learns what this part is. -/

namespace Sys2Proof.Machine

def zeros (n : Nat) : List Byte := List.replicate n 0
def le16 (n : Nat) : List Byte := bytesOfWord 2 n
def le32 (n : Nat) : List Byte := bytesOfWord 4 n
def le64 (n : Nat) : List Byte := bytesOfWord 8 n

/-- The header and the section directory (R304, R305). -/
def State.catalogueHead (s : State) : List Byte :=
  le32 0x4358524D ++ le16 1 ++ le16 4 ++ le32 0x400 ++ le32 0x8864 ++ le64 (Config.firmwareVersion s.firmware).toNat
    ++ zeros 40
    ++ le32 1 ++ le32 0x080 ++ le32 0x040 ++ le32 0 ++ le32 2 ++ le32 0x0C0 ++ le32 0x140 ++ le32 0
    ++ le32 3 ++ le32 0x200 ++ le32 0x108 ++ le32 0 ++ le32 4 ++ le32 0x340 ++ le32 0x0B8 ++ le32 0

/-- FIGURES (R306). -/
def figures : List Byte :=
  le32 850 ++ [8, 72, 4, 4] ++ le32 0xC0000 ++ le32 0x80000 ++ le32 0x40000 ++ le32 0x10000 ++ le32 0x08102020
    ++ le16 0x0FFF ++ [56, 52] ++ le32 65536 ++ le16 2048 ++ zeros 26

/-- LIVE (R307): a die's record. -/
def State.liveRecord (s : State) (die : Nat) : List Byte :=
  [if s.deadDies.contains die then 1 else 0, 0, 0, 0]
    ++ (List.range 36).map (fun b =>
      BitVec.ofNat 8 (((List.range 8).map (fun i =>
        if s.deadCores.contains (die * coresPerDie + 8 * b + i) then 0 else 2 ^ i)).foldl (· + ·) 0))

def statusRanges0 : List (List Byte) :=
  [[0x10, 0x00, 0x01, 0x01], [0x10, 0x02, 0x03, 0x02], [0x10, 0x04, 0x13, 0x01], [0x11, 0x00, 0x0D, 0x01],
   [0x11, 0x80, 0x83, 0x01], [0x11, 0x84, 0x85, 0x02], [0x11, 0x86, 0x8D, 0x01], [0x12, 0x02, 0x05, 0x01],
   [0x12, 0x12, 0x15, 0x01], [0x12, 0x20, 0x21, 0x01], [0x12, 0x23, 0x27, 0x01]]
def statusRanges1 : List (List Byte) :=
  [[0x12, 0x30, 0x32, 0x01], [0x12, 0x34, 0x37, 0x01], [0x12, 0x40, 0x43, 0x01], [0x12, 0x45, 0x47, 0x01],
   [0x12, 0x50, 0x54, 0x01], [0x12, 0x56, 0x57, 0x01], [0x12, 0x62, 0x65, 0x01], [0x12, 0x72, 0x75, 0x01],
   [0x13, 0x00, 0x03, 0x01], [0x15, 0x00, 0x02, 0x01], [0x18, 0x00, 0x00, 0x01]]
def statusRanges2 : List (List Byte) :=
  [[0x19, 0x00, 0x00, 0x01], [0x1A, 0x00, 0x00, 0x01], [0x1B, 0x00, 0x00, 0x01], [0x1C, 0x00, 0x00, 0x01],
   [0x20, 0x00, 0x00, 0x01], [0x20, 0x01, 0x01, 0x01], [0x21, 0x00, 0x04, 0x01], [0x22, 0x00, 0x00, 0x01],
   [0x23, 0x00, 0x00, 0x01], [0x24, 0x00, 0x00, 0x01], [0x25, 0x00, 0x00, 0x01]]
def statusRanges3 : List (List Byte) :=
  [[0x28, 0x00, 0x03, 0x01], [0x30, 0x00, 0x0C, 0x01], [0x31, 0x00, 0x0D, 0x01], [0x32, 0x00, 0x0B, 0x01],
   [0x33, 0x00, 0x04, 0x01], [0x34, 0x00, 0x05, 0x01], [0x35, 0x00, 0x00, 0x01], [0x36, 0x00, 0x00, 0x01],
   [0x37, 0x00, 0x00, 0x01], [0x38, 0x00, 0x00, 0x01], [0x39, 0x00, 0x00, 0x01]]
def statusRanges4 : List (List Byte) :=
  [[0x3A, 0x00, 0x00, 0x01], [0x3B, 0x00, 0x00, 0x01], [0x3C, 0x00, 0x0C, 0x01], [0x3D, 0x00, 0x00, 0x01],
   [0x40, 0x00, 0x04, 0x01], [0x41, 0x00, 0x04, 0x01], [0x42, 0x00, 0x00, 0x01], [0x43, 0x00, 0x00, 0x01],
   [0x44, 0x00, 0x04, 0x01], [0x45, 0x00, 0x00, 0x01], [0x46, 0x00, 0x03, 0x01]]
def statusRanges5 : List (List Byte) :=
  [[0x47, 0x00, 0x00, 0x01], [0x48, 0x00, 0x00, 0x01], [0x49, 0x00, 0x00, 0x01], [0x4A, 0x00, 0x00, 0x01],
   [0x50, 0x00, 0x05, 0x01], [0x58, 0x00, 0x02, 0x01], [0x59, 0x00, 0xFF, 0x01], [0x5A, 0x00, 0x00, 0x01],
   [0x60, 0x00, 0x00, 0x01], [0x61, 0x00, 0x03, 0x01], [0x62, 0x00, 0x04, 0x01]]

/-- STATUS (R308): OP, FNLO, FNHI and ST of every range of assigned pairs. -/
def statusRanges : List (List Byte) :=
  statusRanges0 ++ statusRanges1 ++ statusRanges2 ++ statusRanges3 ++ statusRanges4 ++ statusRanges5

/-- The bytes of the emulation library. -/
def State.library (s : State) : List Byte := (List.range 0x1000).map (Config.libraryByte s.firmware)

/-- EMULIB (R309): OP, FN, RND and library offset of every entry. -/
def emulations : List (Nat × Nat × Nat × Nat) :=
  [(0x10, 2, 0, 0), (0x10, 3, 0, 0x200)]
    ++ (List.range 6).map (fun r => (0x11, 0x84, r, 0x400 + 0x100 * r))
    ++ (List.range 6).map (fun r => (0x11, 0x85, r, 0xA00 + 0x100 * r))

def State.emulib (s : State) : List Byte :=
  sha512 s.library ++ le32 0x1000 ++ le32 14
    ++ emulations.flatMap (fun e =>
      [BitVec.ofNat 8 e.1, BitVec.ofNat 8 e.2.1, BitVec.ofNat 8 e.2.2.1, 0] ++ le32 e.2.2.2)

/-- The Catalogue's TOTLEN bytes. -/
def State.catalogue (s : State) : List Byte :=
  let head := s.catalogueHead ++ figures ++ (List.range 8).flatMap s.liveRecord
  let status := statusRanges.flatten
  head ++ status ++ zeros (0x140 - status.length) ++ s.emulib ++ zeros 8

/-- H꜀ of R314. -/
def State.catalogueHash (s : State) : List Byte := sha512 s.catalogue

end Sys2Proof.Machine
end

