-- ==== Sys2Proof/Machine/Control.lean ====
section
/-! DEFINITION. Branches and jumps (R71 to R73), TRAP, BRK, ERET and NOP (R75 to R78). -/

namespace Sys2Proof.Machine

/-- 8 · sx(n, 32), added to the program counter modulo 2^32 (R55). -/
def branchTarget (pc off : Word) : Word := pc + 8 * off

/-- A compare and branch (R71): both sources are read, a poisoned one traps, and the target is not checked here. -/
def branch (f : BForm) (taken : Word → Word → Bool) : Act Word := do
  check [{ code := f.a, ep := bitSet f.ep 0 }, { code := f.b, ep := bitSet f.ep 1 }]
  let sl ← Act.me
  let a ← rd f.a
  let b ← rd f.b
  Act.trapIf a.poison .poison f.a.toNat 0
  Act.trapIf b.poison .poison f.b.toNat 0
  return if taken a.w b.w then branchTarget sl.pc f.off else sl.pc + 8

def execBeq (f : BForm) (s : State) : Outcome := issueTo (.beq f) (branch f (fun a b => a == b)) s
def execBne (f : BForm) (s : State) : Outcome := issueTo (.bne f) (branch f (fun a b => a != b)) s
def execBlt (f : BForm) (s : State) : Outcome := issueTo (.blt f) (branch f BitVec.slt) s
def execBge (f : BForm) (s : State) : Outcome := issueTo (.bge f) (branch f (fun a b => !a.slt b)) s
def execBltb (f : BForm) (s : State) : Outcome := issueTo (.bltb f) (branch f BitVec.ult) s
def execBgeb (f : BForm) (s : State) : Outcome := issueTo (.bgeb f) (branch f (fun a b => !a.ult b)) s

/-- JAL (R72). -/
def execJal (f : IForm) (s : State) : Outcome :=
  issueTo (.jal f) (do
    check [] [f.dst]
    let sl ← Act.me
    wr f.d { w := sl.pc + 8 }
    return branchTarget sl.pc f.imm) s

/-- JALR (R73): the base is read before D is written. -/
def execJalr (f : IForm) (s : State) : Outcome :=
  issueTo (.jalr f) (do
    check [f.srcA] [f.dst]
    let sl ← Act.me
    let a ← rd f.a
    Act.trapIf a.poison .poison f.a.toNat 0
    wr f.d { w := sl.pc + 8 }
    return a.w + f.imm) s

/-- TRAP (R75): the immediate and the value of A are the trap's values; a poison bit is dropped. -/
def execTrap (f : IForm) (s : State) : Outcome :=
  issue (.trap f) (do
    check [f.srcA]
    let a ← rd f.a
    Act.trap .trap (f.imm.zeroExtend 64) (a.w.zeroExtend 64)) s

/-- BRK (R76). -/
def execBrk (f : IForm) (s : State) : Outcome :=
  issue (.brk f) (Act.trap .break (f.imm.zeroExtend 64) 0) s

/-- ERET (R77): PRIV in task mode; in handler mode the task resumes at XPC. -/
def execEret (f : IForm) (s : State) : Outcome :=
  issueTo (.eret f) (do
    let sl ← Act.me
    Act.trapIf (decide (sl.mode = .task)) .priv 0 0
    Act.modMe Slot.leaveHandler
    return sl.xpc) s

/-- NOP (R78). -/
def execNop (f : IForm) (s : State) : Outcome := issue (.nop f) (pure ()) s

end Sys2Proof.Machine
end

