-- ==== Sys2Proof/Machine/Signals.lean ====
section
/-! DEFINITION. Memory at home, and who waits for a word of it: what a waiting BARRIER finds when it reads the signals it
names (R326 to R328, R344), and the JOINs and WAITQs that read their word again (R277). -/

namespace Sys2Proof.Machine

/-! ## Home -/

def memDefault (_ : Nat) : Mem := {}

def State.memAt (s : State) : Place → Mem
  | .dram => s.dram
  | .host => s.hostMem
  | .scratchpad c => s.scratch.get memDefault c
  | .arena c => s.arena.get memDefault c
  | .window r => s.windows.get memDefault r

def State.setMemAt (s : State) (p : Place) (m : Mem) : State :=
  match p with
  | .dram => { s with dram := m }
  | .host => { s with hostMem := m }
  | .scratchpad c => { s with scratch := s.scratch.set memDefault c m }
  | .arena c => { s with arena := s.arena.set memDefault c m }
  | .window r => { s with windows := s.windows.set memDefault r m }

/-- Memory behind L1s: device DRAM and host memory. -/
def Place.cached : Place → Bool
  | .dram => true
  | .host => true
  | _ => false

/-! ## Signals -/

/-- The front end stands on no die: it keeps no entry of a device page. -/
def frontDie : Nat := 8

def State.dropFrontTlb (s : State) : State :=
  { s with tlb := s.tlb.filter (fun e => !(e.die == frontDie && e.pasid.isNone)) }

def Packet.translator (p : Packet) : Translator :=
  { die := frontDie, world := p.wid, pasid := p.pasid, user := .packet p.id }

/-- Whether a signal's value meets the comparison. -/
def Cond.holds (c : Cond) (v : DWord) : Bool :=
  match c.cmp with
  | 0 => v == c.thr
  | 1 => v != c.thr
  | 2 => v.slt c.thr
  | 3 => v.sle c.thr
  | 4 => c.thr.slt v
  | _ => c.thr.sle v

/-- The value of a signal, at its home. -/
def State.signal (s : State) (c : Cond) : DWord := BitVec.ofNat 64 ((s.memAt c.place).word c.off 8)

/-- One evaluation (R328): aborted by a negative signal, complete, or still waiting. -/
def State.evaluate (s : State) (conds : List Cond) : Option (Option Nat) :=
  match conds.find? (fun c => (s.signal c).slt 0) with
  | some c => some (some c.va)
  | none => if conds.all (fun c => c.holds (s.signal c)) then some none else none

def State.modPacket (s : State) (id : Nat) (f : Packet → Packet) : State :=
  { s with packets := s.packets.map (fun p => if p.id = id then f p else p) }

def State.packet (s : State) (id : Nat) : Option Packet := s.packets.find? (fun p => p.id == id)

/-- A condition at the present place of its signal: none where the page must be asked for, or is the world's no more
(R17). -/
def State.placeCond (s : State) (t : Translator) (c : Cond) : Option Cond :=
  match (s.translate t c.va false).1 with
  | .host a => some { c with place := .host, off := a }
  | .dram pa => some { c with place := .dram, off := pa }
  | _ => none

/-- A waiting BARRIER is evaluated; the first decision stands, and acts in the same cycle. Where a signal's page must be
asked for, the evaluation comes with its answer. -/
def State.judge (s : State) (p : Packet) : State :=
  if p.conds.isEmpty || p.verdict.isSome || p.result.isSome then s
  else
    let conds := p.conds.filterMap (s.placeCond p.translator)
    if conds.length < p.conds.length then s.schedule s.cycle .hostSignalPoll [p.id]
    else
      match s.evaluate conds with
      | none => s
      | some v => (s.modPacket p.id (fun p => { p with verdict := some v })).schedule s.cycle .barrierEvaluate [p.id]

/-- The BARRIERs that wait on a signal in device memory which a write has touched are evaluated. -/
def State.signalWritten (s : State) (p : Piece) : State :=
  if p.place = .dram then
    (s.packets.filter (fun x => x.conds.any (fun c =>
      c.place == .dram && decide (p.off < c.off + 8) && decide (c.off < p.off + p.len)))).foldl State.judge s
  else s

/-! ## Words that a write has touched -/

/-- JOINs and WAITQs of some cores that wait on a word in a sector of a piece read it again (R277). -/
def State.wakeWaiters (s : State) (p : Piece) (who : Nat → Bool) : State :=
  s.slots.foldl (fun s e =>
    match e.2.parked.bind (fun q => q.wait.word) with
    | some (place, off) =>
      if place == p.place && decide (sectorBase p.off ≤ off) && decide (off < sectorBase p.off + sectorSpan p.off p.len)
          && who (coreOfSlot e.1) then
        s.schedule s.cycle .waitWordReread [e.1]
      else s
    | none => s) s

/-- What a write at home of a piece sets going, whatever has brought it there: JOINs, WAITQs, and the BARRIERs that wait
on a signal in it (R277, R344). -/
def State.wakeWords (s : State) (p : Piece) : State := (s.signalWritten p).wakeWaiters p (fun _ => true)

end Sys2Proof.Machine
end

