-- ==== Sys2Proof/Machine/Memory.lean ====
section
/-! DEFINITION. The memory system: the L1 of a core (R91 to R93), the order in which a slot's accesses
are performed (R86, R112 to R121), and the landing of loads, stores and atomics (R84 to R90). -/

namespace Sys2Proof.Machine

/-! ## L1 lines -/

/-- The key of a line in an L1: device and host lines are told apart. -/
def lineKey (p : Place) (a : Nat) : Nat := a / 256 * 2 + (if p = .host then 1 else 0)
def linePlace (key : Nat) : Place := if key % 2 = 1 then .host else .dram
def lineBase (key : Nat) : Nat := key / 2 * 256

/-- The L1 that holds an address for a core: its own, or under fusion that of cluster core PA[9:8] (R92). -/
def State.l1Of (s : State) (core a : Nat) : Nat :=
  let cl := clusterOfCore core
  if (s.cluster cl).fused then coreOfCluster cl (a / 256 % 4) else core

/-- The set of a line: PA[15:8], or PA[17:10] under fusion (R92). -/
def State.lineSet (s : State) (core key : Nat) : Nat :=
  let a := lineBase key
  if (s.cluster (clusterOfCore core)).fused then a / 1024 % 256 else a / 256 % 256

def State.line (s : State) (l1 key : Nat) : Option Line := (s.core l1).lines.find key
def State.setLine (s : State) (l1 key : Nat) (x : Line) : State :=
  s.modCore l1 (fun c => { c with lines := c.lines.put key x })
def State.dropLine (s : State) (l1 key : Nat) : State :=
  s.modCore l1 (fun c => { c with lines := c.lines.erase key })

/-- The reads that a read-count code allows (R91). -/
def readLimit (rdc : BitVec 3) : Nat :=
  match rdc.toNat with
  | 1 => 1 | 2 => 2 | 3 => 3 | 4 => 4 | 5 => 8 | 6 => 16 | 7 => 64 | _ => 0

/-- A line may keep an old image, or a write may be held back, in interval mode (R362): the undo log takes the line of
device memory at its first write in the interval, and the commit buffer takes a write of the world to the host. -/
def State.logWrite (s : State) (w : Nat) (p : Place) (a : Nat) : State :=
  match p with
  | .dram =>
    let key := a / 256
    let w := (s.die (dieOfAddress a)).wid
    if s.intervalWorlds.contains w && !(s.undo.any (fun e => e.1 == w && e.2.1 == key)) then
      { s with undo := (w, key, (List.range 256).map (fun i =>
          (s.dram.byte (key * 256 + i), s.dram.poisonAt (key * 256 + i)))) :: s.undo }
    else s
  | .host =>
    if s.intervalWorlds.contains w then
      { s with commit := (w, a, s.hostMem.byte a, s.hostMem.poisonAt a) :: s.commit }
    else s
  | _ => s

/-- The same for n bytes from an address. -/
def State.logRange (s : State) (w : Nat) (p : Place) (a n : Nat) : State :=
  if s.intervalWorlds.isEmpty then s
  else
    match p with
    | .dram => (List.range ((a % 256 + n + 255) / 256)).foldl (fun s i => s.logWrite w p (a + 256 * i)) s
    | .host => (List.range n).foldl (fun s i => s.logWrite w p (a + i)) s
    | _ => s

/-- Write one byte at home, for a world. -/
def State.homeByte (s : State) (w : Nat) (p : Place) (a : Nat) (v : Byte) (poison : Bool) : State :=
  let s := s.logWrite w p a
  let m := (s.memAt p).setByte a v
  s.setMemAt p { m with poison := m.poison.set poisonDefault a poison }

/-- Poison a sector at home. -/
def State.homePoison (s : State) (w : Nat) (p : Place) (a : Nat) : State :=
  let s := s.logRange w p (sectorBase a) 64
  s.setMemAt p ((s.memAt p).poisonSectors a 1)

/-- Where a translator run's windows stand in the translation area of its die: one after the other, each in a quarter of it
(R299; DESIGN CHOICE, assumption 84). -/
def windowArea (run a : Nat) : Nat :=
  dieOfCore (coreOfSlot run) * 0x1000000000 + 0xB00000000 + (a / 0x100000000 - 1) * 0x10000000 + a % 0x10000000

/-- The run in whose windows an address of device memory lies, and the address there. -/
def State.windowAt (s : State) (pa : Nat) : Option (Nat × Nat) :=
  let off := pa % 0x1000000000
  if 0xB00000000 ≤ off ∧ off < 0xB40000000 then
    (s.runs.find? (fun e => dieOfCore (coreOfSlot e.1) == dieOfAddress pa)).map (fun e =>
      (e.1, ((off - 0xB00000000) / 0x10000000 + 1) * 0x100000000 + (off - 0xB00000000) % 0x10000000))
  else none

/-- The physical address of a byte of device memory. -/
def Place.physical (p : Place) (a : Nat) : Option Nat :=
  match p with
  | .dram => some a
  | .window k => some (windowArea k a)
  | _ => none

/-- A line of a confidential world is written back: its version rises (R367). -/
def State.raiseVersion (s : State) (p : Place) (a : Nat) : State :=
  match p.physical a with
  | some pa =>
    if (s.die (dieOfAddress pa)).wid != 0 then
      { s with versions := s.versions.set (fun _ => 0) (pa / 256) (s.versions.get (fun _ => 0) (pa / 256) + 1) }
    else s
  | none => s

/-- The same for every line of n bytes from the start of a line. -/
def State.raiseRange (s : State) (p : Place) (a n : Nat) : State :=
  (List.range ((n + 255) / 256)).foldl (fun s i => s.raiseVersion p (a + 256 * i)) s

/-- The world whose stores an L1 holds. -/
def State.worldOf (s : State) (core : Nat) : Nat := (s.die (dieOfCore core)).wid

def Line.isDirty (x : Line) : Bool := x.bytes.any (fun e => e.2.dirty) || !x.poisoned.isEmpty

/-- Write the dirty bytes of a line home, and mark them clean (R93); a sector that a poisoned store has poisoned is
poisoned there first (R85). Other copies are left as they are. -/
def State.putHome (s : State) (l1 key : Nat) : State :=
  match s.line l1 key with
  | none => s
  | some x =>
    let p := linePlace key
    let w := s.worldOf l1
    let s := x.poisoned.foldl (fun s i => s.homePoison w p (lineBase key + 64 * i)) s
    let s := x.bytes.foldl (fun s e =>
      if e.2.dirty then s.homeByte w p (lineBase key + e.1) e.2.val e.2.poison else s) s
    let s := s.setLine l1 key { x with poisoned := [], bytes := x.bytes.map (fun e => (e.1, { e.2 with dirty := false })) }
    if x.isDirty then (s.raiseVersion p (lineBase key)).wakeWords { place := p, off := lineBase key, len := 256 } else s

/-- The cores that hold a line. -/
def State.holders (s : State) (key : Nat) : List Nat :=
  (s.cores.filter (fun e => e.2.lines.has key)).map Prod.fst

/-- The clean bytes of a line are no longer valid: newer ones have reached home. -/
def State.forgetClean (s : State) (l1 key : Nat) : State :=
  match s.line l1 key with
  | none => s
  | some x => s.setLine l1 key { x with bytes := x.bytes.filter (fun e => e.2.dirty) }

/-- Every copy of a line but those of the L1s named is written back and discarded. What it writes is newer than the
clean bytes of those that keep the line (R113, R114). -/
def State.invalidateOthers (s : State) (keep : List Nat) (key : Nat) : State :=
  let others := (s.holders key).filter (fun c => !keep.contains c)
  let newer := others.any (fun c => (s.line c key).any Line.isDirty)
  let s := others.foldl (fun s c => (s.putHome c key).dropLine c key) s
  if newer then keep.foldl (fun s c => s.forgetClean c key) s else s

/-- Write a line home: its stores are then performed, so no other L1 keeps an older copy (R113). -/
def State.writeBack (s : State) (l1 key : Nat) : State :=
  match s.line l1 key with
  | none => s
  | some x => if x.isDirty then (s.invalidateOthers [l1] key).putHome l1 key else s

/-- Write back and discard: a line evicted, invalidated by coherence, or flushed (R91). -/
def State.evictLine (s : State) (l1 key : Nat) : State := (s.writeBack l1 key).dropLine l1 key

/-- Write every dirty line of an L1 home. -/
def State.cleanL1 (s : State) (l1 : Nat) : State :=
  ((s.core l1).lines.map Prod.fst).foldl (fun s key => s.writeBack l1 key) s

/-- Write back and invalidate an L1 whole (R347). -/
def State.flushL1 (s : State) (l1 : Nat) : State :=
  ((s.core l1).lines.map Prod.fst).foldl (fun s key => s.evictLine l1 key) s

/-! ## Contention (R97, R395) -/

/-- Nothing of another slot or copy, of the mesh or of the host link is under way: there is no contention. -/
def State.calm (s : State) (k : Nat) (copy : Option Nat) : Bool :=
  s.slots.all (fun e => e.1 == k || e.2.accs.isEmpty)
    && s.clusters.all (fun e => e.2.copyRuns.all (fun r => copy == some r.cmd.id))
    && s.flying.isEmpty && s.flyingEvents.isEmpty && s.contributions.isEmpty && s.ats.isEmpty

/-- What contention adds to a time of R97 or R395 for a slot, or for a copy of it: nothing where there is none, and else it
is open. -/
def State.contentionFor (s : State) (k : Nat) (copy : Option Nat) : Nat := if s.calm k copy then 0 else Config.delay s.draws

/-! ## Replacement (R92) -/

/-- The victim of a full set: the lowest EVICT, and among equals the least recently used. Of two that were used last in the
same cycle it is the one with the lower address (DESIGN CHOICE, assumption 14). -/
def victimOf : List (Nat × Line) → Option Nat
  | [] => none
  | e :: rest =>
    some (rest.foldl (fun (best : Nat × Line) x =>
      if x.2.evict.toNat < best.2.evict.toNat
          || (x.2.evict == best.2.evict && decide (x.2.used < best.2.used)) then x else best) e).1

/-- Make room for a new line in its set of twelve ways. -/
def State.makeRoom (s : State) (l1 key : Nat) : State :=
  let set := (s.core l1).lines.filter (fun e => s.lineSet l1 e.1 == s.lineSet l1 key)
  if set.length < 12 then s
  else
    match victimOf set with
    | some v => s.evictLine l1 v
    | none => s

/-- The line for an access, allocated with the access's EVICT and RDC where it is not present (R91). -/
def State.ensureLine (s : State) (l1 key : Nat) (evict rdc : BitVec 3) : State :=
  match s.line l1 key with
  | some x => s.setLine l1 key { x with used := s.cycle }
  | none => (s.makeRoom l1 key).setLine l1 key { evict := evict, rdc := rdc, used := s.cycle }

def lineByteDefault (_ : Nat) : LineByte := { val := 0, dirty := false, poison := false }

/-- Whether n bytes of a line from an offset are all valid. -/
def Line.valid (x : Line) (off n : Nat) : Bool := (List.range n).all (fun i => x.bytes.has (off + i))

/-- Fetch a line from home and merge it under the bytes already written (R93). Whether it picks up bytes that other
L1s hold dirty is open, but for a line with a read count, whose bytes it never does (R121). -/
def State.fillLine (s : State) (l1 key : Nat) : State :=
  let others := (s.holders key).filter (fun c => c != l1 && (s.line c key).any (fun x => x.isDirty && x.rdc == 0))
  let s := others.foldl (fun s c =>
    let s' := { s with draws := s.draws + 1 }
    if Config.snoop s.draws then (s'.invalidateOthers [l1, c] key).putHome c key else s') s
  match s.line l1 key with
  | none => s
  | some x =>
    let m := s.memAt (linePlace key)
    let base := lineBase key
    let home := fun (i : Nat) =>
      LineByte.mk (m.byte (base + i)) false (m.poisonAt (base + i) || x.poisoned.contains (i / 64))
    let bytes := (List.range 256).map (fun i =>
      (i, match x.bytes.find i with
          | some b => if b.dirty then b else home i
          | none => home i))
    s.setLine l1 key { x with bytes := bytes }

/-- A read counts toward the line's read count, and a line whose count is reached dies with its dirty bytes (R91). -/
def State.countRead (s : State) (l1 key : Nat) : State :=
  match s.line l1 key with
  | none => s
  | some x =>
    if x.rdc = 0 then s
    else if readLimit x.rdc ≤ x.reads + 1 then s.dropLine l1 key
    else s.setLine l1 key { x with reads := x.reads + 1 }

/-- The bytes of a line, and whether any is poisoned. -/
def Line.read (x : Line) (off n : Nat) : List Byte × Bool :=
  let bs := (List.range n).map (fun i => x.bytes.get lineByteDefault (off + i))
  (bs.map LineByte.val, bs.any LineByte.poison)

/-- Read n bytes of one line through an L1. -/
def State.l1Read (s : State) (core : Nat) (p : Place) (a n : Nat) (evict rdc : BitVec 3) :
    (List Byte × Bool) × State :=
  let key := lineKey p a
  let l1 := s.l1Of core a
  let s := s.ensureLine l1 key evict rdc
  let s := match s.line l1 key with
    | some x => if x.valid (a % 256) n then s else s.fillLine l1 key
    | none => s
  let r := match s.line l1 key with
    | some x => x.read (a % 256) n
    | none => ([], false)
  (r, s)

/-- The sectors of a line that n bytes from an offset touch. -/
def touchedSectors (off n : Nat) : List Nat := (List.range 4).filter (fun i => decide (off < 64 * i + 64) && decide (64 * i < off + n))

/-- Write bytes into a line of an L1 (R93): they alone become valid and dirty. A poisoned write poisons its sectors, the
bytes that are not valid here too (R85). -/
def State.l1Write (s : State) (core : Nat) (p : Place) (a : Nat) (bs : List Byte) (poison : Bool)
    (evict rdc : BitVec 3) : State :=
  let key := lineKey p a
  let l1 := s.l1Of core a
  let s := s.ensureLine l1 key evict rdc
  match s.line l1 key with
  | none => s
  | some x =>
    let off := a % 256
    let bytes := (List.range bs.length).foldl (fun m i =>
      Assoc.put m (off + i) { val := bs.getD i 0, dirty := true, poison := poison }) x.bytes
    if poison then
      let sectors := touchedSectors off bs.length
      s.setLine l1 key { x with
        bytes := bytes.map (fun e => if sectors.contains (e.1 / 64) then (e.1, { e.2 with poison := true }) else e)
        poisoned := x.poisoned ++ sectors.filter (fun i => !x.poisoned.contains i) }
    else s.setLine l1 key { x with bytes := bytes }

/-! ## Reading and writing a place -/

/-- Read a piece for a core: through its L1 where the place stands behind one. -/
def State.readPiece (s : State) (core : Nat) (x : Piece) (evict rdc : BitVec 3) : (List Byte × Bool) × State :=
  if x.place.cached then s.l1Read core x.place x.off x.len evict rdc
  else (((s.memAt x.place).bytes x.off x.len, (s.memAt x.place).poisonIn x.off x.len), s)

def State.readPieces (s : State) (core : Nat) (evict rdc : BitVec 3) : List Piece → (List Byte × Bool) × State
  | [] => (([], false), s)
  | x :: xs =>
    let r := s.readPiece core x evict rdc
    let rest := r.2.readPieces core evict rdc xs
    ((r.1.1 ++ rest.1.1, r.1.2 || rest.1.2), rest.2)

/-- Write bytes at home, for a world, as an agent without an L1: every L1's copy is written back and discarded first. -/
def State.homeWrite (s : State) (w : Nat) (p : Place) (a : Nat) (bs : List Byte) (poison : Bool) : State :=
  let s := if p.cached then s.invalidateOthers [] (lineKey p a) else s
  let s := if poison then s.logRange w p (sectorBase a) (sectorSpan a bs.length) else s.logRange w p a bs.length
  ((s.setMemAt p ((s.memAt p).write a bs poison)).raiseVersion p a).wakeWords { place := p, off := a, len := bs.length }

/-- Read bytes at home as an agent without an L1. -/
def State.homeRead (s : State) (p : Place) (a n : Nat) : List Byte × Bool :=
  ((s.memAt p).bytes a n, (s.memAt p).poisonIn a n)

/-- Write a piece for a core: into its L1 where the place stands behind one. -/
def State.writePiece (s : State) (core : Nat) (x : Piece) (bs : List Byte) (poison : Bool) (evict rdc : BitVec 3) :
    State :=
  if x.place.cached then s.l1Write core x.place x.off bs poison evict rdc
  else (s.setMemAt x.place ((s.memAt x.place).write x.off bs poison)).raiseVersion x.place x.off

def State.writePieces (s : State) (core : Nat) (poison : Bool) (evict rdc : BitVec 3) :
    List Piece → List Byte → State
  | [], _ => s
  | x :: xs, bs =>
    (s.writePiece core x (bs.take x.len) poison evict rdc).writePieces core poison evict rdc xs (bs.drop x.len)

/-! ## Which earlier accesses must be performed first (R115) -/

def Acc.isLoad (x : Acc) : Bool := x.kind == .load
def Acc.isAtomic (x : Acc) : Bool :=
  match x.kind with
  | .atomic _ _ _ _ => true
  | _ => false
def Acc.isReduction (x : Acc) : Bool :=
  match x.kind with
  | .reduction _ _ _ => true
  | _ => false
def Acc.isStore (x : Acc) : Bool := x.kind == .store || x.kind == .nibble

def Piece.overlaps (x y : Piece) : Bool :=
  x.place == y.place && decide (x.off < y.off + y.len) && decide (y.off < x.off + x.len)

def Acc.overlaps (x y : Acc) : Bool := x.pieces.any (fun p => y.pieces.any p.overlaps)

def acquires (ord : BitVec 2) : Bool := ord == 1 || ord == 3
def releases (ord : BitVec 2) : Bool := ord == 2 || ord == 3

/-- Loads and stores of one line are performed in it in program order (R86). -/
def Piece.sameLine (x y : Piece) : Bool := x.place.cached && x.place == y.place && x.off / 256 == y.off / 256
def Acc.sameLine (x y : Acc) : Bool :=
  (x.isLoad || x.isStore) && (y.isLoad || y.isStore) && x.pieces.any (fun p => y.pieces.any p.sameLine)

/-- The access X must be performed before Y, by R86, R115 rules 1 to 3, and R193 for the elements of one VSCAT. -/
def Acc.before (x y : Acc) : Bool :=
  x.overlaps y || x.sameLine y || (x.chain.isSome && x.chain == y.chain) || ((x.isLoad || x.isAtomic) && acquires x.ord)
    || ((y.isStore || y.isAtomic) && releases y.ord)

/-- A release whose scope reaches an agent outside the slots that share the L1 (R121): the engines of the cluster are
such agents (R112). -/
def Acc.reaches (x : Acc) : Bool := (x.isStore || x.isAtomic) && releases x.ord && decide (1 < x.scope)

/-! ## Performing (R84 to R90, R113) -/

def State.modAcc (s : State) (k id : Nat) (f : Acc → Acc) : State :=
  s.modSlot k (fun sl => { sl with accs := sl.accs.map (fun x => if x.id = id then f x else x) })

def State.removeAcc (s : State) (k id : Nat) : State :=
  s.modSlot k (fun sl => { sl with accs := sl.accs.filter (fun x => x.id != id) })

/-- A little-endian number from bytes. -/
def leNat (bs : List Byte) : Nat := wordOfBytes bs

/-- The vector or tile result that a destination is part of. -/
def Dest.result : Dest → Option Nat
  | .vector id _ => some id
  | .nibble id _ _ => some id
  | _ => Option.none

/-- The line of an access's first piece: an access never leaves its line. -/
def Acc.lineOf (x : Acc) : Option Nat :=
  match x.pieces with
  | p :: _ => if p.place.cached then some (lineKey p.place p.off) else none
  | [] => none

/-- Other elements of the same instruction still read this access's line: the instruction counts once (R91). -/
def Acc.moreToRead (x : Acc) (accs : List Acc) : Bool :=
  x.dest.result.isSome && accs.any (fun y =>
    y.id != x.id && y.got.isNone && y.dest.result == x.dest.result && y.lineOf == x.lineOf)

def marksDefault (_ : Nat) : List Nat := []

/-- A list with a member, which it holds once. -/
def addOnce (k : Nat) (xs : List Nat) : List Nat := if xs.contains k then xs else xs ++ [k]

/-- A slot has written a line, or has observed what stands in it: an acquire of the line passes that on (R116). -/
def State.noteLine (s : State) (k l1 key : Nat) : State :=
  s.modCore l1 (fun c => { c with stored := c.stored.set marksDefault key (addOnce k (c.stored.get marksDefault key)) })

/-- A slot's stores stand in a line, or the slot has read such bytes of another slot: its releases write the line home
(R116, R121). -/
def State.markLine (s : State) (k l1 key : Nat) : State :=
  match s.line l1 key with
  | none => s
  | some x => (s.setLine l1 key { x with marks := addOnce k x.marks }).noteLine k l1 key

/-- The L1s whose lines a slot's stores may stand in: its core's, or its cluster's under fusion (R113). -/
def State.sharedL1s (s : State) (core : Nat) : List Nat :=
  let cl := clusterOfCore core
  if (s.cluster cl).fused then (List.range 4).map (coreOfCluster cl) else [core]

/-- An acquire of a line: the slot has observed what those have that wrote it (R116). -/
def State.passOn (s : State) (k l1 key : Nat) : State :=
  let marks := (s.core l1).stored.get marksDefault key
  (s.sharedL1s (coreOfSlot k)).foldl (fun s c =>
    (((s.core c).lines.filter (fun e => e.2.marks.any marks.contains)).map Prod.fst).foldl
      (fun s key => s.markLine k c key) s) s

/-- A slot has read bytes of a line. Dirty ones it has observed; with an acquire it has observed what those who wrote the
line had (R116). -/
def State.observe (s : State) (k : Nat) (acquire : Bool) (p : Piece) : State :=
  let l1 := s.l1Of (coreOfSlot k) p.off
  let key := lineKey p.place p.off
  let dirty := (s.line l1 key).any (fun x =>
    x.bytes.any (fun e => e.2.dirty && decide (p.off % 256 ≤ e.1) && decide (e.1 < p.off % 256 + p.len)))
  let s := if dirty then s.markLine k l1 key else s
  if acquire then s.passOn k l1 key else s

/-- Read a load's bytes now. Every load counts toward its line's read count, VLDH's too, which R91 does not name (DEDUCED,
assumption 14). -/
def State.performLoad (s : State) (k : Nat) (x : Acc) : State :=
  if x.got.isSome then s
  else
    let r := s.readPieces (coreOfSlot k) x.evict x.rdc x.pieces
    let s := r.2.modAcc k x.id (fun x => { x with got := some r.1 })
    let s := (x.pieces.filter (fun p => p.place.cached)).foldl (fun s p => s.observe k (acquires x.ord) p) s
    match x.lineOf, x.pieces with
    | some key, p :: _ =>
      if x.moreToRead (s.slot k).accs then s else s.countRead (s.l1Of (coreOfSlot k) p.off) key
    | _, _ => s

/-- One nibble of a byte changed. -/
def setNibble (b : Byte) (high : Bool) (v : Nat) : Byte :=
  let n := BitVec.ofNat 8 (v % 16)
  if high then (b &&& 0x0F) ||| (n <<< 4) else (b &&& 0xF0) ||| n

/-- A store of one nibble (R192): the byte is read, its low nibble changed, and written, where atomics are performed. -/
def State.performNibble (s : State) (w : Nat) (p : Piece) (data : List Byte) (poison : Bool) : State :=
  let s := if p.place.cached then s.invalidateOthers [] (lineKey p.place p.off) else s
  let old := s.homeRead p.place p.off 1
  s.homeWrite w p.place p.off [setNibble (old.1.headD 0) false (data.headD 0).toNat] (poison || old.2)

/-- A store enters the L1, or the place itself where no L1 stands before it. The slots that share the L1 may read it then:
those that wait for a word of it read it again (R277). -/
def State.performLocal (s : State) (k : Nat) (x : Acc) : State :=
  if x.localDone then s
  else if x.kind = .nibble then
    (x.pieces.foldl (fun s p => s.performNibble (s.worldOf (coreOfSlot k)) p x.data x.poison) s).removeAcc k x.id
  else
    let s := s.writePieces (coreOfSlot k) x.poison x.evict x.rdc x.pieces x.data
    let s := (x.pieces.filter (fun p => p.place.cached)).foldl (fun s p =>
      (s.markLine k (s.l1Of (coreOfSlot k) p.off) (lineKey p.place p.off)).wakeWaiters p
        (fun c => (s.sharedL1s (coreOfSlot k)).contains c)) s
    if x.pieces.all (fun p => p.place.cached) then s.modAcc k x.id (fun x => { x with localDone := true })
    else s.removeAcc k x.id

/-- Write the dirty bytes of one piece home from the L1 that holds them; other copies are invalidated. A sector that a
poisoned store has poisoned is poisoned at home (R85). -/
def State.pieceHome (s : State) (core : Nat) (p : Piece) : State :=
  let key := lineKey p.place p.off
  let l1 := s.l1Of core p.off
  match s.line l1 key with
  | none => s
  | some _ =>
    let s := s.invalidateOthers [l1] key
    match s.line l1 key with
    | none => s
    | some x =>
      let off := p.off % 256
      let w := s.worldOf l1
      let mine := fun (i : Nat) => decide (off ≤ i) && decide (i < off + p.len)
      let sectors := (touchedSectors off p.len).filter (fun i => x.poisoned.contains i)
      let goes := !sectors.isEmpty || x.bytes.any (fun e => mine e.1 && e.2.dirty)
      let s := sectors.foldl (fun s i => s.homePoison w p.place (lineBase key + 64 * i)) s
      let s := x.bytes.foldl (fun s e =>
        if mine e.1 && e.2.dirty then s.homeByte w p.place (lineBase key + e.1) e.2.val e.2.poison else s) s
      let s := s.setLine l1 key { x with
        poisoned := x.poisoned.filter (fun i => !sectors.contains i)
        bytes := x.bytes.map (fun e => if mine e.1 then (e.1, { e.2 with dirty := false }) else e) }
      if goes then (s.raiseVersion p.place p.off).wakeWords p else s

/-- A store reaches home whole. -/
def State.performHome (s : State) (k : Nat) (x : Acc) : State :=
  let s := s.performLocal k x
  if x.pieces.all (fun p => p.place.cached) then
    (x.pieces.foldl (fun s p => s.pieceHome (coreOfSlot k) p) s).removeAcc k x.id
  else s

/-! ## Atomics (R87 to R89) -/

/-- Each half of a bf16 pair on its own. -/
def bf16Pair (f : Nat → Nat → Nat) (a b : Nat) : Nat :=
  f (a % 65536) (b % 65536) + 65536 * f (a / 65536 % 65536) (b / 65536 % 65536)

/-- Integer functions on n bytes (R89, type 0). -/
def atomInt (fn : Nat) (nb a b : Nat) : Nat :=
  let m := 2 ^ (8 * nb)
  let sg := fun (x : Nat) => if m / 2 ≤ x then (x : Int) - m else (x : Int)
  match fn with
  | 0 => (a + b) % m
  | 1 => a &&& b
  | 2 => a ||| b
  | 3 => a ^^^ b
  | 4 => if sg b < sg a then b else a
  | 5 => if sg a < sg b then b else a
  | 6 => if b < a then b else a
  | _ => if a < b then b else a

/-- Float functions (R89): add by RNE, minimum and maximum as FMIN and FMAX; flags are discarded. -/
def atomFloat (t : FFmt) (fn a b : Nat) : Nat :=
  match fn with
  | 0 => (t.round 0 false (addExact 0 (t.decode a) (t.decode b))).1
  | 4 => (t.minMax false a b).1
  | _ => (t.minMax true a b).1

/-- What ATOM computes from the old value and its operand (R89). -/
def atomFn (type fn : BitVec 3) (nb a b : Nat) : Nat :=
  match type.toNat with
  | 0 => atomInt fn.toNat nb a b
  | 1 => atomFloat f32 fn.toNat a b
  | 2 => bf16Pair (atomFloat bf16 fn.toNat) a b
  | _ => atomFloat f64 fn.toNat a b

/-- The bytes an atomic writes and their poison; none where it writes nothing (R88). -/
def atomWrites (k : AtomKind) (operand compare : List Byte) (poison : Bool) (old : List Byte × Bool) :
    Option (List Byte × Bool) :=
  match k with
  | .op type fn =>
    some (bytesOfWord old.1.length (atomFn type fn old.1.length (leNat old.1) (leNat operand)), poison || old.2)
  | .swap => some (operand, poison)
  | .cas => if old.1 = compare && !old.2 then some (operand, poison) else none

/-- Perform an atomic at its place, for a world: the L1 copies of its line are written back and discarded first (R87). -/
def State.atomAt (s : State) (w : Nat) (p : Piece) (k : AtomKind) (operand compare : List Byte) (poison : Bool) :
    (List Byte × Bool) × State :=
  let s := if p.place.cached then s.invalidateOthers [] (lineKey p.place p.off) else s
  let old := s.homeRead p.place p.off p.len
  match atomWrites k operand compare poison old with
  | some n => (old, s.homeWrite w p.place p.off n.1 n.2)
  | none => (old, s)

/-- The slots that share an L1 with one synchronise through an atomic: an acquire observes what those have that wrote its
line, and one that writes is among them (R116). -/
def State.synchronise (s : State) (k : Nat) (acquire wrote : Bool) (p : Piece) : State :=
  if p.place.cached then
    let l1 := s.l1Of (coreOfSlot k) p.off
    let key := lineKey p.place p.off
    let s := if acquire then s.passOn k l1 key else s
    if wrote then s.noteLine k l1 key else s
  else s

def State.performAtomic (s : State) (k : Nat) (x : Acc) : State :=
  match x.kind, x.pieces, x.got with
  | .atomic f operand compare poison, [p], none =>
    let r := s.atomAt (s.worldOf (coreOfSlot k)) p f operand compare poison
    (r.2.synchronise k (acquires x.ord) (atomWrites f operand compare poison r.1).isSome p).modAcc k x.id
      (fun x => { x with got := some r.1 })
  | _, _, _ => s

/-! ## Order (R115, R116, R121) -/

/-- Perform one earlier access because a later one needs it, for the slots that share the L1. -/
def State.perform (s : State) (k : Nat) (x : Acc) : State :=
  match x.kind with
  | .load => s.performLoad k x
  | .atomic _ _ _ _ => s.performAtomic k x
  | .reduction _ _ _ => s
  | _ => s.performLocal k x

/-- An access that is performed already for the slots that share the L1. -/
def Acc.done (x : Acc) : Bool := x.isReduction || (if x.isStore then x.localDone else x.got.isSome)

/-- Stores among some accesses, as they now stand, reach home in their order: what a line that has died on count has dropped
does not (R121). -/
def State.sendHome (s : State) (k : Nat) (xs : List Acc) : State :=
  xs.foldl (fun s x => match (s.slot k).accs.find? (fun y => y.id == x.id) with
    | some y => if y.isStore then s.performHome k y else s
    | none => s) s

/-- An ACAS taken as one that fails: an acquire load, or a plain one (R117). -/
def Acc.failed (x : Acc) : Acc :=
  match x.kind with
  | .atomic .cas _ _ _ => { x with ord := x.ord &&& 1 }
  | _ => x

/-- An ACAS that fails on what its place holds. -/
def State.casFails (s : State) (x : Acc) : Bool :=
  match x.kind, x.pieces with
  | .atomic .cas operand compare poison, [p] =>
    let s := if p.place.cached then s.invalidateOthers [] (lineKey p.place p.off) else s
    (atomWrites .cas operand compare poison (s.homeRead p.place p.off p.len)).isNone
  | _, _ => false

/-- The lines that a slot's release writes home: those that its stores stand in or that it has observed (R121). For a line
without a read count the time of a write-back is open, and a release takes it along. -/
def State.cleanFor (s : State) (k : Nat) : State :=
  (s.sharedL1s (coreOfSlot k)).foldl (fun s l1 =>
    (((s.core l1).lines.filter (fun e => e.2.rdc == 0 || e.2.marks.contains k)).map Prod.fst).foldl
      (fun s key => s.writeBack l1 key) s) s

/-- Everything that must be performed before an access: each earlier access that stands before it by R86 and R115, after
what must come before that one. Once all of it is performed, the stores before a release that reaches beyond the L1 go home,
and the release cleans the L1: a load before it that ends its line on count has then dropped what stood there (R121). The
number bounds how deep this goes. -/
def State.prepare (k : Nat) : Nat → Acc → State → State
  | 0, _, s => s
  | n + 1, x, s =>
    let earlier := ((s.slot k).accs.takeWhile (fun y => y.id != x.id)).filter (fun y => y.before x)
    let s := earlier.foldl (fun s y =>
      match (s.slot k).accs.find? (fun z => z.id == y.id) with
      | none => s
      | some y =>
        if y.done then s
        else
          let s := State.prepare k n y.failed s
          let s := if y.failed.ord == y.ord || s.casFails y then s else State.prepare k n y s
          s.perform k y) s
    if x.reaches then (s.sendHome k earlier).cleanFor k else s

/-- Everything that must be performed before an access is performed. An ACAS releases only where it succeeds (R117). -/
def State.forceBefore (s : State) (k : Nat) (x : Acc) : State :=
  let n := (s.slot k).accs.length + 1
  let s := State.prepare k n x.failed s
  if x.failed.ord == x.ord || s.casFails x then s else State.prepare k n x s

/-- Perform accesses, given oldest first, as they now stand, each after what must come before it. -/
def State.performEach (s : State) (k : Nat) : List Acc → State
  | [] => s
  | x :: rest =>
    match (s.slot k).accs.find? (fun y => y.id == x.id) with
    | some y => (if y.done then s else (s.forceBefore k y).perform k y).performEach k rest
    | none => s.performEach k rest

/-- Perform accesses, the stores as far as home where the need reaches beyond the L1. -/
def State.performAll (s : State) (k : Nat) (beyond : Bool) (xs : List Acc) : State :=
  let s := s.performEach k xs
  if beyond then s.sendHome k xs else s

/-- A release that is no access of its own, at a scope (R121, R234, R263, R284): every earlier access is performed. -/
def State.releaseSlot (s : State) (k scope : Nat) : State :=
  let beyond := decide (1 < scope)
  let s := s.performAll k beyond (s.slot k).accs
  if beyond then s.cleanFor k else s

def releaseAt (scope : Nat) : Act Unit := Act.modify (fun s => s.releaseSlot s.cur scope)

/-- An acquire fence: every earlier load and atomic is performed (R95). -/
def State.acquireSlot (s : State) (k : Nat) : State :=
  s.performAll k false ((s.slot k).accs.filter (fun x => x.isLoad || x.isAtomic))

end Sys2Proof.Machine
end

