-- ==== Sys2Proof/Machine/MemInstr.lean ====
section
/-! DEFINITION. The memory instructions LD, LDS, ST, ATOM, ASWP, ACAS, FENCE and PREF (R80 to R98), the landing of
what they leave in flight, and reductions. -/

namespace Sys2Proof

/-- The bytes of an access, and the registers its data occupies (R44). -/
def MForm.bytes (f : MForm) : Nat := 2 ^ f.size.toNat
def MForm.regs (f : MForm) : Nat := if f.size.toNat ≤ 2 then 1 else 2 ^ (f.size.toNat - 2)
def MForm.srcA (f : MForm) (n : Nat := 2) : Machine.Src := { code := f.a, n := n, ep := Machine.bitSet f.epA 0 }
def MForm.srcD (f : MForm) (n : Nat) : Machine.Src := { code := f.d, n := n, ep := Machine.bitSet f.epD 0 }

end Sys2Proof

namespace Sys2Proof.Machine

/-! ## Addresses (R82, R83, R291) -/

/-- The window of a translator run that holds an address range: whether it may be written. -/
def Run.window (r : Run) (addr n : Nat) : Option Bool :=
  let inside := fun (base len : Nat) => decide (base ≤ addr) && decide (addr + n ≤ base + len)
  if inside 0x100000000 r.catalogue then some false
  else if inside 0x200000000 r.input then some false
  else if inside 0x300000000 r.output then some true
  else if inside 0x400000000 r.scratch then some true
  else none

def State.runOf (s : State) (k : Nat) : Option Run := s.runs.find k

/-- An access of a translator: only through its windows (R291). -/
def windowTarget (addr n : Nat) (write : Bool) : Act (List Piece) := fun s =>
  match (s.runOf s.cur).bind (fun r => r.window addr n) with
  | none => .error (.trap .confine (BitVec.ofNat 64 addr) 0x01)
  | some w =>
    if write && !w then .error (.trap .confine (BitVec.ofNat 64 addr) 0x02)
    else .ok ([{ place := .window s.cur, off := addr, len := n }], s)

/-- The pieces of an access at a place that are each single-copy atomic (R96): 8 bytes in host memory, 32 elsewhere. -/
def piecesOf (place : Place) (off n : Nat) : List Piece :=
  let unit := if place = .host then 8 else 32
  if n ≤ unit then [{ place := place, off := off, len := n }]
  else (List.range (n / unit)).map (fun i => { place := place, off := off + i * unit, len := unit })

/-- A global access that stays within one page: where this package's translation leads, in a reduction window too (DESIGN
CHOICE, assumption 87). -/
def globalTarget (addr n : Nat) (write : Bool) : Act (List Piece) := do
  let s ← Act.state
  if s.me.xlt then windowTarget addr n write
  else do
    let t ← translateMe addr write
    return piecesOf t.1 t.2 n

/-- Where the bytes of an access stand (R82, R83): space 1 this core's scratchpad, 2 a scratchpad of the cluster, 3 this
slot's arena window. -/
def target (code : Code) (space : Nat) (addr n : Nat) (write : Bool) : Act (List Piece) := do
  let s ← Act.state
  match space with
  | 0 => globalTarget addr n write
  | 1 => do
    Act.trapIf (decide (0x80000 ≤ addr)) .prot (BitVec.ofNat 64 addr) 0x101
    return [{ place := .scratchpad s.myCore, off := addr, len := n }]
  | 2 => do
    Act.trapIf (decide (0x200000 ≤ addr)) .prot (BitVec.ofNat 64 addr) 0x102
    return [{ place := .scratchpad (coreOfCluster (clusterOfCore s.myCore) (addr / 0x80000)), off := addr % 0x80000,
              len := n }]
  | _ => do
    Act.trapIf (decide (0x10000 ≤ addr)) .prot (BitVec.ofNat 64 addr) 0x103
    Act.parkIf (s.owedIn s.myCore s.me.window addr (addr + n)
      || (write && s.heldIn s.myCore s.me.window addr (addr + n))) (waitSpan code)
    return [{ place := .arena s.myCore, off := s.me.arenaOffset addr, len := n }]

/-- The reach of a space caps the scope (R83). -/
def cappedScope (space scope : Nat) : Nat :=
  match space with
  | 0 => scope
  | 3 => 0
  | _ => min scope 2

/-- The base pair, its poison, and the address (R82). -/
def addressOf (f : MForm) (align : Bool) : Act Nat := do
  let b ← rdp f.a
  Act.trapIf b.poison .poison f.a.toNat 0
  let addr := (b.w + f.off.signExtend 64).toNat
  Act.trapIf (align && addr % f.bytes != 0) .align (BitVec.ofNat 64 addr) (BitVec.ofNat 64 f.bytes)
  return addr

/-! ## Data -/

/-- Consecutive registers, or one scalar source (R82, read_data). -/
def readData (code : Code) (n : Nat) : Act (List Val) := do
  if n = 1 then
    let v ← rd code
    return [v]
  else do
    let sl ← Act.me
    return sl.regsFrom code.toNat n

/-- The bytes a store takes from its registers (R85). -/
def dataBytes (nb : Nat) (vs : List Val) : List Byte :=
  match vs with
  | [v] => bytesOfWord nb v.w.toNat
  | vs => vs.flatMap (fun v => bytesOfWord 4 v.w.toNat)

def anyPoison (vs : List Val) : Bool := vs.any Val.poison

/-- The values that loaded bytes put into n registers (R84). -/
def loadedValues (n nb : Nat) (sign : Bool) (r : List Byte × Bool) : List Val :=
  if nb < 4 then
    let w := leNat r.1
    let w := if sign && 2 ^ (8 * nb - 1) ≤ w then w + (2 ^ 32 - 2 ^ (8 * nb)) else w
    [{ w := BitVec.ofNat 32 w, poison := r.2 }]
  else (List.range n).map (fun i =>
    { w := BitVec.ofNat 32 (leNat ((r.1.drop (4 * i)).take 4)), poison := r.2 })

/-! ## Latency (R97): the least, and a free delay on top of it -/

/-- A host read takes about 1 µs. -/
def State.hostCycles (s : State) : Nat := s.cyclesFor 1000

/-- All bytes of a piece stand in the L1. -/
def State.l1Hit (s : State) (core : Nat) (p : Piece) : Bool :=
  match s.line (s.l1Of core p.off) (lineKey p.place p.off) with
  | some x => x.valid (p.off % 256) p.len
  | none => false

/-- A line read from DRAM, of the issuing die or of another one. -/
def dramCycles (core pa : Nat) : Nat :=
  (if dieOfAddress pa = dieOfCore core then 100 else 160) + 2 * hopsToSlice core pa

/-- What a line takes that no L1 holds: whether its home slice holds it is open, since the spec gives the slices no rule of
replacement. -/
def sliceCycles (core pa draw : Nat) : Nat :=
  if Config.sliceHit draw then homeCycles core pa else dramCycles core pa

def State.loadCycles (s : State) (core : Nat) (p : Piece) : Nat :=
  match p.place with
  | .arena _ => 4
  | .window _ => 4
  | .scratchpad c => if c = core then 6 else 10
  | place =>
    if s.l1Hit core p then (if s.l1Of core p.off = core then 4 else 8)
    else if place = .host then s.hostCycles else sliceCycles core p.off s.draws

def State.atomCycles (core draw : Nat) (p : Piece) : Nat :=
  match p.place with
  | .scratchpad c => (if c = core then 6 else 10) + 4
  | _ => sliceCycles core p.off draw + 4

/-- What contention adds to a latency of a load or atomic: nothing where there is none, and else it is open. A translator
alone uses its windows, so that nothing reaches it there (R297). -/
def State.contention (s : State) : Nat := if s.me.xlt then 0 else s.contentionFor s.cur none

/-- A free delay of the next event. -/
def drawDelay : Act Nat := do
  let d ← Act.draw
  return Config.delay d

/-! ## In flight -/

def pushAcc (x : Acc) : Act Unit := Act.modMe (fun sl => { sl with accs := sl.accs ++ [x] })

/-- Places whose accesses are performed at issue, in program order: the arena (R86) and a translator's windows. -/
def Place.immediate : Place → Bool
  | .arena _ => true
  | .window _ => true
  | _ => false

def allImmediate (ps : List Piece) : Bool := ps.all (fun p => p.place.immediate)

/-- An access joins those of the slot that are in flight. -/
def State.addAcc (s : State) (x : Acc) : State := s.setMe { s.me with accs := s.me.accs ++ [x] }

/-- A load is in flight (R84): it lands after its latency. -/
def State.sendLoad (s : State) (x : Acc) : State :=
  let cycles := x.pieces.foldl (fun n p => max n (s.loadCycles s.myCore p)) 4
  let s' : State := { s.addAcc x with draws := s.draws + 1 }
  let s' := if allImmediate x.pieces then (s'.forceBefore s.cur x).performLoad s.cur x else s'
  s'.schedule (max (s.cycle + s.lag + cycles + s.contention) s.me.hioLoads) .loadValueLands [s.cur, x.id]

/-- A release at scope 6 waits for a zero-length read on the host link, which takes as long as a host read (R112). -/
def State.hioCycles (s : State) (ord : BitVec 2) (scope : Nat) : Nat :=
  if releases ord && scope == 6 then s.hostCycles else 0

/-- A store is in flight (R85, R113). -/
def State.sendStore (s : State) (x : Acc) : State :=
  if allImmediate x.pieces then ((s.addAcc x).forceBefore s.cur x).performLocal s.cur x
  else
    let s' : State := { s.addAcc x with draws := s.draws + 1 }
    s'.schedule (max (s.cycle + 1 + Config.delay s.draws + s.hioCycles x.ord x.scope) s.me.hioStores) .storePerformed
      [s.cur, x.id]

def startLoad (x : Acc) : Act Unit := Act.modify (fun s => s.sendLoad x)
def startStore (x : Acc) : Act Unit := Act.modify (fun s => s.sendStore x)

def waitLoad (f : MForm) (sign : Bool) : Act Unit := do
  check [f.srcA] [{ code := f.d, n := f.regs }]
  let addr ← addressOf f true
  let ps ← target f.d f.space.toNat addr f.bytes false
  let sl ← Act.me
  markEmpty f.d f.regs
  let id ← Act.fresh
  startLoad { id := id, kind := .load, ord := f.ord, scope := cappedScope f.space.toNat f.scope.toNat, pieces := ps,
              evict := f.evict, rdc := f.rdc,
              dest := .regs (regIndex sl.mode f.d.toNat) f.regs f.bytes sign }

def execLd (f : MForm) (s : State) : Outcome := issue (.ld f) (waitLoad f false) s
def execLds (f : MForm) (s : State) : Outcome := issue (.lds f) (waitLoad f true) s

/-- ST (R85). -/
def execSt (f : MForm) (s : State) : Outcome :=
  issue (.st f) (do
    check [f.srcA, f.srcD f.regs]
    let vs ← readData f.d f.regs
    let addr ← addressOf f true
    let ps ← target f.d f.space.toNat addr f.bytes true
    let id ← Act.fresh
    startStore { id := id, kind := .store, ord := f.ord, scope := cappedScope f.space.toNat f.scope.toNat,
                 pieces := ps, data := dataBytes f.bytes vs, poison := anyPoison vs, evict := f.evict, rdc := f.rdc }) s

/-! ## Atomics (R87 to R90) and reductions (R98) -/

/-- The reduction window of a world that holds an address. -/
def State.redWindow (s : State) (w addr : Nat) : Option (Nat × Nat × Nat) :=
  (s.world w).windows.find? (fun e => decide (e.1 ≤ addr) && decide (addr < e.1 + e.2.1))

/-- The park of an atomic whose AtomicOp completion has not returned. -/
def waitHostOp (va : Nat) : Wait := { xval := BitVec.ofNat 64 va }

/-- The AtomicOp requests of R90: FetchAdd, Swap and CAS. -/
def hostAtomic (k : AtomKind) : Bool :=
  match k with
  | .op type fn => type == 0 && fn == 0
  | _ => true

/-- An atomic on host memory: its request is sent, D is empty, and the slot parks at the atomic. -/
def startHostOp (k : AtomKind) (va : Nat) (p : Piece) (operand compare : List Byte) (poison : Bool) (ord : BitVec 2)
    (scope : Nat) (d : Code) (n : Nat) : Act Unit := do
  let sl ← Act.me
  markEmpty d n
  let id ← Act.fresh
  let op : HostOp := { id := id, va := va, piece := p, kind := k, operand := operand, compare := compare,
                       poison := poison, ord := ord, scope := scope, index := regIndex sl.mode d.toNat, regs := n }
  Act.modMe (fun sl => { sl with hostOp := some op })
  Act.wait (waitHostOp va)

/-- The AtomicOp has completed, or not yet (R90). -/
def endHostOp (f : MForm) (n : Nat) (op : HostOp) : Act Unit := do
  match op.answer with
  | none => do
    -- the link has gone down meanwhile (R107)
    let sl ← Act.me
    match sl.atsFail with
    | some (_, c, code) => Act.trap c (BitVec.ofNat 64 op.va) (BitVec.ofNat 64 code)
    | none => Act.wait (waitHostOp op.va)
  | some (.ok, r) => do
    let sl ← Act.me
    Act.modMe (fun sl => { sl with hostOp := none })
    Act.modMe (fun x => x.land (regIndex sl.mode f.d.toNat) (loadedValues n (4 * n) false r))
  | some (.unsupported, _) => Act.trap .page (BitVec.ofNat 64 op.va) 0x101
  | some (.abort, _) => Act.trap .page (BitVec.ofNat 64 op.va) 0x104

/-- A reduction leaves the slot (R98): D takes 0 once the router accepts it. A home that cannot be reached
comes before what the translation finds (DESIGN CHOICE, assumption 87). -/
def startReduction (f : MForm) (addr : Nat) (w : Nat × Nat × Nat) (operand : List Byte) (poison : Bool) :
    Act Unit := do
  let s ← Act.state
  let world := (s.die s.myDie).wid
  Act.trapIf (s.unreachable.contains w.2.2) .page (BitVec.ofNat 64 addr) 0x410
  let t ← translateMe addr true
  Act.trapIf (t.1 == .host && !hostAtomic (.op f.evict f.rdc)) .prot (BitVec.ofNat 64 addr) 0x110
  let piece := if w.2.2 = s.pkgid.toNat then some (Piece.mk t.1 t.2 f.bytes) else none
  let sl ← Act.me
  markEmpty f.d f.regs
  let id ← Act.fresh
  let cid ← Act.fresh
  let dest : Dest := .regs (regIndex sl.mode f.d.toNat) f.regs f.bytes false
  pushAcc { id := id, kind := .reduction f.rdc f.evict operand, scope := 5, pieces := [], dest := dest }
  let c : Contribution := { id := cid, world := world, va := addr, piece := piece, home := w.2.2, len := f.bytes,
                            type := f.evict, fn := f.rdc, operand := operand, poison := poison,
                            parts := [(s.cur, id)], held := false }
  Act.modify (fun s => { s with contributions := s.contributions ++ [c] })
  let d ← drawDelay
  Act.schedule (max (s.cycle + 1 + d) sl.hioStores) .reductionAccepted [s.cur, id, cid]

/-- ATOM, ASWP and ACAS (R88): operand and compare come from the data registers, of which n receive the old value.
A reduction's scope is looked at before the host's operations (DESIGN CHOICE, assumption 87). -/
def atomic (f : MForm) (k : AtomKind) (n : Nat) (operand compare : List Val → List Byte) (srcs : Nat) : Act Unit := do
  let sl ← Act.me
  match sl.hostOp with
  | some op => endHostOp f n op
  | none => do
    check [f.srcA, f.srcD srcs] [{ code := f.d, n := n }]
    let vs ← readData f.d srcs
    let addr ← addressOf f true
    let s ← Act.state
    let data := operand vs
    let poison := anyPoison vs
    -- a compare that is poisoned never succeeds
    let cmp := if anyPoison (vs.take n) then [] else compare vs
    let newPoison := match k with
      | .cas => anyPoison (vs.drop n)
      | _ => poison
    let win := if f.space = 0 then s.redWindow (s.die s.myDie).wid addr else none
    match win, k, f.scope == 5 with
    | some w, .op _ _, true => startReduction f addr w data poison
    | _, _, _ => do
      let ps ← target f.d f.space.toNat addr f.bytes true
      Act.trapIf win.isSome .prot (BitVec.ofNat 64 addr) 0x111
      match ps with
      | [p] =>
        Act.trapIf (p.place = .host && !hostAtomic k) .prot (BitVec.ofNat 64 addr) 0x110
        -- in interval mode the device performs it on what it sees, and holds back the write (R362)
        if p.place = .host && !s.intervalWorlds.contains (s.die s.myDie).wid then
          startHostOp k addr p data cmp newPoison f.ord f.scope.toNat f.d n
        else do
          markEmpty f.d n
          let id ← Act.fresh
          pushAcc { id := id, kind := .atomic k data cmp newPoison, ord := f.ord,
                    scope := cappedScope f.space.toNat f.scope.toNat, pieces := ps,
                    dest := .regs (regIndex sl.mode f.d.toNat) n f.bytes false }
          Act.modify (fun s =>
            let due := s.cycle + s.lag + State.atomCycles s.myCore s.draws p + s.contention
              + s.hioCycles f.ord (cappedScope f.space.toNat f.scope.toNat)
            ({ s with draws := s.draws + 1 } : State).schedule (max due sl.hioStores) .atomicPerformed [s.cur, id])
      | _ => pure ()

def execAtom (f : MForm) (s : State) : Outcome :=
  issue (.atom f) (atomic f (.op f.evict f.rdc) f.regs (fun vs => dataBytes f.bytes vs) (fun _ => []) f.regs) s

def execAswp (f : MForm) (s : State) : Outcome :=
  issue (.aswp f) (atomic f .swap f.regs (fun vs => dataBytes f.bytes vs) (fun _ => []) f.regs) s

/-- ACAS (R88): the compare value stands in the first registers, the new value in those after them. -/
def execAcas (f : MForm) (s : State) : Outcome :=
  let n := f.bytes / 4
  issue (.acas f) (atomic f .cas n (fun vs => dataBytes f.bytes (vs.drop n)) (fun vs => dataBytes f.bytes (vs.take n))
    (2 * n)) s

/-! ## FENCE and PREF (R94, R95) -/

/-- FENCE (R95): what must be performed before a later access is performed now. With ORD 2 or 3 at system scope it
waits for the slot's reductions. At scope 6 what it orders waits for a zero-length read (R112). -/
def execFence (f : MForm) (s : State) : Outcome :=
  issue (.fence f) (do
    let s ← Act.state
    Act.parkIf (releases f.ord && decide (5 ≤ f.scope.toNat) && s.me.accs.any Acc.isReduction) {}
    if f.ord = 1 then Act.modify (fun s => s.acquireSlot s.cur)
    else do
      releaseAt f.scope.toNat
      if f.scope = 6 then Act.modMe (fun sl => { sl with
        hioStores := s.cycle + s.hostCycles, hioLoads := if f.ord = 3 then s.cycle + s.hostCycles else sl.hioLoads })) s

/-- Where a PREF finds its line: a device page, or a host page the TLB already holds with R. -/
def State.prefTarget (s : State) (addr : Nat) : Option (Place × Nat) × State :=
  let t := s.translatorOf s.cur
  match s.tlbFind t addr with
  | some e =>
    match e.pasid with
    | none => (some (.dram, e.base + (addr - e.va)), s)
    | some _ =>
      if e.r && !s.hostLost t.world && decide (addr < 2 ^ 56) then
        (some (.host, e.base + (addr - e.va)), s)
      else (none, s)
  | none =>
    match s.walk t.world addr with
    | .leaf _ _ _ _ =>
      match s.translate t addr false with
      | (.dram pa, s) => (some (.dram, pa), s)
      | _ => (none, s)
    | _ => (none, s)

/-- PREF (R94): a line not present is filled; whatever would fault or wait drops the request. -/
def execPref (f : MForm) (s : State) : Outcome :=
  issue (.pref f) (do
    check [f.srcA]
    let addr ← addressOf f false
    Act.modify (fun s =>
      match s.prefTarget addr with
      | (some (place, pa), s) =>
        let l1 := s.l1Of s.myCore pa
        let key := lineKey place pa
        if (s.line l1 key).isSome then s else (s.ensureLine l1 key f.evict f.rdc).fillLine l1 key
      | (none, s) => s)) s

/-! ## Landing (R26, R84, R88, R113) -/

/-- An ended task's slot is free once every owed write has landed (R273). Its stores go on. -/
def State.settleSlot (s : State) (k : Nat) : State :=
  let sl := s.slot k
  if sl.draining && sl.owed.isEmpty && sl.accs.all (fun x => x.dest == .none)
      && !(s.spans.any (fun x => x.slot == k && !x.held)) && !(s.results.any (fun r => r.slot == k)) then
    s.setSlot k { slotDefault k with accs := sl.accs, xsave := sl.xsave }
  else s

/-- Values reach a destination (R26). -/
def Slot.landDest (sl : Slot) (d : Dest) (r : List Byte × Bool) : Slot :=
  match d with
  | .regs index n nb sign => sl.land index (loadedValues n nb sign r)
  | _ => sl

/-- The bytes and the poison that an element adds to its result (R192, R193). -/
def Result.take (r : Result) (d : Dest) (bytes : List Byte) (poison : Bool) (arena : Mem) : Result :=
  match d with
  | .vector _ off =>
    { r with writes := r.writes ++ bytes.mapIdx (fun i b => (off + i, b))
             poisoned := if poison then r.poisoned ++ [off] else r.poisoned }
  | .nibble _ off high =>
    let old := match r.writes.reverse.find? (fun e => e.1 == off) with
      | some e => e.2
      | none => arena.byte off
    let v := (bytes.headD 0).toNat / (if high then 16 else 1) % 16
    { r with writes := r.writes ++ [(off, setNibble old high v)]
             poisoned := if poison then r.poisoned ++ [off] else r.poisoned }
  | _ => r

/-- An element of a view being loaded arrives. After the last one the view lands. -/
def State.landElement (s : State) (k rid : Nat) (d : Dest) (got : List Byte × Bool) : State :=
  let s : State := { s with results := s.results.map (fun r =>
    if r.id = rid then r.take d got.1 got.2 (s.memAt (.arena r.core)) else r) }
  if (s.slot k).accs.any (fun y => y.dest.result == some rid) then s
  else
    match s.results.find? (fun r => r.id == rid) with
    | some r => s.schedule (s.cycle + r.tail) .vectorWritesLand [k, rid]
    | none => s

/-- A load or atomic that has been performed lands. -/
def State.landAcc (s : State) (k id : Nat) : State :=
  match (s.slot k).accs.find? (fun x => x.id == id) with
  | none => s
  | some x =>
    let s := s.removeAcc k id
    match x.got, x.dest.result with
    | some r, some rid => s.landElement k rid x.dest r
    | some r, none => (s.modSlot k (fun sl => sl.landDest x.dest r)).settleSlot k
    | none, _ => s.settleSlot k

def execLoadValueLands (s : State) : Outcome :=
  .next (match s.subject with
    | [k, id] =>
      match (s.slot k).accs.find? (fun x => x.id == id) with
      | some x => ((s.forceBefore k x).performLoad k x).landAcc k id
      | none => s
    | _ => s)

def execAtomicPerformed (s : State) : Outcome :=
  .next (match s.subject with
    | [k, id] =>
      match (s.slot k).accs.find? (fun x => x.id == id) with
      | some x =>
        ((s.forceBefore k x).performAtomic k x).landAcc k id
      | none => s
    | _ => s)

/-- A store is performed (R113): first for the slots that share the writer's L1, then piece by piece for every other
agent. A store to a line with a read count goes home only when something takes it there (R91). -/
def execStorePerformed (s : State) : Outcome :=
  .next (match s.subject with
    | [k, id] =>
      match (s.slot k).accs.find? (fun x => x.id == id) with
      | none => s
      | some x =>
        let core := coreOfSlot k
        let s' := { s with draws := s.draws + 1 }
        let again := s.cycle + 1 + Config.delay s.draws
        let s1 :=
          if x.localDone then s'
          else (s'.forceBefore k x).performLocal k x
        let counted := x.pieces.any (fun p =>
          match s1.line (s1.l1Of core p.off) (lineKey p.place p.off) with
          | some l => l.rdc != 0
          | none => true)
        if counted then s1.removeAcc k id
        else if !x.localDone then s1.schedule again .storePerformed [k, id]
        else
          match x.pieces with
          | [] => s1.removeAcc k id
          | p :: rest =>
            -- the elements of a VSCAT before it are home first (R193)
            let s := s1.performAll k true ((s1.slot k).accs.filter (fun y =>
              decide (y.id < id) && x.chain.isSome && y.chain == x.chain))
            let s := s.pieceHome core p
            if rest.isEmpty then s.removeAcc k id
            else (s.modAcc k id (fun x => { x with pieces := rest })).schedule again .storePerformed [k, id]
    | _ => s)

/-- A PCI Express AtomicOp completion (R90): the host performs the operation, or answers with an error. -/
def execHostAtomicopCompletion (slot id : Nat) (st : HostStatus) (s : State) : Outcome :=
  .next (match (s.slot slot).hostOp with
    | none => s
    | some op =>
      if op.id != id || op.answer.isSome then s
      else
        match st with
        | .ok =>
          let x : Acc := { id := id, kind := .atomic op.kind op.operand op.compare op.poison, ord := op.ord,
                           scope := op.scope, pieces := [op.piece] }
          let s := s.forceBefore slot x
          let r := s.atomAt (s.worldOf (coreOfSlot slot)) op.piece op.kind op.operand op.compare op.poison
          let wrote := (atomWrites op.kind op.operand op.compare op.poison r.1).isSome
          (r.2.synchronise slot (acquires op.ord) wrote op.piece).modSlot slot
            (fun sl => { sl with hostOp := some { op with answer := some (.ok, r.1) } })
        | _ => s.modSlot slot (fun sl => { sl with hostOp := some { op with answer := some (st, [], false) } }))

/-- A quotient lands (R63). -/
def execDivisionLands (s : State) : Outcome :=
  .next (match s.subject with
    | [k, id] =>
      match (s.slot k).owed.find? (fun o => o.id == id) with
      | some o =>
        (s.modSlot k (fun sl => { sl.land o.index o.vals with owed := sl.owed.filter (fun x => x.id != id) })).settleSlot k
      | none => s
    | _ => s)

/-! ## Reductions on their way (R98, R385) -/

def Contribution.matches (x y : Contribution) : Bool :=
  x.world == y.world && x.va == y.va && x.len == y.len && x.type == y.type && x.fn == y.fn && x.piece == y.piece

/-- Two contributions merged: the function applied to both operands. -/
def Contribution.merge (x y : Contribution) : Contribution :=
  { x with
    operand := bytesOfWord x.len (atomFn x.type x.fn x.len (leNat x.operand) (leNat y.operand))
    poison := x.poison || y.poison
    parts := x.parts ++ y.parts }

/-- A contribution leaves the router for its home. -/
def State.forward (s : State) (cid : Nat) : State :=
  let s' : State := { s with
    draws := s.draws + 1
    contributions := s.contributions.map (fun (c : Contribution) =>
      if c.id = cid then { c with held := false, sent := true } else c) }
  s'.schedule (s.cycle + 1 + Config.delay s.draws) .reductionPerformed [cid]

/-- A contribution that may merge with others: it has been held for at most 128 cycles (R385). -/
def Contribution.open_ (c : Contribution) (cycle : Nat) : Bool := c.held && decide (cycle ≤ c.since + 128)

/-- A contribution is lost, with the reductions that it stands for. -/
def State.loseContribution (s : State) (c : Contribution) : State :=
  let s : State := { s with contributions := s.contributions.filter (fun x => x.id != c.id) }
  c.parts.foldl (fun s e => (s.removeAcc e.1 e.2).settleSlot e.1) s

/-- The router accepts a reduction: D takes 0, full and unpoisoned; the contribution merges into one held there, or is
held itself, for at most 128 cycles. A full buffer of 4,096 holds none and merges none; what cannot be forwarded because
its path is down waits in the router, and what is for a package that cannot be reached is lost (R392). -/
def execReductionAccepted (s : State) : Outcome :=
  .next (match s.subject with
    | [k, id, cid] =>
      let s := s.modSlot k (fun sl =>
        match sl.accs.find? (fun x => x.id == id) with
        | some x =>
          let sl := sl.landDest x.dest (bytesOfWord 8 0, false)
          { sl with accs := sl.accs.map (fun y => if y.id = id then { y with dest := .none } else y) }
        | none => sl)
      let s := s.settleSlot k
      match s.contributions.find? (fun c => c.id == cid) with
      | none => s
      | some c =>
        let here := fun (f : Contribution → Contribution) => { s with
          contributions := s.contributions.map (fun (y : Contribution) => if y.id = cid then f { y with accepted := true } else y) }
        let others := s.contributions.filter (fun x => x.held)
        if s.unreachable.contains c.home then s.loseContribution c
        else if 4096 ≤ others.length then
          if s.pathsDown.has c.home then here (fun y => y) else (here (fun y => y)).forward cid
        else
          match others.find? (fun x => x.matches c && x.open_ s.cycle) with
          | some x =>
            { s with contributions := (s.contributions.filter (fun y => y.id != cid)).map (fun y =>
                if y.id = x.id then x.merge c else y) }
          | none =>
            let s' : State := { here (fun y => { y with held := true, since := s.cycle }) with draws := s.draws + 1 }
            s'.schedule (s.cycle + Config.delay s.draws % 129) .combineBufferForward [cid]
    | _ => s)

/-- A held contribution is forwarded, unless its home cannot be reached just now (R383, R392). -/
def execCombineBufferForward (s : State) : Outcome :=
  .next (match s.subject with
    | [cid] =>
      match s.contributions.find? (fun c => c.id == cid && c.held) with
      | some c => if s.pathsDown.has c.home then s else s.forward cid
      | none => s
    | _ => s)

/-- Another package's contribution to an address that is homed here (R98, R383): the world that it names must be one of
this package. A page that the host has not answered for yet is waited for. -/
def State.reduceFrom (s : State) (wid va ty fn : Nat) (bytes : List Byte) : State :=
  match (List.range dieCount).find? (fun d => (s.die d).valid && (s.die d).wid == wid) with
  | none => s
  | some d =>
    let t : Translator := { die := d, world := wid, pasid := none, user := .poisoning 0 }
    let at_ := fun (s : State) (p : Place) (a : Nat) =>
      (s.atomAt wid { place := p, off := a, len := bytes.length } (.op (BitVec.ofNat 3 ty) (BitVec.ofNat 3 fn)) bytes [] false).2
    match s.translate t va true with
    | (.dram a, s) => at_ s .dram a
    | (.host a, s) => at_ s .host a
    | (.wait, s) => s.schedule (s.cycle + 1) .reductionPerformed s.subject
    | (.trap _ _, s) => s

/-- A contribution is combined at the home memory port; at a home on another package it leaves this machine, and one of
another package arrives. -/
def execReductionPerformed (s : State) : Outcome :=
  .next (match s.subject with
    | [cid] =>
      match s.contributions.find? (fun c => c.id == cid) with
      | none => s
      | some c =>
        -- over a path that is down nothing arrives
        if s.pathsDown.has c.home then s.schedule (s.cycle + 1) .reductionPerformed [cid]
        else
        let s := match c.piece with
          | some p => (s.atomAt c.world p (.op c.type c.fn) c.operand [] c.poison).2
          | none => s
        let s := { s with contributions := s.contributions.filter (fun x => x.id != cid) }
        c.parts.foldl (fun s e => (s.removeAcc e.1 e.2).settleSlot e.1) s
    | wid :: va :: ty :: fn :: bytes => s.reduceFrom wid va ty fn (bytes.map (BitVec.ofNat 8))
    | _ => s)

end Sys2Proof.Machine
end

