-- ==== Sys2Proof/Machine/Messages.lean ====
section
/-! DEFINITION. Messages (R229 to R237, R395): the send queue of a core, the network, the inbox, SEND and RECV, and
the delivery of link-port words. -/

namespace Sys2Proof.Machine

/-! ## Where messages go -/

/-- A core takes part in a world (R232): it is live, and its die belongs to the world. -/
def State.coreOfWorld (s : State) (world core : Nat) : Bool :=
  let d := s.die (dieOfCore core)
  decide (dieOfCore core < dieCount) && d.valid && d.wid == world && !s.deadCores.contains core

/-- A die's ports accept a request of a world (R366). -/
def State.portAccepts (s : State) (wid die : Nat) : Bool :=
  decide (die < dieCount) && (s.die die).valid && (s.die die).wid == wid

/-- A COORD value (R39). -/
def coordDie (w : Word) : Nat := (w.extractLsb' 24 8).toNat
def coordY (w : Word) : Nat := (w.extractLsb' 16 8).toNat
def coordX (w : Word) : Nat := (w.extractLsb' 8 8).toNat
def coordSlot (w : Word) : Nat := (w.extractLsb' 0 2).toNat

/-- A destination: a core of this package or of another. -/
structure Dest2 where
  remote : Option Nat
  die : Nat
  y : Nat
  x : Nat
  deriving DecidableEq, Repr

/-- The COORD form of a destination. -/
def Dest2.coord (d : Dest2) : Word :=
  BitVec.ofNat 8 d.die ++ BitVec.ofNat 8 d.y ++ BitVec.ofNat 8 d.x ++ (0 : BitVec 8)

def Dest2.core (d : Dest2) : Nat := coreAt d.die d.x d.y

/-- The destination is a live core of the sender's world, and its package can be reached. -/
def State.destLive (s : State) (world : Nat) (d : Dest2) : Bool :=
  decide (d.die < dieCount) && decide (d.y < 16) && decide (d.x < 18)
    && (match d.remote with
        | none => s.coreOfWorld world d.core
        | some p =>
          if p = s.pkgid.toNat then s.coreOfWorld world d.core
          else !s.unreachable.contains p && Config.remoteLive p d.core)

/-- The die boundaries that traffic between two dies crosses: one between column neighbours, else two, through the S-die
(R366, R395). -/
def boundaries (a b : Nat) : Nat :=
  if a = b then 0 else if Config.columnNeighbours (min a b) (max a b) then 1 else 2

/-- The cycles from leaving to entering an inbox, at least (R395). The fabric time to another package is open. -/
def State.messageCycles (s : State) (src dst : Nat) (remote : Bool) : Nat :=
  if remote then max (8 + 2 * Config.hopsToHub src) (s.cyclesFor 1000)
  else 8 + 2 * hops src dst + 60 * boundaries (dieOfCore src) (dieOfCore dst)

/-! ## The send queue and the network (R232, R235) -/

/-- A message of this core waits in the network for a place. -/
def State.pathBlocked (s : State) (core : Nat) : Bool :=
  s.flying.any (fun m => coreOfSlot m.src == core && m.blocked)

/-- Messages leave a send queue for the network while nothing of theirs is held up there. -/
def State.pumpQueue (core : Nat) : Nat → State → State
  | 0, s => s
  | n + 1, s =>
    match (s.core core).sendQueue with
    | [] => s
    | m :: rest =>
      if s.pathBlocked core then s
      else
        let s' : State := { s.modCore core (fun c => { c with sendQueue := rest }) with
          flying := s.flying ++ [m], draws := s.draws + 1 }
        -- the fabric time to another package is open
        let more := if m.remote.isSome then Config.delay s.draws else s.contentionFor m.src none
        State.pumpQueue core n (s'.schedule
          (s.cycle + s.messageCycles core m.dst m.remote.isSome + more) .messageEntersInbox [m.id])

def State.pump (s : State) (core : Nat) : State := State.pumpQueue core 4 s

def State.countSent (s : State) (lid : Nat) : State := s.modLaunch lid (fun l => { l with sent := l.sent + 1 })
def State.countReceived (s : State) (lid : Nat) : State :=
  s.modLaunch lid (fun l => { l with received := l.received + 1 })

/-- The launch that runs on the die of a slot. -/
def State.lidOf (s : State) (k : Nat) : Nat := ((s.launchOn (dieOfCore (coreOfSlot k))).map Launch.lid).getD 0

/-- The header of R229 without LEN. -/
def headerOf (slot : Nat) (remote cmpl : Bool) (tag : Byte) : Word :=
  let c := coreOfSlot slot
  BitVec.ofNat 4 (yOfCore c) ++ BitVec.ofNat 5 (xOfCore c) ++ BitVec.ofNat 3 (dieOfCore c)
    ++ BitVec.ofNat 2 (slotNumber slot) ++ BitVec.ofBool remote ++ BitVec.ofBool cmpl ++ (0 : BitVec 8) ++ tag

/-- Queue a message for a destination (R232, R235). The send queue has room. -/
def sendMessage (m : Msg) (d : Dest2) : Act Unit := do
  let id ← Act.fresh
  Act.modify (fun s =>
    let lid := s.lidOf s.cur
    let f : FlyingMsg := { id := id, msg := m, src := s.cur, dst := d.core,
                           remote := d.remote.filter (fun p => p != s.pkgid.toNat), lid := lid }
    ((s.modCore s.myCore (fun c => { c with sendQueue := c.sendQueue ++ [f] })).countSent lid).pump s.myCore)

/-- The park of a SEND or HSEND whose core's send queue is full. -/
def waitSendQueue : Wait := { xval := 69 }

def State.sendQueueFull (s : State) : Bool := decide (4 ≤ (s.core s.myCore).sendQueue.length)

/-! ## SEND (R231 to R234) -/

/-- What SEND does once its destination and tag are known; name is the COORD form that PROT 0x140 reports. -/
def sendStaged (d : Dest2) (tag : Byte) : Act Unit := do
  let s ← Act.state
  let sl ← Act.me
  Act.trapIf sl.outbox.isEmpty .prot 69 0x142
  Act.trapIf (!s.destLive (s.die s.myDie).wid d) .prot (d.coord.zeroExtend 64) 0x140
  Act.parkIf s.sendQueueFull waitSendQueue
  releaseAt (if d.remote.isSome then 5 else 4)
  let remote := d.remote.any (fun p => p != s.pkgid.toNat)
  sendMessage { kind := .data, header := headerOf s.cur remote false tag, words := sl.outbox } d
  Act.modMe (fun sl => { sl with outbox := [] })

/-- SEND to a COORD value. -/
def execSend (f : RForm) (s : State) : Outcome :=
  issue (.send f) (do
    check [f.srcA, f.srcB]
    let a ← rd f.a
    let t ← rd f.b
    Act.trapIf a.poison .poison f.a.toNat 0
    Act.trapIf t.poison .poison f.b.toNat 0
    Act.trapIf (a.w.extractLsb' 2 6 != 0 || t.w.extractLsb' 8 24 != 0) .prot (a.w.zeroExtend 64) 0x140
    sendStaged { remote := none, die := coordDie a.w, y := coordY a.w, x := coordX a.w } (t.w.extractLsb' 0 8)) s

def routeDefault (_ : Nat) : DWord := 0

/-- A signed 6-bit offset. -/
def signed6 (b : BitVec 6) : Int := b.toInt

/-- Where a resolved route entry leads (R233): relative entries count from the sender, on its die. A negative
column or row is reported as 255 (DESIGN CHOICE, assumption 87). -/
def resolveRoute (e : DWord) (core : Nat) : Dest2 :=
  if e.getLsbD 62 then
    let x : Int := (xOfCore core : Int) + signed6 (e.extractLsb' 44 6)
    let y : Int := (yOfCore core : Int) + signed6 (e.extractLsb' 38 6)
    -- an offset that falls off the mesh gives a place that no core has
    { remote := none, die := dieOfCore core, y := if y < 0 then 255 else y.toNat, x := if x < 0 then 255 else x.toNat }
  else
    { remote := if e.getLsbD 61 then some (e.extractLsb' 53 8).toNat else none, die := (e.extractLsb' 50 3).toNat,
      y := (e.extractLsb' 38 6).toNat, x := (e.extractLsb' 44 6).toNat }

/-- The route table of the launch a slot runs in. -/
def State.route (s : State) (k ch : Nat) : DWord :=
  match s.launchOn (dieOfCore (coreOfSlot k)) with
  | some l => l.routes.get routeDefault ch
  | none => 0

/-- SEND on a channel. -/
def execSendChannel (ch : BitVec 8) (f : RForm) (s : State) : Outcome :=
  issue (.sendChannel ch f) (do
    let s ← Act.state
    let e := s.route s.cur ch.toNat
    Act.trapIf (!e.getLsbD 63) .prot ch.toNat 0x141
    sendStaged (resolveRoute e s.myCore) (e.extractLsb' 0 8)) s

/-! ## The inbox (R230) -/

/-- A place has come free in an inbox: messages held up in the network may come in. -/
def Msg.plain (m : Msg) : Bool :=
  match m.kind with
  | .handle _ _ => false
  | _ => true

/-- The tag of a message, and its header with LEN. -/
def Msg.tag (m : Msg) : Byte := m.header.extractLsb' 0 8
def Msg.fullHeader (m : Msg) : Word := m.header ||| BitVec.ofNat 32 (m.words.length * 256)

def heldCoreDefault (_ : Nat) : Core := {}

/-- The core whose inbox takes what arrives for a launch: the saved one while its context is saved (R357). -/
def State.inboxCore (s : State) (lid core : Nat) : Core :=
  match s.launches.find lid with
  | some l => if l.saved then l.held.cores.get heldCoreDefault core else s.core core
  | none => s.core core

/-- What arrives for a saved core is appended to its saved inbox: the entry is to be written to the context buffer. -/
def State.modInboxCore (s : State) (lid core : Nat) (f : Core → Core) : State :=
  match s.launches.find lid with
  | some l =>
    if l.saved then
      let c := l.held.cores.get heldCoreDefault core
      (s.modLaunch lid (fun l => { l with held := { l.held with
        cores := l.held.cores.set heldCoreDefault core (f c) } })).schedule
        s.cycle .preemptSave [lid, core, c.inbox.length]
    else s.modCore core f
  | none => s.modCore core f

/-- A word pushed into a link port can be popped (R28). -/
def execPortWordDelivery (s : State) : Outcome :=
  .next (match s.subject with
    | [core, dir] =>
      s.modCore core (fun c =>
        let q := c.port dir
        match q.findIdx? (fun w => !w.arrived) with
        | some i => c.setPort dir (q.set i { (q.getD i { val := {}, arrived := true }) with arrived := true })
        | none => c)
    | _ => s)

/-! ## A saved context in memory (R355) -/

/-- Where a core's context buffer begins, from the base of the context areas (R355). -/
def bufferOffset (l : Launch) (core : Nat) : Nat :=
  (288 * l.dies.idxOf (dieOfCore core) + numberOfCore core) * 0xD0000

/-- The address at which scratchpad bytes of a core stand in the world's memory while its launch is saved (R355). -/
def State.savedScratch (s : State) (lid core off : Nat) : Option Nat :=
  match s.launches.find lid with
  | some l => if l.saved then some (l.ctx.toNat + bufferOffset l core + 0x50000 + off) else none
  | none => none

/-! ## RECV (R236) -/

def tagMatches (sel : Word) (tag : Byte) : Bool :=
  (tag &&& sel.extractLsb' 8 8) == (sel.extractLsb' 0 8 &&& sel.extractLsb' 8 8)

/-- The message a RECV selects: none where it waits. -/
def Core.selectMsg (c : Core) (sel : Word) : Option Nat :=
  c.inbox.findIdx? (fun m => m.plain && tagMatches sel m.tag)

def waitInbox (limit : Word) : Wait := { xval := 68, xval2 := limit.zeroExtend 64, reason := 0x0A }

def execRecv (f : RForm) (s : State) : Outcome :=
  issue (.recv f) (do
    check [f.srcA, f.srcB] [f.dst]
    let a ← rd f.a
    let lim ← rd f.b
    Act.trapIf a.poison .poison f.a.toNat 0
    Act.trapIf lim.poison .poison f.b.toNat 0
    Act.trapIf (a.w.extractLsb' 16 16 != 0) .prot f.a.toNat 0x145
    let s ← Act.state
    let c := s.core s.myCore
    match c.current with
    | some i =>
      Act.trapIf (!(c.inbox[i]?.any (fun m => tagMatches a.w m.tag))) .prot f.a.toNat 0x144
    | none => if (c.selectMsg a.w).isNone then boundedWait (waitInbox lim.w) lim.w
    let i := (c.current.orElse (fun _ => c.selectMsg a.w)).getD 0
    let m := c.inbox.getD i {}
    Act.modify (fun s => s.modCore s.myCore (fun c => { c with current := some i }))
    -- the header as it stands now arrives two cycles later
    oweRegs f.d [{ w := m.fullHeader }] 2 .divisionLands) s

end Sys2Proof.Machine
end

