-- ==== Sys2Proof/Machine/Handles.lean ====
section
/-! DEFINITION. The handle instructions (R135 to R142) and the loads and stores through handles (R143). -/

namespace Sys2Proof.Machine

/-! ## Handle registers (R36, R127) -/

def handleDefault (_ : Nat) : DWord := 0

/-- The word in handle register n (0 to 15). -/
def Slot.handle (sl : Slot) (n : Nat) : DWord := sl.handles.get handleDefault n
def Slot.setHandle (sl : Slot) (n : Nat) (w : DWord) : Slot := { sl with handles := sl.handles.set handleDefault n w }

/-- The number of the handle register a code names. -/
def handleNumber (code : Code) : Nat := code.toNat - 96

def Slot.handleAt (sl : Slot) (code : Code) : DWord := sl.handle (handleNumber code)
def setHandleAt (code : Code) (w : DWord) : Act Unit := Act.modMe (fun sl => sl.setHandle (handleNumber code) w)

inductive Want where
  | see
  | fill
  | live
  deriving DecidableEq, Repr

def Want.ok (w : Want) (kind : Nat) : Bool :=
  match w with
  | .see => kind == 1
  | .fill => kind != 1
  | .live => true

/-- hget (R136). -/
def hget (code : Code) (want : Want) : Act DWord := fun s =>
  let w := s.me.handleAt code
  if handleKind w = 0 then .error (.trap .handle code.toNat 0x04)
  else if s.stale (s.die s.myDie).wid w then .error (.trap .handle code.toNat 0x03)
  else if !want.ok (handleKind w) then .error (.trap .handle code.toNat 0x04)
  else .ok (w, s)

/-- A destination handle register must be free (R36). -/
def freeHandle (code : Code) : Act Unit := do
  let sl ← Act.me
  Act.trapIf (handleKind (sl.handleAt code) != 0) .handle code.toNat 0x01

/-! ## Tiles of other packages (R133, R383) -/

/-- An access to a tile of another package: it ends with PAGE 0x410 where the package cannot be reached, waits while the path
is down, and else ends as the home's translation of it does, which is open. -/
def State.awayOutcome (s : State) (w : DWord) : Except (Option (Cause × Nat)) Unit × State :=
  if s.awayLost w then (.error (some (.page, 0x410)), s)
  else if s.pathsDown.has (handlePkg w).toNat then (.error none, s)
  else
    let s' := { s with draws := s.draws + 1 }
    match Config.remoteFault s.draws with
    | some (page, code) => (.error (some (if page then .page else .prot, code)), s')
    | none => (.ok (), s')

/-- The same for the running instruction. The address at the home, which XVAL tells, is open. -/
def awayAccess (w : DWord) : Act Unit := fun s =>
  match s.awayOutcome w with
  | (.ok (), s) => .ok ((), s)
  | (.error (some (c, code)), s) => .error (.trap c (Config.freeWord s.draws) (BitVec.ofNat 64 code))
  | (.error none, _) => .error (.park {})

/-- What a load brings from a tile of another package is open. -/
def awayBytes (n : Nat) : Act (List Byte × Bool) := fun s =>
  .ok (((List.range n).map (fun i => Config.freeByte (s.draws + i)), (Config.freeByte (s.draws + n)).getLsbD 0),
    { s with draws := s.draws + n + 1 })

/-- A load of n bytes from such a tile is in flight, for a time that is open. -/
def startAway (n : Nat) (dest : Dest) (ord : BitVec 2) (scope : Nat) : Act Unit := do
  let id ← Act.fresh
  let got ← awayBytes n
  pushAcc { id := id, kind := .load, ord := ord, scope := scope, pieces := [], dest := dest, got := some got }
  let d ← drawDelay
  let s ← Act.state
  Act.schedule (s.cycle + 1 + d) .loadValueLands [s.cur, id]

/-! ## Abandoned storage (R131) -/

/-- Poison the sectors that n bytes touch, for a world, leaving the bytes as they are: what a poisoned store would leave. -/
def State.poisonHome (s : State) (w : Nat) (p : Place) (a n : Nat) : State :=
  let keys := if p.cached then (List.range ((sectorSpan a n + 255) / 256 + 1)).map (fun i => lineKey p (sectorBase a + 256 * i))
    else []
  let s := keys.foldl (fun s key => s.invalidateOthers [] key) s
  let s := s.logRange w p (sectorBase a) (sectorSpan a n)
  (s.setMemAt p ((s.memAt p).poisonSectors a n)).wakeWords { place := p, off := a, len := n }

def State.modPoisoning (s : State) (id : Nat) (f : Poisoning → Option Poisoning) : State :=
  { s with poisonings := s.poisonings.filterMap (fun p => if p.id = id then f p else some p) }

/-- Poison one page's part of a stretch; a page that does not translate for writing is passed over; one that waits for
the host waits. -/
def State.poisonStep (s : State) (p : Poisoning) : State × Bool :=
  let n := min p.left (0x1000 - p.va % 0x1000)
  let t : Translator := { die := p.die, world := p.world, pasid := p.pasid, user := .poisoning p.id }
  let rest : Option Poisoning := if p.left ≤ n then none else some { p with va := p.va + n, left := p.left - n }
  match s.translate t p.va true with
  | (.dram pa, s) => ((s.poisonHome p.world .dram pa n).modPoisoning p.id (fun _ => rest), true)
  | (.host a, s) => ((s.poisonHome p.world .host a n).modPoisoning p.id (fun _ => rest), true)
  | (.trap _ _, s) => (s.modPoisoning p.id (fun _ => rest), true)
  | (.wait, s) => (s, false)

/-- Go on with every stretch that can go on, one page each. -/
def State.poisonAll (s : State) : State := s.poisonings.foldl (fun s p => (s.poisonStep p).1) s

/-- The storage of a tile is poisoned: a scratchpad's at once, a global tile's page by page; that of a saved core stands in
its context buffer. -/
def State.poisonTile (s : State) (e : Nat) : State :=
  let x := s.entry e
  let saved := if x.scratch then s.savedScratch x.lid x.core x.base.toNat else none
  if x.scratch && saved.isNone then s.poisonHome x.world (.scratchpad x.core) x.base.toNat x.len.toNat
  else
    let p : Poisoning := { id := s.nextId, die := e / 65536, world := x.world,
                           pasid := (s.launches.find x.lid).bind Launch.pasid, va := saved.getD x.base.toNat,
                           left := x.len.toNat }
    { s with nextId := s.nextId + 1, poisonings := s.poisonings ++ [p] }

/-- The tiles a fill covers: the entry itself, or the members of a joint entry. -/
def State.membersOf (s : State) (e : Nat) : List Nat :=
  if (s.entry e).members.isEmpty then [e] else (s.entry e).members

/-- A fill handle is dropped as abandoned (R131). -/
def State.abandonFill (s : State) (e : Nat) : State :=
  let s := (s.membersOf e).foldl State.poisonTile s
  s.settleFill e .abandoned

/-- Drop a handle word: a fill is published or abandoned, a see handle is one fewer (R131). A stale word stands for no
handle; that of a tile of another package is dropped there. -/
def State.dropWord (s : State) (w : DWord) (publish : Bool) : State :=
  if handleKind w = 0 || s.away w || s.stale (s.die (handleDie w)).wid w then s
  else if handleKind w = kindSee then s.dropSee (handleEntry w)
  else if publish then s.settleFill (handleEntry w) .published
  else s.abandonFill (handleEntry w)

/-! ## HNEW (R137) -/

/-- The entries of a die's table in use. -/
def State.usedEntries (s : State) (die : Nat) : Nat := ((s.die die).handles.filter (fun e => e.2.used)).length

/-- The first free entry from an index on, going round the table. -/
def State.freeEntryFrom (s : State) (die index : Nat) : Nat → Nat
  | 0 => index
  | n + 1 => if (s.entry (die * 65536 + index)).used then s.freeEntryFrom die ((index + 1) % 65536) n else index

/-- A free entry of a die, whichever the device takes; the caller has checked that one is free. -/
def newEntry (die : Nat) : Act Nat := do
  let d ← Act.draw
  let s ← Act.state
  return die * 65536 + s.freeEntryFrom die (Config.entryChoice d % 65536) 65536

/-- Entries for n tiles are free on this die. -/
def State.entriesFree (s : State) (die n : Nat) : Bool := decide (s.usedEntries die + n ≤ 65536)

/-- HNEW and HNEW.SP: scratch tells the space. -/
def newTile (f : RForm) (scratch : Bool) : Act Unit := do
  check [f.srcA 2, f.srcB]
  let b ← rdp f.a
  let len ← rd f.b
  Act.trapIf b.poison .poison f.a.toNat 0
  Act.trapIf len.poison .poison f.b.toNat 0
  freeHandle f.d
  freeHandle (f.d + 1)
  let base := b.w.toNat
  let n := len.w.toNat
  Act.trapIf (base % 64 != 0 || n == 0 || n % 64 != 0) .handle f.a.toNat 0x07
  -- the last byte's address wraps modulo 2^64
  Act.trapIf (!scratch && decide (2 ^ 56 ≤ (base + n - 1) % 2 ^ 64)) .page b.w 0x300
  Act.trapIf (scratch && decide (0x80000 < base + n)) .prot b.w 0x101
  let s ← Act.state
  Act.trapIf (!s.entriesFree s.myDie 1) .handle f.d.toNat 0x05
  let e ← newEntry s.myDie
  let s ← Act.state
  let x : Entry := { used := true, base := b.w, scratch := scratch, core := s.myCore, len := len.w.zeroExtend 64,
                     fill := true, sees := 1, gen := (s.entry e).gen, world := (s.die s.myDie).wid,
                     lid := s.lidOf s.cur }
  Act.modify (fun s => s.setEntry e x)
  let s ← Act.state
  setHandleAt f.d (s.handleTo kindFill e)
  setHandleAt (f.d + 1) (s.handleTo kindSee e)

def execHnew (f : RForm) (s : State) : Outcome := issue (.hnew f) (newTile f false) s
def execHnewSp (f : RForm) (s : State) : Outcome := issue (.hnewSp f) (newTile f true) s

/-! ## HCOPY, HMOVE, HDROP, HINFO (R138, R139) -/

def execHcopy (f : RForm) (s : State) : Outcome :=
  issue (.hcopy f) (do
    let w ← hget f.a .live
    Act.trapIf (handleKind w != kindSee) .handle f.a.toNat 0x02
    freeHandle f.d
    Act.modify (fun s => if s.away w then s else s.modEntry (handleEntry w) (fun x => { x with sees := x.sees + 1 }))
    setHandleAt f.d w) s

def execHmove (f : RForm) (s : State) : Outcome :=
  issue (.hmove f) (do
    let w ← hget f.a .live
    freeHandle f.d
    setHandleAt f.d w
    setHandleAt f.a 0) s

/-- The scope of the release that the drop of a fill is (R119, R133). -/
def State.dropScope (s : State) (w : DWord) : Nat := if s.away w then 5 else 4

/-- HDROP: the drop of a fill is a release. -/
def execHdrop (f : RForm) (s : State) : Outcome :=
  issue (.hdrop f) (do
    let w ← hget f.a .live
    let s ← Act.state
    if handleKind w != kindSee then releaseAt (s.dropScope w)
    Act.modify (fun s => s.dropWord w true)
    setHandleAt f.a 0) s

/-- What HINFO writes for a word (R139). For a joint fill, SEES is the joint entry's own count (assumption 23). -/
def State.handleInfo (s : State) (w : DWord) : DWord :=
  if handleKind w = 0 then 0
  else
    let e := handleEntry w
    let x := s.wordEntry w
    let m := if s.away w then x else s.entry ((s.membersOf e).headD e)
    let hi : Word := BitVec.ofNat 8 (min 255 x.sees) ++ handlePkg w ++ (0 : BitVec 5) ++ BitVec.ofNat 3 (handleDie w)
      ++ (0 : BitVec 2) ++ BitVec.ofBool m.ring.isSome ++ BitVec.ofBool m.scratch
      ++ (match x.state with
          | .open => (0 : BitVec 2)
          | .published => (1 : BitVec 2)
          | .abandoned => (2 : BitVec 2))
      ++ BitVec.ofNat 2 (handleKind w)
    hi ++ m.len.extractLsb' 0 32

def execHinfo (f : RForm) (s : State) : Outcome :=
  issue (.hinfo f) (do
    check [] [f.dst 2]
    let s ← Act.state
    let w := s.me.handleAt f.a
    Act.trapIf (handleKind w != 0 && s.stale (s.die s.myDie).wid w) .handle f.a.toNat 0x03
    wrp f.d { w := s.handleInfo w }) s

/-! ## See accesses (R130, R140) -/

/-- XVAL2 of ABANDON: INDEX and GEN of the entry. -/
def State.abandonCode (s : State) (e : Nat) : DWord :=
  BitVec.ofNat 64 (e % 65536 + (s.entry e).gen.toNat * 65536)

/-- A see access (R130): it waits for an open tile, or traps EMPTY under its EP bit, and traps ABANDON on an abandoned
one. -/
def seeAccess (code : Code) (ep : Bool) (w : DWord) : Act Unit := do
  let s ← Act.state
  let x := s.wordEntry w
  match (if x.settled = some s.cycle then TileState.open else x.state) with
  | .open => do
    Act.trapIf ep .empty code.toNat 0
    Act.park { xval := code.toNat, reason := 0x04 }
  | .published => pure ()
  | .abandoned => Act.trap .abandon code.toNat (BitVec.ofNat 64 (handleIndex w + x.gen.toNat * 65536))

def execHwait (f : RForm) (s : State) : Outcome :=
  issue (.hwait f) (do
    let w ← hget f.a .see
    seeAccess f.a (bitSet f.ep 0) w) s

/-! ## HSEND and HRECV (R141, R142) -/

/-- HSEND. A package that cannot be reached is found before a malformed destination (DESIGN CHOICE, assumption 76). -/
def execHsend (f : RForm) (s : State) : Outcome :=
  issue (.hsend f) (do
    check [f.srcB, f.srcC]
    let gb ← rd f.b
    let gc ← rd f.c
    Act.trapIf gb.poison .poison f.b.toNat 0
    Act.trapIf gc.poison .poison f.c.toNat 0
    let w ← hget f.a .live
    let s ← Act.state
    let remote := gc.w.getLsbD 8
    let pkg := (gc.w.extractLsb' 0 8).toNat
    let d : Dest2 := { remote := if remote then some pkg else none, die := coordDie gb.w, y := coordY gb.w,
                       x := coordX gb.w }
    Act.trapIf (remote && s.unreachable.contains pkg) .prot (gb.w.zeroExtend 64) 0x140
    Act.trapIf (gb.w.extractLsb' 2 6 != 0 || gc.w.extractLsb' 9 23 != 0 || (!remote && pkg != 0)
      || !s.destLive (s.die s.myDie).wid d) .prot (gb.w.zeroExtend 64) 0x131
    Act.parkIf s.sendQueueFull waitSendQueue
    sendMessage { kind := .handle w (coordSlot gb.w), header := headerOf s.cur (remote && pkg != s.pkgid.toNat) false 0 } d
    setHandleAt f.a 0) s

/-- The oldest handle message addressed to a slot of its core. -/
def Core.handleMsg (c : Core) (slot : Nat) : Option Nat :=
  c.inbox.findIdx? (fun m => match m.kind with
    | .handle _ k => k == slot
    | _ => false)

/-- Take a message out of an inbox, keeping the current message current. -/
def Core.removeMsg (c : Core) (i : Nat) : Core :=
  { c with
    inbox := c.inbox.eraseIdx i
    current := match c.current with
      | some j => if i < j then some (j - 1) else if i = j then none else some j
      | none => none }

/-- HRECV. A poisoned limit traps before a D that is not free (DESIGN CHOICE, assumption 76). -/
def execHrecv (f : RForm) (s : State) : Outcome :=
  issue (.hrecv f) (do
    check [f.srcA]
    let lim ← rd f.a
    Act.trapIf lim.poison .poison f.a.toNat 0
    freeHandle f.d
    let s ← Act.state
    let c := s.core s.myCore
    match c.handleMsg (slotNumber s.cur) with
    | none => boundedWait (waitInbox lim.w) lim.w
    | some i =>
      match (c.inbox.getD i {}).kind with
      | .handle w _ => do
        setHandleAt f.d w
        Act.modify (fun s => s.modCore s.myCore (fun c => c.removeMsg i))
      | _ => pure ()) s

/-! ## HLD and HST (R143) -/

/-- Who translates for a tile: its home die, under the page tables and PASID of the launch that created it (R133). -/
def State.tileTranslator (s : State) (e : Nat) : Translator :=
  let x := s.entry e
  { die := e / 65536, world := x.world, pasid := (s.launches.find x.lid).bind Launch.pasid, user := .slot s.cur }

/-- Where n bytes at an offset of a tile stand. -/
def tileTarget (e off n : Nat) (write : Bool) : Act (List Piece) := do
  let s ← Act.state
  let x := s.entry e
  if x.scratch then return [{ place := .scratchpad x.core, off := x.base.toNat + off, len := n }]
  else do
    let t ← translateAs (s.tileTranslator e) (x.base.toNat + off) write
    return piecesOf t.1 t.2 n

/-- The bounds and alignment of an access of n bytes at an offset of a tile. -/
def checkTileOffset (off : Int) (n : Nat) (len : Nat) : Act Unit := do
  let v := BitVec.ofInt 64 off
  Act.trapIf (decide (off < 0) || decide ((len : Int) < off + n)) .prot v 0x130
  Act.trapIf (off % n != 0) .align v (BitVec.ofNat 64 n)

def execHld (f : MForm) (s : State) : Outcome :=
  issue (.hld f) (do
    check [] [{ code := f.d, n := f.regs }]
    let w ← hget f.a .live
    let see := handleKind w == kindSee
    if see then seeAccess f.a (bitSet f.epA 0) w
    let s ← Act.state
    let off := f.off.toInt
    let dest : Dest := .regs (regIndex s.me.mode f.d.toNat) f.regs f.bytes false
    if s.away w then do
      checkTileOffset off f.bytes (Config.remoteLength w)
      awayAccess w
      markEmpty f.d f.regs
      startAway f.bytes dest (if see then 1 else 0) (if see then 5 else 0)
    else do
      let e := (s.membersOf (handleEntry w)).headD 0
      checkTileOffset off f.bytes (s.entry e).len.toNat
      let ps ← tileTarget e off.toNat f.bytes false
      markEmpty f.d f.regs
      let id ← Act.fresh
      startLoad { id := id, kind := .load, ord := if see then 1 else 0, scope := if see then 4 else 0, pieces := ps,
                  evict := f.evict, rdc := f.rdc, dest := dest }) s

/-- The pieces of a store at an offset of every tile that a fill covers. -/
def tileTargets (off n : Nat) (write : Bool) : List Nat → Act (List Piece)
  | [] => pure []
  | e :: rest => do
    let ps ← tileTarget e off n write
    let more ← tileTargets off n write rest
    return ps ++ more

def execHst (f : MForm) (s : State) : Outcome :=
  issue (.hst f) (do
    check [f.srcD f.regs]
    let vs ← readData f.d f.regs
    let w ← hget f.a .fill
    let s ← Act.state
    let off := f.off.toInt
    if s.away w then do
      checkTileOffset off f.bytes (Config.remoteLength w)
      awayAccess w
    else do
      let members := s.membersOf (handleEntry w)
      checkTileOffset off f.bytes (members.foldl (fun n e => min n (s.entry e).len.toNat)
        (s.entry (members.headD 0)).len.toNat)
      let ps ← tileTargets off.toNat f.bytes true members
      let id ← Act.fresh
      startStore { id := id, kind := .store, pieces := ps,
                   data := (members.map (fun _ => dataBytes f.bytes vs)).flatten, poison := anyPoison vs,
                   evict := f.evict, rdc := f.rdc }) s

/-! ## What comes from the network (R235, R383) -/

/-- Another package asks something of a die. A port that refuses it makes it an error of its sender (R366, R383). -/
def State.fromPackage (s : State) (wid die : Nat) (act : State → State) : State :=
  if s.portAccepts wid die then act s else s.schedule s.cycle (.diePortRefusal wid die)

/-- The launch of a world on a die; where several are loaded there, the one that is not saved. -/
def State.launchAt (s : State) (wid die : Nat) : Option Nat :=
  let ls := (s.launches.map Prod.snd).filter (fun l => l.world == wid && l.dies.contains die)
  ((ls.find? (fun l => !l.saved)).orElse (fun _ => ls.head?)).map Launch.lid

/-- A message of another package enters the inbox of a core once that has a place. -/
def State.messageFrom (s : State) (wid dst : Nat) (m : Msg) : State :=
  s.fromPackage wid (dieOfCore dst) (fun s =>
    match s.launchAt wid (dieOfCore dst) with
    | none => s
    | some lid =>
      if 64 ≤ (s.inboxCore lid dst).inbox.length then s.schedule (s.cycle + 1) .messageEntersInbox s.subject
      else ((s.modInboxCore lid dst (fun c => { c with inbox := c.inbox ++ [m] })).countSent lid).countReceived lid)

/-- A slot of another package stores to the tiles of a fill that is homed here (R133): pages that wait for the host, or do
not translate, are the affair of the access there. -/
def State.storeFrom (s : State) (w : DWord) (off : Nat) (bs : List Byte) : State :=
  (s.membersOf (handleEntry w)).foldl (fun s e =>
    let x := s.entry e
    if x.scratch then s.homeWrite x.world (.scratchpad x.core) (x.base.toNat + off) bs false
    else
      match (s.translate { s.tileTranslator e with user := .poisoning 0 } (x.base.toNat + off) true).1 with
      | .dram a => s.homeWrite x.world .dram a bs false
      | .host a => s.homeWrite x.world .host a bs false
      | _ => s) s

/-- What another package does with a handle of a tile homed here (R131, R133): it is dropped, as abandoned or not, or
copied. -/
def State.handleFrom (s : State) (w : DWord) (what : Nat) : State :=
  match what with
  | 0 => s.dropWord w false
  | 1 => s.dropWord w true
  | _ => if handleKind w = kindSee then s.modEntry (handleEntry w) (fun x => { x with sees := x.sees + 1 }) else s

/-- An act of another package, by its kind: a message, a handle message, a drop or copy of a handle, or a store. Its first
number is the world it names. -/
def State.arrive (s : State) (wid : Nat) : List Nat → State
  | 0 :: dst :: header :: words =>
    s.messageFrom wid dst { kind := .data, header := BitVec.ofNat 32 header
                            words := words.map (fun x => ({ w := BitVec.ofNat 32 x } : Val)) }
  | [1, dst, header, slot, word] =>
    s.messageFrom wid dst { kind := .handle (BitVec.ofNat 64 word) slot, header := BitVec.ofNat 32 header }
  | [2, word, what] =>
    let w : DWord := BitVec.ofNat 64 word
    s.fromPackage wid (handleDie w) (fun s => if s.away w || s.stale wid w then s else s.handleFrom w what)
  | 3 :: word :: off :: bytes =>
    let w : DWord := BitVec.ofNat 64 word
    s.fromPackage wid (handleDie w) (fun s =>
      if s.away w || s.stale wid w || handleKind w = kindSee then s
      else s.storeFrom w off (bytes.map (BitVec.ofNat 8)))
  | _ => s

/-- A message enters its inbox, or leaves for another package over a path that is up, when a place is free, after every
earlier one of its slot to the same core; else it waits in the network, and what its core sends waits behind it (R235). Or
another package's act arrives. -/
def execMessageEntersInbox (s : State) : Outcome :=
  .next (match s.subject with
    | [id] =>
      match s.flying.find? (fun m => m.id == id) with
      | none => s
      | some m =>
        let first := !(s.flying.any (fun x =>
          decide (x.id < m.id) && x.src == m.src && x.dst == m.dst && x.remote == m.remote))
        let room := match m.remote with
          | some p => !s.pathsDown.has p
          | none => decide ((s.inboxCore m.lid m.dst).inbox.length < 64)
        if first && room then
          let s' : State := { s with flying := s.flying.filter (fun x => x.id != id) }
          let s' := if m.remote.isSome then s'
            else s'.modInboxCore m.lid m.dst (fun c => { c with inbox := c.inbox ++ [m.msg] })
          (s'.countReceived m.lid).pump (coreOfSlot m.src)
        else
          let s' : State := { s with
            flying := s.flying.map (fun x => if x.id = id then { x with blocked := x.blocked || !room } else x) }
          s'.schedule (s.cycle + 1) .messageEntersInbox [id]
    | wid :: more => s.arrive wid more
    | [] => s)

end Sys2Proof.Machine
end

