-- ==== Sys2Proof/Machine/Rings.lean ====
section
/-! DEFINITION. Rings (R123, R144 to R150): QCFG, QRSV, QPOP and QSTAT, and the states of a ring slot. -/

namespace Sys2Proof.Machine

def ringNumber (code : Code) : Nat := code.toNat - 112

def Slot.ring (sl : Slot) (q : Nat) : Ring := sl.rings.get ringDefault q

/-! ## Slot states (R145) -/

inductive RingState where
  | free
  | open
  | full
  | drain
  deriving DecidableEq, Repr

def RingState.code : RingState → BitVec 2
  | .free => 0 | .open => 1 | .full => 2 | .drain => 3

/-- A ring slot's record; an unlisted one is free. -/
def Ring.slotAt (r : Ring) (i : Nat) : RingSlot := (r.slots.find i).getD {}

def State.ringState (s : State) (r : Ring) (i : Nat) : RingState :=
  let x := r.slotAt i
  if x.held then (if (s.entry x.entry).state = .open then .open else .full)
  else if x.drain then .drain
  else .free

/-- Every slot is FREE. -/
def State.ringEmpty (s : State) (r : Ring) : Bool :=
  (List.range r.nslot).all (fun i => s.ringState r i == .free)

/-! ## Descriptors (R144, R146) -/

/-- The eight words of a descriptor as a ring; none where a field is outside its limits. GBASE may have a bit
above 55 (DESIGN CHOICE, assumption 87). -/
def parseRing (w : Nat → Word) : Option Ring :=
  let b := fun (i k : Nat) => ((w i).extractLsb' (8 * k) 8).toNat
  let gbase : DWord := w 5 ++ w 4
  let link := b 2 1
  let reserved := (w 3).extractLsb' 8 24 != 0 || w 7 != 0
  if reserved then none
  else if link = 0 then
    if (w 0).toNat % 64 = 0 && (w 1).toNat % 64 = 0 && decide (64 ≤ (w 1).toNat) && decide (2 ≤ b 2 0)
        && decide (b 2 0 ≤ 64) && b 2 2 == 0 && b 2 3 == 0 && b 3 0 == 0 && gbase.toNat % 64 == 0
        && (w 6).toNat % 64 == 0 && (gbase != 0 || w 6 == 0)
        && decide ((w 0).toNat + b 2 0 * (w 1).toNat ≤ 0x80000) then
      some { configured := true, base := (w 0).toNat, slotBytes := (w 1).toNat, nslot := b 2 0, gbase := gbase,
             gstride := w 6 }
    else none
  else if link = 1 then
    if w 0 = 0 && w 1 == 0 && b 2 0 == 0 && b 2 2 != 0 && decide (b 2 2 < 16) && decide (b 2 3 ≤ 3)
        && decide (b 3 0 ≤ 7) && gbase == 0 && w 6 == 0 then
      some { configured := true, link := true, members := (w 2).extractLsb' 16 8, mslot := b 2 3, mring := b 3 0 }
    else none
  else none

/-- The scratchpad bytes of two own rings overlap. -/
def Ring.overlaps (x y : Ring) : Bool :=
  x.configured && y.configured && !x.link && !y.link
    && decide (x.base < y.base + y.nslot * y.slotBytes) && decide (y.base < x.base + x.nslot * x.slotBytes)

/-- A new own ring overlaps one of any slot of its core, the register it replaces aside. -/
def State.ringClash (s : State) (k q : Nat) (r : Ring) : Bool :=
  (List.range 4).any (fun i =>
    let slot := coreOfSlot k * 4 + i
    (s.slot slot).rings.any (fun e => !(slot == k && e.1 == q) && e.2.overlaps r))

/-- Take a ring register out of use: its see handles are dropped, and an entry no longer needed is free (R145). -/
def State.deconfigure (s : State) (k q : Nat) : State :=
  let r := (s.slot k).ring q
  let s := s.modSlot k (fun sl => { sl with rings := sl.rings.set ringDefault q {} })
  r.slots.foldl (fun s e =>
    let x := e.2
    let s := s.modEntry x.entry (fun y => { y with ring := none })
    if x.held && !x.broken then s.dropSee x.entry
    else if !(s.entry x.entry).fill && (s.entry x.entry).sees == 0 then
      s.modEntry x.entry (fun y => { gen := y.gen })
    else s) s

/-- Entries for slots i to i + n − 1 of an own ring. -/
def ringEntries (k q : Nat) (r : Ring) : Nat → Nat → Act (Assoc RingSlot)
  | _, 0 => pure []
  | i, n + 1 => do
    let e ← newEntry (dieOfCore (coreOfSlot k))
    Act.modify (fun s => s.modEntry e (fun y =>
      { used := true, base := BitVec.ofNat 64 (r.base + i * r.slotBytes), scratch := true, core := coreOfSlot k,
        len := BitVec.ofNat 64 r.slotBytes, gen := y.gen, ring := some (k, q, i),
        world := (s.die (dieOfCore (coreOfSlot k))).wid, lid := s.lidOf k }))
    let rest ← ringEntries k q r (i + 1) n
    return (i, { entry := e }) :: rest

/-- The code of the first poisoned register of a run. -/
def firstPoison (code : Nat) : List Val → Option Nat
  | [] => none
  | v :: vs => if v.poison then some code else firstPoison (code + 1) vs

def execQcfg (f : RForm) (s : State) : Outcome :=
  issue (.qcfg f) (do
    check (f.srcA 8).each
    let sl ← Act.me
    let vs := sl.regsFrom f.a.toNat 8
    match firstPoison f.a.toNat vs with
    | some c => Act.trap .poison (BitVec.ofNat 64 c) 0
    | none => pure ()
    let q := ringNumber f.d
    let s ← Act.state
    Act.trapIf (!s.ringEmpty (sl.ring q)) .handle f.d.toNat 0x06
    let w := fun (i : Nat) => (vs.getD i {}).w
    if vs.all (fun v => v.w == 0) then Act.modify (fun s => s.deconfigure s.cur q)
    else
      match parseRing w with
      | none => Act.trap .handle f.d.toNat 0x07
      | some r => do
        Act.trapIf (!r.link && s.ringClash s.cur q r) .handle f.d.toNat 0x07
        Act.modify (fun s => s.deconfigure s.cur q)
        let s ← Act.state
        Act.trapIf (!s.entriesFree s.myDie r.nslot) .handle f.d.toNat 0x05
        let slots ← ringEntries s.cur q r 0 r.nslot
        Act.modMe (fun sl => { sl with rings := sl.rings.set ringDefault q { r with slots := slots } })) s

/-! ## QRSV (R123, R147) -/

/-- The slot and ring number of each ring that a QRSV on a ring reserves in. -/
def Ring.targets (r : Ring) (k q : Nat) : List (Nat × Nat) :=
  if r.link then
    ((List.range 4).filter (fun i => r.members.getLsbD i)).map (fun i =>
      (coreOfCluster (clusterOfCore (coreOfSlot k)) i * 4 + r.mslot, r.mring))
  else [(k, q)]

/-- Reserve the tail slot of one ring: its entry opens, the ring keeps the see handle. -/
def State.reserve (s : State) (k q : Nat) : State :=
  let r := (s.slot k).ring q
  let e := (r.slotAt r.t).entry
  let s := s.modEntry e (fun y => { y with state := .open, fill := true, sees := 1, settled := none, lid := s.lidOf k })
  let s := s.modRingSlot k q r.t (fun x => { x with held := true, broken := false })
  s.modRing k q (fun r => { r with t := (r.t + 1) % r.nslot, res := r.res + 1 })

/-- The entry of a ring's tail slot. -/
def State.tailEntry (s : State) (t : Nat × Nat) : Nat :=
  let r := (s.slot t.1).ring t.2
  (r.slotAt r.t).entry

/-- QRSV. A poisoned limit traps before HANDLE 0x08 and 0x01, and HANDLE 0x05 names D (DESIGN CHOICE, assumption 76). -/
def execQrsv (f : RForm) (s : State) : Outcome :=
  issue (.qrsv f) (do
    check [f.srcB]
    let lim ← rd f.b
    Act.trapIf lim.poison .poison f.b.toNat 0
    let s ← Act.state
    let q := ringNumber f.a
    let r := s.me.ring q
    Act.trapIf (!r.configured) .handle f.a.toNat 0x08
    freeHandle f.d
    let ts := r.targets s.cur q
    let rings := ts.map (fun t => (s.slot t.1).ring t.2)
    Act.trapIf (r.link && rings.any (fun m => m.configured && m.link)) .handle f.a.toNat 0x09
    -- H and T of the ring, or of the lowest member whose ring is configured
    let low := (rings.find? Ring.configured).getD {}
    let wait : Wait := { xval := f.a.toNat, xval2 := BitVec.ofNat 64 (low.h + low.t * 65536), reason := 0x05 }
    if rings.any (fun m => !m.configured || s.ringState m m.t != .free || (m.slotAt m.t).freed == some s.cycle) then
      boundedWait wait lim.w
    Act.trapIf (decide (1 < ts.length) && !s.entriesFree s.myDie 1) .handle f.d.toNat 0x05
    let es := ts.map s.tailEntry
    Act.modify (fun s => ts.foldl (fun s t => s.reserve t.1 t.2) s)
    if 1 < ts.length then
      let j ← newEntry s.myDie
      Act.modify (fun s => s.modEntry j (fun y =>
        { used := true, fill := true, gen := y.gen, members := es, len := (s.entry (es.headD 0)).len, scratch := true,
          world := (s.die s.myDie).wid, lid := s.lidOf s.cur }))
      let s ← Act.state
      setHandleAt f.d (s.handleTo kindJoint j)
    else
      let s ← Act.state
      setHandleAt f.d (s.handleTo (if r.link then kindJoint else kindFill) (es.headD 0))) s

/-! ## QPOP and QSTAT (R149, R150) -/

/-- Pop the head slot: it is put in DRAIN, and the ring's see handle goes to the caller. -/
def State.popRing (s : State) (k q : Nat) : State :=
  let r := (s.slot k).ring q
  let s := s.modRingSlot k q r.h (fun x => { x with held := false, drain := true })
  s.modRing k q (fun r => { r with h := (r.h + 1) % r.nslot, res := r.res - 1 })

/-- The entry of a ring's head slot. -/
def Ring.headEntry (r : Ring) : Nat := (r.slotAt r.h).entry

def execQpop (f : RForm) (s : State) : Outcome :=
  issue (.qpop f) (do
    let s ← Act.state
    let q := ringNumber f.a
    let r := s.me.ring q
    Act.trapIf (!r.configured || r.link) .handle f.a.toNat 0x08
    Act.trapIf (r.res == 0) .handle f.a.toNat 0x0A
    Act.trapIf (r.slotAt r.h).broken .handle f.a.toNat 0x03
    if f.d != 0 then freeHandle f.d
    let e := r.headEntry
    Act.modify (fun s => s.popRing s.cur q)
    if f.d = 0 then Act.modify (fun s => s.dropSee e)
    else
      let s ← Act.state
      setHandleAt f.d (s.handleTo kindSee e)) s

/-- What QSTAT writes. -/
def State.ringStatus (s : State) (r : Ring) : DWord :=
  if r.link then
    (0 : BitVec 20) ++ r.members.extractLsb' 0 4 ++ (0 : BitVec 2) ++ (1 : BitVec 1) ++ (0 : BitVec 37)
  else
    let head := s.entry r.headEntry
    let hi : Word := (0 : BitVec 20) ++ (0 : BitVec 4) ++ (0 : BitVec 3)
      ++ BitVec.ofBool (decide (s.ringState r r.h ≠ .free) && decide (head.state = .abandoned))
      ++ (s.ringState r r.t).code ++ (s.ringState r r.h).code
    let lo : Word := (0 : BitVec 1) ++ BitVec.ofNat 7 r.nslot ++ (0 : BitVec 1) ++ BitVec.ofNat 7 r.res ++ (0 : BitVec 2)
      ++ BitVec.ofNat 6 r.t ++ (0 : BitVec 2) ++ BitVec.ofNat 6 r.h
    hi ++ lo

def execQstat (f : RForm) (s : State) : Outcome :=
  issue (.qstat f) (do
    check [] [f.dst 2]
    let s ← Act.state
    let r := s.me.ring (ringNumber f.a)
    Act.trapIf (!r.configured) .handle f.a.toNat 0x08
    wrp f.d { w := s.ringStatus r }) s

/-- The matrix unit has read the last byte of a ring slot (R145, R148). -/
def execRingSlotFrees (s : State) : Outcome :=
  .next (match s.subject with
    | [k, q, i] => (s.modRingSlot k q i (fun x => { x with readers := x.readers - 1 })).settleRingSlot k q i
    | _ => s)

end Sys2Proof.Machine
end

