-- ==== Sys2Proof/Machine/Copies.lean ====
section
/-! DEFINITION. The copy engine of a cluster (R221 to R228): CPY, CPYH and CPYM, how a copy starts, moves its bytes,
ends and reports. -/

namespace Sys2Proof.Machine

/-! ## Data read at issue -/

/-- Translate n bytes at a 64-byte aligned address in parts that lie in one page each. -/
def lineTargets (addr : Nat) : Nat → Act (List Piece)
  | 0 => pure []
  | n + 1 => do
    let ps ← globalTarget addr 64 false
    let rest ← lineTargets (addr + 64) n
    return ps ++ rest

/-- The park of an instruction whose data, read at issue, is on its way. -/
def waitArrival (code : Code) : Wait := { xval := code.toNat }

/-- Read n lines of 64 bytes at issue, as a plain load: the instruction parks until they arrive (R225). s0 is the state
before the instruction took its operands. -/
def readAtIssue (s0 : State) (code : Code) (addr n : Nat) : Act (List Byte × Bool) := do
  let ps ← lineTargets addr n
  match s0.me.arrival with
  | none => do
    let cycles := (← Act.state).lag + ps.foldl (fun m p => max m (s0.loadCycles s0.myCore p)) 4
    let s1 : State := { s0.setMe { s0.me with arrival := some (s0.cycle + cycles + s0.contentionFor s0.cur none) } with
      draws := s0.draws + 1 }
    fun _ => .error (.wait (waitArrival code) s1)
  | some t =>
    if s0.cycle ≤ t then Act.park (waitArrival code)
    else fun s =>
      let x : Acc := { id := s.nextId, kind := .load, pieces := ps }
      let s := s.forceBefore s.cur x
      let r := s.readPieces s.myCore 0 0 ps
      .ok (r.1, r.2)

/-! ## Descriptors (R222, R223) -/

/-- A little-endian field of a byte list. -/
def fieldOf (bs : List Byte) (off n : Nat) : Nat := leNat ((bs.drop off).take n)

/-- A signed little-endian field. -/
def signedField (bs : List Byte) (off n : Nat) : Int :=
  let v := fieldOf bs off n
  if 2 ^ (8 * n - 1) ≤ v then (v : Int) - 2 ^ (8 * n) else v

/-- Reserved fields, element size, dimensions, spaces and counts (code 0x150). -/
def descWellFormed (bs : List Byte) : Bool :=
  let ndim := fieldOf bs 17 1
  let spaces := fieldOf bs 18 1
  decide (fieldOf bs 16 1 ≤ 8) && decide (1 ≤ ndim) && decide (ndim ≤ 6) && decide (spaces < 16)
    && spaces % 4 != 3 && spaces / 4 != 3 && fieldOf bs 19 5 == 0 && fieldOf bs 120 8 == 0
    && (List.range 6).all (fun n =>
      if n < ndim then fieldOf bs (24 + 16 * n) 4 != 0
      else fieldOf bs (24 + 16 * n) 16 == 0)

def parseDesc (bs : List Byte) : CopyDesc :=
  let dims := List.range (fieldOf bs 17 1)
  { src := fieldOf bs 0 8, dst := fieldOf bs 8 8, esize := 2 ^ fieldOf bs 16 1,
    counts := dims.map (fun n => fieldOf bs (24 + 16 * n) 4),
    sstrides := dims.map (fun n => signedField bs (28 + 16 * n) 6),
    dstrides := dims.map (fun n => signedField bs (34 + 16 * n) 6),
    srcSpace := fieldOf bs 18 1 % 4, dstSpace := fieldOf bs 18 1 / 4 % 4 }

/-- al: the alignment of a copy, and the bytes of its pieces. -/
def CopyDesc.unit (d : CopyDesc) : Nat := min d.esize 32

def CopyDesc.aligned (d : CopyDesc) (extra : Nat) : Bool :=
  (d.src + extra) % d.unit == 0 && d.dst % d.unit == 0
    && (d.sstrides ++ d.dstrides).all (fun x => x % (d.unit : Int) == 0)

/-- The footprint of a side, relative to its base: its first byte and its last. -/
def footprint (counts : List Nat) (strides : List Int) (esize : Nat) : Int × Int :=
  let ends := (counts.zip strides).map (fun e => ((e.1 : Int) - 1) * e.2)
  (ends.foldl (fun a x => a + min 0 x) 0, ends.foldl (fun a x => a + max 0 x) 0 + esize - 1)

/-- A footprint lies in [0, limit) from a base. -/
def footprintIn (base : Nat) (fp : Int × Int) (limit : Nat) : Bool :=
  decide (0 ≤ (base : Int) + fp.1) && decide ((base : Int) + fp.2 < limit)

def spaceLimit (space : Nat) : Nat := if space = 1 then 0x80000 else 0x200000

/-- Code 0x152: the footprints; len is the length of the tile that CPYH and CPYM fill. -/
def CopyDesc.fits (d : CopyDesc) (extra : Nat) (len : Option Nat) : Bool :=
  (d.srcSpace == 0 || footprintIn (d.src + extra) (footprint d.counts d.sstrides d.esize) (spaceLimit d.srcSpace))
    && (match len with
        | some n => footprintIn 0 (footprint d.counts d.dstrides d.esize) n
        | none => d.dstSpace == 0
            || footprintIn d.dst (footprint d.counts d.dstrides d.esize) (spaceLimit d.dstSpace))

/-! ## CPY, CPYH, CPYM (R224, R225) -/

/-- The three copy instructions: handle tells that a fill is taken from D, single that it may name one tile only. -/
def copyOp (f : RForm) (handle single : Bool) : Act Unit := do
  let s0 ← Act.state
  check [f.srcA 2, f.srcB]
  let b ← rdp f.a
  let o ← rd f.b
  Act.trapIf b.poison .poison f.a.toNat 0
  Act.trapIf o.poison .poison f.b.toNat 0
  let w ← if handle then hget f.d .fill else pure 0
  let s ← Act.state
  let members := if handle && !s.away w then s.membersOf (handleEntry w) else []
  let tiles := if handle && s.away w then Config.remoteMembers w else members.length
  Act.trapIf (single && handleKind w == kindJoint && decide (1 < tiles)) .handle f.d.toNat 0x04
  Act.trapIf (b.w.toNat % 64 != 0) .align b.w 64
  let r ← readAtIssue s0 f.a b.w.toNat 2
  Act.trapIf r.2 .poison f.a.toNat 0
  Act.trapIf (!descWellFormed r.1) .prot b.w 0x150
  let d := parseDesc r.1
  Act.trapIf (!d.aligned o.w.toNat) .prot b.w 0x151
  let len := if handle && s.away w then some (Config.remoteLength w) else if handle then
      some (members.foldl (fun n e => min n (s.entry e).len.toNat) (s.entry (members.headD 0)).len.toNat)
    else none
  Act.trapIf (!d.fits o.w.toNat len) .prot b.w 0x152
  Act.trapIf (handle && (d.dst != 0 || d.dstSpace != 0)) .prot b.w 0x153
  let s ← Act.state
  let cl := clusterOfCore s.myCore
  Act.parkIf (decide (16 ≤ (s.cluster cl).copyQueue.length)) (waitArrival f.a)
  let id ← Act.fresh
  let c : CopyCmd := { id := id, slot := s.cur, desc := d, extra := o.w.toNat, tag := f.c.zeroExtend 8, word := w,
                       seq := (s.core s.myCore).copySeq, lid := s.lidOf s.cur,
                       pasid := (s.launchOn s.myDie).bind Launch.pasid, accepted := s.cycle }
  Act.modify (fun s =>
    let s := s.modCore s.myCore (fun x => { x with copySeq := x.copySeq + 1, copies := x.copies ++ [id] })
    s.modCluster cl (fun x => { x with copyQueue := x.copyQueue ++ [c] }))
  if handle then setHandleAt f.d 0
  let d ← drawDelay
  Act.schedule (s.cycle + 8 + d) .copyStart [cl, id]

def execCpy (f : RForm) (s : State) : Outcome := issue (.cpy f) (copyOp f false false) s
def execCpyh (f : RForm) (s : State) : Outcome := issue (.cpyh f) (copyOp f true true) s
def execCpym (f : RForm) (s : State) : Outcome := issue (.cpym f) (copyOp f true false) s

/-! ## Running (R226, R227) -/

def State.modRun (s : State) (cl id : Nat) (f : CopyRun → CopyRun) : State :=
  s.modCluster cl (fun c => { c with copyRuns := c.copyRuns.map (fun r => if r.cmd.id = id then f r else r) })

/-- Pieces of each element, and pieces of the whole copy. -/
def CopyDesc.perElement (d : CopyDesc) : Nat := d.esize / d.unit
def CopyDesc.pieceCount (d : CopyDesc) : Nat := d.counts.foldl (· * ·) 1 * d.perElement

/-- The oldest command starts once eight cycles have passed, a running place is free and no completion is held up. Every
earlier access of its slot is performed first. -/
def execCopyStart (s : State) : Outcome :=
  .next (match s.subject with
    | [cl, id] =>
      let x := s.cluster cl
      match x.copyQueue with
      | [] => s
      | c :: rest =>
        if !(x.copyQueue.any (fun y => y.id == id)) then s
        else if c.id != id || decide (4 ≤ x.copyRuns.length) || x.copyRuns.any CopyRun.blocked then
          s.schedule (s.cycle + 1) .copyStart [cl, id]
        else
          let earlier := (s.slot c.slot).accs.filter (fun a => decide (a.id < id))
          let s := (s.performAll c.slot true earlier).cleanFor c.slot
          s.modCluster cl (fun y => { y with
            copyQueue := rest
            copyRuns := y.copyRuns ++ [{ cmd := c, remaining := [(0, c.desc.pieceCount)] }] })
    | _ => s)

/-- Take piece number i of the pieces that remain out of their ranges. -/
def takePiece (i : Nat) : List (Nat × Nat) → Option Nat × List (Nat × Nat)
  | [] => (none, [])
  | (lo, hi) :: rest =>
    if i < hi - lo then
      let p := lo + i
      (some p, [(lo, p), (p + 1, hi)].filter (fun e => decide (e.1 < e.2)) ++ rest)
    else
      let r := takePiece (i - (hi - lo)) rest
      (r.1, (lo, hi) :: r.2)

def piecesLeft (rs : List (Nat × Nat)) : Nat := rs.foldl (fun n e => n + (e.2 - e.1)) 0

/-- The offset of an element from the base of a side: dimension 0 counts fastest. -/
def elementOffset (counts : List Nat) (strides : List Int) (i : Nat) : Int :=
  match counts, strides with
  | c :: cs, s :: ss => (i % c : Nat) * s + elementOffset cs ss (i / c)
  | _, _ => 0

/-- Where a global address stands, for the engine: it is translated as the engine reaches it. -/
def State.engineGlobal (s : State) (t : Translator) (addr : Nat) (write : Bool) :
    Except (Option (Cause × Nat)) (Place × Nat) × State :=
  match s.translate t addr write with
  | (.dram pa, s) => (.ok (.dram, pa), s)
  | (.host a, s) => (.ok (.host, a), s)
  | (.trap cause code, s) => (.error (some (cause, code)), s)
  | (.wait, s) => (.error none, s)

/-- Where bytes of a scratchpad stand, for the engine: in the saved context while the launch of its copy is saved (R357). -/
def State.engineScratch (s : State) (t : Translator) (c : CopyCmd) (core off : Nat) (write : Bool) :
    Except (Option (Cause × Nat)) (Place × Nat) × State :=
  match s.savedScratch c.lid core off with
  | some va => s.engineGlobal t va write
  | none => (.ok (.scratchpad core, off), s)

/-- Who translates for a copy. -/
def State.copyTranslator (s : State) (c : CopyCmd) : Translator :=
  let die := dieOfCore (coreOfSlot c.slot)
  { die := die, world := (s.die die).wid, pasid := c.pasid, user := .copy c.id }

/-- Where an address of a side stands. -/
def State.copyPlace (s : State) (c : CopyCmd) (space addr : Nat) (write : Bool) :
    Except (Option (Cause × Nat)) (Place × Nat) × State :=
  let core := coreOfSlot c.slot
  let t := s.copyTranslator c
  match space with
  | 0 => s.engineGlobal t addr write
  | 1 => s.engineScratch t c core addr write
  | _ => s.engineScratch t c (coreOfCluster (clusterOfCore core) (addr / 0x80000 % 4)) (addr % 0x80000) write

/-- Where an offset of a tile stands, for the engine. -/
def State.copyTilePlace (s : State) (c : CopyCmd) (e : Nat) (off : Nat) :
    Except (Option (Cause × Nat)) (Place × Nat) × State :=
  let x := s.entry e
  let t : Translator := { s.tileTranslator e with user := .copy c.id }
  if x.scratch then s.engineScratch t c x.core (x.base.toNat + off) true
  else s.engineGlobal t (x.base.toNat + off) true

/-- The places a piece is written to. -/
def State.copyDests (s : State) (c : CopyCmd) (off : Int) (tiles : List Nat) :
    Except (Option (Cause × Nat)) (List (Place × Nat)) × State :=
  match tiles with
  | [] => (.ok [], s)
  | e :: rest =>
    match s.copyTilePlace c e off.toNat with
    | (.error x, s) => (.error x, s)
    | (.ok p, s) =>
      match s.copyDests c off rest with
      | (.error x, s) => (.error x, s)
      | (.ok ps, s) => (.ok (p :: ps), s)

/-- A 64-bit address from an integer. -/
def wrap64 (x : Int) : Nat := (x % 2 ^ 64).toNat

/-- Where piece number i is read: its address in the source space. -/
def CopyCmd.source (c : CopyCmd) (i : Nat) : Nat :=
  let d := c.desc
  wrap64 ((d.src + c.extra : Nat) + elementOffset d.counts d.sstrides (i / d.perElement)
    + (i % d.perElement : Nat) * (d.unit : Int))

/-- The places that piece number i is written to. -/
def State.pieceDests (s : State) (c : CopyCmd) (i : Nat) :
    Except (Option (Cause × Nat)) (List (Place × Nat)) × State :=
  let d := c.desc
  let off := elementOffset d.counts d.dstrides (i / d.perElement) + (i % d.perElement : Nat) * (d.unit : Int)
  if c.word = 0 then
    match s.copyPlace c d.dstSpace (wrap64 (d.dst + off)) true with
    | (.error x, s) => (.error x, s)
    | (.ok p, s) => (.ok [p], s)
  else if s.away c.word then
    match s.awayOutcome c.word with
    | (.error x, s) => (.error x, s)
    | (.ok (), s) => (.ok [], s)
  else s.copyDests c off (s.membersOf (handleEntry c.word))

/-- Write a piece at one place: at once, but for host memory, where each 8 bytes are a write of their own (R96). What the
L1s hold of it is invalidated (R226). -/
def State.putPiece (s : State) (cl id w : Nat) (v : List Byte × Bool) (p : Place × Nat) : State :=
  if p.1 = .host && decide (8 < v.1.length) then
    let ws : List CopyWrite := (List.range (v.1.length / 8)).map (fun i =>
      { off := p.2 + 8 * i, bytes := (v.1.drop (8 * i)).take 8, poison := v.2, world := w })
    s.modRun cl id (fun r => { r with pending := r.pending ++ ws })
  else s.homeWrite w p.1 p.2 v.1 v.2

/-- Move one piece: read it at home and write it with its poison. -/
def State.movePiece (s : State) (cl : Nat) (c : CopyCmd) (i : Nat) : Except (Option (Cause × Nat)) Unit × State :=
  match s.copyPlace c c.desc.srcSpace (c.source i) false with
  | (.error x, s) => (.error x, s)
  | (.ok src, s) =>
    match s.pieceDests c i with
    | (.error x, s) => (.error x, s)
    | (.ok ps, s) =>
      let v := s.homeRead src.1 src.2 c.desc.unit
      (.ok (), ps.foldl (fun s p => s.putPiece cl c.id (s.copyTranslator c).world v p) s)

/-- One read latency of R97, for the engine. -/
def State.engineCycles (s : State) (cl : Nat) (p : Place × Nat) : Nat :=
  let core := coreOfCluster cl 0
  match p.1 with
  | .scratchpad c => if c = core then 6 else 10
  | .host => s.hostCycles
  | _ => sliceCycles core p.2 s.draws

/-- A copy ends: its fill is dropped at once, published or abandoned, and its completion follows (R125, R227, R395). -/
def State.endCopy (s : State) (cl : Nat) (r : CopyRun) (publish : Bool) : State :=
  let s := s.modRun cl r.cmd.id (fun r => { r with ended := true, dropped := true, remaining := [], pending := [] })
  let s := if r.cmd.word = 0 then s else s.dropWord r.cmd.word publish
  ({ s with draws := s.draws + 1 } : State).schedule (s.cycle + 4 + s.contentionFor r.cmd.slot (some r.cmd.id))
    .copyCompletion [cl, r.cmd.id]

/-- A copy goes on: its first read, then one piece, or one write to host memory that is left of an earlier one. -/
def State.advanceCopy (s : State) (cl choice : Nat) (r : CopyRun) : State :=
  let n := r.pending.length + piecesLeft r.remaining
  let at_ := choice % n
  let fails := fun (s : State) (x : Option (Cause × Nat)) =>
    match x with
    | none => s
    | some x => (s.modRun cl r.cmd.id (fun r => { r with fault := some x })).schedule s.cycle .copyFault [cl, r.cmd.id]
  match r.lands with
  | none =>
    match s.copyPlace r.cmd r.cmd.desc.srcSpace (r.cmd.source ((takePiece at_ r.remaining).1.getD 0)) false with
    | (.error x, s) => fails s x
    | (.ok p, s) =>
      ({ s with draws := s.draws + 1 } : State).modRun cl r.cmd.id
        (fun r => { r with lands := some (s.cycle + s.engineCycles cl p) })
  | some _ =>
    match r.pending[at_]? with
    | some w =>
      let s := s.homeWrite w.world .host w.off w.bytes w.poison
      let left := r.pending.eraseIdx at_
      let s := s.modRun cl r.cmd.id (fun r => { r with pending := left })
      if left.isEmpty && r.remaining.isEmpty then s.endCopy cl r true else s
    | none =>
      let t := takePiece (at_ - r.pending.length) r.remaining
      match t.1 with
      | none => s
      | some i =>
        match s.movePiece cl r.cmd i with
        | (.error x, s) => fails s x
        | (.ok (), s) =>
          let s := s.modRun cl r.cmd.id (fun r => { r with remaining := t.2 })
          if t.2.isEmpty && ((s.cluster cl).copyRuns.find? (fun x => x.cmd.id == r.cmd.id)).all (fun x => x.pending.isEmpty)
            then s.endCopy cl r true else s

/-- One cycle of a cluster's copy engine: one running copy goes on. -/
def State.copyCycle (s : State) (cl : Nat) : State :=
  let runs := (s.cluster cl).copyRuns.filter (fun r =>
    !r.ended && r.fault.isNone && r.lands.all (fun n => decide (n ≤ s.cycle)))
  match runs[Config.copyChoice s.draws % runs.length]? with
  | none => s
  | some r => ({ s with draws := s.draws + 2 } : State).advanceCopy cl (Config.copyChoice (s.draws + 1)) r

/-- The copy engines of every cluster that runs a copy. -/
def State.copyAll (s : State) : State :=
  (s.clusters.filter (fun e => e.2.copyRuns.any (fun r => !r.ended && r.fault.isNone))).foldl
    (fun s e => s.copyCycle e.1) s

/-! ## The end of a copy (R227, R228) -/

/-- A copy that has met PAGE or PROT ends: a fill it holds is dropped as abandoned. -/
def execCopyFault (s : State) : Outcome :=
  .next (match s.subject with
    | [cl, id] =>
      match (s.cluster cl).copyRuns.find? (fun r => r.cmd.id == id) with
      | none => s
      | some r =>
        if r.ended then s
        else s.endCopy cl r false
    | _ => s)

/-- The word of a completion message (R228). -/
def completionWord (r : CopyRun) : Word :=
  match r.fault with
  | some (cause, code) => (1 : BitVec 1) ++ cause.code.extractLsb' 0 7 ++ BitVec.ofNat 8 code ++ r.cmd.seq
  | none => (0 : BitVec 16) ++ r.cmd.seq

/-- A finished copy drops its fill, then enqueues its completion message once the earlier copies of its core have
theirs and the inbox has a place; until then the engine starts no copy. -/
def execCopyCompletion (s : State) : Outcome :=
  .next (match s.subject with
    | [cl, id] =>
      match (s.cluster cl).copyRuns.find? (fun r => r.cmd.id == id) with
      | none => s
      | some r =>
        let core := coreOfSlot r.cmd.slot
        let s := if r.dropped || r.cmd.word = 0 then s else s.dropWord r.cmd.word true
        let s := s.modRun cl id (fun r => { r with dropped := true })
        let c := s.inboxCore r.cmd.lid core
        if c.copies.head? != some id then s.schedule (s.cycle + 1) .copyCompletion [cl, id]
        else if 64 ≤ c.inbox.length then
          (s.modRun cl id (fun r => { r with blocked := true })).schedule (s.cycle + 1) .copyCompletion [cl, id]
        else
          let m : Msg := { kind := .completion, header := headerOf r.cmd.slot false true r.cmd.tag,
                           words := [{ w := completionWord r }] }
          let s := s.modInboxCore r.cmd.lid core (fun c => { c with inbox := c.inbox ++ [m], copies := c.copies.drop 1 })
          let s := s.modCluster cl (fun x => { x with copyRuns := x.copyRuns.filter (fun y => y.cmd.id != id) })
          (s.countSent r.cmd.lid).countReceived r.cmd.lid
    | _ => s)

end Sys2Proof.Machine
end

