-- ==== Sys2Proof/Machine/Fetch.lean ====
section
/-! DEFINITION. Which slot issues next (R20, R21), the landing trap and the fetch trap that come before an instruction
is decoded (R52, steps 0 and 1), and the state in which a given instruction is the next one fetched. -/

namespace Sys2Proof.Machine

/-- A slot that was ready when another yielded has neither issued since nor stopped being ready (R275). -/
def State.stillReady (s : State) (o : Nat × DWord × Word) : Bool :=
  let sl := s.slot o.1
  sl.occupied && sl.retired == o.2.1 && sl.pc == o.2.2 && sl.parked.isNone

/-- A TREV is between the two requests of a record (R261). -/
def State.midRecord (s : State) (k : Nat) : Bool :=
  let sl := s.slot k
  sl.reversal.isSome && (match decode (s.codeWord (dieOfCore (coreOfSlot k)) sl.pc) with
    | .ok (.trev _) => true
    | _ => false)

/-- A slot can stop for a save where it stands (R357): in task mode, at an instruction boundary. A TREV goes on to the end
of its record, and a host atomic that has been sent is waited for. A translator goes on until nothing is owed to it, so that
no run can tell that it has been stopped (R297, DEDUCED, assumption 85). -/
def State.canStop (s : State) (k : Nat) : Bool :=
  let sl := s.slot k
  sl.mode == .task && sl.hostOp.isNone && (!sl.xlt || (sl.accs.isEmpty && sl.owed.isEmpty)) && !s.midRecord k

/-- Stopped for a save. -/
def State.stopped (s : State) (k : Nat) : Bool :=
  (s.launchOn (dieOfCore (coreOfSlot k))).any (fun l => l.preempting.isSome) && s.canStop k

/-- A landing FPTRAP is to be taken: the slot is ready for it whatever else it waits for (R40). -/
def Slot.fptrapDue (sl : Slot) : Bool := sl.fptrap != 0 && sl.mode == .task

/-- A slot that may be examined in this cycle: occupied, started, and not held back by a YIELD (R20, R275), or with a
landing FPTRAP to take. -/
def State.mayIssue (s : State) (k : Nat) : Bool :=
  let sl := s.slot k
  sl.occupied && !sl.draining && !s.stopped k && (sl.fptrapDue || (decide (sl.ready ≤ s.cycle)
    && (match sl.yielded with
        | none => true
        | some (others, until_) => decide (until_ ≤ s.cycle) || !(others.any s.stillReady))))

/-- The slots of a core in the order of R21, from the i-th on, with their position in that order. A slot whose matrix
request is granted goes first: its instruction issues in the grant's cycle (R195). -/
def State.examined (s : State) (core i : Nat) : List (Nat × Nat) :=
  let order := (List.range 4).map (fun j => (core * 4 + ((s.core core).last + 1 + j) % 4, j))
  match (if i = 0 then order.find? (fun e => (s.slot e.1).granted) else none) with
  | some e => (e.1, 0) :: order
  | none => order.drop i

/-- The next slot that issues in this cycle: of the lowest core from State.turn on, the first in its order. -/
def State.nextIssuer (s : State) : Option (Nat × Nat) :=
  let cores := (s.slots.filter (fun e => e.2.occupied)).map (fun e => coreOfSlot e.1)
  (cores.filter (fun c => decide (s.turn ≤ c))).findSome? (fun c =>
    (s.examined c (if c = s.turn then s.tried else 0)).find? (fun e => s.mayIssue e.1))

/-! ## The instruction buffer (R110) -/

/-- The block of 256 bytes that a program counter lies in. -/
def codeBlock (pc : Word) : Nat := pc.toNat / 256

/-- What a fetch that misses takes. -/
def missCycles (core : Nat) (pc : Word) : Nat := 100 + 2 * hopsToSlice core (codeAddress (dieOfCore core) pc.toNat)

/-- The buffer of 64 KiB takes a block, which arrives in a given cycle; which block gives way is open. -/
def Core.takeBlock (c : Core) (block arrives draw : Nat) : Core :=
  let kept := if c.code.length < 256 then c.code else c.code.eraseIdx (Config.displaced draw % c.code.length)
  { c with code := kept ++ [(block, arrives)] }

/-- When the word at a program counter can be issued: at once where its block stands in the buffer. -/
def State.wordArrives (s : State) (core : Nat) (pc : Word) : Option Nat :=
  ((s.core core).code.find? (fun e => e.1 == codeBlock pc)).map Prod.snd

/-- The word that a slot is about to issue stands in its core's buffer. -/
def State.fetched (s : State) (k : Nat) : Bool :=
  (s.wordArrives (coreOfSlot k) (s.slot k).pc).any (fun t => decide (t ≤ s.cycle))

/-- A slot fetches the word at its program counter in a given cycle, and issues it when it has arrived. -/
def State.fetchFrom (s : State) (k now : Nat) : State :=
  let core := coreOfSlot k
  let pc := (s.slot k).pc
  match s.wordArrives core pc with
  | some t => s.modSlot k (fun sl => { sl with ready := max now t })
  | none =>
    let t := now + missCycles core pc
    let s := s.modCore core (fun c => c.takeBlock (codeBlock pc) t s.draws)
    ({ s with draws := s.draws + 1 } : State).modSlot k (fun sl => { sl with ready := t })

/-- The slot examined now waits for its word; the core goes on to the next one. -/
def State.fetchMiss (s : State) (k : Nat) : State :=
  { s.fetchFrom k s.cycle with turn := coreOfSlot k, tried := s.tried + 1 }

/-- XINST of a trap for which no word was fetched: the spec gives no value. -/
def State.unfetched (s : State) : DWord × State := (Config.freeWord s.draws, { s with draws := s.draws + 1 })

/-- R52 step 0: a pending landing FPTRAP is taken in task mode before the fetch (R40). -/
def execLandingFptrap (s : State) : Outcome :=
  let sl := s.me
  if sl.fptrap != 0 && sl.mode = .task then
    let u := s.unfetched
    .next (((u.2.setMe { sl with fptrap := 0, landed := 0 }).takeTrap s.cur .fptrap (sl.landed &&& sl.fenable).toNat 0 u.1).issued
      s.cur)
  else .next s

/-- A fetch outside the code bound or misaligned (R42). -/
def State.fetchTrap (s : State) : Outcome :=
  let u := s.unfetched
  .next ((u.2.takeTrap s.cur .fetchb (s.me.lastPc.zeroExtend 64) 0 u.1).issued s.cur)

/-- R52 step 2 for a word that stands for no instruction: ILLEGAL, with the word in XINST. The word stands in
State.subject. -/
def execIllegalInstruction (s : State) : Outcome :=
  .next ((s.takeTrap s.cur .illegal 0 0 (BitVec.ofNat 64 (s.subject.headD 0))).issued s.cur)

/-- A task alone on slot 0 of core 0 of die 0, its code bound one word at offset 0x1000: the least that a fetch needs
where no slot of the machine is about to issue. -/
def State.withTask (s : State) : State :=
  let s := s.setSlot 0 { s.slot 0 with
    occupied := true, draining := false, ready := 0, yielded := none, fptrap := 0, landed := 0, mode := .task, xlt := false,
    pc := 0x1000, cbase := 0x1000, cbound := 0x1008 }
  let s := [1, 2, 3].foldl (fun s k => s.modSlot k (fun sl => { sl with granted := false })) s
  let s := s.modCore 0 (fun c => { c with last := 3 })
  { s with frozen := false, early := [], closing := false, turn := 0, tried := 0 }

/-- Store eight code bytes where a slot fetches next, and let its core's buffer hold their block. -/
def State.storeCode (s : State) (k : Nat) (w : DWord) : State :=
  let pc := (s.slot k).pc
  let pa := codeAddress (dieOfCore (coreOfSlot k)) pc.toNat
  let s := s.modCore (coreOfSlot k) (fun c => { c with
    code := c.code.filter (fun e => e.1 != codeBlock pc) ++ [(codeBlock pc, s.cycle)] })
  { s with dram := s.dram.setBytes pa (bytesOfWord 8 w.toNat) }

end Sys2Proof.Machine
end

