-- ==== Sys2Proof/Machine/Tasks.lean ====
section
/-! DEFINITION. Tasks (R15, R262, R265 to R277): FORK, the deque with its spill area, starts and steals, EXIT, JOIN,
WAITQ, YIELD, and the limits of bounded waits. -/

namespace Sys2Proof.Machine

/-! ## Descriptors (R265) -/

def TaskDesc.pinned (d : TaskDesc) : Bool := d.ctrl.getLsbD 6
def TaskDesc.joins (d : TaskDesc) : Bool := d.ctrl.getLsbD 7
def TaskDesc.count (d : TaskDesc) : Nat := (d.ctrl.extractLsb' 4 2).toNat

/-- The 64 bytes of a descriptor. -/
def TaskDesc.bytes (d : TaskDesc) : List Byte :=
  bytesOfWord 4 d.entry.toNat ++ bytesOfWord 4 d.ctrl.toNat ++ bytesOfWord 4 d.tile.toNat ++ bytesOfWord 4 0
    ++ ((List.range 4).map (fun i => bytesOfWord 4 (d.args.getD i 0).toNat)).flatten
    ++ bytesOfWord 8 d.jaddr.toNat
    ++ ((List.range 3).map (fun i => bytesOfWord 8 (d.handles.getD i 0).toNat)).flatten

/-- A slot at the start of a task (R15, R36, R265). What an earlier task of the slot left in flight goes on, and XSAVE
is kept (R38). With no instruction executed yet, a FETCHB reports the entry's own offset (DESIGN CHOICE, assumption 87). -/
def TaskDesc.slot (d : TaskDesc) (k : Nat) (base bound : Word) (ready : Nat) (old : Slot) : Slot :=
  let sl : Slot := { slotDefault k with
    occupied := true, pc := d.entry, lastPc := d.entry, cbase := base, cbound := bound,
    regs := ((List.range 4).map (fun i => (i + 8, { val := d.args.getD i 0 : Reg }))).filter (fun e => e.2.val != 0),
    tilec := (0 : BitVec 16) ++ d.ctrl.extractLsb' 16 16 ++ d.tile,
    ctrl := d.ctrl, jaddr := d.jaddr, ready := ready, accs := old.accs, xsave := old.xsave }
  (List.range d.handles.length).foldl (fun sl i => sl.setHandle i (d.handles.getD i 0)) sl

/-! ## The spill area (R269) -/

/-- Who translates for the spill area of a core. -/
def Launch.spiller (l : Launch) (core : Nat) : Translator :=
  { die := dieOfCore core, world := l.world, pasid := l.pasid, user := .poisoning (2 ^ 40 + core) }

/-- Write a descriptor to its place in a core's spill area; one that does not translate stays with the device alone. -/
def State.spillOne (s : State) (core i : Nat) (d : TaskDesc) : Spilled × State :=
  let die := dieOfCore core
  match s.launchOn die with
  | none => ({ desc := d, va := none }, s)
  | some l =>
    let va := (l.spill.toNat + (288 * l.dies.idxOf die + numberOfCore core) * 0x10000 + 64 * i) % 2 ^ 64
    match s.translate (l.spiller core) va true with
    | (.dram pa, s) => ({ desc := d, va := some va }, s.homeWrite l.world .dram pa d.bytes false)
    | (.host a, s) => ({ desc := d, va := some va }, s.homeWrite l.world .host a d.bytes false)
    | (_, _) => ({ desc := d, va := none }, s)

/-- The oldest 32 entries on chip go to the spill area, oldest first. -/
def State.spill (s : State) (core : Nat) : State :=
  let c := s.core core
  let r := (c.deque.take 32).foldl (fun (r : List Spilled × State) d =>
    let x := r.2.spillOne core (c.spilled.length + r.1.length) d
    (r.1 ++ [x.1], x.2)) ([], s)
  r.2.modCore core (fun c => { c with deque := c.deque.drop 32, spilled := c.spilled ++ r.1 })

/-- A descriptor whose bytes in memory are no longer those the device wrote: what it then holds is open, and its handle
words are stale (R128, R359). -/
def TaskDesc.spoiled (d : TaskDesc) (world draws : Nat) : TaskDesc :=
  let w := fun (i : Nat) => (Config.freeWord (draws + i)).extractLsb' 0 32
  { entry := w 0, ctrl := (w 1 &&& 0xFFFF00C0) ||| (d.ctrl &&& 0x30), tile := w 2,
    args := [w 3, w 4, w 5, w 6], jaddr := Config.freeWord (draws + 7),
    handles := d.handles.map (fun h => if handleKind h = 0 then h else spoiledWord world h) }

/-- Bring one descriptor back, translated afresh, with its handle words rechecked: none where its page is waited for. -/
def State.unspill (s : State) (core : Nat) (x : Spilled) : Option TaskDesc × State :=
  match x.va, s.launchOn (dieOfCore core) with
  | some va, some l =>
    let read := fun (s : State) (p : Place) (a : Nat) =>
      let s := s.invalidateOthers [] (lineKey p a)
      if s.homeRead p a 64 = (x.desc.bytes, false) then (some x.desc, s)
      else (some (x.desc.spoiled l.world s.draws), { s with draws := s.draws + 8 })
    match s.translate (l.spiller core) va false with
    | (.dram pa, s) => read s .dram pa
    | (.host a, s) => read s .host a
    | (.wait, s) => (none, s)
    | (.trap _ _, s) => (some (x.desc.spoiled l.world s.draws), { s with draws := s.draws + 8 })
  | _, _ => (some x.desc, s)

/-- Bring back several, or none where a page is waited for. -/
def State.unspillAll (s : State) (core : Nat) : List Spilled → Option (List TaskDesc) × State
  | [] => (some [], s)
  | x :: rest =>
    match s.unspill core x with
    | (none, s) => (none, s)
    | (some d, s) =>
      match s.unspillAll core rest with
      | (none, s) => (none, s)
      | (some ds, s) => (some (d :: ds), s)

/-- Spilled entries come back below the oldest on chip when 16 or fewer are left there. -/
def execDequeRefill (s : State) : Outcome :=
  .next (match s.subject with
    | [core] =>
      let c := s.core core
      if c.spilled.isEmpty || 16 < c.deque.length then s
      else
        let keep := c.spilled.length - 32
        match s.unspillAll core (c.spilled.drop keep) with
        | (some ds, s) => s.modCore core (fun c => { c with spilled := c.spilled.take keep, deque := ds ++ c.deque })
        | (none, s) => s.schedule (s.cycle + 1) .dequeRefill [core]
    | _ => s)

/-- An entry leaves the deque; few left on chip call for a refill. -/
def State.takeEntry (s : State) (core i : Nat) : State :=
  let s := s.modCore core (fun c => { c with deque := c.deque.eraseIdx i })
  let c := s.core core
  if c.deque.length ≤ 16 && !c.spilled.isEmpty then s.schedule s.cycle .dequeRefill [core] else s

/-! ## Starts (R268) and steals (R270) -/

/-- The lowest-numbered free slot of a core. -/
def State.freeSlot (s : State) (core : Nat) : Option Nat :=
  ((List.range 4).map (fun i => core * 4 + i)).find? (fun k => !(s.slot k).occupied && !(s.slot k).draining)

def State.freeSlots (s : State) (core : Nat) : Nat :=
  (((List.range 4).map (fun i => core * 4 + i)).filter (fun k => !(s.slot k).occupied && !(s.slot k).draining)).length

/-- Ready entries by position, oldest first. -/
def State.readyEntries (s : State) (core : Nat) : List (Nat × TaskDesc) :=
  ((s.core core).deque.mapIdx (fun i d => (i, d))).filter (fun e => s.descReady e.2)

/-- A task starts in a slot: its first instruction is fetched in the cycle ready. -/
def State.startTask (s : State) (k : Nat) (d : TaskDesc) (ready : Nat) : State :=
  match s.launchOn (dieOfCore (coreOfSlot k)) with
  | none => s
  | some l =>
    s.modSlot k (fun old => d.slot k (BitVec.ofNat 32 l.codeBase) (BitVec.ofNat 32 (l.codeBase + l.codeLen)) ready old)

/-- The lowest free slot takes the newest ready entry. What the cycle that ends has brought about starts a task in the next
one, which fetches 4 cycles later. -/
def execTaskStart (s : State) : Outcome :=
  .next (match s.subject with
    | [core] =>
      match s.freeSlot core, (s.readyEntries core).getLast? with
      | some k, some (i, d) => (s.takeEntry core i).startTask k d (s.cycle + 5)
      | _, _ => s
    | _ => s)

/-- A launch runs on a core: loaded, started, and not yet ended. -/
def State.running (s : State) (core : Nat) : Bool :=
  match s.launchOn (dieOfCore core) with
  | some l => l.started && l.ending.isNone && l.preempting.isNone && !s.deadCores.contains core
  | none => false

/-- A core that may steal: a free slot, no ready entry, and none spilled. -/
def State.wantsSteal (s : State) (core : Nat) : Bool :=
  let c := s.core core
  c.steal.isNone && c.spilled.isEmpty && s.running core
    && (match c.stealEnd with
        | some e => decide (e + 64 ≤ s.cycle)
        | none => true)
    && (s.freeSlot core).isSome && (s.readyEntries core).isEmpty

/-- Of the other cores of a core's cluster, the one with the largest READY; the lowest of equals. -/
def State.richest (s : State) (core : Nat) : Nat :=
  let cl := clusterOfCore core
  let others := ((List.range 4).map (coreOfCluster cl)).filter (fun c => c != core)
  others.foldl (fun best c => if min 255 (s.readyCount best) < min 255 (s.readyCount c) then c else best)
    (others.headD core)

/-- The cores asked, in order. -/
def State.stealOrder (s : State) (core : Nat) : List Nat :=
  ((List.range 4).filterMap (neighbour core) ++ [s.richest core]).filter (fun c => !s.deadCores.contains c)

def execStealAttempt (s : State) : Outcome :=
  .next (match s.subject with
    | [core] =>
      if s.wantsSteal core then
        (s.modCore core (fun c => { c with steal := some { candidates := s.stealOrder core, asked := s.cycle } })).schedule
          (s.cycle + 4) .stealAnswer [core]
      else s
    | _ => s)

/-- What a core gives to a thief: its oldest ready entry that is not pinned, of those that its own free slots leave
(R268, R290). -/
def State.givesUp (s : State) (core : Nat) : Option (Nat × TaskDesc) :=
  let r := s.readyEntries core
  (r.take (r.length - s.freeSlots core)).find? (fun e => !e.2.pinned)

/-- A thief with a lower core number has asked the same core in the same cycle, and is answered first (R290). -/
def State.outranked (s : State) (core : Nat) (x : Steal) : Bool :=
  s.cores.any (fun e => decide (e.1 < core)
    && e.2.steal.any (fun y => y.asked == x.asked && y.candidates.head?.isSome && y.candidates.head? == x.candidates.head?))

/-- A candidate answers. A stolen task's first instruction is fetched at most 16 cycles after the candidate was asked. -/
def execStealAnswer (s : State) : Outcome :=
  .next (match s.subject with
    | [core] =>
      match (s.core core).steal with
      | none => s
      | some x =>
        if s.outranked core x then s.schedule s.cycle .stealAnswer [core]
        else
        let found := (x.candidates.head?).bind (fun v =>
          if (s.core v).gave = some x.asked then none else (s.givesUp v).map (fun e => (v, e)))
        match found, s.freeSlot core with
        | some (v, i, d), some k =>
          let s := { (s.takeEntry v i).startTask k d (s.cycle + 1 + Config.delay s.draws % 12) with
            draws := s.draws + 1 }
          (s.modCore v (fun c => { c with gave := some x.asked })).modCore core
            (fun c => { c with steal := none, stealNone := false })
        | _, _ =>
          match x.candidates.drop 1 with
          | [] => s.modCore core (fun c => { c with steal := none, stealEnd := some s.cycle, stealNone := true })
          | rest =>
            (s.modCore core (fun c => { c with steal := some { candidates := rest, asked := s.cycle + 1 } })).schedule
              (s.cycle + 5) .stealAnswer [core]
    | _ => s)

/-! ## FORK (R266, R267) -/

/-- A join counter must lie in the world's device memory (R267, R273, R274). -/
def State.hostDelegated (s : State) (t : Translator) (va : Nat) : Bool :=
  decide (va < 2 ^ 56) && (match s.tlbFind t va with
    | some e => e.pasid.isSome
    | none => s.walk t.world va == .host)

def hgetAll (first : Nat) : Nat → Act (List DWord)
  | 0 => pure []
  | n + 1 => do
    let w ← hget (BitVec.ofNat 7 (96 + first)) .live
    let rest ← hgetAll (first + 1) n
    return w :: rest

def execFork (f : IForm) (s : State) : Outcome :=
  issue (.fork f) (do
    check (f.srcA 8).each
    let sl ← Act.me
    let vs := sl.regsFrom f.a.toNat 8
    match firstPoison f.a.toNat vs with
    | some c => Act.trap .poison (BitVec.ofNat 64 c) 0
    | none => pure ()
    let v := fun (i : Nat) => (vs.getD i {}).w
    let c := v 4
    let e := branchTarget sl.pc f.imm
    let hf := (c.extractLsb' 0 4).toNat
    let nh := (c.extractLsb' 4 2).toNat
    Act.trapIf (c.extractLsb' 8 8 != 0 || decide (16 < hf + nh) || e.ult sl.cbase || !e.ult sl.cbound) .prot
      (f.a + 4).toNat 0x170
    Act.trapIf (!c.getLsbD 7 && (v 6 != 0 || v 7 != 0)) .prot (f.a + 6).toNat 0x170
    let j : DWord := if c.getLsbD 7 then v 7 ++ v 6 else 0
    if c.getLsbD 7 then
      Act.trapIf (j.toNat % 4 != 0) .align j 4
      let t ← translateMe j.toNat true
      Act.trapIf (t.1 == .host) .prot j 0x172
    let ws ← hgetAll hf nh
    let s ← Act.state
    let core := s.core s.myCore
    let full := decide (64 ≤ core.deque.length)
    Act.trapIf (full && decide (1024 ≤ core.spilled.length)) .prot f.a.toNat 0x171
    releaseAt 3
    let d : TaskDesc := { entry := e, ctrl := c &&& 0xFFFFFFF0, tile := v 5, args := [v 0, v 1, v 2, v 3], jaddr := j,
                          handles := ws }
    Act.modify (fun s =>
      let s := if full then s.spill s.myCore else s
      s.modCore s.myCore (fun c => { c with deque := c.deque ++ [d] }))
    Act.modMe (fun sl => (List.range nh).foldl (fun sl i => sl.setHandle (hf + i) 0) sl)) s

/-! ## EXIT (R273) -/

/-- Free every mutex a slot owns (R283). -/
def mutexDefault (_ : Nat) : Mutex := {}

def State.freeMutexes (s : State) (k : Nat) : State :=
  s.modCluster (clusterOfCore (coreOfSlot k)) (fun c => { c with
    mutexes := c.mutexes.mapVals mutexDefault (fun m =>
      if m.owner = some k then { owner := none, freed := some s.cycle } else m) })

/-- Drop every live handle of a slot's handle registers, and deconfigure its rings. -/
def State.dropHandles (s : State) (k : Nat) (publish : Bool) : State :=
  let sl := s.slot k
  let s := sl.handles.foldl (fun s e =>
    if handleKind e.2 = 0 || s.stale (s.die (dieOfCore (coreOfSlot k))).wid e.2 then s else s.dropWord e.2 publish) s
  let s := s.modSlot k (fun sl => { sl with handles := [] })
  (sl.rings.map Prod.fst).foldl (fun s q => s.deconfigure k q) s

/-- The slot's task is over: what it still owes goes on landing, and the slot is then free. -/
def State.vacate (s : State) (k : Nat) : State :=
  let s := (s.leaveQueues k).freeMutexes k
  let sl := s.slot k
  (s.setSlot k { slotDefault k with draining := true, accs := sl.accs, owed := sl.owed, xsave := sl.xsave }).settleSlot k

/-- An instruction that ends its task. -/
def issueLast (i : Instr) (a : Act Unit) (s : State) : Outcome :=
  if modeLegal i s.me.xlt then
    match a s with
    | .ok (_, s') => .next ((s'.vacate s.cur).issued s.cur)
    | .error (.trap c v v2) => .next ((s.takeTrap s.cur c v v2 (wordOf i)).issued s.cur)
    | .error (.park w) => .next (s.parkSlot s.cur w)
    | .error (.wait w s') => .next ((s.unpop s').parkSlot s.cur w)
  else .next ((s.takeTrap s.cur .illegal 0 0 (wordOf i)).issued s.cur)

def execExit (f : RForm) (s : State) : Outcome :=
  issueLast (.exit f) (do
    let sl ← Act.me
    let joins := sl.ctrl.getLsbD 7
    let place ←
      if joins then do
        let s ← Act.state
        Act.trapIf (s.hostDelegated (s.translatorOf s.cur) sl.jaddr.toNat) .prot sl.jaddr 0x172
        let t ← translateMe sl.jaddr.toNat true
        pure (some t)
      else pure none
    -- a fill that is dropped in task mode publishes at world scope (R119)
    let s ← Act.state
    let fills := (sl.handles.map Prod.snd).filter (fun w => decide (1 < handleKind w))
    if sl.mode = .task && !fills.isEmpty then releaseAt ((fills.map s.dropScope).foldl max 4)
    Act.modify (fun s => s.dropHandles s.cur (decide (sl.mode = .task)))
    match place with
    | none => pure ()
    | some (p, a) => do
      let id ← Act.fresh
      let piece : Piece := { place := p, off := a, len := 4 }
      pushAcc { id := id, kind := .atomic (.op 0 0) (bytesOfWord 4 0xFFFFFFFF) [] false, ord := 2, scope := 3,
                pieces := [piece] }
      let s ← Act.state
      let d ← drawDelay
      Act.schedule (s.cycle + s.lag + State.atomCycles s.myCore s.draws piece + d) .atomicPerformed [s.cur, id]) s

/-! ## JOIN and WAITQ (R274, R276, R277) -/

/-- Read the word that a slot waits on, at its home: the slot's own earlier stores to it come first. -/
def State.readWord (s : State) (k : Nat) (p : Place) (a : Nat) : Word × State :=
  let core := coreOfSlot k
  let piece : Piece := { place := p, off := a, len := 4 }
  let x : Acc := { id := s.nextId, kind := .load, pieces := [piece] }
  let s := s.forceBefore k x
  let s := if p.cached then s.pieceHome core piece else s
  (BitVec.ofNat 32 (leNat (s.homeRead p a 4).1), s)

/-- A parked JOIN or WAITQ reads its word; the reading that recurs names the RETIRED of its instruction. -/
def execWaitWordReread (s : State) : Outcome :=
  .next (match s.subject with
    | k :: tag =>
      let sl := s.slot k
      match sl.parked.bind (fun p => p.wait.word.map (fun w => (p, w))) with
      | none => s
      | some (p, place, a) =>
        if tag.any (fun r => r != sl.retired.toNat) then s
        else
          let r := s.readWord k place a
          let s := r.2.modSlot k (fun sl => { sl with parked := some { p with last := some r.1 } })
          if tag.isEmpty then s else s.schedule (s.cycle + 256) .waitWordReread s.subject
    | [] => s)

/-- Wait for a word: it is read first, and read again while the slot is parked. s0 is the state before the instruction
took its operands. -/
def waitWord (s0 : State) (t : Place × Nat) (va : Nat) (go : Word → Bool) (limit : Word) : Act Unit := do
  let w : Wait := { xval := BitVec.ofNat 64 va, reason := 0x09, hostWake := t.1 == .host, word := some t }
  match s0.me.parked.filter (fun p => p.wait.word.isSome) with
  | none => do
    let cycles := (← Act.state).lag + (if t.1 == .host then s0.hostCycles else homeCycles s0.myCore t.2)
    let s1 : State := { s0 with draws := s0.draws + 1 }
    fun _ => .error (.wait w (s1.schedule (s0.cycle + cycles + s0.contentionFor s0.cur none) .waitWordReread
      [s0.cur, s0.me.retired.toNat]))
  | some p =>
    match p.last with
    | none => Act.park w
    | some v => if go v then pure () else boundedWait { w with xval2 := v.zeroExtend 64 } limit

def execJoin (f : RForm) (s : State) : Outcome :=
  issue (.join f) (do
    let s0 ← Act.state
    check [f.srcA 2, f.srcB]
    let a ← rdp f.a
    let lim ← rd f.b
    Act.trapIf a.poison .poison f.a.toNat 0
    Act.trapIf lim.poison .poison f.b.toNat 0
    Act.trapIf (a.w.toNat % 4 != 0) .align a.w 4
    let s ← Act.state
    Act.trapIf (s.hostDelegated (s.translatorOf s.cur) a.w.toNat) .prot a.w 0x172
    let t ← translateMe a.w.toNat false
    waitWord s0 t a.w.toNat (fun v => decide (v.toInt ≤ 0)) lim.w) s

def execWaitq (f : RForm) (s : State) : Outcome :=
  issue (.waitq f) (do
    let s0 ← Act.state
    check [f.srcA 2, f.srcB, f.srcC]
    let a ← rdp f.a
    let b ← rd f.b
    let lim ← rd f.c
    Act.trapIf a.poison .poison f.a.toNat 0
    Act.trapIf lim.poison .poison f.c.toNat 0
    Act.trapIf (a.w.toNat % 4 != 0) .align a.w 4
    let t ← translateMe a.w.toNat false
    waitWord s0 t a.w.toNat (fun v => v != b.w) lim.w) s

/-- A bounded wait reaches its limit: WAITX at the parked instruction, which stays unexecuted. A JOIN or WAITQ reports
the value it read last. -/
def execBoundedWaitExpiry (s : State) : Outcome :=
  .next (match s.subject with
    | [k, since] =>
      let sl := s.slot k
      match sl.parked with
      | none => s
      | some p =>
        -- a slot that has stopped for a save waits afresh once it is restored (R357)
        if p.since = since && p.wait.limit.isSome && !s.stopped k then
          let val2 := (p.last.map (fun v => v.zeroExtend 64)).getD p.wait.xval2
          s.takeTrap k .waitx p.wait.xval val2 (s.codeWord (dieOfCore (coreOfSlot k)) sl.pc)
        else s
    | _ => s)

/-! ## YIELD (R275) -/

/-- The other slots of a slot's core that may be ready. -/
def State.othersReady (s : State) (k : Nat) : List (Nat × DWord × Word) :=
  (((List.range 4).map (fun i => coreOfSlot k * 4 + i)).filter (fun j => j != k && s.mayIssue j)).map (fun j =>
    (j, (s.slot j).retired, (s.slot j).pc))

def execYield (f : RForm) (s : State) : Outcome :=
  issue (.yield f) (Act.modify (fun s =>
    s.modSlot s.cur (fun sl => { sl with yielded := some (s.othersReady s.cur, s.cycle + 4) }))) s

end Sys2Proof.Machine
end

