-- ==== Sys2Proof/Machine/Events.lean ====
section
/-! DEFINITION. The event unit of a cluster (R262, R263, R278 to R284): EVWT, EVSIG, EVBAR, EVLCK and EVUNL, signals on
their way, and barriers of a cluster, a die and a partition. -/

namespace Sys2Proof.Machine

/-! ## Lines (R280, R281) -/

def countDefault (_ : Nat) : BitVec 8 := 0

def Cluster.count (c : Cluster) (line : Nat) : BitVec 8 := c.lines.get countDefault line

/-- A line's count rises by one, and every waiter with KEEP 1 sees it. -/
def State.raiseLine (s : State) (cl line : Nat) : State :=
  let keepers := (s.cluster cl).keepWaiters.get queueDefault line
  let s := s.modCluster cl (fun c => { c with
    lines := c.lines.set countDefault line (if c.count line = 255 then 255 else c.count line + 1)
    keepWaiters := c.keepWaiters.set queueDefault line [] })
  keepers.foldl (fun s k => s.modSlot k (fun sl => { sl with signalled := true })) s

/-- The launch that runs on the die of a cluster. -/
def State.lidAt (s : State) (cl : Nat) : Nat := s.lidOf (cl / 72 * 288 * 4)

/-- A signal reaches its line; a message does so after every earlier one of its slot to the same cluster, and waits while
its launch is saved. -/
def execEventMessageArrives (s : State) : Outcome :=
  .next (match s.subject with
    | [id] =>
      match s.flyingEvents.find? (fun m => m.id == id) with
      | none => s
      | some m =>
        if s.flyingEvents.any (fun x => decide (x.id < id) && x.src == m.src && x.cl == m.cl && x.counted && m.counted)
        then s.schedule (s.cycle + 1) .eventMessageArrives [id]
        else if s.lidAt m.cl != m.lid && s.launchSaved m.lid then s.schedule (s.cycle + 1) .eventMessageArrives [id]
        else
          let s : State := { s with flyingEvents := s.flyingEvents.filter (fun x => x.id != id) }
          let s := if m.counted then s.countReceived m.lid else s
          if s.lidAt m.cl = m.lid then s.raiseLine m.cl m.line else s
    | _ => s)

/-- The sources of an event instruction, neither of them poisoned (R279). -/
def eventSources (f : RForm) (two : Bool) : Act (Word × Word) := do
  check (if two then [f.srcA, f.srcB] else [f.srcA])
  let a ← rd f.a
  let b ← if two then rd f.b else pure {}
  Act.trapIf a.poison .poison f.a.toNat 0
  Act.trapIf b.poison .poison f.b.toNat 0
  return (a.w, b.w)

/-- A bounded wait that keeps the slot's place in a queue. -/
def boundedWaitKeep (w : Wait) (limit : Word) : Act Unit :=
  if limit = 0 then Act.trap .waitx w.xval w.xval2 else Act.wait { w with limit := some limit }

/-- How many slots of a queue stand before a slot: all of them where it has no place. -/
def ahead (q : List Nat) (k : Nat) : Nat := (q.takeWhile (fun x => x != k)).length

def enqueue (q : List Nat) (k : Nat) : List Nat := if q.contains k then q else q ++ [k]

def waitLine (line : Nat) (limit : Word) : Wait :=
  { xval := BitVec.ofNat 64 line, xval2 := limit.zeroExtend 64, reason := 0x06 }

/-- EVWT: a consumer takes one of the count once enough of it is left by the consumers before it. -/
def execEvwt (f : RForm) (s : State) : Outcome :=
  issue (.evwt f) (do
    let (a, b) ← eventSources f true
    Act.trapIf (a &&& ~~~0x11F != 0) .prot f.a.toNat 0x185
    let line := (a.extractLsb' 0 5).toNat
    let s ← Act.state
    let cl := clusterOfCore s.myCore
    let c := s.cluster cl
    if a.getLsbD 8 then
      if c.count line = 0 && !s.me.signalled then do
        Act.modify (fun s => s.modCluster cl (fun c => { c with
          keepWaiters := c.keepWaiters.set queueDefault line (enqueue (c.keepWaiters.get queueDefault line) s.cur) }))
        boundedWaitKeep (waitLine line b) b
      else Act.modMe (fun sl => { sl with signalled := false })
    else
      let q := c.lineWaiters.get queueDefault line
      if (c.count line).toNat ≤ ahead q s.cur then do
        Act.modify (fun s => s.modCluster cl (fun c => { c with
          lineWaiters := c.lineWaiters.set queueDefault line (enqueue q s.cur) }))
        boundedWaitKeep (waitLine line b) b
      else
        Act.modify (fun s => s.modCluster cl (fun c => { c with
          lines := c.lines.set countDefault line (c.count line - 1)
          lineWaiters := c.lineWaiters.set queueDefault line (q.filter (fun x => x != s.cur)) }))) s

/-- The cycles of an event message between two clusters, without contention (R395). -/
def eventCycles (a b : Nat) : Nat :=
  4 + 2 * hops (coreOfCluster a 0) (coreOfCluster b 0) + 60 * boundaries (dieOfCluster a) (dieOfCluster b)

/-- EVSIG: the count rises at the end of the cycle, or when the message arrives. -/
def execEvsig (f : RForm) (s : State) : Outcome :=
  issue (.evsig f) (do
    let (a, b) ← eventSources f true
    Act.trapIf (a &&& ~~~0x1F != 0) .prot f.a.toNat 0x185
    let far := b.getLsbD 31
    let n := (b.extractLsb' 0 7).toNat
    Act.trapIf (if far then b.extractLsb' 7 24 != 0 || decide (71 < n) else b.extractLsb' 0 31 != 0) .prot f.b.toNat 0x185
    let s ← Act.state
    let mine := clusterOfCore s.myCore
    let cl := if far then s.myDie * 72 + n else mine
    releaseAt (if cl = mine then 2 else 3)
    let id ← Act.fresh
    let lid := s.lidOf s.cur
    let counted := cl != mine
    let m : FlyingEvent := { id := id, cl := cl, line := (a.extractLsb' 0 5).toNat, src := s.cur, lid := lid,
                             counted := counted }
    Act.modify (fun s => { s with flyingEvents := s.flyingEvents ++ [m] })
    if counted then
      let _ ← Act.draw
      Act.modify (fun s => s.countSent lid)
      Act.schedule (s.cycle + eventCycles mine cl + s.contentionFor s.cur none) .eventMessageArrives [id]
    else Act.schedule s.cycle .eventMessageArrives [id]) s

/-! ## Barriers (R282) -/

def Cluster.barrier (c : Cluster) (n : Nat) : Barrier := c.barriers.get barrierDefault n

def State.modBarrier (s : State) (cl n : Nat) (f : Barrier → Barrier) : State :=
  s.modCluster cl (fun c => { c with barriers := c.barriers.set barrierDefault n (f (c.barrier n)) })

/-- The members of a barrier leave in the next cycle, or trap with a code, and the barrier is empty. -/
def State.releaseBarrier (s : State) (cl n : Nat) (code : Byte) : State :=
  let members := (s.cluster cl).barrier n |>.arrived
  let s := s.modBarrier cl n (fun _ => {})
  members.foldl (fun s k => s.modSlot k (fun sl => { sl with depart := some code })) s

/-- A message of a chained barrier has come to the die of a cluster: it acts there if its launch runs there, waits while
that is saved, and else is gone. -/
def State.barrierMessageAt (s : State) (i : Instr) (cl lid : Nat) (act : State → State) : State :=
  if s.lidAt cl = lid then act s
  else if s.launchSaved lid then s.schedule (s.cycle + 1) i s.subject
  else s

/-- A barrier is complete; at a chained barrier the completion has come down as an event message. -/
def execBarrierDeparture (s : State) : Outcome :=
  .next (match s.subject with
    | [cl, n] => s.releaseBarrier cl n 0
    | [cl, n, lid] => s.barrierMessageAt .barrierDeparture cl lid (fun s =>
      let s := s.countReceived lid
      if ((s.cluster cl).barrier n).sent then s.releaseBarrier cl n 0 else s)
    | _ => s)

/-- A message between the levels of a chained barrier: sent now, and arriving after some cycles at least. Where the
barriers of a die and of a partition stand is open, and with it the rest of the time up to them (DESIGN CHOICE,
assumption 86). -/
def State.barrierMessage (s : State) (i : Instr) (cycles : Nat) (subject : List Nat) (lid : Nat) : State :=
  let s := s.countSent lid
  ({ s with draws := s.draws + 1 } : State).schedule (s.cycle + cycles) i (subject ++ [lid])

/-- The cluster whose arrival was the last at a die barrier. -/
def State.lastArrival (s : State) (die n : Nat) : Nat :=
  ((s.die die).barriers.get dieBarrierDefault n).arrived.getLast?.getD (die * 72)

/-- A die barrier is complete, by an arrival from a cluster: every cluster that arrived hears of it (R395). -/
def State.releaseDie (s : State) (src die n lid : Nat) : State :=
  let db := (s.die die).barriers.get dieBarrierDefault n
  let s := s.modDie die (fun d => { d with barriers := d.barriers.set dieBarrierDefault n {} })
  db.arrived.foldl (fun s cl =>
    s.barrierMessage .barrierDeparture (eventCycles src cl + s.contentionFor (coreOfCluster src 0 * 4) none) [cl, n] lid) s

/-- An arrival reaches a die barrier (level 0, from a cluster) or a world barrier (level 1, from a die). -/
def execDieBarrierArrival (s : State) : Outcome :=
  .next (match s.subject with
    | [0, cl, n, lid] => s.barrierMessageAt .dieBarrierArrival cl lid (fun s =>
      let s := s.countReceived lid
      let die := dieOfCluster cl
      let b := (s.cluster cl).barrier n
      match b.first with
      | none => s
      | some (a, _) =>
        if !b.sent then s
        else
          let count := (a.extractLsb' 16 7).toNat
          let db := (s.die die).barriers.get dieBarrierDefault n
          if db.cl.any (fun c => c != count) then s.releaseBarrier cl n 0x82
          else
            let db : DieBarrier := { arrived := db.arrived ++ [cl], cl := some count,
                                     world := if db.cl.isNone then a.getLsbD 4 else db.world, sent := db.sent }
            let s := s.modDie die (fun d => { d with barriers := d.barriers.set dieBarrierDefault n db })
            if db.arrived.length < count then s
            else if db.world then
              (s.modDie die (fun d => { d with
                barriers := d.barriers.set dieBarrierDefault n { db with sent := true } })).barrierMessage
                .dieBarrierArrival (4 + Config.delay s.draws) [1, die, n] lid
            else s.releaseDie cl die n lid)
    | [1, die, n, lid] => s.barrierMessageAt .dieBarrierArrival (die * 72) lid (fun s =>
      let s := s.countReceived lid
      match s.launches.find lid with
      | none => s
      | some l =>
        if !((s.die die).barriers.get dieBarrierDefault n).sent then s
        else
          let arrived := enqueue (l.barriers.get queueDefault n) die
          if l.dies.all arrived.contains then
            let s := s.modLaunch lid (fun l => { l with barriers := l.barriers.set queueDefault n [] })
            let src := s.lastArrival die n
            l.dies.foldl (fun s d => s.releaseDie src d n lid) s
          else s.modLaunch lid (fun l => { l with barriers := l.barriers.set queueDefault n arrived }))
    | _ => s)

/-- The number of members that a set of 16 bits names. -/
def memberCount (b : Word) : Nat := ((List.range 16).filter (fun i => b.getLsbD i)).length

/-- The release scope of an EVBAR (R263, R284). -/
def barrierScope (a : Word) : Nat := if a.getLsbD 4 then 4 else if a.getLsbD 3 then 3 else 2

/-- The arrival of an EVBAR: it is recorded, and the last one completes the cluster's barrier. -/
def arrive (f : RForm) : Act Unit := do
  let (a, b) ← eventSources f true
  Act.trapIf (a &&& ~~~0x7F001F != 0) .prot f.a.toNat 0x185
  Act.trapIf (b.extractLsb' 16 16 != 0) .prot f.b.toNat 0x185
  let s ← Act.state
  let cl := clusterOfCore s.myCore
  let n := (a.extractLsb' 0 3).toNat
  let bar := (s.cluster cl).barrier n
  Act.trapIf (!b.getLsbD (4 * coreInCluster s.myCore + slotNumber s.cur)) .prot f.b.toNat 0x181
  Act.trapIf (bar.first.any (fun x => x != (a, b))) .prot f.a.toNat 0x180
  let count := (a.extractLsb' 16 7).toNat
  Act.trapIf ((a.getLsbD 3 && (count == 0 || decide (72 < count))) || (a.getLsbD 4 && !a.getLsbD 3)) .prot f.a.toNat
    0x182
  releaseAt (barrierScope a)
  let lid := s.lidOf s.cur
  let arrived := bar.arrived ++ [s.cur]
  let complete := decide (memberCount b ≤ arrived.length)
  Act.modify (fun s =>
    let s := s.modSlot s.cur (fun sl => { sl with arrived := some n })
    let s := s.modBarrier cl n (fun _ =>
      { arrived := arrived, first := some (a, b), sent := complete && a.getLsbD 3 })
    if !complete then s
    else if a.getLsbD 3 then s.barrierMessage .dieBarrierArrival (4 + Config.delay s.draws) [0, cl, n] lid
    else s.schedule s.cycle .barrierDeparture [cl, n])

def waitBarrier (code : Code) : Wait := { xval := code.toNat, reason := 0x07 }

/-- EVBAR: an arrival, then a departure with no limit of cycles. The words of its operands are taken as it departs. -/
def execEvbar (f : RForm) (s : State) : Outcome :=
  issue (.evbar f) (do
    let sl ← Act.me
    match sl.arrived, sl.depart with
    | none, _ => do
      arrive f
      Act.wait (waitBarrier f.a)
    | some _, none => Act.park (waitBarrier f.a)
    | some _, some code =>
      if code = 0 then do
        let _ ← eventSources f true
        Act.modMe (fun sl => { sl with arrived := none, depart := none })
      else Act.trap .prot f.a.toNat (0x100 + code.zeroExtend 64)) s

/-! ## Mutexes (R283) -/

def Cluster.mutex (c : Cluster) (n : Nat) : Mutex := c.mutexes.get mutexDefault n

def State.setMutex (s : State) (cl n : Nat) (m : Mutex) : State :=
  s.modCluster cl (fun c => { c with mutexes := c.mutexes.set mutexDefault n m })

def execEvlck (f : RForm) (s : State) : Outcome :=
  issue (.evlck f) (do
    let (a, b) ← eventSources f true
    Act.trapIf (a &&& ~~~0x7 != 0) .prot f.a.toNat 0x185
    let n := (a.extractLsb' 0 3).toNat
    let s ← Act.state
    let cl := clusterOfCore s.myCore
    let m := (s.cluster cl).mutex n
    let q := (s.cluster cl).mutexWaiters.get queueDefault n
    Act.trapIf (m.owner == some s.cur) .prot f.a.toNat 0x184
    if m.owner.isNone && m.freed != some s.cycle && ahead q s.cur == 0 then
      Act.modify (fun s =>
        (s.setMutex cl n { owner := some s.cur, freed := none }).modCluster cl (fun c => { c with
          mutexWaiters := c.mutexWaiters.set queueDefault n (q.filter (fun x => x != s.cur)) }))
    else do
      Act.modify (fun s => s.modCluster cl (fun c => { c with
        mutexWaiters := c.mutexWaiters.set queueDefault n (enqueue q s.cur) }))
      boundedWaitKeep { xval := BitVec.ofNat 64 (0x20 + n), xval2 := b.zeroExtend 64, reason := 0x08 } b) s

def execEvunl (f : RForm) (s : State) : Outcome :=
  issue (.evunl f) (do
    let (a, _) ← eventSources f false
    Act.trapIf (a &&& ~~~0x7 != 0) .prot f.a.toNat 0x185
    let n := (a.extractLsb' 0 3).toNat
    let s ← Act.state
    let cl := clusterOfCore s.myCore
    Act.trapIf (((s.cluster cl).mutex n).owner != some s.cur) .prot f.a.toNat 0x183
    releaseAt 2
    Act.modify (fun s => s.setMutex cl n { owner := none, freed := some s.cycle })) s

end Sys2Proof.Machine
end

