-- ==== Sys2Proof/Machine/Transcendental.lean ====
section
/-! DEFINITION. 1/√a, 2^a, log₂ a and tanh a as exact results that round correctly in every mode (R181, R182). Each is
enclosed between two multiples of 2^−640 by series with a known error; the enclosure is then cut to a magnitude with a
sticky bit. Where the enclosure leaves the cut open, a free value settles it. -/

namespace Sys2Proof.Machine

/-- The fraction bits of the working precision. -/
def workBits : Nat := 640
/-- The bits dropped from an enclosure. -/
def guardBits : Nat := 64
/-- More than the error of any series here, in units of the last place. -/
def seriesError : Nat := 4096

def workOne : Nat := 2 ^ workBits

/-- A magnitude in [lo, hi] · 2^e, strictly between representable cuts, as an exact result. -/
def enclosed (neg : Bool) (lo hi : Nat) (e : Int) : Exact :=
  let a := lo / 2 ^ guardBits
  let b := hi / 2 ^ guardBits
  .fin neg (if a = b || Config.hardRounding lo then a else b) (e + guardBits) true

/-! ## 1 / √a -/

def rsqrtExact (a : FVal) : Exact :=
  match a with
  | .nan s => .nan s
  | .inf n => if n then .nan true else .fin false 0 0 false
  | .fin n m e =>
    if m = 0 then .divZero n
    else if n then .nan true
    else
      let odd := decide (e % 2 ≠ 0)
      let m' := if odd then 2 * m else m
      let e' := if odd then e - 1 else e
      let k := 128 + Nat.log2 m'
      let q := natSqrt (2 ^ (2 * k) / m')
      .fin false q (-(k : Int) - e' / 2) (decide (q * q * m' ≠ 2 ^ (2 * k)))

/-! ## Series in fixed point -/

/-- 2 · Σ z^(2i+1) / (2i+1), the logarithm of (1+z)/(1−z), for z in units of 2^−640: zp is z^(2i+1). -/
def logSeries (zz : Nat) : Nat → Nat → Nat → Nat
  | 0, _, _ => 0
  | n + 1, zp, i => 2 * (zp / (2 * i + 1)) + logSeries zz n (zp * zz / workOne) (i + 1)

/-- ln((1+z)/(1−z)) from below, for z = num/den at most 1/3. -/
def logRatio (num den : Nat) : Nat :=
  let z := num * workOne / den
  logSeries (z * z / workOne) 230 z 0

/-- ln 2, from below. -/
def lnTwo : Nat := logRatio 1 3

/-- Σ t^k / k!, from below, for t below 1: term is t^k / k!. -/
def expSeries (t : Nat) : Nat → Nat → Nat → Nat
  | 0, _, _ => 0
  | n + 1, term, k => term + expSeries t n (term * t / workOne / (k + 1)) (k + 1)

/-- Bounds of 2^f for a fraction f in units of 2^−640, in [1, 2). -/
def exp2Fraction (f : Nat) : Nat × Nat :=
  let lo := expSeries (f * lnTwo / workOne) 180 workOne 0
  (max workOne lo, min (lo + seriesError) (2 * workOne - 1))

/-! ## 2^a -/

/-- An integer held within ± 5000: further out every format overflows or underflows alike. -/
def clampExp (n : Int) : Int := max (-5000) (min n 5000)

/-- The floor of m · 2^e, and the fraction above it in units of 2^−640 from below, with whether that is exact. -/
def splitFixed (neg : Bool) (m : Nat) (e : Int) : Int × Nat × Bool :=
  if 0 ≤ e then (if neg then -(m * 2 ^ (min e 5000).toNat : Nat) else (m * 2 ^ (min e 5000).toNat : Nat), 0, true)
  else
    let k := (-e).toNat
    let v : Int := if neg then -(m : Int) else m
    let n := v / 2 ^ k
    let r := (v - n * 2 ^ k).toNat
    (n, r * workOne / 2 ^ k, decide (r = 0))

def exp2Exact (a : FVal) : Exact :=
  match a with
  | .nan s => .nan s
  | .inf n => if n then .fin false 0 0 false else .inf false
  | .fin n m e =>
    let x := splitFixed n m e
    if x.2.2 then .fin false 1 (clampExp x.1) false
    else
      let b := exp2Fraction x.2.1
      enclosed false b.1 b.2 (clampExp x.1 - workBits)

/-! ## log₂ a -/

def log2Exact (a : FVal) : Exact :=
  match a with
  | .nan s => .nan s
  | .inf n => if n then .nan true else .inf false
  | .fin n m e =>
    if m = 0 then .divZero true
    else if n then .nan true
    else
      let top := Nat.log2 m
      let k : Int := e + top
      if m = 2 ^ top then .fin (decide (k < 0)) k.natAbs 0 false
      else
        -- a = 2^k · y with y = m / 2^top in (1, 2), and z = (y − 1)/(y + 1)
        let ln := logRatio (m - 2 ^ top) (m + 2 ^ top)
        let lo : Int := k * workOne + (ln * workOne / (lnTwo + seriesError) : Nat)
        let hi : Int := k * workOne + ((ln + seriesError) * workOne / lnTwo + 1 : Nat)
        if 0 ≤ lo then enclosed false lo.toNat hi.toNat (-(workBits : Int))
        else enclosed true (-hi).toNat (-lo).toNat (-(workBits : Int))

/-! ## tanh a -/

/-- Bounds of 2^−u for u in units of 2^−640. -/
def exp2Neg (u : Nat) : Nat × Nat :=
  let n := u / workOne
  let f := u % workOne
  if f = 0 then (workOne / 2 ^ n, workOne / 2 ^ n + 1)
  else
    let b := exp2Fraction (workOne - f)
    (b.1 / 2 ^ (n + 1), b.2 / 2 ^ (n + 1) + 1)

def tanhExact (a : FVal) : Exact :=
  match a with
  | .nan s => .nan s
  | .inf n => .fin n 1 0 false
  | .fin n m e =>
    if m = 0 then .fin n 0 0 false
    else
      let top : Int := e + Nat.log2 m
      if top < -150 then .fin n (m * 2 ^ 200 - 1) (e - 200) true
      else if 9 < top then .fin n (2 ^ 200 - 1) (-200) true
      else
        -- u = 2 a / ln 2, and tanh a = (1 − 2^−u) / (1 + 2^−u)
        let x2 := if 0 ≤ e then m * 2 ^ e.toNat * 2 * workOne else m * 2 * workOne / 2 ^ (-e).toNat
        let ulo := x2 * workOne / (lnTwo + seriesError)
        let uhi := (x2 + 1) * workOne / lnTwo + 1
        let small := exp2Neg uhi
        let large := exp2Neg ulo
        let lo := (workOne - large.2) * workOne / (workOne + large.2)
        let hi := min ((workOne - small.1) * workOne / (workOne + small.1) + 1) (workOne - 1)
        enclosed n lo hi (-(workBits : Int))

end Sys2Proof.Machine
end

