-- ==== Sys2Proof/Machine/Activation.lean ====
section
/-! DEFINITION. The functions of TACT and TSMX on f32 values, as exact results that round correctly (R214, R215). They
are enclosed like those of Transcendental.lean: a bound is a pair of numbers in units of 2^−640. -/

namespace Sys2Proof.Machine

/-- A result nearer to zero than half the least f32 subnormal, and not zero. -/
def tinyExact (neg : Bool) : Exact := .fin neg (2 ^ 200) (-5000) true
/-- A result larger than every f32 number. -/
def hugeExact : Exact := .fin false (2 ^ 200) 5000 true
/-- A result just below (−1)^neg · m · 2^e. -/
def justBelow (neg : Bool) (m : Nat) (e : Int) : Exact := .fin neg (m * 2 ^ 200 - 1) (e - 200) true

/-- A magnitude in units of 2^−640, from below; exact where e is at least −640. -/
def toFixed (m : Nat) (e : Int) : Nat :=
  if -(workBits : Int) ≤ e then m * 2 ^ (e + workBits).toNat else m / 2 ^ (-(e + workBits)).toNat

/-- The magnitude exceeds an integer bound. -/
def exceeds (m : Nat) (e : Int) (bound : Nat) : Bool :=
  if 0 ≤ e then decide (bound < m * 2 ^ (min e 300).toNat) else decide (bound * 2 ^ (min (-e) 2000).toNat < m)

/-- Bounds of a / ln 2. -/
def overLnTwo (a : Nat × Nat) : Nat × Nat :=
  (a.1 * workOne / (lnTwo + seriesError), a.2 * workOne / lnTwo + 1)

/-- Bounds of e^−a for a in bounds. -/
def expNeg (a : Nat × Nat) : Nat × Nat :=
  let u := overLnTwo a
  ((exp2Neg u.2).1, (exp2Neg u.1).2)

/-- Bounds of 2^u, for u in units of 2^−640. -/
def exp2Pos (u : Nat) : Nat × Nat :=
  let n := u / workOne
  let b := exp2Fraction (u % workOne)
  (b.1 * 2 ^ n, b.2 * 2 ^ n)

/-- e^x. -/
def expExact (a : FVal) : Exact :=
  match a with
  | .nan s => .nan s
  | .inf n => if n then .fin false 0 0 false else .inf false
  | .fin n m e =>
    if m = 0 then .fin false 1 0 false
    else if exceeds m e 200 then (if n then tinyExact false else hugeExact)
    else
      let x := toFixed m e
      if n then
        let b := expNeg (x, x + 1)
        enclosed false b.1 b.2 (-(workBits : Int))
      else
        let u := overLnTwo (x, x + 1)
        enclosed false (exp2Pos u.1).1 (exp2Pos u.2).2 (-(workBits : Int))

/-- Bounds of 1 / (1 + e^−w) for w of a sign and a magnitude in bounds. It stays below 1, so its upper bound does: every
cut between that bound and 1 is the same. -/
def sigmoidBounds (neg : Bool) (w : Nat × Nat) : Nat × Nat :=
  let b := expNeg w
  if neg then (b.1 * workOne / (workOne + b.1), b.2 * workOne / (workOne + b.2) + 1)
  else (workOne * workOne / (workOne + b.2), min (workOne * workOne / (workOne + b.1) + 1) (workOne - 1))

/-- 1 / (1 + e^−x). -/
def sigmExact (a : FVal) : Exact :=
  match a with
  | .nan s => .nan s
  | .inf n => .fin false (if n then 0 else 1) 0 false
  | .fin n m e =>
    if m = 0 then .fin false 1 (-1) false
    else if exceeds m e 200 then (if n then tinyExact false else justBelow false 1 0)
    else
      let x := toFixed m e
      let b := sigmoidBounds n (x, x + 1)
      enclosed false b.1 b.2 (-(workBits : Int))

/-- x / (1 + e^−x). A zero keeps its sign. -/
def siluExact (a : FVal) : Exact :=
  match a with
  | .nan s => .nan s
  | .inf n => if n then .fin true 0 0 false else .inf false
  | .fin n m e =>
    if m = 0 then .fin n 0 e false
    else if exceeds m e 200 then (if n then tinyExact true else justBelow false m e)
    else
      let x := toFixed m e
      let b := sigmoidBounds n (x, x + 1)
      enclosed n (m * b.1) (m * b.2) (e - workBits)

/-! ## π and gelu -/

/-- arctan(1/q) by its series, in units of 2^−640: the terms alternate. -/
def arctanSeries (qq : Nat) : Nat → Nat → Nat → Int
  | 0, _, _ => 0
  | n + 1, p, i => (p / (2 * i + 1) : Nat) - arctanSeries qq n (p / qq) (i + 1)

def arctanInv (q : Nat) : Int := arctanSeries (q * q) 300 (workOne / q) 0

/-- π, within the error of the series (Machin's formula). -/
def piFixed : Nat := (16 * arctanInv 5 - 4 * arctanInv 239).toNat

/-- Bounds of 2 · √(2/π). -/
def geluScale : Nat × Nat :=
  -- 8/π = (2 √(2/π))²
  let lo := 8 * workOne * workOne / (piFixed + 65536)
  let hi := 8 * workOne * workOne / (piFixed - 65536) + 1
  (natSqrt (lo * workOne), natSqrt (hi * workOne) + 1)

/-- 0.5 · x · (1 + tanh(√(2/π) · (x + 0.044715 · x³))) = x / (1 + e^−w), with w twice the argument of tanh. -/
def geluExact (a : FVal) : Exact :=
  match a with
  | .nan s => .nan s
  | .inf n => if n then .fin true 0 0 false else .inf false
  | .fin n m e =>
    if m = 0 then .fin n 0 e false
    else if exceeds m e 20 then (if n then tinyExact true else justBelow false m e)
    else
      let x := toFixed m e
      let cube := toFixed (m * m * m) (3 * e)
      let p := x + cube * 44715 / 1000000
      let w := (p * geluScale.1 / workOne, (p + 3) * geluScale.2 / workOne + 1)
      let b := sigmoidBounds n w
      enclosed n (m * b.1) (m * b.2) (e - workBits)

/-- max(x, 0), with +0 for every x not above zero. -/
def reluExact (a : FVal) : Exact :=
  match a with
  | .nan s => .nan s
  | .inf n => if n then .fin false 0 0 false else .inf false
  | .fin n m e => if n then .fin false 0 0 false else .fin false m e false

/-! ## Softmax (R215) -/

/-- The difference of two finite values in units of 2^−640, at most 1000. -/
def cappedDiff (big small : FVal) : Nat :=
  match big, small with
  | .fin n1 m1 e1, .fin n2 m2 e2 =>
    let lo := min e1 e2
    let d := (scaled n1 m1 e1 lo - scaled n2 m2 e2 lo).toNat
    if exceeds d lo 1000 then 1000 * workOne else toFixed d lo
  | _, _ => 1000 * workOne

/-- The greatest of values that are no NaNs. -/
def maxVal : List FVal → FVal
  | [] => .inf true
  | x :: xs => xs.foldl (fun b y => if b.less y then y else b) x

/-- Bounds of e over a sum of exponentials, both in bounds. The greatest element, whose e is exactly 1, stays below the
quotient by the sum's lower bound: the sum holds a term more. -/
def shareBounds (e : Nat × Nat) (lo hi : Nat) : Nat × Nat :=
  (e.1 * workOne / hi, if e.1 = workOne then (workOne * workOne - 1) / lo else e.2 * workOne / lo + 1)

/-- e^x over the sum of e^x, for the active elements of a row. -/
def softmaxExact (xs : List FVal) : List Exact :=
  if xs.any FVal.isNaN then
    let s := xs.any FVal.isSignalling
    xs.map (fun _ => .nan s)
  else
    let top := maxVal xs
    match top with
    | .inf false =>
      let c := (xs.filter (fun x => x == FVal.inf false)).length
      xs.map (fun x => if x == FVal.inf false then divExact (.fin false 1 0) (.fin false c 0) else .fin false 0 0 false)
    | .inf true => xs.map (fun _ => .nan true)
    | top =>
      let live := xs.filter (fun x => x != FVal.inf true)
      if live.all (fun x => x.same top) then
        xs.map (fun x => if x == FVal.inf true then .fin false 0 0 false
          else divExact (.fin false 1 0) (.fin false live.length 0))
      else
        let es := xs.map (fun x =>
          if x == FVal.inf true then (0, 0)
          else
            let d := cappedDiff top x
            if d = 0 then (workOne, workOne) else expNeg (d, d + 1))
        let lo := es.foldl (fun (a : Nat) b => a + b.1) 0
        let hi := es.foldl (fun (a : Nat) b => a + b.2) 0
        (xs.zip es).map (fun p =>
          if p.1 == FVal.inf true then .fin false 0 0 false
          else if 150 * workOne < cappedDiff top p.1 then tinyExact false
          else enclosed false (shareBounds p.2 lo hi).1 (shareBounds p.2 lo hi).2 (-(workBits : Int)))

end Sys2Proof.Machine
end

