-- ==== Sys2Proof/Machine/Px8.lean ====
section
/-! DEFINITION. PX8 blocks (R156 to R161): 32 elements in 32 bytes. A block is a number of 256 bits, its first byte
lowest. -/

namespace Sys2Proof.Machine

/-- Events of a conversion (R163): the elements that count in MXC0 to MXC3. -/
structure Events where
  nan : Bool := false
  sat : Bool := false
  flushed : Bool := false
  inexact : Bool := false
  deriving DecidableEq, Repr

def Events.or (a b : Events) : Events :=
  { nan := a.nan || b.nan, sat := a.sat || b.sat, flushed := a.flushed || b.flushed, inexact := a.inexact || b.inexact }

/-! ## Tokens (R157, R158) -/

/-- A token: the exponent offset, none for Z, and the bits it takes. -/
structure Token where
  d : Option Nat
  len : Nat
  deriving DecidableEq, Repr

/-- Stream bit p of a block. -/
def streamBit (block p : Nat) : Nat := if p < 120 then block / 2 ^ (136 + p) % 2 else 0

/-- n stream bits from p, the lowest position as the highest bit. -/
def streamBits (block p : Nat) : Nat → Nat
  | 0 => 0
  | n + 1 => streamBit block p * 2 ^ n + streamBits block (p + 1) n

/-- A long code: a prefix, then four bits that count from an offset, up to 15; beyond it Z. -/
def longToken (block p prefixLen base : Nat) : Token :=
  let d := base + streamBits block (p + prefixLen) 4
  { d := if d ≤ 15 then some d else none, len := prefixLen + 4 }

def shortToken (d : Nat) (len : Nat) : Token := { d := some d, len := len }
def zeroToken (len : Nat) : Token := { d := none, len := len }

/-- The token at a stream position (R158). -/
def readToken (sel block p : Nat) : Token :=
  let three := streamBits block p 3
  match sel with
  | 0 =>
    if three < 4 then shortToken 0 1
    else if three < 6 then shortToken 1 2
    else if three = 6 then shortToken 2 3
    else if streamBit block (p + 3) = 0 then zeroToken 4
    else longToken block p 4 3
  | 1 =>
    if three < 2 then shortToken 0 2
    else if three < 4 then shortToken 1 2
    else if three = 4 then shortToken 2 3
    else if three = 5 then shortToken 3 3
    else if three = 6 then zeroToken 3
    else longToken block p 3 4
  | 2 =>
    if three < 2 then zeroToken 2
    else if three = 2 then shortToken 0 3
    else if three = 3 then shortToken 1 3
    else if three < 6 then shortToken (2 + streamBits block (p + 2) 2) 4
    else longToken block p 2 6
  | _ => if three = 7 then zeroToken 3 else shortToken three 3

/-- The exponent offsets of the elements from i on, their tokens beginning at p; an element whose token would run past
position 119 is Z, and so is every later one (R159). -/
def readTokens (sel block p : Nat) : Nat → List (Option Nat)
  | 0 => []
  | n + 1 =>
    let t := readToken sel block p
    if 120 < p + t.len then List.replicate (n + 1) none
    else t.d :: readTokens sel block (p + t.len) n

/-- The 32 values of a block (R159). -/
def px8Decode (block : Nat) : List FVal :=
  let e0 : Nat := block / 2 ^ 128 % 64
  let sel : Nat := block / 2 ^ 134 % 4
  (readTokens sel block 0 32).mapIdx (fun i d =>
    match d with
    | none => .fin false 0 0
    | some d =>
      let nib : Nat := block / 2 ^ (4 * i) % 16
      .fin (decide (8 ≤ nib)) (8 + nib % 8) ((e0 : Int) - 31 - d - 3))

/-! ## Encoding (R160) -/

/-- An element on its way into a block: its sign, exponent and fraction, none where it is Z. -/
structure PxElem where
  val : Option (Bool × Int × Nat)
  flags : FlagBits := 0
  events : Events := {}
  deriving DecidableEq, Repr

/-- A value rounded to four significant bits with unbounded exponent. -/
def pxRound (rnd : Nat) (x : Exact) : PxElem :=
  match x with
  | .nan _ => { val := none, flags := flagNV }
  | .inf neg => { val := some (neg, 33, 0) }
  | .divZero neg => { val := some (neg, 33, 0) }
  | .fin neg m e sticky =>
    if m = 0 then { val := none }
    else
      let top : Int := e + (Nat.log2 m : Int)
      let r := roundTo rnd neg m e (top - 3) sticky
      let fl := if r.2 then flagNX else 0
      let v := if r.1 < 16 then (neg, top, r.1 - 8) else (neg, top + 1, 0)
      { val := some v, flags := fl, events := { inexact := r.2 } }

def Exact.isFinite : Exact → Bool
  | .fin _ _ _ _ => true
  | _ => false

/-- Too large an exponent becomes the largest magnitude. -/
def pxClamp (x : Exact) (p : PxElem) : PxElem :=
  match p.val with
  | some (neg, e, _) =>
    if 63 < e + 31 then
      { val := some (neg, 32, 7), flags := flagOF ||| (if x.isFinite then flagNX else 0),
        events := { sat := true, inexact := x.isFinite } }
    else p
  | none => p

/-- An element that is flushed. -/
def pxFlush (p : PxElem) : PxElem :=
  { val := none, flags := p.flags ||| flagUF ||| flagNX, events := p.events.or { flushed := true, inexact := true } }

/-- The base exponent. -/
def pxBase (ps : List PxElem) : Int :=
  ps.foldl (fun a p => match p.val with
    | some (_, e, _) => max a (e + 31)
    | none => a) 0

/-- The offset of an element under a base exponent. -/
def pxOffset (e0 : Int) (p : PxElem) : Option Nat := p.val.map (fun v => (e0 - (v.2.1 + 31)).toNat)

/-- Flush the elements that the base exponent leaves out of reach, or whose offset passes a limit. -/
def pxReach (e0 : Int) (limit : Int) (p : PxElem) : PxElem :=
  match p.val with
  | some (_, e, _) => if e + 31 < 0 ∨ limit < e0 - (e + 31) then pxFlush p else p
  | none => p

/-- The code of a token: its bits, the first read highest, and their number (R158). -/
def tokenCode (sel : Nat) (d : Option Nat) : Nat × Nat :=
  match sel, d with
  | 0, none => (14, 4)
  | 0, some 0 => (0, 1)
  | 0, some 1 => (2, 2)
  | 0, some 2 => (6, 3)
  | 0, some d => (0xF0 + (d - 3), 8)
  | 1, none => (6, 3)
  | 1, some 0 => (0, 2)
  | 1, some 1 => (1, 2)
  | 1, some 2 => (4, 3)
  | 1, some 3 => (5, 3)
  | 1, some d => (0x70 + (d - 4), 7)
  | 2, none => (0, 2)
  | 2, some 0 => (2, 3)
  | 2, some 1 => (3, 3)
  | 2, some d => if d ≤ 5 then (6 + d, 4) else (0x30 + (d - 6), 6)
  | _, none => (7, 3)
  | _, some d => (d, 3)

/-- Bits in the order read: the first at the lowest position. -/
def reverseBits (v : Nat) : Nat → Nat
  | 0 => 0
  | n + 1 => v / 2 ^ n % 2 + 2 * reverseBits v n

/-- The stream of a list of tokens, as a number with position 0 lowest, and its length. -/
def writeTokens (sel : Nat) : List (Option Nat) → Nat × Nat
  | [] => (0, 0)
  | d :: rest =>
    let c := tokenCode sel d
    let r := writeTokens sel rest
    (reverseBits c.1 c.2 + 2 ^ c.2 * r.1, c.2 + r.2)

/-- The nibbles of the elements. -/
def pxNibbles : List PxElem → Nat
  | [] => 0
  | p :: rest =>
    (match p.val with
      | some (neg, _, m) => (if neg then 8 else 0) + m
      | none => 0) + 16 * pxNibbles rest

/-- A block from 32 exact values, with each element's flags and events. -/
def px8Encode (xs : List Exact) (rnd : Nat) : Nat × List PxElem :=
  let ps := xs.map (fun x => pxClamp x (pxRound rnd x))
  let e0 := pxBase ps
  let ps := ps.map (pxReach e0 15)
  let ds := ps.map (pxOffset e0)
  let sel := if (writeTokens 0 ds).2 ≤ 120 then 0 else if (writeTokens 1 ds).2 ≤ 120 then 1
    else if (writeTokens 2 ds).2 ≤ 120 then 2 else 3
  let ps := if sel = 3 then ps.map (pxReach e0 6) else ps
  let ds := ps.map (pxOffset e0)
  (pxNibbles ps + 2 ^ 128 * e0.toNat + 2 ^ 134 * sel + 2 ^ 136 * (writeTokens sel ds).1, ps)

/-- The blocks of a row of exact values (R161): the elements past the row's end are zeros. -/
def px8Row (rnd : Nat) (xs : List Exact) : Nat → List (Nat × List PxElem)
  | 0 => []
  | n + 1 =>
    let part := xs.take 32
    let b := px8Encode (part ++ List.replicate (32 - part.length) (.fin false 0 0 false)) rnd
    (b.1, b.2.take part.length) :: px8Row rnd (xs.drop 32) n

end Sys2Proof.Machine
end

