-- ==== Sys2Proof/Machine/Elements.lean ====
section
/-! DEFINITION. Elements of views: how they are read, what they stand for, how a value is converted into a format
(R152 to R163), and how results are put together for the arena. -/

namespace Sys2Proof.Machine

/-! ## Formats -/

/-- The floating format of a format code. -/
def fmtFloat (fmt : Nat) : Option FFmt :=
  match fmt with
  | 0x0 => some f32 | 0x1 => some f64 | 0x2 => some f16 | 0x3 => some bf16 | 0x4 => some f8 | _ => none

def fmtIsInt (fmt : Nat) : Bool := decide (6 ≤ fmt) && decide (fmt ≤ 0xB)
def fmtSigned (fmt : Nat) : Bool := decide (6 ≤ fmt) && decide (fmt ≤ 8)

/-- w bits read as a signed or an unsigned number. -/
def readInt (signed : Bool) (w bits : Nat) : Int :=
  if signed && decide (2 ^ (w - 1) ≤ bits) then (bits : Int) - 2 ^ w else bits

/-- An integer's low w bits. -/
def intBits (w : Nat) (v : Int) : Nat := (v % 2 ^ w).toNat

/-- The least and the greatest integer of w bits. -/
def intMin (signed : Bool) (w : Nat) : Int := if signed then -(2 ^ (w - 1) : Int) else 0
def intMax (signed : Bool) (w : Nat) : Int := if signed then 2 ^ (w - 1) - 1 else 2 ^ w - 1

def clampInt (signed : Bool) (w : Nat) (v : Int) : Int := max (intMin signed w) (min v (intMax signed w))

/-- The value of a q4 code under the LUTs (R155). -/
def q4Value (lut : Assoc Word) (c : Nat) : Int :=
  readInt true 8 ((lut.get (fun _ => 0) (c / 4)).toNat / 2 ^ (8 * (c % 4)) % 256)

/-- The value that an element's bits stand for. A px8 element has no bits of its own. -/
def elementValue (lut : Assoc Word) (fmt bits : Nat) : FVal :=
  match fmtFloat fmt with
  | some f => f.decode bits
  | none => if fmt = fmtQ4 then intVal (q4Value lut bits) else intVal (readInt (fmtSigned fmt) (fmtBits fmt) bits)

/-! ## Conversion (R162, R163) -/

/-- An exact result rounded to an integer in a range. -/
def Exact.toInt (rnd : Nat) (lo hi : Int) : Exact → Int × FlagBits × Events
  | .nan _ => (0, flagNV, {})
  | .inf n => (if n then lo else hi, flagNV, { sat := true })
  | .divZero n => (if n then lo else hi, flagNV, { sat := true })
  | .fin n m e sticky =>
    let r := roundTo rnd n m e 0 sticky
    let v : Int := if n then -(r.1 : Int) else (r.1 : Int)
    if v < lo then (lo, flagNV, { sat := true })
    else if hi < v then (hi, flagNV, { sat := true })
    else (v, if r.2 then flagNX else 0, { inexact := r.2 })

def Exact.isNonzero : Exact → Bool
  | .fin _ m _ sticky => m != 0 || sticky
  | _ => false

/-- An exact result rounded into a floating format, with the events that count. -/
def FFmt.convert (f : FFmt) (rnd : Nat) (sat : Bool) (x : Exact) : Nat × FlagBits × Events :=
  let r := f.round rnd sat x
  let isNan := match x with
    | .nan _ => true
    | _ => false
  (r.1, r.2, { nan := isNan, sat := r.2 &&& flagOF != 0, flushed := x.isNonzero && r.1 % f.signBit == 0,
               inexact := r.2 &&& flagNX != 0 })

/-- A conversion into a floating format (R163): SAT alone chooses between the largest finite value and an infinity of a
result beyond the range, whatever the rounding mode is. -/
def FFmt.convertTo (f : FFmt) (rnd : Nat) (sat : Bool) (x : Exact) : Nat × FlagBits × Events :=
  let r := f.convert rnd sat x
  if r.2.2.sat && !sat then (f.infinity (decide (f.signBit ≤ r.1)), r.2) else r

/-- A value converted into an element of any format but px8 and q4. -/
def convertElement (fmt rnd : Nat) (sat : Bool) (x : Exact) : Nat × FlagBits × Events :=
  match fmtFloat fmt with
  | some f => f.convertTo rnd sat x
  | none =>
    let w := fmtBits fmt
    let r := x.toInt rnd (intMin (fmtSigned fmt) w) (intMax (fmtSigned fmt) w)
    (intBits w r.1, r.2)

/-! ## Reading -/

/-- An element as read: its bits, the value it stands for, and whether its sector is poisoned (R178). -/
structure Elem where
  bits : Nat := 0
  val : FVal := .fin false 0 0
  poison : Bool := false
  deriving DecidableEq, Repr

/-- A rectangle of elements somewhere in memory: a view of the arena, or a ring slot seen through one. -/
structure Grid where
  place : Place
  fmt : Nat
  rows : Nat
  cols : Nat
  /-- The offset of element (0, 0) in the place, and the bytes from row to row. -/
  base : Nat
  stride : Nat
  deriving DecidableEq, Repr

/-- A view of a slot as a grid in its core's arena. -/
def State.gridOf (s : State) (k : Nat) (v : View) : Grid :=
  { place := .arena (coreOfSlot k), fmt := v.format, rows := v.rows, cols := v.cols,
    base := (s.slot k).arenaOffset v.off.toNat, stride := v.stride.toNat }

def State.grid (s : State) (code : Code) : Grid := s.gridOf s.cur (s.me.view code)

/-- The bytes that hold element (i, j): their offset and number. -/
def Grid.bytesOf (g : Grid) (i j : Nat) : Nat × Nat :=
  ((g.base + i * g.stride) + (elementAt g.fmt j).1, (elementAt g.fmt j).2)

/-- Element (i, j) of a grid, in the memory that holds it. -/
def elemIn (m : Mem) (lut : Assoc Word) (g : Grid) (i j : Nat) : Elem :=
  let b := g.bytesOf i j
  let raw := m.word b.1 b.2
  let poison := m.poisonIn b.1 b.2
  if g.fmt = fmtPx8 then { bits := raw, val := (px8Decode raw).getD (j % 32) (.fin false 0 0), poison := poison }
  else
    let bits := if g.fmt = fmtQ4 then raw / 2 ^ (4 * (j % 2)) % 16 else raw
    { bits := bits, val := elementValue lut g.fmt bits, poison := poison }

def State.readElem (s : State) (lut : Assoc Word) (g : Grid) (i j : Nat) : Elem := elemIn (s.memAt g.place) lut g i j

/-! ## Writing -/

/-- An element to be written: where it stands, and its bits. -/
structure ElemWrite where
  i : Nat
  j : Nat
  bits : Nat
  poison : Bool
  deriving DecidableEq, Repr

/-- The byte at an offset as the writes so far have it, else as memory has it. -/
def byteOr (m : Mem) (ws : List (Nat × Byte)) (off : Nat) : Byte :=
  match ws.reverse.find? (fun e => e.1 == off) with
  | some e => e.2
  | none => m.byte off

/-- The bytes that writes put into a grid (R154 to R156): a q4 element changes only its nibble. -/
def gridWrites (m : Mem) (g : Grid) (ws : List ElemWrite) : List (Nat × Byte) :=
  ws.foldl (fun acc w =>
    let b := g.bytesOf w.i w.j
    if g.fmt = fmtQ4 then acc ++ [(b.1, setNibble (byteOr m acc b.1) (decide (w.j % 2 = 1)) w.bits)]
    else acc ++ (bytesOfWord b.2 w.bits).mapIdx (fun i v => (b.1 + i, v))) []

/-- The places whose sectors take poison. -/
def gridPoison (g : Grid) (ws : List ElemWrite) : List Nat :=
  (ws.filter (fun w => w.poison)).map (fun w => (g.bytesOf w.i w.j).1)

/-- Bytes land in a memory: each clears its own poison, then the poisoned sectors are poisoned (R85, R178). -/
def Mem.land (m : Mem) (ws : List (Nat × Byte)) (poisoned : List Nat) : Mem :=
  let m := ws.foldl (fun m w => m.write w.1 [w.2] false) m
  poisoned.foldl (fun m a => m.poisonSectors a 1) m

end Sys2Proof.Machine
end

