-- ==== Sys2Proof/Machine/Vector.lean ====
section
/-! DEFINITION. The vector unit (R170 to R190): operands, the order of checks, elementwise instructions, compares,
moves, reductions and conversions, VSET and MSET, and the landing of what they write. -/

namespace Sys2Proof

def VForm.srcA (f : VForm) (n : Nat := 1) : Machine.Src := { code := f.a, n := n, ep := Machine.bitSet f.ep 0 }
def VForm.srcB (f : VForm) (n : Nat := 1) : Machine.Src := { code := f.b, n := n, ep := Machine.bitSet f.ep 1 }
def VForm.srcC (f : VForm) (n : Nat := 1) : Machine.Src := { code := f.c, n := n, ep := Machine.bitSet f.ep 2 }

/-- The view that gives a VCMP its shape and its format: A, or B where A is a g register. -/
def VForm.lead (f : VForm) : Code := if f.a.isView then f.a else f.b

/-- VBCAST names an element of A by row and column. -/
def VForm.pickRow (f : VForm) : Nat := (f.imm.extractLsb' 6 6).toNat
def VForm.pickCol (f : VForm) : Nat := (f.imm.extractLsb' 0 6).toNat

end Sys2Proof

namespace Sys2Proof.Machine

/-! ## Masks (R35, R170) -/

def maskDefault (_ : Nat) : MaskPair := {}

/-- Mask pair n: k0 reads as all ones. -/
def Slot.mask (sl : Slot) (n : Nat) : MaskPair :=
  if n = 0 then { ky := BitVec.allOnes 64, kx := BitVec.allOnes 64 } else sl.masks.get maskDefault n

def Slot.setMask (sl : Slot) (n : Nat) (m : MaskPair) : Slot := { sl with masks := sl.masks.set maskDefault n m }

/-- The number of the mask pair a code names. -/
def maskNumber (code : Code) : Nat := code.toNat - 120

/-- Element (i, j) is active. -/
def MaskPair.active (m : MaskPair) (i j : Nat) : Bool := m.ky.getLsbD i && m.kx.getLsbD j

/-- A write of mask pair n is owed (R170). -/
def State.maskPending (s : State) (k n : Nat) : Bool :=
  s.results.any (fun r => r.slot == k && r.mask.any (fun m => m.1 == n))

/-! ## Parking (R52 step 5, R170) -/

/-- The park of a slot that waits for a unit, a pending mask, or one of its eight owed spans: it ends by itself. -/
def waitUnit (code : Code) : Wait := { xval := code.toNat }

/-- Step 5 of R52 for a vector instruction: its sources and destinations, the masks it names, the unit, and, where it
creates an owed span, room for one. -/
def vectorReady (srcs : List Src) (dests : List Dst) (masks : List Nat) (span : Bool) : Act Unit := do
  check srcs dests
  let s ← Act.state
  Act.parkIf (masks.any (s.maskPending s.cur)) (waitUnit 0)
  Act.parkIf (decide (s.cycle < (s.core s.myCore).vectorBusy)) (waitUnit 0)
  Act.parkIf (span && decide (8 ≤ s.owedCount s.cur)) (waitUnit 0)

/-! ## Operands (R172 to R174) -/

/-- A TFORMAT trap (R177). -/
def tformat {α : Type} (code : Code) (why : Nat) : Act α := Act.trap .tformat code.toNat (BitVec.ofNat 64 why)
def tformatIf (c : Bool) (code : Code) (why : Nat) : Act Unit := if c then tformat code why else pure ()

/-- Which formats an instruction accepts. -/
abbrev Accept := Nat → Bool
def acceptFloat : Accept := fun fmt => decide (fmt ≤ 3)
def acceptInt : Accept := fmtIsInt
def accept32 : Accept := fun fmt => fmt == fmtS32 || fmt == fmtB32
/-- Formats of 8 to 64 bits whose elements stand on their own. -/
def acceptPlain : Accept := fun fmt => fmt != fmtPx8 && decide (fmt < 0xC)
def acceptCodes : Accept := fun fmt => fmt != fmtPx8
def acceptAll : Accept := fun _ => true

/-- Whether two formats agree: signed and unsigned formats of a width count as equal in integer instructions. -/
def formatsAgree (integer : Bool) (x y : Nat) : Bool :=
  x == y || (integer && fmtIsInt x && fmtIsInt y && fmtBits x == fmtBits y)

/-- R176, check 1, for a source: its format, or that of the instruction for a g register. -/
def sourceFormat (code : Code) (accept : Accept) (ref : Nat) (integer : Bool) : Act Nat := do
  let sl ← Act.me
  if code.isView then
    let fmt := (sl.view code).format
    tformatIf (!accept fmt) code 0x0101
    tformatIf (!formatsAgree integer fmt ref) code 0x0102
    return fmt
  else
    tformatIf (ref == fmtF64 && code.toNat % 2 != 0) code 0x0106
    return ref

/-- How many registers a scalar source names: a pair for f64 (R173). -/
def scalarRegs (fmt : Nat) (code : Code) : Nat := if fmt = fmtF64 && code.toNat % 2 == 0 then 2 else 1

/-- R176, check 2: a source may be broadcast (R172). -/
def checkShape (code : Code) (rows cols : Nat) : Act Unit := do
  let sl ← Act.me
  let v := sl.view code
  tformatIf (code.isView && !((v.rows == rows || v.rows == 1) && (v.cols == cols || v.cols == 1))) code 0x0103

/-- A source of elements. -/
inductive VOperand where
  | grid (g : Grid)
  | scalar (e : Elem)
  deriving DecidableEq, Repr

/-- The operand that a code names, read in a format (R173). -/
def State.vOperand (s : State) (code : Code) (fmt : Nat) : VOperand :=
  if code.isView then .grid (s.grid code)
  else if fmt = fmtF64 then
    let p := s.me.pair code.toNat
    .scalar { bits := p.w.toNat, val := elementValue s.me.lut fmt p.w.toNat, poison := p.poison }
  else
    let v := (s.me.reg code.toNat).toVal
    let bits := v.w.toNat % 2 ^ fmtBits fmt
    .scalar { bits := bits, val := elementValue s.me.lut fmt bits, poison := v.poison }

/-- The element that a source gives for (i, j), broadcast where it has one row or one column. -/
def VOperand.at (x : VOperand) (s : State) (i j : Nat) : Elem :=
  match x with
  | .scalar e => e
  | .grid g => s.readElem s.me.lut g (if g.rows = 1 then 0 else i) (if g.cols = 1 then 0 else j)

/-! ## Timing and landing (R170, R171) -/

/-- n: the cycles of a shape for the widest of the formats. -/
def vectorCycles (rows cols : Nat) (fmts : List Nat) : Nat :=
  let e := fmts.foldl (fun e fmt => min e (2048 / fmtBits fmt)) 512
  max 1 ((rows * cols + e - 1) / e)

/-- The unit is busy for n cycles. -/
def State.occupy (s : State) (n : Nat) : State := s.modCore s.myCore (fun c => { c with vectorBusy := s.cycle + n })
def occupyUnit (n : Nat) : Act Unit := Act.modify (fun s => s.occupy n)

/-- A view becomes owed (R33). -/
def State.oweView (s : State) (id : Nat) (code : Code) : State :=
  let v := s.me.view code
  { s with spans := s.spans ++ [{ id := id, slot := s.cur, core := s.myCore, window := s.me.window, lo := v.lo,
                                  hi := v.hi, held := false }] }
def oweView (id : Nat) (code : Code) : Act Unit := Act.modify (fun s => s.oweView id code)

/-- A result of the current slot is on its way: it takes the next identity, and lands after some cycles. -/
def State.landLater (s : State) (r : Result) (cycles : Nat) : State :=
  let r : Result := { r with id := s.nextId, slot := s.cur, core := s.myCore }
  ({ s with results := s.results ++ [r], nextId := s.nextId + 1 } : State).schedule (s.cycle + cycles) .vectorWritesLand
    [s.cur, s.nextId]

/-- The elements of a view destination land. -/
def State.putView (s : State) (code : Code) (ws : List ElemWrite) (busy : Nat) : State :=
  let g := s.grid code
  ((s.oweView s.nextId code).occupy busy).landLater
    { writes := gridWrites (s.memAt g.place) g ws, poisoned := gridPoison g ws } (busy + 3)
def writeView (code : Code) (ws : List ElemWrite) (busy : Nat) : Act Unit :=
  Act.modify (fun s => s.putView code ws busy)

/-- Whatever a result holds lands, and its spans are owed no longer. -/
def State.landResult (s : State) (k id : Nat) : State :=
  match s.results.find? (fun r => r.id == id) with
  | none => s
  | some r =>
    let place : Place := .arena r.core
    let s := if r.writes.isEmpty && r.poisoned.isEmpty then s
      else s.setMemAt place ((s.memAt place).land r.writes r.poisoned)
    let s := s.modSlot k (fun sl =>
      let sl := r.regs.foldl (fun sl e => sl.setRegAt e.1 e.2.toReg) sl
      let sl := match r.mask with
        | some m => sl.setMask m.1 m.2
        | none => sl
      (sl.landFlags r.flags).addCounts r.counts)
    let s : State := { s with
      results := s.results.filter (fun x => x.id != id)
      spans := s.spans.filter (fun x => x.id != id || x.held) }
    s.settleSlot k

/-- Vector writes land (R170). -/
def execVectorWritesLand (s : State) : Outcome :=
  .next (match s.subject with
    | [k, id] => s.landResult k id
    | _ => s)

/-! ## Elementwise instructions (R172 to R176) -/

/-- The positions of a shape, in row-major order. -/
def positions (rows cols : Nat) : List (Nat × Nat) :=
  (List.range rows).flatMap (fun i => (List.range cols).map (fun j => (i, j)))

/-- What an elementwise instruction is: its sources in order, the formats it takes, and its result from the elements at
(i, j) of a shape with some number of columns. -/
structure VOp where
  srcs : List Src
  accept : Accept
  integer : Bool := false
  factor : Nat := 1
  /-- Writes every element, the mask choosing between the sources (VSEL). -/
  every : Bool := false
  /-- Takes no view as a source (VIDX). -/
  scalarOnly : Bool := false

/-- The flags of all elements that are not poisoned. -/
def flagsOf (rs : List (ElemWrite × FlagBits)) : FlagBits :=
  rs.foldl (fun fl r => if r.1.poison then fl else fl ||| r.2) 0

/-- The format an instruction's scalars are read in: that of the destination view. -/
def destFormat (f : VForm) : Act Nat := do
  let sl ← Act.me
  return (sl.view f.d).format

/-- Formats of all sources, in order. -/
def sourceFormats (accept : Accept) (ref : Nat) (integer : Bool) : List Src → Act (List Nat)
  | [] => pure []
  | x :: rest => do
    let fmt ← sourceFormat x.code accept ref integer
    let more ← sourceFormats accept ref integer rest
    return fmt :: more

def checkShapes (rows cols : Nat) : List Src → Act Unit
  | [] => pure ()
  | x :: rest => do
    checkShape x.code rows cols
    checkShapes rows cols rest

/-- What gives an element from the format, the rounding mode, the source elements at (i, j), and its mask bit. -/
abbrev ElemFn := Nat → Nat → List Elem → Nat → Nat → Bool → Elem × FlagBits

/-- The elements that an elementwise instruction writes, with the flags of each. -/
def State.elementRows (s : State) (f : VForm) (op : VOp) (fn : ElemFn) : List (ElemWrite × FlagBits) :=
  let v := s.me.view f.d
  let os := op.srcs.map (fun x => s.vOperand x.code v.format)
  let m := s.me.mask f.k.toNat
  let rnd := roundMode s.me f.rnd
  (positions v.rows v.cols).filterMap (fun (p : Nat × Nat) =>
    let act := m.active p.1 p.2
    if act || op.every then
      let r := fn v.format rnd (os.map (fun o => o.at s p.1 p.2)) p.1 p.2 act
      some (ElemWrite.mk p.1 p.2 r.1.bits r.1.poison, r.2)
    else none)

/-- The checks of an elementwise instruction, in their order (R52, R176); it answers the formats of the sources. -/
def elementChecks (f : VForm) (op : VOp) : Act (List Nat) := do
  let fd ← destFormat f
  vectorReady (op.srcs.map (fun x => { x with n := scalarRegs fd x.code })) [{ code := f.d }] [f.k.toNat] true
  tformatIf (!op.accept fd) f.d 0x0101
  tformatIf (fd == fmtPx8 && f.k != 0) f.d 0x0107
  tformatIf (op.scalarOnly && f.a.isView) f.a 0x0101
  let fmts ← sourceFormats op.accept fd op.integer op.srcs
  let s ← Act.state
  let v := s.me.view f.d
  checkShapes v.rows v.cols op.srcs
  return fmts

/-- The cycles for which an elementwise instruction keeps the unit busy. -/
def State.elementBusy (s : State) (f : VForm) (op : VOp) (fmts : List Nat) : Nat :=
  let v := s.me.view f.d
  op.factor * vectorCycles v.rows v.cols (v.format :: fmts)

/-- An elementwise instruction: fn gives the bits and flags of one element. -/
def elementwise (f : VForm) (op : VOp) (fn : ElemFn) : Act Unit := do
  let fmts ← elementChecks f op
  let s ← Act.state
  let rs := s.elementRows f op fn
  raise (flagsOf rs)
  writeView f.d (rs.map Prod.fst) (s.elementBusy f op fmts)

/-- The poison of a result: any source element's. -/
def anyElemPoison (es : List Elem) : Bool := es.any Elem.poison

/-- A result from its bits and flags. -/
def elemResult (es : List Elem) (r : Nat × FlagBits) : Elem × FlagBits :=
  ({ bits := r.1, poison := anyElemPoison es }, r.2)

/-! ## Floating point (R181, R182) -/

def oneVal : FVal := .fin false 1 0
def elemVal (es : List Elem) (i : Nat) : FVal := (es.getD i {}).val
def elemBits (es : List Elem) (i : Nat) : Nat := (es.getD i {}).bits

/-- A floating instruction that rounds. -/
def vFloat (f : VForm) (srcs : List Src) (factor : Nat) (g : Nat → List FVal → Exact) : Act Unit :=
  elementwise f { srcs := srcs, accept := acceptFloat, factor := factor } (fun fd rnd es _ _ _ =>
    elemResult es (((fmtFloat fd).getD f32).round rnd (f.sat == 1) (g rnd (es.map Elem.val))))

/-- A floating instruction that does not round. -/
def vFloatBits (f : VForm) (srcs : List Src) (g : FFmt → Nat → Nat → Nat × FlagBits) : Act Unit :=
  elementwise f { srcs := srcs, accept := acceptFloat } (fun fd _ es _ _ _ =>
    elemResult es (g ((fmtFloat fd).getD f32) (elemBits es 0) (elemBits es 1)))

def arg (xs : List FVal) (i : Nat) : FVal := xs.getD i oneVal

def execVadd (f : VForm) (s : State) : Outcome :=
  issue (.vadd f) (vFloat f [f.srcA, f.srcB] 1 (fun rnd xs => addExact rnd (arg xs 0) (arg xs 1))) s
def execVsub (f : VForm) (s : State) : Outcome :=
  issue (.vsub f) (vFloat f [f.srcA, f.srcB] 1 (fun rnd xs => addExact rnd (arg xs 0) (arg xs 1).neg)) s
def execVmul (f : VForm) (s : State) : Outcome :=
  issue (.vmul f) (vFloat f [f.srcA, f.srcB] 1 (fun _ xs => mulExact (arg xs 0) (arg xs 1))) s
def execVfma (f : VForm) (s : State) : Outcome :=
  issue (.vfma f) (vFloat f [f.srcA, f.srcB, f.srcC] 1 (fun rnd xs => fmaExact rnd (arg xs 0) (arg xs 1) (arg xs 2))) s
def execVmin (f : VForm) (s : State) : Outcome :=
  issue (.vmin f) (vFloatBits f [f.srcA, f.srcB] (fun t a b => t.minMax false a b)) s
def execVmax (f : VForm) (s : State) : Outcome :=
  issue (.vmax f) (vFloatBits f [f.srcA, f.srcB] (fun t a b => t.minMax true a b)) s
def execVabs (f : VForm) (s : State) : Outcome :=
  issue (.vabs f) (vFloatBits f [f.srcA] (fun t a _ => (t.absBits a, 0))) s
def execVneg (f : VForm) (s : State) : Outcome :=
  issue (.vneg f) (vFloatBits f [f.srcA] (fun t a _ => (t.negBits a, 0))) s
def execVrcp (f : VForm) (s : State) : Outcome :=
  issue (.vrcp f) (vFloat f [f.srcA] 4 (fun _ xs => divExact oneVal (arg xs 0))) s
def execVrsq (f : VForm) (s : State) : Outcome :=
  issue (.vrsq f) (vFloat f [f.srcA] 4 (fun _ xs => rsqrtExact (arg xs 0))) s
def execVexp2 (f : VForm) (s : State) : Outcome :=
  issue (.vexp2 f) (vFloat f [f.srcA] 4 (fun _ xs => exp2Exact (arg xs 0))) s
def execVlog2 (f : VForm) (s : State) : Outcome :=
  issue (.vlog2 f) (vFloat f [f.srcA] 4 (fun _ xs => log2Exact (arg xs 0))) s
def execVtanh (f : VForm) (s : State) : Outcome :=
  issue (.vtanh f) (vFloat f [f.srcA] 4 (fun _ xs => tanhExact (arg xs 0))) s

/-! ## Integers (R183, R184) -/

/-- An integer instruction on w-bit elements; the result is taken modulo 2^w. -/
def vInt (f : VForm) (accept : Accept) (g : Nat → Nat → Nat → Int) : Act Unit :=
  elementwise f { srcs := [f.srcA, f.srcB], accept := accept, integer := true } (fun fd _ es _ _ _ =>
    let w := fmtBits fd
    elemResult es (intBits w (g w (elemBits es 0) (elemBits es 1)), 0))

/-- Sums, differences and products: clamped under SAT to the range that SIGN selects. -/
def vArith (f : VForm) (g : Int → Int → Int) : Act Unit :=
  vInt f acceptInt (fun w a b =>
    let signed := f.sign == 1
    let r := g (readInt signed w a) (readInt signed w b)
    if f.sat = 1 then clampInt signed w r else r)

def execViadd (f : VForm) (s : State) : Outcome := issue (.viadd f) (vArith f (fun a b => a + b)) s
def execVisub (f : VForm) (s : State) : Outcome := issue (.visub f) (vArith f (fun a b => a - b)) s
def execVimul (f : VForm) (s : State) : Outcome := issue (.vimul f) (vArith f (fun a b => a * b)) s
def execVand (f : VForm) (s : State) : Outcome := issue (.vand f) (vInt f acceptInt (fun _ a b => (a &&& b : Nat))) s
def execVor (f : VForm) (s : State) : Outcome := issue (.vor f) (vInt f acceptInt (fun _ a b => (a ||| b : Nat))) s
def execVxor (f : VForm) (s : State) : Outcome := issue (.vxor f) (vInt f acceptInt (fun _ a b => (a ^^^ b : Nat))) s
def execVshl (f : VForm) (s : State) : Outcome :=
  issue (.vshl f) (vInt f acceptInt (fun w a b => (a * 2 ^ (b % w) : Nat))) s
def execVshr (f : VForm) (s : State) : Outcome :=
  issue (.vshr f) (vInt f acceptInt (fun w a b => (a / 2 ^ (b % w) : Nat))) s
def execVsra (f : VForm) (s : State) : Outcome :=
  issue (.vsra f) (vInt f acceptInt (fun w a b => readInt true w a / 2 ^ (b % w))) s
def execVimin (f : VForm) (s : State) : Outcome :=
  issue (.vimin f) (vInt f acceptInt (fun w a b => min (readInt (f.sign == 1) w a) (readInt (f.sign == 1) w b))) s
def execVimax (f : VForm) (s : State) : Outcome :=
  issue (.vimax f) (vInt f acceptInt (fun w a b => max (readInt (f.sign == 1) w a) (readInt (f.sign == 1) w b))) s

/-- VHASH (R184). -/
def hash32 (a b seed : Word) : Word :=
  let h := a ^^^ b.rotateLeft 13 ^^^ seed
  let h := (h ^^^ (h >>> 16)) * 0x2C1B3C6D
  let h := (h ^^^ (h >>> 13)) * 0x297A2D39
  h ^^^ (h >>> 16)

def execVhash (f : VForm) (s : State) : Outcome :=
  issue (.vhash f) (vInt f accept32 (fun _ a b =>
    (hash32 (BitVec.ofNat 32 a) (BitVec.ofNat 32 b) (f.imm.zeroExtend 32)).toNat)) s

/-- VIDX (R183): A must be a g register. -/
def execVidx (f : VForm) (s : State) : Outcome :=
  issue (.vidx f) (do
    let sl ← Act.me
    let cols := (sl.view f.d).cols
    elementwise f { srcs := [f.srcA], accept := acceptInt, integer := true, scalarOnly := true } (fun fd _ es i j _ =>
      elemResult es ((elemBits es 0 + i * cols + j) % 2 ^ fmtBits fd, 0))) s

/-! ## Lookups (R185, R187) -/

/-- The format of the index of VLUT or VPERM: its view's, or b32 for a g register. -/
def State.indexFormat (s : State) (code : Code) : Nat := if code.isView then (s.me.view code).format else fmtB32

/-- The checks of VLUT or VPERM, whose table is a view and whose index is an integer view or scalar. tableOk says whether
the table's rows suit a destination of some rows; vlut, that A is the index: it then comes before the table (R176), also
where both are one view, and signed and unsigned formats of a width agree. -/
def lookupChecks (f : VForm) (table index : Src) (vlut : Bool) (tableOk : Nat → Nat → Bool) : Act Unit := do
  vectorReady [f.srcA, f.srcB] [{ code := f.d }] [f.k.toNat] true
  let fd ← destFormat f
  tformatIf (!acceptPlain fd) f.d 0x0101
  let s ← Act.state
  let ft := (s.me.view table.code).format
  -- formats in the order A, B
  let tableChecks : Act Unit := do
    tformatIf (!table.code.isView || !acceptPlain ft) table.code 0x0101
    tformatIf (!formatsAgree vlut ft fd) table.code 0x0102
  let indexChecks : Act Unit := tformatIf (!acceptInt (s.indexFormat index.code)) index.code 0x0101
  if vlut then do
    indexChecks
    tableChecks
  else do
    tableChecks
    indexChecks
  let v := s.me.view f.d
  let shapeT : Act Unit := tformatIf (!tableOk (s.me.view table.code).rows v.rows) table.code 0x0103
  if vlut then do
    checkShape index.code v.rows v.cols
    shapeT
  else do
    shapeT
    checkShape index.code v.rows v.cols

/-- The active positions of a destination, in row-major order. -/
def State.activePositions (s : State) (f : VForm) : List (Nat × Nat) :=
  (positions (s.me.view f.d).rows (s.me.view f.d).cols).filter (fun p => (s.me.mask f.k.toNat).active p.1 p.2)

/-- The elements looked up: that of the table's row at the index, read unsigned; 0 where the index is past its columns. -/
def State.lookupWrites (s : State) (f : VForm) (table index : Code) : List ElemWrite :=
  let t := s.grid table
  let o := s.vOperand index (s.indexFormat index)
  (s.activePositions f).map (fun p =>
    let x := o.at s p.1 p.2
    if x.bits < t.cols then
      let e := s.readElem s.me.lut t (if t.rows = 1 then 0 else p.1) x.bits
      ElemWrite.mk p.1 p.2 e.bits (x.poison || e.poison)
    else ElemWrite.mk p.1 p.2 0 x.poison)

/-- VLUT and VPERM (R185, R187). -/
def lookup (f : VForm) (table index : Src) (vlut : Bool) (tableOk : Nat → Nat → Bool) : Act Unit := do
  lookupChecks f table index vlut tableOk
  let s ← Act.state
  let v := s.me.view f.d
  writeView f.d (s.lookupWrites f table.code index.code) (vectorCycles v.rows v.cols
    (v.format :: (s.me.view table.code).format :: (if index.code.isView then [s.indexFormat index.code] else [])))

def execVlut (f : VForm) (s : State) : Outcome :=
  issue (.vlut f) (lookup f f.srcB f.srcA true (fun t _ => t == 1)) s
def execVperm (f : VForm) (s : State) : Outcome :=
  issue (.vperm f) (lookup f f.srcA f.srcB false (fun t d => t == 1 || t == d)) s

/-! ## Compare (R186) -/

/-- The relation of a class: 0 float, 1 signed, 2 unsigned; with the flags of a float compare (R67). -/
def vRelation (cls rel fmt : Nat) (a b : Elem) : Bool × FlagBits :=
  if cls = 0 then
    let t := (fmtFloat fmt).getD f32
    match rel with
    | 0 => feqBits t a.bits b.bits
    | 1 => let r := feqBits t a.bits b.bits; (!r.1, r.2)
    | 2 => fltBits t a.bits b.bits
    | _ => fleBits t a.bits b.bits
  else
    let x := readInt (cls == 1) (fmtBits fmt) a.bits
    let y := readInt (cls == 1) (fmtBits fmt) b.bits
    (match rel with
      | 0 => decide (x = y)
      | 1 => decide (x ≠ y)
      | 2 => decide (x < y)
      | _ => decide (x ≤ y), 0)

/-- A 64-bit mask from a predicate. -/
def maskOf (p : Nat → Bool) : DWord :=
  BitVec.ofNat 64 ((List.range 64).foldl (fun n i => if p i then n + 2 ^ i else n) 0)

/-- The formats of a class of VCMP: every floating format (R152), f8 among them, or every integer format. -/
def acceptClass (cls : Nat) : Accept := if cls = 0 then fun fmt => (fmtFloat fmt).isSome else acceptInt

/-- The checks of VCMP; it answers the formats of A and B. A source that R172 bars breaks its shape rule, 0x0103. -/
def vcmpChecks (rel : BitVec 6) (f : VForm) : Act (Nat × Nat) := do
  let cls := rel.toNat / 4
  let sl ← Act.me
  let v := sl.view f.lead
  let both := !f.a.isView && !f.b.isView
  let n := fun (c : Code) => if both then 1 else scalarRegs v.format c
  vectorReady [f.srcA (n f.a), f.srcB (n f.b)] [] [f.k.toNat, maskNumber f.d] false
  tformatIf both f.a 0x0101
  let fa ← sourceFormat f.a (acceptClass cls) v.format (cls != 0)
  let fb ← sourceFormat f.b (acceptClass cls) v.format (cls != 0)
  tformatIf (decide (1 < v.rows) && decide (1 < v.cols)) f.lead 0x0104
  checkShape f.a v.rows v.cols
  checkShape f.b v.rows v.cols
  return (fa, fb)

/-- The predicate bits of a VCMP along its row or column, with the flags of each: false where inactive. The
relation of a poisoned element is that of its bytes as they stand, without flags (DESIGN CHOICE, assumption 87). -/
def State.vcmpBits (s : State) (rel : BitVec 6) (f : VForm) : List (Bool × FlagBits) :=
  let v := s.me.view f.lead
  let x := s.vOperand f.a v.format
  let y := s.vOperand f.b v.format
  (List.range (if v.rows = 1 then v.cols else v.rows)).map (fun t =>
    let i := if v.rows = 1 then 0 else t
    let j := if v.rows = 1 then t else 0
    if (s.me.mask f.k.toNat).active i j then
      let a := x.at s i j
      let b := y.at s i j
      let r := vRelation (rel.toNat / 4) (rel.toNat % 4) v.format a b
      (r.1, if a.poison || b.poison then 0 else r.2)
    else (false, 0))

/-- The mask pair of a VCMP: its bits on one side, all ones on the other. -/
def maskPairOf (row : Bool) (bits : List (Bool × FlagBits)) : MaskPair :=
  let m := maskOf (fun i => (bits.getD i (false, 0)).1)
  if row then { ky := BitVec.allOnes 64, kx := m } else { ky := m, kx := BitVec.allOnes 64 }

/-- The flags of a row or column of predicates. -/
def predicateFlags (rs : List (Bool × FlagBits)) : FlagBits := rs.foldl (fun fl r => fl ||| r.2) 0

/-- VCMP: both halves of the mask pair are written when the result lands. -/
def execVcmp (rel : BitVec 6) (f : VForm) (s : State) : Outcome :=
  issue (.vcmp rel f) (do
    let fmts ← vcmpChecks rel f
    let s ← Act.state
    let v := s.me.view f.lead
    let rs := s.vcmpBits rel f
    raise (predicateFlags rs)
    let busy := vectorCycles v.rows v.cols [fmts.1, fmts.2]
    Act.modify (fun s => (s.occupy busy).landLater { mask := some (maskNumber f.d, maskPairOf (v.rows == 1) rs) }
      (busy + 3))) s

/-! ## Moves (R187) -/

/-- The checks of a VMOV of px8. -/
def px8Checks (f : VForm) : Act Unit := do
  vectorReady [f.srcA] [{ code := f.d }] [f.k.toNat] true
  tformatIf (f.k != 0) f.d 0x0107
  tformatIf (!f.a.isView) f.a 0x0101
  let _ ← sourceFormat f.a acceptAll fmtPx8 false
  let v := (← Act.me).view f.d
  checkShape f.a v.rows v.cols

/-- The blocks that a VMOV of px8 writes: those of A where the columns match; a column is broadcast by encoding its value
along the row, which is exact. -/
def State.px8Moves (s : State) (f : VForm) : List ElemWrite :=
  let v := s.me.view f.d
  let g := s.grid f.a
  let blocks := (v.cols + 31) / 32
  (List.range v.rows).flatMap (fun i =>
    let row := if g.rows = 1 then 0 else i
    if g.cols = v.cols then
      (List.range blocks).map (fun b =>
        let e := s.readElem s.me.lut g row (32 * b)
        ElemWrite.mk i (32 * b) e.bits e.poison)
    else
      let e := s.readElem s.me.lut g row 0
      (px8Row 0 (List.replicate v.cols e.val.exact) blocks).mapIdx (fun b r => ElemWrite.mk i (32 * b) r.1 e.poison))

def movePx8 (f : VForm) : Act Unit := do
  px8Checks f
  let s ← Act.state
  let v := s.me.view f.d
  writeView f.d (s.px8Moves f) (vectorCycles v.rows v.cols [fmtPx8])

/-- What VMOV is as an elementwise instruction. It takes every format (R174), so a px8 view beside another format only
disagrees with it. -/
def moveOp (f : VForm) : VOp := { srcs := [f.srcA], accept := acceptAll }

def execVmov (f : VForm) (s : State) : Outcome :=
  issue (.vmov f) (do
    let fd ← destFormat f
    if fd = fmtPx8 then movePx8 f
    else
      elementwise f (moveOp f) (fun _ _ es _ _ _ => (es.getD 0 {}, 0))) s

def execVsel (f : VForm) (s : State) : Outcome :=
  issue (.vsel f) (elementwise f { srcs := [f.srcA, f.srcB], accept := acceptPlain, every := true }
    (fun _ _ es _ _ act => (es.getD (if act then 0 else 1) {}, 0))) s

/-- The checks of a move from a view that has a shape rule of its own. -/
def moveChecks (f : VForm) (shape : View → View → Act Unit) : Act Unit := do
  vectorReady [f.srcA] [{ code := f.d }] [f.k.toNat] true
  let fd ← destFormat f
  tformatIf (!acceptCodes fd) f.d 0x0101
  tformatIf (!f.a.isView) f.a 0x0101
  let _ ← sourceFormat f.a acceptCodes fd false
  let sl ← Act.me
  shape (sl.view f.d) (sl.view f.a)

/-- The elements of a move: pick says which element of A goes to (i, j). -/
def State.moveWrites (s : State) (f : VForm) (pick : Nat → Nat → Nat × Nat) : List ElemWrite :=
  (s.activePositions f).map (fun p =>
    let e := s.readElem s.me.lut (s.grid f.a) (pick p.1 p.2).1 (pick p.1 p.2).2
    ElemWrite.mk p.1 p.2 e.bits e.poison)

def moveFrom (f : VForm) (shape : View → View → Act Unit) (pick : Nat → Nat → Nat × Nat) : Act Unit := do
  moveChecks f shape
  let s ← Act.state
  let v := s.me.view f.d
  writeView f.d (s.moveWrites f pick) (vectorCycles v.rows v.cols [v.format])

def bcastShape (f : VForm) (_ a : View) : Act Unit :=
  tformatIf (decide (a.rows ≤ f.pickRow) || decide (a.cols ≤ f.pickCol)) f.a 0x0105
def trnShape (f : VForm) (d a : View) : Act Unit := tformatIf (d.rows != a.cols || d.cols != a.rows) f.d 0x0103

def execVbcast (f : VForm) (s : State) : Outcome :=
  issue (.vbcast f) (moveFrom f (bcastShape f) (fun _ _ => (f.pickRow, f.pickCol))) s

def execVtrn (f : VForm) (s : State) : Outcome := issue (.vtrn f) (moveFrom f (trnShape f) (fun i j => (j, i))) s

/-! ## Reductions (R188, R189) -/

/-- What a reduction gives: its value, whether 64 bits wide, its flags, and the linear index of the element chosen. -/
structure Reduced where
  bits : Nat
  flags : FlagBits := 0
  index : Nat := 0xFFFFFFFF
  deriving DecidableEq, Repr

/-- The elements of a reduction with their linear indices. -/
abbrev Indexed := List (Nat × Elem)

/-- A finite or infinite or NaN result as a value, for a running sum. -/
def Exact.toVal : Exact → FVal
  | .nan s => .nan s
  | .inf n => .inf n
  | .divZero n => .inf n
  | .fin n m e _ => .fin n m e

def Exact.invalid : Exact → Bool
  | .nan i => i
  | _ => false

/-- The exact sum of values, and whether it is invalid: a NaN anywhere, or infinities of both signs in whatever order,
give a NaN, which is invalid for the infinities and for a signalling NaN or an invalid term (R169, R188, R216). -/
def sumExact (rnd : Nat) (xs : List Exact) : FVal × Bool :=
  let vs := xs.map Exact.toVal
  let mixed := vs.contains (.inf false) && vs.contains (.inf true)
  if mixed || vs.any FVal.isNaN then (.nan false, mixed || xs.any Exact.invalid)
  else match vs with
    | [] => (.fin false 0 0, false)
    | v :: rest => (rest.foldl (fun acc y => (addExact rnd acc y).toVal) v, false)

/-- An exact sum as an exact result. -/
def sumResult (r : FVal × Bool) : Exact :=
  match r.1 with
  | .nan _ => .nan r.2
  | v => v.exact

/-- The exact sum, rounded once (R188). -/
def sumFloat (out : FFmt) (rnd : Nat) (xs : List FVal) : Nat × FlagBits :=
  out.round rnd false (sumResult (sumExact rnd (xs.map FVal.exact)))

/-- x is chosen over y, strictly: −0 is less than +0. -/
def FVal.strictly (x y : FVal) (max : Bool) : Bool :=
  match x.order y with
  | .eq => x.isZero && y.isZero && (if max then !x.isNeg && y.isNeg else x.isNeg && !y.isNeg)
  | .lt => !max
  | .gt => max

/-- The minimum or maximum of float elements: the first of equal values, NaNs left out. -/
def extremeFloat (out : FFmt) (max : Bool) (xs : Indexed) : Reduced :=
  let fl := if xs.any (fun x => x.2.val.isSignalling) then flagNV else 0
  match xs.filter (fun x => !x.2.val.isNaN) with
  | [] => { bits := if xs.isEmpty then out.infinity max else out.canonicalNaN, flags := fl }
  | x :: rest =>
    let b := rest.foldl (fun (best : Nat × Elem) y => if y.2.val.strictly best.2.val max then y else best) x
    { bits := (out.round 0 false b.2.val.exact).1, flags := fl, index := b.1 }

/-- The minimum or maximum of integer elements, extended to 32 bits. -/
def extremeInt (signed : Bool) (w : Nat) (max : Bool) (xs : Indexed) : Reduced :=
  match xs.map (fun x => (x.1, readInt signed w x.2.bits)) with
  | [] => { bits := intBits 32 (if max then intMin signed w else intMax signed w) }
  | x :: rest =>
    let b := rest.foldl (fun (best : Nat × Int) y =>
      if (if max then best.2 < y.2 else y.2 < best.2) then y else best) x
    { bits := intBits 32 b.2, index := b.1 }

/-- What a reduction computes for a format: out is the format of a float result. -/
def reduceSum (f : VForm) (rnd fmt : Nat) (xs : Indexed) : Reduced :=
  match fmtFloat fmt with
  | some _ =>
    let r := sumFloat (if fmt = fmtF64 then f64 else f32) rnd (xs.map (fun x => x.2.val))
    { bits := r.1, flags := r.2 }
  | none =>
    let signed := f.sign == 1
    let v := xs.foldl (fun a x => a + readInt signed (fmtBits fmt) x.2.bits) (0 : Int)
    { bits := intBits 32 (if f.sat = 1 then clampInt signed 32 v else v) }

def reduceExtreme (max : Bool) (f : VForm) (_ fmt : Nat) (xs : Indexed) : Reduced :=
  match fmtFloat fmt with
  | some _ => extremeFloat (if fmt = fmtF64 then f64 else f32) max xs
  | none => extremeInt (f.sign == 1) (fmtBits fmt) max xs

def reduceOr (_ : VForm) (_ _ : Nat) (xs : Indexed) : Reduced :=
  { bits := xs.foldl (fun a x => a ||| x.2.bits) 0 }

/-- A reduction of f64 writes a pair. -/
def State.reducesWide (s : State) (f : VForm) : Bool := f.a.isView && (s.me.view f.a).format == fmtF64

/-- The registers that a reduction writes; ix tells that the index is written too. -/
def State.reducedRegs (s : State) (f : VForm) (ix : Bool) : Nat :=
  (if s.reducesWide f then 2 else 1) + (if ix then 1 else 0)

/-- The checks of a reduction. A pair needs D even, that of a value and its index as well as an f64 result (R188). -/
def reductionChecks (f : VForm) (accept : Accept) (ix : Bool) : Act Unit := do
  let s ← Act.state
  let fmt := (s.me.view f.a).format
  let isFloat := f.a.isView && acceptFloat fmt
  let isInt := f.a.isView && acceptInt fmt
  Act.trapIf ((f.rnd != 0 && !isFloat) || (f.sat != 0 && !isInt)) .illegal 0 0
  vectorReady [f.srcA] [{ code := f.d, n := s.reducedRegs f ix }] [f.k.toNat] false
  let d := f.d.toNat
  let bad := if s.reducesWide f then (if ix then d % 4 != 0 || decide (60 < d) else d % 2 != 0) else ix && d % 2 != 0
  tformatIf ((isFloat || isInt) && accept fmt && bad) f.d 0x0106
  tformatIf (!f.a.isView || !accept fmt) f.a 0x0101

/-- The active elements of A with their linear indices. -/
def State.reducedElems (s : State) (f : VForm) : Indexed :=
  let v := s.me.view f.a
  ((positions v.rows v.cols).filter (fun p => (s.me.mask f.k.toNat).active p.1 p.2)).map (fun p =>
    (p.1 * v.cols + p.2, s.readElem s.me.lut (s.grid f.a) p.1 p.2))

/-- The words of a reduction's result, low word first, the index last. -/
def State.reducedWords (s : State) (f : VForm) (ix : Bool) (r : Reduced) : List Word :=
  (if s.reducesWide f then [BitVec.ofNat 32 r.bits, BitVec.ofNat 32 (r.bits / 2 ^ 32)] else [BitVec.ofNat 32 r.bits])
    ++ (if ix then [BitVec.ofNat 32 r.index] else [])

/-- Values for consecutive registers from D. -/
def State.regWrites (s : State) (d : Code) (words : List Word) (poison : Bool) : List (Nat × Val) :=
  words.mapIdx (fun i w => (regIndex s.me.mode (d.toNat + i), ({ w := w, poison := poison } : Val)))

/-- A reduction: its flags count only where no element is poisoned; D is marked empty, and its values land later. -/
def reduction (f : VForm) (accept : Accept) (ix : Bool) (fn : VForm → Nat → Nat → Indexed → Reduced) : Act Unit := do
  reductionChecks f accept ix
  let s ← Act.state
  let v := s.me.view f.a
  let xs := s.reducedElems f
  let poison := xs.any (fun x => x.2.poison)
  let r := fn f (roundMode s.me f.rnd) v.format xs
  raiseClean poison r.flags
  markEmpty f.d (s.reducedRegs f ix)
  let busy := vectorCycles v.rows v.cols [v.format]
  Act.modify (fun s => (s.occupy busy).landLater { regs := s.regWrites f.d (s.reducedWords f ix r) poison } (busy + 8))

def acceptReduce : Accept := fun fmt => acceptFloat fmt || acceptInt fmt

def execVrsum (f : VForm) (s : State) : Outcome := issue (.vrsum f) (reduction f acceptReduce false reduceSum) s
def execVrmin (f : VForm) (s : State) : Outcome :=
  issue (.vrmin f) (reduction f acceptReduce false (reduceExtreme false)) s
def execVrmax (f : VForm) (s : State) : Outcome :=
  issue (.vrmax f) (reduction f acceptReduce false (reduceExtreme true)) s
def execVrmini (f : VForm) (s : State) : Outcome :=
  issue (.vrmini f) (reduction f acceptReduce true (reduceExtreme false)) s
def execVrmaxi (f : VForm) (s : State) : Outcome :=
  issue (.vrmaxi f) (reduction f acceptReduce true (reduceExtreme true)) s
def execVror (f : VForm) (s : State) : Outcome := issue (.vror f) (reduction f acceptInt false reduceOr) s

/-! ## Conversion (R190) -/

/-- Between integer formats: a wider one extends by the source's signedness; a narrower one clamps under SAT and keeps
the low bits without it (R190). Between formats of one width the clamp of R163 stands whatever SAT is. -/
def convertInt (src dst : Nat) (sat : Bool) (bits : Nat) : Nat × FlagBits :=
  let v := readInt (fmtSigned src) (fmtBits src) bits
  let w := fmtBits dst
  let c := clampInt (fmtSigned dst) w v
  if fmtBits src < w || (w < fmtBits src && !sat) then (intBits w v, 0)
  else (intBits w c, if c = v then 0 else flagNV)

/-- The checks of VCVT. -/
def vcvtChecks (f : VForm) : Act Unit := do
  vectorReady [f.srcA] [{ code := f.d }] [f.k.toNat] true
  let s ← Act.state
  let fd ← destFormat f
  tformatIf (fd == fmtQ4 || (fd == fmtPx8 && (f.k != 0 || roundMode s.me f.rnd == 4))) f.d 0x0107
  tformatIf (!f.a.isView) f.a 0x0101
  let v := s.me.view f.d
  checkShape f.a v.rows v.cols

/-- The elements that a VCVT to another format than px8 writes, with the flags of each. -/
def State.vcvtElems (s : State) (f : VForm) : List (ElemWrite × FlagBits) :=
  let fd := (s.me.view f.d).format
  let fa := (s.me.view f.a).format
  (s.activePositions f).map (fun p =>
    let e := (s.vOperand f.a fa).at s p.1 p.2
    let r : Nat × FlagBits :=
      if fmtIsInt fa && fmtIsInt fd then convertInt fa fd (f.sat == 1) e.bits
      else
        let c := convertElement fd (roundMode s.me f.rnd) (f.sat == 1) e.val.exact
        (c.1, c.2.1)
    (ElemWrite.mk p.1 p.2 r.1 e.poison, r.2))

/-- The blocks that a VCVT to px8 writes, row by row, with the flags of each; any poisoned element poisons its block. -/
def State.vcvtBlocks (s : State) (f : VForm) : List (ElemWrite × FlagBits) :=
  let v := s.me.view f.d
  (List.range v.rows).flatMap (fun i =>
    let es := (List.range v.cols).map (fun j => (s.vOperand f.a (s.me.view f.a).format).at s i j)
    (px8Row (roundMode s.me f.rnd) (es.map (fun e => e.val.exact)) ((v.cols + 31) / 32)).mapIdx (fun b r =>
      (ElemWrite.mk i (32 * b) r.1 (anyElemPoison ((es.drop (32 * b)).take 32)), r.2.foldl (fun fl p => fl ||| p.flags) 0)))

def execVcvt (f : VForm) (s : State) : Outcome :=
  issue (.vcvt f) (do
    vcvtChecks f
    let s ← Act.state
    let v := s.me.view f.d
    let rs := if v.format = fmtPx8 then s.vcvtBlocks f else s.vcvtElems f
    raise (flagsOf rs)
    writeView f.d (rs.map Prod.fst) (vectorCycles v.rows v.cols [v.format, (s.me.view f.a).format])) s

/-! ## VSET and MSET (R179, R180) -/

def execVset (fmt : BitVec 8) (f : RForm) (s : State) : Outcome :=
  issue (.vset fmt f) (do
    check [f.srcA, f.srcB]
    let a ← rd f.a
    let b ← rd f.b
    Act.trapIf a.poison .poison f.a.toNat 0
    Act.trapIf b.poison .poison f.b.toNat 0
    let s ← Act.state
    Act.parkIf (s.viewOwed f.d) (waitSpan f.d)
    let rows := b.w.toNat % 256
    let cols := b.w.toNat / 256 % 256
    let off := a.w.toNat % 65536
    let stride := a.w.toNat / 65536
    let al := fmtAlign fmt.toNat
    let rb := rowBytes fmt.toNat cols
    tformatIf (decide (rows < 1) || decide (64 < rows) || decide (cols < 1) || decide (64 < cols)
      || b.w.toNat / 65536 != 0) f.d 0x0110
    tformatIf (off % al != 0 || stride % al != 0) f.d 0x0112
    tformatIf (decide (1 < rows) && decide (stride < rb)) f.d 0x0113
    tformatIf (decide (0x10000 < off + (rows - 1) * stride + rb)) f.d 0x0111
    Act.modMe (fun sl => sl.setView f.d
      { fmt := fmt.extractLsb' 0 4, cols1 := BitVec.ofNat 6 (cols - 1), rows1 := BitVec.ofNat 6 (rows - 1),
        stride := BitVec.ofNat 16 stride, off := BitVec.ofNat 16 off })) s

def execMset (f : RForm) (s : State) : Outcome :=
  issue (.mset f) (do
    check [f.srcA 2, f.srcB 2]
    let s ← Act.state
    Act.parkIf (s.maskPending s.cur (maskNumber f.d)) (waitUnit f.d)
    let a ← rdp f.a
    let b ← rdp f.b
    Act.trapIf a.poison .poison f.a.toNat 0
    Act.trapIf b.poison .poison f.b.toNat 0
    Act.modMe (fun sl => sl.setMask (maskNumber f.d) { ky := a.w, kx := b.w })) s

end Sys2Proof.Machine
end

