-- ==== Sys2Proof/Machine/Matrix.lean ====
section
/-! DEFINITION. What the matrix unit computes (R164 to R169, R199 to R203, R211 to R219): the result of each tile
instruction as a list of cells, from tables of the elements it reads. Nothing here changes the state. -/

namespace Sys2Proof.Machine

/-! ## Tables of elements -/

abbrev Table := List (List Elem)

def Table.at (t : Table) (i j : Nat) : Elem := (t.getD i []).getD j {}

/-- The part of a memory in a range. -/
def Mem.slice (m : Mem) (a n : Nat) : Mem :=
  { cells := m.cells.filter (fun e => decide (a ≤ e.1) && decide (e.1 < a + n)),
    poison := m.poison.filter (fun e => decide (a ≤ e.1) && decide (e.1 < a + n)) }

/-- The elements of a grid. -/
def gridTable (m : Mem) (lut : Assoc Word) (g : Grid) : Table :=
  (List.range g.rows).map (fun i =>
    let row := m.slice (g.base + i * g.stride) (rowBytes g.fmt g.cols)
    (List.range g.cols).map (fun j => elemIn row lut g i j))

/-- Rows and columns exchanged. -/
def Table.columns (t : Table) (cols : Nat) : Table :=
  (List.range cols).map (fun j => t.map (fun r => r.getD j {}))

/-- A row of A as the products read it: the k that take part with their elements, and poison that every element of the
row takes. -/
structure ARow where
  poison : Bool := false
  live : List (Nat × Elem) := []
  deriving DecidableEq, Repr

def denseRow (r : List Elem) : ARow := { live := r.mapIdx (fun k e => (k, e)) }

/-! ## Sparse A (R202) -/

/-- The values in a group record, by NSP. -/
def sparseCount (nsp : Nat) : Nat :=
  match nsp with
  | 0 => 12 | 1 => 8 | _ => 6

/-- The bytes of a group record. -/
def groupBytes (fmt nsp : Nat) : Nat := (4 + sparseCount nsp * (fmtBits fmt / 8) + 3) / 4 * 4

/-- The set bits of POS from bit p on, with the values left: t is the next value. -/
def groupLive (m : Mem) (lut : Assoc Word) (fmt base group pos limit : Nat) : Nat → Nat → Nat → List (Nat × Elem)
  | 0, _, _ => []
  | n + 1, p, t =>
    if pos / 2 ^ p % 2 = 1 && decide (t < limit) then
      let w := fmtBits fmt / 8
      let off := base + 4 + t * w
      let bits := m.word off w
      (24 * group + p, { bits := bits, val := elementValue lut fmt bits, poison := m.poisonIn off w })
        :: groupLive m lut fmt base group pos limit n (p + 1) (t + 1)
    else groupLive m lut fmt base group pos limit n (p + 1) t

/-- A row of group records from an offset. -/
def sparseRow (m : Mem) (lut : Assoc Word) (fmt nsp groups base : Nat) : ARow :=
  let gb := groupBytes fmt nsp
  let row := m.slice base (groups * gb)
  (List.range groups).foldl (fun (r : ARow) g =>
    let b := base + g * gb
    { poison := r.poison || row.poisonIn b 3,
      live := r.live ++ groupLive row lut fmt b g (row.word b 3) (sparseCount nsp) 24 0 0 }) {}

/-! ## Cells -/

/-- One written element (or block of elements): its flags, the events of each element in it, and, for a semiring, its
selection byte (R252). -/
structure Cell where
  w : ElemWrite
  flags : FlagBits := 0
  events : List Events := []
  sel : Nat := 0xFF
  deriving DecidableEq, Repr

/-- A running result: its bits, and the flags and events so far. -/
structure Running where
  bits : Nat
  flags : FlagBits := 0
  events : Events := {}
  sel : Nat := 0xFF
  deriving DecidableEq, Repr

/-- One rounding, by RNE, of a running result. -/
def Running.round (r : Running) (f : FFmt) (sat : Bool) (x : Exact) : Running :=
  let v := f.convert 0 sat x
  { r with bits := v.1, flags := r.flags ||| v.2.1, events := r.events.or v.2.2 }

/-- The final NaN count: whether the result is a NaN. -/
def Running.finish (r : Running) (f : FFmt) : Running :=
  { r with events := { r.events with nan := (f.decode r.bits).isNaN } }

/-! ## Sums (R167 to R169) -/

/-- Halve an exact result. -/
def Exact.half : Exact → Exact
  | .fin n m e s => .fin n m (e - 1) s
  | x => x

/-- Consecutive terms of one group of eight k. -/
def groupsOfEight {α : Type} (xs : List (Nat × α)) : List (List (Nat × α)) :=
  xs.foldr (fun x acc =>
    match acc with
    | (y :: ys) :: rest => if x.1 / 8 = y.1 / 8 then (x :: y :: ys) :: rest else [x] :: acc
    | _ => [x] :: acc) []

abbrev Terms := List (Nat × Elem × Elem)

/-- Pair the live elements of a row of A with a column of B, both in rising k; k is the position of the column's head. -/
def pairUp : List (Nat × Elem) → Nat → List Elem → Terms
  | [], _, _ => []
  | _, _, [] => []
  | (ka, x) :: xs, k, y :: ys =>
    if ka = k then (ka, x, y) :: pairUp xs (k + 1) ys else pairUp ((ka, x) :: xs) (k + 1) ys

/-- R167: groups of eight products, summed exactly, rounded, and added. -/
def sumGroups (sat fold : Bool) (ts : Terms) (c : Nat) : Running :=
  (groupsOfEight ts).foldl (fun (r : Running) g =>
    let p := sumResult (sumExact 0 (g.map (fun t => mulExact t.2.1.val t.2.2.val)))
    let p := if fold then p.half else p
    let c := r.bits
    let r := r.round f32 sat p
    r.round f32 sat (addExact 0 (f32.decode c) (f32.decode r.bits))) { bits := c }

/-- R168: one fused step per k. -/
def sumFused (f : FFmt) (sat : Bool) (ts : Terms) (c : Nat) : Running :=
  ts.foldl (fun (r : Running) t => r.round f sat (fmaExact 0 t.2.1.val t.2.2.val (f.decode r.bits))) { bits := c }

/-- The integer that an element stands for. -/
def elemInt (lut : Assoc Word) (fmt : Nat) (e : Elem) : Int :=
  if fmt = fmtQ4 then q4Value lut e.bits else readInt (fmtSigned fmt) (fmtBits fmt) e.bits

/-- R167 with integers: exact groups, wrapping or clamping. -/
def sumInt (lut : Assoc Word) (fa fb : Nat) (sat : Bool) (ts : Terms) (c : Nat) : Running :=
  (groupsOfEight ts).foldl (fun (r : Running) g =>
    let p := g.foldl (fun a t => a + elemInt lut fa t.2.1 * elemInt lut fb t.2.2) (0 : Int)
    let v := readInt true 32 r.bits + p
    let w := clampInt true 32 v
    if sat then { r with bits := intBits 32 w, events := r.events.or { sat := decide (w ≠ v) } }
    else { r with bits := intBits 32 v }) { bits := c }

/-! ## Semirings (R212) -/

/-- The term of one k: a rounded sum, or a rounded product. -/
def semiTerm (f : FFmt) (tfn : Nat) (sat : Bool) (a b : FVal) : Nat × FlagBits × Events :=
  f.convert 0 sat (if tfn = 3 then mulExact a b else addExact 0 a b)

/-- Minimum (1) or maximum (2, 3) of the old value and the terms: among equal values the earlier one stays. -/
def semiring (f : FFmt) (tfn : Nat) (sat : Bool) (ts : Terms) (c : Nat) : Running :=
  let old := f.decode c
  let r := ts.foldl (fun (acc : Running × FVal × Bool) t =>
    let v := semiTerm f tfn sat t.2.1.val t.2.2.val
    let r := { acc.1 with flags := acc.1.flags ||| v.2.1, events := acc.1.events.or v.2.2 }
    let x := f.decode v.1
    if x.isNaN then (r, acc.2.1, true)
    else if !acc.2.2 && x.strictly acc.2.1 (decide (tfn ≠ 1)) then
      ({ r with bits := v.1, sel := t.1 }, x, acc.2.2)
    else (r, acc.2.1, acc.2.2))
    ({ bits := c, flags := if old.isSignalling then flagNV else 0 }, old, old.isNaN)
  if r.2.2 then { r.1 with bits := f.canonicalNaN, sel := 0xFE } else r.1

/-- Or-and (4). -/
def orAnd (lut : Assoc Word) (fa fb : Nat) (ts : Terms) (c : Nat) : Running :=
  let hit := c != 0 || ts.any (fun t => elemInt lut fa t.2.1 != 0 && elemInt lut fb t.2.2 != 0)
  { bits := if hit then 1 else 0 }

/-! ## Products (R199, R211) -/

inductive MatClass where
  | f64
  | f32
  | l16
  | l8
  | int
  deriving DecidableEq, Repr

/-- The class of a combination of formats (R199). -/
def matClass (a b c : Nat) : Option MatClass :=
  let l16 := fun (x : Nat) => x == 2 || x == 3
  let l8 := fun (x : Nat) => x == 4 || x == 5
  let int := fun (x : Nat) => x == 6 || x == 9 || x == 0xC
  if a = 1 && b == 1 && c == 1 then some .f64
  else if a = 0 && b == 0 && c == 0 then some .f32
  else if c = 0 && (l16 a || l8 a) && (l16 b || l8 b) then some (if l16 a || l16 b then .l16 else .l8)
  else if c = 8 && int a && int b then some .int
  else none

/-- r, and the largest K. -/
def MatClass.rate : MatClass → Nat
  | .f64 => 1 | .f32 => 4 | .l16 => 16 | .l8 => 32 | .int => 32
def MatClass.largestK : MatClass → Nat
  | .f64 => 24 | .f32 => 48 | .l16 => 96 | .l8 => 192 | .int => 192

/-- A format context (R198). -/
def ctxA (ctx : BitVec 13) : Nat := (ctx.extractLsb' 0 4).toNat
def ctxB (ctx : BitVec 13) : Nat := (ctx.extractLsb' 4 4).toNat
def ctxC (ctx : BitVec 13) : Nat := (ctx.extractLsb' 8 4).toNat
def ctxFold (ctx : BitVec 13) : Bool := ctx.getLsbD 12

/-- Everything that the effect of a tile instruction depends on. -/
structure TileJob where
  /-- The major opcode, 0x40 to 0x49. -/
  op : Nat
  form : TForm
  ctx : BitVec 13
  lut : Assoc Word
  mask : MaskPair
  /-- D's format and shape. -/
  fmt : Nat
  rows : Nat
  cols : Nat
  /-- K of a product. -/
  k : Nat := 0
  /-- The grids of A and B; for a sparse A the grid gives the place and base only. -/
  a : Option Grid := none
  b : Option Grid := none
  deriving DecidableEq, Repr

def TileJob.sat (j : TileJob) : Bool := j.form.sat == 1
def TileJob.rnd (j : TileJob) : Nat := j.form.rnd.toNat
def TileJob.tfn (j : TileJob) : Nat := j.form.tfn.toNat
def TileJob.nsp (j : TileJob) : Nat := (j.form.imm.extractLsb' 4 2).toNat
def TileJob.sparse (j : TileJob) : Bool := decide (j.op = 0x41)
def TileJob.isProduct (j : TileJob) : Bool := decide (j.op = 0x40) || decide (j.op = 0x41)

/-- What an instruction reads: rows of A for a product, A itself otherwise, B (by columns for a product), and D. -/
structure TileInput where
  rows : List ARow := []
  a : Table := []
  b : Table := []
  old : Table := []
  deriving DecidableEq, Repr

def Elem.anyOf (x y : Elem) : Bool := x.poison || y.poison

/-- One element of a product. -/
def productCell (j : TileJob) (cls : MatClass) (row : ARow) (col : List Elem) (c : Elem) : Running × Bool :=
  let ts := pairUp row.live 0 col
  let out := (fmtFloat (ctxC j.ctx)).getD f32
  let r := match cls, j.tfn with
    | .int, 0 => sumInt j.lut (ctxA j.ctx) (ctxB j.ctx) j.sat ts c.bits
    | .int, _ => orAnd j.lut (ctxA j.ctx) (ctxB j.ctx) ts c.bits
    | .f64, 0 => (sumFused f64 j.sat ts c.bits).finish f64
    | .f32, 0 => (sumFused f32 j.sat ts c.bits).finish f32
    | _, 0 => (sumGroups j.sat (ctxFold j.ctx) ts c.bits).finish f32
    | _, n => (semiring out n j.sat ts c.bits).finish out
  (r, row.poison || c.poison || ts.any (fun t => t.2.1.anyOf t.2.2))

/-- Positions of a shape that a mask pair leaves active. -/
def activeIn (m : MaskPair) (rows cols : Nat) : List (Nat × Nat) :=
  (positions rows cols).filter (fun p => m.active p.1 p.2)

/-- A cell from a running result. -/
def Running.cell (r : Running) (i j : Nat) (poison : Bool) : Cell :=
  { w := { i := i, j := j, bits := r.bits, poison := poison }, flags := r.flags, events := [r.events], sel := r.sel }

def productCells (j : TileJob) (x : TileInput) : List Cell :=
  match matClass (ctxA j.ctx) (ctxB j.ctx) (ctxC j.ctx) with
  | none => []
  | some cls =>
    (activeIn j.mask j.rows j.cols).map (fun p =>
      let r := productCell j cls (x.rows.getD p.1 {}) (x.b.getD p.2 []) (x.old.at p.1 p.2)
      r.1.cell p.1 p.2 r.2)

/-! ## The other instructions (R213 to R219) -/

/-- A scale of TADD: (−1)^s · 2^−e. -/
def scaleVal (code : BitVec 4) (v : FVal) : FVal :=
  let s := code.getLsbD 3
  let e := (code.extractLsb' 0 3).toNat
  match v with
  | .nan q => .nan q
  | .inf n => .inf (n != s)
  | .fin n m x => .fin (n != s) m (x - e)

/-- A cell of an f32 result rounded once. -/
def f32Cell (j : TileJob) (i k : Nat) (x : Exact) (poison : Bool) : Cell :=
  let r := f32.convert j.rnd j.sat x
  { w := { i := i, j := k, bits := r.1, poison := poison }, flags := r.2.1, events := [r.2.2] }

def tactExact (tfn : Nat) : FVal → Exact :=
  match tfn with
  | 0 => reluExact
  | 1 => geluExact
  | 2 => sigmExact
  | 3 => expExact
  | _ => siluExact

/-- Elementwise results over the active elements of D. -/
def mapCells (j : TileJob) (x : TileInput) (g : FVal → FVal → Exact) : List Cell :=
  (activeIn j.mask j.rows j.cols).map (fun p =>
    let a := x.a.at p.1 p.2
    let b := x.b.at p.1 p.2
    f32Cell j p.1 p.2 (g a.val b.val) (a.anyOf b))

/-- TSMX: row by row over the active columns. -/
def softmaxCells (j : TileJob) (x : TileInput) : List Cell :=
  ((List.range j.rows).filter (fun i => j.mask.ky.getLsbD i)).flatMap (fun i =>
    let cols := (List.range j.cols).filter (fun k => j.mask.kx.getLsbD k)
    let es := cols.map (fun k => x.a.at i k)
    let poison := anyElemPoison es
    (cols.zip (softmaxExact (es.map Elem.val))).map (fun p => f32Cell j i p.1 p.2 poison))

/-- TTRN: bits moved across the diagonal. It raises no flag (R217); an element that is a NaN counts in MXC0 (R208). -/
def transposeCells (j : TileJob) (x : TileInput) : List Cell :=
  (activeIn j.mask j.rows j.cols).map (fun p =>
    let a := x.a.at p.2 p.1
    { w := { i := p.1, j := p.2, bits := a.bits, poison := a.poison }, events := [{ nan := a.val.isNaN }] })

/-- A maximum, which a NaN makes a NaN. -/
def maxReduced (es : List Elem) : Nat × FlagBits :=
  if es.any (fun e => e.val.isNaN) then (f32.canonicalNaN, if es.any (fun e => e.val.isSignalling) then flagNV else 0)
  else
    match es with
    | [] => (f32.infinity true, 0)
    | e :: rest => ((rest.foldl (fun b y => if y.val.strictly b.val true then y else b) e).bits, 0)

/-- TRED: D's element i comes from row or column i of A. -/
def reduceCells (j : TileJob) (x : TileInput) : List Cell :=
  let byRow := j.tfn % 2 == 0
  let n := if byRow then j.rows else j.cols
  let outer := if byRow then j.mask.ky else j.mask.kx
  let inner := if byRow then j.mask.kx else j.mask.ky
  let lines := if byRow then x.a else x.a.columns n
  ((List.range n).filter (fun i => outer.getLsbD i)).map (fun i =>
    let es := ((lines.getD i []).mapIdx (fun k e => (k, e))).filter (fun e => inner.getLsbD e.1) |>.map Prod.snd
    let poison := anyElemPoison es
    let c := if j.tfn < 2 then f32Cell j 0 0 (sumResult (sumExact j.rnd (es.map (fun e => e.val.exact)))) poison
      else
        let r := maxReduced es
        { w := { i := 0, j := 0, bits := r.1, poison := poison }, flags := r.2,
          events := [{ nan := (f32.decode r.1).isNaN }] }
    { c with w := { c.w with i := if byRow then i else 0, j := if byRow then 0 else i } })

/-! ## TCVT (R164, R165, R218) -/

/-- The sign of an entry of H: the parity of the bits that two indices share. -/
def hadamardNeg (i j : Nat) : Bool := oneBits (BitVec.ofNat 32 (i &&& j)) 6 % 2 == 1

/-- 2⁻² · H · x over consecutive blocks of n. -/
def hadamard (n rnd : Nat) (xs : List Exact) : List Exact :=
  (List.range xs.length).map (fun t =>
    let block := (xs.drop (t / n * n)).take n
    let terms := block.mapIdx (fun j x =>
      if hadamardNeg (t % n) j then (match x with
        | .nan s => Exact.nan s
        | .inf g => .inf (!g)
        | .divZero g => .inf (!g)
        | .fin g m e s => .fin (!g) m e s) else x)
    (sumResult (sumExact rnd terms)).half.half)

/-- The values of A after the transform, row by row, each with its poison. -/
def transformed (j : TileJob) (a : Table) : List (List (Exact × Bool)) :=
  let n := match j.form.had.toNat with
    | 0 => 1 | 1 => 16 | _ => 32
  let line := fun (es : List Elem) =>
    if n = 1 then es.map (fun e => (e.val.exact, e.poison))
    else
      (hadamard n j.rnd (es.map (fun e => e.val.exact))).mapIdx (fun t y =>
        (y, anyElemPoison ((es.drop (t / n * n)).take n)))
  if j.form.imm.getLsbD 0 && n != 1 then
    let cols := (a.columns j.cols).map line
    (List.range j.rows).map (fun i => cols.map (fun c => c.getD i (.fin false 0 0 false, false)))
  else a.map line

def convertCells (j : TileJob) (x : TileInput) : List Cell :=
  let t := transformed j x.a
  if j.fmt = fmtPx8 then
    (List.range j.rows).flatMap (fun i =>
      let row := t.getD i []
      let blocks := px8Row j.rnd (row.map Prod.fst) ((j.cols + 31) / 32)
      blocks.mapIdx (fun b r =>
        let poison := ((row.drop (32 * b)).take 32).any Prod.snd
        { w := { i := i, j := 32 * b, bits := r.1, poison := poison },
          flags := r.2.foldl (fun fl p => fl ||| p.flags) 0, events := r.2.map PxElem.events }))
  else
    (activeIn j.mask j.rows j.cols).map (fun p =>
      let e := (t.getD p.1 []).getD p.2 (.fin false 0 0 false, false)
      let r := convertElement j.fmt j.rnd j.sat e.1
      { w := { i := p.1, j := p.2, bits := r.1, poison := e.2 }, flags := r.2.1, events := [r.2.2] })

def zeroCells (j : TileJob) : List Cell :=
  (activeIn j.mask j.rows j.cols).map (fun p => { w := { i := p.1, j := p.2, bits := 0, poison := false } })

/-- The cells that an instruction writes. -/
def TileJob.cells (j : TileJob) (x : TileInput) : List Cell :=
  match j.op with
  | 0x40 => productCells j x
  | 0x41 => productCells j x
  | 0x42 => mapCells j x (fun a b =>
      addExact j.rnd (scaleVal (j.form.imm.extractLsb' 0 4) a) (scaleVal (j.form.imm.extractLsb' 4 4) b))
  | 0x43 => mapCells j x mulExact
  | 0x44 => mapCells j x (fun a _ => tactExact j.tfn a)
  | 0x45 => transposeCells j x
  | 0x46 => reduceCells j x
  | 0x47 => convertCells j x
  | 0x48 => softmaxCells j x
  | _ => zeroCells j

/-! ## Flags, counts and cycles (R208, R209) -/

/-- Cells that count: those that are not poisoned. -/
def cellFlags (cs : List Cell) : FlagBits :=
  cs.foldl (fun fl c => if c.w.poison then fl else fl ||| c.flags) 0

def countEvents (cs : List Cell) (p : Events → Bool) : Nat :=
  cs.foldl (fun n c => if c.w.poison then n else n + (c.events.filter p).length) 0

/-- Additions to MXC0 to MXC3. -/
def cellCounts (cs : List Cell) : Assoc Nat :=
  [(0, countEvents cs Events.nan), (1, countEvents cs Events.sat), (2, countEvents cs Events.flushed),
    (3, countEvents cs Events.inexact)].filter (fun e => e.2 != 0)

/-- The throughput factor of TMMS. -/
def sparseFactor (nsp : Nat) : Nat := if nsp = 0 then 2 else 3

def ceilDiv (a b : Nat) : Nat := (a + b - 1) / b

/-- The occupancy of an instruction. -/
def TileJob.occupancy (j : TileJob) : Nat :=
  if j.isProduct then
    match matClass (ctxA j.ctx) (ctxB j.ctx) (ctxC j.ctx) with
    | some cls => max 1 (ceilDiv (j.rows * j.cols * j.k) (576 * cls.rate * (if j.sparse then sparseFactor j.nsp else 1)))
    | none => 1
  else
    let size := match j.op, j.a with
      | 0x46, some g => g.rows * g.cols
      | _, _ => j.rows * j.cols
    max 1 (ceilDiv size 576) * (if (j.op = 0x44 && j.tfn != 0) || j.op = 0x48 then 4 else 1)

end Sys2Proof.Machine
end

