-- ==== Sys2Proof/Machine/Record.lean ====
section
/-! DEFINITION. Record mode (R240, R242 to R246): the record that a tile instruction writes at its grant. -/

namespace Sys2Proof.Machine

/-! ## Descriptors (R240) -/

/-- The 48 bits of a view register with OWED clear (R30). -/
def View.pack (v : View) : BitVec 48 := v.fmt ++ v.cols1 ++ v.rows1 ++ v.stride ++ v.off

def unpackView (w : DWord) : View :=
  { fmt := w.extractLsb' 44 4, cols1 := w.extractLsb' 38 6, rows1 := w.extractLsb' 32 6, stride := w.extractLsb' 16 16,
    off := w.extractLsb' 0 16 }

/-- The descriptor of an operand: 0 for none. -/
def Slot.descriptor (sl : Slot) (code : Code) : DWord :=
  if code = 0 then 0
  else if code.isView then ((0 : BitVec 1) ++ code) ++ (0 : BitVec 8) ++ (sl.view code).pack
  else ((0 : BitVec 1) ++ code) ++ (0 : BitVec 50) ++ BitVec.ofNat 6 (sl.ring (ringNumber code)).h

/-- The newest of the sixteen newest records that wrote an operand's place (R245). -/
def Slot.link (sl : Slot) (desc : DWord) : Word :=
  if desc = 0 then 0xFFFFFFFF
  else
    match sl.recent.reverse.find? (fun r => r.descD == desc) with
    | some r => r.off
    | none => 0xFFFFFFFF

/-! ## What the adjoint needs (R244, R251) -/

/-- Whether the adjoint needs A, and B. -/
def needs (op tfn : Nat) : Bool × Bool :=
  match op with
  | 0x40 => let n := tfn == 0 || tfn == 3; (n, n)
  | 0x41 => let n := tfn == 0 || tfn == 3; (n, n)
  | 0x43 => (true, true)
  | 0x44 => (true, false)
  | 0x46 => (decide (2 ≤ tfn), false)
  | 0x48 => (true, false)
  | _ => (false, false)

/-- The record ends with a selection block (R242). -/
def TileJob.selects (j : TileJob) : Bool := j.isProduct && decide (1 ≤ j.tfn) && decide (j.tfn ≤ 3)

/-! ## Payloads -/

/-- Bytes of a memory with their poison. -/
def Mem.taintedBytes (m : Mem) (a n : Nat) : List (Byte × Bool) :=
  (m.bytes a n).mapIdx (fun i b => (b, m.poisonAt (a + i)))

/-- The rows of a grid, packed (R244). -/
def gridBytes (m : Mem) (g : Grid) : List (Byte × Bool) :=
  (List.range g.rows).flatMap (fun i =>
    (m.slice (g.base + i * g.stride) (rowBytes g.fmt g.cols)).taintedBytes (g.base + i * g.stride) (rowBytes g.fmt g.cols))

/-- The bytes of a row of a sparse A. -/
def TileJob.sparseRowBytes (j : TileJob) : Nat := j.k / 24 * groupBytes (ctxA j.ctx) j.nsp

/-- The bytes of A, or of B, as a payload. -/
def State.payload (s : State) (j : TileJob) (g : Option Grid) (isA : Bool) : List (Byte × Bool) :=
  match g with
  | none => []
  | some g =>
    let m := s.memAt g.place
    if isA && j.sparse then m.taintedBytes g.base (j.rows * j.sparseRowBytes) else gridBytes m g

def clean (bs : List Byte) : List (Byte × Bool) := bs.map (fun b => (b, false))

/-- A list of bytes padded with zeros to a multiple of 64. -/
def pad64 (bs : List (Byte × Bool)) : List (Byte × Bool) := bs ++ List.replicate ((64 - bs.length % 64) % 64) (0, false)

/-- Bytes cut into sectors of 64, each with whether it holds poison; the number of sectors is given. -/
def sectorsOf (bs : List (Byte × Bool)) : Nat → List (List Byte × Bool)
  | 0 => []
  | n + 1 => ((bs.take 64).map Prod.fst, (bs.take 64).any Prod.snd) :: sectorsOf (bs.drop 64) n

/-- Neighbouring sectors that are alike, joined. -/
def mergeRuns : List (List Byte × Bool) → List (List Byte × Bool)
  | [] => []
  | x :: rest =>
    match mergeRuns rest with
    | y :: ys => if x.2 = y.2 then (x.1 ++ y.1, x.2) :: ys else x :: y :: ys
    | [] => [x]

def runsOf (bs : List (Byte × Bool)) : List (List Byte × Bool) := mergeRuns (sectorsOf bs (bs.length / 64))

/-- The record of a job, without its selection block: its bytes, and how many bytes the selection block takes. -/
structure RecordPlan where
  bytes : List (Byte × Bool)
  selLen : Nat
  pieces : List Piece
  deriving DecidableEq, Repr

/-- Whether a job is recorded (R242). -/
def Slot.records (sl : Slot) (f : TForm) : Bool :=
  sl.trcEn && !sl.trcSusp && f.noRec == 0 && decide (sl.mode = .task)

def word32 (w : Word) : List Byte := bytesOfWord 4 w.toNat
def word64 (w : DWord) : List Byte := bytesOfWord 8 w.toNat

/-- The 64 header bytes. -/
def recordHeader (sl : Slot) (iw : DWord) (mask : Bool) (descs : DWord × DWord × DWord) (pla plb len : Nat) : List Byte :=
  word64 iw ++ word32 sl.pc ++ word32 ((0 : BitVec 18) ++ BitVec.ofBool mask ++ sl.tfmt)
    ++ word64 descs.1 ++ word64 descs.2.1 ++ word64 descs.2.2 ++ bytesOfWord 4 pla ++ bytesOfWord 4 plb
    ++ word32 (sl.link descs.2.1) ++ word32 (sl.link descs.2.2) ++ bytesOfWord 4 len ++ word32 sl.trcur

/-- Pieces of 32 bytes of a range of global memory, each translated for writing; the first that fails traps. -/
def writeTargets (addr : Nat) : Nat → Act (List Piece)
  | 0 => pure []
  | n + 1 => do
    let t ← translateMe (addr % 2 ^ 64) true
    let rest ← writeTargets (addr + 32) n
    return piecesOf t.1 t.2 32 ++ rest

/-- Step 8 of R204: the save codes, the room in the log, and the pages (R246). -/
def planRecord (j : TileJob) (iw : DWord) : Act (Option RecordPlan) := do
  let s ← Act.state
  let sl := s.me
  let f := j.form
  if !sl.records f then return none
  else do
    let n := needs j.op j.tfn
    tformatIf (n.1 && f.savA == 3) f.a 0x020C
    tformatIf (n.2 && f.savB == 3) f.b 0x020C
    let pa := if n.1 && f.savA == 0 then s.payload j j.a true else []
    let pb := if n.2 && f.savB == 0 then s.payload j j.b false else []
    let mask := f.k != 0
    let maskBlock := if mask then clean (word64 j.mask.ky ++ word64 j.mask.kx ++ List.replicate 48 0) else []
    let body := maskBlock ++ pad64 pa ++ pad64 pb
    let sel := if j.selects then (j.rows * j.cols + 63) / 64 * 64 else 0
    let len := 64 + body.length + sel
    Act.trapIf (decide (sl.tllim.toNat < sl.tltail.toNat + len)) .logfull (BitVec.ofNat 64 len)
      (sl.tltail.zeroExtend 64)
    let ps ← writeTargets (sl.tlbase.toNat + sl.tltail.toNat) (len / 32)
    let descs := (sl.descriptor f.d, sl.descriptor f.a, sl.descriptor f.b)
    return some { bytes := clean (recordHeader sl iw mask descs pa.length pb.length len) ++ body, selLen := sel, pieces := ps }

/-- Take pieces that hold n bytes. -/
def takePieces (n : Nat) : List Piece → List Piece
  | [] => []
  | p :: rest => if n = 0 then [] else p :: takePieces (n - p.len) rest

def dropPieces (n : Nat) : List Piece → List Piece
  | [] => []
  | p :: rest => if n = 0 then p :: rest else dropPieces (n - p.len) rest

/-- Stores of runs of sectors to pieces; those of a selection block are not performed before a cycle. -/
def storeRuns (lands : Option Nat) : List Piece → List (List Byte × Bool) → Act Unit
  | _, [] => pure ()
  | ps, x :: rest => do
    let id ← Act.fresh
    let acc : Acc := { id := id, kind := .store, pieces := takePieces x.1.length ps, data := x.1, poison := x.2 }
    match lands with
    | none => startStore acc
    | some c => do
      pushAcc acc
      Act.schedule c .storePerformed [(← Act.state).cur, id]
    storeRuns lands (dropPieces x.1.length ps) rest

/-- The record is written as plain stores of the slot (R243): the selection block when the results land. Poison goes
with the bytes. -/
def writeRecord (plan : RecordPlan) (descD : DWord) (sel : List (Byte × Bool)) (lands : Nat) : Act Unit := do
  storeRuns none plan.pieces (runsOf plan.bytes)
  if plan.selLen != 0 then
    storeRuns (some lands) (dropPieces plan.bytes.length plan.pieces) (runsOf (pad64 sel))
  Act.modMe (fun sl =>
    let recent := sl.recent ++ [{ off := sl.tltail, descD := descD }]
    { sl.setTrcur sl.tltail with
              tltail := sl.tltail + BitVec.ofNat 32 (plan.bytes.length + plan.selLen)
              recent := recent.drop (recent.length - 16) })

end Sys2Proof.Machine
end

