-- ==== Sys2Proof/Machine/Tile.lean ====
section
/-! DEFINITION. The tile instructions (R195 to R220): their checks up to the grant, what a grant does, the landing of
their results, and TFMT. The arbiter that grants stands in Grant.lean. -/

namespace Sys2Proof.Machine

/-! ## Checks up to the grant (R204, R205) -/

/-- Whether an instruction uses A, uses B, and reads D. -/
def tileUses (op : Nat) : Bool × Bool × Bool :=
  if op = 0x40 || op = 0x41 then (true, true, true)
  else if op = 0x42 || op = 0x43 then (true, true, false)
  else (decide (op ≠ 0x49), false, false)

/-- The operands of an instruction that are sources, with the EP bit of each, in the order A, B, D. -/
def tileSources (op : Nat) (f : TForm) : List Src :=
  let u := tileUses op
  let src := fun (use : Bool) (code : Code) (bit : Nat) =>
    if use && code.isView then [{ code := code, ep := bitSet f.ep bit : Src }] else []
  src u.1 f.a 0 ++ src u.2.1 f.b 1 ++ src u.2.2 f.d 2

/-- The ring operands of an instruction, with the EP bit of each. -/
def tileRings (op : Nat) (f : TForm) : List (Code × Bool) :=
  let u := tileUses op
  let ring := fun (use : Bool) (code : Code) (bit : Nat) => if use && code.isRing then [(code, bitSet f.ep bit)] else []
  ring u.1 f.a 0 ++ ring u.2.1 f.b 1

/-- Check 1: an own ring that is configured. -/
def checkTileRings : List (Code × Bool) → Act Unit
  | [] => pure ()
  | x :: rest => do
    let r := (← Act.me).ring (ringNumber x.1)
    Act.trapIf (!r.configured || r.link) .handle x.1.toNat 0x08
    checkTileRings rest

/-- A view operand has a given format. -/
def needFormat (code : Code) (fmt : Nat) : Act Unit := do
  let sl ← Act.me
  tformatIf (code.isView && (sl.view code).format != fmt) code 0x0202

/-- A view operand has a given shape. -/
def needShape (code : Code) (rows cols : Nat) : Act Unit := do
  let v := (← Act.me).view code
  tformatIf (code.isView && !(v.rows == rows && v.cols == cols)) code 0x0203

/-- A formats that TMMS takes (R199). -/
def sparseFormat (fmt : Nat) : Bool := fmt == 2 || fmt == 3 || fmt == 4 || fmt == 6 || fmt == 9

/-- Check 2 for a product (R199, R166, R212). -/
def productFormats (op : Nat) (f : TForm) : Act MatClass := do
  let ctx := (← Act.me).tfmt
  match matClass (ctxA ctx) (ctxB ctx) (ctxC ctx) with
  | none => tformat f.d 0x0201
  | some cls => do
    tformatIf (op == 0x41 && !sparseFormat (ctxA ctx)) f.d 0x0201
    needFormat f.d (ctxC ctx)
    needFormat f.a (ctxA ctx)
    needFormat f.b (ctxB ctx)
    tformatIf (ctxFold ctx && (cls == .f64 || cls == .f32)) f.d 0x0207
    tformatIf (f.tfn != 0 && (f.tfn == 4) != (cls == .int)) f.d 0x020A
    return cls

/-- Check 3 for a product (R200): answers K. -/
def productShapes (op : Nat) (f : TForm) (cls : MatClass) : Act Nat := do
  let v := (← Act.me).view f.d
  tformatIf (!((v.rows == 24 || v.rows == 48) && (v.cols == 24 || v.cols == 48))) f.d 0x0203
  let kq := (f.imm.extractLsb' 0 4).toNat
  let k := if kq = 0 then cls.largestK else 24 * kq
  tformatIf (decide (cls.largestK < k)) f.d 0x0204
  if op = 0x40 then needShape f.a v.rows k
  needShape f.b k v.cols
  tformatIf (op == 0x41 && f.a.isView) f.a 0x0209
  return k

/-- Check 2 for the other instructions (R201, R217 to R219). -/
def otherFormats (op : Nat) (f : TForm) : Act Unit := do
  let sl ← Act.me
  let d := (sl.view f.d).format
  let a := (sl.view f.a).format
  let floating := fun (fmt : Nat) => (fmtFloat fmt).isSome || fmt == fmtPx8
  if op = 0x45 then
    tformatIf (a == fmtPx8 || a == fmtQ4) f.a 0x0201
    needFormat f.d a
  else if op = 0x47 then
    tformatIf (f.had != 0 && !floating d) f.d 0x0201
    tformatIf (f.had != 0 && !floating a) f.a 0x0201
    tformatIf (d == fmtQ4 || ((f.had != 0 || d == fmtPx8) && f.k != 0)) f.d 0x020B
  else if op = 0x49 then tformatIf (d == fmtPx8 || d == fmtQ4) f.d 0x0201
  else
    needFormat f.d fmtF32
    needFormat f.a fmtF32
    needFormat f.b fmtF32

/-- Check 3 for the other instructions: answers the shape of A. -/
def otherShapes (op : Nat) (f : TForm) : Act (Nat × Nat) := do
  let sl ← Act.me
  let d := sl.view f.d
  let a := sl.view f.a
  if op = 0x45 then
    needShape f.d a.cols a.rows
    return (a.rows, a.cols)
  else if op = 0x46 then
    let byRow := f.tfn == 0 || f.tfn == 2
    tformatIf (if byRow then d.cols != 1 else d.rows != 1) f.d 0x0203
    if f.a.isView then
      tformatIf (if byRow then a.rows != d.rows else a.cols != d.cols) f.a 0x0203
      return (a.rows, a.cols)
    else
      let n := (f.imm.extractLsb' 0 6).toNat + 1
      return if byRow then (d.rows, n) else (n, d.cols)
  else
    if op ≠ 0x49 then
      needShape f.a d.rows d.cols
      needShape f.b d.rows d.cols
    let n := if f.had = 1 then 16 else 32
    tformatIf (op == 0x47 && f.had != 0 && (if f.imm.getLsbD 0 then d.rows else d.cols) % n != 0) f.a 0x0206
    return (d.rows, d.cols)

/-- A tile in the head slot of a ring of the running slot, as a grid. -/
def State.ringGrid (s : State) (code : Code) (fmt rows cols stride : Nat) : Grid :=
  let r := s.me.ring (ringNumber code)
  { place := .scratchpad s.myCore, fmt := fmt, rows := rows, cols := cols, base := r.base + r.h * r.slotBytes,
    stride := stride }

/-- The grid of an operand: its view, or the tile in its ring's head slot. -/
def State.tileGrid (s : State) (code : Code) (fmt rows cols stride : Nat) : Grid :=
  if code.isView then s.grid code else s.ringGrid code fmt rows cols stride

/-- Checks 2 and 3, and what they find. -/
def tileShapes (op : Nat) (f : TForm) : Act TileJob := do
  let sl ← Act.me
  let d := sl.view f.d
  let job : TileJob := { op := op, form := f, ctx := sl.tfmt, lut := sl.lut, mask := sl.mask f.k.toNat, fmt := d.format,
                         rows := d.rows, cols := d.cols }
  if job.isProduct then
    let cls ← productFormats op f
    let k ← productShapes op f cls
    let s ← Act.state
    let job := { job with k := k }
    let a := ctxA job.ctx
    let b := ctxB job.ctx
    return { job with
      a := some (s.tileGrid f.a a d.rows k (if job.sparse then job.sparseRowBytes else rowBytes a k))
      b := some (s.tileGrid f.b b d.cols k (rowBytes b k)) }
  else
    otherFormats op f
    let shape ← otherShapes op f
    let s ← Act.state
    let grid := fun (use : Bool) (code : Code) =>
      if use then some (s.tileGrid code fmtF32 shape.1 shape.2 (4 * shape.2)) else none
    return { job with a := grid (tileUses op).1 f.a, b := grid (tileUses op).2.1 f.b }

/-- Check 4: the bytes of the tile that each ring operand must hold. -/
def checkSlotBytes (j : TileJob) : Act Unit := do
  let sl ← Act.me
  let small := fun (code : Code) (g : Option Grid) =>
    code.isRing && (match g with
      | some g => decide ((sl.ring (ringNumber code)).slotBytes < g.rows * g.stride)
      | none => false)
  tformatIf (small j.form.a j.a) j.form.a 0x0205
  tformatIf (small j.form.b j.b) j.form.b 0x0205

/-- Check 5 for one ring operand (R148): its head slot is FULL. -/
def checkHead (x : Code × Bool) : Act Unit := do
  let s ← Act.state
  let r := s.me.ring (ringNumber x.1)
  let e := s.entry r.headEntry
  Act.trapIf (decide (r.res ≠ 0) && (r.slotAt r.h).broken) .handle x.1.toNat 0x03
  if r.res = 0 || e.state = .open || e.settled == some s.cycle then
    if x.2 then Act.trap .empty x.1.toNat 0 else Act.park { xval := x.1.toNat, reason := 0x05 }
  else Act.trapIf (e.state == .abandoned) .abandon x.1.toNat (s.abandonCode r.headEntry)

/-- Check 5: ring A is settled before ring B is looked at, so that A parks, where its slot is OPEN, though B would trap
EMPTY under its EP bit (DESIGN CHOICE, assumption 76). -/
def checkHeads : List (Code × Bool) → Act Unit
  | [] => pure ()
  | x :: rest => do
    checkHead x
    checkHeads rest

/-- Every check up to the grant: steps 4 and 5 of R52, and checks 1 to 6 of R204. -/
def tilePrep (op : Nat) (f : TForm) : Act TileJob := do
  check (tileSources op f) [{ code := f.d }]
  let s ← Act.state
  Act.parkIf (s.maskPending s.cur f.k.toNat) (waitUnit 0)
  checkTileRings (tileRings op f)
  let j ← tileShapes op f
  checkSlotBytes j
  checkHeads (tileRings op f)
  Act.parkIf (decide (8 ≤ s.owedCount s.cur)) (waitUnit 0)
  return j

/-! ## The effect of a grant (R196, R197, R206 to R208, R211 to R219) -/

/-- The elements that a job reads; D as it stands in its view. -/
def State.tileInput (s : State) (j : TileJob) (d : Grid) : TileInput :=
  let table := fun (g : Option Grid) => (g.map (fun g => gridTable (s.memAt g.place) j.lut g)).getD []
  let a := if j.sparse then [] else table j.a
  let rows := if j.sparse then
      (match j.a with
       | some g => (List.range j.rows).map (fun i =>
           sparseRow (s.memAt g.place) j.lut g.fmt j.nsp (j.k / 24) (g.base + i * g.stride))
       | none => [])
    else if j.isProduct then a.map denseRow else []
  let b := table j.b
  { rows := rows, a := a, b := if j.isProduct && j.form.b.isView then b.columns j.cols else b,
    old := if j.isProduct then table (some d) else [] }

/-- The unit reads a view source: its span is held until it has read the last byte. -/
def holdView (occ : Nat) (code : Code) : Act Unit := do
  let d ← Act.draw
  let id ← Act.fresh
  let s ← Act.state
  let v := s.me.view code
  Act.modify (fun s => { s with spans := s.spans ++ [{ id := id, slot := s.cur, core := s.myCore, window := s.me.window,
                                                       lo := v.lo, hi := v.hi, held := true }] })
  Act.schedule (s.cycle + Config.delay d % occ) .heldSpanRelease [s.cur, id]

def holdViews (occ : Nat) : List Code → Act Unit
  | [] => pure ()
  | code :: rest => do
    holdView occ code
    holdViews occ rest

/-- The unit reads the head slot of a ring: the slot is not free before it has read the last byte. -/
def readRing (occ q : Nat) : Act Unit := do
  let d ← Act.draw
  let s ← Act.state
  let h := (s.me.ring q).h
  Act.modify (fun s => s.modRingSlot s.cur q h (fun x => { x with readers := x.readers + 1 }))
  Act.schedule (s.cycle + Config.delay d % occ) .ringSlotFrees [s.cur, q, h]

def readRings (occ : Nat) : List Nat → Act Unit
  | [] => pure ()
  | q :: rest => do
    readRing occ q
    readRings occ rest

/-- The rings that an instruction pops: one ring named twice is popped once (R148). -/
def TileJob.pops (j : TileJob) : List Nat :=
  let pop := fun (bit : BitVec 1) (code : Code) => if bit = 1 then [ringNumber code] else []
  (pop j.form.popA j.form.a ++ pop j.form.popB j.form.b).eraseDups

/-- Pop the head slot of a ring and drop the ring's see handle. -/
def State.popAndDrop (s : State) (k q : Nat) : State :=
  let e := ((s.slot k).ring q).headEntry
  (s.popRing k q).dropSee e

/-- The selection bytes of a job's record, in row-major order (R252), each with the poison of its element. -/
def TileJob.selection (j : TileJob) (cs : List Cell) : List (Byte × Bool) :=
  (positions j.rows j.cols).map (fun p =>
    match cs.find? (fun c => c.w.i == p.1 && c.w.j == p.2) with
    | some c => (BitVec.ofNat 8 c.sel, c.w.poison)
    | none => (0xFF, false))

/-- What the results of a job's cells are, for the arena of the running slot's core. -/
def State.tileResult (s : State) (j : TileJob) (id : Nat) (cs : List Cell) : Result :=
  let d := s.grid j.form.d
  let ws := cs.map Cell.w
  { id := id, slot := s.cur, core := s.myCore, writes := gridWrites (s.memAt d.place) d ws, poisoned := gridPoison d ws,
    flags := cellFlags cs, counts := cellCounts cs }

/-- A granted instruction issues: everything that happens in cycle g. -/
def runTile (j : TileJob) (plan : Option RecordPlan) : Act Unit := do
  let s ← Act.state
  let f := j.form
  let cs := j.cells (s.tileInput j (s.grid f.d))
  let occ := j.occupancy
  let lands := s.cycle + occ + 10
  let descD := s.me.descriptor f.d
  let id ← Act.fresh
  oweView id f.d
  Act.modify (fun s => { s with results := s.results ++ [{ s.tileResult j id cs with selects := plan.isSome && j.selects }] })
  Act.schedule lands .tileResultsLand [s.cur, id]
  holdViews occ (((tileSources j.op f).map Src.code).filter (fun c => c == f.a || c == f.b)).eraseDups
  readRings occ ((tileRings j.op f).map (fun x => ringNumber x.1)).eraseDups
  match plan with
  | some p => writeRecord p descD (j.selection cs) lands
  | none => pure ()
  Act.modify (fun s => j.pops.foldl (fun s q => s.popAndDrop s.cur q) s)
  Act.modify (fun s => s.modCluster (clusterOfCore s.myCore) (fun c => { c with matrixBusy := s.cycle + occ }))

/-- A record whose pages wait for the host holds the request back: the unit is not asked for meanwhile. -/
def recordParks (j : TileJob) (iw : DWord) : Act Unit := fun s =>
  match planRecord j iw s with
  | .error (.park w) => .error (.park w)
  | _ => .ok ((), s)

/-- A tile instruction: without a grant it posts its request and parks (R195); with one it issues. -/
def tile (op : Nat) (f : TForm) (iw : DWord) : Act Unit := do
  let j ← tilePrep op f
  recordParks j iw
  let sl ← Act.me
  if sl.granted then
    let plan ← planRecord j iw
    runTile j plan
  else
    Act.modify (fun s => s.setMe { s.me with request := some (s.me.request.getD s.cycle) })
    Act.wait (waitUnit 0)

def execTmma (f : TForm) (s : State) : Outcome := issue (.tmma f) (tile 0x40 f (wordOf (.tmma f))) s
def execTmms (f : TForm) (s : State) : Outcome := issue (.tmms f) (tile 0x41 f (wordOf (.tmms f))) s
def execTadd (f : TForm) (s : State) : Outcome := issue (.tadd f) (tile 0x42 f (wordOf (.tadd f))) s
def execTemul (f : TForm) (s : State) : Outcome := issue (.temul f) (tile 0x43 f (wordOf (.temul f))) s
def execTact (f : TForm) (s : State) : Outcome := issue (.tact f) (tile 0x44 f (wordOf (.tact f))) s
def execTtrn (f : TForm) (s : State) : Outcome := issue (.ttrn f) (tile 0x45 f (wordOf (.ttrn f))) s
def execTred (f : TForm) (s : State) : Outcome := issue (.tred f) (tile 0x46 f (wordOf (.tred f))) s
def execTcvt (f : TForm) (s : State) : Outcome := issue (.tcvt f) (tile 0x47 f (wordOf (.tcvt f))) s
def execTsmx (f : TForm) (s : State) : Outcome := issue (.tsmx f) (tile 0x48 f (wordOf (.tsmx f))) s
def execTzero (f : TForm) (s : State) : Outcome := issue (.tzero f) (tile 0x49 f (wordOf (.tzero f))) s

/-- Results, flags and counts land together (R196). -/
def execTileResultsLand (s : State) : Outcome :=
  .next (match s.subject with
    | [k, id] => s.landResult k id
    | _ => s)

/-- The unit has read the last byte of its view sources (R206). -/
def execHeldSpanRelease (s : State) : Outcome :=
  .next (match s.subject with
    | [_, id] => { s with spans := s.spans.filter (fun x => !(x.held && x.id == id)) }
    | _ => s)

/-! ## TFMT (R198) -/

def execTfmt (f : RForm) (s : State) : Outcome :=
  issue (.tfmt f) (do
    check [f.srcA] (if f.d = 0 then [] else [f.dst])
    let a ← rd f.a
    Act.trapIf a.poison .poison f.a.toNat 0
    let bad := a.w.extractLsb' 13 19 != 0 || decide (0xD ≤ (a.w.extractLsb' 0 4).toNat)
      || decide (0xD ≤ (a.w.extractLsb' 4 4).toNat) || decide (0xD ≤ (a.w.extractLsb' 8 4).toNat)
    tformatIf bad f.a 0x0201
    let old := (← Act.me).tfmt
    Act.modMe (fun sl => { sl with tfmt := a.w.extractLsb' 0 13 })
    wr f.d { w := old.zeroExtend 32 }) s

end Sys2Proof.Machine
end

