-- ==== Sys2Proof/Machine/Adjoint.lean ====
section
/-! DEFINITION. The adjoint table (R249, R251): what the adjoint of each tile instruction adds to the gradients of its
sources, as exact shares of single gradient elements. Nothing here changes the state. -/

namespace Sys2Proof.Machine

/-- A share known exactly. -/
def Share.exact (r c : Nat) (x : Exact) (poison : Bool) : Share :=
  { r := r, c := c, lo := x.toVal, hi := x.toVal, invalid := x.invalid, poison := poison }

/-- The exact sum of terms, each with its poison. -/
def Share.sum (r c : Nat) (ts : List (Exact × Bool)) : Share :=
  let v := sumExact 0 (ts.map Prod.fst)
  { r := r, c := c, lo := v.1, hi := v.1, invalid := v.2, poison := ts.any Prod.snd }

/-- A real number strictly between two finite values, neither of which lies beyond a rounding boundary of the other. -/
def between (lo hi : FVal) : Exact :=
  match lo, hi with
  | .fin n1 m1 e1, .fin n2 m2 e2 =>
    let e := min e1 e2 - 8
    let a := scaled n1 m1 e1 e
    let b := scaled n2 m2 e2 e
    if 0 ≤ a && 0 ≤ b then .fin false (min a b).toNat e true
    else if a ≤ 0 && b ≤ 0 then .fin true (min (-a) (-b)).toNat e true
    else tinyExact (Config.hardRounding a.natAbs)
  | x, _ => x.exact

/-- The new value of a gradient element: old plus its share, rounded once (R249). -/
def Share.round (x : Share) (old : FVal) : Nat × FlagBits × Events :=
  let lo := addExact 0 old x.lo
  let hi := addExact 0 old x.hi
  let y := if x.lo = x.hi then lo else between lo.toVal hi.toVal
  f32.convert 0 false (match y with
    | .nan s => .nan (s || x.invalid)
    | y => y)

/-! ## TACT: slopes -/

/-- A number of units of 2^−640. -/
def fixedVal (v : Int) : FVal := .fin (decide (v < 0)) v.natAbs (-(workBits : Int))

/-- Bounds of σ(w) + x · σ(w) · (1 − σ(w)) · w′, for the sign and magnitude of x, and bounds of |w| and of w′. -/
def slopeBounds (neg : Bool) (x : Nat) (w w' : Nat × Nat) : FVal × FVal :=
  let s := sigmoidBounds neg w
  let t := sigmoidBounds (!neg) w
  let lo := x * s.1 / workOne * t.1 / workOne * w'.1 / workOne
  let hi := ((((x + 1) * s.2 / workOne + 1) * t.2 / workOne + 1) * w'.2 / workOne) + 1
  if neg then (fixedVal ((s.1 : Int) - hi), fixedVal ((s.2 : Int) - lo))
  else (fixedVal ((s.1 : Int) + lo), fixedVal ((s.2 : Int) + hi))

def halfVal : FVal := .fin false 1 (-1)
def zeroVal : FVal := .fin false 0 0

/-- The slope of silu or gelu: near its limit beyond a bound, where it lies above 1 and below 0. -/
def limitSlope (bound : Nat) (mid : Nat → Nat → Int → FVal × FVal) (neg : Bool) (m : Nat) (e : Int) : FVal × FVal :=
  if m = 0 then (halfVal, halfVal)
  else if exceeds m e bound then
    if neg then (.fin true 1 (-280), zeroVal) else (oneVal, .fin false (2 ^ 280 + 1) (-280))
  else mid (toFixed m e) m e

def siluSlope (neg : Bool) (m : Nat) (e : Int) : FVal × FVal :=
  limitSlope 200 (fun x _ _ => slopeBounds neg x (x, x + 1) (workOne, workOne)) neg m e

def geluSlope (neg : Bool) (m : Nat) (e : Int) : FVal × FVal :=
  limitSlope 20 (fun x m e =>
    let cube := toFixed (m * m * m) (3 * e)
    let p := x + cube * 44715 / 1000000
    let w := (p * geluScale.1 / workOne, (p + 3) * geluScale.2 / workOne + 1)
    let square := toFixed (m * m) (2 * e)
    slopeBounds neg x w
      (geluScale.1 * (workOne + square * 134145 / 1000000) / workOne,
        geluScale.2 * (workOne + (square + 2) * 134145 / 1000000 + 1) / workOne + 1)) neg m e

/-- Bounds of the slope of an activation at a value that is no NaN; none where relu gives no contribution. -/
def tactSlope (tfn rnd : Nat) (sat : Bool) (a : FVal) : Option (FVal × FVal) :=
  let limits := fun (f : Bool → Nat → Int → FVal × FVal) =>
    match a with
    | .fin n m e => some (f n m e)
    | .inf n => some (if n then (zeroVal, zeroVal) else (oneVal, oneVal))
    | .nan _ => none
  let y := fun (x : Exact) => f32.decode (f32.convert rnd sat x).1
  match tfn with
  | 0 => if a.isNeg || a.isZero then none else some (oneVal, oneVal)
  | 1 => limits geluSlope
  | 2 =>
    let v := y (sigmExact a)
    let d := (mulExact v (addExact 0 oneVal v.neg).toVal).toVal
    some (d, d)
  | 3 => let v := y (expExact a); some (v, v)
  | _ => limits siluSlope

/-- The share of an element of A under TACT. -/
def tactShare (j : TileJob) (i k : Nat) (d a : Elem) : List Share :=
  match a.val with
  | .nan s => [{ r := i, c := k, lo := .nan false, hi := .nan false, invalid := s || d.val.isSignalling, poison := d.anyOf a }]
  | v =>
    match tactSlope j.tfn j.rnd j.sat v with
    | none => []
    | some (lo, hi) =>
      -- an infinite gradient takes the sign of the slope
      let lo' := if lo.isZero && !d.val.exact.isNonzero then hi else lo
      let hi' := if hi.isZero && !d.val.exact.isNonzero then lo else hi
      let x := mulExact d.val lo'
      let y := mulExact d.val hi'
      [{ r := i, c := k, lo := x.toVal, hi := y.toVal, invalid := x.invalid || y.invalid, poison := d.anyOf a }]

/-! ## Shares of A and of B -/

/-- What the adjoint of a record works on: the job, the gradient of D, A by rows and as a table, B at (k, j), and the
selection bytes. -/
structure AdjointInput where
  job : TileJob
  d : Table
  arows : List ARow
  a : Table
  /-- B by columns for a product. -/
  b : Table
  sel : List Nat
  /-- The shape of A. -/
  aRows : Nat
  aCols : Nat
  deriving DecidableEq, Repr

/-- Elements of D that are active (R203, R216). -/
def TileJob.activeOut (j : TileJob) : List (Nat × Nat) :=
  if j.op = 0x46 then
    if j.tfn % 2 = 0 then ((List.range j.rows).filter (fun i => j.mask.ky.getLsbD i)).map (fun i => (i, 0))
    else ((List.range j.cols).filter (fun k => j.mask.kx.getLsbD k)).map (fun k => (0, k))
  else activeIn j.mask j.rows j.cols

def activeRows (j : TileJob) : List Nat := (List.range j.rows).filter (fun i => j.mask.ky.getLsbD i)
def activeCols (j : TileJob) : List Nat := (List.range j.cols).filter (fun k => j.mask.kx.getLsbD k)

def AdjointInput.bAt (x : AdjointInput) (k j : Nat) : Elem := x.b.at j k

/-- A(i, k), where a row of A has a value for k. -/
def AdjointInput.aAt (x : AdjointInput) (i k : Nat) : Option Elem :=
  ((x.arows.getD i {}).live.find? (fun e => e.1 == k)).map Prod.snd

/-- .pt: two contractions. -/
def contractShares (x : AdjointInput) : List Share × List Share :=
  let rows := activeRows x.job
  let cols := activeCols x.job
  let da := if cols.isEmpty then [] else
    rows.flatMap (fun i =>
      let row := x.arows.getD i {}
      row.live.map (fun e =>
        Share.sum i e.1 (cols.map (fun j =>
          let d := x.d.at i j
          let b := x.bAt e.1 j
          (mulExact d.val b.val, d.anyOf b || row.poison)))))
  let db := (List.range x.job.k).flatMap (fun k =>
    let col := rows.filterMap (fun i => (x.aAt i k).map (fun a => (i, a)))
    if col.isEmpty then [] else
      cols.map (fun j =>
        Share.sum k j (col.map (fun p =>
          let d := x.d.at p.1 j
          (mulExact p.2.val d.val, d.anyOf p.2 || (x.arows.getD p.1 {}).poison)))))
  (da, db)

/-- The selections of a record's active elements: row, column and k. -/
def AdjointInput.selected (x : AdjointInput) : List (Nat × Nat × Nat) :=
  (x.job.activeOut.map (fun p => (p.1, p.2, x.sel.getD (p.1 * x.job.cols + p.2) 0xFF))).filter
    (fun p => decide (p.2.2 < x.job.k))

/-- .mp, .xp and .xt: each active element's gradient goes to the term that won. -/
def routedShares (x : AdjointInput) : List Share × List Share :=
  let won := x.selected
  let term := fun (d other : Elem) => if x.job.tfn = 3 then (mulExact d.val other.val, d.anyOf other)
    else (d.val.exact, d.poison)
  let da := (activeRows x.job).flatMap (fun i =>
    let mine := won.filter (fun p => p.1 == i)
    ((mine.map (fun p => p.2.2)).eraseDups).map (fun k =>
      Share.sum i k ((mine.filter (fun p => p.2.2 == k)).map (fun p => term (x.d.at i p.2.1) (x.bAt k p.2.1)))))
  let db := (activeCols x.job).flatMap (fun j =>
    let mine := won.filter (fun p => p.2.1 == j)
    ((mine.map (fun p => p.2.2)).eraseDups).map (fun k =>
      Share.sum k j ((mine.filter (fun p => p.2.2 == k)).map (fun p =>
        term (x.d.at p.1 j) ((x.aAt p.1 k).getD {})))))
  (da, db)

/-- Shares of one operand, one per active element of D. -/
def mapShares (x : AdjointInput) (g : Nat → Nat → Elem → List Share) : List Share :=
  x.job.activeOut.flatMap (fun p => g p.1 p.2 (x.d.at p.1 p.2))

/-- TSMX: y ⊙ (dD − Σ dD ⊙ y), row by row. -/
def softmaxShares (x : AdjointInput) : List Share :=
  let ys := softmaxCells x.job { rows := [], a := x.a }
  (activeRows x.job).flatMap (fun i =>
    let row := ys.filter (fun c => c.w.i == i)
    let ts := row.map (fun c => (c.w.j, f32.decode c.w.bits, x.d.at i c.w.j))
    let poison := row.any (fun c => c.w.poison) || ts.any (fun t => t.2.2.poison)
    -- a signalling NaN of A, or an invalid step on the way to y, raises NV here too
    let invalid := row.any (fun c => c.flags &&& flagNV != 0)
    let total := sumExact 0 (ts.map (fun t => mulExact t.2.2.val t.2.1))
    ts.map (fun t =>
      let diff := addExact 0 t.2.2.val total.1.neg
      let v := mulExact t.2.1 diff.toVal
      { Share.exact i t.1 v poison with invalid := invalid || v.invalid || diff.invalid || total.2 }))

/-- TRED: a sum's gradient goes to every active element of its line, a maximum's to the first that holds it. -/
def reduceShares (x : AdjointInput) : List Share :=
  let j := x.job
  let byRow := j.tfn % 2 == 0
  mapShares x (fun p q d =>
    let n := if byRow then x.aCols else x.aRows
    let inner := if byRow then j.mask.kx else j.mask.ky
    let at_ := fun (t : Nat) => if byRow then (p, t) else (t, q)
    let live := (List.range n).filter (fun t => inner.getLsbD t)
    if j.tfn < 2 then live.map (fun t => Share.exact (at_ t).1 (at_ t).2 d.val.exact d.poison)
    else
      let es := live.map (fun t => (t, x.a.at (at_ t).1 (at_ t).2))
      let poison := d.poison || es.any (fun e => e.2.poison)
      if es.any (fun e => e.2.val.isNaN) then []
      else
        match es with
        | [] => []
        | e :: rest =>
          let best := rest.foldl (fun b y => if y.2.val.strictly b.2.val true then y else b) e
          [Share.exact (at_ best.1).1 (at_ best.1).2 d.val.exact poison])

/-- TCVT: the gradient itself, or its transform along the axis. -/
def convertShares (x : AdjointInput) : List Share :=
  let j := x.job
  if j.form.had = 0 then mapShares x (fun p q d => [Share.exact p q d.val.exact d.poison])
  else
    let n := if j.form.had = 1 then 16 else 32
    let byCol := j.form.imm.getLsbD 0
    mapShares x (fun p q _ =>
      let t := if byCol then p else q
      let terms := (List.range n).map (fun u =>
        let v := t / n * n + u
        let d := if byCol then x.d.at v q else x.d.at p v
        ((if hadamardNeg (t % n) u then d.val.neg else d.val).exact, d.poison))
      let s := Share.sum p q terms
      let quarter := fun (v : FVal) => (mulExact (.fin false 1 (-2)) v).toVal
      [{ s with lo := quarter s.lo, hi := quarter s.hi }])

/-- Every share of A and of B. -/
def AdjointInput.shares (x : AdjointInput) : List Share × List Share :=
  let j := x.job
  match j.op with
  | 0x42 =>
    (mapShares x (fun p q d => [Share.exact p q (scaleVal (j.form.imm.extractLsb' 0 4) d.val).exact d.poison]),
      mapShares x (fun p q d => [Share.exact p q (scaleVal (j.form.imm.extractLsb' 4 4) d.val).exact d.poison]))
  | 0x43 =>
    (mapShares x (fun p q d => let b := x.b.at p q; [Share.exact p q (mulExact d.val b.val) (d.anyOf b)]),
      mapShares x (fun p q d => let a := x.a.at p q; [Share.exact p q (mulExact d.val a.val) (d.anyOf a)]))
  | 0x44 => (mapShares x (fun p q d => tactShare j p q d (x.a.at p q)), [])
  | 0x45 => (mapShares x (fun p q d => [Share.exact q p d.val.exact d.poison]), [])
  | 0x46 => (reduceShares x, [])
  | 0x47 => (convertShares x, [])
  | 0x48 => (softmaxShares x, [])
  | 0x49 => ([], [])
  | _ => if j.tfn = 0 then contractShares x else if j.tfn ≤ 3 then routedShares x else ([], [])

/-! ## Requests (R251, R253) -/

/-- The occupancy of each request of a record. -/
def AdjointInput.requests (x : AdjointInput) : List Nat :=
  let j := x.job
  let size := max (max (j.rows * j.cols) (x.aRows * x.aCols)) (if j.isProduct then max (j.rows * j.k) (j.k * j.cols) else 0)
  let other := max 1 (ceilDiv size 576)
  if j.isProduct then
    if j.tfn = 0 || j.tfn = 3 then
      let n := max 1 (ceilDiv (j.rows * j.cols * j.k) 2304)
      [n, n]
    else if j.tfn ≤ 2 then
      let n := max 1 (ceilDiv (j.rows * j.cols) 576)
      [n, n]
    else [other]
  else if j.op = 0x42 || j.op = 0x43 then [other, other]
  else if (j.op = 0x44 && j.tfn != 0) || j.op = 0x48 then [4 * other]
  else [other]

/-- The elements of D's gradient that are cleared whatever A and B take (R250): all of TZERO, and those that selected a
term. -/
def AdjointInput.cleared (x : AdjointInput) : List (Nat × Nat) :=
  if x.job.op = 0x49 then x.job.activeOut
  else if x.job.isProduct && 1 ≤ x.job.tfn && x.job.tfn ≤ 3 then x.selected.map (fun p => (p.1, p.2.1))
  else []

end Sys2Proof.Machine
end

