-- ==== Sys2Proof/Machine/Reverse.lean ====
section
/-! DEFINITION. The log registers and TREV (R239, R247 to R261): reading a record, finding its operands and gradients,
and running its adjoint at the grants of its requests. -/

namespace Sys2Proof.Machine

/-! ## TREC, TLOGB, TMARK, TGMAP and TLSTAT (R254 to R257, R259, R260) -/

def execTrec (f : RForm) (s : State) : Outcome :=
  issue (.trec f) (do
    check [f.srcA]
    let a ← rd f.a
    Act.trapIf a.poison .poison f.a.toNat 0
    Act.modMe (fun sl => { sl with trcEn := a.w.getLsbD 0 })) s

def execTlogb (f : RForm) (s : State) : Outcome :=
  issue (.tlogb f) (do
    check [f.srcA 2, f.srcB]
    let b ← rdp f.a
    let n ← rd f.b
    Act.trapIf b.poison .poison f.a.toNat 0
    Act.trapIf n.poison .poison f.b.toNat 0
    Act.trapIf (b.w.extractLsb' 0 6 != 0 || n.w.extractLsb' 0 6 != 0) .prot b.w 0x160
    Act.trapIf ((b.w.toNat + n.w.toNat - 1) % 2 ^ 64 / 2 ^ 56 != 0) .page (b.w + n.w.zeroExtend 64 - 1) 0x300
    Act.modMe (fun sl => { sl with tlbase := b.w, tllim := n.w, tltail := 0, trcur := 0xFFFFFFFF, reversal := none, recent := [] })) s

def execTmark (f : RForm) (s : State) : Outcome :=
  issue (.tmark f) (do
    check [] [f.dst]
    wr f.d { w := (← Act.me).tltail }) s

def execTgmapView (f : RForm) (s : State) : Outcome :=
  issue (.tgmapView f) (do
    check [f.srcA]
    let a ← rd f.a
    Act.trapIf a.poison .poison f.a.toNat 0
    tformatIf (a.w.extractLsb' 16 16 != 0 || a.w.extractLsb' 0 2 != 0) f.a 0x0212
    Act.modMe (fun sl => { sl with gvoff := sl.gvoff.set gvoffDefault (f.d.toNat - 80) (a.w.extractLsb' 0 16) })) s

def execTgmapDelta (f : RForm) (s : State) : Outcome :=
  issue (.tgmapDelta f) (do
    check [f.srcA 2]
    let a ← rdp f.a
    Act.trapIf a.poison .poison f.a.toNat 0
    Act.modMe (fun sl => { sl with gdelta := a.w })) s

def execTlstat (f : RForm) (s : State) : Outcome :=
  issue (.tlstat f) (do
    check [] [f.dst 2]
    let sl ← Act.me
    wrp f.d { w := sl.trcur ++ sl.tltail }) s

/-! ## Records (R240, R242) -/

/-- A memory that holds the given bytes from 0 on. -/
def memOf (bs : List (Byte × Bool)) : Mem :=
  let at_ := bs.mapIdx (fun i b => (i, b))
  { cells := (at_.map (fun e => (e.1, e.2.1))).filter (fun e => e.2 != byteDefault e.1)
    poison := (at_.map (fun e => (e.1, e.2.2))).filter (fun e => e.2 != poisonDefault e.1) }

/-- n chunks of 32 bytes of the log, read as loads of the slot: its own earlier stores come first (R243). -/
def readLog (addr : Nat) : Nat → Act (List (Byte × Bool))
  | 0 => pure []
  | n + 1 => do
    let t ← translateMe (addr % 2 ^ 64) false
    let ps := piecesOf t.1 t.2 32
    let r ← (fun (s : State) =>
      let s := s.forceBefore s.cur { id := s.nextId, kind := .load, pieces := ps }
      let r := s.readPieces s.myCore 0 0 ps
      .ok (r.1, r.2) : Act (List Byte × Bool))
    let rest ← readLog (addr + 32) n
    return r.1.map (fun b => (b, r.2)) ++ rest

/-- A record. -/
structure Record where
  off : Nat
  iw : DWord
  masked : Bool
  ctx : BitVec 13
  d : DWord
  a : DWord
  b : DWord
  pla : Nat
  plb : Nat
  lnka : Word
  lnkb : Word
  len : Nat
  prev : Word
  /-- The bytes after the header: the mask block, the payloads and the selection block. -/
  body : List (Byte × Bool) := []
  deriving DecidableEq, Repr

/-- The form that an instruction word's fields give. -/
def tFormOf (w : DWord) : TForm :=
  match readT w with
  | .t _ f => f
  | _ => {}

def Record.op (x : Record) : Nat := (x.iw.extractLsb' 56 8).toNat
def Record.form (x : Record) : TForm := tFormOf x.iw

def parseRecord (off : Nat) (bs : List (Byte × Bool)) : Record :=
  let w := fun (i n : Nat) => wordOfBytes (((bs.drop i).take n).map Prod.fst)
  { off := off, iw := BitVec.ofNat 64 (w 0 8), masked := decide (w 12 4 / 2 ^ 13 % 2 = 1), ctx := BitVec.ofNat 13 (w 12 4),
    d := BitVec.ofNat 64 (w 16 8), a := BitVec.ofNat 64 (w 24 8), b := BitVec.ofNat 64 (w 32 8), pla := w 40 4,
    plb := w 44 4, lnka := BitVec.ofNat 32 (w 48 4), lnkb := BitVec.ofNat 32 (w 52 4), len := w 56 4,
    prev := BitVec.ofNat 32 (w 60 4) }

def padded (n : Nat) : Nat := (n + 63) / 64 * 64

def Record.maskLen (x : Record) : Nat := if x.masked then 64 else 0

/-- The recorded mask pair. -/
def Record.mask (x : Record) : MaskPair :=
  if x.masked then
    let w := fun (i : Nat) => BitVec.ofNat 64 (wordOfBytes (((x.body.drop i).take 8).map Prod.fst))
    { ky := w 0, kx := w 8 }
  else { ky := BitVec.allOnes 64, kx := BitVec.allOnes 64 }

/-- The bytes of the payload of A, or of B. -/
def Record.payload (x : Record) (isA : Bool) : List (Byte × Bool) :=
  if isA then (x.body.drop x.maskLen).take x.pla else (x.body.drop (x.maskLen + padded x.pla)).take x.plb

def Record.selection (x : Record) : List (Byte × Bool) := x.body.drop (x.maskLen + padded x.pla + padded x.plb)

/-- Operand codes and views of a descriptor (R240). -/
def descCode (w : DWord) : Code := w.extractLsb' 56 7
def descSlot (w : DWord) : Nat := (w.extractLsb' 0 6).toNat
def Record.desc (x : Record) (isA : Bool) : DWord := if isA then x.a else x.b

/-- The instruction of a record, as the unit runs it again: under its own context, mask and rounding. -/
def Record.job (x : Record) (lut : Assoc Word) : TileJob :=
  let v := unpackView x.d
  let kq := (x.form.imm.extractLsb' 0 4).toNat
  let k := if kq = 0 then
      (match matClass (ctxA x.ctx) (ctxB x.ctx) (ctxC x.ctx) with
       | some cls => cls.largestK
       | none => 0)
    else 24 * kq
  { op := x.op, form := x.form, ctx := x.ctx, lut := lut, mask := x.mask, fmt := v.format, rows := v.rows, cols := v.cols,
    k := k }

/-- The format and shape of A, or of B, as its bytes are laid out, packed. -/
def Record.layout (x : Record) (isA : Bool) : Grid :=
  let j := x.job []
  let desc := x.desc isA
  let v := unpackView desc
  let packed := fun (fmt rows cols stride : Nat) =>
    ({ place := .dram, fmt := fmt, rows := rows, cols := cols, base := 0, stride := stride } : Grid)
  if (descCode desc).isView then packed v.format v.rows v.cols v.rowLen
  else if j.isProduct then
    if isA then packed (ctxA x.ctx) j.rows j.k (if j.sparse then j.sparseRowBytes else rowBytes (ctxA x.ctx) j.k)
    else packed (ctxB x.ctx) j.cols j.k (rowBytes (ctxB x.ctx) j.k)
  else if x.op = 0x46 then
    let n := (x.form.imm.extractLsb' 0 6).toNat + 1
    let rc := if j.tfn % 2 = 0 then (j.rows, n) else (n, j.cols)
    packed fmtF32 rc.1 rc.2 (4 * rc.2)
  else packed fmtF32 j.rows j.cols (4 * j.cols)

/-! ## Operands (R244, R247) -/

/-- Elements in some memory. -/
structure Source where
  mem : Mem
  grid : Grid
  deriving DecidableEq, Repr

def Source.table (x : Source) (lut : Assoc Word) : Table := gridTable x.mem lut x.grid

/-- TREV parks while a span of the slot's window that it reads or writes is owed or held. -/
def parkOnSpan (code : Code) (lo hi : Nat) : Act Unit := do
  let s ← Act.state
  Act.parkIf (s.owedIn s.myCore s.me.window lo hi || s.heldIn s.myCore s.me.window lo hi) (waitSpan code)

/-- What a descriptor names as it stands now: the view's arena bytes, or those of the ring slot (R244, code 1). -/
def readReference (x : Record) (isA : Bool) : Act Source := do
  let desc := x.desc isA
  let code := descCode desc
  if code.isView then
    let v := unpackView desc
    parkOnSpan code v.lo v.hi
    let s ← Act.state
    return { mem := s.memAt (.arena s.myCore), grid := s.gridOf s.cur v }
  else
    let s ← Act.state
    let r := s.me.ring (ringNumber code)
    return { mem := s.memAt (.scratchpad s.myCore),
             grid := { x.layout isA with base := r.base + descSlot desc * r.slotBytes } }

def reverseTrap {α : Type} (at_ : Nat) (why : Nat) : Act α :=
  Act.trap .tformat (BitVec.ofNat 64 at_) (BitVec.ofNat 64 why)

/-- The record at an offset: its header, and its body where the whole lies below TLTAIL. -/
def readRecord (off : Nat) (n : Nat) : Act (List (Byte × Bool)) := do
  readLog ((← Act.me).tlbase.toNat + off) (n / 32)

/-- The producer that a link of a record names (R247); at_ is the record being processed. -/
def readProducer (at_ : Nat) (x : Record) (lnk : Word) : Act Record := do
  let sl ← Act.me
  if lnk = 0xFFFFFFFF || x.off ≤ lnk.toNat || lnk.toNat % 64 != 0 then reverseTrap at_ 0x0214
  else do
    let h ← readRecord lnk.toNat 64
    let p := parseRecord lnk.toNat h
    if h.any Prod.snd then reverseTrap at_ 0x0211
    else if p.op < 0x42 || 0x49 < p.op || p.len < 64 || p.len % 64 != 0 || sl.tltail.toNat < p.off + p.len then
      reverseTrap at_ 0x0214
    else do
      let body ← readRecord (p.off + 64) (p.len - 64)
      return { p with body := body }

/-- What a producer wrote, put together from its own operands: its result over the bytes of its destination view. -/
def producerResult (p : Record) (a b : Option Source) : Act Source := do
  let v := unpackView p.d
  parkOnSpan (descCode p.d) v.lo v.hi
  let s ← Act.state
  let lut := s.me.lut
  let table := fun (x : Option Source) => (x.map (fun x => x.table lut)).getD []
  let old := gridBytes (s.memAt (.arena s.myCore)) (s.gridOf s.cur v)
  let g : Grid := { place := .dram, fmt := v.format, rows := v.rows, cols := v.cols, base := 0, stride := v.rowLen }
  let m := memOf old
  let ws := ((p.job lut).cells { rows := [], a := table a, b := table b }).map Cell.w
  let m := m.land (gridWrites m g ws) []
  return { mem := ws.foldl (fun m w => let b := g.bytesOf w.i w.j; if w.poison then m.setPoison b.1 b.2 true else m) m
           grid := g }

/-- An operand of a record, as its save code gives it (R244, R247); at_ is the record being processed, and the first
number how many producers deep the chain may still go. -/
def readOperand : Nat → Nat → Record → Bool → Act Source
  | fuel, at_, x, isA =>
    let n := needs x.op x.form.tfn.toNat
    let need := if isA then n.1 else n.2
    let code := if isA then x.form.savA.toNat else x.form.savB.toNat
    if code = 3 then reverseTrap at_ 0x0214
    else if code = 2 then
      match fuel with
      | 0 => reverseTrap at_ 0x0215
      | fuel + 1 => do
        let p ← readProducer at_ x (if isA then x.lnka else x.lnkb)
        let u := tileUses p.op
        let a ← if u.1 then (do return some (← readOperand fuel at_ p true)) else pure none
        let b ← if u.2.1 then (do return some (← readOperand fuel at_ p false)) else pure none
        producerResult p a b
    else if need && code = 0 then
      return { mem := memOf (x.payload isA), grid := x.layout isA }
    else readReference x isA

/-! ## Gradients (R248, R249) -/

/-- Translate n pages for writing, from the page of an address on. -/
def translatePages (addr : Nat) : Nat → Act (List (Nat × Place × Nat))
  | 0 => pure []
  | n + 1 => do
    let t ← translateMe (addr % 2 ^ 64) true
    let page := addr / 0x1000 * 0x1000
    let rest ← translatePages (page + 0x1000) n
    return (page, t.1, t.2 - (addr - page)) :: rest

/-- R248: a gradient view lies in its window, its rows apart; a ring is configured as an own ring. -/
def gradientPlace (desc : DWord) : Act Unit := do
  let sl ← Act.me
  let code := descCode desc
  let v := unpackView desc
  let base := (sl.gvoff.get gvoffDefault (code.toNat - 80)).toNat
  let stride := v.stride.toNat
  let r := sl.ring (ringNumber code)
  tformatIf (if code.isView then
      decide (0x10000 < base + (v.rows - 1) * stride + 4 * v.cols) || base % 4 != 0 || stride % 4 != 0
        || (decide (1 < v.rows) && decide (stride < 4 * v.cols))
    else !r.configured || r.link) code 0x0213

/-- The gradient of a descriptor, its place checked; a ring tile has the given shape. -/
def gradientOf (desc : DWord) (rows cols : Nat) : Act Gradient := do
  let sl ← Act.me
  let code := descCode desc
  if code.isView then
    let v := unpackView desc
    return { code := code, view := true, base := (sl.gvoff.get gvoffDefault (code.toNat - 80)).toNat,
             stride := v.stride.toNat, rows := v.rows, cols := v.cols }
  else
    let r := sl.ring (ringNumber code)
    let h := descSlot desc
    let base := (if r.gbase != 0 then r.gbase.toNat + h * r.gstride.toNat
      else sl.gdelta.toNat + r.base + h * r.slotBytes) % 2 ^ 64
    let bytes := 4 * rows * cols
    let pages ← translatePages base ((base % 0x1000 + bytes + 0xFFF) / 0x1000)
    return { code := code, view := false, base := base, stride := 4 * cols, rows := rows, cols := cols, pages := pages }

/-- The first byte past a gradient view. -/
def Gradient.hi (g : Gradient) : Nat := g.base + (g.rows - 1) * g.stride + 4 * g.cols

def parkOnGradient (g : Gradient) : Act Unit := if g.view then parkOnSpan g.code g.base g.hi else pure ()

/-- Where a byte of a global gradient stands. -/
def Gradient.byteAt (g : Gradient) (addr : Nat) : List Piece :=
  match g.pages.find? (fun p => p.1 == addr / 0x1000 * 0x1000) with
  | some p => [{ place := p.2.1, off := p.2.2 + addr % 0x1000, len := 1 }]
  | none => []

def Gradient.addrOf (g : Gradient) (r c : Nat) : Nat := g.base + r * g.stride + 4 * c

/-- The pieces of a gradient element for the running slot. -/
def State.gradientPieces (s : State) (g : Gradient) (r c : Nat) : List Piece :=
  let addr := g.addrOf r c
  if g.view then [{ place := .arena s.myCore, off := s.me.arenaOffset addr, len := 4 }]
  else if addr % 4 = 0 then (g.byteAt addr).map (fun p => { p with len := 4 })
  else (List.range 4).flatMap (fun i => g.byteAt (addr + i))

def elemF32 (bits : Nat) (poison : Bool) : Elem := { bits := bits, val := f32.decode bits, poison := poison }

/-- Read a gradient element. -/
def State.readGradient (s : State) (g : Gradient) (r c : Nat) : Elem × State :=
  let x := s.readPieces s.myCore 0 0 (s.gradientPieces g r c)
  (elemF32 (leNat x.1.1) x.1.2, x.2)

/-- Write a gradient element, all the way home. -/
def State.writeGradient (s : State) (g : Gradient) (r c bits : Nat) (poison : Bool) : State :=
  let ps := s.gradientPieces g r c
  let s := s.writePieces s.myCore poison 0 0 ps (bytesOfWord 4 bits)
  ps.foldl (fun s p => if p.place.cached then s.pieceHome s.myCore p else s) s

/-- Add shares to a gradient, each element rounded once: what was written. -/
def State.accumulate (s : State) (g : Gradient) (xs : List Share) : List Cell × State :=
  let all := xs.flatMap (fun x => s.gradientPieces g x.r x.c)
  let s := s.forceBefore s.cur { id := s.nextId, kind := .store, pieces := all }
  xs.foldl (fun (acc : List Cell × State) x =>
    let old := acc.2.readGradient g x.r x.c
    let v := x.round old.1.val
    let poison := x.poison || old.1.poison
    (acc.1 ++ [{ w := { i := x.r, j := x.c, bits := v.1, poison := poison }, flags := v.2.1, events := [v.2.2] }],
      old.2.writeGradient g x.r x.c v.1 poison)) ([], s)

/-! ## One record (R250, R258) -/

/-- Everything that the adjoint of a record needs, found before its first request. -/
structure ReversePlan where
  record : Record
  a : Option Source := none
  b : Option Source := none
  dGrad : Option Gradient := none
  aGrad : Option Gradient := none
  bGrad : Option Gradient := none
  deriving DecidableEq, Repr

/-- Whether a record's adjoint touches the gradients of D, A and B. -/
def Record.touches (x : Record) : Bool × Bool × Bool :=
  if (x.op = 0x40 || x.op = 0x41) && 4 ≤ x.form.tfn.toNat then (false, false, false)
  else (true, decide (x.op ≠ 0x49), (tileUses x.op).2.1)

def gradientIf (c : Bool) (desc : DWord) (rows cols : Nat) : Act (Option Gradient) :=
  if c then (do return some (← gradientOf desc rows cols)) else pure none

def operandIf (c : Bool) (at_ : Nat) (x : Record) (isA : Bool) : Act (Option Source) :=
  if c then (do return some (← readOperand 8 at_ x isA)) else pure none

/-- The span of a gradient view, as the park of R258 needs it. -/
def parkOnView (c : Bool) (desc : DWord) : Act Unit := do
  let sl ← Act.me
  let code := descCode desc
  let v := unpackView desc
  let base := (sl.gvoff.get gvoffDefault (code.toNat - 80)).toNat
  if c && code.isView then parkOnSpan code base (base + (v.rows - 1) * v.stride.toNat + 4 * v.cols)

/-- The checks of a record (R258), in the order of the rule. -/
def planReverse (r : Nat) : Act ReversePlan := do
  let sl ← Act.me
  let h ← readRecord r 64
  if h.any Prod.snd then reverseTrap r 0x0211
  else
    let x := parseRecord r h
    if x.len < 64 || x.len % 64 != 0 || sl.tltail.toNat < r + x.len
        || (x.prev != 0xFFFFFFFF && (decide (r ≤ x.prev.toNat) || x.prev.toNat % 64 != 0))
        || x.op < 0x40 || 0x49 < x.op then reverseTrap r 0x0210
    else
      let s ← Act.state
      Act.parkIf (s.results.any (fun y => y.slot == s.cur && y.selects)) (waitUnit 0)
      let t := x.touches
      parkOnView t.1 x.d
      parkOnView t.2.1 x.a
      parkOnView t.2.2 x.b
      Act.parkIf (decide (5 < s.owedCount s.cur)) (waitUnit 0)
      let body ← readRecord (r + 64) (x.len - 64)
      let x := { x with body := body }
      let n := needs x.op x.form.tfn.toNat
      let a ← operandIf n.1 r x true
      let b ← operandIf n.2 r x false
      let j := x.job sl.lut
      let la := x.layout true
      let lb := x.layout false
      if t.1 then gradientPlace x.d
      if t.2.1 then gradientPlace x.a
      if t.2.2 then gradientPlace x.b
      let d ← gradientIf t.1 x.d j.rows j.cols
      let ga ← gradientIf t.2.1 x.a la.rows la.cols
      let gb ← gradientIf t.2.2 x.b lb.rows lb.cols
      return { record := x, a := a, b := b, dGrad := d, aGrad := ga, bGrad := gb }

/-- The gradient of D at the active elements. -/
def State.readOutput (s : State) (g : Option Gradient) (sel : List (Byte × Bool)) (j : TileJob) : Table :=
  match g with
  | none => []
  | some g =>
    let active := j.activeOut
    (List.range j.rows).map (fun i =>
      (List.range j.cols).map (fun k =>
        if active.contains (i, k) then
          let e := (s.readGradient g i k).1
          { e with poison := e.poison || (sel.getD (i * j.cols + k) (0, false)).2 }
        else {}))

/-- The rows of A of a product. -/
def ReversePlan.rows (p : ReversePlan) (j : TileJob) : List ARow :=
  match p.a with
  | none => []
  | some x =>
    if j.sparse then
      (List.range j.rows).map (fun i =>
        sparseRow x.mem j.lut x.grid.fmt j.nsp (j.k / 24) (x.grid.base + i * x.grid.stride))
    else (x.table j.lut).map denseRow

def ReversePlan.input (p : ReversePlan) (s : State) : AdjointInput :=
  let x := p.record
  let j := x.job s.me.lut
  let table := fun (y : Option Source) => (y.map (fun y => y.table j.lut)).getD []
  let la := x.layout true
  let b := table p.b
  { job := j, d := s.readOutput p.dGrad (if j.selects then x.selection else []) j, arows := p.rows j,
    a := if j.isProduct then [] else table p.a, b := if j.isProduct && (descCode x.b).isView then Table.columns b j.cols else b,
    sel := x.selection.map (fun e => e.1.toNat), aRows := if x.op = 0x49 then 0 else la.rows,
    aCols := if x.op = 0x49 then 0 else la.cols }

/-- Shares of B in the order in which its gradient stands: column by column for a ring of a product (R248). -/
def ReversePlan.place (p : ReversePlan) (j : TileJob) (xs : List Share) : List Share :=
  if j.isProduct && (descCode p.record.b).isRing then xs.map (fun x => { x with r := x.c, c := x.r }) else xs

/-- Whether an element of D's gradient shares a byte with an element that is accumulated into. -/
def sharesByte (d : Gradient) (p : Nat × Nat) (g : Option Gradient) (xs : List Share) : Bool :=
  match g with
  | some g => d.view && g.view && xs.any (fun x => decide (distance (d.addrOf p.1 p.2) (g.addrOf x.r x.c) < 4))
  | none => false

/-- The elements of D's gradient to clear (R250). -/
def ReversePlan.clears (p : ReversePlan) (x : AdjointInput) (as bs : List Share) : List (Nat × Nat) :=
  match p.dGrad with
  | none => []
  | some d =>
    let dead := if (tileUses x.job.op).2.2 then [] else
      x.job.activeOut.filter (fun e => sharesByte d e p.aGrad as || sharesByte d e p.bGrad bs)
    if x.cleared.isEmpty then dead else x.cleared

/-- A gradient view that is written is owed until the request lands (R253). -/
def oweGradient (id : Nat) (g : Option Gradient) (written : Bool) : Act Unit :=
  match g with
  | some g =>
    if g.view && written then
      Act.modify (fun s => { s with spans := s.spans ++ [{ id := id, slot := s.cur, core := s.myCore,
                                                           window := s.me.window, lo := g.base, hi := g.hi, held := false }] })
    else pure ()
  | none => pure ()

def accumulateInto (g : Option Gradient) (xs : List Share) : Act (List Cell) := fun s =>
  match g with
  | some g => let r := s.accumulate g xs; .ok (r.1, r.2)
  | none => .ok ([], s)

/-- The flags and counts of a request, to land with it. -/
def pendingRequest (cs : List Cell) : Act Nat := do
  let id ← Act.fresh
  Act.modify (fun s => { s with results := s.results ++ [{ id := id, slot := s.cur, core := s.myCore,
                                                           flags := cellFlags cs, counts := cellCounts cs }] })
  return id

/-- A request of TREV is granted: the unit is busy for its occupancy, and its gradients land like results. -/
def grantRequest (id occ : Nat) : Act Unit := do
  let s ← Act.state
  Act.schedule (s.cycle + occ + 10) .tileResultsLand [s.cur, id]
  Act.modify (fun s => s.modCluster (clusterOfCore s.myCore) (fun c => { c with matrixBusy := s.cycle + occ }))

/-- A request adds its shares to a gradient, which takes its values and stays owed until the request lands. Answers the
request's result. -/
def requestShares (g : Option Gradient) (xs : List Share) : Act Nat := do
  let id ← pendingRequest (← accumulateInto g xs)
  oweGradient id g (!xs.isEmpty)
  return id

/-- The first request of a record is granted: D's gradient is cleared where it must be, and A's takes its shares, as B's
does where there is no second request. What a second request adds waits for its own grant (R250, R261). -/
def runReverse (p : ReversePlan) : Act Unit := do
  let s ← Act.state
  let x := p.input s
  let sh := x.shares
  let as := sh.1
  let bs := p.place x.job sh.2
  let clears := p.clears x as bs
  Act.modify (fun s => match p.dGrad with
    | some d => clears.foldl (fun s e => s.writeGradient d e.1 e.2 0 false) s
    | none => s)
  let first ← requestShares p.aGrad as
  oweGradient first p.dGrad (!clears.isEmpty)
  match x.requests with
  | [a, b] => do
    grantRequest first a
    Act.modMe (fun sl => { sl with reversal := some { prev := p.record.prev, occ := b, grad := p.bGrad, shares := bs } })
  | rs => do
    grantRequest first (rs.headD 1)
    Act.modMe (fun sl => sl.setTrcur p.record.prev)

/-! ## TREV -/

/-- A record at or above the mark is left. -/
def Slot.revsLeft (sl : Slot) (a : Word) : Bool :=
  sl.trcur != 0xFFFFFFFF && decide (a ≤ sl.trcur)

/-- No record is left: the log ends at the mark. -/
def Slot.endReverse (sl : Slot) (a : Word) : Slot :=
  { sl with tltail := a, trcSusp := false, recent := sl.recent.filter (fun r => decide (r.off < a)) }

/-- What TREV does until the grant: the mark, checked. -/
def startReverse (f : RForm) : Act Word := do
  check [f.srcA]
  let a ← rd f.a
  Act.trapIf a.poison .poison f.a.toNat 0
  let sl ← Act.me
  Act.trapIf (a.w.extractLsb' 0 6 != 0 || decide (sl.tltail < a.w)) .prot (a.w.zeroExtend 64) 0x162
  Act.modMe (fun sl => { sl with trcSusp := true })
  return a.w

def awaitGrant : Act Unit := do
  Act.modify (fun s => s.setMe { s.me with request := some (s.me.request.getD s.cycle) })
  Act.wait (waitUnit 0)

/-- One grant's worth of TREV: true when nothing is left. Of a record whose first request has been granted before a trap,
only the second is left: what is granted stays done (R258; DESIGN CHOICE, assumption 81). -/
def reverseOn (a : Word) : Act Bool := do
  let sl ← Act.me
  if !sl.revsLeft a then return true
  else
    match sl.reversal with
    | some v => do
      if !sl.granted then awaitGrant
      grantRequest (← requestShares v.grad v.shares) v.occ
      Act.modMe (fun sl => sl.setTrcur v.prev)
    | none => do
      let p ← planReverse sl.trcur.toNat
      if !sl.granted then awaitGrant
      runReverse p
    return !(← Act.me).revsLeft a

/-- TREV: each grant issues, and the last one, or none where no record is left, retires it. Progress is kept (R258). -/
def execTrev (f : RForm) (s : State) : Outcome :=
  if modeLegal (.trev f) s.me.xlt then
    match startReverse f s with
    | .error e => .next (s.stop (.trev f) e)
    | .ok (a, s1) =>
      match reverseOn a s1 with
      | .error e => .next ((s.unpop s1).stop (.trev f) e)
      | .ok (false, s2) =>
        let s2 := s.unpop s2
        .next ((s2.setMe { s2.me with granted := false, request := none, parked := none }).issued s.cur)
      | .ok (true, s2) => .next ((s2.setMe ((s2.me.endReverse a).retire s.me.pc (s.me.pc + 8))).issued s.cur)
  else .next (s.stop (.trev f) (.trap .illegal 0 0))

end Sys2Proof.Machine
end

