-- ==== Sys2Proof/Machine/Grant.lean ====
section
/-! DEFINITION. The arbiter of a cluster's matrix unit (R195, R196, R204): which slots ask for it, and which one it
grants. -/

namespace Sys2Proof.Machine

/-- What an instruction that needs the matrix unit does, if it is one. -/
def requestOf (i : Instr) : Option (Act Unit) :=
  match i with
  | .tmma f => some (tile 0x40 f (wordOf i))
  | .tmms f => some (tile 0x41 f (wordOf i))
  | .tadd f => some (tile 0x42 f (wordOf i))
  | .temul f => some (tile 0x43 f (wordOf i))
  | .tact f => some (tile 0x44 f (wordOf i))
  | .ttrn f => some (tile 0x45 f (wordOf i))
  | .tred f => some (tile 0x46 f (wordOf i))
  | .tcvt f => some (tile 0x47 f (wordOf i))
  | .tsmx f => some (tile 0x48 f (wordOf i))
  | .tzero f => some (tile 0x49 f (wordOf i))
  | .trev f => some (do
      let a ← startReverse f
      let _ ← reverseOn a
      return ())
  | _ => none

/-- The instruction that a slot issues next, if its fetch is legal and no landing trap comes first. -/
def State.nextInstr (s : State) (k : Nat) : Option Instr :=
  let sl := s.slot k
  if (sl.fptrap != 0 && sl.mode = .task) || !sl.fetchLegal || sl.xlt then none
  else (decode (s.codeWord (dieOfCore (coreOfSlot k)) sl.pc)).toOption

/-- A slot whose next instruction has been fetched and passes every check up to the grant has a request pending (R195). -/
def State.requests (s : State) (k : Nat) : Bool :=
  s.mayIssue k && s.fetched k && (match (s.nextInstr k).bind requestOf with
    | none => false
    | some act =>
      match act { s.setSlot k { s.slot k with granted := false, request := none } with cur := k } with
      | .error (.wait _ t) => (t.slot k).request.isSome
      | _ => false)

/-- Numbers 0 to 3 in the order that begins after the last. -/
def roundFrom (last : Nat) : List Nat := (List.range 4).map (fun i => (last + 1 + i) % 4)

/-- The slot that a free unit grants: the next core after the last with a request, and in it the next slot after its
last. -/
def State.grantee (s : State) (cl : Nat) : Option Nat :=
  let c := s.cluster cl
  (roundFrom c.matrixCore).findSome? (fun k =>
    let core := coreOfCluster cl k
    ((roundFrom (c.matrixSlot.get (fun _ => 3) k)).map (fun i => core * 4 + i)).find? s.requests)

/-- A cluster whose unit is free, and in which a slot asks for it. -/
def State.wantsGrant (s : State) (cl : Nat) : Bool :=
  decide ((s.cluster cl).matrixBusy ≤ s.cycle) && (s.grantee cl).isSome

/-- MATRIX_GRANT: the granted slot issues in this cycle, ahead of its core's order. -/
def execMatrixGrant (s : State) : Outcome :=
  .next (match s.subject with
    | [cl] =>
      if (s.cluster cl).matrixBusy ≤ s.cycle then
        match s.grantee cl with
        | none => s
        | some k =>
          let s := s.modCluster cl (fun c => { c with
            matrixCore := coreInCluster (coreOfSlot k)
            matrixSlot := c.matrixSlot.set (fun _ => 3) (coreInCluster (coreOfSlot k)) (slotNumber k) })
          s.modSlot k (fun sl => { sl with granted := true })
      else s
    | _ => s)

end Sys2Proof.Machine
end

