-- ==== Sys2Proof/Machine/Quiet.lean ====
section
/-! DEFINITION. The start of a launch and its quiescence (R23, R271, R286 to R289): when a partition is quiet, the samples
of the message counts, completion and deadlock. -/

namespace Sys2Proof.Machine

/-- The live cores of a die. -/
def State.liveCores (s : State) (die : Nat) : List Nat :=
  ((List.range coresPerDie).map (fun i => die * coresPerDie + i)).filter (fun c => !s.deadCores.contains c)


/-! ## The start event (R271) -/

/-- The start event of a launch, in the cycle after this one: its cycle 0, in which every entry slot fetches. -/
def execStartEvent (s : State) : Outcome :=
  .next (match s.subject with
    | [lid] =>
      match s.launches.find lid with
      | none => s
      | some l =>
        if l.started || l.ending.isSome then s
        -- the boundary at the start of the launch comes first (R361)
        else if s.intervalWorlds.contains l.world && l.checkpoint.isNone then s.schedule (s.cycle + 1) .startEvent [lid]
        else
          let t := s.cycle + 1
          -- TSTART is taken in that cycle
          let now := (s.time + s.period) / 4284
          let s := s.modLaunch lid (fun l => { l with started := true, start := some t, tstart := now, entries := [] })
          let s := l.entries.foldl (fun s k => (s.modSlot k (fun sl => { sl with parked := none })).fetchFrom k t) s
          (l.dies.flatMap s.liveCores).foldl (fun s c => s.schedule t .stealAttempt [c]) s
    | _ => s)

/-! ## Quiet (R23, R286) -/

/-- The four slots of a core. -/
def slotsOf (core : Nat) : List Nat := (List.range 4).map (fun i => core * 4 + i)

/-- The idle line of a core. -/
def State.idle (s : State) (core : Nat) : Bool :=
  let c := s.core core
  c.stealNone && c.spilled.isEmpty && (slotsOf core).all (fun k => !(s.slot k).occupied && !(s.slot k).draining)
    && (s.readyEntries core).isEmpty

/-- The parked line of a core. -/
def State.parkedLine (s : State) (core : Nat) : Bool :=
  let ks := (slotsOf core).filter (fun k => (s.slot k).occupied)
  !ks.isEmpty && ks.all (fun k => (s.slot k).parked.isSome)
    && ((s.freeSlot core).isNone || ((s.readyEntries core).isEmpty && (s.core core).spilled.isEmpty))

/-- A write of a tile instruction is owed to a slot of some dies. -/
def State.tileOwed (s : State) (dies : List Nat) : Bool :=
  s.agenda.any (fun d =>
    match d.step, d.subject with
    | .tileResultsLand, k :: id :: _ => dies.contains (dieOfCore (coreOfSlot k)) && s.results.any (fun r => r.id == id)
    | _, _ => false)

/-- The busy line of a copy engine (R221), a vector unit (R170) or a matrix unit (R195) of some dies is raised. -/
def State.enginesBusy (s : State) (dies : List Nat) : Bool :=
  s.clusters.any (fun e => dies.contains (dieOfCluster e.1)
      && (!e.2.copyQueue.isEmpty || !e.2.copyRuns.isEmpty || decide (s.cycle < e.2.matrixBusy)))
    || s.cores.any (fun e => dies.contains (dieOfCore e.1) && decide (s.cycle < e.2.vectorBusy))
    || s.slots.any (fun e => dies.contains (dieOfCore (coreOfSlot e.1)) && e.2.request.isSome)
    || s.tileOwed dies

/-- The partition of a launch is quiet. -/
def State.quiet (s : State) (l : Launch) : Bool :=
  l.started && l.ending.isNone && !l.saved && l.preempting.isNone && !s.enginesBusy l.dies
    && l.dies.all (fun d => (s.liveCores d).all (fun c => s.idle c || s.parkedLine c))

def State.allIdle (s : State) (l : Launch) : Bool := l.dies.all (fun d => (s.liveCores d).all s.idle)

/-- The slots of a partition that are parked. -/
def State.parkedSlots (s : State) (l : Launch) : List Nat :=
  (s.slots.filter (fun e => e.2.occupied && e.2.parked.isSome && l.dies.contains (dieOfCore (coreOfSlot e.1)))).map
    Prod.fst

/-- Something outside may still wake the partition (R286). -/
def State.hostWake (s : State) (l : Launch) : Bool :=
  s.ats.any (fun r => !r.dropped && l.dies.contains r.die)
    || (s.parkedSlots l).any (fun k => (s.slot k).parked.any (fun p => p.wait.hostWake))
    || s.packets.any (fun p => p.conds.any (fun c => c.place == .host)
      && s.packets.any (fun q => q.id == l.pk && q.queue == p.queue))

/-- The quiet cycles of a launch go on, or begin again; the samples come due (R287). -/
def State.watchLaunch (s : State) (lid : Nat) : State :=
  match s.launches.find lid with
  | none => s
  | some l =>
    if !s.quiet l then s.modLaunch lid (fun l => { l with quietSince := none, sample := none })
    else
      match l.quietSince, l.sample with
      | none, _ => s.modLaunch lid (fun l => { l with quietSince := some s.cycle })
      | some q, none =>
        if q + 64 ≤ s.cycle then
          s.modLaunch lid (fun l => { l with sample := some (s.cycle, l.sent, l.received) })
        else s
      | some _, some x => if x.1 + 256 = s.cycle then s.schedule s.cycle .quiescenceSample [lid] else s

def State.watchLaunches (s : State) : State := (s.launches.map Prod.fst).foldl State.watchLaunch s

/-- Inbox messages, port words and deque entries of a launch that has completed go; handles held there are dropped as
abandoned (R131, R230, R237, R288). Answers how many handles the deques held. -/
def State.dropPending (s : State) (lid : Nat) : Nat × State :=
  match s.launches.find lid with
  | none => (0, s)
  | some l =>
    let cores := l.dies.flatMap (fun d => (s.cores.filter (fun e => dieOfCore e.1 == d)).map Prod.fst)
    cores.foldl (fun (r : Nat × State) c =>
      let core := r.2.core c
      let held := (core.deque ++ core.spilled.map Spilled.desc).flatMap TaskDesc.handles
      let sent := core.inbox.filterMap (fun m => match m.kind with
        | .handle w _ => some w
        | _ => none)
      let wid := (r.2.die (dieOfCore c)).wid
      let s := (held ++ sent).foldl (fun s w =>
        if handleKind w = 0 || s.stale wid w then s else s.dropWord w false) r.2
      let s := s.modCore c (fun x => { x with deque := [], spilled := [], inbox := [], current := none, ports := [] })
      (r.1 + (core.deque.length + core.spilled.length), s)) (0, s)

/-- The launch is complete (R288): with status 0, or DEADLOCK where one was delivered. -/
def State.completeLaunch (s : State) (l : Launch) : State :=
  let r := s.dropPending l.lid
  (r.2.modLaunch l.lid (fun l => { l with
    dropped := r.1, completing := true, ending := some { status := if l.deadlock then Cause.deadlock.code.toNat else 0 } })).schedule
    s.cycle .launchEnd [l.lid]

/-- Every parked slot in task mode takes DEADLOCK; where all are in handler mode the launch is aborted (R289). -/
def State.deliverDeadlock (s : State) (l : Launch) : State :=
  let ks := (s.parkedSlots l).filter (fun k => (s.slot k).mode == .task)
  if ks.isEmpty then s.abortLaunch l.lid { status := Cause.deadlock.code.toNat }
  else
    ks.foldl (fun s k =>
      let sl := s.slot k
      match sl.parked with
      | some p => s.takeTrap k .deadlock p.wait.xval (p.wait.reason.zeroExtend 64)
          (s.codeWord (dieOfCore (coreOfSlot k)) sl.pc)
      | none => s) (s.modLaunch l.lid (fun l => { l with deadlock := true }))

/-- The second sample of a pair decides, or sampling begins again; a deadlock is delivered in the next cycle (R287 to
R289). -/
def execQuiescenceSample (s : State) : Outcome :=
  .next (match s.subject with
    | [lid] =>
      match s.launches.find lid with
      | none => s
      | some l =>
        match l.sample with
        | none => s
        | some (_, sent, received) =>
          let s := s.modLaunch lid (fun l => { l with sample := some (s.cycle, l.sent, l.received) })
          if !s.quiet l || l.sent != sent || l.received != received || sent != received then s
          else if s.allIdle l then s.completeLaunch l
          else if s.hostWake l || (s.parkedSlots l).isEmpty then s
          else s.schedule (s.cycle + 1) .quiescenceSample [lid, 1]
    | [lid, _] =>
      match s.launches.find lid with
      | none => s
      | some l => if l.ending.isSome then s else s.deliverDeadlock l
    | _ => s)

/-! ## The end of a cycle, and the next -/

/-- Cores whose newest ready task can start (R268). -/
def State.startable (s : State) : List Nat :=
  (s.cores.filter (fun e => s.running e.1 && (s.freeSlot e.1).isSome && !(s.readyEntries e.1).isEmpty)).map Prod.fst

/-- Cores that begin to steal (R270): of every live core of a launch that runs. -/
def State.thieves (s : State) : List Nat :=
  (((s.launches.map Prod.snd).filter (fun l => l.started && !l.saved)).flatMap (fun l =>
    l.dies.flatMap s.liveCores)).filter s.wantsSteal

/-- No slot issues any more in this cycle: starts and steals take place, ahead of the steps that are due. -/
def State.close (s : State) : State :=
  let starts := s.startable.map (fun c => ({ at_ := s.cycle, step := .taskStart, subject := [c] } : Due))
  let steals := s.thieves.map (fun c => ({ at_ := s.cycle, step := .stealAttempt, subject := [c] } : Due))
  { s with closing := true, agenda := starts ++ steals ++ s.agenda }

/-- The clusters whose matrix unit grants a request as the cycle begins. -/
def State.granting (s : State) : List Due :=
  let cls := ((s.slots.filter (fun e => e.2.occupied)).map (fun e => clusterOfCore (coreOfSlot e.1))).eraseDups
  (cls.filter s.wantsGrant).map (fun cl => { at_ := s.cycle, step := .matrixGrant, subject := [cl] })

end Sys2Proof.Machine
end

