-- ==== Sys2Proof/Machine/Front.lean ====
section
/-! DEFINITION. The front end (R326 to R345, R349, R394, R396): queues and their registers, the taking of packets, what
each short packet does, and how a packet ends. LAUNCH and TRANSLATE go on in Launch.lean and Loader.lean. -/

namespace Sys2Proof.Machine

/-! ## Time (R341, R387) -/

/-- A step comes within a number of nanoseconds, at any class: when exactly is open. -/
def State.scheduleWithin (s : State) (ns : Nat) (i : Instr) (subject : List Nat) : State :=
  ({ s with draws := s.draws + 1 } : State).schedule (s.cycle + 1 + Config.delay s.draws % (ns * 4284 / 10710)) i subject

/-! ## Reaching the memory of a queue's world (R394) -/

/-- Why a front-end access stops: the packet fails, or a page is waited for. -/
inductive FrontStop where
  | fail (v : EndValues)
  | page (va : Nat) (write : Bool)
  deriving DecidableEq, Repr

abbrev Front (α : Type) := StateT State (Except FrontStop) α

def Front.fail {α : Type} (status : Nat) (code : Nat := 0) : Front α :=
  fun _ => .error (.fail { status := status, code := code })
def Front.failIf (c : Bool) (status : Nat) : Front Unit := if c then Front.fail status else pure ()
def Front.state : Front State := fun s => .ok (s, s)
def Front.modify (f : State → State) : Front Unit := fun s => .ok ((), f s)

def frontPlace (t : Translator) (va : Nat) (write : Bool) : Front (Place × Nat) := fun s =>
  match s.translate t va write with
  | (.dram pa, s) => .ok ((.dram, pa), s.dropFrontTlb)
  | (.host a, s) => .ok ((.host, a), s)
  | (.trap c code, _) =>
    .error (.fail { status := c.code.toNat, xval := BitVec.ofNat 64 va, xval2 := BitVec.ofNat 64 code })
  | (.wait, _) => .error (.page va write)

/-- A range cut where units end: starts and lengths. -/
def cutRange (unit va n : Nat) : List (Nat × Nat) :=
  let first := va / unit
  (List.range (if n = 0 then 0 else (va + n - 1) / unit - first + 1)).map (fun i =>
    let lo := max va ((first + i) * unit)
    (lo, min (va + n) ((first + i + 1) * unit) - lo))

def frontReads (t : Translator) : List (Nat × Nat) → Front (List (Byte × Bool))
  | [] => pure []
  | (va, n) :: rest => do
    let p ← frontPlace t va false
    let s ← Front.state
    let bs := (List.range n).map (fun i => ((s.memAt p.1).byte (p.2 + i), (s.memAt p.1).poisonAt (p.2 + i)))
    let more ← frontReads t rest
    return bs ++ more

/-- Bytes with their poison, read at system scope. -/
def frontRead (t : Translator) (va n : Nat) : Front (List (Byte × Bool)) := frontReads t (cutRange 0x1000 va n)

/-- A write at home that every agent sees. -/
def State.systemWrite (s : State) (w : Nat) (p : Place) (a : Nat) (bs : List Byte) (poison : Bool) : State :=
  s.homeWrite w p a bs poison

def frontWrites (t : Translator) : List (Nat × Nat) → List (Byte × Bool) → Front Unit
  | [], _ => pure ()
  | (va, n) :: rest, bs => do
    let p ← frontPlace t va true
    Front.modify (fun s =>
      s.systemWrite t.world p.1 p.2 ((bs.take n).map Prod.fst) ((bs.take n).any Prod.snd))
    frontWrites t rest (bs.drop n)

/-- Write bytes at system scope, sector by sector. -/
def frontWrite (t : Translator) (va : Nat) (bs : List (Byte × Bool)) : Front Unit :=
  frontWrites t (cutRange 64 va bs.length) bs

def noPoison (bs : List Byte) : List (Byte × Bool) := bs.map (fun b => (b, false))

/-- An 8-byte atomic update. -/
def frontUpdate (t : Translator) (va : Nat) (f : DWord → DWord) : Front Unit := do
  let p ← frontPlace t va true
  Front.modify (fun s =>
    let s := if p.1.cached then s.invalidateOthers [] (lineKey p.1 p.2) else s
    let old : DWord := BitVec.ofNat 64 (leNat (s.homeRead p.1 p.2 8).1)
    s.systemWrite t.world p.1 p.2 (bytesOfWord 8 (f old).toNat) false)

/-! ## Queues -/

def State.queue (s : State) (q : Nat) : Option Queue := s.queues.find q
def State.modQueue (s : State) (q : Nat) (f : Queue → Queue) : State :=
  match s.queues.find q with
  | none => s
  | some x => { s with queues := s.queues.put q (f x) }

/-- Packets of a queue that have not ended. -/
def State.unended (s : State) (q : Nat) : List Packet := s.packets.filter (fun p => p.queue == q)

def statusReject : Nat := 0x41
def statusDropped : Nat := 0x40
def statusCap : Nat := 0x42
def statusPlace : Nat := 0x43
def statusNoacc : Nat := 0x44
def statusLoader : Nat := 0x45
def statusNoprov : Nat := 0x46
def statusWorld : Nat := 0x47

def Packet.dropped (p : Packet) : Bool := p.result.any (fun v => v.status == statusDropped)

/-- Where packet i of a queue stands (R332). -/
def Queue.slotAddress (q : Queue) (i : Word) : Nat := q.ring + i.toNat % q.nslot * 128

/-! ## The fields of a packet (R339) -/

def Packet.field (p : Packet) (off n : Nat) : Nat := leNat ((p.bytes.drop off).take n)
def zeroBytes (bs : List Byte) (off n : Nat) : Bool := ((bs.drop off).take n).all (fun b => b == 0)
def Packet.flag (p : Packet) (i : Nat) : Bool := p.field 1 1 / 2 ^ i % 2 = 1
def Packet.bar (p : Packet) : Bool := p.flag 0
def Packet.hold (p : Packet) : Bool := p.flag 1
def Packet.fcset (p : Packet) : Bool := p.flag 5
def Packet.fclass (p : Packet) : Nat := p.field 1 1 / 4 % 8

/-- The completion signal and the result record: none where 0 or misaligned (R340). -/
def Packet.csig (p : Packet) : Option Nat :=
  let v := p.field 8 8
  if v = 0 || v % 8 != 0 then none else some v
def Packet.res (p : Packet) : Option Nat :=
  let v := p.field 16 8
  if v = 0 || v % 64 != 0 then none else some v

/-- The body of a BARRIER's condition n is legal. -/
def Packet.condLegal (p : Packet) (n : Nat) : Bool :=
  p.field (32 + 24 * n) 8 % 8 == 0 && decide (p.field (40 + 24 * n) 1 ≤ 5) && zeroBytes p.bytes (41 + 24 * n) 7

def Packet.bodyLegal (p : Packet) : Bool :=
  let f := p.field
  match p.type with
  | 0 => zeroBytes p.bytes 32 96
  | 1 => f 32 8 % 64 == 0 && zeroBytes p.bytes 40 88
  | 2 =>
    f 32 8 % 8 == 0 && f 40 4 % 8 == 0 && decide (8 ≤ f 40 4) && decide (f 40 4 ≤ 0x10000) && f 44 4 != 0
      && (f 56 4 != 0 || f 48 8 == 0) && decide (f 56 4 ≤ 0x10000000)
      && f 60 4 % 64 == 0 && decide (64 ≤ f 60 4) && decide (f 60 4 ≤ 0x10000000)
      && f 64 4 % 64 == 0 && decide (f 64 4 ≤ 0x10000000) && zeroBytes p.bytes 68 60
  | 3 => f 48 8 != 0 && decide (f 48 8 ≤ 2 ^ 40) && zeroBytes p.bytes 56 72
  | 4 => f 32 8 % 8 == 0 && decide (f 40 1 ≤ 1) && zeroBytes p.bytes 41 7 && zeroBytes p.bytes 56 72
  | 5 => (List.range 4).all p.condLegal
  | 6 => f 32 8 % 8 == 0 && zeroBytes p.bytes 40 88
  | 7 => f 32 8 % 64 == 0 && zeroBytes p.bytes 48 80
  | _ => false

def Packet.legal (p : Packet) : Bool :=
  decide (p.field 1 1 < 64) && (p.type == 1 || decide (p.field 1 1 < 2)) && zeroBytes p.bytes 2 6
    && zeroBytes p.bytes 24 8 && p.field 8 8 % 8 == 0 && p.field 16 8 % 64 == 0 && p.bodyLegal

/-! ## How a packet ends (R330, R331, R340, R341, R345) -/

/-- The result record. -/
def Packet.record (p : Packet) (v : EndValues) (tend : Nat) : List Byte :=
  bytesOfWord 2 v.status ++ bytesOfWord 2 v.code ++ bytesOfWord 4 p.dropt ++ bytesOfWord 4 v.xpc.toNat
    ++ bytesOfWord 4 p.bpos.toNat ++ bytesOfWord 8 v.xval.toNat ++ bytesOfWord 8 v.xval2.toNat
    ++ bytesOfWord 8 p.tstart ++ bytesOfWord 8 tend ++ bytesOfWord 8 p.cost
    ++ bytesOfWord 8 0 ++ (let key := if v.status = 0 then p.key else []
      key ++ List.replicate (64 - key.length) 0)

/-- A packet is decided: its end is a step of its own in the same cycle. The first decision stands. -/
def State.decidePacket (s : State) (id : Nat) (v : EndValues) : State :=
  match s.packet id with
  | none => s
  | some p =>
    if p.result.isSome then s
    else (s.modPacket id (fun p => { p with result := some v, waiting := false })).schedule s.cycle .packetEnd [id]

/-- Run the work of a packet: it goes through, fails the packet, or waits for a page. -/
def State.runFront (s : State) (p : Packet) (a : Front Unit) : State :=
  match a s with
  | .ok (_, s') =>
    { s'.modPacket p.id (fun p => { p with waiting := false }) with
      hostOnce := s'.hostOnce.filter (fun f => f.1 != .packet p.id) }
  | .error (.fail v) => s.decidePacket p.id v
  | .error (.page va w) => (s.translate p.translator va w).2.modPacket p.id (fun p => { p with waiting := true })

/-- The bytes of a dropped packet, read when it is dropped: none where they cannot be read or are poisoned. -/
def State.dropBytes (s : State) (p : Packet) : Front (List Byte) :=
  match s.queue p.queue with
  | none => pure []
  | some q => do
    let bs ← frontRead p.translator (q.slotAddress p.idx) 128
    return if (bs.take 64).any Prod.snd then [] else bs.map Prod.fst

/-- The packet is gone. -/
def State.removePacket (s : State) (id : Nat) : State :=
  { s with packets := s.packets.filter (fun p => p.id != id)
           hostFails := s.hostFails.filter (fun f => f.1 != .packet id)
           hostOnce := s.hostOnce.filter (fun f => f.1 != .packet id) }

/-- The result record is written. A fault on it becomes the packet's status. -/
def recordStep (p : Packet) (v : EndValues) : Front EndValues := fun s =>
  match p.res with
  | none => .ok (v, s)
  | some a =>
    if p.recorded then .ok (v, s)
    else
      match frontWrite p.translator a (noPoison (p.record v (if p.dropped then p.taken else s.now))) s with
      | .ok (_, s') => .ok (v, s')
      | .error (.fail f) => .ok (if p.dropped then v else f, s)
      | .error (.page va w) => .error (.page va w)

/-- The completion signal is lowered, by 1 or by 2. Answers the packet's status and whether the update has faulted: the
fault is then the status, and the signal is left as it is. -/
def signalStep (p : Packet) (v : EndValues) : Front (EndValues × Bool) := fun s =>
  match p.csig with
  | none => .ok ((v, false), s)
  | some a =>
    if p.faulted then .ok ((v, true), s)
    else
      match frontUpdate p.translator a (fun x => if v.status = 0 then x - 1 else x - 2) s with
      | .ok (_, s') => .ok ((v, false), s')
      | .error (.page va w) => .error (.page va w)
      | .error (.fail f) =>
        .ok (({ v with status := f.status, xval := BitVec.ofNat 64 a, xval2 := f.xval2 }, true), s)

/-- STATUS, XVAL and XVAL2 of a record are written again, to report a fault of the signal. -/
def rewriteStep (p : Packet) (v : EndValues) : Front Unit :=
  match p.res with
  | none => pure ()
  | some r => do
    frontWrite p.translator r (noPoison (bytesOfWord 2 v.status))
    frontWrite p.translator (r + 16) (noPoison (bytesOfWord 8 v.xval.toNat ++ bytesOfWord 8 v.xval2.toNat))

/-- Report the end of a packet. Answers its final status where it is over; else it waits for a page. -/
def State.report (s : State) (p : Packet) (v : EndValues) : Option EndValues × State :=
  let wait := fun (s : State) (va : Nat) (w : Bool) =>
    ((none : Option EndValues),
      (s.translate p.translator va w).2.modPacket p.id (fun p => { p with waiting := true }))
  match (if p.dropped && p.bytes.isEmpty then s.dropBytes p else pure p.bytes : Front (List Byte)) s with
  | .error (.page va w) => wait s va w
  | .error (.fail _) => (some v, s.removePacket p.id)
  | .ok (bytes, s) =>
    let p := { p with bytes := bytes }
    match recordStep p v s with
    | .error (.page va w) => wait s va w
    | .error (.fail _) => (some v, s.removePacket p.id)
    | .ok (v, s) =>
      let s := s.modPacket p.id (fun p => { p with bytes := bytes, recorded := true, result := some v })
      match signalStep { p with result := some v } v s with
      | .error (.page va w) => wait s va w
      | .error (.fail _) => (some v, s.removePacket p.id)
      | .ok ((v, false), s) => (some v, s.removePacket p.id)
      | .ok ((v, true), s) =>
        let s := s.modPacket p.id (fun p => { p with result := some v, faulted := true })
        match rewriteStep p v s with
        | .error (.page va w) => wait s va w
        | .error (.fail _) => (some v, s.removePacket p.id)
        | .ok (_, s) => (some v, s.removePacket p.id)

/-- The report of a launch whose boundary has been taken at its end is released by that boundary: nothing of it is held
back, and no rollback undoes it (R361). -/
def State.endOne (s : State) (p : Packet) (v : EndValues) : Option EndValues × State :=
  if p.released then
    let r := ({ s with intervalWorlds := s.intervalWorlds.filter (fun w => w != p.wid) } : State).report p v
    (r.1, { r.2 with intervalWorlds := s.intervalWorlds })
  else s.report p v

/-- One packet not yet taken is dropped. -/
def State.dropOne (s : State) (q : Nat) (x : Queue) (i : Word) : State :=
  let v : EndValues := { status := statusDropped }
  let p : Packet := { id := s.nextId, queue := q, idx := i, wid := x.wid, pasid := x.pasid, prio := x.prio, bytes := [],
                      type := 8, taken := s.now, result := some v }
  let s : State := { s with nextId := s.nextId + 1, packets := s.packets ++ [p] }
  (s.endOne p v).2

/-- Every packet of a queue that is not yet taken is dropped, in index order. -/
def State.dropRest (s : State) (q : Nat) : State :=
  match s.queue q with
  | none => s
  | some x =>
    let n := (x.kick - x.ridx).toNat
    let s := s.modQueue q (fun x => { x with ridx := x.kick })
    (List.range n).foldl (fun s i => s.dropOne q x (x.ridx + BitVec.ofNat 32 i)) s

/-- A queue enters its error state; one already in it keeps its first failure. -/
def State.queueError (s : State) (q : Nat) (i : Word) (status : Nat) (sig : DWord) : State :=
  match s.queue q with
  | none => s
  | some x =>
    if x.error then s
    else
      (s.modQueue q (fun x => { x with error := true, errIdx := i, errStat := status, errSig := sig })).dropRest q

/-- A draining queue none of whose packets is left has drained. -/
def State.checkDrain (s : State) (q : Nat) : State :=
  match s.queue q with
  | some x => if x.draining && (s.unended q).isEmpty then s.schedule s.cycle .queueDrainComplete [q] else s
  | none => s

/-- A packet ends (R345): its record, its signal, and what a failure does to its queue. -/
def State.endPacket (s : State) (p : Packet) : State :=
  match p.result with
  | none => s
  | some v =>
    match s.endOne p v with
    | (none, s) => s
    | (some v, s) =>
      let sig : DWord := match p.verdict with
        | some (some va) => if v.status = Cause.abort.code.toNat then BitVec.ofNat 64 va else 0
        | _ => 0
      let s := if v.status = 0 || v.status = statusDropped then s else s.queueError p.queue p.idx v.status sig
      s.checkDrain p.queue

/-! ## Taking packets (R329, R335 to R337) -/

/-- The front end as it reads the next ring slot of a queue. -/
def readerOf (q : Nat) (x : Queue) : Translator :=
  { die := frontDie, world := x.wid, pasid := x.pasid, user := .packet (2 ^ 40 + q) }

/-- The packet in the next ring slot may be taken: its BAR, and a free place of its kind. -/
def State.mayTake (s : State) (q : Nat) (bs : List Byte) : Bool :=
  let live := s.packets.filter (fun p => !p.dropped)
  let bar := (bs.getD 1 0).getLsbD 0
  (!bar || !(live.any (fun p => p.queue == q)))
    && (if bs.getD 0 0 = 5 then decide ((live.filter (fun p => p.type == 5)).length < 4096)
        else decide ((live.filter (fun p => p.type != 5)).length < 256))

def Queue.offers (x : Queue) : Bool := x.ridx != x.kick && !x.error && !x.draining

/-- Queues in the order in which they are served. -/
def State.serveOrder (s : State) : List Nat :=
  (List.range 8).reverse.flatMap (fun p =>
    let qs := (s.queues.filter (fun e => e.2.prio == p && e.2.offers)).map Prod.fst
    match s.served.find p with
    | none => qs
    | some last => qs.filter (fun q => decide (last < q)) ++ qs.filter (fun q => decide (q ≤ last)))

/-- The first queue of an order whose packet can be taken, with its bytes. -/
def State.pick (s : State) : List Nat → Option (Nat × List (Byte × Bool)) × State
  | [] => (none, s)
  | q :: rest =>
    match s.queue q with
    | none => s.pick rest
    | some x =>
      match frontRead (readerOf q x) (x.slotAddress x.ridx) 128 s with
      | .ok (bs, s) => if s.mayTake q (bs.map Prod.fst) then (some (q, bs), s) else s.pick rest
      | .error (.page va w) => ((s.translate (readerOf q x) va w).2).pick rest
      | .error (.fail v) =>
        -- R394: the queue enters its error state with the index that could not be read
        let s := { s with hostFails := s.hostFails.filter (fun f => f.1 != AtsUser.packet (2 ^ 40 + q)) }
        let s := s.modQueue q (fun x => { x with ridx := x.ridx + 1 })
        (s.queueError q x.ridx v.status 0).pick rest

/-- What comes of a packet that is taken. -/
def State.begin (s : State) (p : Packet) (bs : List (Byte × Bool)) : State :=
  if (bs.take 64).any Prod.snd then
    (s.modPacket p.id (fun p => { p with bytes := [] })).decidePacket p.id { status := Cause.poison.code.toNat }
  else if bs.any Prod.snd then s.decidePacket p.id { status := Cause.poison.code.toNat }
  else if !p.legal then s.decidePacket p.id { status := statusReject }
  else
    match p.type with
    | 0 => s.scheduleWithin 2000 .nopPacket [p.id]
    | 3 => s.scheduleWithin 2000 .copyPacket [p.id]
    | 4 => s.scheduleWithin 2000 .signalPacket [p.id]
    | 5 => s.schedule s.cycle .barrierPacket [p.id]
    | 6 => s.scheduleWithin 2000 .timestampPacket [p.id]
    | 7 => s.scheduleWithin 2000 .provenancePacket [p.id]
    | _ => s

/-- PACKET_TAKE: at most one packet every 4 ns. -/
def execPacketTake (s : State) : Outcome :=
  .next (if s.time < s.nextTake || s.updating then s
    else
      match s.pick s.serveOrder with
      | (none, s) => s
      | (some (q, bs), s) =>
        match s.queue q with
        | none => s
        | some x =>
          let bytes := bs.map Prod.fst
          let p : Packet := { id := s.nextId, queue := q, idx := x.ridx, wid := x.wid, pasid := x.pasid, prio := x.prio,
                              bytes := bytes, type := (bytes.getD 0 0).toNat, taken := s.now }
          let s : State := { s with
            nextId := s.nextId + 1, packets := s.packets ++ [p], nextTake := s.time + 17136
            served := s.served.put x.prio q
            hostOnce := s.hostOnce.filter (fun f => f.1 != AtsUser.packet (2 ^ 40 + q)) }
          (s.modQueue q (fun x => { x with ridx := x.ridx + 1 })).begin p bs)

/-! ## The registers of a queue (R333, R334, R344) -/

/-- KICK. In the error state what is kicked is dropped as it arrives. -/
def execKick (q : Nat) (w : Word) (s : State) : Outcome :=
  .next (match s.queue q with
    | none => s
    | some x =>
      let ahead := (w - x.ridx).toNat
      if x.draining || x.destroying || !(decide ((x.kick - x.ridx).toNat < ahead) && decide (ahead ≤ x.nslot)) then s
      else
        let s := s.modQueue q (fun x => { x with kick := w })
        if x.error then s.dropRest q else s)

/-- RESET: the queue drains until every packet it has taken has ended. -/
def execQueueReset (q : Nat) (s : State) : Outcome :=
  .next ((s.modQueue q (fun x => { x with draining := true })).checkDrain q)

/-- A queue is removed: the records of its packets are no longer held (R343), nor the host entries of its PASID (R109). -/
def State.removeQueue (s : State) (q : Nat) (x : Queue) : State :=
  { s with
    queues := s.queues.erase q
    provs := s.provs.filter (fun r => r.queue != q)
    tlb := s.tlb.flatMap (fun e =>
      if x.pasid.isSome && e.world == x.wid && e.pasid == x.pasid then
        (if e.core.isNone then [{ e with gone := true }] else [])
      else [e]) }

/-- The queue has drained: it is idle, or removed where DESTROY_QUEUE waits for this. -/
def execQueueDrainComplete (s : State) : Outcome :=
  .next (match s.subject with
    | [q] =>
      match s.queue q with
      | none => s
      | some x =>
        if !x.draining || !(s.unended q).isEmpty then s
        else if x.destroying then s.removeQueue q x
        else s.modQueue q (fun x => { x with
          draining := false, error := false, errStat := 0, errIdx := 0, errSig := 0, ridx := x.kick, oldest := none })
    | _ => s)

/-- MODE: 0 idle, 1 active, 2 error, 3 draining. -/
def State.queueMode (s : State) (q : Nat) (x : Queue) : Nat :=
  if x.draining then 3 else if x.error then 2
  else if x.ridx = x.kick && (s.unended q).isEmpty then 0 else 1

/-- What a read of a queue's register page answers, 4 bytes at an offset; none for a queue that does not exist. -/
def State.queueRegister (s : State) (q off : Nat) : Option Word :=
  (s.queue q).map (fun x =>
    let waiting := min 255 ((s.unended q).filter (fun p => p.type == 5 && p.result.isNone)).length
    match off with
    | 0x00 => x.kick
    | 0x04 => x.ridx
    | 0x08 => BitVec.ofNat 32 (x.errStat % 256 * 2 ^ 24 + waiting * 2 ^ 8 + s.queueMode q x)
    | 0x0C => x.errIdx
    | 0x10 => x.errSig.extractLsb' 0 32
    | 0x14 => x.errSig.extractLsb' 32 32
    | _ => 0)

/-! ## The short packets (R342) -/

/-- The packet that a step acts on, while its end is open. -/
def State.subjectPacket (s : State) : Option Packet :=
  match s.subject with
  | id :: _ => (s.packet id).filter (fun p => p.result.isNone)
  | [] => none

def State.startWork (s : State) (id : Nat) : State :=
  s.modPacket id (fun p => if p.tstart = 0 then { p with tstart := s.now } else p)

/-- Work that completes its packet when it goes through. -/
def State.workFront (s : State) (p : Packet) (a : Front Unit) : State :=
  (s.startWork p.id).runFront p (do
    a
    Front.modify (fun s => s.decidePacket p.id {}))

def execNopPacket (s : State) : Outcome :=
  .next (match s.subjectPacket with
    | some p => s.workFront p (pure ())
    | none => s)

/-- What a SIGNAL stores (R327): a sum that overflows stores −1. -/
def signalValue (op : Nat) (old v : DWord) : DWord :=
  if op = 1 then v
  else
    let sum := old.toInt + v.toInt
    if sum < -(2 ^ 63) || 2 ^ 63 ≤ sum then -1 else old + v

def execSignalPacket (s : State) : Outcome :=
  .next (match s.subjectPacket with
    | some p =>
      s.workFront p (frontUpdate p.translator (p.field 32 8)
        (fun old => signalValue (p.field 40 1) old (BitVec.ofNat 64 (p.field 48 8))))
    | none => s)

/-- The time at which the packet was taken is stored. -/
def execTimestampPacket (s : State) : Outcome :=
  .next (match s.subjectPacket with
    | some p => s.workFront p (frontWrite p.translator (p.field 32 8) (noPoison (bytesOfWord 8 p.taken)))
    | none => s)

/-- The signed record of an ended packet is copied (R343). -/
def execProvenancePacket (s : State) : Outcome :=
  .next (match s.subjectPacket with
    | some p =>
      -- the record of a packet that has not ended is not held yet
      let ended := !(s.packets.any (fun x => x.queue == p.queue && x.idx.toNat == p.field 44 4))
      let rec? := s.provs.find? (fun r => ended && r.queue == p.queue && r.idx.toNat == p.field 44 4)
      match rec? with
      | none => (s.startWork p.id).decidePacket p.id { status := statusNoprov }
      | some r =>
        if p.field 40 4 < 0xF00 then (s.startWork p.id).decidePacket p.id { status := statusNoprov }
        else s.workFront p (frontWrite p.translator (p.field 32 8) (noPoison r.bytes))
    | none => s)

/-- A COPY moves one 64-byte block of its destination. -/
def copyBlock (p : Packet) (i : Nat) : Front Unit := do
  let blocks := cutRange 64 (p.field 40 8) (p.field 48 8)
  match blocks[(p.first + i) % blocks.length]? with
  | none => pure ()
  | some (va, n) => do
    let bs ← frontRead p.translator (p.field 32 8 + (va - p.field 40 8)) n
    frontWrite p.translator va bs

/-- A COPY goes on, block by block (R226, R342): the next in a later cycle. What it has written stays. -/
def execCopyPacket (s : State) : Outcome :=
  .next (match s.subjectPacket with
    | some p =>
      let n := (cutRange 64 (p.field 40 8) (p.field 48 8)).length
      let s := if p.done = 0 && p.tstart = 0 then
          ({ s with draws := s.draws + 1 } : State).modPacket p.id (fun p => { p with first := Config.copyChoice s.draws % n })
        else s
      let p := (s.packet p.id).getD p
      (s.startWork p.id).runFront p (do
        copyBlock p p.done
        Front.modify (fun s =>
          let s := s.modPacket p.id (fun p => { p with done := p.done + 1 })
          if n ≤ p.done + 1 then s.decidePacket p.id {} else
            ({ s with draws := s.draws + 1 } : State).schedule (s.cycle + 1 + Config.delay s.draws) .copyPacket [p.id]))
    | none => s)

/-! ## BARRIER (R326, R328, R344) -/

/-- The used conditions of a BARRIER, each at its place. -/
def condsFrom (p : Packet) : Nat → Front (List Cond)
  | 0 => pure []
  | k + 1 => do
    let n := 3 - k
    let va := p.field (32 + 24 * n) 8
    if va = 0 then condsFrom p k
    else do
      let a ← frontPlace p.translator va false
      let rest ← condsFrom p k
      return { va := va, place := a.1, off := a.2, cmp := p.field (40 + 24 * n) 1,
               thr := BitVec.ofNat 64 (p.field (48 + 24 * n) 8) } :: rest

/-- A host signal is read again after 1 µs. -/
def State.pollLater (s : State) (id : Nat) (conds : List Cond) : State :=
  let due := s.cycle + s.cyclesFor 1000
  if conds.any (fun c => c.place == .host) && (s.packet id).any (fun p => decide (p.poll ≤ s.cycle)) then
    (s.modPacket id (fun p => { p with poll := due })).schedule due .hostSignalPoll [id]
  else s

/-- A BARRIER enters the wait list, and is evaluated. -/
def execBarrierPacket (s : State) : Outcome :=
  .next (match s.subjectPacket with
    | some p =>
      (s.startWork p.id).runFront p (do
        let conds ← condsFrom p 4
        Front.modify (fun s =>
          if conds.isEmpty then s.decidePacket p.id {}
          else
            let s := s.modPacket p.id (fun p => { p with conds := conds })
            (s.judge { p with conds := conds }).pollLater p.id conds))
    | none => s)

/-- What an evaluation has decided takes effect. -/
def execBarrierEvaluate (s : State) : Outcome :=
  .next (match s.subjectPacket with
    | some p =>
      match p.verdict with
      | none => s
      | some none => s.decidePacket p.id {}
      | some (some _) => s.decidePacket p.id { status := Cause.abort.code.toNat }
    | none => s)

/-- The host signals of a waiting BARRIER are read, on their present pages. -/
def execHostSignalPoll (s : State) : Outcome :=
  .next (match s.subjectPacket with
    | some p =>
      if p.conds.isEmpty then s
      else
        s.runFront p (do
          let conds ← condsFrom p 4
          Front.modify (fun s =>
            let s := s.modPacket p.id (fun p => { p with conds := conds })
            (s.judge { p with conds := conds }).pollLater p.id conds))
    | none => s)

/-! ## Waiting for pages (R394), and the watchdogs (R349) -/

/-- The step in which a packet goes on with its work. -/
def Packet.next (p : Packet) : Instr :=
  if p.result.isSome then .packetEnd
  else
    match p.type with
    | 1 => .launchLoad
    | 2 => .translatePacket
    | 3 => .copyPacket
    | 4 => .signalPacket
    | 5 => if p.conds.isEmpty then .barrierPacket else .hostSignalPoll
    | 6 => .timestampPacket
    | 7 => .provenancePacket
    | _ => .nopPacket

/-- Packets whose page request has been answered go on. -/
def State.resumePackets (s : State) : State :=
  (s.packets.filter (fun p => p.waiting && !(s.ats.any (fun r => r.users.contains (.packet p.id))))).foldl (fun s p =>
    (s.modPacket p.id (fun p => { p with waiting := false })).schedule s.cycle p.next [p.id]) s

/-- A page that the front end asked the host for is there: the page request has succeeded, and the repeated ATS request
brings this answer. -/
def execFrontEndPageWait (pk : Nat) (reply : AtsReply) (s : State) : Outcome :=
  .next ((s.ats.filter (fun r => r.pri && r.users.contains (.packet pk))).foldl (fun s r =>
    let s := s.modAts r.id (fun r => { r with pri := false })
    (s.atsAnswer { r with pri := false } reply).nextPri) s)

/-- What a queue's watchdog times: its oldest unended packet, a dropped one too whose report waits for a page, or the ring
slot it waits for (R349, R394). -/
def State.watched (s : State) (q : Nat) (x : Queue) : Option Nat :=
  match s.unended q with
  | p :: _ => some p.id
  | [] =>
    if x.offers && s.ats.any (fun r => r.users.contains (.packet (2 ^ 40 + q))) then some (2 ^ 40 + x.ridx.toNat) else none

/-- A launch that has been pre-empted stops its queue's timer. -/
def State.timerPaused (s : State) (id : Nat) : Bool := s.launches.any (fun e => e.2.pk == id && e.2.saved)

/-- A watchdog after one more cycle. -/
def State.tickQueue (s : State) (q : Nat) : State :=
  match s.queue q with
  | none => s
  | some x =>
    match s.watched q x with
    | none => s.modQueue q (fun x => { x with oldest := none })
    | some id =>
      let old := match x.oldest with
        | some (i, t) => if i = id then t else 0
        | none => 0
      let t := if s.timerPaused id then old else old + s.period
      let s := s.modQueue q (fun x => { x with oldest := some (id, t) })
      if x.wdog * 1000 * 4284 ≤ t then s.schedule s.cycle .watchdogExpiry [q] else s

/-- The pages that a packet's report waits for are given up: each access fails with a cause (R394). -/
def State.failWaits (s : State) (pk : Nat) (c : Cause) : State :=
  let pages := (s.ats.filter (fun r => r.users.contains (.packet pk))).map AtsReq.va
  ({ s with hostFails := pages.map (fun va => (AtsUser.packet pk, va, c, 0)) ++ s.hostFails } : State).withdrawUsers
    (fun u => u == .packet pk)

/-- An unended packet fails with a status. Its launch or run ends so, and is drained and reset, even where an end of it was
decided. Where only its report is left, the access that the report waits for fails, or else the report that is to come
tells the new status. -/
def State.failPacket (s : State) (p : Packet) (c : Cause) : State :=
  let v : EndValues := { status := c.code.toNat }
  match s.launches.find? (fun e => e.2.pk == p.id) with
  | some (lid, l) =>
    if l.ending.isNone then s.abortLaunch lid v
    else (s.modLaunch lid (fun l => { l with ending := some v })).schedule s.cycle .partitionDrainReset [lid]
  | none =>
    if p.result.isNone then s.decidePacket p.id v
    else if p.waiting then
      ((s.failWaits p.id c).modPacket p.id (fun p => { p with waiting := false })).schedule s.cycle .packetEnd [p.id]
    else s.modPacket p.id (fun p => { p with result := some v, recorded := false })

def execWatchdogExpiry (s : State) : Outcome :=
  .next (match s.subject with
    | [q] =>
      match s.queue q with
      | none => s
      | some x =>
        let status := Cause.watchdog.code.toNat
        match s.unended q with
        | [] =>
          -- the ring slot could not be read in time
          if x.oldest.isNone then s
          else
            (((s.modQueue q (fun x => { x with ridx := x.ridx + 1, oldest := none })).queueError q x.ridx status 0)
              : State).checkDrain q
        | p :: rest =>
          let s := s.modQueue q (fun x => { x with oldest := none })
          let s := s.queueError q p.idx status 0
          (p :: rest).foldl (fun s p => s.failPacket p .watchdog) s
    | _ => s)

end Sys2Proof.Machine
end

