-- ==== Sys2Proof/Machine/Launch.lean ====
section
/-! DEFINITION. Launches (R337, R338, R346 to R348, R364, R387, R388): which packet gets a partition, how a LAUNCH is loaded,
and how a launch ends. -/

namespace Sys2Proof.Machine

/-! ## Partitions and classes (R372, R387) -/

/-- The dies of a world's partition, in rising order. -/
def State.partition (s : State) (w : Nat) : List Nat :=
  (List.range dieCount).filter (fun d => (s.die d).valid && (s.die d).wid == w && !s.deadDies.contains d)

/-- Frequency classes from the fastest. -/
def classRank (c : Nat) : Nat := if c = 7 then 0 else c + 1

/-- The slower of two classes. -/
def slowerClass (a b : Nat) : Nat := if classRank a < classRank b then b else a

/-- The class that a die is to run at. -/
def Die.target (d : Die) : Nat :=
  match d.ceiling with
  | none => d.wanted
  | some c => slowerClass d.wanted c

/-- The dies of a partition that do not run at the class asked for will, within 50 µs. -/
def State.reachClass (s : State) (w : Nat) : State :=
  if (s.partition w).all (fun d => (s.die d).fclass == (s.die d).target) then s
  else s.scheduleWithin 50000 .frequencyClassChange [w]

/-- The front end asks for a class for a partition. Class 7 may be served as class 0. The change comes within 50 µs. -/
def State.requestClass (s : State) (w c : Nat) : State :=
  let granted := if c = 7 && !Config.powerLow s.draws then 0 else c
  let s := { s with draws := s.draws + 1 }
  ((s.partition w).foldl (fun s d => s.modDie d (fun x => { x with wanted := granted })) s).reachClass w

def State.classReached (s : State) (w : Nat) : Bool :=
  (s.partition w).all (fun d => (s.die d).fclass == (s.die d).target)

/-! ## Which packet gets the partition (R337, R338) -/

def Packet.usesPartition (p : Packet) : Bool := p.type == 1 || p.type == 2

/-- A change of the live map waits for its moment (R316). -/
def State.mapPending (s : State) : Bool := s.agenda.any (fun d => d.step == .liveMapChange)

/-- Packets of a world that wait for its partition. While the live map is to change, a TRANSLATE waits. -/
def State.waitingWork (s : State) (w : Nat) : List Packet :=
  s.packets.filter (fun p => p.wid == w && p.usesPartition && !p.working && p.result.isNone && !p.proved && !p.waiting
    && !(p.type == 2 && s.mapPending))

/-- Of some packets, the first of those of the highest priority. -/
def bestPacket : List Packet → Option Packet
  | [] => none
  | p :: rest =>
    match bestPacket rest with
    | none => some p
    | some q => if p.prio < q.prio then some q else some p

def State.launchOf (s : State) (pk : Nat) : Option Launch := (s.launches.map Prod.snd).find? (fun l => l.pk == pk)

/-- What holds the partition of a world: a packet at work on it whose launch is not saved, or a launch not yet gone. -/
def State.partitionBusy (s : State) (w : Nat) : Bool :=
  s.launches.any (fun e => e.2.world == w && (!e.2.saved || e.2.restoring))
    || s.packets.any (fun p => p.wid == w && p.usesPartition && p.working
      && !((s.launchOf p.id).any (fun l => l.saved && !l.restoring)))

/-- Saved launches of a world, the highest priority first. -/
def bestSaved : List Launch → Option Launch
  | [] => none
  | l :: rest =>
    match bestSaved rest with
    | none => some l
    | some m => if l.prio < m.prio then some m else some l

def State.beginWork (s : State) (p : Packet) : State :=
  (s.modPacket p.id (fun p => { p with working := true, tstart := s.now })).schedule s.cycle
    (if p.type = 1 then .launchLoad else .translatePacket) [p.id]

/-- The cycles in which one core's buffer is written or read, at least (R357). -/
def bufferCycles : Nat := 13312

/-- A saved launch is to be restored; reading the buffers takes as long as writing them. -/
def State.beginRestore (s : State) (l : Launch) : State :=
  ({ s.modLaunch l.lid (fun l => { l with restoring := true }) with draws := s.draws + 1 } : State).schedule
    (s.cycle + bufferCycles + Config.delay s.draws) .contextRestore [l.lid]

/-- The partition of a world is given out. -/
def State.dispatchWork (s : State) (w : Nat) : State :=
  let best := bestPacket (s.waitingWork w)
  if (s.partition w).isEmpty then
    (s.waitingWork w).foldl (fun s p => s.decidePacket p.id { status := statusPlace }) s
  else if s.partitionBusy w then
    match best with
    | none => s
    | some p =>
      match (s.launches.map Prod.snd).find? (fun l => l.world == w && !l.saved) with
      | some l =>
        if p.type = 1 && decide (l.prio < p.prio) && l.preemptable && l.started && l.ending.isNone
            && l.preempting.isNone then
          s.schedule s.cycle .launchPreempt [l.lid]
        else s
      | none => s
  else
    match bestSaved ((s.launches.map Prod.snd).filter (fun l => l.world == w && l.saved && l.ending.isNone)), best with
    | none, none => s
    | none, some p => s.beginWork p
    | some l, none => s.beginRestore l
    | some l, some p => if l.prio < p.prio then s.beginWork p else s.beginRestore l

/-- Worlds that have packets at work, or launches. -/
def State.busyWorlds (s : State) : List Nat :=
  ((s.packets.filter Packet.usesPartition).map Packet.wid
    ++ s.launches.map (fun e => e.2.world)).eraseDups

def State.dispatchAll (s : State) : State := s.busyWorlds.foldl State.dispatchWork s

/-! ## The launch record (R346) -/

def recField (bs : List Byte) (off n : Nat) : Nat := leNat ((bs.drop off).take n)

/-- Bytes of a record, none of which may be poisoned. -/
def frontClean (t : Translator) (va n : Nat) : Front (List Byte) := do
  let bs ← frontRead t va n
  Front.failIf (bs.any Prod.snd) Cause.poison.code.toNat
  return bs.map Prod.fst

/-- The record's own fields are within their limits; its tables do not meet. -/
def recordLegal (r : List Byte) (live : Nat) : Bool :=
  let f := recField r
  decide (1 ≤ f 80 4) && decide (f 80 4 ≤ 4 * live) && f 84 4 % 64 == 0 && decide (256 ≤ f 84 4)
    && (if f 88 4 = 0 then f 92 4 == 0 else f 92 4 % 8 == 0 && decide (256 ≤ f 92 4))
    && decide (f 96 1 < 8) && decide (f 97 1 < 2) && zeroBytes r 98 30 && zeroBytes r 200 56
    && (if f 97 1 = 0 then f 72 8 == 0 else f 72 8 % 0x1000 == 0)
    && (f 88 4 == 0 || decide (f 84 4 + 64 * f 80 4 ≤ f 92 4) || decide (f 92 4 + 24 * f 88 4 ≤ f 84 4))

/-- Every byte of the tables lies within the 2 MiB of the record's capability (R380). -/
def recordBounded (r : List Byte) : Bool :=
  let f := recField r
  decide (f 84 4 + 64 * f 80 4 ≤ 0x200000) && decide (f 92 4 + 24 * f 88 4 ≤ 0x200000)

/-- A core named by die index and position: PLACE where there is none, or it is retired. -/
def namedCore (s : State) (dies : List Nat) (p x y : Nat) : Front Nat := do
  match dies[p]? with
  | none => Front.fail statusPlace
  | some d => do
    let c := coreAt d x y
    Front.failIf (decide (17 < x) || decide (15 < y) || s.deadCores.contains c) statusPlace
    return c

/-- The placement on the cores of a partition: core and stage, by virtual core (R302, R303). -/
def placements (s : State) (dies : List Nat) : List DWord → Front (List (Nat × Nat))
  | [] => pure []
  | e :: rest => do
    let b := fun i => (e.extractLsb' (8 * i) 8).toNat
    let c ← namedCore s dies (b 0) (b 1) (b 2)
    let more ← placements s dies rest
    return (c, (e.extractLsb' 32 16).toNat) :: more

/-- A route entry resolved (R233, R303): its channel and the entry of the route table. -/
def resolveEntry (cores : List (Nat × Nat)) (e : DWord) : Nat × DWord :=
  let b := fun i => (e.extractLsb' (8 * i) 8).toNat
  let at_ := fun (v lo : Nat) => v * 2 ^ lo
  let body := match b 2 with
    | 0 =>
      let c := (cores.getD (b 4 + 256 * b 5) (0, 0)).1
      at_ (dieOfCore c) 50 + at_ (xOfCore c) 44 + at_ (yOfCore c) 38
    | 1 => at_ 1 62 + at_ (b 4 % 64) 44 + at_ (b 5 % 64) 38
    | _ => at_ 1 61 + at_ (b 3) 53 + at_ (b 4) 50 + at_ (b 5) 44 + at_ (b 6) 38
  (b 0, BitVec.ofNat 64 (at_ 1 63 + body + b 1))

/-- An entry task: its slot and descriptor, with ENTRY as an offset from CBASE. -/
def entryTask (s : State) (dies : List Nat) (cores : List (Nat × Nat)) (codeLen : Nat) (r : List Byte) :
    Front (Nat × TaskDesc) := do
  let f := recField r
  let ctrl := f 4 4
  let joins := ctrl / 128 % 2 = 1
  let vc := ctrl / 256 % 2 = 1
  Front.failIf (decide (codeLen ≤ f 0 4) || ctrl % 65536 / 512 != 0 || ctrl % 128 != 0 || (vc && f 12 1 != 0)
    || decide (3 < f 15 1) || (if joins then f 32 8 % 4 != 0 else f 32 8 != 0) || !zeroBytes r 40 24) statusReject
  let c ← if vc then
      match cores[f 13 2]? with
      | none => Front.fail statusPlace
      | some c => pure c.1
    else namedCore s dies (f 12 1) (f 13 1) (f 14 1)
  return (c * 4 + f 15 1,
    { entry := BitVec.ofNat 32 (f 0 4)
      ctrl := BitVec.ofNat 32 (ctrl / 65536 * 65536 + 64 + if joins then 128 else 0)
      tile := BitVec.ofNat 32 (f 8 4), args := (List.range 4).map (fun i => BitVec.ofNat 32 (f (16 + 4 * i) 4))
      jaddr := BitVec.ofNat 64 (f 32 8) })

def entryTasks (s : State) (dies : List Nat) (cores : List (Nat × Nat)) (codeLen : Nat) (table : List Byte) :
    Nat → Front (List (Nat × TaskDesc))
  | 0 => pure []
  | n + 1 => do
    let e ← entryTask s dies cores codeLen (table.take 64)
    let rest ← entryTasks s dies cores codeLen (table.drop 64) n
    Front.failIf (rest.any (fun x => x.1 == e.1)) statusPlace
    return e :: rest

/-- Initial scratchpad items: a core, an offset, and where the bytes come from. -/
def scratchItems (s : State) (dies : List Nat) (table : List Byte) : Nat → Front (List (Nat × Nat × Nat × Nat))
  | 0 => pure []
  | n + 1 => do
    let f := recField table
    Front.failIf (f 11 1 != 0 || f 20 4 != 0 || f 12 4 % 64 != 0 || f 16 4 % 64 != 0
      || decide (0x80000 < f 12 4 + f 16 4)) statusReject
    let c ← namedCore s dies (f 8 1) (f 9 1) (f 10 1)
    let rest ← scratchItems s dies (table.drop 24) n
    return (c, f 12 4, f 0 8, f 16 4) :: rest

/-- The bytes of the items, read for a LAUNCH. -/
def itemBytes (t : Translator) : List (Nat × Nat × Nat × Nat) → Front (List (Nat × Nat × List (Byte × Bool)))
  | [] => pure []
  | (c, off, src, len) :: rest => do
    let bs ← frontRead t src len
    let more ← itemBytes t rest
    return (c, off, bs) :: more

/-! ## Places in the code arena (R110, R351) -/

/-- The next multiple of 4 KiB. -/
def upPage (n : Nat) : Nat := (n + 0xFFF) / 0x1000 * 0x1000

/-- Where a translator stands: one place for every run, so that no run can tell from its program counter what else stands
in the code arena (R297). -/
def translatorBase : Nat := Config.translatorPlace % 0x3FFF0 * 0x1000

/-- The ranges of the code arena in use on some dies, the translators' place among them. -/
def State.codeInUse (s : State) (dies : List Nat) : List (Nat × Nat) :=
  (translatorBase, translatorBase + 0x10000) :: (s.launches.filter (fun e => e.2.dies.any dies.contains)).flatMap (fun e =>
    (e.2.codeBase, e.2.codeBase + e.2.codeLen) :: (match e.2.handler with
      | some (b, n) => [(b, b + n)]
      | none => []))

def placeFree (used : List (Nat × Nat)) (a n : Nat) : Bool :=
  decide (a + n ≤ 0x40000000) && used.all (fun u => decide (u.2 ≤ a) || decide (a + n ≤ u.1))

/-- A free place for n bytes: a free choice, or else the first that is free after a range in use. -/
def State.choosePlace (s : State) (dies : List Nat) (n : Nat) : Option Nat :=
  let used := s.codeInUse dies
  let c := Config.codePlace s.draws % 0x40000 * 0x1000
  if placeFree used c n then some c
  else (0 :: used.map (fun u => upPage u.2)).find? (fun a => placeFree used a n)

/-- Bytes placed in the code arena of some dies. -/
def State.placeCode (s : State) (dies : List Nat) (a : Nat) (bs : List Byte) : State :=
  dies.foldl (fun s d => { s with dram := s.dram.overwrite (codeAddress d a) bs }) s

/-! ## Loading (R347) -/

/-- A partition is made ready for a launch: its L1s go home and are emptied, its device TLB entries are discarded, and
its inboxes, FIFOs, deques and event units are empty. The copy engines go on. -/
def State.preparePartition (s : State) (dies : List Nat) (fuse : Nat → Bool) : State :=
  let here := fun d => dies.contains d
  let s := ((s.cores.map Prod.fst).filter (fun c => here (dieOfCore c))).foldl State.flushL1 s
  { s with
    tlb := s.tlb.filter (fun e => !(here e.die && e.pasid.isNone))
    slots := s.slots.filter (fun e => !here (dieOfCore (coreOfSlot e.1)))
    cores := s.cores.filter (fun e => !here (dieOfCore e.1))
    clusters := (s.clusters.filter (fun e => !here (dieOfCluster e.1)))
      ++ (dies.flatMap (fun d => (List.range clustersPerDie).filterMap (fun c =>
        let old := s.cluster (d * 72 + c)
        let v : Cluster := { fused := fuse (dies.idxOf d * 72 + c), copyQueue := old.copyQueue, copyRuns := old.copyRuns }
        if v = {} then none else some (d * 72 + c, v))))
    dies := (s.dies.map (fun e => (e.1, if here e.1 then { e.2 with barriers := [] } else e.2))).filter
      (fun e => decide (e.2 ≠ dieDefault e.1)) }

/-- The clusters' and other lists, in canonical form again. -/
def Assoc.sorted {α : Type} (m : Assoc α) : Assoc α := m.foldl (fun r e => r.insert e.1 e.2) []

/-- The words of a table in an image. -/
def State.image (s : State) (key : List Byte) (w : Nat) : Option Image :=
  s.images.find? (fun i => i.key == key && i.wid == w)

/-- Write an initial scratchpad item. -/
def State.writeItem (s : State) (x : Nat × Nat × List (Byte × Bool)) : State :=
  (cutRange 64 x.2.1 x.2.2.length).foldl (fun s r =>
    let bs := (x.2.2.drop (r.1 - x.2.1)).take r.2
    let m := (s.memAt (.scratchpad x.1)).write r.1 (bs.map Prod.fst) (bs.any Prod.snd)
    s.setMemAt (.scratchpad x.1) m) s

/-- Nanoseconds within which a start event follows (R388). -/
def launchBound (dies image items : Nat) : Nat := 4000 + 800 * dies + image / 64 + items / 1000

/-- Identifiers are given in turn (R39), past one that a launch still loaded carries. -/
def identOf (n : Nat) : Word := Config.firstIdent + BitVec.ofNat 32 n

def State.identUsed (s : State) (v : Word) : Bool :=
  s.launches.any (fun e => e.2.ident == v && !(s.runs.any (fun r => r.2.pk == e.2.pk)))

def State.freeIdent (s : State) : Nat :=
  s.nextIdent + ((List.range (s.launches.length + 1)).find? (fun i => !s.identUsed (identOf (s.nextIdent + i)))).getD 0

/-- Step 1 of R347: the record is read and checked, and the key looked up. -/
def planLaunch (p : Packet) : Front LoadPlan := do
  let s ← Front.state
  let dies := s.partition p.wid
  Front.failIf dies.isEmpty statusPlace
  let lrec := p.field 32 8
  let r ← frontClean p.translator lrec 256
  let f := recField r
  Front.failIf (!recordLegal r (dies.flatMap s.liveCores).length) statusReject
  Front.failIf (!recordBounded r) statusCap
  let img ← match s.image (r.take 64) p.wid with
    | none => Front.fail statusNoacc
    | some i => pure i
  let cores ← placements s dies img.place
  let table ← frontClean p.translator (lrec + f 84 4) (64 * f 80 4)
  let entries ← entryTasks s dies cores img.codeLen table (f 80 4)
  let itemTable ← frontClean p.translator (lrec + f 92 4) (24 * f 88 4)
  let items ← scratchItems s dies itemTable (f 88 4)
  return { dies := dies, record := r, image := img, cores := cores, entries := entries, items := items }

/-- Steps 3 to 5 of R347: the partition is emptied, the image placed, the items copied and the entry tasks placed; the
start event is scheduled. -/
def placeLaunch (p : Packet) (x : LoadPlan) : Front Unit := do
  let f := recField x.record
  let img := x.image
  let s ← Front.state
  let handler := (s.world p.wid).handler
  match s.choosePlace x.dies (upPage img.code.length + handler.length) with
  | none => Front.fail statusPlace
  | some base =>
    let hbase := base + upPage img.code.length
    Front.modify (fun s =>
      let s := s.preparePartition x.dies (fun i => f (128 + i / 8) 1 / 2 ^ (i % 8) % 2 = 1)
      let s := { s with draws := s.draws + 1, nextLid := s.nextLid + 1, nextIdent := s.freeIdent + 1, clusters := s.clusters.sorted }
      let s := (s.placeCode x.dies base img.code).placeCode x.dies hbase handler
      let l : Launch := {
        lid := s.nextLid, pk := p.id, world := p.wid, prio := p.prio, dies := x.dies, key := img.key
        ident := identOf (s.nextIdent - 1)
        codeBase := base, codeLen := img.code.length
        codeEnd := if img.emulates then img.codeLen else img.code.length
        libBase := img.lib, libLen := if img.emulates then 0x1000 else 0
        backMap := img.backMap, ht := img.ht, hcode := img.hcode
        handler := if handler.isEmpty then none else some (hbase, handler.length)
        routes := (img.routes.map (resolveEntry x.cores)).foldl (fun m e => Assoc.set routeDefault m e.1 e.2) []
        spill := BitVec.ofNat 64 (f 64 8), ctx := BitVec.ofNat 64 (f 72 8), preemptable := f 97 1 = 1
        pasid := p.pasid, entries := x.entries.map Prod.fst, nroll := p.nroll }
      let s := { s with launches := s.launches.put l.lid l }
      x.cores.foldl (fun s c => s.modCore c.1 (fun y => { y with stage := BitVec.ofNat 16 c.2 })) s)
    let items ← itemBytes p.translator x.items
    Front.modify (fun s =>
      let s := items.foldl State.writeItem s
      let s := x.entries.foldl (fun s e =>
        s.startTask e.1 { e.2 with entry := e.2.entry + BitVec.ofNat 32 base } (2 ^ 64)) s
      let s := { s with images := s.images.map (fun (i : Image) => if i.key == img.key then { i with used := s.time } else i) }
      let bytes := (x.items.map (fun i => i.2.2.2)).foldl (· + ·) 0
      s.scheduleWithin (launchBound x.dies.length img.code.length bytes - 20) .startEvent [s.nextLid])

/-- Steps 1 and 2 of R347: the record is read, once, and the class asked for. -/
def planLoad (p : Packet) : Front Unit := do
  let x ← planLaunch p
  let cls := if p.fcset then p.fclass else recField x.record 96 1
  Front.modify (fun s => (s.requestClass p.wid cls).modPacket p.id (fun p => { p with plan := some x }))

/-- With HOLD a LAUNCH waits for its class before step 3. -/
def loadLaunch (p : Packet) : Front Unit := do
  let s ← Front.state
  match p.plan with
  | some x => if p.hold && !s.classReached p.wid then pure () else placeLaunch p x
  | none => pure ()

/-- LAUNCH_LOAD. What step 1 has found stands even where a later step waits for a page. Where the world's partition has
changed since then, step 1 comes again (DESIGN CHOICE, assumption 82). -/
def execLaunchLoad (s : State) : Outcome :=
  .next (match s.subjectPacket with
    | some p =>
      if (s.launchOf p.id).isSome then s
      else
        let s := if p.plan.any (fun x => x.dies == s.partition p.wid) then s else s.runFront p (planLoad p)
        match s.packet p.id with
        | some q => if q.plan.isSome && q.result.isNone && !q.waiting then s.runFront q (loadLaunch q) else s
        | none => s
    | none => s)

/-! ## The end of a launch (R288, R295, R343, R348, R379) -/

/-- BPOS (R295): the private offset behind a trap in produced code, that is in task mode. -/
def Launch.bpos (l : Launch) (xpc : Word) : Word :=
  match (l.backMap.filter (fun e => decide (l.codeBase + e.1 ≤ xpc.toNat))).getLast? with
  | some e => BitVec.ofNat 32 e.2
  | none => 0xFFFFFFFF

/-- A provenance record (R379). -/
def State.provenance (s : State) (kind wid queue : Nat) (idx : Word) (v : EndValues) (dies : List Nat)
    (tstart tend npoison nroll : Nat) (ht hcode hcat : List Byte) : List Byte :=
  let pad := fun (bs : List Byte) => bs ++ zeros (64 - bs.length)
  let w := s.world wid
  let mask := (dies.map (fun d => 2 ^ d)).foldl (· + ·) 0
  let signed := le32 0x564F5250 ++ le16 1 ++ bytesOfWord 1 kind ++ bytesOfWord 1 wid ++ le16 queue ++ zeros 2
    ++ le32 idx.toNat ++ le16 v.status ++ le16 v.code ++ bytesOfWord 1 mask ++ zeros 3 ++ le64 tstart ++ le64 tend
    ++ le32 npoison ++ le32 nroll ++ le64 w.provSeq ++ zeros 8 ++ pad ht ++ pad hcode ++ pad hcat
    ++ (List.range 64).map (Config.firmwareHash s.firmware)
    ++ (if w.handler.isEmpty then zeros 64 else sha512 w.handler) ++ zeros 64
  signed ++ (List.range 64).map (Config.signEd25519 signed) ++ (List.range 3309).map (Config.signMldsa signed) ++ zeros 19

/-- The record of a LAUNCH or TRANSLATE is made and signed, once it is over (R348). -/
def State.keepRecord (s : State) (p : Packet) (v : EndValues) : State :=
  let bytes := s.provenance p.type p.wid p.queue p.idx v p.dies p.tstart s.now p.npoison p.nroll p.ht p.hcode
    s.catalogueHash
  let others := s.provs.filter (fun r => !(r.queue == p.queue && r.idx == p.idx))
  let s : State := { s with provs := others ++ [{ queue := p.queue, idx := p.idx, bytes := bytes }] }
  s.modWorld p.wid (fun w => { w with provSeq := w.provSeq + 1 })

/-- A packet that a record tells of has not ended. -/
def State.openRecordOf (s : State) (r : ProvRecord) : Bool := s.packets.any (fun p => p.queue == r.queue && p.idx == r.idx)

/-- The packet of a record has ended: of the ended packets of each queue the 256 newest records are held (R343). -/
def State.holdRecord (s : State) (queue : Nat) (idx : Word) : State :=
  let mine := s.provs.filter (fun r => r.queue == queue && r.idx == idx)
  let old := s.provs.filter (fun r => !(r.queue == queue && r.idx == idx))
  let ended := old.filter (fun r => r.queue == queue && !s.openRecordOf r)
  let gone := ended.take (ended.length - 255)
  { s with provs := old.filter (fun r => !gone.contains r) ++ mine }

/-- Nothing is left of a launch but its packet: every store of it is performed at system scope, those too of tasks that
have ended (R18). -/
def State.retireLaunch (s : State) (l : Launch) : State :=
  let s := ((s.slots.map Prod.fst).filter (fun k => l.dies.contains (dieOfCore (coreOfSlot k)))).foldl (fun s k =>
    s.performAll k true (s.slot k).accs) s
  let s := ((s.cores.map Prod.fst).filter (fun c => l.dies.contains (dieOfCore c))).foldl State.cleanL1 s
  { s with launches := s.launches.erase l.lid }

/-- A message of a chained barrier of a launch. -/
def isBarrierMessage (lid : Nat) (d : Due) : Bool :=
  match d.step, d.subject with
  | .barrierDeparture, [_, _, x] => x == lid
  | .dieBarrierArrival, [_, _, _, x] => x == lid
  | _, _ => false

/-- The copy engines of some dies have finished every accepted command, and its completion is in its inbox (R361). -/
def State.copiesDone (s : State) (dies : List Nat) : Bool :=
  s.clusters.all (fun e => !dies.contains (dieOfCluster e.1) || (e.2.copyQueue.isEmpty && e.2.copyRuns.isEmpty))

/-- What a world in interval mode held back in the interval is released, and its undo log is emptied (R361). -/
def State.releaseInterval (s : State) (w : Nat) : State :=
  { s with commit := s.commit.filter (fun e => e.1 != w), undo := s.undo.filter (fun e => e.1 != w) }

/-- A launch that is pre-empted at a boundary of its world: what is held of it, with what is on its way to it, is its
checkpoint (R361, R363). -/
def State.markAway (s : State) (l : Launch) : State :=
  let h : Saved := { l.held with
    away := true
    handles := l.dies.map (fun d => (d, (s.die d).handles))
    poisonings := s.poisonings.filter (fun p => p.world == l.world)
    flying := s.flying.filter (fun m => m.lid == l.lid)
    flyingEvents := s.flyingEvents.filter (fun m => m.lid == l.lid)
    barrierMessages := s.agenda.filter (isBarrierMessage l.lid) }
  s.modLaunch l.lid (fun l => { l with checkpoint := some h })

/-- The interval of a world ends: the undo log is emptied, what was held back is released, and the next interval
begins. -/
def State.endInterval (s : State) (w : Nat) : State :=
  let s := ((s.launches.map Prod.snd).filter (fun l => l.world == w && l.saved)).foldl State.markAway s
  (s.releaseInterval w).modWorld w (fun x => { x with boundary := s.cycle, rolls := 0 })

/-- LAUNCH_END: the launch is over, and its packet is decided. -/
def execLaunchEnd (s : State) : Outcome :=
  .next (match s.subject with
    | [lid] =>
      match s.launches.find lid with
      | none => s
      | some l =>
        match l.ending with
        | none => s
        | some v =>
          let isRun := (s.packet l.pk).any (fun p => p.type == 2)
          if s.intervalWorlds.contains l.world && !isRun && !s.copiesDone l.dies then
            s.schedule (s.cycle + 1) .launchEnd [lid]
          else
          let s := s.retireLaunch l
          let boundary := s.intervalWorlds.contains l.world && !isRun
          let s := if boundary then s.endInterval l.world else s
          let s := s.modPacket l.pk (fun p => { p with
            working := false, released := boundary, dropt := l.dropped, bpos := if v.trap then l.bpos v.xpc else 0xFFFFFFFF
            tstart := if l.started then l.tstart else p.tstart
            dies := l.dies, ht := l.ht, hcode := l.hcode, npoison := l.npoison, nroll := l.nroll })
          s.decidePacket l.pk v
    | _ => s)

/-- PACKET_END (R345): the provenance record of a LAUNCH or TRANSLATE, the result record, the signal. -/
def execPacketEnd (s : State) : Outcome :=
  .next (match s.subject with
    | id :: _ =>
      match s.packet id with
      | none => s
      | some p =>
        match p.result with
        | none => s
        | some v =>
          let work := p.usesPartition && !p.dropped
          let s := if work && !p.proved then
              let p := if p.dies.isEmpty then { p with dies := s.partition p.wid } else p
              (s.keepRecord p v).modPacket id (fun p => { p with proved := true, working := false })
            else s
          let s := s.endPacket { p with proved := true, working := false }
          if work && (s.packet id).isNone then s.holdRecord p.queue p.idx else s
    | [] => s)

/-! ## Draining and resetting a partition (R364) -/

/-- A killed slot: its stores are performed, and its handles die. -/
def State.killSlot (s : State) (k : Nat) : State :=
  let s := s.performAll k true (s.slot k).accs
  let s := (s.leaveQueues k).freeMutexes k
  let s := s.dropHandles k false
  s.setSlot k (slotDefault k)

/-- A launch's copy commands in a cluster are dropped: held fills are abandoned. -/
def State.dropCopies (s : State) (lid cl : Nat) : State :=
  let c := s.cluster cl
  let words := (c.copyQueue.filter (fun x => x.lid == lid)).map CopyCmd.word
    ++ (c.copyRuns.filter (fun r => r.cmd.lid == lid && !r.dropped)).map (fun r => r.cmd.word)
  let s := s.modCluster cl (fun c => { c with
    copyQueue := c.copyQueue.filter (fun x => x.lid != lid)
    copyRuns := c.copyRuns.filter (fun r => r.cmd.lid != lid) })
  words.foldl (fun s w => if handleKind w = 0 then s else s.dropWord w false) s

/-- Messages of a launch that are on their way are emptied; the handles in them die. -/
def State.dropMessages (s : State) (lid : Nat) : State :=
  let queued := s.cores.flatMap (fun e => e.2.sendQueue.filter (fun m => m.lid == lid))
  let mine := s.flying.filter (fun m => m.lid == lid) ++ queued
  let s := { s with
    flying := s.flying.filter (fun m => m.lid != lid)
    flyingEvents := s.flyingEvents.filter (fun m => m.lid != lid) }
  let s := (s.cores.map Prod.fst).foldl (fun s c =>
    s.modCore c (fun x => { x with sendQueue := x.sendQueue.filter (fun m => m.lid != lid) })) s
  mine.foldl (fun s m => match m.msg.kind with
    | .handle w _ => s.dropWord w false
    | _ => s) s

/-- A step to come that is gone when the units of a partition are emptied. -/
def Launch.drops (l : Launch) (d : Due) : Bool :=
  isBarrierMessage l.lid d
    || (match d.step, d.subject with
      | .barrierDeparture, [cl, _] => l.dies.contains (dieOfCluster cl)
      | .ringSlotFrees, [k, _, _] => l.dies.contains (dieOfCore (coreOfSlot k))
      | .portWordDelivery, [c, _] => l.dies.contains (dieOfCore c)
      | .loaderValidate, [k] => l.dies.contains (dieOfCore (coreOfSlot k))
      | .intervalBoundary, [x] => x == l.lid
      | .preemptSave, [x] => x == l.lid
      | .quiescenceSample, x :: _ => x == l.lid
      | .partitionDrainReset, [x] => x == l.lid
      | .launchEnd, [x] => x == l.lid
      | _, _ => false)

/-- Drain: every slot is killed, in whatever mode it is. -/
def State.drainPartition (s : State) (l : Launch) : State :=
  let here := fun d => l.dies.contains d
  let s := ((s.slots.map Prod.fst).filter (fun k => here (dieOfCore (coreOfSlot k)))).foldl State.killSlot s
  let s := ((s.clusters.map Prod.fst).filter (fun cl => here (dieOfCluster cl))).foldl (fun s cl => s.dropCopies l.lid cl) s
  let s := (s.dropMessages l.lid).dropPending l.lid
  let s := s.2.dropRequests (fun r => here r.die)
  { s with
    agenda := s.agenda.filter (fun d => !l.drops d)
    spans := s.spans.filter (fun x => !here (dieOfCore x.core))
    results := s.results.filter (fun r => !here (dieOfCore r.core)) }

/-- An entry of a partition that is reset: its tile is abandoned, an open one with its storage poisoned, and it stays until
its last see handle dies (R132, R364). The ring of a saved launch keeps its entries. -/
def State.abandonEntry (s : State) (e : Nat) : State :=
  let x := s.entry e
  let keeps := x.ring.isSome && s.launchSaved x.lid
  if !x.used || (keeps && !x.fill && x.sees == 0) then s
  else
    let s := if x.fill && x.members.isEmpty then s.poisonTile e else s
    let s := s.modEntry e (fun y => { y with
      state := .abandoned, fill := false, members := [], settled := some s.cycle, ring := if keeps then y.ring else none })
    s.retireEntry e

/-- The entries homed on a die. -/
def State.abandonEntries (s : State) (die : Nat) : State :=
  ((s.die die).handles.map Prod.fst).foldl (fun s i => s.abandonEntry (die * 65536 + i)) s

/-- Reset: L1s go home; then L1s, TLBs, arenas and scratchpads are cleared, and event units and barriers are empty. -/
def State.resetPartition (s : State) (l : Launch) : State :=
  let here := fun d => l.dies.contains d
  let s := s.preparePartition l.dies (fun _ => false)
  let s := l.dies.foldl State.abandonEntries s
  { s with
    clusters := s.clusters.sorted
    tlb := s.tlb.filter (fun e => !here e.die)
    arena := s.arena.filter (fun e => !here (dieOfCore e.1))
    scratch := s.scratch.filter (fun e => !here (dieOfCore e.1))
    runs := s.runs.filter (fun e => !here (dieOfCore (coreOfSlot e.1)))
    windows := s.windows.filter (fun e => !here (dieOfCore (coreOfSlot e.1))) }

/-- A translator run ends without its partition being reset (R293): its slot is free, its windows are scrubbed. -/
def State.endRun (s : State) (k : Nat) : State :=
  { s.setSlot k (slotDefault k) with runs := s.runs.erase k, windows := s.windows.erase k }

/-- The slots and cores of a saved launch stand in the state for one act. -/
def State.withHeld (s : State) (l : Launch) (f : State → State) : State :=
  let here := fun d => l.dies.contains d
  let slots := s.slots.filter (fun e => here (dieOfCore (coreOfSlot e.1)))
  let cores := s.cores.filter (fun e => here (dieOfCore e.1))
  let s := { s with
    slots := Assoc.sorted (s.slots.filter (fun e => !here (dieOfCore (coreOfSlot e.1))) ++ l.held.slots)
    cores := Assoc.sorted (s.cores.filter (fun e => !here (dieOfCore e.1)) ++ l.held.cores) }
  let s := f s
  { s with
    slots := Assoc.sorted (s.slots.filter (fun e => !here (dieOfCore (coreOfSlot e.1))) ++ slots)
    cores := Assoc.sorted (s.cores.filter (fun e => !here (dieOfCore e.1)) ++ cores) }

/-- A saved launch is given up: its slots are killed, what its cores hold is dropped, and what the host still answers to
its requests is dropped on arrival (R107). -/
def State.dropHeld (s : State) (l : Launch) : State :=
  (s.withdrawUsers (fun u => u == .saved l.lid)).withHeld l (fun s =>
    let s := (l.held.slots.map Prod.fst).foldl (fun s k => (s.dropHandles k false).setSlot k (slotDefault k)) s
    ((s.clusters.map Prod.fst).foldl (fun s cl => s.dropCopies l.lid cl) ((s.dropMessages l.lid).dropPending l.lid).2))

/-- PARTITION_DRAIN_RESET: drain, then reset, within 50 µs. The values that registers of a run are owed are discarded. -/
def execPartitionDrainReset (s : State) : Outcome :=
  .next (match s.subject with
    | [lid] =>
      match s.launches.find lid with
      | none => s
      | some l =>
        match l.ending with
        | none => s
        | some v =>
          let run := s.runs.find? (fun e => e.2.pk == l.pk)
          match (if v.status = Cause.watchdog.code.toNat || v.status = statusWorld then none else run) with
          | some (k, _) => (s.endRun k).schedule s.cycle .launchEnd [lid]
          | none =>
            let s := if l.saved then s.dropHeld l else (s.drainPartition l).resetPartition l
            s.scheduleWithin 49000 .launchEnd [lid]
    | _ => s)

end Sys2Proof.Machine
end

