-- ==== Sys2Proof/Machine/Loader.lean ====
section
/-! DEFINITION. Translators (R291 to R295, R298 to R300) and the loader in the Curator that checks their output, rewrites
emulated words and fills the accession cache (R301, R302, R310 to R315). -/

namespace Sys2Proof.Machine

/-! ## TRANSLATE (R298, R299, R314, R315) -/

/-- The windows at the start of a run; output and scratch read as zero. -/
def runWindows (catalogue : List Byte) (input : List (Byte × Bool)) : Mem :=
  let m := (({} : Mem).overwrite 0x100000000 catalogue).overwrite 0x200000000 (input.map Prod.fst)
  (cutRange 64 0x200000000 input.length).foldl (fun m r =>
    if ((input.drop (r.1 - 0x200000000)).take r.2).any Prod.snd then m.poisonSectors r.1 r.2 else m) m

/-- A translator slot at the start of its run (R291, R292). -/
def runSlotStart (k base len meter ilen olen slen ready : Nat) : Slot :=
  let g := fun (n v : Nat) => (n, { val := BitVec.ofNat 32 v : Reg })
  let pc : Word := BitVec.ofNat 32 base
  { slotDefault k with
    occupied := true, xlt := true, pc := pc, lastPc := pc, cbase := pc, cbound := BitVec.ofNat 32 (base + len)
    regs := [g 8 ilen, g 9 olen, g 10 slen, g 11 0x800].filter (fun e => e.2.val != 0)
    kmeter := BitVec.ofNat 32 meter, ready := ready }

/-- A hit completes at once; else the translator's run is prepared, its first fetch within the bound of R397. -/
def translatePacket (p : Packet) : Front Unit := do
  let f := p.field
  let s ← Front.state
  let dies := s.partition p.wid
  let code ← frontRead p.translator (f 32 8) (f 40 4)
  let input ← frontRead p.translator (f 48 8) (f 56 4)
  let ht := sha512 (code.map Prod.fst)
  let catalogue := s.catalogue
  let key := sha512 (ht ++ sha512 (input.map Prod.fst) ++ sha512 catalogue ++ le32 (f 60 4) ++ le32 (f 64 4)
    ++ bytesOfWord 1 p.wid)
  Front.modify (fun s => s.modPacket p.id (fun p => { p with key := key, ht := ht }))
  match (s.image key p.wid).filter (fun i => decide (i.cost ≤ f 44 4)) with
  | some i =>
    Front.modify (fun s =>
      let s := { s with images := s.images.map (fun (x : Image) => if x.key == key then { x with used := s.time } else x) }
      (s.modPacket p.id (fun p => { p with cost := i.cost, hcode := i.hcode })).decidePacket p.id {})
  | none => do
    let cores := dies.flatMap s.liveCores
    let core := cores.getD (Config.coreChoice s.draws % cores.length) 0
    let base := translatorBase
    Front.modify (fun s =>
        let s := s.placeCode dies base (code.map Prod.fst)
        let k := core * 4
        let ns := 5000 + (f 40 4 + f 56 4) / 64 + (f 60 4 + f 64 4) / 1000 - 20
        let ready := s.cycle + 1 + Config.delay (s.draws + 2) % (ns * 4284 / 10710)
        let l : Launch := { lid := s.nextLid, pk := p.id, world := p.wid, prio := p.prio, dies := dies, ht := ht
                            codeBase := base, codeLen := f 40 4, codeEnd := f 40 4, pasid := p.pasid
                            nroll := p.nroll }
        let r : Run := { pk := p.id, world := p.wid, catalogue := 0x800, input := f 56 4, output := f 60 4
                         scratch := f 64 4, meter := f 44 4 }
        let s := { s with
          draws := s.draws + 3, nextLid := s.nextLid + 1, launches := s.launches.put l.lid l
          runs := s.runs.put k r, windows := s.windows.set memDefault k (runWindows catalogue input) }
        -- the windows are written and cleared through the sealing engine (R299, R367)
        let s := [(0x100000000, 0x800), (0x200000000, f 56 4), (0x300000000, f 60 4), (0x400000000, f 64 4)].foldl
          (fun (s : State) w => s.raiseRange (.window k) w.1 w.2) s
        -- no run can tell what its core has fetched before (R297)
        let s := s.modCore core (fun c => { c with code := [] })
        s.setSlot k (runSlotStart k base (f 40 4) (f 44 4) (f 56 4) (f 60 4) (f 64 4) ready))

def execTranslatePacket (s : State) : Outcome :=
  .next (match s.subjectPacket with
    | some p => if (s.launchOf p.id).isSome then s else s.runFront p (translatePacket p)
    | none => s)

/-! ## KEND, KMTR and the meter (R292, R293, R300) -/

/-- KEND: it waits until every store of the slot is performed; the loader then reads the output window. -/
def execKend (f : IForm) (s : State) : Outcome :=
  issue (.kend f) (do
    let s ← Act.state
    Act.parkIf (s.me.accs.any (fun x => !x.isLoad)) {}
    let d ← Act.draw
    -- COST is RETIRED at KEND, which counts itself (R341)
    Act.modify (fun s => match s.runOf s.cur with
      | some r => s.modPacket r.pk (fun p => { p with cost := (s.me.retired + 1).toNat })
      | none => s)
    Act.modMe (fun sl => { sl with ready := 2 ^ 64 })
    Act.schedule (s.cycle + Config.delay d) .loaderValidate [s.cur]) s

/-- KMTR: the meter is read, and may fall to the value of A; its own step counts. -/
def execKmtr (f : IForm) (s : State) : Outcome :=
  issue (.kmtr f) (do
    check [f.srcA] [f.dst]
    let a ← rd f.a
    Act.trapIf a.poison .poison f.a.toNat 0
    let sl ← Act.me
    let left := sl.kmeter - 1
    let meter := if a.w != 0 && decide (a.w.toNat < left.toNat) then a.w else left
    -- retiring takes 1 again
    Act.modMe (fun sl => { sl with kmeter := meter + 1 })
    wr f.d { w := left }) s

/-- METER_EXHAUSTED: between the fetch and every other check of an instruction. -/
def execMeterExhausted (s : State) : Outcome :=
  let sl := s.me
  if sl.xlt && sl.kmeter == 0 then
    .next ((s.takeTrap s.cur .meter (sl.retired &&& 0xFFFFFFFF) 0 (s.codeWord s.myDie sl.pc)).issued s.cur)
  else .next s

/-! ## The loader's checks (R310)

Each check answers the output-window offset of the first word or entry that fails it. -/

abbrev Check (α : Type) := Except (Nat × Nat) α

def refuseAt (c : Bool) (code off : Nat) : Check Unit := if c then .error (code, off) else .ok ()

/-- The first element of a list that fails a test, refused at its offset. -/
def refuseFirst {α : Type} (code : Nat) (bad : α → Bool) (off : α → Nat) : List α → Check Unit
  | [] => .ok ()
  | x :: rest => if bad x then .error (code, off x) else refuseFirst code bad off rest

/-- Header fields of the output (R294) by offset. -/
def outField (m : Mem) (off : Nat) : Nat := m.word (0x300000000 + off) 4

/-- The regions: their offset field, where they begin, and their length. -/
def outRegions (m : Mem) : List (Nat × Nat × Nat) :=
  [(0, outField m 0, outField m 4), (8, outField m 8, 8 * outField m 12), (16, outField m 16, 8 * outField m 20),
   (24, outField m 24, 8 * outField m 28)]

def regionBad (m : Mem) (size : Nat) (r : Nat × Nat × Nat) : Bool :=
  decide (size < r.2.1 + r.2.2)
    || (decide (0 < r.2.2) && (decide (r.2.1 < 64)
      || (outRegions m).any (fun q => q.1 != r.1 && decide (0 < q.2.2) && decide (r.2.1 < q.2.1 + q.2.2)
        && decide (q.2.1 < r.2.1 + r.2.2))))

/-- The words of a table of the output, with their offsets. -/
def outWords (m : Mem) (off n : Nat) : List (Nat × DWord) :=
  (List.range n).map (fun i => (off + 8 * i, BitVec.ofNat 64 (m.word (0x300000000 + off + 8 * i) 8)))

/-- A word that runs in task mode, whatever the registers hold. -/
def runsInTask (w : DWord) : Bool :=
  match decode w with
  | .error _ => false
  | .ok i =>
    modeLegal i false
      && (match i with
        | .eret _ => false
        | .csrr f => csrAccess .task f.imm.toNat != .none
        | .csrw f => csrAccess .task f.imm.toNat == .write
        | .csrs f => csrAccess .task f.imm.toNat == .write
        | .csrc f => csrAccess .task f.imm.toNat == .write
        | _ => true)

/-- An emulated word (R51). -/
def isEmulated (i : Instr) : Bool :=
  match i with
  | .rem _ => true
  | .remb _ => true
  | .fdivF64 _ => true
  | .fsqrtF64 _ => true
  | _ => false

def topCode (c : Code) : Bool := decide (60 ≤ c.toNat) && decide (c.toNat ≤ 63)

/-- Whether a word names g60 to g63: by a code of its own, or as the last of eight registers from g56 on. Every other
group of registers that reaches g60 begins there. -/
def namesTop (i : Instr) : Bool :=
  match i with
  | .cpy f => topCode f.a || topCode f.b
  | .cpyh f => topCode f.a || topCode f.b
  | .cpym f => topCode f.a || topCode f.b
  | .qcfg f => f.a == 56
  | .fork f => f.a == 56
  | .vrmini f => topCode f.d || f.d == 59 || topCode f.a || topCode f.b || topCode f.c
  | .vrmaxi f => topCode f.d || f.d == 59 || topCode f.a || topCode f.b || topCode f.c
  | _ =>
    match partsOf i with
    | some (.r _ _ f) => topCode f.d || topCode f.a || topCode f.b || topCode f.c
    | some (.i _ _ f) => topCode f.d || topCode f.a
    | some (.b _ f) => topCode f.a || topCode f.b
    | some (.m _ f) => topCode f.d || topCode f.a || (f.d == 56 && f.size == 5)
    | some (.v _ _ f) => topCode f.d || topCode f.a || topCode f.b || topCode f.c
    | some (.t _ f) => topCode f.d || topCode f.a || topCode f.b
    | none => false

/-- The target of a B-form, a JAL or a FORK at an offset of the code, modulo 2^32 (R55, R267). -/
def targetOf (i : Instr) (off : Nat) : Option Nat :=
  match partsOf i with
  | some (.b _ f) => some ((off + 8 * f.off.toInt) % 2 ^ 32).toNat
  | some (.i op _ f) => if op = 0x07 || op = 0x60 then some ((off + 8 * f.imm.toInt) % 2 ^ 32).toNat else none
  | _ => none

def byteOf (w : DWord) (i : Nat) : BitVec 8 := w.extractLsb' (8 * i) 8

/-- A route entry is legal (R301); one whose channel stands earlier is refused. -/
def routeBad (placeLen : Nat) (earlier : List DWord) (e : DWord) : Bool :=
  let b := fun i => (byteOf e i).toNat
  b 0 = 0 || earlier.any (fun x => byteOf x 0 == byteOf e 0) || b 7 != 0
    || (match b 2 with
      | 0 => decide (placeLen ≤ b 4 + 256 * b 5) || b 3 != 0 || b 6 != 0
      | 1 =>
        decide ((byteOf e 4).toInt < -17) || decide (17 < (byteOf e 4).toInt) || decide ((byteOf e 5).toInt < -15)
          || decide (15 < (byteOf e 5).toInt) || b 3 != 0 || b 6 != 0
      | 2 => decide (7 < b 4) || decide (17 < b 5) || decide (15 < b 6)
      | _ => true)

/-- A placement entry is legal (R302), and names no core a second time. -/
def placeBad (earlier : List DWord) (e : DWord) : Bool :=
  let b := fun i => (byteOf e i).toNat
  decide (7 < b 0) || decide (17 < b 1) || decide (15 < b 2) || b 3 != 0 || b 6 != 0 || b 7 != 0
    || earlier.any (fun x => x.extractLsb' 0 24 == e.extractLsb' 0 24)

/-- The entries of a table in order, each beside those before it. -/
def refuseEntries (code : Nat) (bad : List DWord → DWord → Bool) (earlier : List DWord) : List (Nat × DWord) → Check Unit
  | [] => .ok ()
  | (off, e) :: rest =>
    if bad earlier e then .error (code, off) else refuseEntries code bad (e :: earlier) rest

/-- Back-map entries in strictly rising NOFF. -/
def refuseMap (codeLen : Nat) (last : Int) : List (Nat × DWord) → Check Unit
  | [] => .ok ()
  | (off, e) :: rest =>
    let n := (e.extractLsb' 0 32).toNat
    if n % 8 != 0 || decide ((n : Int) ≤ last) || decide (codeLen ≤ n) then .error (0x40, off)
    else refuseMap codeLen n rest

/-- What the loader takes from an output that passes. -/
structure Output where
  code : List DWord
  routes : List DWord
  place : List DWord
  backMap : List (Nat × Nat)
  deriving DecidableEq, Repr

/-- The checks in the order of R310. -/
def checkOutput (m : Mem) (size : Nat) : Check Output := do
  refuseFirst 0x01 (fun i => outField m i != 0) id ((List.range 8).map (fun i => 32 + 4 * i))
  refuseFirst 0x01 (fun i => outField m i % 8 != 0) id [0, 4, 8, 16, 24]
  refuseFirst 0x02 (regionBad m size) Prod.fst (outRegions m)
  let n := outField m 4
  refuseAt (decide (n < 8) || decide (0x1000000 < n)) 0x03 4
  let code := outWords m (outField m 0) (n / 8)
  refuseFirst 0x10 (fun w => !runsInTask w.2) Prod.fst code
  let instrs := code.filterMap (fun w => match decode w.2 with
    | .ok i => some (w.1, i)
    | .error _ => none)
  if instrs.any (fun w => isEmulated w.2) then refuseFirst 0x11 (fun w => namesTop w.2) Prod.fst instrs
  refuseFirst 0x12 (fun w => (targetOf w.2 (w.1 - outField m 0)).any (fun t => decide (n ≤ t)))
    Prod.fst instrs
  refuseAt (decide (255 < outField m 12)) 0x20 12
  let routes := outWords m (outField m 8) (outField m 12)
  refuseEntries 0x20 (routeBad (outField m 20)) [] routes
  refuseAt (decide (2304 < outField m 20)) 0x30 20
  let place := outWords m (outField m 16) (outField m 20)
  refuseEntries 0x30 placeBad [] place
  let map := outWords m (outField m 24) (outField m 28)
  refuseMap n (-1) map
  return { code := code.map Prod.snd, routes := routes.map Prod.snd, place := place.map Prod.snd
           backMap := map.map (fun e => ((e.2.extractLsb' 0 32).toNat, (e.2.extractLsb' 32 32).toNat)) }

/-! ## The code image (R311, R312) -/

/-- A word of the loader's own making. -/
def wordBytes (i : Instr) : List Byte := bytesOfWord 8 (wordOf i).toNat

/-- The JAL at one offset that links in a register and jumps to another. -/
def jalWord (d : Code) (src dst : Nat) : List Byte :=
  wordBytes (.jal { d := d, imm := BitVec.ofInt 32 (((dst : Int) - src) / 8) })

/-- The operands of an emulated word. -/
def emulatedForm (i : Instr) : Option (RForm × Nat × Bool) :=
  match i with
  | .rem f => some (f, 0x000, false)
  | .remb f => some (f, 0x200, false)
  | .fdivF64 f => some (f, 0x400 + 0x100 * f.rnd.toNat, true)
  | .fsqrtF64 f => some (f, 0xA00 + 0x100 * f.rnd.toNat, true)
  | _ => none

/-- The stub of an emulated word, at an offset of the code, for a library at another (R312). -/
def stub (i : Instr) (at_ lib : Nat) : List Byte :=
  match emulatedForm i with
  | none => []
  | some (f, entry, wide) =>
    let mem := fun (d : Code) (ep : BitVec 1) (off : BitVec 24) =>
      ({ d := d, a := 60, space := 3, epD := ep, size := if wide then 3 else 2, off := off } : MForm)
    let one := match i with
      | .fsqrtF64 _ => true
      | _ => false
    wordBytes (.movi { d := 60, imm := 0xFF00 }) ++ wordBytes (.movi { d := 61, imm := 0 })
      ++ wordBytes (.st (mem f.a (f.ep.extractLsb' 0 1) 0))
      ++ (if one then wordBytes (.nop {}) else wordBytes (.st (mem f.b (f.ep.extractLsb' 1 1) 8)))
      ++ jalWord 62 (at_ + 32) (lib + entry)
      ++ wordBytes (.ld (mem f.d 0 0x10)) ++ wordBytes (.jalr { d := 0, a := 63 })

/-- The emulated words of some code: their offsets and instructions, in rising order. -/
def emulatedSites (code : List DWord) : List (Nat × Instr) :=
  ((List.range code.length).zip code).filterMap (fun e =>
    match decode e.2 with
    | .ok i => if isEmulated i then some (8 * e.1, i) else none
    | .error _ => none)

/-- L: the first multiple of 256 at or after the stubs. -/
def libraryAt (codeLen sites : Nat) : Nat := (codeLen + 56 * sites + 255) / 256 * 256

/-- The code with its emulated words replaced by calls of their stubs. -/
def rewritten (code : List DWord) (sites : List (Nat × Instr)) : List Byte :=
  let base := 8 * code.length
  ((List.range code.length).zip code).flatMap (fun e =>
    match sites.findIdx? (fun x => x.1 == 8 * e.1) with
    | some n => jalWord 63 (8 * e.1) (base + 56 * n)
    | none => bytesOfWord 8 e.2.toNat)

/-- The code image, and where the library stands in it. -/
def codeImage (code : List DWord) (library : List Byte) : List Byte × Nat :=
  let sites := emulatedSites code
  let base := 8 * code.length
  if sites.isEmpty then (code.flatMap (fun w => bytesOfWord 8 w.toNat), base)
  else
    let lib := libraryAt base sites.length
    let stubs := ((List.range sites.length).zip sites).flatMap (fun e => stub e.2.2 (base + 56 * e.1) lib)
    (rewritten code sites ++ stubs ++ zeros (lib - base - stubs.length) ++ library, lib)

/-! ## The accession cache (R314, R315) -/

def Image.size (i : Image) : Nat := i.code.length + 8 * (i.routes.length + i.place.length + i.backMap.length)

/-- Evict the least recently used entries until there is room for n bytes and one entry. -/
def makeRoomFor : Nat → Nat → List Image → List Image
  | 0, _, is => is
  | fuel + 1, n, is =>
    if is.length < 4096 ∧ (is.map Image.size).foldl (· + ·) 0 + n ≤ 0x80000000 then is
    else
      match is.foldl (fun (best : Option Image) i => match best with
          | none => some i
          | some b => if i.used < b.used then some i else some b) none with
      | none => is
      | some v => makeRoomFor fuel n (is.filter (fun i => i != v))

def State.cacheImage (s : State) (i : Image) : State :=
  let rest := s.images.filter (fun x => x.key != i.key)
  { s with images := makeRoomFor (rest.length + 1) i.size rest ++ [i] }

/-- LOADER_VALIDATE: after KEND the loader checks the output of the run, caches what it makes of it, and the packet's
launch entry ends. -/
def execLoaderValidate (s : State) : Outcome :=
  .next (match s.subject with
    | [k] =>
      match s.runOf k, s.launches.find? (fun e => (s.runOf k).any (fun r => r.pk == e.2.pk)) with
      | some r, some (lid, l) =>
        match s.packet r.pk with
        | none => s
        | some p =>
          if l.ending.isSome then s
          else
            let cost := (s.slot k).retired.toNat
            let ends := fun (s : State) (v : EndValues) =>
              ((s.modLaunch lid (fun l => { l with ending := some v })).endRun k).schedule s.cycle .launchEnd [lid]
            match checkOutput (s.memAt (.window k)) r.output with
            | .error (code, off) =>
              ends (s.modPacket r.pk (fun p => { p with cost := cost })) { status := statusLoader, code := code, xval := BitVec.ofNat 64 off }
            | .ok o =>
              let image := codeImage o.code s.library
              let emulates := !(emulatedSites o.code).isEmpty
              let hcode := sha512 (image.1.take image.2)
              let i : Image := {
                key := p.key, wid := p.wid, code := image.1, codeLen := 8 * o.code.length, lib := image.2
                emulates := emulates, routes := o.routes, place := o.place, backMap := o.backMap, cost := cost
                ht := p.ht, hc := s.catalogueHash, hcode := hcode, used := s.time }
              let s := (s.cacheImage i).modPacket p.id (fun p => { p with cost := cost })
              ends (s.modLaunch lid (fun l => { l with hcode := hcode })) {}
      | _, _ => s
    | _ => s)

end Sys2Proof.Machine
end

