-- ==== Sys2Proof/Machine/Context.lean ====
section
/-! DEFINITION. Pre-emption, its context buffers and their restoring (R338, R355 to R358), interval boundaries and rollback
(R361 to R363), and errors of the hardware (R359, R360). -/

namespace Sys2Proof.Machine

/-! ## The context buffer (R355, R356) -/

def contextBytes : Nat := 0xD0000

/-- n bytes of a list, with zeros after them. -/
def padTo (n : Nat) (bs : List Byte) : List Byte := (bs ++ zeros (n - bs.length)).take n

/-- One bit for each register of a file. -/
def bitsOf (n : Nat) (f : Nat → Bool) : Nat := ((List.range n).map (fun i => if f i then 2 ^ i else 0)).foldl (· + ·) 0

/-- The words of a ring's descriptor (R146). -/
def Ring.descriptorBytes (r : Ring) : List Byte :=
  let flag : Nat := if r.link then 1 else 0
  le32 r.base ++ le32 r.slotBytes
    ++ [BitVec.ofNat 8 r.nslot, BitVec.ofNat 8 flag, r.members, BitVec.ofNat 8 r.mslot]
    ++ [BitVec.ofNat 8 r.mring, 0, 0, 0] ++ le64 r.gbase.toNat ++ le32 r.gstride.toNat ++ zeros 4

/-- The see-handle word of a ring slot; 0 where the ring holds none. -/
def State.ringWord (s : State) (r : Ring) (i : Nat) : DWord :=
  if (r.slotAt i).held then s.handleTo kindSee (r.slotAt i).entry else 0

def State.ringRecord (s : State) (r : Ring) : List Byte :=
  r.descriptorBytes ++ [BitVec.ofNat 8 r.h, BitVec.ofNat 8 r.t, BitVec.ofNat 8 r.res, 0]
    ++ (List.range 16).map (fun b => BitVec.ofNat 8
      (((List.range 4).map (fun i => (s.ringState r (4 * b + i)).code.toNat * 4 ^ i)).foldl (· + ·) 0))
    ++ zeros 12 ++ (List.range 64).flatMap (fun i => le64 (s.ringWord r i).toNat)

/-- A slot record. -/
def State.slotRecord (s : State) (k : Nat) : List Byte :=
  let sl := s.slot k
  let state := bitsOf 3 (fun i => match i with
    | 0 => sl.occupied
    | 1 => sl.arrived.isSome
    | _ => sl.fptrap != 0)
  le32 state ++ le32 sl.pc.toNat ++ le32 sl.ctrl.toNat ++ zeros 4 ++ le64 sl.jaddr.toNat ++ le32 sl.tfmt.toNat
    ++ le32 (sl.outbox.length + 256 * bitsOf 8 (fun i => (sl.outbox.getD i {}).poison))
    ++ padTo 32 (sl.outbox.flatMap (fun v => le32 v.w.toNat))
    ++ (List.range 64).flatMap (fun n => le32 (sl.regAt n).val.toNat)
    ++ le64 (bitsOf 64 (fun n => (sl.regAt n).poison)) ++ le64 (2 ^ 64 - 1)
    ++ (List.range 3).flatMap (fun i =>
      let m := sl.masks.get maskDefault (i + 1)
      le64 m.ky.toNat ++ le64 m.kx.toNat)
    ++ (List.range 16).flatMap (fun n => le64 (sl.views.get viewDefault n).pack.toNat)
    ++ (List.range 16).flatMap (fun n => le64 (sl.handle n).toNat)
    ++ (List.range 256).flatMap (fun n => le32 (if csrListed n then (s.csr k n).toNat else 0))
    ++ (List.range 8).flatMap (fun q => s.ringRecord (sl.ring q))

/-- An inbox entry; the words already popped are gone. -/
def Msg.record (m : Msg) : List Byte :=
  let words := List.replicate m.popped ({} : Val) ++ m.words
  le32 ((m.header ||| BitVec.ofNat 32 (words.length * 256)).toNat)
    ++ padTo 32 (words.flatMap (fun v => le32 v.w.toNat))
    ++ [BitVec.ofNat 8 (bitsOf 8 (fun i => (words.getD i {}).poison))] ++ zeros 3
    ++ (match m.kind with
      | .handle w slot => le64 w.toNat ++ [BitVec.ofNat 8 slot]
      | _ => zeros 9) ++ zeros 15

def inboxRecord (c : Core) : List Byte := padTo 4096 ((c.inbox.take 64).flatMap Msg.record)

/-- The header: CUR is the place of the current message. -/
def headerRecord (l : Launch) (core : Nat) (c : Core) : List Byte :=
  let cur := c.current.getD 0xFF
  let popped := match c.current with
    | some i => ((c.inbox[i]?).map Msg.popped).getD 0
    | none => 0
  padTo 64 (le32 1 ++ le32 (l.dies.idxOf (dieOfCore core) * 65536 + numberOfCore core) ++ le32 c.inbox.length
    ++ le16 cur ++ le16 popped ++ le32 c.deque.length ++ le32 c.spilled.length
    ++ (List.range 4).map (fun d => BitVec.ofNat 8 (c.port d).length))

def fifoRecord (c : Core) : List Byte :=
  (List.range 4).flatMap (fun d => padTo 64 ((c.port d).flatMap (fun w =>
    le32 w.val.w.toNat ++ [if w.val.poison then 1 else 0, 0, 0, 0])))

/-- The event unit of a cluster. -/
def State.eventRecord (s : State) (cl : Nat) : List Byte :=
  let c := s.cluster cl
  let place := fun k => coreInCluster (coreOfSlot k) * 4 + slotNumber k
  (List.range 32).map c.count
    ++ (List.range 8).flatMap (fun n =>
      let b := c.barrier n
      le16 (bitsOf 16 (fun i => b.arrived.any (fun k => place k == i)))
        ++ le32 (b.first.getD (0, 0)).1.toNat ++ le32 (b.first.getD (0, 0)).2.toNat ++ zeros 6)
    ++ (List.range 8).flatMap (fun n => le16 (((c.mutex n).owner.map place).getD 0xFFFF))

/-- The whole buffer of a core. -/
def State.contextBuffer (s : State) (l : Launch) (core : Nat) : Mem :=
  let c := s.core core
  let m := ({} : Mem).overwrite 0 (headerRecord l core c)
  let m := ((m.overwrite 0x100 (fifoRecord c)).overwrite 0x1000 (inboxRecord c)).overwrite 0x2000
    (padTo 4096 (c.deque.flatMap TaskDesc.bytes))
  let m := if coreInCluster core = 0 then m.overwrite 0x3000 (padTo 256 (s.eventRecord (clusterOfCore core))) else m
  let m := (List.range 4).foldl (fun (m : Mem) i =>
    m.overwrite (0x4000 + 0x2000 * i) (padTo 0x2000 (s.slotRecord (core * 4 + i)))) m
  (m.copyIn 0x10000 0x40000 (s.memAt (.arena core)) 0).copyIn 0x50000 0x80000 (s.memAt (.scratchpad core)) 0

/-! ## Reading a buffer back -/

/-- A handle word read from a buffer: one that the save did not write, or that is poisoned, is stale (R128, R356,
R359). -/
def restoredWord (world : Nat) (saved read : DWord) (poison : Bool) : DWord :=
  if handleKind read = 0 && !poison then 0
  else if read = saved && !poison then read
  else spoiledWord world read

/-- A ring as its record is read back: the ring is the device's own, and a see handle whose word the save did not write is
stale (R356). -/
def Ring.restored (r : Ring) (word : Nat → DWord) (m : Mem) (a : Nat) : Ring :=
  { r with slots := r.slots.map (fun e =>
      let at_ := a + 64 + 8 * e.1
      (e.1, if e.2.held && (BitVec.ofNat 64 (m.word at_ 8) != word e.1 || m.poisonIn at_ 8) then { e.2 with broken := true }
        else e.2)) }

def Mem.word32 (m : Mem) (a : Nat) : Word := BitVec.ofNat 32 (m.word a 4)
def Mem.word64 (m : Mem) (a : Nat) : DWord := BitVec.ofNat 64 (m.word a 8)

/-- The CSRs of a slot from its image. RETIRED and KMETER are restored too; CYCLE belongs to the launch. -/
def Slot.setCsrs (sl : Slot) (m : Mem) (a : Nat) : Slot :=
  let sl := ((List.range 256).filter csrListed).foldl (fun (sl : Slot) n => sl.setCsr n (m.word32 (a + 4 * n))) sl
  { sl with retired := m.word64 (a + 4 * 0x032), kmeter := m.word32 (a + 4 * 0x090) }

/-- A slot from its record, over what was held of it; ringWord tells the see-handle word of a ring's slot. -/
def Slot.restored (world : Nat) (ringWord : Ring → Nat → DWord) (sl : Slot) (m : Mem) (a : Nat) : Slot :=
  let state := m.word32 a
  let regs : Assoc Reg := (List.range 63).map (fun i =>
    let n := i + 1
    let p := m.word64 (a + 320)
    (n, { val := m.word32 (a + 64 + 4 * n), full := true,
          poison := p.getLsbD n || m.poisonIn (a + 64 + 4 * n) 4 : Reg }))
  let keep : Assoc Reg := sl.regs.filter (fun e => decide (64 ≤ e.1))
  let sl := { sl with
    regs := regs.filter (fun (e : Nat × Reg) => decide (e.2 ≠ regDefault e.1)) ++ keep
    masks := ((List.range 3).map (fun i =>
      (i + 1, ({ ky := m.word64 (a + 336 + 16 * i), kx := m.word64 (a + 344 + 16 * i) } : MaskPair)))).filter
        (fun e => decide (e.2 ≠ maskDefault e.1))
    views := ((List.range 16).map (fun n => (n, unpackView (m.word64 (a + 384 + 8 * n))))).filter
      (fun e => decide (e.2 ≠ viewDefault e.1))
    handles := ((List.range 16).map (fun n =>
      (n, restoredWord world (sl.handle n) (m.word64 (a + 512 + 8 * n)) (m.poisonIn (a + 512 + 8 * n) 8)))).filter
        (fun e => decide (e.2 ≠ handleDefault e.1))
    rings := sl.rings.map (fun (e : Nat × Ring) => (e.1, e.2.restored (ringWord e.2) m (a + 1664 + 576 * e.1))) }
  let sl := sl.setCsrs m (a + 640)
  { sl with
    pc := m.word32 (a + 4), ctrl := m.word32 (a + 8), jaddr := m.word64 (a + 16)
    tfmt := (m.word32 (a + 24)).extractLsb' 0 13
    outbox := (List.range sl.outbox.length).map (fun i =>
      ({ w := m.word32 (a + 32 + 4 * i), poison := (m.word32 (a + 28)).getLsbD (8 + i) } : Val))
    arrived := if state.getLsbD 1 then sl.arrived else none
    depart := if state.getLsbD 1 then sl.depart else none
    fptrap := if state.getLsbD 2 then sl.fptrap else 0 }

/-- A message of a saved inbox. -/
def Msg.restored (world : Nat) (x : Msg) (m : Mem) (a : Nat) : Msg :=
  { x with
    header := (m.word32 a &&& ~~~0xFF00) ||| (x.header &&& 0xFF00)
    words := (List.range x.words.length).map (fun i =>
      ({ w := m.word32 (a + 4 + 4 * (x.popped + i)), poison := (m.byte (a + 36)).getLsbD (x.popped + i) } : Val))
    kind := match x.kind with
      | .handle w slot => .handle (restoredWord world w (m.word64 (a + 40)) (m.poisonIn (a + 40) 8)) slot
      | k => k }

/-- A descriptor of a saved deque. -/
def TaskDesc.restored (world : Nat) (d : TaskDesc) (m : Mem) (a : Nat) : TaskDesc :=
  { entry := m.word32 a, ctrl := (m.word32 (a + 4) &&& ~~~0x30) ||| (d.ctrl &&& 0x30), tile := m.word32 (a + 8)
    args := (List.range 4).map (fun i => m.word32 (a + 16 + 4 * i)), jaddr := m.word64 (a + 32)
    handles := ((List.range d.handles.length).zip d.handles).map (fun e =>
      restoredWord world e.2 (m.word64 (a + 40 + 8 * e.1)) (m.poisonIn (a + 40 + 8 * e.1) 8)) }

/-- Elements with their numbers. -/
def numbered {α : Type} (xs : List α) : List (Nat × α) := (List.range xs.length).zip xs

/-- A core from its buffer. -/
def Core.restored (world : Nat) (c : Core) (m : Mem) : Core :=
  { c with
    ports := (c.ports.map (fun e => (e.1, (numbered e.2).map (fun x =>
      let a := 0x100 + 64 * e.1 + 8 * x.1
      { x.2 with val := ({ w := m.word32 a, poison := (m.byte (a + 4)).getLsbD 0 } : Val) })))).filter
        (fun e => decide (e.2 ≠ portDefault e.1))
    inbox := (numbered c.inbox).map (fun x => x.2.restored world m (0x1000 + 64 * x.1))
    deque := (numbered c.deque).map (fun x => x.2.restored world m (0x2000 + 64 * x.1)) }

/-- The event unit of a cluster from its record: the counts of its lines. -/
def Cluster.restored (c : Cluster) (m : Mem) : Cluster :=
  { c with lines := ((List.range 32).map (fun i => (i, m.byte (0x3000 + i)))).filter (fun e => decide (e.2 ≠ countDefault e.1)) }

/-! ## Moving a buffer to and from memory -/

/-- Cores 0 of clusters that are retired themselves: the event unit of their cluster is saved in their buffer all the
same. -/
def State.retiredFirst (s : State) (l : Launch) : List Nat :=
  (l.dies.flatMap (fun d => (List.range clustersPerDie).map (fun c => coreOfCluster (d * clustersPerDie + c) 0))).filter
    s.deadCores.contains

/-- Pieces of 4 KiB of every buffer of a partition: the core, and the offset in its buffer. -/
def State.bufferPages (s : State) (l : Launch) : List (Nat × Nat) :=
  (l.dies.flatMap s.liveCores).flatMap (fun c => (List.range (contextBytes / 0x1000)).map (fun i => (c, i * 0x1000)))
    ++ (s.retiredFirst l).map (fun c => (c, 0x3000))

/-- A block of memory is written at home for a world, and every copy of its lines is dropped. -/
def State.blockWrite (s : State) (w : Nat) (p : Place) (a n : Nat) (src : Mem) (off : Nat) : State :=
  let keys := ((s.cores.flatMap (fun e => e.2.lines.map Prod.fst)).eraseDups).filter (fun key =>
    linePlace key == p && decide (a < lineBase key + 256) && decide (lineBase key < a + n))
  let s := keys.foldl (fun s key => s.invalidateOthers [] key) s
  let s := s.logRange w p a n
  let s := s.setMemAt p ((s.memAt p).copyIn a n src off)
  (s.raiseRange p a n).wakeWords { place := p, off := a, len := n }

/-- Write pages of the buffers to the context areas. -/
def writePages (l : Launch) (t : Translator) (buffers : Nat → Mem) : List (Nat × Nat) → Front Unit
  | [] => pure ()
  | (c, off) :: rest => do
    let p ← frontPlace t (l.ctx.toNat + bufferOffset l c + off) true
    Front.modify (fun s => s.blockWrite t.world p.1 p.2 0x1000 (buffers c) off)
    writePages l t buffers rest

/-- Read pages of the buffers back: memories by core. -/
def readPages (l : Launch) (t : Translator) : List (Nat × Nat) → Assoc Mem → Front (Assoc Mem)
  | [], ms => pure ms
  | (c, off) :: rest, ms => do
    let p ← frontPlace t (l.ctx.toNat + bufferOffset l c + off) false
    let s ← Front.state
    readPages l t rest (ms.set memDefault c ((ms.get memDefault c).copyIn off 0x1000 (s.memAt p.1) p.2))

/-! ## Stopping a partition (R357) -/

def State.slotsOn (s : State) (l : Launch) : List Nat :=
  (s.slots.map Prod.fst).filter (fun k => l.dies.contains (dieOfCore (coreOfSlot k)))

/-- Every slot of the partition has stopped, and every value and span owed has landed. -/
def State.saveReady (s : State) (l : Launch) : Bool :=
  let here := fun c => l.dies.contains (dieOfCore c)
  (s.slotsOn l).all (fun k =>
    let sl := s.slot k
    (!sl.occupied || s.canStop k)
      && sl.owed.isEmpty && sl.accs.all Acc.isStore
      && sl.rings.all (fun e => e.2.slots.all (fun x => x.2.readers == 0)))
    && !(s.results.any (fun r => here r.core)) && !(s.spans.any (fun x => here x.core))
    && s.cores.all (fun e => !here e.1 || (decide (e.2.vectorBusy ≤ s.cycle) && e.2.steal.isNone))
    && (!l.checkpointing || s.copiesDone l.dies)
    && !(s.agenda.any (fun d => d.step == .loaderValidate && here (coreOfSlot (d.subject.headD 0))))

/-- The slots of a partition are asked to stop; pending matrix requests are withdrawn (R220). -/
def State.stopPartition (s : State) (l : Launch) (checkpoint : Bool) : State :=
  let s := s.modLaunch l.lid (fun l => { l with
    preempting := some s.cycle, checkpointing := checkpoint, saving := false, quietSince := none, sample := none })
  let s := (s.slotsOn l).foldl (fun s k => s.modSlot k (fun sl =>
    if sl.mode == .task && !s.midRecord k then { sl with request := none, granted := false } else sl)) s
  s.schedule (s.cycle + 65536) .preemptTimeout [l.lid, s.cycle]

/-- The save of a partition that has stopped begins. -/
def State.watchSave (s : State) (lid : Nat) : State :=
  match s.launches.find lid with
  | none => s
  | some l =>
    if l.preempting.isSome && !l.saving && l.ending.isNone && s.saveReady l then
      let s := s.modLaunch lid (fun l => { l with saving := true })
      ({ s with draws := s.draws + 1 } : State).schedule (s.cycle + bufferCycles + Config.delay s.draws)
        (if l.checkpointing then .intervalBoundary else .preemptSave) [lid]
    else s

/-- A slot as it is saved: its stores are at home, and its parked instruction is to be evaluated afresh, with whatever the
host has answered for it translated afresh (R107). It gives up its places in the queues of the event unit; an arrival at
a barrier stays. TRC.SUSP is clear (R258). -/
def State.settleForSave (s : State) (k : Nat) : State :=
  let s := s.performAll k true (s.slot k).accs
  let s := s.modCluster (clusterOfCore (coreOfSlot k)) (fun c => { c with
    lineWaiters := c.lineWaiters.mapVals queueDefault (fun q => q.filter (fun x => x != k))
    keepWaiters := c.keepWaiters.mapVals queueDefault (fun q => q.filter (fun x => x != k))
    mutexWaiters := c.mutexWaiters.mapVals queueDefault (fun q => q.filter (fun x => x != k)) })
  s.modSlot k (fun sl => { sl with
    parked := none, yielded := none, request := none, granted := false, signalled := false, arrival := none, accs := []
    atsFail := none, atsOnce := [], trcSusp := false })

def State.settlePartition (s : State) (l : Launch) : State :=
  let s := (s.slotsOn l).foldl State.settleForSave s
  ((s.cores.map Prod.fst).filter (fun c => l.dies.contains (dieOfCore c))).foldl State.cleanL1 s

/-- What is held of a partition. -/
def State.snapshot (s : State) (l : Launch) : Saved :=
  let here := fun d => l.dies.contains d
  let core := fun c => here (dieOfCore c)
  { cycle := s.cycle
    slots := s.slots.filter (fun e => core (coreOfSlot e.1))
    cores := (s.cores.filter (fun e => core e.1)).map (fun e => (e.1, { e.2 with lines := [], stored := [], code := [] }))
    clusters := s.clusters.filter (fun e => here (dieOfCluster e.1))
    handles := l.dies.map (fun d => (d, (s.die d).handles))
    barriers := l.dies.map (fun d => (d, (s.die d).barriers))
    arena := s.arena.filter (fun e => core e.1)
    scratch := s.scratch.filter (fun e => core e.1)
    runs := s.runs.filter (fun e => core (coreOfSlot e.1))
    windows := s.windows.filter (fun e => core (coreOfSlot e.1))
    poisonings := s.poisonings.filter (fun p => p.world == l.world)
    flying := s.flying.filter (fun m => m.lid == l.lid)
    flyingEvents := s.flyingEvents.filter (fun m => m.lid == l.lid)
    barrierMessages := s.agenda.filter (isBarrierMessage l.lid)
    worldBarriers := l.barriers
    sent := l.sent, received := l.received, deadlock := l.deadlock }

/-! ## Pre-emption -/

/-- LAUNCH_PREEMPT: a higher launch waits for the partition (R338). -/
def execLaunchPreempt (s : State) : Outcome :=
  .next (match s.subject with
    | [lid] =>
      match s.launches.find lid with
      | none => s
      | some l =>
        if l.started && l.ending.isNone && l.preempting.isNone && !l.saved && l.preemptable then s.stopPartition l false
        else s
    | _ => s)

/-- PREEMPT_TIMEOUT (R358): a slot still in handler mode traps, which aborts the launch. -/
def execPreemptTimeout (s : State) : Outcome :=
  .next (match s.subject with
    | [lid, since] =>
      match s.launches.find lid with
      | none => s
      | some l =>
        if l.preempting = some since && l.ending.isNone then
          match (s.slotsOn l).find? (fun k => (s.slot k).occupied && (s.slot k).mode == .handler) with
          | some k =>
            s.takeTrap k .preempt (BitVec.ofNat 64 (s.cycle - since)) 0
              (s.codeWord (dieOfCore (coreOfSlot k)) (s.slot k).pc)
          | none => s
        else s
    | _ => s)

/-- A front-end action for a launch: a fault aborts it, a page is waited for by trying again. -/
def State.runForLaunch (s : State) (l : Launch) (p : Packet) (retry : Instr) (a : Front Unit) : State :=
  match a s with
  | .ok (_, s') => { s' with hostOnce := s'.hostOnce.filter (fun f => f.1 != .packet p.id) }
  | .error (.fail v) => s.abortLaunch l.lid v
  | .error (.page va w) => ((s.translate p.translator va w).2).schedule (s.cycle + 1) retry [l.lid]

/-- The partition is given up to another launch: what the device holds of it leaves the state. -/
def State.leavePartition (s : State) (l : Launch) : State :=
  let here := fun d => l.dies.contains d
  let held := s.snapshot l
  let s := s.preparePartition l.dies (fun _ => false)
  -- a grant for a slot that is saved still fills the TLB (R107)
  let kept := fun (u : AtsUser) => match u with
    | .slot k => if here (dieOfCore (coreOfSlot k)) then AtsUser.saved l.lid else u
    | u => u
  { s.modLaunch l.lid (fun l => { l with held := held, saved := true, preempting := none, saving := false }) with
    clusters := s.clusters.sorted
    ats := s.ats.map (fun r => { r with
      users := (r.users.map kept).eraseDups, writers := (r.writers.map kept).eraseDups }) }

/-- Entry i of a saved inbox, which has been appended to it, is written, and the count in the header. -/
def appendInbox (l : Launch) (t : Translator) (core i : Nat) : Front Unit := do
  let c := l.held.cores.get heldCoreDefault core
  let base := l.ctx.toNat + bufferOffset l core
  frontWrite t (base + 8) (noPoison (le32 c.inbox.length))
  frontWrite t (base + 0x1000 + 64 * i) (noPoison (c.inbox.getD i {}).record)

/-- Entries that have been appended to a saved inbox are still to be written. -/
def State.appending (s : State) (lid : Nat) : Bool :=
  s.agenda.any (fun d => match d.step, d.subject with
    | .preemptSave, [x, _, _] => x == lid
    | _, _ => false)

/-- A save goes ahead only where the partition still stands as it did when the save began (R357). -/
def State.ifReady (s : State) (l : Launch) (save : State → State) : State :=
  if s.saveReady l then save s else s.modLaunch l.lid (fun l => { l with saving := false })

/-- PREEMPT_SAVE: the buffers of the partition are written, and its launch is saved; or a saved inbox grows. -/
def execPreemptSave (s : State) : Outcome :=
  .next (match s.subject with
    | lid :: more =>
      match s.launches.find lid with
      | none => s
      | some l =>
        match s.packet l.pk, more with
        | some p, [] =>
          if l.preempting.isNone || l.checkpointing || l.ending.isSome then s
          else s.ifReady l (fun s =>
            s.runForLaunch l p .preemptSave (do
              Front.modify (fun s => s.settlePartition l)
              let s ← Front.state
              writePages l p.translator (s.contextBuffer l) (s.bufferPages l)
              Front.modify (fun s => s.leavePartition l)))
        | some p, [core, i] =>
          if !l.saved then s
          else
            match (appendInbox l p.translator core i) s with
            | .ok (_, s') => s'
            | .error (.fail v) => s.abortLaunch lid v
            | .error (.page va w) => ((s.translate p.translator va w).2).schedule (s.cycle + 1) .preemptSave s.subject
        | _, _ => s
    | _ => s)

/-- The partition is the launch's again. A core's counts and its rings are the device's own; everything else comes from
the buffers. -/
def State.returnPartition (s : State) (l : Launch) (buffers : Assoc Mem) : State :=
  let s := s.preparePartition l.dies (fun _ => false)
  let h := l.held
  let m := fun c => buffers.get memDefault c
  let slots := h.slots.map (fun e =>
    (e.1, if e.2.occupied then
        { e.2.restored l.world s.ringWord (m (coreOfSlot e.1)) (0x4000 + 0x2000 * slotNumber e.1) with ready := s.cycle + 1 }
      else e.2))
  let cores := h.cores.map (fun e => (e.1, e.2.restored l.world (m e.1)))
  let clusters := h.clusters.map (fun e =>
    let now := s.cluster e.1
    (e.1, { e.2.restored (m (coreOfCluster e.1 0)) with copyQueue := now.copyQueue, copyRuns := now.copyRuns }))
  let others := s.clusters.filter (fun e => !h.clusters.has e.1)
  let s := { s with
    slots := Assoc.sorted (s.slots ++ slots), cores := Assoc.sorted (s.cores ++ cores), clusters := Assoc.sorted (others ++ clusters) }
  let s := (l.dies.flatMap s.liveCores).foldl (fun s c =>
    (s.setMemAt (.arena c) (({} : Mem).copyIn 0 0x40000 (m c) 0x10000)).setMemAt (.scratchpad c)
      (({} : Mem).copyIn 0 0x80000 (m c) 0x50000)) s
  let s := h.barriers.foldl (fun s e => s.modDie e.1 (fun d => { d with barriers := e.2 })) s
  let s := (l.dies.flatMap s.liveCores).foldl State.pump s
  s.modLaunch l.lid (fun l => { l with
    saved := false, restoring := false, held := {}, start := l.start.map (fun t => s.cycle + 1 - (h.cycle - t)) })

/-- Messages that were on their way at a boundary are on their way again. -/
def State.relaunchMessages (s : State) (h : Saved) : State :=
  let s := { s with flying := s.flying ++ h.flying, flyingEvents := s.flyingEvents ++ h.flyingEvents }
  let s := h.flying.foldl (fun s m => s.schedule (s.cycle + 1) .messageEntersInbox [m.id]) s
  let s := h.flyingEvents.foldl (fun s m => s.schedule (s.cycle + 1) .eventMessageArrives [m.id]) s
  h.barrierMessages.foldl (fun s d => s.schedule (s.cycle + 1) d.step d.subject) s

/-- Nothing of a launch is left on its partition, in its units or on its way. -/
def State.clearPartition (s : State) (l : Launch) : State :=
  let here := fun d => l.dies.contains d
  let core := fun c => here (dieOfCore c)
  { s.dropRequests (fun r => here r.die) with
    slots := s.slots.filter (fun e => !core (coreOfSlot e.1))
    cores := s.cores.filter (fun e => !core e.1)
    clusters := s.clusters.filter (fun e => !here (dieOfCluster e.1))
    arena := s.arena.filter (fun e => !core e.1)
    scratch := s.scratch.filter (fun e => !core e.1)
    runs := s.runs.filter (fun e => !core (coreOfSlot e.1))
    windows := s.windows.filter (fun e => !core (coreOfSlot e.1))
    spans := s.spans.filter (fun x => !core x.core)
    results := s.results.filter (fun r => !core r.core)
    agenda := s.agenda.filter (fun d => !l.drops d) }

/-- The partition is a launch's as a checkpoint holds it. -/
def State.placeSaved (s : State) (l : Launch) (h : Saved) : State :=
  let started := l.started || !h.runs.isEmpty
  let slots := h.slots.map (fun e => (e.1, if started then { e.2 with ready := s.cycle + 1 } else e.2))
  let s := { s with
    slots := Assoc.sorted (s.slots ++ slots)
    cores := Assoc.sorted (s.cores ++ h.cores)
    clusters := Assoc.sorted (s.clusters ++ h.clusters)
    arena := Assoc.sorted (s.arena ++ h.arena)
    scratch := Assoc.sorted (s.scratch ++ h.scratch)
    runs := Assoc.sorted (s.runs ++ h.runs)
    windows := Assoc.sorted (s.windows ++ h.windows) }
  let s := h.barriers.foldl (fun s e => s.modDie e.1 (fun d => { d with barriers := e.2 })) s
  s.modLaunch l.lid (fun l => { l with
    saved := false, restoring := false, held := {}
    preempting := none, checkpointing := false, saving := false, quietSince := none, sample := none
    start := l.start.map (fun t => s.cycle + 1 - (h.cycle - t)) })

/-- CONTEXT_RESTORE: each slot resumes at its program counter, its parked instruction evaluated afresh. A launch that has
been rolled back while it was saved comes from its checkpoint. -/
def execContextRestore (s : State) : Outcome :=
  .next (match s.subject with
    | [lid] =>
      match s.launches.find lid with
      | none => s
      | some l =>
        match s.packet l.pk with
        | none => s
        | some p =>
          if !l.saved || !l.restoring || l.ending.isSome then s
          else if s.appending lid then s.schedule (s.cycle + 1) .contextRestore [lid]
          else if l.held.whole then
            (((s.preparePartition l.dies (fun _ => false)).clearPartition l).placeSaved l l.held).relaunchMessages l.held
          else
            s.runForLaunch l p .contextRestore (do
              let buffers ← readPages l p.translator (s.bufferPages l) []
              Front.modify (fun s => s.returnPartition l buffers))
    | _ => s)

/-! ## Interval boundaries and rollback (R361 to R363) -/

/-- The launch of a world that runs on its partition. -/
def State.runningLaunch (s : State) (w : Nat) : Option Launch :=
  (s.launches.map Prod.snd).find? (fun l => l.world == w && !l.saved)

/-- The launch entry is a translator run's. -/
def State.isRun (s : State) (l : Launch) : Bool := s.runs.any (fun e => e.2.pk == l.pk)

/-- The checkpoint is written to the checkpoint area, which is the Curator's own. -/
def State.writeCheckpoint (s : State) (l : Launch) : State :=
  let at_ := fun c => (s.world l.world).ckpt + bufferOffset l c
  let s := (l.dies.flatMap s.liveCores).foldl (fun s c =>
    { s with dram := s.dram.copyIn (at_ c) contextBytes (s.contextBuffer l c) 0 }) s
  (s.retiredFirst l).foldl (fun s c =>
    { s with dram := s.dram.copyIn (at_ c + 0x3000) 0x1000 (s.contextBuffer l c) 0x3000 }) s

/-- A boundary of a launch: its partition is saved in the checkpoint area and goes on at once. -/
def State.takeCheckpoint (s : State) (l : Launch) : State :=
  let s := (s.settlePartition l).writeCheckpoint l
  let snap := { s.snapshot l with whole := true }
  s.modLaunch l.lid (fun l => { l with
    checkpoint := some snap, preempting := none, checkpointing := false, saving := false })

/-- INTERVAL_BOUNDARY of a launch whose partition has stopped, or of a world none of whose launches runs. -/
def execIntervalBoundary (s : State) : Outcome :=
  .next (match s.subject with
    | [lid] =>
      match s.launches.find lid with
      | none => s
      | some l =>
        if l.preempting.isSome && l.checkpointing && l.saving && l.ending.isNone then
          s.ifReady l (fun s => (s.takeCheckpoint l).endInterval l.world)
        else s
    | [w, _] => if (s.runningLaunch w).isNone then s.endInterval w else s
    | _ => s)

/-- The undo log is full: 264 bytes for each line. -/
def State.undoFull (s : State) (w : Nat) : Bool :=
  decide ((s.world w).undo * 0x100000 < 264 * (s.undo.filter (fun e => e.1 == w)).length + 264)

/-- The commit buffer holds 4 MiB. -/
def State.commitFull (s : State) (w : Nat) : Bool := decide (0x400000 ≤ (s.commit.filter (fun e => e.1 == w)).length)

/-- A boundary of a world is due: its period is over, a log is full, or a launch of it is about to start. The copy engines
finish first. -/
def State.watchInterval (s : State) (w : Nat) : State :=
  let x := s.world w
  let due := x.period.any (fun n => decide (x.boundary + n ≤ s.cycle)) || s.undoFull w || s.commitFull w
  match s.runningLaunch w with
  | some l =>
    if l.ending.isSome || l.preempting.isSome then s
    else if l.checkpoint.isNone && !s.isRun l then
      if s.copiesDone l.dies then (s.takeCheckpoint l).endInterval w else s
    else if due && (l.started || s.isRun l) then s.stopPartition l true
    else s
  | none => if due && s.copiesDone (s.partition w) then s.endInterval w else s

def State.watchIntervals (s : State) : State := s.intervalWorlds.foldl State.watchInterval s

/-- The world's memory is as it was at the last boundary: what was held back is discarded, and the undo log is written
back, newest first. -/
def State.undoInterval (s : State) (w : Nat) : State :=
  let host := (s.commit.filter (fun e => e.1 == w)).foldl (fun (m : Mem) e => m.putByte e.2.1 e.2.2.1 e.2.2.2) s.hostMem
  let dram := (s.undo.filter (fun e => e.1 == w)).foldl (fun (m : Mem) e =>
    let m := m.overwrite (e.2.1 * 256) (e.2.2.map Prod.fst)
    (numbered e.2.2).foldl (fun m x => if x.2.2 then m.setPoison (e.2.1 * 256 + x.1) 1 true else m) m) s.dram
  let lines := (s.undo.filter (fun e => e.1 == w)).map (fun e => ({ place := .dram, off := e.2.1 * 256, len := 256 } : Piece))
  let bytes := (s.commit.filter (fun e => e.1 == w)).map (fun e => ({ place := .host, off := e.2.1, len := 1 } : Piece))
  (lines ++ bytes).foldl State.wakeWords { s.releaseInterval w with hostMem := host, dram := dram }

/-- The copies of a launch are gone from its copy engines, and nobody asks the host for it any more (R363). -/
def State.emptyEngines (s : State) (l : Launch) : State :=
  let ids := s.clusters.flatMap (fun e =>
    (e.2.copyQueue ++ e.2.copyRuns.map CopyRun.cmd).filterMap (fun c => if c.lid = l.lid then some c.id else none))
  let s := { s with clusters := s.clusters.mapVals clusterDefault (fun c => { c with
    copyQueue := c.copyQueue.filter (fun x => x.lid != l.lid), copyRuns := c.copyRuns.filter (fun r => r.cmd.lid != l.lid) }) }
  s.withdrawUsers (fun u => u == .saved l.lid || ids.any (fun i => u == .copy i))

/-- A launch goes back to what its checkpoint holds of it: onto its partition, or, where it was pre-empted at that
boundary or is pre-empted now, into its saved state. -/
def State.rollLaunch (s : State) (l : Launch) (h : Saved) : State :=
  let s := s.emptyEngines l
  let s := { s with
    flying := s.flying.filter (fun m => m.lid != l.lid)
    flyingEvents := s.flyingEvents.filter (fun m => m.lid != l.lid)
    agenda := s.agenda.filter (fun d => !(isBarrierMessage l.lid d)) }
  let s := s.modLaunch l.lid (fun l => { l with
    nroll := l.nroll + 1, ending := none, completing := false, dropped := 0
    sent := h.sent, received := h.received, barriers := h.worldBarriers, deadlock := h.deadlock })
  let s := h.handles.foldl (fun s e => s.modDie e.1 (fun d => { d with handles := e.2 })) s
  if l.saved then (s.modLaunch l.lid (fun l => { l with held := h })).relaunchMessages h
  else
    let s := s.clearPartition l
    if h.away then
      (s.modLaunch l.lid (fun l => { l with
        held := h, saved := true, preempting := none, checkpointing := false, saving := false })).relaunchMessages h
    else (s.placeSaved l h).relaunchMessages h

/-- A launch or run that began after the last boundary is loaded again: at that boundary it was not there. -/
def State.reload (s : State) (l : Launch) : State :=
  let again : Instr := if s.isRun l then .translatePacket else .launchLoad
  let s := s.clearPartition l
  let s := { s with launches := s.launches.erase l.lid }
  (s.modPacket l.pk (fun p => { p with plan := none, nroll := l.nroll + 1 })).schedule s.cycle again [l.pk]

/-- A launch that an error of its world takes back: one that goes on, or has completed, and whose end is not yet
released. -/
def Launch.rolls (l : Launch) : Bool := l.ending.isNone || l.completing

/-- The launches of a world are rolled back to the last boundary (R363): cores stop without a save and are restored from
the checkpoint; what began after it is loaded again. At the third rollback of one interval they are aborted. -/
def State.rollBack (s : State) (w : Nat) : State :=
  let s := s.modWorld w (fun x => { x with rolls := x.rolls + 1 })
  let ls := (s.launches.map Prod.snd).filter (fun l => l.world == w && l.rolls)
  if 3 ≤ (s.world w).rolls then
    ls.foldl (fun s l => (s.modLaunch l.lid (fun l => { l with ending := none, completing := false })).abortLaunch l.lid
      { status := Cause.abort.code.toNat }) s
  else
    let s := s.undoInterval w
    let s := { s with
      contributions := s.contributions.filter (fun c => c.world != w)
      poisonings := s.poisonings.filter (fun p => p.world != w)
        ++ ((ls.filterMap Launch.checkpoint).flatMap Saved.poisonings).eraseDups }
    ls.foldl (fun s l => match l.checkpoint with
      | some h => s.rollLaunch l h
      | none => s.reload l) s

/-- ROLLBACK of a world after an uncontained error (R360). -/
def execRollback (s : State) : Outcome :=
  .next (match s.subject with
    | w :: _ => s.rollBack w
    | _ => s)

/-! ## Errors of the hardware (R359, R360, R366, R389) -/

/-- An event of a core that counts toward its retirement, at the present time. -/
def State.countEvent (s : State) (core : Nat) : State :=
  { s with health := { s.health with
    contained := s.health.contained.set queueDefault core (s.now :: s.health.contained.get queueDefault core) } }

/-- A poison event of the launch that runs on a die. -/
def State.countPoison (s : State) (die : Nat) : State :=
  match s.launchOn die with
  | some l => s.modLaunch l.lid (fun l => { l with npoison := l.npoison + 1 })
  | none => s

/-- A sector of an L1 line is poisoned: key names the line, device or host (R359). -/
def State.poisonLine (s : State) (core : Nat) (host : Bool) (sector : Nat) : State :=
  let key := sector / 4 * 2 + if host then 1 else 0
  match s.line core key with
  | none => s
  | some x =>
    s.setLine core key { x with bytes := x.bytes.map (fun e =>
      (e.1, if e.1 / 64 = sector % 4 then { e.2 with poison := true } else e.2)) }

/-- Sectors of device memory are poisoned, those of a translator's windows too (R359). -/
def State.poisonDram (s : State) (pa n : Nat) : State :=
  match s.windowAt pa with
  | some (k, a) => s.setMemAt (.window k) ((s.memAt (.window k)).poisonSectors a n)
  | none => { s with dram := s.dram.poisonSectors pa n }

/-- POISON_ERROR: an uncorrectable error that is kept as poison. -/
def execPoisonError (tgt : ErrTarget) (s : State) : Outcome :=
  .next (match tgt with
    | .dram pa => (s.poisonDram pa 1).countPoison (dieOfAddress pa)
    | .mac pa =>
      -- a line whose MAC does not match: its four sectors, as one event (R368)
      if (s.die (dieOfAddress pa)).wid = 0 then s
      else (s.poisonDram (pa / 256 * 256) 256).countPoison (dieOfAddress pa)
    | .l1 core host sector => ((s.poisonLine core host sector).countEvent core).countPoison (dieOfCore core)
    | .scratchpad core off =>
      ((s.setMemAt (.scratchpad core) ((s.memAt (.scratchpad core)).poisonSectors off 1)).countEvent core).countPoison
        (dieOfCore core)
    | .arena core off =>
      ((s.setMemAt (.arena core) ((s.memAt (.arena core)).poisonSectors off 1)).countEvent core).countPoison
        (dieOfCore core)
    | .register slot code =>
      ((s.modSlot slot (fun sl => sl.setRegAt code { sl.regAt code with poison := true })).countEvent
        (coreOfSlot slot)).countPoison (dieOfCore (coreOfSlot slot)))

def errorCount (_ : Nat) : Nat := 0

/-- The die that an uncontained error at a site touches: sites 3, 5 and 8 name a core, 4 and 6 a cluster, the others a
die. -/
def errorDie (site at_ : Nat) : Nat :=
  match site with
  | 3 | 5 | 8 => dieOfCore at_
  | 4 | 6 => dieOfCluster at_
  | _ => at_

/-- Launches that an uncontained error touches: those of a world in interval mode are rolled back together, any other is
aborted with status ABORT (R360). -/
def State.strike (s : State) (ls : List Launch) (site : Nat) : State :=
  let ws := ((ls.map Launch.world).filter s.intervalWorlds.contains).eraseDups
  let s := (ls.filter (fun l => !ws.contains l.world)).foldl (fun s l =>
    s.abortLaunch l.lid { status := Cause.abort.code.toNat, xval2 := BitVec.ofNat 64 (0x200 + site) }) s
  ws.foldl (fun s w => s.schedule s.cycle .rollback [w, site]) s

/-- UNCONTAINED_ERROR at one of the sites 1 to 8. Event units and copy engines are counted each for itself (R389). -/
def execUncontainedError (site at_ : Nat) (s : State) : Outcome :=
  .next (if site = 0 || 8 < site then s
    else
      let h := s.health
      let unit := 2 * at_ + if site = 6 then 1 else 0
      let h := match site with
        | 3 | 5 | 8 => { h with cores := h.cores.set errorCount at_ (h.cores.get errorCount at_ + 1) }
        | 4 | 6 => { h with clusters := h.clusters.set errorCount unit (h.clusters.get errorCount unit + 1) }
        | _ => h
      let s := { s with health := h }
      s.strike ((s.launches.map Prod.snd).filter (fun l => l.dies.contains (errorDie site at_))) site)

/-- DIE_PORT_REFUSAL (R366): a request of a world has met a die that is not that world's; it is not performed, and the
error is its sender's. -/
def execDiePortRefusal (wid die : Nat) (s : State) : Outcome :=
  .next (if s.portAccepts wid die then s
    else s.strike ((s.launches.map Prod.snd).filter (fun l => l.world == wid)) 9)

/-- LINK_FRAME_INTEGRITY_FAIL (R369): the frame is dropped, and no data of it enters the device. -/
def execLinkFrameIntegrityFail (_link : LinkKind) (s : State) : Outcome := .next s

/-- CORRECTED_SOFT_ERROR: no effect but its count. -/
def execCorrectedSoftError (core : Nat) (s : State) : Outcome := .next (s.countEvent core)

end Sys2Proof.Machine
end

