-- ==== Sys2Proof/Sealing.lean ====
section
/-! DEFINITION. The functions that seal an exported page (R375) and a line of a confidential world's memory (R367): for
each a cipher on blocks of 256 bytes and a check value over its output. The spec gives none of them; a cipher is some
permutation, so that what is decrypted is what was encrypted. -/

namespace Sys2Proof.Config

/-- The cipher: key, EID, VER and block number. -/
opaque exportCipher : Nat → Nat → Nat → Nat → Equiv.Perm (BitVec 2048)

/-- The MAC: key, EID, VER, SIZE, block number and ciphertext. -/
opaque exportMac : Nat → Nat → Nat → Nat → Nat → BitVec 2048 → BitVec 56

/-- The line key's cipher by key, physical address and version, and the MAC key's check by ciphertext, address, WID and
version (R367). -/
opaque lineCipher : Nat → Nat → Nat → Equiv.Perm (BitVec 2048)
opaque lineMac : Nat → BitVec 2048 → Nat → Nat → Nat → BitVec 56

/-- Why an unlock token is refused or not, by its bytes: 0 unlocked, 3 malformed, 7 a signature is refused (R384, R390). -/
opaque tokenVerdict : List Byte → Fin 3

end Sys2Proof.Config
end

