-- ==== Sys2Proof/Machine/Worlds.lean ====
section
/-! DEFINITION. The Curator (R366 to R381, R384): its mailbox requests, worlds and their frames, notices and requests of a
world's runtime, exports, attestation and the destruction of a world. -/

namespace Sys2Proof.Machine

/-! ## Memory as the Curator reaches it -/

/-- Bytes of host memory. -/
def State.hostBytes (s : State) (a n : Nat) : List Byte := s.hostMem.bytes a n

/-- Bytes written to host memory at system scope; nothing where the link is down. -/
def State.hostStore (s : State) (a : Nat) (bs : List Byte) : State :=
  if s.hostDown then s
  else
    let s := (cutRange 256 a bs.length).foldl (fun s r => s.invalidateOthers [] (lineKey .host r.1)) s
    ({ s with hostMem := s.hostMem.overwrite a bs } : State).wakeWords { place := .host, off := a, len := bs.length }

/-- Every copy of the lines of a range of DRAM is dropped, and the range is zero without poison. -/
def State.scrub (s : State) (pa n : Nat) : State :=
  let keys := ((s.cores.flatMap (fun e => e.2.lines.map Prod.fst)).eraseDups).filter (fun key =>
    linePlace key == .dram && decide (pa < lineBase key + 256) && decide (lineBase key < pa + n))
  let s := (s.cores.map Prod.fst).foldl (fun s c => keys.foldl (fun s key => s.dropLine c key) s) s
  ({ s with dram := s.dram.clear pa n } : State).wakeWords { place := .dram, off := pa, len := n }

/-- A write of the Curator to device memory at system scope. -/
def State.curatorWrite (s : State) (pa : Nat) (bs : List Byte) : State :=
  (cutRange 64 pa bs.length).foldl (fun s r =>
    s.systemWrite (s.die (dieOfAddress pa)).wid .dram r.1 ((bs.drop (r.1 - pa)).take r.2) false) s

/-- A line of a confidential world as it stands in DRAM, in the shared cache and on the ports, with its MAC (R367). What
this model keeps in State.dram, and of a translator's windows in State.windows, is what the sealing engines make of it. -/
def State.sealedLine (s : State) (pa : Nat) : BitVec 2048 × BitVec 56 :=
  let w := (s.die (dieOfAddress pa)).wid
  let key := (s.world w).keys
  let version := s.versions.get (fun _ => 0) (pa / 256)
  let line := match s.windowAt (pa / 256 * 256) with
    | some (k, a) => (s.memAt (.window k)).bytes a 256
    | none => s.dram.bytes (pa / 256 * 256) 256
  let c := Config.lineCipher key (pa / 256) version (BitVec.ofNat 2048 (leNat line))
  (c, Config.lineMac key c (pa / 256) w version)

/-- What a fill makes of a sealed line: its bytes, or nothing where the MAC does not match (R368). -/
def openLine (key w pa version : Nat) (x : BitVec 2048 × BitVec 56) : Option (List Byte) :=
  if x.2 = Config.lineMac key x.1 (pa / 256) w version then
    some (bytesOfWord 256 ((Config.lineCipher key (pa / 256) version).symm x.1).toNat)
  else none

/-! ## The mailbox (R370, R391) -/

/-- A field of the request in progress. -/
def State.request (s : State) (off n : Nat) : Nat := leNat (s.hostBytes (s.mailbox.busy.getD 0 + off) n)
def State.requestWid (s : State) : Nat := s.request 2 1
def State.arg (s : State) (i : Nat) : Nat := s.request (8 + 8 * i) 8

/-- RESULT is written with a release at system scope, then DONE is set. -/
def State.answer (s : State) (code : Nat) : State :=
  match s.mailbox.busy with
  | none => s
  | some a => { s.hostStore (a + 32) (le32 code) with mailbox := { s.mailbox with busy := none, done := true } }

/-- The step that serves a request. -/
def requestStep (op : Nat) : Option Instr :=
  match op with
  | 0x01 => some .createWorld
  | 0x02 => some .destroyWorld
  | 0x03 => some .offer
  | 0x04 => some .reclaim
  | 0x05 => some .force
  | 0x06 => some .importPage
  | 0x07 => some .setRoot
  | 0x10 => some .createQueue
  | 0x11 => some .destroyQueue
  | 0x20 => some .setWindow
  | 0x21 => some .clearWindow
  | 0x30 => some .debugUnlock
  | _ => none

/-- A request is submitted; one with reserved bytes that are not 0, or of no known kind, is malformed. -/
def State.submit (s : State) : State :=
  let a := s.mailbox.addr.toNat / 64 * 64
  let r := s.hostBytes a 64
  let s := { s with mailbox := { s.mailbox with busy := some a } }
  match (if zeroBytes r 3 5 && zeroBytes r 36 28 then requestStep (leNat (r.take 2)) else none) with
  | some i => s.schedule s.cycle i
  | none => s.answer 3

/-- Serve a request of a kind, if one is in progress. -/
def State.serving (s : State) (op : Nat) (f : State → State) : State :=
  if s.mailbox.busy.isSome && s.request 0 2 == op then f s else s

/-! ## Worlds and their frames (R370 to R374) -/

def State.worldAlive (s : State) (w : Nat) : Bool := w == 0 || (s.world w).alive

/-- Bytes of a checkpoint area: a context of every core of the dies that a record names. -/
def checkpointBytes (r : List Byte) : Nat :=
  288 * ((List.range 8).filter (fun d => recField r 0 1 / 2 ^ d % 2 = 1)).length * contextBytes

/-- Ranges of a world's dies that the Curator has taken or given: seed, undo log, checkpoint area and frames. -/
def World.taken (x : World) : List (Nat × Nat) :=
  (if x.alive then [(x.seed, 0x10000)] else [])
    ++ (if x.period.isSome then [(x.undoBase, x.undo * 0x100000), (x.ckpt, checkpointBytes x.record)] else [])
    ++ x.frames.map (fun f => (f.pa, pageBytes f.size))

/-- A range lies in the data range of a world's dies and belongs to the host pool. -/
def State.inPool (s : State) (w pa n : Nat) : Bool :=
  let d := s.die (dieOfAddress pa)
  inDataRange pa n && d.valid && d.wid == w
    && (s.worlds.flatMap (fun e => e.2.taken)).all (fun r => decide (pa + n ≤ r.1) || decide (r.1 + r.2 ≤ pa))

def State.readDram64 (s : State) (pa : Nat) : Nat := s.dram.word pa 8

/-- A notice in a world's ring (R373). One that finds no room is lost. -/
def State.notice (s : State) (w op res pa arg : Nat) : State :=
  let x := s.world w
  let tail := s.readDram64 (x.seed + 0x6000)
  if 32 ≤ tail - s.readDram64 (x.seed + 0x6008) then s
  else
    let entry := [BitVec.ofNat 8 op, BitVec.ofNat 8 res, 0, 0] ++ le32 x.noticeSeq ++ le64 pa ++ le64 arg ++ zeros 40
    let s := s.curatorWrite (x.seed + 0x5000 + tail % 32 * 64) entry
    let s := s.curatorWrite (x.seed + 0x6000) (le64 (tail + 1))
    s.modWorld w (fun x => { x with noticeSeq := x.noticeSeq + 1 })

/-- The tables of a new seed region: sixteen writable leaves at VA 0x100_0000_0000. -/
def seedTables (seed : Nat) : Mem :=
  let m := (({} : Mem).overwrite (seed + 0) (le64 (seed + 0x1000 + 1))).overwrite (seed + 0x1000 + 8 * 2) (le64 (seed + 0x2000 + 1))
  let m := (m.overwrite (seed + 0x2000) (le64 (seed + 0x3000 + 1))).overwrite (seed + 0x3000) (le64 (seed + 0x4000 + 1))
  (List.range 16).foldl (fun (m : Mem) i => m.overwrite (seed + 0x4000 + 8 * i) (le64 (seed + 0x1000 * i + 6))) m

/-- A die as it stands when it changes worlds: its L1s go home, nothing of a task is left on it, and it is assigned to no
world (R366). -/
def State.emptyDie (s : State) (d : Nat) : State :=
  let s := (s.preparePartition [d] (fun _ => false)).dropRequests (fun r => r.die == d)
  { s.modDie d (fun x => { x with handles := [], barriers := [], valid := false }) with
    runs := s.runs.filter (fun e => dieOfCore (coreOfSlot e.1) != d)
    windows := s.windows.filter (fun e => dieOfCore (coreOfSlot e.1) != d)
    clusters := Assoc.sorted (s.clusters.filter (fun (e : Nat × Cluster) => dieOfCluster e.1 != d))
    tlb := s.tlb.filter (fun e => e.die != d)
    arena := s.arena.filter (fun e => dieOfCore e.1 != d)
    scratch := s.scratch.filter (fun e => dieOfCore e.1 != d) }

/-- A world record (R371) within its limits. -/
def State.worldRecordLegal (s : State) (r : List Byte) : Bool :=
  let f := recField r
  let dies := (List.range 8).filter (fun d => f 0 1 / 2 ^ d % 2 = 1)
  let ivl := f 1 1 == 1
  let onDie := fun pa n => inDataRange pa n && dies.contains (dieOfAddress pa)
  f 0 1 != 0 && decide (f 1 1 ≤ 1) && (if ivl then decide (16 ≤ f 2 1) && decide (f 2 1 ≤ 30) else f 2 1 == 0) && f 3 1 == 0
    && decide (1 ≤ f 4 2) && decide (f 4 2 ≤ 255) && f 6 2 == 0 && !(s.worlds.any (fun e => e.2.alive && e.2.vf == f 4 2))
    && f 8 8 % 0x10000 == 0 && onDie (f 8 8) 0x10000
    && f 24 4 % 8 == 0 && decide (f 24 4 ≤ 0x10000) && (f 16 8 != 0 || f 24 4 == 0)
    && (if ivl then decide (16 ≤ f 28 4) && decide (f 28 4 ≤ 4096) else f 28 4 == 0)
    && (if ivl then onDie (f 32 8) (checkpointBytes r) else f 32 8 == 0) && zeroBytes r 40 24

/-- A handler image holds no emulated word (R351). -/
def handlerLegal (bs : List Byte) : Bool :=
  (List.range (bs.length / 8)).all (fun i =>
    match decode (BitVec.ofNat 64 (leNat ((bs.drop (8 * i)).take 8))) with
    | .ok i => !isEmulated i
    | .error _ => true)

/-- Where the undo log of a new world stands: a free place on one of its dies, or else the first that its seed region and
checkpoint area leave (R371, R393). -/
def State.undoPlace (s : State) (dies : List Nat) (n : Nat) (held : List (Nat × Nat)) : Nat :=
  let fits := fun (a : Nat) =>
    inDataRange a n && dies.contains (dieOfAddress a)
      && held.all (fun (r : Nat × Nat) => decide (a + n ≤ r.1) || decide (r.1 + r.2 ≤ a))
  let any := Config.undoPlace s.draws * 0x100000
  if fits any then any
  else
    let above := held.map (fun (r : Nat × Nat) => (r.1 + r.2 + 0xFFFFF) / 0x100000 * 0x100000)
    ((dies.map (fun d => d * 0x1000000000) ++ above).find? fits).getD 0

/-- A world takes its dies from world 0 (R371, R372). While it moves, a die is assigned to no world. -/
def State.makeWorld (s : State) (w : Nat) (r : List Byte) (handler : List Byte) : State :=
  let f := recField r
  let dies := (List.range 8).filter (fun d => f 0 1 / 2 ^ d % 2 = 1)
  let seed := f 8 8
  let s := dies.foldl State.emptyDie s
  let s := s.scrub seed 0x10000
  let s := dies.foldl (fun s d => s.modDie d (fun x => { x with wid := w, valid := true })) s
  let s := { s with dram := s.dram.copyIn seed 0x10000 (seedTables seed) seed }
  let ivl := f 1 1 = 1
  let place := s.undoPlace dies (f 28 4 * 0x100000) [(seed, 0x10000), (f 32 8, checkpointBytes r)]
  let x : World := {
    alive := true, undoBase := if ivl then place else 0, record := r, vf := f 4 2, ptroot := some seed, seed := seed, handler := handler
    period := if ivl then some (2 ^ f 2 1) else none, undo := f 28 4, ckpt := f 32 8, keys := s.nextId, boundary := s.cycle
    tdispError := s.hostDown }
  -- a change of class that its dies were to make goes on (R387)
  State.reachClass { s with
    nextId := s.nextId + 1, draws := s.draws + 1, worlds := s.worlds.set worldDefault w x
    intervalWorlds := if ivl then s.intervalWorlds ++ [w] else s.intervalWorlds } w

/-- A world has no LAUNCH or TRANSLATE loaded or running. -/
def State.idleWorld (s : State) (w : Nat) : Bool :=
  !(s.launches.any (fun e => e.2.world == w)) && !(s.packets.any (fun p => p.wid == w && p.working))

/-- World 0 has no LAUNCH or TRANSLATE loaded or running on some dies (R372). One that waits for its class is not loaded
(R347, R350). -/
def State.freeOfWork (s : State) (dies : List Nat) : Bool :=
  !(s.launches.any (fun e => e.2.world == 0 && e.2.dies.any dies.contains))

def execCreateWorld (s : State) : Outcome :=
  .next (s.serving 0x01 (fun s =>
    let w := s.requestWid
    let r := s.hostBytes (s.arg 0) 64
    let f := recField r
    let handler := s.hostBytes (f 16 8) (f 24 4)
    if w = 0 || !s.worldRecordLegal r || !handlerLegal handler then s.answer 3
    else if s.health.debug then s.answer 8
    else if s.worldAlive w then s.answer 1
    else if !s.freeOfWork ((List.range 8).filter (fun d => f 0 1 / 2 ^ d % 2 = 1))
        || !((List.range 8).all (fun d => f 0 1 / 2 ^ d % 2 != 1 || (s.partition 0).contains d)) then
      s.answer 2
    else (s.makeWorld w r handler).answer 0))

/-! ## Destroying a world (R377) -/

/-- The packets of a world's queues end with a status, their reports sent where they can be; what was kicked behind them is
dropped (R330). A report that would wait for a page is not made: its world is gone within 10 ms (DESIGN CHOICE, assumption
83). -/
def State.endPackets (s : State) (w status : Nat) (special : Nat → Option Nat) : State :=
  (s.packets.filter (fun p => p.wid == w && !p.dropped)).foldl (fun s p =>
    let v : EndValues := { status := (special p.id).getD status }
    let s := if p.usesPartition && !p.proved then s.keepRecord p v else s
    let p := { p with proved := true, result := some v }
    (((s.modPacket p.id (fun _ => p)).endOne p v).2.removePacket p.id).queueError p.queue p.idx v.status 0) s

/-- The mailbox waits for a frame's answer. -/
def State.reclaiming (s : State) (w pa : Nat) : Bool :=
  s.mailbox.busy.isSome && s.request 0 2 == 0x04 && s.requestWid == w && s.arg 0 == pa

/-- Dies that world 0 gets back run at the class of its others, as far as throttling lets those run, or all at one class
where there are no others (R387). -/
def State.joinClass (s : State) (dies : List Nat) : State :=
  match ((s.partition 0).filter (fun d => !dies.contains d) ++ dies).head? with
  | none => s
  | some d =>
    let y := s.die d
    (dies.foldl (fun s d => s.modDie d (fun x => { x with wanted := y.wanted, ceiling := y.ceiling })) s).reachClass 0

/-- DESTROY: every step of R377. A launch or run that an IMPORT has failed ends with the status given. A RECLAIM of one of
the world's frames that is still open is answered: the frame has returned to the host. -/
def State.destroyWorld (s : State) (w reason : Nat) (running : Nat) : State :=
  if w = 0 || !(s.world w).alive then s
  else
    let x := s.world w
    let ls := (s.launches.map Prod.snd).filter (fun l => l.world == w)
    let pks := (ls.filter (fun l => !s.isRun l)).map Launch.pk
    let dies := (List.range 8).filter (fun d => (s.die d).wid == w && (s.die d).valid)
    let wait := x.frames.any (fun f => f.asked && s.reclaiming w f.pa)
    let s := ls.foldl (fun s l =>
      let s := if l.saved then s.dropHeld l else s.drainPartition l
      { s with launches := s.launches.erase l.lid }) s
    let s := { s with
      poisonings := s.poisonings.filter (fun p => p.world != w),
      contributions := s.contributions.filter (fun c => c.world != w) }
    let s := s.endPackets w statusWorld (fun id => if pks.contains id then some running else none)
    let final := s.provenance 3 w 0xFFFF 0 { status := running } dies 0 s.now 0 0 [] [] []
    let s := { s with
      notices := s.notices ++ [{ wid := w, reason := reason, record := final }]
      images := s.images.filter (fun i => i.wid != w)
      queues := s.queues.filter (fun e => e.2.wid != w)
      packets := s.packets.filter (fun p => p.wid != w)
      provs := s.provs.filter (fun r => s.queues.any (fun e => e.1 == r.queue && e.2.wid != w))
      intervalWorlds := s.intervalWorlds.filter (fun v => v != w)
      undo := s.undo.filter (fun e => e.1 != w), commit := s.commit.filter (fun e => e.1 != w)
      tlb := s.tlb.filter (fun e => e.world != w) }
    let s := dies.foldl State.emptyDie s
    let s := x.taken.foldl (fun s r => s.scrub r.1 r.2) s
    -- a retired die stays in no world (R366, R372)
    let s := dies.foldl (fun s d => s.modDie d (fun y => { y with wid := 0, valid := !s.deadDies.contains d })) s
    let s : State := { s with worlds := s.worlds.set worldDefault w { tdisp := .error } }
    let s := s.joinClass dies
    if wait then s.answer 0 else s

/-- Every confidential world. -/
def State.confidential (s : State) : List Nat := (s.worlds.filter (fun e => e.1 != 0 && e.2.alive)).map Prod.fst

/-- A reason code that the spec does not give. -/
def State.someReason (s : State) : Nat × State := ((Config.freeByte s.draws).toNat, { s with draws := s.draws + 1 })

def execDestroyWorld (s : State) : Outcome :=
  .next (s.serving 0x02 (fun s =>
    if s.requestWid = 0 || !s.worldAlive s.requestWid then s.answer 3
    else
      let r := s.someReason
      (r.2.destroyWorld s.requestWid r.1 statusWorld).answer 0))

/-! ## Frames (R374) -/

def execOffer (s : State) : Outcome :=
  .next (s.serving 0x03 (fun s =>
    let w := s.requestWid
    let pa := s.arg 0
    let size := s.arg 1
    if w = 0 || !s.worldAlive w || 11 < size || pa % pageBytes size != 0 || !s.inPool w pa (pageBytes size) then s.answer 3
    else
      let s := s.scrub pa (pageBytes size)
      let s := s.modWorld w (fun x => { x with frames := x.frames ++ [{ pa := pa, size := size }] })
      (s.notice w 1 0 pa size).answer 0))

/-- A frame of a world, by its address. -/
def World.frame (x : World) (pa : Nat) : Option Frame := x.frames.find? (fun f => f.pa == pa)

def execReclaim (s : State) : Outcome :=
  .next (s.serving 0x04 (fun s =>
    let w := s.requestWid
    match (s.world w).frame (s.arg 0) with
    | some f =>
      if f.asked then s.answer 3
      else
        let s := s.modWorld w (fun x => { x with frames := x.frames.map (fun g => if g.pa = f.pa then { g with asked := true } else g) })
        s.notice w 2 0 f.pa 0
    | none => s.answer 3))

def execForce (s : State) : Outcome :=
  .next (s.serving 0x05 (fun s =>
    let w := s.requestWid
    if ((s.world w).frame (s.arg 0)).isSome && w != 0 then
      let r := s.someReason
      (r.2.destroyWorld w r.1 statusWorld).answer 0
    else s.answer 3))

/-- A frame leaves its world: no translation of it stays, and it is scrubbed. -/
def State.releaseFrame (s : State) (w : Nat) (f : Frame) : State :=
  let n := pageBytes f.size
  let s := { s with tlb := s.tlb.filter (fun e =>
    !(e.world == w && e.pasid.isNone && decide (e.base < f.pa + n) && decide (f.pa < e.base + e.size))) }
  (s.scrub f.pa n).modWorld w (fun x => { x with frames := x.frames.filter (fun g => g.pa != f.pa) })

/-! ## The request ring of a world's runtime (R373) -/

/-- RTAIL of a world is observed: of the entries up to it those within the ring's free space are to be served, and any
beyond are ignored (R373). -/
def State.seeRing (s : State) (w : Nat) : State :=
  let x := s.world w
  let tail := s.readDram64 (x.seed + 0x6010)
  if tail = x.seen then s
  else
    let n := (tail + 2 ^ 64 - x.served) % 2 ^ 64
    s.modWorld w (fun x => { x with seen := tail, limit := if n ≤ 32 then tail else (x.served + 32) % 2 ^ 64 })

/-- The entry that a world's request ring offers next: its OP, RES, PA and ARG. Its zero bytes are not looked at: the spec
states no response to an entry in which they are not 0 (DESIGN CHOICE, assumption 76). -/
def State.nextRequest (s : State) (w : Nat) : Option (Nat × Nat × Nat × Nat) :=
  let x := s.world w
  if x.alive && w != 0 && x.served != x.limit then
    let a := x.seed + 0x5800 + x.served % 32 * 64
    some (s.dram.word a 1, s.dram.word (a + 1) 1, s.dram.word (a + 8) 8, s.dram.word (a + 16) 8)
  else none

/-- RHEAD moves to an entry. -/
def State.headTo (s : State) (w n : Nat) : State :=
  (s.modWorld w (fun x => { x with served := n })).curatorWrite ((s.world w).seed + 0x6018) (le64 n)

/-- RHEAD passes an entry; past the last that is served it passes those that are ignored too. -/
def State.passRequest (s : State) (w : Nat) : State :=
  let x := s.world w
  let n := (x.served + 1) % 2 ^ 64
  if n = x.limit then (s.modWorld w (fun x => { x with limit := x.seen })).headTo w x.seen else s.headTo w n

/-- The Curator observes RTAIL of a world: the next entry is served, entry by entry. -/
def State.watchRing (s : State) (w : Nat) : State :=
  let s := s.seeRing w
  match s.nextRequest w with
  | none => s
  | some (op, _) =>
    match op with
    | 1 => s.schedule s.cycle .accept [w]
    | 2 => s.schedule s.cycle .refuse [w]
    | 3 => if s.hostDown then s else s.schedule s.cycle .exportPage [w]
    | _ => s.passRequest w

def State.watchRequests (s : State) : State := s.confidential.foldl State.watchRing s

/-- Run one entry of a world's request ring. -/
def State.takeRequest (s : State) (op : Nat) (f : Nat → Nat → Nat → Nat → State → State) : State :=
  match s.subject with
  | [w] =>
    match s.nextRequest w with
    | some (o, res, pa, arg) => if o = op then f w res pa arg (s.passRequest w) else s
    | none => s
  | _ => s

/-- ACCEPT: an asked frame returns to the host. -/
def execAccept (s : State) : Outcome :=
  .next (s.takeRequest 1 (fun w _ pa _ s =>
    match (s.world w).frame pa with
    | some f =>
      if f.asked then
        let wait := s.reclaiming w pa
        let s := s.releaseFrame w f
        if wait then s.answer 0 else s
      else s
    | none => s))

/-- REFUSE: an asked frame stays. -/
def execRefuse (s : State) : Outcome :=
  .next (s.takeRequest 2 (fun w _ pa _ s =>
    match (s.world w).frame pa with
    | some f =>
      if f.asked then
        let wait := s.reclaiming w pa
        let s := s.modWorld w (fun x => { x with frames := x.frames.map (fun g => if g.pa = pa then { g with asked := false } else g) })
        if wait then s.answer 4 else s
      else s
    | none => s))

/-! ## Exports (R375) -/

def exportMagic : Nat := 0x5850524D

/-- One entry of an export record. -/
def sealEntry (key eid ver size e : Nat) (plain : List Byte) : List Byte :=
  let c := Config.exportCipher key eid ver e (BitVec.ofNat 2048 (leNat plain))
  bytesOfWord 256 c.toNat ++ bytesOfWord 7 (Config.exportMac key eid ver size e c).toNat ++ [0]

/-- The plain bytes of an entry whose MAC is right. -/
def openEntry (key eid ver size e : Nat) (bs : List Byte) : Option (List Byte) :=
  let c : BitVec 2048 := BitVec.ofNat 2048 (leNat (bs.take 256))
  if recField bs 256 7 = (Config.exportMac key eid ver size e c).toNat && recField bs 263 1 == 0 then
    some (bytesOfWord 256 ((Config.exportCipher key eid ver e).symm c).toNat)
  else none

def exportHeader (wid size eid ver : Nat) : List Byte :=
  le32 exportMagic ++ [BitVec.ofNat 8 wid, BitVec.ofNat 8 size, 0, 0] ++ le64 eid ++ le64 ver ++ zeros 40

/-- The bytes of a frame at home, dirty lines included. -/
def State.frameBlock (s : State) (pa e : Nat) : List Byte := s.dram.bytes (pa + 256 * e) 256

/-- EXPORT: a frame of the world is sealed into host memory, entries first and the header last, and returns to the
host. -/
def execExportPage (s : State) : Outcome :=
  .next (s.takeRequest 3 (fun w _ pa ha s =>
    let x := s.world w
    match x.frame pa with
    | some f =>
      if f.asked then s
      else if 2 ^ 20 ≤ x.exports.length then s.notice w 5 1 pa 0
      else
        let n := pageBytes f.size
        let ver := x.exportCount + 1
        -- what L1s hold of the frame goes home first
        let s := (s.cores.map Prod.fst).foldl State.cleanL1 s
        let s := (List.range (n / 256)).foldl (fun s e =>
          s.hostStore (ha + 64 + 264 * e) (sealEntry x.keys pa ver f.size e (s.frameBlock pa e))) s
        let s := s.hostStore ha (exportHeader w f.size pa ver)
        let s := s.releaseFrame w f
        let s := s.modWorld w (fun x => { x with exports := x.exports ++ [(pa, ver, f.size)], exportCount := ver })
        s.notice w 3 0 pa ver
    | none => s))

/-- The plain bytes of every entry of a record, if all MACs are right. -/
def State.openRecord (s : State) (key eid ver size ha : Nat) : Nat → Nat → Option (List (List Byte))
  | 0, _ => some []
  | n + 1, e =>
    match openEntry key eid ver size e (s.hostBytes (ha + 64 + 264 * e) 264) with
    | none => none
    | some b => (s.openRecord key eid ver size ha n (e + 1)).map (fun rest => b :: rest)

/-- IMPORT: first the target frame, then the record; a record that fails a check destroys the world. -/
def execImportPage (s : State) : Outcome :=
  .next (s.serving 0x06 (fun s =>
    let w := s.requestWid
    let ha := s.arg 0
    let pa := s.arg 1
    let h := s.hostBytes ha 64
    let size := recField h 5 1
    let eid := recField h 8 8
    let ver := recField h 16 8
    if w = 0 || !s.worldAlive w || 11 < size || pa % pageBytes size != 0 || !s.inPool w pa (pageBytes size) then s.answer 3
    else
      let x := s.world w
      let known := x.exports.any (fun e => e.1 == eid && e.2.1 == ver && e.2.2 == size)
      let blocks := if recField h 0 4 = exportMagic && recField h 4 1 == w && known && zeroBytes h 6 2 && zeroBytes h 24 40 then
          s.openRecord x.keys eid ver size ha (pageBytes size / 256) 0
        else none
      match blocks with
      | none =>
        let r := s.someReason
        (r.2.destroyWorld w r.1 Cause.integrity.code.toNat).answer 5
      | some bs =>
        let s := s.scrub pa (pageBytes size)
        let s := (numbered bs).foldl (fun s b => { s with dram := s.dram.overwrite (pa + 256 * b.1) b.2 }) s
        let s := s.wakeWords { place := .dram, off := pa, len := pageBytes size }
        let s := s.modWorld w (fun x => { x with
          frames := x.frames ++ [{ pa := pa, size := size }]
          exports := x.exports.filter (fun e => !(e.1 == eid && e.2.1 == ver)) })
        (s.notice w 4 0 pa eid).answer 0))

/-! ## Roots, queues and windows (R332, R372, R384) -/

/-- SET_ROOT: in force at once, since no launch of world 0 is loaded. -/
def execSetRoot (s : State) : Outcome :=
  .next (s.serving 0x07 (fun s =>
    let pa := s.arg 0
    if s.requestWid != 0 || pa % 0x1000 != 0 || !s.ownsDram 0 pa 0x1000 then s.answer 3
    else if s.launches.any (fun e => e.2.world == 0 && !s.isRun e.2) then s.answer 2
    else
      let s := { s with tlb := s.tlb.filter (fun e => !(e.world == 0 && e.pasid.isNone)) }
      (s.modWorld 0 (fun x => { x with ptroot := some pa })).answer 0))

/-- A queue record within its limits (R332). -/
def queueRecordLegal (r : List Byte) : Bool :=
  let f := recField r
  f 0 8 % 128 == 0 && (List.range 16).any (fun i => f 8 4 == 2 ^ (i + 1)) && decide (f 12 1 ≤ 7) && decide (f 13 1 ≤ 1)
    && zeroBytes r 14 2 && decide (f 16 4 < 2 ^ 20) && f 20 4 != 0 && zeroBytes r 24 40

def queueOf (w : Nat) (r : List Byte) : Queue :=
  let f := recField r
  { wid := w, record := r, ring := f 0 8, nslot := f 8 4, prio := f 12 1
    pasid := if f 13 1 = 1 then some (f 16 4) else none, wdog := f 20 4 }

def execCreateQueue (s : State) : Outcome :=
  .next (s.serving 0x10 (fun s =>
    let q := s.arg 1
    let r := s.hostBytes (s.arg 0) 64
    if 2048 ≤ q || s.arg 0 % 64 != 0 || !s.worldAlive s.requestWid || !queueRecordLegal r then s.answer 3
    else if (s.queue q).isSome then s.answer 2
    else ({ s with queues := s.queues.put q (queueOf s.requestWid r) } : State).answer 0))

/-- DESTROY_QUEUE answers at once; the queue drains and is removed once idle. -/
def execDestroyQueue (s : State) : Outcome :=
  .next (s.serving 0x11 (fun s =>
    let q := s.arg 0
    match s.queue q with
    | none => s.answer 3
    | some x =>
      if x.wid != s.requestWid then s.answer 3
      else
        let s := s.answer 0
        (s.modQueue q (fun x => { x with draining := true, destroying := true })).checkDrain q))

def execSetWindow (s : State) : Outcome :=
  .next (s.serving 0x20 (fun s =>
    let w := s.requestWid
    let base := s.arg 0
    let len := s.arg 1
    let clash := (s.world w).windows.any (fun x => decide (base < x.1 + x.2.1) && decide (x.1 < base + len))
    if !s.worldAlive w || base % 0x1000 != 0 || len % 0x1000 != 0 || len = 0 || 0x40000000 < len || clash || 255 < s.arg 2 then
      s.answer 3
    else if !s.idleWorld w then s.answer 2
    else if 16 ≤ (s.world w).windows.length then s.answer 6
    else (s.modWorld w (fun x => { x with windows := x.windows ++ [(base, len, s.arg 2)] })).answer 0))

def execClearWindow (s : State) : Outcome :=
  .next (s.serving 0x21 (fun s =>
    let w := s.requestWid
    let base := s.arg 0
    if !((s.world w).windows.any (fun x => x.1 == base)) then s.answer 3
    else if !s.idleWorld w then s.answer 2
    else (s.modWorld w (fun x => { x with windows := x.windows.filter (fun y => y.1 != base) })).answer 0))

/-! ## Debug unlock and attestation (R376, R390) -/

/-- DEBUG_UNLOCK: confidential worlds are destroyed first. The token's length is open: what stands in 8 KiB decides. -/
def execDebugUnlock (s : State) : Outcome :=
  .next (s.serving 0x30 (fun s =>
    match (Config.tokenVerdict (s.hostBytes (s.arg 0) 0x2000)).val with
    | 0 =>
      let r := s.someReason
      let s := s.confidential.foldl (fun s w => s.destroyWorld w r.1 statusWorld) r.2
      ({ s with health := { s.health with debug := true } } : State).answer 0
    | 1 => s.answer 3
    | _ => s.answer 7))

/-- The measurements (R376) for a world. -/
def State.measurements (s : State) (w : Nat) : List (List Byte) :=
  let x := s.world w
  let rec4 := x.record.take 3 ++ [BitVec.ofNat 8 w] ++ x.record.drop 4
  [(List.range 64).map (Config.romHash s.health.debug), (List.range 64).map (Config.firmwareHash s.firmware),
   s.catalogueHash, sha512 rec4, if x.handler.isEmpty then zeros 64 else sha512 x.handler]

/-- The world that is bound to a function: world 0 for one to which no confidential world is. -/
def State.boundWorld (s : State) (vf : Nat) : Nat :=
  ((s.worlds.find? (fun e => e.2.alive && e.2.vf == vf)).map Prod.fst).getD 0

/-- The responder of a function attests its world with the pair of signatures. -/
def State.attest (s : State) (vf : Nat) (nonce : List Byte) : State :=
  let ms := s.measurements (s.boundWorld vf)
  let signed := nonce ++ ms.flatten
  { s with attestation := some {
    vf := vf, nonce := nonce, measurements := ms
    signatures := (List.range 64).map (Config.signEd25519 signed) ++ (List.range 3309).map (Config.signMldsa signed) } }

/-- The IDE session and the TDISP binding of a world are lost (R107, R378). -/
def World.loseBinding (x : World) : World :=
  { x with tdispError := true, session := false, ide := false, tdisp := .error }

/-- Every host access of some worlds that is parked traps (R107). -/
def State.failHost (s : State) (which : Nat → Bool) : State :=
  let lost := fun (r : AtsReq) => which r.world
  let s := (s.ats.filter lost).foldl (fun s r => s.failUsers r.users r.va .page 0x400) s
  -- over a link that is up the host still answers page requests (R111)
  let s := if s.hostDown then { s with ats := s.ats.filter (fun r => !lost r) } else s.dropRequests lost
  (s.slots.filter (fun e => which (s.translatorOf e.1).world && e.2.hostOp.any (fun o => o.answer.isNone))).foldl
    (fun s e => s.modSlot e.1 (fun sl => { sl with atsFail := sl.hostOp.map (fun o => (pageOf o.va, .page, 0x400)) })) s

/-- The link of a world after a message of its tenant: a session, then IDE keys, then the interface locked and started.
With the last, host accesses of the world are served again. -/
def World.converse (x : World) (m : SpdmMessage) : World :=
  match m with
  | .attest _ => x
  | .lost => x.loseBinding
  | .session => { x with session := true }
  | .ideKm => { x with ide := x.session }
  | .lockInterface => if x.ide && x.tdisp != .run then { x with tdisp := .locked } else x
  | .startInterface => if x.tdisp == .locked then { x with tdisp := .run, tdispError := false } else x

/-- SPDM_REQUEST, over the host link. -/
def execSpdmRequest (vf : Nat) (m : SpdmMessage) (s : State) : Outcome :=
  .next (if s.hostDown then s
    else
      match m with
      | .attest nonce => s.attest vf nonce
      | .lost =>
        if s.boundWorld vf = 0 then s
        else (s.modWorld (s.boundWorld vf) World.loseBinding).failHost (fun w => w == s.boundWorld vf)
      | _ => if s.boundWorld vf = 0 then s else s.modWorld (s.boundWorld vf) (fun x => x.converse m))

end Sys2Proof.Machine
end

