-- ==== Sys2Proof/Machine/Package.lean ====
section
/-! DEFINITION. The package as a whole (R17, R378, R381 to R392): BAR 0, the host link, ATS invalidations, frequency classes,
wear and retirement, the fabric, resets, firmware updates and the freeze. -/

namespace Sys2Proof.Machine

/-! ## BAR 0 of the physical function (R391) -/

/-- REGISTER_WRITE: MBADDR, MBDOOR and DONE; every other register ignores a write. Nothing comes over a link that is
down. -/
def execRegisterWrite (off : Nat) (val : DWord) (s : State) : Outcome :=
  .next (if s.hostDown then s
    else
      match off with
      | 0x00 => { s with mailbox := { s.mailbox with addr := val } }
      | 0x08 => if val.getLsbD 0 && s.mailbox.busy.isNone then s.submit else s
      | 0x0C => if val.getLsbD 1 then { s with mailbox := { s.mailbox with done := false } } else s
      | _ => s)

/-- A retired cluster: all its cores are retired. -/
def clusterRetired (cores : List Nat) (cl : Nat) : Bool := (List.range 4).all (fun i => cores.contains (coreOfCluster cl i))

/-- What a read of BAR 0 answers. -/
def State.packageRegister (s : State) (off : Nat) : DWord :=
  let bit := fun (b : Bool) (i : Nat) => if b then 2 ^ i else 0
  match off with
  | 0x00 => s.mailbox.addr
  | 0x0C => BitVec.ofNat 64 (bit s.mailbox.done 1 + bit s.mailbox.busy.isSome 0)
  | 0x10 =>
    let clusters := ((s.retiredCores.map clusterOfCore).eraseDups.filter (clusterRetired s.retiredCores)).length
    BitVec.ofNat 64 (bit s.health.dreq 31 + bit s.health.throt 30 + bit s.health.debug 29 + min 255 clusters * 2 ^ 8
      + ((List.range dieCount).map (fun d => bit (s.retiredDies.contains d) d)).foldl (· + ·) 0)
  | 0x14 => s.pkgid.zeroExtend 64
  | 0x18 => BitVec.ofNat 64 (((List.range dieCount).map (fun d => (s.die d).fclass * 8 ^ d)).foldl (· + ·) 0)
  | _ => 0

/-! ## Frequency classes (R387) -/

/-- LAUNCH packets of a world that wait for their class. -/
def State.classWaiters (s : State) (w : Nat) : List Packet :=
  s.packets.filter (fun p => p.wid == w && p.type == 1 && p.working && p.plan.isSome && p.result.isNone
    && (s.launchOf p.id).isNone)

/-- FREQUENCY_CLASS_CHANGE: the dies of a partition run at the class asked for, and a LAUNCH that waits for it goes on. -/
def execFrequencyClassChange (s : State) : Outcome :=
  .next (match s.subject with
    | [w] =>
      let s := (s.partition w).foldl (fun s d => s.modDie d (fun x => { x with fclass := x.target })) s
      (s.classWaiters w).foldl (fun s p => s.schedule s.cycle .launchLoad [p.id]) s
    | _ => s)

/-- The class below a class. -/
def lowerClass (c : Nat) : Nat := if c = 7 then 0 else min (c + 1) 6

/-- Every partition is to run at the class that its dies ask for, as far as throttling allows. -/
def State.changeClasses (s : State) : State :=
  (((List.range dieCount).map (fun d => (s.die d).wid)).eraseDups).foldl (fun s w =>
    if s.classReached w then s else s.scheduleWithin 50000 .frequencyClassChange [w]) s

/-- THROTTLE: a limit is near, and every partition goes down by one class. -/
def execThrottle (s : State) : Outcome :=
  let s := (List.range dieCount).foldl (fun s d => s.modDie d (fun x => { x with ceiling := some (lowerClass x.target) })) s
  .next ({ s with health := { s.health with throt := true } } : State).changeClasses

/-- UNTHROTTLE: the limit has cleared for 100 ms. -/
def execUnthrottle (s : State) : Outcome :=
  let s := (List.range dieCount).foldl (fun s d => s.modDie d (fun x => { x with ceiling := none })) s
  .next ({ s with health := { s.health with throt := false } } : State).changeClasses

/-! ## Wear and retirement (R316, R389) -/

/-- 24 hours, in ns. -/
def dayNs : Nat := 86400000000000

/-- Some sixteen corrected or contained events of a core came within 24 hours; the newest comes first. -/
def worn : List Nat → Bool
  | [] => false
  | t :: rest => (rest[14]?).any (fun u => decide (t - u ≤ dayNs)) || worn rest

/-- Cores that are to be retired and are not. -/
def State.dueCores (s : State) : List Nat :=
  let h := s.health
  let own := (h.contained.filter (fun e => worn e.2)).map Prod.fst ++ (h.cores.filter (fun e => decide (2 ≤ e.2))).map Prod.fst
  let whole := (h.clusters.filter (fun e => decide (2 ≤ e.2))).flatMap (fun e => (List.range 4).map (coreOfCluster (e.1 / 2)))
  (own ++ whole).eraseDups.filter (fun c => !s.retiredCores.contains c)

/-- Dies that are to be retired and are not: their ports have failed training. -/
def State.dueDies (s : State) : List Nat := s.health.untrained.filter (fun d => !s.retiredDies.contains d)

/-- Something is to be retired. -/
def State.wearDue (s : State) : Bool := !s.dueCores.isEmpty || !s.dueDies.isEmpty

/-- RETIREMENT: what is due waits for the moment of R316. -/
def execRetire (s : State) : Outcome :=
  .next (if !s.wearDue || s.mapPending then s else s.schedule s.cycle .liveMapChange)

/-- A launch boundary of every partition, with no TRANSLATE on the package. -/
def State.mapMoment (s : State) : Bool :=
  s.launches.isEmpty && s.runs.isEmpty && !(s.packets.any (fun p => (p.type == 2 || p.plan.isSome) && p.working))

/-- The live map and the retirement record take in some cores; a die none of whose clusters is left, or whose ports have
failed training, is retired. -/
def State.retireCores (s : State) (cores : List Nat) : State :=
  let all := (List.range (dieCount * coresPerDie)).filter (fun c => s.retiredCores.contains c || cores.contains c)
  let dies := (List.range dieCount).filter (fun d => s.retiredDies.contains d || s.health.untrained.contains d
    || (List.range clustersPerDie).all (fun c => clusterRetired all (d * clustersPerDie + c)))
  { s with
    deadCores := all, retiredCores := all, deadDies := dies, retiredDies := dies
    health := { s.health with dreq := true } }

/-- Images whose Catalogue is no longer current are deleted. -/
def State.dropStaleImages (s : State) : State :=
  let hc := s.catalogueHash
  { s with images := s.images.filter (fun i => i.hc == hc) }

/-- Worlds one of whose dies is retired are destroyed, with reason 3. -/
def State.destroyRetired (s : State) : State :=
  (s.confidential.filter (fun w => s.deadDies.any (fun d => (s.die d).wid == w))).foldl
    (fun s w => s.destroyWorld w 3 statusWorld) s

/-- Retired dies belong to no world (R366, R372). -/
def State.freeDead (s : State) : State := s.deadDies.foldl (fun s d => s.modDie d (fun x => { x with valid := false })) s

/-- LIVE_MAP_CHANGE: in one step at its moment, else it goes on waiting. -/
def execLiveMapChange (s : State) : Outcome :=
  .next (if !s.wearDue then s
    else if s.mapMoment then (s.retireCores s.dueCores).dropStaleImages.destroyRetired.freeDead
    else s.schedule (s.cycle + 1) .liveMapChange)

/-- What is due for retirement is seen as a cycle begins. -/
def State.watchWear (s : State) : State :=
  if !s.wearDue || s.mapPending then s else s.schedule s.cycle .retire

/-! ## The host link (R107, R378) -/

/-- LINK_DOWN: bindings and IDE keys are lost, and every host access that is parked traps. -/
def execLinkDown (s : State) : Outcome :=
  let s : State := { s with hostDown := true }
  let s := s.confidential.foldl (fun s w => s.modWorld w World.loseBinding) s
  .next (s.failHost (fun _ => true))

/-- HOST_LINK_UP. Confidential worlds are served again once their tenants have set up their interfaces. -/
def execHostLinkUp (s : State) : Outcome := .next { s with hostDown := false }

/-- FUNCTION_LEVEL_RESET of a virtual function: its world is destroyed. -/
def execFunctionLevelReset (vf : Nat) (s : State) : Outcome :=
  .next (if s.boundWorld vf = 0 then s
    else
      let r := s.someReason
      r.2.destroyWorld (s.boundWorld vf) r.1 statusWorld)

/-- Every confidential world is destroyed. -/
def State.destroyConfidential (s : State) (reason : Nat) : State :=
  s.confidential.foldl (fun s w => s.destroyWorld w reason statusWorld) s

/-- HOT_RESET, or a reset of the physical function. -/
def execHotReset (s : State) : Outcome :=
  let r := s.someReason
  let s := r.2.destroyConfidential r.1
  .next (((s.launches.map Prod.snd).filter (fun l => l.world == 0 && !(s.runs.any (fun e => e.2.pk == l.pk)))).foldl
    (fun s l => s.abortLaunch l.lid { status := Cause.abort.code.toNat }) s)

/-! ## ATS invalidations (R17, R107) -/

/-- The PASID under which a user translates. -/
def State.pasidOf (s : State) (u : AtsUser) : Option Nat :=
  match u with
  | .slot k => (s.translatorOf k).pasid
  | .copy id => (s.clusters.flatMap (fun e => e.2.copyRuns)).findSome? (fun r =>
      if r.cmd.id = id then r.cmd.pasid else none)
  | .poisoning id => (s.poisonings.find? (fun p => p.id == id)).bind Poisoning.pasid
  | .saved lid => (s.launches.find lid).bind Launch.pasid
  | .packet pk =>
    if 2 ^ 40 ≤ pk then (s.queue (pk - 2 ^ 40)).bind Queue.pasid else (s.packet pk).bind Packet.pasid

/-- Accesses to some host frames that are translated and not performed: slot and access. A store that stands in an L1
is performed when its line goes home. -/
def State.inFlight (s : State) (frames : List (Nat × Nat)) : List (Nat × Nat) :=
  let hit := fun (p : Piece) => p.place == .host && frames.any (fun f => rangesMeet p.off p.len f.1 f.2)
  s.slots.flatMap (fun e =>
    (e.2.accs.filter (fun x => x.pieces.any hit && x.got.isNone && !x.localDone)).map (fun x => (e.1, x.id))
      ++ ((e.2.hostOp.filter (fun o => hit o.piece && o.answer.isNone)).map (fun o => (e.1, o.id))).toList)
    ++ (s.contributions.filter (fun c => c.piece.any hit)).flatMap Contribution.parts

/-- JOINs and WAITQs that wait on a word in host frames ask where it stands before they read it again (R17). -/
def State.forgetWords (s : State) (frames : List (Nat × Nat)) : State :=
  let hit := fun (w : Place × Nat) => w.1 == .host && frames.any (fun f => rangesMeet w.2 4 f.1 f.2)
  (s.slots.filter (fun e => (e.2.parked.bind (fun p => p.wait.word)).any hit)).foldl (fun s e =>
    s.modSlot e.1 (fun sl => { sl with
      parked := sl.parked.map (fun p => { p with wait := { p.wait with word := none } }) })) s

/-- ATS_INVALIDATION, of one PASID or global (R111): entries and grants for the range are gone at once, and a request
outstanding for it will be repeated. The entries are those of every world and function that carry the PASID, since the
spec ties an invalidation to no function (DESIGN CHOICE, assumption 66). A host keeps at most 32 outstanding (R111): a
further one is not taken. -/
def execAtsInvalidation (pasid : Option Nat) (va len : Nat) (s : State) : Outcome :=
  if 32 ≤ s.invalidations.length then .next s
  else
  let hit := fun (e : TlbEntry) => e.pasid.isSome && (pasid.isNone || e.pasid == pasid) && rangesMeet e.va e.size va len
  let frames := ((s.tlb.filter hit).map (fun e => (e.base, e.size))).eraseDups
  let inv : Invalidation := {
    id := s.nextId, pasid := pasid, va := va, len := len, waits := s.inFlight frames, frames := frames }
  let granted := fun (u : AtsUser) (p : Nat) => (s.pasidOf u).any (fun x => inv.covers x p)
  let s' : State := { s with
    nextId := s.nextId + 1
    tlb := s.tlb.filter (fun e => !hit e)
    ats := s.ats.map (fun r =>
      if inv.covers r.pasid r.va && r.sent && !r.pri && !r.queued then { r with stale := true } else r)
    hostOnce := s.hostOnce.filter (fun f => !granted f.1 f.2.page)
    invalidations := s.invalidations ++ [inv] }
  let s' := (s.slots.filter (fun e => e.2.atsOnce.any (fun o => granted (.slot e.1) o.page))).foldl (fun s e =>
    s.modSlot e.1 (fun sl => { sl with atsOnce := sl.atsOnce.filter (fun o => !granted (.slot e.1) o.page) })) s'
  let s' := s'.forgetWords frames
  .next (s'.schedule s.cycle .atsInvalidationComplete [inv.id])

/-- An access that an invalidation waits for is still to be performed. -/
def State.unperformed (s : State) (w : Nat × Nat) : Bool :=
  (s.slot w.1).accs.any (fun x => x.id == w.2 && x.got.isNone && !x.localDone)
    || (s.slot w.1).hostOp.any (fun o => o.id == w.2 && o.answer.isNone)

/-- The lines of some host frames are written back and discarded in every L1. -/
def State.flushFrames (s : State) (frames : List (Nat × Nat)) : State :=
  let keys := ((s.cores.flatMap (fun e => e.2.lines.map Prod.fst)).eraseDups).filter (fun key =>
    linePlace key == .host && frames.any (fun f => rangesMeet (lineBase key) 256 f.1 f.2))
  keys.foldl (fun s key => s.invalidateOthers [] key) s

/-- A copy has read bytes for some host frames that it has not written yet. -/
def State.copiesInto (s : State) (frames : List (Nat × Nat)) : Bool :=
  s.clusters.any (fun e => e.2.copyRuns.any (fun r => r.pending.any (fun w =>
    frames.any (fun f => rangesMeet w.off w.bytes.length f.1 f.2))))

/-- A record's second request is still to add to a gradient in some host frames. -/
def State.reversesInto (s : State) (frames : List (Nat × Nat)) : Bool :=
  s.slots.any (fun e => e.2.reversal.any (fun v => v.grad.any (fun g => g.pages.any (fun p =>
    p.2.1 == .host && frames.any (fun f => rangesMeet p.2.2 0x1000 f.1 f.2)))))

/-- ATS_INVALIDATION_COMPLETE, once both conditions of R17 hold. A write that the commit buffer holds back has been
performed as far as R17 goes: the completion does not wait for its release at the boundary (DESIGN CHOICE, assumption
66). -/
def execAtsInvalidationComplete (s : State) : Outcome :=
  .next (match s.subject with
    | [id] =>
      match s.invalidations.find? (fun x => x.id == id) with
      | none => s
      | some x =>
        if x.waits.any s.unperformed || s.copiesInto x.frames || s.reversesInto x.frames then
          s.schedule (s.cycle + 1) .atsInvalidationComplete [id]
        else
          let s := s.flushFrames x.frames
          let left := s.invalidations.filter (fun y => y.id != id)
          -- requests that it has held back are sent afresh (R107)
          { s with
            invalidations := left
            ats := s.ats.map (fun r =>
              if !r.sent && !(left.any (fun y => y.covers r.pasid r.va)) then { r with sent := true } else r) }
    | _ => s)

/-! ## The fabric (R382, R383, R392) -/

/-- FABRIC_PATH_FAILURE: the millisecond after which the package is unreachable begins. -/
def execFabricPathFailure (pkg : Nat) (s : State) : Outcome :=
  .next (if pkg = s.pkgid.toNat || s.pathsDown.has pkg then s
    else
      ({ s with pathsDown := s.pathsDown.put pkg s.time } : State).schedule (s.cycle + 1) .fabricPathDown [pkg, s.time])

/-- What was on its way to a package that has become unreachable is lost; handles are dropped as abandoned. -/
def State.losePackage (s : State) (pkg : Nat) : State :=
  let s := (s.contributions.filter (fun c => c.home == pkg && c.accepted)).foldl State.loseContribution s
  let lost := s.flying.filter (fun m => m.remote == some pkg)
  let s : State := { s with flying := s.flying.filter (fun m => m.remote != some pkg) }
  let s := lost.foldl (fun s m =>
    match m.msg.kind with
    | .handle w _ => s.dropWord w false
    | _ => s) s
  ((lost.map (fun m => coreOfSlot m.src)).eraseDups).foldl State.pump s

/-- FABRIC_PATH_DOWN: the path has been down for more than 1 ms. -/
def execFabricPathDown (s : State) : Outcome :=
  .next (match s.subject with
    | [pkg, since] =>
      if s.pathsDown.find pkg != some since then s
      else if s.time - since ≤ 4284000000 then s.schedule (s.cycle + 1) .fabricPathDown [pkg, since]
      else if s.unreachable.contains pkg then s
      else ({ s with unreachable := s.unreachable ++ [pkg] } : State).losePackage pkg
    | _ => s)

/-- FABRIC_PATH_RECOVERY: reductions held for the package are forwarded. A package without an identifier has no port. -/
def execFabricPathRecovery (pkg : Nat) (s : State) : Outcome :=
  .next (if s.pkgid = 0xFF then s
    else
      let s : State := { s with
        pathsDown := s.pathsDown.erase pkg, unreachable := s.unreachable.filter (fun p => p != pkg) }
      (s.contributions.filter (fun c => c.accepted && !c.sent && c.home == pkg)).foldl (fun s c => s.forward c.id) s)

/-! ## Resets (R386) -/

/-- Steps that the world outside brings about: a reset of the device does not undo them. -/
def comesFromOutside : Instr → Bool
  | .kick _ _ | .queueReset _ | .registerWrite _ _ | .atsInvalidation _ _ _ | .poisonError _ | .uncontainedError _ _
  | .correctedSoftError _ | .linkFrameIntegrityFail _ | .spdmRequest _ _ | .linkDown | .hostLinkUp
  | .functionLevelReset _ | .hotReset | .powerOnReset _ | .deviceReset | .firmwareUpdate | .throttle | .unthrottle
  | .debugFreeze | .fabricPathFailure _ | .fabricPathRecovery _ | .priReset _ => true
  | _ => false

def isPowerOn : Instr → Bool
  | .powerOnReset _ => true
  | _ => false

/-- Host memory as the host sees it: what worlds in interval mode still hold back is not in it (R362). -/
def State.hostView (s : State) : Mem :=
  s.commit.foldl (fun (m : Mem) e => m.putByte e.2.1 e.2.2.1 e.2.2.2) s.hostMem

/-- Dies in service whose die-to-die ports fail their training at a reset (R389). -/
def State.failTraining (s : State) : List Nat :=
  (List.range dieCount).filter (fun d => !s.retiredDies.contains d && !Config.portsTrain (s.draws + d))

/-- The package after a reset, but for what each kind of reset keeps besides: host memory, the notices in the host's
mailbox, the retirement record and the firmware. The model's own counters go on. -/
def State.restart (s : State) : State :=
  { State.reset with
    dies := s.retiredDies.foldl (fun m d => m.set dieDefault d { valid := false }) []
    cycle := s.cycle, closing := true, nextId := s.nextId, nextIdent := s.nextIdent, draws := s.draws + dieCount
    health := { untrained := s.failTraining }
    agenda := s.agenda.filter (fun d => comesFromOutside d.step)
    hostMem := s.hostView, notices := s.notices, firmware := s.firmware, hostDown := s.hostDown
    deadCores := s.retiredCores, retiredCores := s.retiredCores, deadDies := s.retiredDies, retiredDies := s.retiredDies }

/-- Identifiers of other packages. -/
def State.otherPackages (s : State) : List Nat := (List.range 255).filter (fun p => p != s.pkgid.toNat)

/-- POWER_ON_RESET, with the identifier that the management controller sets. -/
def execPowerOnReset (pkgid : Byte) (s : State) : Outcome :=
  let s : State := { s.restart with pkgid := pkgid }
  .next (if pkgid = 0xFF then { s with unreachable := s.otherPackages } else s)

/-- A queue as the preserved memory holds it, with its waiting BARRIERs (R381). -/
def State.queueBytes (s : State) (q : Nat) (x : Queue) (waiting : List Packet) : List Byte :=
  padTo 64 x.record ++ le32 x.kick.toNat ++ le32 x.ridx.toNat ++ le32 x.errIdx.toNat
    ++ [BitVec.ofNat 8 x.errStat, BitVec.ofNat 8 (s.queueMode q x)] ++ le16 waiting.length ++ le64 x.errSig.toNat ++ zeros 40
    ++ waiting.flatMap (fun p => padTo 128 p.bytes)

/-- A queue read back from its saved bytes. -/
def queueFrom (bs : List Byte) : Queue :=
  let f := recField bs
  { queueOf 0 (bs.take 64) with
    kick := BitVec.ofNat 32 (f 64 4), ridx := BitVec.ofNat 32 (f 68 4), errIdx := BitVec.ofNat 32 (f 72 4), errStat := f 76 1
    error := f 77 1 == 2, draining := f 77 1 == 3, errSig := BitVec.ofNat 64 (f 80 8) }

/-- Queues of world 0 as they were saved, their BARRIERs to be evaluated again. -/
def State.restoreQueues (s : State) : State :=
  s.savedQueues.foldl (fun s x =>
    let bs := x.2.1
    let ps := (numbered x.2.2.2).map (fun p =>
      { p.2 with bytes := (bs.drop (128 + 128 * p.1)).take 128, conds := [], verdict := none, waiting := false })
    let s : State := { s with
      queues := s.queues.put x.1 { queueFrom bs with destroying := x.2.2.1 }
      packets := s.packets ++ ps }
    (ps.foldl (fun s p => s.schedule s.cycle .barrierPacket [p.id]) s).checkDrain x.1) { s with savedQueues := [] }

/-- A device reset: PKGID, the saved queues, DREQ and DEBUG are kept; the fabric ports are to be trained again. -/
def State.resetDevice (s : State) : State :=
  let r := s.restart
  let r : State := { r with
    pkgid := s.pkgid, savedQueues := s.savedQueues
    health := { r.health with dreq := s.health.dreq, debug := s.health.debug }
    pathsDown := s.otherPackages.map (fun p => (p, 0)) }
  let r := if s.pkgid = 0xFF then { r with unreachable := s.otherPackages }
    else s.otherPackages.foldl (fun r p => r.schedule r.cycle .fabricPathDown [p, 0]) r
  r.restoreQueues

def execDeviceReset (s : State) : Outcome := .next s.resetDevice

/-! ## Firmware updates (R381) -/

/-- A BARRIER in the wait list. -/
def Packet.waits (p : Packet) : Bool := p.type == 5 && p.result.isNone && !p.conds.isEmpty

/-- Every packet taken but waiting BARRIERs has ended. -/
def State.updateReady (s : State) : Bool := s.updating && s.packets.all Packet.waits

/-- World 0's queues with their waiting BARRIERs, oldest first. -/
def State.saveQueues (s : State) : State :=
  { s with savedQueues := (s.queues.filter (fun e => e.2.wid == 0)).map (fun e =>
      (e.1, s.queueBytes e.1 e.2 (s.unended e.1), e.2.destroying, s.unended e.1)) }

/-- FIRMWARE_UPDATE: the Curator stops taking packets; once those it has taken have ended, the new image starts. -/
def execFirmwareUpdate (s : State) : Outcome :=
  let s : State := { s with updating := true }
  .next (if s.updateReady then
      let s := (s.destroyConfidential 2).saveQueues
      ({ s with firmware := s.firmware + 1 } : State).resetDevice
    else s)

/-- An update that waits is looked at as a cycle begins. -/
def State.watchUpdate (s : State) : State := if s.updateReady then s.schedule s.cycle .firmwareUpdate else s

/-! ## The freeze (R390) -/

/-- DEBUG_FREEZE stops every clock of an unlocked package. -/
def execDebugFreeze (s : State) : Outcome := .next (if s.health.debug then { s with frozen := true } else s)

end Sys2Proof.Machine
end

