-- ==== Sys2Proof/Machine/Clock.lean ====
section
/-! DEFINITION. The end of a cycle: what the hardware starts by itself when the next cycle begins. -/

namespace Sys2Proof.Machine

/-- The front end takes a packet if one is on offer and 4 ns have passed (R336). -/
def State.offerPacket (s : State) : State :=
  if !s.updating && decide (s.nextTake ≤ s.time) && s.queues.any (fun e => e.2.offers) then
    s.schedule s.cycle .packetTake
  else s

/-- The front end in a new cycle: watchdogs run, answered page requests let packets go on, partitions are given out. -/
def State.frontTick (s : State) : State :=
  let s := (s.queues.map Prod.fst).foldl State.tickQueue s
  s.resumePackets.dispatchAll.offerPacket

/-- Partitions that have stopped are saved, and intervals end (R357, R361). -/
def State.saveTick (s : State) : State := (s.launches.map Prod.fst).foldl State.watchSave s.watchIntervals

/-- What the Curator sees by itself: requests of worlds, worn cores, an update that can go on. -/
def State.curatorTick (s : State) : State := s.watchRequests.watchWear.watchUpdate

/-- The next cycle begins: the copy engines move, abandoned tiles are poisoned, the partitions are watched for quiet,
the front end and the Curator go on, and free matrix units grant. -/
def State.tick (s : State) : State :=
  let s := s.copyAll.poisonAll
  let s := { s with cycle := s.cycle + 1, turn := 0, tried := 0, closing := false, time := s.time + s.period }
  let s := s.watchLaunches.frontTick.saveTick.curatorTick
  { s with early := s.granting }

end Sys2Proof.Machine
end

