-- ==== Sys2Proof/Machine/ScalarFloat.lean ====
section
/-! DEFINITION. The scalar floating-point instructions: major 0x11 (R64 to R68) and FCVT (R69, R70). A poisoned source
poisons the result and silences the flags (R57). -/

namespace Sys2Proof.Machine

/-! ## Shapes: an FP32 value in one register, an FP64 value in a pair (R64) -/

def w32 (r : Nat × FlagBits) : Word × FlagBits := (BitVec.ofNat 32 r.1, r.2)
def w64 (r : Nat × FlagBits) : DWord × FlagBits := (BitVec.ofNat 64 r.1, r.2)

def float1 (f : RForm) (op : Nat → Nat → Nat × FlagBits) : Act Unit := do
  check [f.srcA] [f.dst]
  let sl ← Act.me
  let a ← rd f.a
  let r := w32 (op (roundMode sl f.rnd) a.w.toNat)
  raiseClean a.poison r.2
  wr f.d { w := r.1, poison := a.poison }

def float2 (f : RForm) (op : Nat → Nat → Nat → Nat × FlagBits) : Act Unit := do
  check [f.srcA, f.srcB] [f.dst]
  let sl ← Act.me
  let a ← rd f.a
  let b ← rd f.b
  let p := a.poison || b.poison
  let r := w32 (op (roundMode sl f.rnd) a.w.toNat b.w.toNat)
  raiseClean p r.2
  wr f.d { w := r.1, poison := p }

def float3 (f : RForm) (op : Nat → Nat → Nat → Nat → Nat × FlagBits) : Act Unit := do
  check [f.srcA, f.srcB, f.srcC] [f.dst]
  let sl ← Act.me
  let a ← rd f.a
  let b ← rd f.b
  let c ← rd f.c
  let p := a.poison || b.poison || c.poison
  let r := w32 (op (roundMode sl f.rnd) a.w.toNat b.w.toNat c.w.toNat)
  raiseClean p r.2
  wr f.d { w := r.1, poison := p }

def double1 (f : RForm) (op : Nat → Nat → Nat × FlagBits) : Act Unit := do
  check [f.srcA 2] [f.dst 2]
  let sl ← Act.me
  let a ← rdp f.a
  let r := w64 (op (roundMode sl f.rnd) a.w.toNat)
  raiseClean a.poison r.2
  wrp f.d { w := r.1, poison := a.poison }

def double2 (f : RForm) (op : Nat → Nat → Nat → Nat × FlagBits) : Act Unit := do
  check [f.srcA 2, f.srcB 2] [f.dst 2]
  let sl ← Act.me
  let a ← rdp f.a
  let b ← rdp f.b
  let p := a.poison || b.poison
  let r := w64 (op (roundMode sl f.rnd) a.w.toNat b.w.toNat)
  raiseClean p r.2
  wrp f.d { w := r.1, poison := p }

def double3 (f : RForm) (op : Nat → Nat → Nat → Nat → Nat × FlagBits) : Act Unit := do
  check [f.srcA 2, f.srcB 2, f.srcC 2] [f.dst 2]
  let sl ← Act.me
  let a ← rdp f.a
  let b ← rdp f.b
  let c ← rdp f.c
  let p := a.poison || b.poison || c.poison
  let r := w64 (op (roundMode sl f.rnd) a.w.toNat b.w.toNat c.w.toNat)
  raiseClean p r.2
  wrp f.d { w := r.1, poison := p }

/-- A comparison of two FP64 values, or the class of one (b unused), into one register (R65). -/
def doubleTest2 (f : RForm) (op : Nat → Nat → Nat × FlagBits) : Act Unit := do
  check [f.srcA 2, f.srcB 2] [f.dst]
  let a ← rdp f.a
  let b ← rdp f.b
  let p := a.poison || b.poison
  let r := w32 (op a.w.toNat b.w.toNat)
  raiseClean p r.2
  wr f.d { w := r.1, poison := p }

def doubleTest1 (f : RForm) (op : Nat → Nat) : Act Unit := do
  check [f.srcA 2] [f.dst]
  let a ← rdp f.a
  wr f.d { w := BitVec.ofNat 32 (op a.w.toNat), poison := a.poison }

/-! ## Operations on bits -/

def fadd (t : FFmt) (rnd a b : Nat) : Nat × FlagBits := t.round rnd false (addExact rnd (t.decode a) (t.decode b))
def fsub (t : FFmt) (rnd a b : Nat) : Nat × FlagBits :=
  t.round rnd false (addExact rnd (t.decode a) (t.decode b).neg)
def fmul (t : FFmt) (rnd a b : Nat) : Nat × FlagBits := t.round rnd false (mulExact (t.decode a) (t.decode b))
def ffma (t : FFmt) (rnd a b c : Nat) : Nat × FlagBits :=
  t.round rnd false (fmaExact rnd (t.decode a) (t.decode b) (t.decode c))
def fdiv (t : FFmt) (rnd a b : Nat) : Nat × FlagBits := t.round rnd false (divExact (t.decode a) (t.decode b))
def fsqrt (t : FFmt) (rnd a : Nat) : Nat × FlagBits := t.round rnd false (sqrtExact (t.decode a))
def fmin (t : FFmt) (_ a b : Nat) : Nat × FlagBits := t.minMax false a b
def fmax (t : FFmt) (_ a b : Nat) : Nat × FlagBits := t.minMax true a b
def fabs (t : FFmt) (_ a : Nat) : Nat × FlagBits := (t.absBits a, 0)
def fneg (t : FFmt) (_ a : Nat) : Nat × FlagBits := (t.negBits a, 0)
def testBit (r : Bool × FlagBits) : Nat × FlagBits := (if r.1 then 1 else 0, r.2)
def feq (t : FFmt) (a b : Nat) : Nat × FlagBits := testBit (feqBits t a b)
def flt (t : FFmt) (a b : Nat) : Nat × FlagBits := testBit (fltBits t a b)
def fle (t : FFmt) (a b : Nat) : Nat × FlagBits := testBit (fleBits t a b)
def fcls (t : FFmt) (_ a : Nat) : Nat × FlagBits := (t.classMask a, 0)

/-! ## Major 0x11, FP32 -/

def execFaddF32 (f : RForm) (s : State) : Outcome := issue (.faddF32 f) (float2 f (fadd f32)) s
def execFsubF32 (f : RForm) (s : State) : Outcome := issue (.fsubF32 f) (float2 f (fsub f32)) s
def execFmulF32 (f : RForm) (s : State) : Outcome := issue (.fmulF32 f) (float2 f (fmul f32)) s
def execFfmaF32 (f : RForm) (s : State) : Outcome := issue (.ffmaF32 f) (float3 f (ffma f32)) s
def execFdivF32 (f : RForm) (s : State) : Outcome := issue (.fdivF32 f) (float2 f (fdiv f32)) s
def execFsqrtF32 (f : RForm) (s : State) : Outcome := issue (.fsqrtF32 f) (float1 f (fsqrt f32)) s
def execFminF32 (f : RForm) (s : State) : Outcome := issue (.fminF32 f) (float2 f (fmin f32)) s
def execFmaxF32 (f : RForm) (s : State) : Outcome := issue (.fmaxF32 f) (float2 f (fmax f32)) s
def execFabsF32 (f : RForm) (s : State) : Outcome := issue (.fabsF32 f) (float1 f (fabs f32)) s
def execFnegF32 (f : RForm) (s : State) : Outcome := issue (.fnegF32 f) (float1 f (fneg f32)) s
def execFeqF32 (f : RForm) (s : State) : Outcome := issue (.feqF32 f) (float2 f (fun _ => feq f32)) s
def execFltF32 (f : RForm) (s : State) : Outcome := issue (.fltF32 f) (float2 f (fun _ => flt f32)) s
def execFleF32 (f : RForm) (s : State) : Outcome := issue (.fleF32 f) (float2 f (fun _ => fle f32)) s
def execFclsF32 (f : RForm) (s : State) : Outcome := issue (.fclsF32 f) (float1 f (fcls f32)) s

/-! ## Major 0x11, FP64 -/

def execFaddF64 (f : RForm) (s : State) : Outcome := issue (.faddF64 f) (double2 f (fadd f64)) s
def execFsubF64 (f : RForm) (s : State) : Outcome := issue (.fsubF64 f) (double2 f (fsub f64)) s
def execFmulF64 (f : RForm) (s : State) : Outcome := issue (.fmulF64 f) (double2 f (fmul f64)) s
def execFfmaF64 (f : RForm) (s : State) : Outcome := issue (.ffmaF64 f) (double3 f (ffma f64)) s
def execFdivF64 (f : RForm) (s : State) : Outcome := issue (.fdivF64 f) emulatedWord s
def execFsqrtF64 (f : RForm) (s : State) : Outcome := issue (.fsqrtF64 f) emulatedWord s
def execFminF64 (f : RForm) (s : State) : Outcome := issue (.fminF64 f) (double2 f (fmin f64)) s
def execFmaxF64 (f : RForm) (s : State) : Outcome := issue (.fmaxF64 f) (double2 f (fmax f64)) s
def execFabsF64 (f : RForm) (s : State) : Outcome := issue (.fabsF64 f) (double1 f (fabs f64)) s
def execFnegF64 (f : RForm) (s : State) : Outcome := issue (.fnegF64 f) (double1 f (fneg f64)) s
def execFeqF64 (f : RForm) (s : State) : Outcome := issue (.feqF64 f) (doubleTest2 f (feq f64)) s
def execFltF64 (f : RForm) (s : State) : Outcome := issue (.fltF64 f) (doubleTest2 f (flt f64)) s
def execFleF64 (f : RForm) (s : State) : Outcome := issue (.fleF64 f) (doubleTest2 f (fle f64)) s
def execFclsF64 (f : RForm) (s : State) : Outcome := issue (.fclsF64 f) (doubleTest1 f f64.classMask) s

/-! ## FCVT (R69, R70) -/

/-- The floating format of an FCVT code: 2 f32, 3 f64, 4 f16, 5 bf16. -/
def fcvtFmt (code : Nat) : Option FFmt :=
  match code with
  | 2 => some f32
  | 3 => some f64
  | 4 => some f16
  | 5 => some bf16
  | _ => none

/-- The value a source code reads from the operand's bits: 0 s32, 1 b32, 6 s64, 7 b64, else a float; f16 and bf16 take
bits [15:0]. -/
def fcvtValue (code : Nat) (bits : DWord) : FVal :=
  match fcvtFmt code with
  | some t => t.decode (bits.toNat % 2 ^ (1 + t.ebits + t.fbits))
  | none =>
    match code with
    | 0 => intVal (bits.extractLsb' 0 32).toInt
    | 1 => intVal (bits.extractLsb' 0 32).toNat
    | 6 => intVal bits.toInt
    | _ => intVal bits.toNat

/-- The range of an integer destination code. -/
def fcvtRange (code : Nat) : Int × Int :=
  match code with
  | 0 => (-(2 ^ 31), 2 ^ 31 - 1)
  | 1 => (0, 2 ^ 32 - 1)
  | 6 => (-(2 ^ 63), 2 ^ 63 - 1)
  | _ => (0, 2 ^ 64 - 1)

/-- The result bits and flags of a conversion (R70). -/
def fcvt (dst src rnd : Nat) (bits : DWord) : DWord × FlagBits :=
  let x := fcvtValue src bits
  match fcvtFmt dst with
  | some t => w64 (t.round rnd false x.exact)
  | none =>
    let r := x.toInt rnd (fcvtRange dst).1 (fcvtRange dst).2
    (if fcvtWide dst then BitVec.ofInt 64 r.1 else (BitVec.ofInt 32 r.1).zeroExtend 64, r.2)

def execFcvt (fn : BitVec 8) (f : RForm) (s : State) : Outcome :=
  issue (.fcvt fn f) (do
    let dst := (fn.extractLsb' 4 3).toNat
    let src := (fn.extractLsb' 0 3).toNat
    let n := if fcvtWide dst then 2 else 1
    check [f.srcA (if fcvtWide src then 2 else 1)] [f.dst n]
    let sl ← Act.me
    let a ← if fcvtWide src then rdp f.a else do
      let v ← rd f.a
      pure { w := v.w.zeroExtend 64, poison := v.poison }
    let r := fcvt dst src (roundMode sl f.rnd) a.w
    raiseClean a.poison r.2
    let v : Val2 := { w := r.1, poison := a.poison }
    if fcvtWide dst then wrp f.d v else wr f.d v.lo) s

end Sys2Proof.Machine
end

