-- ==== Sys2Proof/Machine/VectorMemory.lean ====
section
/-! DEFINITION. Memory through views (R191 to R193): VLD, VST, VLDH, VSTH, VGATH and VSCAT. -/

namespace Sys2Proof.Machine

/-- A part of a view that moves as one access (R192): an element, a px8 block, or a byte of q4 codes. -/
structure ViewPart where
  /-- Its offset from the view's first element, in memory and in the arena alike. -/
  rel : Nat
  len : Nat
  /-- Only the low nibble moves: the last byte of a q4 row of odd width. -/
  low : Bool
  deriving DecidableEq, Repr

/-- The units of a row. -/
def rowUnits (fmt cols : Nat) : List (Nat × Nat × Bool) :=
  if fmt = fmtPx8 then (List.range ((cols + 31) / 32)).map (fun b => (32 * b, 32, false))
  else if fmt = fmtQ4 then (List.range ((cols + 1) / 2)).map (fun b => (b, 1, decide (2 * b + 1 = cols)))
  else (List.range cols).map (fun j => (j * (fmtBits fmt / 8), fmtBits fmt / 8, false))

/-- The units of a view, in row-major order. -/
def View.units (v : View) : List ViewPart :=
  (List.range v.rows).flatMap (fun i =>
    (rowUnits v.format v.cols).map (fun u => { rel := i * v.stride.toNat + u.1, len := u.2.1, low := u.2.2 }))

/-- Where every unit stands, in order: the first that fails decides (R176). -/
def unitTargets (locate : ViewPart → Act (List Piece)) : List ViewPart → Act (List (ViewPart × List Piece))
  | [] => pure []
  | u :: rest => do
    let ps ← locate u
    let more ← unitTargets locate rest
    return (u, ps) :: more

/-- The base of a VLD or VST: its poison, the alignment of the view's elements, and where each unit stands. -/
def viewTargets (f : MForm) (v : View) (write : Bool) : Act (List (ViewPart × List Piece)) := do
  let b ← rdp f.a
  Act.trapIf b.poison .poison f.a.toNat 0
  let org := b.w + f.off.signExtend 64
  let al := fmtAlign v.format
  Act.trapIf (org.toNat % al != 0) .align org (BitVec.ofNat 64 al)
  unitTargets (fun u => do
    let addr := (org.toNat + u.rel) % 2 ^ 64
    let ps ← target f.d f.space.toNat addr u.len write
    Act.trapIf (u.low && write && ps.any (fun p => p.place == .host)) .prot (BitVec.ofNat 64 addr) 0x110
    return ps) v.units

/-- The same through a handle: every byte lies in [0, LEN) of every tile. -/
def viewTileTargets (f : MForm) (v : View) (tiles : List Nat) (write : Bool) : Act (List (ViewPart × List Piece)) := do
  let s ← Act.state
  let len := tiles.foldl (fun n e => min n (s.entry e).len.toNat) (s.entry (tiles.headD 0)).len.toNat
  let org := f.off.toInt
  let al := fmtAlign v.format
  Act.trapIf (org % al != 0) .align (BitVec.ofInt 64 org) (BitVec.ofNat 64 al)
  unitTargets (fun u => do
    let off := org + u.rel
    Act.trapIf (decide (off < 0) || decide ((len : Int) < off + u.len)) .prot (BitVec.ofInt 64 off) 0x130
    let ps ← tileTargets off.toNat u.len write tiles
    Act.trapIf (u.low && write && ps.any (fun p => p.place == .host)) .prot (BitVec.ofInt 64 off) 0x110
    return ps) v.units

/-- The same through a handle of another package: nothing of it stands here. -/
def viewAwayTargets (f : MForm) (v : View) (w : DWord) : Act (List (ViewPart × List Piece)) := do
  let org := f.off.toInt
  let al := fmtAlign v.format
  Act.trapIf (org % al != 0) .align (BitVec.ofInt 64 org) (BitVec.ofNat 64 al)
  unitTargets (fun u => do
    let off := org + u.rel
    Act.trapIf (decide (off < 0) || decide ((Config.remoteLength w : Int) < off + u.len)) .prot (BitVec.ofInt 64 off) 0x130
    awayAccess w
    return []) v.units

/-- The view becomes owed, and its units are loaded one by one (R192). -/
def startUnits (rid base : Nat) (ord : BitVec 2) (scope : Nat) (evict rdc : BitVec 3) :
    List (ViewPart × List Piece) → Act Unit
  | [] => pure ()
  | (u, ps) :: rest => do
    let dest : Dest := if u.low then .nibble rid (base + u.rel) false else .vector rid (base + u.rel)
    if ps.isEmpty then startAway u.len dest ord scope
    else do
      let id ← Act.fresh
      startLoad { id := id, kind := .load, ord := ord, scope := scope, pieces := ps, evict := evict, rdc := rdc,
                  dest := dest }
    startUnits rid base ord scope evict rdc rest

/-- A load into a view: owed from issue to the landing of its last element. -/
def loadView (f : MForm) (us : List (ViewPart × List Piece)) (ord : BitVec 2) (scope : Nat) : Act Unit := do
  let s ← Act.state
  let v := s.me.view f.d
  let rid ← Act.fresh
  let n := vectorCycles v.rows v.cols [v.format]
  oweView rid f.d
  occupyUnit n
  Act.modify (fun s => { s with results := s.results ++ [{ id := rid, slot := s.cur, core := s.myCore, tail := n }] })
  startUnits rid (s.me.arenaOffset v.off.toNat) ord scope f.evict f.rdc us

def execVld (f : MForm) (s : State) : Outcome :=
  issue (.vld f) (do
    vectorReady [f.srcA] [{ code := f.d }] [] true
    let s ← Act.state
    let us ← viewTargets f (s.me.view f.d) false
    loadView f us f.ord (cappedScope f.space.toNat f.scope.toNat)) s

/-- A see access through VLDH waits for its tile, or traps; it acquires at world scope (R119, R130). -/
def execVldh (f : MForm) (s : State) : Outcome :=
  issue (.vldh f) (do
    vectorReady [] [{ code := f.d }] [] true
    let w ← hget f.a .live
    let see := handleKind w == kindSee
    if see then seeAccess f.a (bitSet f.epA 0) w
    let s ← Act.state
    let us ← if s.away w then viewAwayTargets f (s.me.view f.d) w
      else viewTileTargets f (s.me.view f.d) ((s.membersOf (handleEntry w)).take 1) false
    loadView f us (if see then 1 else 0) (if see then s.dropScope w else 0)) s

/-- The stores of a view's units: their bytes are read from the arena now. -/
def storeUnits (f : MForm) (s0 : State) (base : Nat) (ord : BitVec 2) (scope copies : Nat) :
    List (ViewPart × List Piece) → Act Unit
  | [] => pure ()
  | (u, ps) :: rest => do
    let m := s0.memAt (.arena s0.myCore)
    let id ← Act.fresh
    startStore { id := id, kind := if u.low then .nibble else .store, ord := ord, scope := scope, pieces := ps,
                 data := (List.replicate copies (m.bytes (base + u.rel) u.len)).flatten,
                 poison := m.poisonIn (base + u.rel) u.len, evict := f.evict, rdc := f.rdc }
    storeUnits f s0 base ord scope copies rest

/-- A store from a view. -/
def storeView (f : MForm) (us : List (ViewPart × List Piece)) (ord : BitVec 2) (scope copies : Nat) : Act Unit := do
  let s ← Act.state
  let v := s.me.view f.d
  occupyUnit (vectorCycles v.rows v.cols [v.format])
  storeUnits f s (s.me.arenaOffset v.off.toNat) ord scope copies us

def execVst (f : MForm) (s : State) : Outcome :=
  issue (.vst f) (do
    vectorReady [f.srcA, f.srcD 1] [] [] false
    let s ← Act.state
    let us ← viewTargets f (s.me.view f.d) true
    storeView f us f.ord (cappedScope f.space.toNat f.scope.toNat) 1) s

def execVsth (f : MForm) (s : State) : Outcome :=
  issue (.vsth f) (do
    vectorReady [f.srcD 1] [] [] false
    let w ← hget f.a .fill
    let s ← Act.state
    if s.away w then do
      let _ ← viewAwayTargets f (s.me.view f.d) w
      storeView f [] 0 0 0
    else do
      let tiles := s.membersOf (handleEntry w)
      let us ← viewTileTargets f (s.me.view f.d) tiles true
      storeView f us 0 0 tiles.length) s

/-! ## VGATH and VSCAT (R193) -/

/-- An active element, its index, and its poison. -/
structure Lane where
  i : Nat
  j : Nat
  index : Int
  poison : Bool
  deriving DecidableEq, Repr

/-- Where the elements stand, in row-major order (R176). -/
def laneTargets (base w : Nat) (write : Bool) : List Lane → Act (List (Lane × List Piece))
  | [] => pure []
  | x :: rest => do
    let addr := ((base : Int) + x.index * w) % 2 ^ 64
    let a := addr.toNat
    Act.trapIf (a % w != 0) .align (BitVec.ofNat 64 a) (BitVec.ofNat 64 w)
    let ps ← globalTarget a w write
    let more ← laneTargets base w write rest
    return (x, ps) :: more

/-- What VGATH and VSCAT share: formats, shapes, poison, and where each active element stands. -/
def laneList (f : RForm) (write : Bool) : Act (List (Lane × List Piece)) := do
  let s ← Act.state
  let v := s.me.view f.d
  tformatIf (!acceptPlain v.format) f.d 0x0101
  let fi := if f.b.isView then (s.me.view f.b).format else fmtS32
  tformatIf (fi != fmtS32 && fi != fmtB32) f.b 0x0101
  checkShape f.b v.rows v.cols
  let b ← rdp f.a
  Act.trapIf b.poison .poison f.a.toNat 0
  let o := s.vOperand f.b fi
  let m := s.me.mask (maskNumber f.c)
  let xs := ((positions v.rows v.cols).filter (fun p => m.active p.1 p.2)).map (fun p =>
    let e := o.at s p.1 p.2
    Lane.mk p.1 p.2 (readInt (fi == fmtS32) 32 e.bits) e.poison)
  Act.trapIf (xs.any Lane.poison) .poison f.b.toNat 0
  laneTargets b.w.toNat (fmtBits v.format / 8) write xs

/-- The busy cycles of VGATH and VSCAT. -/
def laneCycles (s : State) (f : RForm) : Nat :=
  let v := s.me.view f.d
  vectorCycles v.rows v.cols (v.format :: (if f.b.isView then [(s.me.view f.b).format] else []))

def startLanes (rid : Nat) (g : Grid) : List (Lane × List Piece) → Act Unit
  | [] => pure ()
  | (x, ps) :: rest => do
    let id ← Act.fresh
    startLoad { id := id, kind := .load, pieces := ps, dest := .vector rid (g.bytesOf x.i x.j).1 }
    startLanes rid g rest

def execVgath (f : RForm) (s : State) : Outcome :=
  issue (.vgath f) (do
    vectorReady [f.srcA 2, f.srcB] [{ code := f.d }] [maskNumber f.c] true
    let xs ← laneList f false
    let s ← Act.state
    let n := laneCycles s f
    let rid ← Act.fresh
    oweView rid f.d
    occupyUnit n
    Act.modify (fun s => { s with results := s.results ++ [{ id := rid, slot := s.cur, core := s.myCore, tail := n }] })
    startLanes rid (s.grid f.d) xs
    -- with no active element nothing is loaded
    if xs.isEmpty then Act.schedule (s.cycle + n) .vectorWritesLand [s.cur, rid]) s

/-- The elements of a VSCAT are stores of one chain: they are performed in row-major order (R193). -/
def storeLanes (s0 : State) (g : Grid) (chain : Nat) : List (Lane × List Piece) → Act Unit
  | [] => pure ()
  | (x, ps) :: rest => do
    let b := g.bytesOf x.i x.j
    let m := s0.memAt g.place
    let id ← Act.fresh
    startStore { id := id, kind := .store, pieces := ps, data := m.bytes b.1 b.2, poison := m.poisonIn b.1 b.2
                 chain := some chain }
    storeLanes s0 g chain rest

/-- VSCAT: its elements are stores in row-major order. -/
def execVscat (f : RForm) (s : State) : Outcome :=
  issue (.vscat f) (do
    vectorReady [f.srcA 2, f.srcB, { code := f.d }] [] [maskNumber f.c] false
    let xs ← laneList f true
    let s ← Act.state
    occupyUnit (laneCycles s f)
    let chain ← Act.fresh
    storeLanes s (s.grid f.d) chain xs) s

end Sys2Proof.Machine
end

