-- ==== Sys2Proof/Machine/Dispatch.lean ====
section
/-! DEFINITION. The one dispatch: every constructor of Instr to its meaning. -/

namespace Sys2Proof.Machine

/-- Run one step of the opcode table. -/
def exec (i : Instr) (s : State) : Host.Outcome State Fault Refusal :=
  match i with
  | .add f => Sys2Proof.Machine.execAdd f s
  | .sub f => Sys2Proof.Machine.execSub f s
  | .and f => Sys2Proof.Machine.execAnd f s
  | .or f => Sys2Proof.Machine.execOr f s
  | .xor f => Sys2Proof.Machine.execXor f s
  | .shl f => Sys2Proof.Machine.execShl f s
  | .shr f => Sys2Proof.Machine.execShr f s
  | .sra f => Sys2Proof.Machine.execSra f s
  | .slt f => Sys2Proof.Machine.execSlt f s
  | .sltb f => Sys2Proof.Machine.execSltb f s
  | .seq f => Sys2Proof.Machine.execSeq f s
  | .mul f => Sys2Proof.Machine.execMul f s
  | .mulhb f => Sys2Proof.Machine.execMulhb f s
  | .min f => Sys2Proof.Machine.execMin f s
  | .max f => Sys2Proof.Machine.execMax f s
  | .minb f => Sys2Proof.Machine.execMinb f s
  | .maxb f => Sys2Proof.Machine.execMaxb f s
  | .addw f => Sys2Proof.Machine.execAddw f s
  | .subw f => Sys2Proof.Machine.execSubw f s
  | .addi f => Sys2Proof.Machine.execAddi f s
  | .andi f => Sys2Proof.Machine.execAndi f s
  | .ori f => Sys2Proof.Machine.execOri f s
  | .xori f => Sys2Proof.Machine.execXori f s
  | .shli f => Sys2Proof.Machine.execShli f s
  | .shri f => Sys2Proof.Machine.execShri f s
  | .srai f => Sys2Proof.Machine.execSrai f s
  | .slti f => Sys2Proof.Machine.execSlti f s
  | .sltbi f => Sys2Proof.Machine.execSltbi f s
  | .seqi f => Sys2Proof.Machine.execSeqi f s
  | .muli f => Sys2Proof.Machine.execMuli f s
  | .addwi f => Sys2Proof.Machine.execAddwi f s
  | .movi f => Sys2Proof.Machine.execMovi f s
  | .ld f => Sys2Proof.Machine.execLd f s
  | .lds f => Sys2Proof.Machine.execLds f s
  | .st f => Sys2Proof.Machine.execSt f s
  | .beq f => Sys2Proof.Machine.execBeq f s
  | .bne f => Sys2Proof.Machine.execBne f s
  | .blt f => Sys2Proof.Machine.execBlt f s
  | .bge f => Sys2Proof.Machine.execBge f s
  | .bltb f => Sys2Proof.Machine.execBltb f s
  | .bgeb f => Sys2Proof.Machine.execBgeb f s
  | .jal f => Sys2Proof.Machine.execJal f s
  | .jalr f => Sys2Proof.Machine.execJalr f s
  | .kend f => Sys2Proof.Machine.execKend f s
  | .kmtr f => Sys2Proof.Machine.execKmtr f s
  | .trap f => Sys2Proof.Machine.execTrap f s
  | .div f => Sys2Proof.Machine.execDiv f s
  | .divb f => Sys2Proof.Machine.execDivb f s
  | .rem f => Sys2Proof.Machine.execRem f s
  | .remb f => Sys2Proof.Machine.execRemb f s
  | .mulh f => Sys2Proof.Machine.execMulh f s
  | .clz f => Sys2Proof.Machine.execClz f s
  | .ctz f => Sys2Proof.Machine.execCtz f s
  | .popc f => Sys2Proof.Machine.execPopc f s
  | .rotl f => Sys2Proof.Machine.execRotl f s
  | .rotr f => Sys2Proof.Machine.execRotr f s
  | .bext f => Sys2Proof.Machine.execBext f s
  | .bins f => Sys2Proof.Machine.execBins f s
  | .shlw f => Sys2Proof.Machine.execShlw f s
  | .shrw f => Sys2Proof.Machine.execShrw f s
  | .sraw f => Sys2Proof.Machine.execSraw f s
  | .mulw f => Sys2Proof.Machine.execMulw f s
  | .mulwb f => Sys2Proof.Machine.execMulwb f s
  | .sltw f => Sys2Proof.Machine.execSltw f s
  | .sltwb f => Sys2Proof.Machine.execSltwb f s
  | .sel f => Sys2Proof.Machine.execSel f s
  | .faddF32 f => Sys2Proof.Machine.execFaddF32 f s
  | .fsubF32 f => Sys2Proof.Machine.execFsubF32 f s
  | .fmulF32 f => Sys2Proof.Machine.execFmulF32 f s
  | .ffmaF32 f => Sys2Proof.Machine.execFfmaF32 f s
  | .fdivF32 f => Sys2Proof.Machine.execFdivF32 f s
  | .fsqrtF32 f => Sys2Proof.Machine.execFsqrtF32 f s
  | .fminF32 f => Sys2Proof.Machine.execFminF32 f s
  | .fmaxF32 f => Sys2Proof.Machine.execFmaxF32 f s
  | .fabsF32 f => Sys2Proof.Machine.execFabsF32 f s
  | .fnegF32 f => Sys2Proof.Machine.execFnegF32 f s
  | .feqF32 f => Sys2Proof.Machine.execFeqF32 f s
  | .fltF32 f => Sys2Proof.Machine.execFltF32 f s
  | .fleF32 f => Sys2Proof.Machine.execFleF32 f s
  | .fclsF32 f => Sys2Proof.Machine.execFclsF32 f s
  | .faddF64 f => Sys2Proof.Machine.execFaddF64 f s
  | .fsubF64 f => Sys2Proof.Machine.execFsubF64 f s
  | .fmulF64 f => Sys2Proof.Machine.execFmulF64 f s
  | .ffmaF64 f => Sys2Proof.Machine.execFfmaF64 f s
  | .fdivF64 f => Sys2Proof.Machine.execFdivF64 f s
  | .fsqrtF64 f => Sys2Proof.Machine.execFsqrtF64 f s
  | .fminF64 f => Sys2Proof.Machine.execFminF64 f s
  | .fmaxF64 f => Sys2Proof.Machine.execFmaxF64 f s
  | .fabsF64 f => Sys2Proof.Machine.execFabsF64 f s
  | .fnegF64 f => Sys2Proof.Machine.execFnegF64 f s
  | .feqF64 f => Sys2Proof.Machine.execFeqF64 f s
  | .fltF64 f => Sys2Proof.Machine.execFltF64 f s
  | .fleF64 f => Sys2Proof.Machine.execFleF64 f s
  | .fclsF64 f => Sys2Proof.Machine.execFclsF64 f s
  | .fcvt fn f => Sys2Proof.Machine.execFcvt fn f s
  | .csrr f => Sys2Proof.Machine.execCsrr f s
  | .csrw f => Sys2Proof.Machine.execCsrw f s
  | .csrs f => Sys2Proof.Machine.execCsrs f s
  | .csrc f => Sys2Proof.Machine.execCsrc f s
  | .eret f => Sys2Proof.Machine.execEret f s
  | .brk f => Sys2Proof.Machine.execBrk f s
  | .nop f => Sys2Proof.Machine.execNop f s
  | .atom f => Sys2Proof.Machine.execAtom f s
  | .aswp f => Sys2Proof.Machine.execAswp f s
  | .acas f => Sys2Proof.Machine.execAcas f s
  | .fence f => Sys2Proof.Machine.execFence f s
  | .pref f => Sys2Proof.Machine.execPref f s
  | .hnew f => Sys2Proof.Machine.execHnew f s
  | .hnewSp f => Sys2Proof.Machine.execHnewSp f s
  | .hcopy f => Sys2Proof.Machine.execHcopy f s
  | .hdrop f => Sys2Proof.Machine.execHdrop f s
  | .hmove f => Sys2Proof.Machine.execHmove f s
  | .hinfo f => Sys2Proof.Machine.execHinfo f s
  | .hwait f => Sys2Proof.Machine.execHwait f s
  | .hsend f => Sys2Proof.Machine.execHsend f s
  | .hrecv f => Sys2Proof.Machine.execHrecv f s
  | .hld f => Sys2Proof.Machine.execHld f s
  | .hst f => Sys2Proof.Machine.execHst f s
  | .qcfg f => Sys2Proof.Machine.execQcfg f s
  | .qrsv f => Sys2Proof.Machine.execQrsv f s
  | .qpop f => Sys2Proof.Machine.execQpop f s
  | .qstat f => Sys2Proof.Machine.execQstat f s
  | .vadd f => Sys2Proof.Machine.execVadd f s
  | .vsub f => Sys2Proof.Machine.execVsub f s
  | .vmul f => Sys2Proof.Machine.execVmul f s
  | .vfma f => Sys2Proof.Machine.execVfma f s
  | .vmin f => Sys2Proof.Machine.execVmin f s
  | .vmax f => Sys2Proof.Machine.execVmax f s
  | .vabs f => Sys2Proof.Machine.execVabs f s
  | .vneg f => Sys2Proof.Machine.execVneg f s
  | .vrcp f => Sys2Proof.Machine.execVrcp f s
  | .vrsq f => Sys2Proof.Machine.execVrsq f s
  | .vexp2 f => Sys2Proof.Machine.execVexp2 f s
  | .vlog2 f => Sys2Proof.Machine.execVlog2 f s
  | .vtanh f => Sys2Proof.Machine.execVtanh f s
  | .viadd f => Sys2Proof.Machine.execViadd f s
  | .visub f => Sys2Proof.Machine.execVisub f s
  | .vimul f => Sys2Proof.Machine.execVimul f s
  | .vand f => Sys2Proof.Machine.execVand f s
  | .vor f => Sys2Proof.Machine.execVor f s
  | .vxor f => Sys2Proof.Machine.execVxor f s
  | .vshl f => Sys2Proof.Machine.execVshl f s
  | .vshr f => Sys2Proof.Machine.execVshr f s
  | .vsra f => Sys2Proof.Machine.execVsra f s
  | .vimin f => Sys2Proof.Machine.execVimin f s
  | .vimax f => Sys2Proof.Machine.execVimax f s
  | .vhash f => Sys2Proof.Machine.execVhash f s
  | .vlut f => Sys2Proof.Machine.execVlut f s
  | .vidx f => Sys2Proof.Machine.execVidx f s
  | .vcmp rel f => Sys2Proof.Machine.execVcmp rel f s
  | .vmov f => Sys2Proof.Machine.execVmov f s
  | .vsel f => Sys2Proof.Machine.execVsel f s
  | .vbcast f => Sys2Proof.Machine.execVbcast f s
  | .vperm f => Sys2Proof.Machine.execVperm f s
  | .vtrn f => Sys2Proof.Machine.execVtrn f s
  | .vrsum f => Sys2Proof.Machine.execVrsum f s
  | .vrmin f => Sys2Proof.Machine.execVrmin f s
  | .vrmax f => Sys2Proof.Machine.execVrmax f s
  | .vrmini f => Sys2Proof.Machine.execVrmini f s
  | .vrmaxi f => Sys2Proof.Machine.execVrmaxi f s
  | .vror f => Sys2Proof.Machine.execVror f s
  | .vcvt f => Sys2Proof.Machine.execVcvt f s
  | .vld f => Sys2Proof.Machine.execVld f s
  | .vst f => Sys2Proof.Machine.execVst f s
  | .vldh f => Sys2Proof.Machine.execVldh f s
  | .vsth f => Sys2Proof.Machine.execVsth f s
  | .vgath f => Sys2Proof.Machine.execVgath f s
  | .vscat f => Sys2Proof.Machine.execVscat f s
  | .vset fmt f => Sys2Proof.Machine.execVset fmt f s
  | .mset f => Sys2Proof.Machine.execMset f s
  | .tmma f => Sys2Proof.Machine.execTmma f s
  | .tmms f => Sys2Proof.Machine.execTmms f s
  | .tadd f => Sys2Proof.Machine.execTadd f s
  | .temul f => Sys2Proof.Machine.execTemul f s
  | .tact f => Sys2Proof.Machine.execTact f s
  | .ttrn f => Sys2Proof.Machine.execTtrn f s
  | .tred f => Sys2Proof.Machine.execTred f s
  | .tcvt f => Sys2Proof.Machine.execTcvt f s
  | .tsmx f => Sys2Proof.Machine.execTsmx f s
  | .tzero f => Sys2Proof.Machine.execTzero f s
  | .tfmt f => Sys2Proof.Machine.execTfmt f s
  | .trec f => Sys2Proof.Machine.execTrec f s
  | .tlogb f => Sys2Proof.Machine.execTlogb f s
  | .tmark f => Sys2Proof.Machine.execTmark f s
  | .trev f => Sys2Proof.Machine.execTrev f s
  | .tgmapView f => Sys2Proof.Machine.execTgmapView f s
  | .tgmapDelta f => Sys2Proof.Machine.execTgmapDelta f s
  | .tlstat f => Sys2Proof.Machine.execTlstat f s
  | .cpy f => Sys2Proof.Machine.execCpy f s
  | .cpyh f => Sys2Proof.Machine.execCpyh f s
  | .cpym f => Sys2Proof.Machine.execCpym f s
  | .send f => Sys2Proof.Machine.execSend f s
  | .sendChannel ch f => Sys2Proof.Machine.execSendChannel ch f s
  | .recv f => Sys2Proof.Machine.execRecv f s
  | .fork f => Sys2Proof.Machine.execFork f s
  | .join f => Sys2Proof.Machine.execJoin f s
  | .exit f => Sys2Proof.Machine.execExit f s
  | .yield f => Sys2Proof.Machine.execYield f s
  | .waitq f => Sys2Proof.Machine.execWaitq f s
  | .evwt f => Sys2Proof.Machine.execEvwt f s
  | .evsig f => Sys2Proof.Machine.execEvsig f s
  | .evbar f => Sys2Proof.Machine.execEvbar f s
  | .evlck f => Sys2Proof.Machine.execEvlck f s
  | .evunl f => Sys2Proof.Machine.execEvunl f s
  | .landingFptrap => Sys2Proof.Machine.execLandingFptrap s
  | .meterExhausted => Sys2Proof.Machine.execMeterExhausted s
  | .loadValueLands => Sys2Proof.Machine.execLoadValueLands s
  | .divisionLands => Sys2Proof.Machine.execDivisionLands s
  | .atomicPerformed => Sys2Proof.Machine.execAtomicPerformed s
  | .hostAtomicopCompletion slot id st => Sys2Proof.Machine.execHostAtomicopCompletion slot id st s
  | .storePerformed => Sys2Proof.Machine.execStorePerformed s
  | .atsCompletion req reply => Sys2Proof.Machine.execAtsCompletion req reply s
  | .priResponse req code => Sys2Proof.Machine.execPriResponse req code s
  | .atsInvalidation pasid va len => Sys2Proof.Machine.execAtsInvalidation pasid va len s
  | .atsInvalidationComplete => Sys2Proof.Machine.execAtsInvalidationComplete s
  | .vectorWritesLand => Sys2Proof.Machine.execVectorWritesLand s
  | .matrixGrant => Sys2Proof.Machine.execMatrixGrant s
  | .tileResultsLand => Sys2Proof.Machine.execTileResultsLand s
  | .heldSpanRelease => Sys2Proof.Machine.execHeldSpanRelease s
  | .ringSlotFrees => Sys2Proof.Machine.execRingSlotFrees s
  | .copyStart => Sys2Proof.Machine.execCopyStart s
  | .copyFault => Sys2Proof.Machine.execCopyFault s
  | .copyCompletion => Sys2Proof.Machine.execCopyCompletion s
  | .messageEntersInbox => Sys2Proof.Machine.execMessageEntersInbox s
  | .eventMessageArrives => Sys2Proof.Machine.execEventMessageArrives s
  | .barrierDeparture => Sys2Proof.Machine.execBarrierDeparture s
  | .dieBarrierArrival => Sys2Proof.Machine.execDieBarrierArrival s
  | .boundedWaitExpiry => Sys2Proof.Machine.execBoundedWaitExpiry s
  | .waitWordReread => Sys2Proof.Machine.execWaitWordReread s
  | .taskStart => Sys2Proof.Machine.execTaskStart s
  | .dequeRefill => Sys2Proof.Machine.execDequeRefill s
  | .stealAttempt => Sys2Proof.Machine.execStealAttempt s
  | .stealAnswer => Sys2Proof.Machine.execStealAnswer s
  | .startEvent => Sys2Proof.Machine.execStartEvent s
  | .quiescenceSample => Sys2Proof.Machine.execQuiescenceSample s
  | .preemptSave => Sys2Proof.Machine.execPreemptSave s
  | .contextRestore => Sys2Proof.Machine.execContextRestore s
  | .preemptTimeout => Sys2Proof.Machine.execPreemptTimeout s
  | .poisonError tgt => Sys2Proof.Machine.execPoisonError tgt s
  | .uncontainedError site at_ => Sys2Proof.Machine.execUncontainedError site at_ s
  | .intervalBoundary => Sys2Proof.Machine.execIntervalBoundary s
  | .rollback => Sys2Proof.Machine.execRollback s
  | .partitionDrainReset => Sys2Proof.Machine.execPartitionDrainReset s
  | .diePortRefusal wid die => Sys2Proof.Machine.execDiePortRefusal wid die s
  | .linkFrameIntegrityFail link => Sys2Proof.Machine.execLinkFrameIntegrityFail link s
  | .kick q w => Sys2Proof.Machine.execKick q w s
  | .queueReset q => Sys2Proof.Machine.execQueueReset q s
  | .queueDrainComplete => Sys2Proof.Machine.execQueueDrainComplete s
  | .packetTake => Sys2Proof.Machine.execPacketTake s
  | .nopPacket => Sys2Proof.Machine.execNopPacket s
  | .launchLoad => Sys2Proof.Machine.execLaunchLoad s
  | .translatePacket => Sys2Proof.Machine.execTranslatePacket s
  | .loaderValidate => Sys2Proof.Machine.execLoaderValidate s
  | .copyPacket => Sys2Proof.Machine.execCopyPacket s
  | .signalPacket => Sys2Proof.Machine.execSignalPacket s
  | .barrierPacket => Sys2Proof.Machine.execBarrierPacket s
  | .barrierEvaluate => Sys2Proof.Machine.execBarrierEvaluate s
  | .hostSignalPoll => Sys2Proof.Machine.execHostSignalPoll s
  | .timestampPacket => Sys2Proof.Machine.execTimestampPacket s
  | .provenancePacket => Sys2Proof.Machine.execProvenancePacket s
  | .packetEnd => Sys2Proof.Machine.execPacketEnd s
  | .launchEnd => Sys2Proof.Machine.execLaunchEnd s
  | .launchPreempt => Sys2Proof.Machine.execLaunchPreempt s
  | .frontEndPageWait pk reply => Sys2Proof.Machine.execFrontEndPageWait pk reply s
  | .watchdogExpiry => Sys2Proof.Machine.execWatchdogExpiry s
  | .createWorld => Sys2Proof.Machine.execCreateWorld s
  | .destroyWorld => Sys2Proof.Machine.execDestroyWorld s
  | .offer => Sys2Proof.Machine.execOffer s
  | .reclaim => Sys2Proof.Machine.execReclaim s
  | .force => Sys2Proof.Machine.execForce s
  | .importPage => Sys2Proof.Machine.execImportPage s
  | .setRoot => Sys2Proof.Machine.execSetRoot s
  | .createQueue => Sys2Proof.Machine.execCreateQueue s
  | .destroyQueue => Sys2Proof.Machine.execDestroyQueue s
  | .setWindow => Sys2Proof.Machine.execSetWindow s
  | .clearWindow => Sys2Proof.Machine.execClearWindow s
  | .debugUnlock => Sys2Proof.Machine.execDebugUnlock s
  | .accept => Sys2Proof.Machine.execAccept s
  | .refuse => Sys2Proof.Machine.execRefuse s
  | .exportPage => Sys2Proof.Machine.execExportPage s
  | .spdmRequest vf msg => Sys2Proof.Machine.execSpdmRequest vf msg s
  | .linkDown => Sys2Proof.Machine.execLinkDown s
  | .functionLevelReset vf => Sys2Proof.Machine.execFunctionLevelReset vf s
  | .hotReset => Sys2Proof.Machine.execHotReset s
  | .powerOnReset pkgid => Sys2Proof.Machine.execPowerOnReset pkgid s
  | .deviceReset => Sys2Proof.Machine.execDeviceReset s
  | .firmwareUpdate => Sys2Proof.Machine.execFirmwareUpdate s
  | .frequencyClassChange => Sys2Proof.Machine.execFrequencyClassChange s
  | .throttle => Sys2Proof.Machine.execThrottle s
  | .unthrottle => Sys2Proof.Machine.execUnthrottle s
  | .retire => Sys2Proof.Machine.execRetire s
  | .liveMapChange => Sys2Proof.Machine.execLiveMapChange s
  | .debugFreeze => Sys2Proof.Machine.execDebugFreeze s
  | .fabricPathDown => Sys2Proof.Machine.execFabricPathDown s
  | .combineBufferForward => Sys2Proof.Machine.execCombineBufferForward s
  | .reductionPerformed => Sys2Proof.Machine.execReductionPerformed s
  | .reductionAccepted => Sys2Proof.Machine.execReductionAccepted s
  | .registerWrite off val => Sys2Proof.Machine.execRegisterWrite off val s
  | .illegalInstruction => Sys2Proof.Machine.execIllegalInstruction s
  | .portWordDelivery => Sys2Proof.Machine.execPortWordDelivery s
  | .priReset fn => Sys2Proof.Machine.execPriReset fn s
  | .hostLinkUp => Sys2Proof.Machine.execHostLinkUp s
  | .fabricPathFailure pkg => Sys2Proof.Machine.execFabricPathFailure pkg s
  | .fabricPathRecovery pkg => Sys2Proof.Machine.execFabricPathRecovery pkg s
  | .correctedSoftError core => Sys2Proof.Machine.execCorrectedSoftError core s

end Sys2Proof.Machine
end

