-- ==== Sys2Proof/Machine/Emulate.lean ====
section
/-! DEFINITION. The emulation library (R79, R309, R312): its instructions are no part of the contract, so a call of one of
its entries is two steps, between which its save area can be written, and which do what the contract says of the call. -/

namespace Sys2Proof.Machine

/-- The entry of the library at which a slot in task mode stands. -/
def State.emulationAt (s : State) (k : Nat) : Option (Nat × Nat × Nat × Nat) :=
  let sl := s.slot k
  match s.launchOn (dieOfCore (coreOfSlot k)) with
  | none => none
  | some l =>
    if sl.mode = .task && !sl.xlt && decide (0 < l.libLen) then
      emulations.find? (fun e => l.codeBase + l.libBase + e.2.2.2 == sl.pc.toNat)
    else none

/-- The scratch area of a slot, in the arena window that ARBASE selects for it (R30, R34, R312). -/
def scratchArea (sl : Slot) : Nat := sl.arenaOffset 0xFF00

/-- The bytes that a source has left in the scratch area, and their poison. -/
def State.scratchSource (s : State) (off n : Nat) : Nat × Bool :=
  let m := s.memAt (.arena s.myCore)
  let a := scratchArea s.me + off
  (m.word a n, m.poisonIn a n)

/-- The result of an emulated instruction, and its flags. -/
def emulated (e : Nat × Nat × Nat × Nat) (sl : Slot) (a b : Nat) : Nat × FlagBits :=
  let rnd := roundMode sl (BitVec.ofNat 3 e.2.2.1)
  match e.1, e.2.1 with
  | 0x10, 2 => ((remS (BitVec.ofNat 32 a) (BitVec.ofNat 32 b)).toNat, 0)
  | 0x10, _ => ((remU (BitVec.ofNat 32 a) (BitVec.ofNat 32 b)).toNat, 0)
  | _, 0x84 => fdiv f64 rnd a b
  | _, _ => fsqrt f64 rnd a

/-- The words of the save area, each with its poison. -/
def State.saveArea (s : State) : List (Nat × Bool) :=
  let m := s.memAt (.arena s.myCore)
  (List.range 58).map (fun i => (m.word (scratchArea s.me + 0x18 + 4 * i) 4, m.poisonIn (scratchArea s.me + 0x18 + 4 * i) 4))

/-- The save area holds whatever the library has put there. -/
def State.spoilSaveArea (s : State) : State :=
  let p := Place.arena s.myCore
  let m := (s.memAt p).setBytes (scratchArea s.me + 0x18) ((List.range 0xE8).map (fun i => Config.freeByte (s.draws + i)))
  { s.setMemAt p m with draws := s.draws + 0xE8 }

/-- Whether a routine works on words of 32 bits. -/
def narrowEntry (e : Nat × Nat × Nat × Nat) : Bool := e.1 == 0x10

/-- A call of a library entry begins: the save area is filled, and the routine runs for a free time within R309. -/
def enterLibrary (e : Nat × Nat × Nat × Nat) : Act Unit := do
  let x ← Act.draw
  let cycles := Config.delay x % (if narrowEntry e then 272 else 1292)
  Act.modify (fun s =>
    let s := s.spoilSaveArea
    s.setMe { s.me with library := some s.saveArea, ready := s.cycle + cycles })

/-- What was written into the save area since comes back in the registers that the library keeps there (R312). -/
def restoreLibrary (before now : List (Nat × Bool)) (sl : Slot) : Slot :=
  ((before.zip now).zipIdx).foldl (fun sl x =>
    let r := (Config.librarySaves x.2).toNat
    if x.1.1 = x.1.2 || r = 0 || 60 ≤ r || !(sl.reg r).full then sl
    else sl.setReg r { (sl.reg r) with val := BitVec.ofNat 32 x.1.2.1, poison := x.1.2.2 }) sl

/-- The call ends: flags raised or FPTRAP taken, registers restored, the result out, and back by g62. How many
instructions it has retired is open within the bounds of R309. -/
def leaveLibrary (e : Nat × Nat × Nat × Nat) (before : List (Nat × Bool)) : Act Word := do
  let s ← Act.state
  let n := if narrowEntry e then 4 else 8
  let a := s.scratchSource 0 n
  let b := s.scratchSource 8 n
  let one := e.2.1 == 0x85
  let p := a.2 || (!one && b.2)
  let r := emulated e s.me a.1 b.1
  raiseClean p r.2
  let y ← Act.draw
  let instrs := Config.delay y % (if narrowEntry e then 72 else 292)
  Act.modify (fun s =>
    let place := Place.arena s.myCore
    let m := (s.memAt place).write (scratchArea s.me + 0x10) (bytesOfWord n r.1) p
    let sl := restoreLibrary before s.saveArea s.me
    let s := s.setMemAt place m
    s.setMe { sl with retired := sl.retired + BitVec.ofNat 64 instrs, library := none })
  check [{ code := 62, n := 1, ep := false }]
  let back ← rd 62
  Act.trapIf back.poison .poison 62 0
  return back.w

/-- The word that ends a routine: `jalr g0, g62, 0`. -/
def libraryReturn : Instr := .jalr { d := 0, a := 62, ep := 0, imm := 0 }

/-- A call of the library by the running slot, in two steps: its beginning and its end. -/
def State.runEmulation (e : Nat × Nat × Nat × Nat) (s : State) : Outcome :=
  match s.me.library with
  | some before => issueTo libraryReturn (leaveLibrary e before) s
  | none => .next (match enterLibrary e s with
    | .ok (_, t) => t.issued s.cur
    | .error x => s.stop libraryReturn x)

end Sys2Proof.Machine
end

