-- ==== Sys2Proof/Machine/Step.lean ====
section
/-! DEFINITION. One step of the machine: a step that comes before any slot issues in this cycle, else an instruction of
the next slot that issues, else the end of the cycle: a step of the agenda that is due, or the next cycle. -/

namespace Sys2Proof.Machine

/-- Run the instruction of slot k, in the order of R52. -/
def runSlot (k : Nat) (s : State) : Outcome :=
  let sl := s.slot k
  if sl.fptrap != 0 && sl.mode = .task then exec .landingFptrap s
  else if !sl.fetchLegal then s.fetchTrap
  else if !s.fetched k then .next (s.fetchMiss k)
  else if sl.xlt && sl.kmeter == 0 then exec .meterExhausted s
  else
    match s.emulationAt k with
    | some e => s.runEmulation e
    | none =>
      let w := s.codeWord (dieOfCore (coreOfSlot k)) sl.pc
      match decode w with
      | .ok i => exec i s
      | .error _ => exec .illegalInstruction { s with subject := [w.toNat] }

/-- A frozen package leaves the freeze only by a power-on reset (R390): what comes before it is lost. -/
def State.thaw (s : State) : Outcome :=
  match s.agenda.dropWhile (fun d => !isPowerOn d.step) with
  | d :: rest => exec d.step { s with agenda := rest, subject := d.subject }
  | [] => .fault .frozen

def step (s : State) : Host.Outcome State Fault Refusal :=
  if s.frozen then s.thaw
  else
    match s.early with
    | d :: rest => exec d.step { s with early := rest, subject := d.subject }
    | [] =>
      if s.closing then
        match s.agenda with
        | d :: rest =>
          if d.at_ ≤ s.cycle then exec d.step { s with agenda := rest, subject := d.subject } else .next s.tick
        | [] => .next s.tick
      else
        match s.nextIssuer with
        | some (k, i) => runSlot k { s with cur := k, turn := coreOfSlot k, tried := i }
        | none => .next s.close

/-- Slot k runs the word that it fetches next: no trap comes before it, and no library routine stands in its place. -/
def State.fetchesWord (s : State) (k : Nat) : Bool :=
  let sl := s.slot k
  (sl.fptrap == 0 || sl.mode == .handler) && sl.fetchLegal && !(sl.xlt && sl.kmeter == 0) && (s.emulationAt k).isNone

/-- The state in which the next step fetches and runs a given instruction word. Where some slot is about to fetch one,
the word is stored at its program counter; else a task is put on slot 0 of core 0. -/
def State.withFetchWord (s : State) (nbits w : Nat) : State :=
  let word : DWord := BitVec.ofNat 64 (w % 2 ^ nbits)
  match (if s.frozen || s.closing || !s.early.isEmpty then none else s.nextIssuer) with
  | some (k, _) => if s.fetchesWord k then s.storeCode k word else s.withTask.storeCode 0 word
  | none => s.withTask.storeCode 0 word

end Sys2Proof.Machine
end

