-- ==== Sys2Proof/Safety.lean ====
section
/-! DEFINITION. What counts as a sound state and a safe run: every memory the state holds keeps its canonical form, so
that equal contents are equal data, and no step of the run is refused. The only fault is the freeze of an unlocked
package (R390). -/

namespace Sys2Proof.Machine

/-- The memories of a partition that are held while its launch is saved, or since its last interval boundary. -/
def Launch.heldMemories (l : Launch) : List Mem :=
  ((l.held.arena ++ l.held.scratch).map Prod.snd)
    ++ (match l.checkpoint with
      | some c => (c.arena ++ c.scratch).map Prod.snd
      | none => [])

/-- Every memory that a state holds: DRAM, host memory, scratchpads, arenas, translator windows, and what is held of
saved partitions. -/
def State.memories (s : State) : List Mem :=
  [s.dram, s.hostMem] ++ (s.scratch ++ s.arena ++ s.windows).map Prod.snd
    ++ s.launches.flatMap (fun e => e.2.heldMemories)

/-- Every memory is in canonical form. -/
def State.canonical (s : State) : Prop := ∀ m ∈ s.memories, m.wf = true

/-- n steps that all answer a next state. -/
def stepsFrom : Nat → State → Option State
  | 0, s => some s
  | n + 1, s =>
    match step s with
    | .next t => stepsFrom n t
    | _ => none

/-- A run of any length is never refused, and stops only in the freeze. -/
def State.safe (s : State) : Prop :=
  ∀ n t, stepsFrom n s = some t → (∃ u, step t = .next u) ∨ step t = .fault .frozen

end Sys2Proof.Machine
end

