-- ==== Sys2Proof/Certificates/Slice0/Obligations.lean ====
section
/-! DEFINITION. What the model is claimed to do: statements for the provers, one group of the spec's rules after another.
The helpers of this file say what a rule says in plain arithmetic, or name the steps of R52 that an instruction must
have passed; a statement then gives the whole next state as the shared writers of the model leave it, or what that state
holds. A statement of an instruction gives, for the states and operands in which it executes, the next state itself: so it
says that the instruction completes there, what it writes, and that nothing else changes. -/

open Sys2Proof Sys2Proof.Machine


namespace Sys2Proof.Statements

/-- The mode lets the instruction run, and steps 4 and 5 of R52 find nothing to trap or to wait for. -/
def Ready (i : Instr) (srcs : List Src) (dsts : List Dst) (s : State) : Prop :=
  modeLegal i s.me.xlt = true ∧ check srcs dsts s = .ok ((), s)

/-- The instruction has retired at the next word (R39, R42), with the given state as its effect. -/
def retired (s t : State) : Outcome := .next (t.retireAt s.cur s.me.pc (s.me.pc + 8))

/-- The instruction has parked (R22, R53): nothing of it has happened, and it is tried again. -/
def parks (s : State) (w : Wait) : Outcome := .next ((s.setMe { s.me with request := none }).parkSlot s.cur w)

/-- The instruction has trapped (R55): its slot takes the trap, and nothing else of it has happened. -/
def traps (i : Instr) (s : State) (c : Cause) (v v2 : DWord) : Outcome :=
  .next ((s.takeTrap s.cur c v v2 (wordOf i)).issued s.cur)

/-- A destination takes a word now: no register that still waits, no full port, no full outbox (R27, R28). -/
def Open (s : State) (code : Code) : Prop := s.dstWaits { code := code } = false ∧ s.outboxFull code = false

/-! ## Integers, as arithmetic on numbers (R59 to R62) -/

def flag (p : Prop) [Decidable p] : Word := if p then 1 else 0

/-- Bits of a word that are set, low to high. -/
def ones (a : Word) : List Nat := (List.range 32).filter a.getLsbD

/-- The width of a field of BEXT and BINS. -/
def fieldWidth (b : Word) : Nat := min (b.toNat / 2 ^ 8 % 2 ^ 6) 32

/-- Two 32-bit sources and a 32-bit result: what the result is. -/
def binaryOf : Instr → Option (RForm × (Word → Word → Word))
  | .add f => some (f, fun a b => BitVec.ofNat 32 (a.toNat + b.toNat))
  | .sub f => some (f, fun a b => BitVec.ofInt 32 (a.toNat - b.toNat))
  | .and f => some (f, fun a b => a &&& b)
  | .or f => some (f, fun a b => a ||| b)
  | .xor f => some (f, fun a b => a ^^^ b)
  | .shl f => some (f, fun a b => BitVec.ofNat 32 (a.toNat * 2 ^ (b.toNat % 32)))
  | .shr f => some (f, fun a b => BitVec.ofNat 32 (a.toNat / 2 ^ (b.toNat % 32)))
  | .sra f => some (f, fun a b => BitVec.ofInt 32 (a.toInt / 2 ^ (b.toNat % 32)))
  | .slt f => some (f, fun a b => flag (a.toInt < b.toInt))
  | .sltb f => some (f, fun a b => flag (a.toNat < b.toNat))
  | .seq f => some (f, fun a b => flag (a = b))
  | .mul f => some (f, fun a b => BitVec.ofNat 32 (a.toNat * b.toNat))
  | .mulhb f => some (f, fun a b => BitVec.ofNat 32 (a.toNat * b.toNat / 2 ^ 32))
  | .min f => some (f, fun a b => if a.toInt < b.toInt then a else b)
  | .max f => some (f, fun a b => if a.toInt < b.toInt then b else a)
  | .minb f => some (f, fun a b => if a.toNat < b.toNat then a else b)
  | .maxb f => some (f, fun a b => if a.toNat < b.toNat then b else a)
  | .mulh f => some (f, fun a b => BitVec.ofInt 32 (a.toInt * b.toInt / 2 ^ 32))
  | .rotl f => some (f, fun a b => BitVec.ofNat 32 (a.toNat * 2 ^ (b.toNat % 32) + a.toNat / 2 ^ (32 - b.toNat % 32)))
  | .rotr f => some (f, fun a b => BitVec.ofNat 32 (a.toNat / 2 ^ (b.toNat % 32) + a.toNat * 2 ^ (32 - b.toNat % 32)))
  | .bext f => some (f, fun a b => BitVec.ofNat 32 (a.toNat / 2 ^ (b.toNat % 32) % 2 ^ fieldWidth b))
  | _ => none

def unaryOf : Instr → Option (RForm × (Word → Word))
  | .clz f => some (f, fun a => if a = 0 then 32 else BitVec.ofNat 32 (31 - Nat.log2 a.toNat))
  | .ctz f => some (f, fun a => BitVec.ofNat 32 ((ones a).headD 32))
  | .popc f => some (f, fun a => BitVec.ofNat 32 (ones a).length)
  | _ => none

/-- Bit n of BINS comes from C inside the field, and from A outside it. -/
def binsWord (a b c : Word) : Word :=
  let p := b.toNat % 32
  BitVec.ofNat 32 (((List.range 32).map (fun n =>
    if (if p ≤ n ∧ n < p + fieldWidth b then c.getLsbD (n - p) else a.getLsbD n) then 2 ^ n else 0)).sum)

def ternaryOf : Instr → Option (RForm × (Word → Word → Word → Word))
  | .bins f => some (f, binsWord)
  | .sel f => some (f, fun a b c => if c = 0 then b else a)
  | _ => none

/-- Two pairs in, a pair out. -/
def pairOf : Instr → Option (RForm × (DWord → DWord → DWord))
  | .addw f => some (f, fun a b => BitVec.ofNat 64 (a.toNat + b.toNat))
  | .subw f => some (f, fun a b => BitVec.ofInt 64 (a.toNat - b.toNat))
  | .mulw f => some (f, fun a b => BitVec.ofNat 64 (a.toNat * b.toNat))
  | .mulwb f => some (f, fun a b => BitVec.ofNat 64 (a.toNat * b.toNat / 2 ^ 64))
  | _ => none

/-- Two pairs in, one word out. -/
def pairTestOf : Instr → Option (RForm × (DWord → DWord → Bool))
  | .sltw f => some (f, fun a b => decide (a.toInt < b.toInt))
  | .sltwb f => some (f, fun a b => decide (a.toNat < b.toNat))
  | _ => none

/-- A pair shifted by a word. -/
def pairShiftOf : Instr → Option (RForm × (DWord → Word → DWord))
  | .shlw f => some (f, fun a b => BitVec.ofNat 64 (a.toNat * 2 ^ (b.toNat % 64)))
  | .shrw f => some (f, fun a b => BitVec.ofNat 64 (a.toNat / 2 ^ (b.toNat % 64)))
  | .sraw f => some (f, fun a b => BitVec.ofInt 64 (a.toInt / 2 ^ (b.toNat % 64)))
  | _ => none

/-- One source and the immediate. -/
def immediateOf : Instr → Option (IForm × (Word → Word → Word))
  | .addi f => some (f, fun a n => BitVec.ofNat 32 (a.toNat + n.toNat))
  | .andi f => some (f, fun a n => a &&& n)
  | .ori f => some (f, fun a n => a ||| n)
  | .xori f => some (f, fun a n => a ^^^ n)
  | .shli f => some (f, fun a n => BitVec.ofNat 32 (a.toNat * 2 ^ n.toNat))
  | .shri f => some (f, fun a n => BitVec.ofNat 32 (a.toNat / 2 ^ n.toNat))
  | .srai f => some (f, fun a n => BitVec.ofInt 32 (a.toInt / 2 ^ n.toNat))
  | .slti f => some (f, fun a n => flag (a.toInt < n.toInt))
  | .sltbi f => some (f, fun a n => flag (a.toNat < n.toNat))
  | .seqi f => some (f, fun a n => flag (a = n))
  | .muli f => some (f, fun a n => BitVec.ofNat 32 (a.toNat * n.toNat))
  | _ => none

/-- DIV and DIVB (R61, R62): the quotient. -/
def quotientOf : Instr → Option (RForm × (Word → Word → Word))
  | .div f => some (f, fun a b => if b = 0 then BitVec.allOnes 32 else BitVec.ofInt 32 (a.toInt.tdiv b.toInt))
  | .divb f => some (f, fun a b => if b = 0 then BitVec.allOnes 32 else BitVec.ofNat 32 (a.toNat / b.toNat))
  | _ => none

/-! ## Floating point: the exact result, rounded once (R64 to R70) -/

/-- Two sources: the result's bits and flags in a format, under a rounding mode. -/
def floatBinary (t : FFmt) : Nat → Option (Nat → Nat → Nat → Nat × FlagBits)
  | 0 => some (fun rnd a b => t.round rnd false (addExact rnd (t.decode a) (t.decode b)))
  | 1 => some (fun rnd a b => t.round rnd false (addExact rnd (t.decode a) (t.decode b).neg))
  | 2 => some (fun rnd a b => t.round rnd false (mulExact (t.decode a) (t.decode b)))
  | 4 => some (fun rnd a b => t.round rnd false (divExact (t.decode a) (t.decode b)))
  | 6 => some (fun _ a b => t.minMax false a b)
  | 7 => some (fun _ a b => t.minMax true a b)
  | 10 => some (fun _ a b => ((feqBits t a b).1.toNat, (feqBits t a b).2))
  | 11 => some (fun _ a b => ((fltBits t a b).1.toNat, (fltBits t a b).2))
  | 12 => some (fun _ a b => ((fleBits t a b).1.toNat, (fleBits t a b).2))
  | _ => none

/-- One source. FABS clears the sign bit, FNEG inverts it, and neither raises a flag. -/
def floatUnary (t : FFmt) : Nat → Option (Nat → Nat → Nat × FlagBits)
  | 5 => some (fun rnd a => t.round rnd false (sqrtExact (t.decode a)))
  | 8 => some (fun _ a => (t.absBits a, 0))
  | 9 => some (fun _ a => (t.negBits a, 0))
  | 13 => some (fun _ a => (t.classMask a, 0))
  | _ => none

/-- The FP32 instructions with their function codes (R65). -/
def fp32 : Instr → Option (Nat × RForm)
  | .faddF32 f => some (0, f) | .fsubF32 f => some (1, f) | .fmulF32 f => some (2, f) | .ffmaF32 f => some (3, f)
  | .fdivF32 f => some (4, f) | .fsqrtF32 f => some (5, f) | .fminF32 f => some (6, f) | .fmaxF32 f => some (7, f)
  | .fabsF32 f => some (8, f) | .fnegF32 f => some (9, f) | .feqF32 f => some (10, f) | .fltF32 f => some (11, f)
  | .fleF32 f => some (12, f) | .fclsF32 f => some (13, f)
  | _ => none

/-- The FP64 instructions that this part has in hardware (R79), with their function codes less 0x80. -/
def fp64 : Instr → Option (Nat × RForm)
  | .faddF64 f => some (0, f) | .fsubF64 f => some (1, f) | .fmulF64 f => some (2, f) | .ffmaF64 f => some (3, f)
  | .fminF64 f => some (6, f) | .fmaxF64 f => some (7, f) | .fabsF64 f => some (8, f) | .fnegF64 f => some (9, f)
  | .feqF64 f => some (10, f) | .fltF64 f => some (11, f) | .fleF64 f => some (12, f) | .fclsF64 f => some (13, f)
  | _ => none

/-- The function codes whose result is one g register whatever the format: compares and the class mask. -/
def oneWord (fn : Nat) : Bool := decide (10 ≤ fn)

/-- Flags are gathered unless a source is poisoned (R57, R65), and none of them is enabled (R40, R55). -/
def Quiet (s : State) (poison : Bool) (fl : FlagBits) : Prop := poison = true ∨ fl &&& s.me.fenable = 0
def withFlags (s : State) (poison : Bool) (fl : FlagBits) : State := if poison then s else s.addFlags fl

/-- If any of the flags of a step is enabled, its instruction traps FPTRAP (R55). -/
def FlagsTrap (i : Instr) (s : State) (fl : FlagBits) : Prop :=
  fl &&& s.me.fenable ≠ 0 → exec i s = traps i s .fptrap (BitVec.ofNat 64 fl.toNat) 0

/-- The emulated pairs of R51 and R79. -/
def emulatedPair : Instr → Bool
  | .rem _ | .remb _ | .fdivF64 _ | .fsqrtF64 _ => true
  | _ => false

/-! ## Control flow (R71 to R73) -/

/-- When a compare and branch is taken. -/
def branchOf : Instr → Option (BForm × (Word → Word → Bool))
  | .beq f => some (f, fun a b => decide (a = b))
  | .bne f => some (f, fun a b => decide (a ≠ b))
  | .blt f => some (f, fun a b => decide (a.toInt < b.toInt))
  | .bge f => some (f, fun a b => decide (b.toInt ≤ a.toInt))
  | .bltb f => some (f, fun a b => decide (a.toNat < b.toNat))
  | .bgeb f => some (f, fun a b => decide (b.toNat ≤ a.toNat))
  | _ => none

/-- The EP bits of a B-form cover A and B. -/
def branchSources (f : BForm) : List Src :=
  [{ code := f.a, ep := f.ep.getLsbD 0 }, { code := f.b, ep := f.ep.getLsbD 1 }]

/-- A word address n words away, modulo 2^32. -/
def wordsFrom (pc off : Word) : Word := BitVec.ofInt 32 (pc.toNat + 8 * off.toInt)

/-- The launch of the running slot, once the slot has left the queues of the event unit as a trap makes it do. -/
def launchAt (s : State) (c : Cause) : Option Launch := (s.leaveFor s.cur c).launchOn s.myDie

/-- The handler that takes the traps of a slot: its launch has one, and the slot runs a task and no translator. -/
def Handled (s : State) (c : Cause) (l : Launch) (base len : Nat) : Prop :=
  launchAt s c = some l ∧ l.handler = some (base, len) ∧ s.me.mode = .task ∧ s.me.xlt = false
    ∧ l.emulates s.me.pc = false

/-! ## Control and state registers (R37 to R39, R74) -/

/-- The new value that a CSR instruction gives. -/
def csrWriteOf : Instr → Option (IForm × (Word → Word → Word))
  | .csrw f => some (f, fun _ a => a)
  | .csrs f => some (f, fun old a => old ||| a)
  | .csrc f => some (f, fun old a => old &&& ~~~a)
  | _ => none

/-- The four CSR instructions, and whether they write. -/
def csrOf (i : Instr) : Option (IForm × Bool) :=
  match i with
  | .csrr f => some (f, false)
  | _ => (csrWriteOf i).map (fun x => (x.1, true))

/-- FFLAGS and MXC0 to MXC3 wait while the slot owes a span, and so does a write of the window (R33, R40). -/
def csrWaits (s : State) (n : Nat) (write : Bool) : Bool :=
  (n == 0x010 || (decide (0x018 ≤ n) && decide (n ≤ 0x01B)) || (write && n == 0x048)) && s.owes s.cur

/-! ## Memory (R82 to R98) -/

/-- The address of a memory instruction: the base pair and the signed offset, modulo 2^64 (R82). -/
def addressIn (s : State) (f : MForm) : Nat := ((s.me.pair f.a.toNat).w + f.off.signExtend 64).toNat

/-- The base is not poisoned, and the address is aligned to the access (R82). -/
def Aligned (s : State) (f : MForm) : Prop := (s.me.pair f.a.toNat).poison = false ∧ addressIn s f % f.bytes = 0

/-- The loads into registers, and whether they extend the sign (R84). -/
def loadOf : Instr → Option (MForm × Bool)
  | .ld f => some (f, false)
  | .lds f => some (f, true)
  | _ => none

/-- D marked empty, to take the value that lands; and the next identity is taken. -/
def awaiting (s : State) (d : Code) (n : Nat) : State :=
  { s.setMe (s.me.markEmpty d.toNat n) with nextId := s.nextId + 1 }

/-- The atomics: form, operation, registers that take the old value, registers read, and how operand and compare bytes
come from them (R88). -/
structure Atomic where
  f : MForm
  kind : AtomKind
  n : Nat
  srcs : Nat
  operand : List Val → List Byte
  compare : List Val → List Byte
  /-- The registers that hold what may be written. -/
  written : List Val → List Val

def atomicOf : Instr → Option Atomic
  | .atom f => some { f := f, kind := .op f.evict f.rdc, n := f.regs, srcs := f.regs
                      operand := dataBytes f.bytes, compare := fun _ => [], written := id }
  | .aswp f => some { f := f, kind := .swap, n := f.regs, srcs := f.regs
                      operand := dataBytes f.bytes, compare := fun _ => [], written := id }
  | .acas f => some { f := f, kind := .cas, n := f.bytes / 4, srcs := 2 * (f.bytes / 4)
                      operand := fun vs => dataBytes f.bytes (vs.drop (f.bytes / 4))
                      compare := fun vs => dataBytes f.bytes (vs.take (f.bytes / 4)), written := List.drop (f.bytes / 4) }
  | _ => none

/-- The access that an atomic puts in flight. -/
def Atomic.access (x : Atomic) (s : State) (vs : List Val) (p : Piece) : Acc :=
  { id := s.nextId
    kind := .atomic x.kind (x.operand vs) (if anyPoison (vs.take x.n) then [] else x.compare vs) (anyPoison (x.written vs))
    ord := x.f.ord, scope := cappedScope x.f.space.toNat x.f.scope.toNat, pieces := [p]
    dest := .regs (regIndex s.me.mode x.f.d.toNat) x.n x.f.bytes false }

/-- No reduction window of the world holds the address of an access in space 0 (R98). -/
def OutsideWindows (s : State) (f : MForm) : Prop :=
  f.space ≠ 0 ∨ s.redWindow (s.die s.myDie).wid (addressIn s f) = none

/-- Nothing that the slot has in flight before an access must be performed before it, and it cleans no L1 (R115, R121). -/
def Unordered (s : State) (k : Nat) (x : Acc) : Prop := s.forceBefore k x = s

/-- The instructions that access an address: their form, how many data registers they read, and how many wait for a
value (R82). -/
def addressedOf (i : Instr) : Option (MForm × Nat × Nat) :=
  match i with
  | .ld f => some (f, 0, f.regs)
  | .lds f => some (f, 0, f.regs)
  | .st f => some (f, f.regs, 0)
  | i => (atomicOf i).map (fun x => (x.f, x.srcs, x.n))

/-- Such an instruction has passed the checks before its address is looked at, and its data has been read; an atomic of the
host is not under way. -/
def DataRead (i : Instr) (f : MForm) (srcs dsts : Nat) (s s1 : State) : Prop :=
  i.wf = true
    ∧ Ready i (f.srcA :: (if srcs = 0 then [] else [f.srcD srcs])) (if dsts = 0 then [] else [{ code := f.d, n := dsts }]) s
    ∧ ((atomicOf i).isSome = true → s.me.hostOp = none)
    ∧ (if srcs = 0 then s1 = s else ∃ vs, readData f.d srcs s = .ok (vs, s1))

/-- The bytes of the spaces other than the global one, and the codes of an address past them (R83). -/
def spaceBound : Nat → Option (Nat × Nat)
  | 1 => some (0x80000, 0x101)
  | 2 => some (0x200000, 0x102)
  | 3 => some (0x10000, 0x103)
  | _ => none

/-- A byte of a place, in some state. -/
def byteOf (s : State) (p : Place) (a : Nat) : Byte := (s.memAt p).byte a
def poisonOf (s : State) (p : Place) (a : Nat) : Bool := (s.memAt p).poisonAt a

/-! ## Handles and rings (R126 to R150) -/

/-- A handle register that holds no live handle (R36). -/
def FreeHandle (s : State) (code : Code) : Prop := handleKind (s.me.handleAt code) = 0

/-- The slot's handle register n holds a word. -/
def withHandle (s : State) (code : Code) (w : DWord) : State := s.setMe (s.me.setHandle (handleNumber code) w)

/-- A see access goes through: the tile was published in an earlier cycle (R130, R21). -/
def Seen (s : State) (e : Nat) : Prop := (s.entry e).state = .published ∧ (s.entry e).settled ≠ some s.cycle

/-- HNEW and HNEW.SP; the second makes a tile of the core's scratchpad. -/
def newTileOf : Instr → Option (RForm × Bool)
  | .hnew f => some (f, false)
  | .hnewSp f => some (f, true)
  | _ => none

/-- Where a new tile may lie (R137): aligned, not empty, and inside its space. -/
def TileFits (scratch : Bool) (base len : Nat) : Prop :=
  base % 64 = 0 ∧ 0 < len ∧ len % 64 = 0
    ∧ (if scratch then base + len ≤ 0x80000 else (base + len - 1) % 2 ^ 64 < 2 ^ 56)

/-- The instruction's access of n bytes at an offset of a tile of another package (R133, R143, R383): the trap or the wait that
it ends with, first match first, or else how it goes on. How long the tile is, and what its home's translation finds, is
open. -/
def awayEnds (i : Instr) (s0 s : State) (w : DWord) (off : Int) (n : Nat) (goes : State → Prop) : Prop :=
  if off < 0 ∨ Config.remoteLength w < off + n then exec i s0 = traps i s0 .prot (BitVec.ofInt 64 off) 0x130
  else if off % n ≠ 0 then exec i s0 = traps i s0 .align (BitVec.ofInt 64 off) (BitVec.ofNat 64 n)
  else if s.unreachable.contains (handlePkg w).toNat then
    exec i s0 = traps i s0 .page (Config.freeWord s.draws) 0x410
  else if s.pathsDown.has (handlePkg w).toNat then exec i s0 = parks s0 {}
  else match Config.remoteFault s.draws with
    | some (page, code) => exec i s0 = traps i s0 (if page then .page else .prot) (Config.freeWord (s.draws + 1))
        (BitVec.ofNat 64 code)
    | none => goes { s with draws := s.draws + 1 }

/-- The access lies inside its tile and is aligned (R143). -/
def InTile (f : MForm) (len : Nat) : Prop :=
  0 ≤ f.off.toInt ∧ f.off.toInt + f.bytes ≤ len ∧ f.off.toInt % f.bytes = 0

/-- The bytes that every tile under a fill has: the smallest member's. -/
def sharedLength (s : State) (ms : List Nat) : Nat :=
  ms.foldl (fun n e => min n (s.entry e).len.toNat) (s.entry (ms.headD 0)).len.toNat

/-- Where HSEND sends: B is a COORD value whose slot takes the handle, C names another package with bit 8 (R141). -/
def handleDest (b c : Word) : Dest2 :=
  { remote := if c.getLsbD 8 then some (c.toNat % 256) else none, die := coordDie b, y := coordY b, x := coordX b }

/-- A message that leaves the running slot: it stands last in the send queue of its core, from which what may goes into the
mesh (R230). -/
def messageSent (s : State) (m : Msg) (d : Dest2) : State :=
  let q : FlyingMsg := { id := s.nextId, msg := m, src := s.cur, dst := d.core
                         remote := d.remote.filter (fun p => p != s.pkgid.toNat), lid := s.lidOf s.cur }
  let s1 : State := { s with nextId := s.nextId + 1 }
  ((s1.modCore s.myCore (fun c => { c with sendQueue := c.sendQueue ++ [q] })).countSent (s.lidOf s.cur)).pump s.myCore

/-- No reserved bit of B or C is set, and a package is named only with bit 8 (R141). -/
def DestWellFormed (b c : Word) : Prop :=
  b.toNat / 4 % 64 = 0 ∧ c.toNat / 512 = 0 ∧ (c.getLsbD 8 = false → c.toNat % 256 = 0)

/-- Every ring that a reservation takes a slot of: configured, no link itself, and its tail slot free since an earlier
cycle (R147). -/
def TailFree (s : State) (t : Nat × Nat) : Prop :=
  let r := (s.slot t.1).ring t.2
  r.configured = true ∧ r.link = false ∧ s.ringState r r.t = .free ∧ (r.slotAt r.t).freed ≠ some s.cycle

/-- A slot is reserved in every ring of a list. -/
def reserveAll (s : State) (ts : List (Nat × Nat)) : State := ts.foldl (fun s t => s.reserve t.1 t.2) s

/-! ## The vector unit (R170 to R193) -/

/-- An elementwise instruction: the sources it reads and the formats it takes, and what it makes of the elements at one
place, from the format, the rounding mode, the elements, the place, and the mask bit there. -/
structure Elementwise where
  f : VForm
  op : VOp
  fn : State → ElemFn

/-- A float result: exact, rounded once, poisoned with any source element (R57, R181). -/
def rounded (f : VForm) (g : Nat → List FVal → Exact) : State → ElemFn := fun _ fd rnd es _ _ _ =>
  let r := ((fmtFloat fd).getD f32).round rnd (f.sat == 1) (g rnd (es.map Elem.val))
  ({ bits := r.1, poison := es.any Elem.poison }, r.2)

/-- A result taken from the bits of a float format. -/
def fromBits (g : FFmt → Nat → Nat → Nat × FlagBits) : State → ElemFn := fun _ fd _ es _ _ _ =>
  let r := g ((fmtFloat fd).getD f32) (elemBits es 0) (elemBits es 1)
  ({ bits := r.1, poison := es.any Elem.poison }, r.2)

/-- An integer result, modulo 2^w for elements of w bits, without flags (R183). -/
def modular (g : Nat → Nat → Nat → Int) : State → ElemFn := fun _ fd _ es _ _ _ =>
  ({ bits := (g (fmtBits fd) (elemBits es 0) (elemBits es 1) % 2 ^ fmtBits fd).toNat, poison := es.any Elem.poison }, 0)

/-- Sums, differences and products of integers: under SAT the nearest number of the range that SIGN selects. -/
def saturating (f : VForm) (g : Int → Int → Int) : State → ElemFn := modular (fun w a b =>
  let signed := f.sign == 1
  let r := g (readInt signed w a) (readInt signed w b)
  if f.sat = 1 then max (intMin signed w) (min r (intMax signed w)) else r)

def floatElements (f : VForm) (srcs : List Src) (factor : Nat) (g : Nat → List FVal → Exact) : Elementwise :=
  { f := f, op := { srcs := srcs, accept := acceptFloat, factor := factor }, fn := rounded f g }
def bitElements (f : VForm) (srcs : List Src) (g : FFmt → Nat → Nat → Nat × FlagBits) : Elementwise :=
  { f := f, op := { srcs := srcs, accept := acceptFloat }, fn := fromBits g }
def intElements (f : VForm) (accept : Accept) (fn : State → ElemFn) : Elementwise :=
  { f := f, op := { srcs := [f.srcA, f.srcB], accept := accept, integer := true }, fn := fn }

/-- The elementwise instructions (R181 to R184, R187). -/
def elementwiseOf : Instr → Option Elementwise
  | .vadd f => some (floatElements f [f.srcA, f.srcB] 1 (fun rnd xs => addExact rnd (arg xs 0) (arg xs 1)))
  | .vsub f => some (floatElements f [f.srcA, f.srcB] 1 (fun rnd xs => addExact rnd (arg xs 0) (arg xs 1).neg))
  | .vmul f => some (floatElements f [f.srcA, f.srcB] 1 (fun _ xs => mulExact (arg xs 0) (arg xs 1)))
  | .vfma f => some (floatElements f [f.srcA, f.srcB, f.srcC] 1
      (fun rnd xs => fmaExact rnd (arg xs 0) (arg xs 1) (arg xs 2)))
  | .vmin f => some (bitElements f [f.srcA, f.srcB] (fun t a b => t.minMax false a b))
  | .vmax f => some (bitElements f [f.srcA, f.srcB] (fun t a b => t.minMax true a b))
  | .vabs f => some (bitElements f [f.srcA] (fun t a _ => (t.absBits a, 0)))
  | .vneg f => some (bitElements f [f.srcA] (fun t a _ => (t.negBits a, 0)))
  | .vrcp f => some (floatElements f [f.srcA] 4 (fun _ xs => divExact (.fin false 1 0) (arg xs 0)))
  | .vrsq f => some (floatElements f [f.srcA] 4 (fun _ xs => rsqrtExact (arg xs 0)))
  | .vexp2 f => some (floatElements f [f.srcA] 4 (fun _ xs => exp2Exact (arg xs 0)))
  | .vlog2 f => some (floatElements f [f.srcA] 4 (fun _ xs => log2Exact (arg xs 0)))
  | .vtanh f => some (floatElements f [f.srcA] 4 (fun _ xs => tanhExact (arg xs 0)))
  | .viadd f => some (intElements f acceptInt (saturating f (fun a b => a + b)))
  | .visub f => some (intElements f acceptInt (saturating f (fun a b => a - b)))
  | .vimul f => some (intElements f acceptInt (saturating f (fun a b => a * b)))
  | .vand f => some (intElements f acceptInt (modular (fun _ a b => (a &&& b : Nat))))
  | .vor f => some (intElements f acceptInt (modular (fun _ a b => (a ||| b : Nat))))
  | .vxor f => some (intElements f acceptInt (modular (fun _ a b => (a ^^^ b : Nat))))
  | .vshl f => some (intElements f acceptInt (modular (fun w a b => (a * 2 ^ (b % w) : Nat))))
  | .vshr f => some (intElements f acceptInt (modular (fun w a b => (a / 2 ^ (b % w) : Nat))))
  | .vsra f => some (intElements f acceptInt (modular (fun w a b => readInt true w a / 2 ^ (b % w))))
  | .vimin f => some (intElements f acceptInt (modular (fun w a b =>
      let signed := f.sign == 1
      if readInt signed w a ≤ readInt signed w b then readInt signed w a else readInt signed w b)))
  | .vimax f => some (intElements f acceptInt (modular (fun w a b =>
      let signed := f.sign == 1
      if readInt signed w a ≤ readInt signed w b then readInt signed w b else readInt signed w a)))
  | .vhash f => some (intElements f accept32 (modular (fun _ a b =>
      (hash32 (BitVec.ofNat 32 a) (BitVec.ofNat 32 b) (f.imm.zeroExtend 32)).toNat)))
  | .vidx f => some
      { f := f, op := { srcs := [f.srcA], accept := acceptInt, integer := true, scalarOnly := true }
        fn := fun s fd _ es i j _ =>
          ({ bits := (elemBits es 0 + i * (s.me.view f.d).cols + j) % 2 ^ fmtBits fd, poison := es.any Elem.poison }, 0) }
  | .vsel f => some
      { f := f, op := { srcs := [f.srcA, f.srcB], accept := acceptPlain, every := true }
        fn := fun _ _ _ es _ _ act => (es.getD (if act then 0 else 1) {}, 0) }
  | _ => none

/-- The moves of R187 with a shape rule of their own: which element of A goes to place (i, j). -/
def moveFromOf : Instr → Option (VForm × (View → View → Act Unit) × (Nat → Nat → Nat × Nat))
  | .vbcast f => some (f, bcastShape f, fun _ _ => (f.pickRow, f.pickCol))
  | .vtrn f => some (f, trnShape f, fun i j => (j, i))
  | _ => none

/-- The lookups of R185 and R187: which source is the table, which the index, and whether the table's rows suit. -/
structure Lookup where
  f : VForm
  table : Src
  index : Src
  integer : Bool
  rowsOk : Nat → Nat → Bool

def lookupOf : Instr → Option Lookup
  | .vlut f => some { f := f, table := f.srcB, index := f.srcA, integer := true, rowsOk := fun t _ => t == 1 }
  | .vperm f => some { f := f, table := f.srcA, index := f.srcB, integer := false, rowsOk := fun t d => t == 1 || t == d }
  | _ => none

/-- The reductions of R188 and R189: the formats, whether the index is written, and the value. -/
structure Reduction where
  f : VForm
  accept : Accept
  ix : Bool
  fn : VForm → Nat → Nat → Indexed → Reduced

def reductionOf : Instr → Option Reduction
  | .vrsum f => some { f := f, accept := acceptReduce, ix := false, fn := reduceSum }
  | .vrmin f => some { f := f, accept := acceptReduce, ix := false, fn := reduceExtreme false }
  | .vrmax f => some { f := f, accept := acceptReduce, ix := false, fn := reduceExtreme true }
  | .vrmini f => some { f := f, accept := acceptReduce, ix := true, fn := reduceExtreme false }
  | .vrmaxi f => some { f := f, accept := acceptReduce, ix := true, fn := reduceExtreme true }
  | .vror f => some { f := f, accept := acceptInt, ix := false
                      fn := fun _ _ _ xs => { bits := xs.foldl (fun a x => a ||| x.2.bits) 0 } }
  | _ => none

/-- No enabled flag among those of a step (R55). -/
def Silent (s : State) (fl : FlagBits) : Prop := fl &&& s.me.fenable = 0

/-- VSET's fields: offset and row stride from A, rows and columns from B (R180). -/
structure Shape where
  off : Nat
  stride : Nat
  rows : Nat
  cols : Nat

def shapeOf (a b : Word) : Shape :=
  { off := a.toNat % 65536, stride := a.toNat / 65536, rows := b.toNat % 256, cols := b.toNat / 256 }

/-- A view that VSET accepts (R179, R180). -/
def Shape.Fits (x : Shape) (fmt : Nat) : Prop :=
  1 ≤ x.rows ∧ x.rows ≤ 64 ∧ 1 ≤ x.cols ∧ x.cols ≤ 64 ∧ x.off % fmtAlign fmt = 0 ∧ x.stride % fmtAlign fmt = 0
    ∧ (1 < x.rows → rowBytes fmt x.cols ≤ x.stride)
    ∧ x.off + (x.rows - 1) * x.stride + rowBytes fmt x.cols ≤ 0x10000

/-- The view those fields make. -/
def Shape.view (x : Shape) (fmt : BitVec 8) : View :=
  { fmt := fmt.extractLsb' 0 4, cols1 := BitVec.ofNat 6 (x.cols - 1), rows1 := BitVec.ofNat 6 (x.rows - 1)
    stride := BitVec.ofNat 16 x.stride, off := BitVec.ofNat 16 x.off }

/-! ### Memory through views (R191 to R193) -/

/-- The units of a view in row-major order (R192): the blocks of a px8 row, the bytes of a row of q4 codes, of which the last
one of an odd row moves its low code only, or the elements. -/
def unitsOf (v : View) : List ViewPart :=
  ((List.range v.rows).map (fun i =>
    if v.format = fmtPx8 then
      (List.range ((v.cols + 31) / 32)).map (fun b => { rel := i * v.stride.toNat + 32 * b, len := 32, low := false })
    else if v.format = fmtQ4 then
      (List.range ((v.cols + 1) / 2)).map (fun b =>
        { rel := i * v.stride.toNat + b, len := 1, low := decide (2 * b + 1 = v.cols) })
    else
      (List.range v.cols).map (fun j =>
        { rel := i * v.stride.toNat + j * (fmtBits v.format / 8), len := fmtBits v.format / 8, low := false }))).flatten

/-- Every one of a list has its place, found in order, from the state in which the one before it left the machine. -/
def Placed {α : Type} (locate : α → Act (List Piece)) : State → List (α × List Piece) → State → Prop
  | s, [], t => t = s
  | s, x :: rest, t => ∃ s', locate x.1 s = .ok (x.2, s') ∧ Placed locate s' rest t

/-- No byte of which only one code moves is stored to host memory (R192). -/
def NibblesFit (us : List (ViewPart × List Piece)) : Prop :=
  ∀ u ∈ us, u.1.low = true → u.2.all (fun p => p.place != .host) = true

/-- A unit lies inside every tile of a handle (R143, R192). -/
def UnitInTiles (s : State) (f : MForm) (tiles : List Nat) (u : ViewPart) : Prop :=
  0 ≤ f.off.toInt + u.rel ∧ f.off.toInt + u.rel + u.len ≤ sharedLength s tiles

/-- Accesses sent one after another, each under the next identity. -/
def sendLoads (s : State) (xs : List Acc) : State :=
  xs.foldl (fun s x => ({ s with nextId := s.nextId + 1 } : State).sendLoad { x with id := s.nextId }) s
def sendStores (s : State) (xs : List Acc) : State :=
  xs.foldl (fun s x => ({ s with nextId := s.nextId + 1 } : State).sendStore { x with id := s.nextId }) s

/-- A view owed to a load: the unit is busy for n cycles, the view's span is owed, and a result waits for what is loaded, to
land n cycles after the last of it (R33, R192). -/
def awaitsView (s : State) (code : Code) (n : Nat) : State :=
  { s.modCore s.myCore (fun c => { c with vectorBusy := s.cycle + n }) with
    nextId := s.nextId + 1
    spans := s.spans ++ [{ id := s.nextId, slot := s.cur, core := s.myCore, window := s.me.window
                           lo := (s.me.view code).lo, hi := (s.me.view code).hi, held := false }]
    results := s.results ++ [{ id := s.nextId, slot := s.cur, core := s.myCore, tail := n }] }

/-- The cycles that a view's units keep the vector unit busy (R170). -/
def viewCycles (s : State) (code : Code) : Nat :=
  vectorCycles (s.me.view code).rows (s.me.view code).cols [(s.me.view code).format]

/-- Where a unit of a view stands in the arena of the core. -/
def unitOffset (s : State) (code : Code) (u : ViewPart) : Nat :=
  s.me.window.toNat * 0x10000 + (s.me.view code).off.toNat + u.rel

/-- The loads of a view's units, one for each. -/
def viewLoading (s : State) (f : MForm) (ord : BitVec 2) (scope : Nat) (us : List (ViewPart × List Piece)) : State :=
  sendLoads (awaitsView s f.d (viewCycles s f.d)) (us.map (fun u =>
    { id := 0, kind := .load, ord := ord, scope := scope, pieces := u.2, evict := f.evict, rdc := f.rdc
      dest := if u.1.low then .nibble s.nextId (unitOffset s f.d u.1) false else .vector s.nextId (unitOffset s f.d u.1) }))

/-- The stores of a view's units, one for each, whose bytes are those of the view now: once for every tile stored to. -/
def viewStoring (s : State) (f : MForm) (ord : BitVec 2) (scope copies : Nat) (us : List (ViewPart × List Piece)) : State :=
  let m := s.memAt (.arena s.myCore)
  sendStores (s.occupy (viewCycles s f.d)) (us.map (fun u =>
    { id := 0, kind := if u.1.low then .nibble else .store, ord := ord, scope := scope, pieces := u.2
      data := (List.replicate copies (m.bytes (unitOffset s f.d u.1) u.1.len)).flatten
      poison := m.poisonIn (unitOffset s f.d u.1) u.1.len, evict := f.evict, rdc := f.rdc }))

/-- The format of the indices of VGATH and VSCAT: a view's own, a register's s32 (R193). -/
def laneFormat (s : State) (f : RForm) : Nat := if f.b.isView then (s.me.view f.b).format else fmtS32

/-- The active elements of VGATH and VSCAT in row-major order, with their indices (R193). -/
def lanesOf (s : State) (f : RForm) : List Lane :=
  ((positions (s.me.view f.d).rows (s.me.view f.d).cols).filter (fun p =>
    (s.me.mask (maskNumber f.c)).active p.1 p.2)).map (fun p =>
      let e := (s.vOperand f.b (laneFormat s f)).at s p.1 p.2
      { i := p.1, j := p.2, index := readInt (laneFormat s f == fmtS32) 32 e.bits, poison := e.poison })

/-- The bytes of an element, and the address of an active one: the base and its index in elements, modulo 2^64. -/
def laneBytes (s : State) (f : RForm) : Nat := fmtBits (s.me.view f.d).format / 8
def laneAddress (s : State) (f : RForm) (x : Lane) : Nat :=
  (((s.me.pair f.a.toNat).w.toNat + x.index * laneBytes s f) % 2 ^ 64).toNat

/-- The formats, the shape of the indices, and the poison that VGATH and VSCAT ask for (R193). -/
def LanesRead (s : State) (f : RForm) : Prop :=
  acceptPlain (s.me.view f.d).format = true ∧ (laneFormat s f = fmtS32 ∨ laneFormat s f = fmtB32)
    ∧ (f.b.isView = true → ((s.me.view f.b).rows = (s.me.view f.d).rows ∨ (s.me.view f.b).rows = 1)
        ∧ ((s.me.view f.b).cols = (s.me.view f.d).cols ∨ (s.me.view f.b).cols = 1))
    ∧ (s.me.pair f.a.toNat).poison = false ∧ ∀ x ∈ lanesOf s f, x.poison = false

/-- And the alignment of the elements. -/
def LanesFit (s : State) (f : RForm) : Prop :=
  LanesRead s f ∧ ∀ x ∈ lanesOf s f, laneAddress s f x % laneBytes s f = 0

/-- A vector access has passed the checks that come before its address, and writes or reads: through a base (VLD, VST), a
handle (VLDH, VSTH) or the elements of an index (VGATH, VSCAT). -/
def ViewReady (i : Instr) (f : MForm) (write : Bool) (s : State) : Prop :=
  modeLegal i s.me.xlt = true
    ∧ ((i = .vld f ∧ write = false ∧ vectorReady [f.srcA] [{ code := f.d }] [] true s = .ok ((), s))
      ∨ (i = .vst f ∧ write = true ∧ vectorReady [f.srcA, f.srcD 1] [] [] false s = .ok ((), s)))
def TileViewReady (i : Instr) (f : MForm) (write : Bool) (w : DWord) (s : State) : Prop :=
  modeLegal i s.me.xlt = true
    ∧ ((i = .vldh f ∧ write = false ∧ vectorReady [] [{ code := f.d }] [] true s = .ok ((), s)
        ∧ hget f.a .live s = .ok (w, s)
        ∧ (handleKind w = kindSee → (s.wordEntry w).state = .published ∧ (s.wordEntry w).settled ≠ some s.cycle))
      ∨ (i = .vsth f ∧ write = true ∧ vectorReady [f.srcD 1] [] [] false s = .ok ((), s)
        ∧ hget f.a .fill s = .ok (w, s)))
def LanesReady (i : Instr) (f : RForm) (write : Bool) (s : State) : Prop :=
  modeLegal i s.me.xlt = true ∧ LanesRead s f
    ∧ ((i = .vgath f ∧ write = false
        ∧ vectorReady [f.srcA 2, f.srcB] [{ code := f.d }] [maskNumber f.c] true s = .ok ((), s))
      ∨ (i = .vscat f ∧ write = true
        ∧ vectorReady [f.srcA 2, f.srcB, { code := f.d }] [] [maskNumber f.c] false s = .ok ((), s)))

/-- The tiles that a vector access through a handle reaches: all of a fill's for a store, one for a load. -/
def accessTiles (s : State) (w : DWord) (write : Bool) : List Nat :=
  (s.membersOf (handleEntry w)).take (if write then (s.membersOf (handleEntry w)).length else 1)

/-! ## The matrix unit and the log (R195 to R262) -/

/-- The tile instructions with their operation codes (R195). -/
def tileOf : Instr → Option (Nat × TForm)
  | .tmma f => some (0x40, f) | .tmms f => some (0x41, f) | .tadd f => some (0x42, f) | .temul f => some (0x43, f)
  | .tact f => some (0x44, f) | .ttrn f => some (0x45, f) | .tred f => some (0x46, f) | .tcvt f => some (0x47, f)
  | .tsmx f => some (0x48, f) | .tzero f => some (0x49, f)
  | _ => none

/-- Slot i of core c of a cluster, and how many of a round of four come before n when it begins after the last. -/
def slotOfCluster (cl c i : Nat) : Nat := coreOfCluster cl c * 4 + i
def rank (last n : Nat) : Nat := (n + 3 * (last + 1)) % 4

/-- The slot of a core of a cluster that the unit granted last. -/
def lastSlot (s : State) (cl c : Nat) : Nat := (s.cluster cl).matrixSlot.get (fun _ => 3) c

/-- A slot with its request for the unit posted, since the cycle of the first one (R195). -/
def requesting (s : State) : State := s.setMe { s.me with request := some (s.me.request.getD s.cycle) }

/-- A word that TFMT accepts: three formats below 0xD, FOLD, and no other bit (R198). -/
def ContextWord (a : Word) : Prop :=
  a.toNat / 2 ^ 13 = 0 ∧ a.toNat % 16 < 0xD ∧ a.toNat / 16 % 16 < 0xD ∧ a.toNat / 256 % 16 < 0xD

/-- What TREV asks of its mark: it is not poisoned, and lies in the log at a record's place (R258). -/
def MarkFits (s : State) (a : Val) : Prop := a.poison = false ∧ a.w.toNat % 64 = 0 ∧ a.w.toNat ≤ s.me.tltail.toNat

/-- Recording is suspended while a TREV is under way. -/
def suspended (s : State) : State := s.setMe { s.me with trcSusp := true }

/-- The slot when TREV ends at a mark: the log is cut there, and recording goes on (R258). -/
def reversed (s : State) (pc : Word) (a : Word) : Slot :=
  { s.me with tltail := a, trcSusp := false, recent := s.me.recent.filter (fun r => decide (r.off < a))
              pc := pc + 8, lastPc := pc, retired := s.me.retired + 1
              kmeter := if s.me.xlt then s.me.kmeter - 1 else s.me.kmeter
              parked := none, request := none, granted := false, arrival := none, atsFail := none, atsOnce := [] }

/-- What a grant of TREV leaves, of an instruction that began in state s: it retires where no record is left, else it keeps
its progress and waits for the next grant, with no word of a link port or inbox taken (R28). -/
def afterGrant (s t : State) (a : Word) : Outcome :=
  if t.me.revsLeft a then
    let u := s.unpop t
    .next ((u.setMe { u.me with granted := false, request := none, parked := none }).issued s.cur)
  else .next ((t.setMe (reversed t s.me.pc a)).issued s.cur)

/-- A gradient view that is written is owed until its request lands (R253). -/
def owing (s : State) (id : Nat) (g : Option Gradient) (written : Bool) : State :=
  match g with
  | some g =>
    if g.view && written then
      { s with spans := s.spans ++ [{ id := id, slot := s.cur, core := s.myCore, window := s.me.window, lo := g.base
                                      hi := g.hi, held := false }] }
    else s
  | none => s

/-- The shares of a request, added to a gradient: the request's identity, and the state, in which its flags and counts wait
to land and the gradient is owed. -/
def shared (s : State) (g : Option Gradient) (xs : List Share) : Nat × State :=
  let r := match g with
    | some g => s.accumulate g xs
    | none => ([], s)
  (r.2.nextId, owing { r.2 with
    nextId := r.2.nextId + 1
    results := r.2.results ++ [{ id := r.2.nextId, slot := r.2.cur, core := r.2.myCore, flags := cellFlags r.1
                                 counts := cellCounts r.1 }] } r.2.nextId g (!xs.isEmpty))

/-- A request of TREV is granted: the unit is busy for its occupancy, and it lands ten cycles later. -/
def grantedRequest (s : State) (id occ : Nat) : State :=
  (s.schedule (s.cycle + occ + 10) .tileResultsLand [s.cur, id]).modCluster (clusterOfCore s.myCore) (fun c =>
    { c with matrixBusy := s.cycle + occ })

/-- The first grant of a record (R250, R253): D's gradient is cleared where it must be, A's takes its shares, as B's does
where there is no second request; else what B's takes waits for its own grant. -/
def firstGrant (p : ReversePlan) (s : State) : State :=
  let x := p.input s
  let bs := p.place x.job x.shares.2
  let clears := p.clears x x.shares.1 bs
  let s1 := match p.dGrad with
    | some d => clears.foldl (fun s e => s.writeGradient d e.1 e.2 0 false) s
    | none => s
  let r := shared s1 p.aGrad x.shares.1
  let s2 := grantedRequest (owing r.2 r.1 p.dGrad (!clears.isEmpty)) r.1 (x.requests.headD 1)
  match x.requests with
  | [_, b] => s2.setMe { s2.me with reversal := some { prev := p.record.prev, occ := b, grad := p.bGrad, shares := bs } }
  | _ => s2.setMe { s2.me with trcur := p.record.prev }

/-- The grant of a record's second request. -/
def secondGrant (v : Reversal) (s : State) : State :=
  let r := shared s v.grad v.shares
  let t := grantedRequest r.2 r.1 v.occ
  t.setMe { t.me with reversal := none, trcur := v.prev }

/-! ## Copies, messages, tasks and events (R221 to R237, R265 to R284) -/

/-- The copies: whether D names a fill handle, and whether that fill may cover one tile only (R224). -/
def copyOf : Instr → Option (RForm × Bool × Bool)
  | .cpy f => some (f, false, false)
  | .cpyh f => some (f, true, true)
  | .cpym f => some (f, true, false)
  | _ => none

/-- The word of the fill handle that a copy takes, and the bytes that it may fill: those that its tiles share, or of a tile of
another package its length, which is open here (R133, R224). -/
def FillOf (handle single : Bool) (f : RForm) (s : State) (w : DWord) (len : Option Nat) : Prop :=
  let ms := s.membersOf (handleEntry w)
  if handle then
    hget f.d .fill s = .ok (w, s)
      ∧ (single = true → handleKind w = kindJoint → (if s.away w then Config.remoteMembers w else ms.length) ≤ 1)
      ∧ len = some (if s.away w then Config.remoteLength w else sharedLength s ms)
  else w = 0 ∧ len = none

/-- A descriptor that a copy accepts (R222, R223): its fields, its alignment and its footprints. -/
def CopyFits (handle : Bool) (len : Option Nat) (bs : List Byte) (extra : Nat) : Prop :=
  descWellFormed bs = true ∧ (parseDesc bs).aligned extra = true ∧ (parseDesc bs).fits extra len = true
    ∧ (handle = true → (parseDesc bs).dst = 0 ∧ (parseDesc bs).dstSpace = 0)

/-- The message that RECV finds: the current one, which must match, or else the oldest that matches (R236). -/
def Selected (c : Core) (sel : Word) (i : Nat) (m : Msg) : Prop :=
  c.inbox[i]? = some m
    ∧ (c.current = some i ∧ tagMatches sel m.tag = true ∨ c.current = none ∧ c.selectMsg sel = some i)

/-- The waits for a word in memory: the address pair, the limit, and when the word lets it go on (R274, R276). -/
structure WordWait where
  f : RForm
  srcs : List Src
  /-- JOIN: B is the limit, and the word may not be in host memory. -/
  join : Bool
  /-- The word is compared with B, or with zero as a signed number. -/
  go : Word → Word → Bool

def wordWaitOf : Instr → Option WordWait
  | .join f => some { f := f, srcs := [f.srcA 2, f.srcB], join := true, go := fun _ v => decide (v.toInt ≤ 0) }
  | .waitq f => some { f := f, srcs := [f.srcA 2, f.srcB, f.srcC], join := false, go := fun b v => decide (v ≠ b) }
  | _ => none

/-- The operands of such a wait, taken: the address is aligned and has a place that may be read. -/
def WaitsAt (i : Instr) (x : WordWait) (s : State) (b limit : Word) (t : Place × Nat) (u : State) : Prop :=
  ∃ (s1 s2 : State) (vb vl : Val), Ready i x.srcs [] s ∧ s.take x.f.b = some (vb, s1)
    ∧ (if x.join then s2 = s1 ∧ vl = vb else s1.take x.f.c = some (vl, s2))
    ∧ vb.w = b ∧ vl.w = limit ∧ vl.poison = false ∧ (s.me.pair x.f.a.toNat).poison = false
    ∧ (s.me.pair x.f.a.toNat).w.toNat % 4 = 0
    ∧ (x.join = true → s2.hostDelegated (s2.translatorOf s.cur) (s.me.pair x.f.a.toNat).w.toNat = false)
    ∧ translateMe (s.me.pair x.f.a.toNat).w.toNat false s2 = .ok (t, u)

/-- The park of such a wait (R277, R289). -/
def waitFor (s : State) (x : WordWait) (t : Place × Nat) : Wait :=
  { xval := (s.me.pair x.f.a.toNat).w, reason := 0x09, hostWake := t.1 == .host, word := some t }

/-- The task descriptor that FORK makes of eight registers and the handles it names (R265, R266). -/
def forked (v : Nat → Word) (entry : Word) (ws : List DWord) : TaskDesc :=
  { entry := entry, ctrl := v 4 &&& 0xFFFFFFF0, tile := v 5, args := [v 0, v 1, v 2, v 3]
    jaddr := if (v 4).getLsbD 7 then v 7 ++ v 6 else 0, handles := ws }

/-- What FORK asks of its registers (R266). -/
def ForkFits (s : State) (v : Nat → Word) (entry : Word) : Prop :=
  (v 4).toNat / 256 % 256 = 0 ∧ (v 4).toNat % 16 + (v 4).toNat / 16 % 4 ≤ 16 ∧ s.me.cbase.toNat ≤ entry.toNat
    ∧ entry.toNat < s.me.cbound.toNat ∧ ((v 4).getLsbD 7 = false → v 6 = 0 ∧ v 7 = 0)

/-- The join counter of a task: its place, which no host memory is, where the task has one (R267). -/
def JoinPlace (s s1 : State) (joins : Bool) (j : DWord) : Prop :=
  if joins then ∃ t, j.toNat % 4 = 0 ∧ translateMe j.toNat true s = .ok (t, s1) ∧ t.1 ≠ .host else s1 = s

/-- Both operands of an event instruction, not poisoned (R279). -/
def EventWords (i : Instr) (f : RForm) (s s2 : State) (a b : Word) : Prop :=
  ∃ s1 va vb, Ready i [f.srcA, f.srcB] [] s ∧ s.take f.a = some (va, s1) ∧ s1.take f.b = some (vb, s2)
    ∧ va.poison = false ∧ vb.poison = false ∧ va.w = a ∧ vb.w = b

def myCluster (s : State) : Nat := clusterOfCore s.myCore

/-! ## Packets of the front end (R326 to R349) -/

/-- A packet has its end decided. -/
def Decided (t : State) (id : Nat) (v : EndValues) : Prop := ∃ q, t.packet id = some q ∧ q.result = some v

/-- The step acts on a packet that has been taken and whose end is open. -/
def Working (s : State) (p : Packet) : Prop := s.subject = [p.id] ∧ s.packet p.id = some p ∧ p.result = none

/-- A packet's end is decided, and its report has not been made. It is not one that was dropped before it was taken. -/
def Ending (s : State) (p : Packet) (v : EndValues) : Prop :=
  s.subject = [p.id] ∧ s.packet p.id = some p ∧ p.result = some v ∧ p.dropped = false

/-- The plan of a LAUNCH, if it has one, is for the dies that its world has now: it need not be made again. -/
def Planned (s : State) (p : Packet) (x : LoadPlan) : Prop := p.plan = some x ∧ x.dies = s.partition p.wid
def Unplanned (s : State) (p : Packet) : Prop := ∀ x, p.plan = some x → x.dies ≠ s.partition p.wid

/-- What ERRSIG names (R333): the signal that aborted a BARRIER, and 0 for any other failure. -/
def abortedBy (p : Packet) (v : EndValues) : DWord :=
  match p.verdict with
  | some (some va) => if v.status = Cause.abort.code.toNat then BitVec.ofNat 64 va else 0
  | _ => 0

/-- The packets that do one thing and complete, and that thing. -/
def shortPacket : Instr → Packet → Option (Front Unit)
  | .nopPacket, _ => some (pure ())
  | .timestampPacket, p => some (frontWrite p.translator (p.field 32 8) (noPoison (bytesOfWord 8 p.taken)))
  | .signalPacket, p => some (frontUpdate p.translator (p.field 32 8) (fun old =>
      signalValue (p.field 40 1) old (BitVec.ofNat 64 (p.field 48 8))))
  | _, _ => none

/-- The value a SIGNAL leaves (R327): its operand, or the sum of two signed numbers, and −1 where that has no 64-bit form. -/
def signalled (op : Nat) (old v : DWord) : DWord :=
  if op = 1 then v
  else if -(2 ^ 63) ≤ old.toInt + v.toInt ∧ old.toInt + v.toInt < 2 ^ 63 then BitVec.ofInt 64 (old.toInt + v.toInt)
  else BitVec.allOnes 64

/-- The host signals of a BARRIER stand where they were found: their pages are still translated so (R326, R17). -/
def Standing (u : State) (p : Packet) (conds : List Cond) : Prop :=
  conds.filterMap ((u.modPacket p.id (fun q => { q with conds := conds })).placeCond p.translator) = conds

/-- A condition of a BARRIER holds for a signal's value: signed comparisons (R326). -/
def condHolds (c : Cond) (v : DWord) : Prop :=
  match c.cmp with
  | 0 => v = c.thr
  | 1 => v ≠ c.thr
  | 2 => v.toInt < c.thr.toInt
  | 3 => v.toInt ≤ c.thr.toInt
  | 4 => c.thr.toInt < v.toInt
  | _ => c.thr.toInt ≤ v.toInt

/-! ## The Curator and the package (R366 to R394) -/

/-- A request of an operation is in progress at the mailbox: its record stands at a host address. -/
def Requested (s : State) (op a : Nat) : Prop := s.mailbox.busy = some a ∧ s.request 0 2 = op

/-- The request at a host address has been answered with a code (R391). -/
def Answered (t : State) (a code : Nat) : Prop :=
  t.mailbox.busy = none ∧ t.mailbox.done = true ∧ (t.hostDown = false → t.hostBytes (a + 32) 4 = le32 code)

/-- The Curator takes a request of a kind from a world's ring (R373); the state after it has been taken off. -/
def Took (s s1 : State) (w op res pa arg : Nat) : Prop :=
  s.subject = [w] ∧ s.nextRequest w = some (op, res, pa, arg) ∧ s1 = s.passRequest w

/-- A world is destroyed (R377): it is no more, and it has no queue and no packet. -/
def Gone (t : State) (w : Nat) : Prop :=
  (t.world w).alive = false ∧ (∀ e ∈ t.queues, e.2.wid ≠ w) ∧ (∀ p ∈ t.packets, p.wid ≠ w) ∧ ∃ n ∈ t.notices, n.wid = w

/-! ## The frame of the register instructions -/

/-- The g registers and other codes that an instruction of registers alone may write: none for a branch, a trap, a NOP. -/
def writesOf (i : Instr) : Option (List Code) :=
  ((binaryOf i).map (fun x => [x.1.d])) <|> ((unaryOf i).map (fun x => [x.1.d])) <|> ((ternaryOf i).map (fun x => [x.1.d]))
    <|> ((pairOf i).map (fun x => [x.1.d, x.1.d + 1])) <|> ((pairTestOf i).map (fun x => [x.1.d]))
    <|> ((pairShiftOf i).map (fun x => [x.1.d, x.1.d + 1])) <|> ((immediateOf i).map (fun x => [x.1.d]))
    <|> ((quotientOf i).map (fun x => [x.1.d])) <|> ((fp32 i).map (fun x => [x.2.d]))
    <|> ((fp64 i).map (fun x => [x.2.d, x.2.d + 1])) <|> ((branchOf i).map (fun _ => []))
    <|> (match i with
      | .addwi f => some [f.d, f.d + 1]
      | .movi f => some [f.d]
      | .fcvt _ f => some [f.d, f.d + 1]
      | .rem f | .remb f => some [f.d]
      | .fdivF64 f | .fsqrtF64 f => some [f.d, f.d + 1]
      | .jal f | .jalr f | .csrr f => some [f.d]
      | .trap _ | .brk _ | .nop _ | .yield _ => some []
      | _ => none)

/-- Whether such an instruction may raise floating-point flags (R65). -/
def floats (i : Instr) : Bool :=
  (fp32 i).isSome || (fp64 i).isSome || (match i with
    | .fcvt _ _ => true
    | _ => false)

/-- What an instruction of registers alone leaves of its slot: views, masks, handles and rings, the trap registers, modes
and bounds, the rounding mode and trap enables, the lookup table, the log and the format context, the task's own words,
and every register not listed. -/
def Kept (s t : Slot) : Prop :=
  t.mode = s.mode ∧ t.cbase = s.cbase ∧ t.cbound = s.cbound ∧ t.taskBase = s.taskBase ∧ t.taskBound = s.taskBound
    ∧ t.views = s.views ∧ t.masks = s.masks ∧ t.handles = s.handles ∧ t.rings = s.rings
    ∧ t.xcause = s.xcause ∧ t.xpc = s.xpc ∧ t.xval = s.xval ∧ t.xval2 = s.xval2 ∧ t.xinst = s.xinst ∧ t.xsave = s.xsave
    ∧ t.fenable = s.fenable ∧ t.frnd = s.frnd ∧ t.mxc = s.mxc ∧ t.tilec = s.tilec ∧ t.window = s.window ∧ t.lut = s.lut
    ∧ t.trcEn = s.trcEn ∧ t.trcSusp = s.trcSusp ∧ t.tlbase = s.tlbase ∧ t.tllim = s.tllim ∧ t.tltail = s.tltail
    ∧ t.trcur = s.trcur ∧ t.gdelta = s.gdelta ∧ t.gvoff = s.gvoff ∧ t.tfmt = s.tfmt ∧ t.ctrl = s.ctrl ∧ t.jaddr = s.jaddr

/-! ## Words of R43 and R47 -/

/-- An R-form word: major, D, A, B, EP, C, FN8 and RND at the bits R42 and R43 give them. -/
def rWord (op d a b ep c fn rnd : Nat) : DWord :=
  BitVec.ofNat 64 (op * 2 ^ 56 + d * 2 ^ 49 + a * 2 ^ 42 + b * 2 ^ 35 + ep * 2 ^ 32 + c * 2 ^ 25 + fn * 2 ^ 17 + rnd * 2 ^ 14)

/-- An I-form word. -/
def iWord (op d a fn ep imm : Nat) : DWord :=
  BitVec.ofNat 64 (op * 2 ^ 56 + d * 2 ^ 49 + a * 2 ^ 42 + fn * 2 ^ 35 + ep * 2 ^ 32 + imm)

end Sys2Proof.Statements

open Sys2Proof.Statements

/-- R42 to R48: whatever the operands, the word of a well-formed instruction decodes to that instruction. -/
def Obligations.DecodeInvertsEncode : Prop :=
  ∀ (i : Instr) (w : DWord), i.wf = true → encode i = some w → decode w = .ok i

/-- R43, R47, R48: a word that decodes is the word of the instruction, which is well formed; so no bit of a word goes
unread, and a word of an unassigned major, or with a reserved bit set, is refused. -/
def Obligations.EncodeInvertsDecode : Prop :=
  (∀ (w : DWord) (i : Instr), decode w = .ok i → i.wf = true ∧ encode i = some w)
  ∧ (∀ (w : DWord), formOf (w.toNat / 2 ^ 56) = none → ∃ e, decode w = .error e)

/-- R43, R47: words put together from the fields decode to the instructions that the tables name. -/
def Obligations.TableWordsDecode : Prop :=
  decode (rWord 0x01 8 9 10 0 0 0x01 0) = .ok (.sub { d := 8, a := 9, b := 10 })
  ∧ decode (iWord 0x02 8 9 0x00 1 0xFFFFFFFF) = .ok (.addi { d := 8, a := 9, ep := 1, imm := 0xFFFFFFFF })
  ∧ decode (rWord 0x11 10 12 14 0 0 0x80 5) = .ok (.faddF64 { d := 10, a := 12, b := 14, rnd := 5 })
  ∧ decode (iWord 0x13 8 0 0x00 0 0x32) = .ok (.csrr { d := 8, imm := 0x32 })
  ∧ decode (iWord 0x15 0 0 0x00 0 0) = .ok (.eret {})
  ∧ (∃ e, decode 0 = .error e)

/-- R20, R21, R40, R42, R50, R52, R292, R312: what a step does for the slot that issues next, first match first: a
pending landing FPTRAP of a task is taken; a program counter that is misaligned or outside the code bound traps FETCHB
with the offset last executed; a word that is not in the core's buffer is waited for; a translator with an exhausted
meter ends its run; a call of an entry of the emulation library runs; else the word at the program counter decides: an
instruction runs, any other word traps. With no slot left the cycle closes, and what is due at its end runs before the
next cycle. -/
def Obligations.StepRunsTheDecodedInstruction : Prop :=
  (∀ (s : State) (k n : Nat), s.frozen = false → s.early = [] → s.closing = false → s.nextIssuer = some (k, n) →
    let s1 : State := { s with cur := k, turn := coreOfSlot k, tried := n }
    let sl := s1.me
    let pending := sl.fptrap ≠ 0 ∧ sl.mode = .task
    let inBounds := sl.pc.toNat % 8 = 0 ∧ sl.cbase.toNat ≤ sl.pc.toNat ∧ sl.pc.toNat < sl.cbound.toNat
    let word := s1.codeWord s1.myDie sl.pc
    (pending → step s = exec .landingFptrap s1)
    ∧ (¬ pending → ¬ inBounds → step s = .next ((({ s1 with draws := s1.draws + 1 } : State).takeTrap k .fetchb
      (sl.lastPc.zeroExtend 64) 0 (Config.freeWord s1.draws)).issued k))
    ∧ (¬ pending → inBounds → s1.fetched k = false → step s = .next (s1.fetchMiss k))
    ∧ (¬ pending → inBounds → s1.fetched k = true → sl.xlt = true → sl.kmeter = 0 → step s = exec .meterExhausted s1)
    ∧ (¬ pending → inBounds → s1.fetched k = true → (sl.xlt = true → sl.kmeter ≠ 0) →
      (∀ e, s1.emulationAt k = some e → step s = s1.runEmulation e)
      ∧ (s1.emulationAt k = none →
        (∀ i, decode word = .ok i → step s = exec i s1)
        ∧ (∀ e, decode word = .error e → step s = exec .illegalInstruction { s1 with subject := [word.toNat] }))))
  ∧ (∀ (s : State), s.frozen = false → s.early = [] → s.closing = false → s.nextIssuer = none → step s = .next s.close)
  ∧ (∀ (s : State) (d : Due) (rest : List Due), s.frozen = false → s.early = [] → s.closing = true → s.agenda = d :: rest →
    (d.at_ ≤ s.cycle → step s = exec d.step { s with agenda := rest, subject := d.subject })
    ∧ (s.cycle < d.at_ → step s = .next s.tick))
  ∧ (∀ (s : State) (d : Due) (rest : List Due), s.frozen = false → s.early = d :: rest →
    step s = exec d.step { s with early := rest, subject := d.subject })

/-- Every step of every state answers: no instruction and no step of a device is refused, and the one stop is the
freeze of an unlocked package (R390), which a power-on reset ends. -/
def Obligations.EveryStepAnswers : Prop :=
  (∀ (i : Instr) (s : State), ∃ t, exec i s = .next t)
  ∧ (∀ (s : State), s.frozen = false → ∃ t, step s = .next t)
  ∧ (∀ (s : State), s.frozen = true →
    (step s = .fault .frozen ↔ s.agenda.all (fun d => !isPowerOn d.step) = true))

/-- The model's memories stay in canonical form over every step: rising addresses, and no byte listed that reads as an
unlisted one does (a form of the model, log entry 3). -/
def Obligations.StepKeepsMemoryForm : Prop :=
  ∀ (s t : State), s.canonical → step s = .next t → t.canonical

/-- The state after reset: its memories are in that form, no slot is occupied, no launch, packet or queue exists,
every die is world 0's, and the time is 0 (R5, R386). -/
def Obligations.ResetState : Prop :=
  State.reset.canonical ∧ State.reset.cycle = 0 ∧ State.reset.time = 0 ∧ State.reset.frozen = false
    ∧ (∀ k, (State.reset.slot k).occupied = false) ∧ State.reset.launches = [] ∧ State.reset.packets = []
    ∧ State.reset.queues = [] ∧ (∀ d, (State.reset.die d).wid = 0) ∧ State.reset.worldAlive 0 = true
    ∧ ∀ w, w ≠ 0 → State.reset.worldAlive w = false

/-- R56: an instruction of registers alone changes no memory and no other slot; where it retires it leaves every
register of its slot but those that its operands name as destinations, every state register but FFLAGS, and FFLAGS too
where it computes on integers. -/
def Obligations.RegisterInstructionFrame : Prop :=
  ∀ (i : Instr) (ds : List Code) (s t : State), writesOf i = some ds → exec i s = .next t →
    (∀ p, t.memAt p = s.memAt p) ∧ (∀ k, k ≠ s.cur → t.slot k = s.slot k)
    ∧ (t.me.retired ≠ s.me.retired → t.me.occupied = true →
      Kept s.me t.me ∧ (floats i = false → t.me.fflags = s.me.fflags)
        ∧ ∀ j, (∀ d ∈ ds, regIndex s.me.mode d.toNat ≠ j) → t.me.regAt j = s.me.regAt j)

/-- R50, R11: which instructions a mode shuts out, and the trap they then take; every other one is legal outside
translator mode. -/
def Obligations.ModesNarrowTheLegalSet : Prop :=
  (∀ (i : Instr) (w : DWord) (s : State), encode i = some w → s.me.xlt = true → 9 < w.toNat / 2 ^ 56 →
    exec i s = traps i s .illegal 0 0)
  ∧ (∀ (i : Instr) (f : MForm) (s : State), (i = .ld f ∨ i = .lds f ∨ i = .st f) → s.me.xlt = true →
    (f.ord ≠ 0 ∨ f.scope ≠ 0 ∨ f.space ≠ 0 ∨ f.evict ≠ 0 ∨ f.rdc ≠ 0 ∨ 3 < f.size.toNat) →
    exec i s = traps i s .illegal 0 0)
  ∧ (∀ (i : Instr) (f : IForm) (s : State), (i = .kend f ∨ i = .kmtr f) → s.me.xlt = false →
    exec i s = traps i s .illegal 0 0)
  ∧ (∀ (f : IForm) (s : State), s.me.xlt = false → s.me.mode = .task → exec (.eret f) s = traps (.eret f) s .priv 0 0)
  ∧ (∀ (i : Instr) (f : IForm) (s : State), (i = .csrr f ∨ (csrWriteOf i).map Prod.fst = some f) → s.me.xlt = false →
    s.me.mode = .task → 1 ≤ f.imm.toNat → f.imm.toNat ≤ 9 → exec i s = traps i s .priv 0 0)
  ∧ (∀ (i : Instr) (w : DWord), encode i = some w → (∀ f, i ≠ .kend f) → (∀ f, i ≠ .kmtr f) → modeLegal i false = true)

/-- R13, R22, R27, R52: an empty source with its EP bit set traps EMPTY with its code, the first in operand order;
without such a source the slot parks on the first empty source, and then on a destination that still waits for a
value. -/
def Obligations.EmptyOperands : Prop :=
  ∀ (i : Instr) (f : RForm) (op : Word → Word → Word) (s : State), binaryOf i = some (f, op) →
    modeLegal i s.me.xlt = true → f.a.toNat < 64 → f.b.toNat < 64 → f.d.toNat < 64 →
    let full := fun (c : Code) => (s.me.reg c.toNat).full
    (full f.a = false → f.ep.getLsbD 0 = true → exec i s = traps i s .empty f.a.toNat 0)
    ∧ (full f.a = true ∨ f.ep.getLsbD 0 = false → full f.b = false → f.ep.getLsbD 1 = true →
      exec i s = traps i s .empty f.b.toNat 0)
    ∧ (full f.a = false → f.ep.getLsbD 0 = false → full f.b = true ∨ f.ep.getLsbD 1 = false →
      exec i s = parks s (waitOn f.a))
    ∧ (full f.a = true → full f.b = false → f.ep.getLsbD 1 = false → exec i s = parks s (waitOn f.b))
    ∧ (full f.a = true → full f.b = true → full f.d = false → exec i s = parks s (waitOn f.d))

/-- R25: each slot has its own g registers; g0 reads as zero, full and unpoisoned, and a write to it is dropped, one
that arrives late too. -/
def Obligations.RegisterZero : Prop :=
  (∀ (s : State) (v : Val), s.take 0 = some ({ w := 0, poison := false }, s) ∧ s.dstWaits { code := 0 } = false
    ∧ (s.put 0 v).me = s.me ∧ (s.put 0 v).take 0 = some ({ w := 0, poison := false }, s.put 0 v))
  ∧ (∀ (sl : Slot) (v : Val), sl.land 0 [v] = sl ∧ (sl.regAt 0).val = 0 ∧ (sl.regAt 0).full = true
    ∧ (sl.regAt 0).poison = false)
  ∧ (∀ (s : State) (c : Code) (v : Val) (k : Nat), c.toNat < 64 → k ≠ s.cur → (s.put c v).slot k = s.slot k)

/-- R75 to R78, R50: TRAP reads A and traps with its immediate as XVAL and A's value as XVAL2, in every mode, whether
or not A is poisoned; BRK traps with its immediate; the saved program counter is the trapping instruction's own. ERET
in handler mode resumes the task at XPC under the task's own bounds, traps PRIV in task mode and ILLEGAL in translator
mode. NOP only moves on and counts. Fields that they do not use are zero. -/
def Obligations.SystemInstructions : Prop :=
  (∀ (f : IForm) (s s1 : State) (a : Val), Ready (.trap f) [f.srcA] [] s → s.take f.a = some (a, s1) →
    exec (.trap f) s = traps (.trap f) s .trap (f.imm.zeroExtend 64) (a.w.zeroExtend 64))
  ∧ (∀ (f : IForm) (x : Bool), modeLegal (.trap f) x = true ∧ (Instr.wf (.trap f) = true → f.d = 0))
  ∧ (∀ (f : IForm) (s : State), modeLegal (.brk f) s.me.xlt = true →
    exec (.brk f) s = traps (.brk f) s .break (f.imm.zeroExtend 64) 0)
  ∧ (∀ (f : IForm), Instr.wf (.brk f) = true → f.d = 0 ∧ f.a = 0 ∧ f.ep = 0)
  ∧ (∀ (i : Instr) (s : State) (l : Launch) (base len : Nat) (c : Cause) (v v2 : DWord) (t : State),
    Handled s c l base len → traps i s c v v2 = .next t → t.me.xpc = s.me.pc)
  ∧ (∀ (f : IForm) (s : State), s.me.xlt = false → s.me.mode = .handler →
    exec (.eret f) s = .next ((s.setMe { s.me with
      mode := .task, cbase := s.me.taskBase, cbound := s.me.taskBound, pc := s.me.xpc }).retireAt s.cur s.me.pc s.me.xpc))
  ∧ (∀ (f : IForm) (s : State), s.me.xlt = false → s.me.mode = .task → exec (.eret f) s = traps (.eret f) s .priv 0 0)
  ∧ (∀ (f : IForm) (s : State), s.me.xlt = true → exec (.eret f) s = traps (.eret f) s .illegal 0 0)
  ∧ (∀ (f : IForm) (s : State), s.me.xlt = false → exec (.nop f) s = retired s s)
  ∧ (∀ (f : IForm), (Instr.wf (.eret f) = true → f = {}) ∧ (Instr.wf (.nop f) = true → f = {}))
  ∧ decode 0x0900141000000077 = .ok (.trap { a := 5, imm := 0x77 })
  ∧ decode 0x1500000800000003 = .ok (.brk { imm := 3 }) ∧ decode 0x1500000000000000 = .ok (.eret {})
  ∧ decode 0x1500001000000000 = .ok (.nop {})

/-- R334: a write of KICK is accepted exactly where the new index lies after the old one and at most NSLOT beyond
RIDX, modulo 2^32; every other write changes nothing. (While a queue drains, R344 has every write ignored.) -/
def Obligations.KickWrites : Prop :=
  ∀ (s : State) (q : Nat) (x : Queue) (w : Word), s.queue q = some x → x.draining = false → x.destroying = false →
    let behind := (x.kick.toNat + 2 ^ 32 - x.ridx.toNat) % 2 ^ 32
    let ahead := (w.toNat + 2 ^ 32 - x.ridx.toNat) % 2 ^ 32
    (behind < ahead ∧ ahead ≤ x.nslot → ∃ t y, exec (.kick q w) s = .next t ∧ t.queue q = some y ∧ y.kick = w)
    ∧ (¬ (behind < ahead ∧ ahead ≤ x.nslot) → exec (.kick q w) s = .next s)

/-- R56, R57, R59, R61: a well-formed instruction of two 32-bit sources reads A, then B, and writes D; the result is
poisoned with any source; nothing else changes but what retiring changes. R56, R57, R61: the instructions of one and
of three 32-bit sources. R60: the instructions of one source and an immediate, ADDWI on a pair, and MOVI. A well-
formed shift has an immediate of at most 31. -/
def Obligations.IntegerResults : Prop :=
  (∀ (i : Instr) (f : RForm) (op : Word → Word → Word) (s s1 s2 : State) (a b : Val),
      binaryOf i = some (f, op) → Ready i [f.srcA, f.srcB] [f.dst] s →
      s.take f.a = some (a, s1) → s1.take f.b = some (b, s2) → Open s2 f.d →
      exec i s = retired s (s2.put f.d { w := op a.w b.w, poison := a.poison || b.poison }))
  ∧ ((∀ (i : Instr) (f : RForm) (op : Word → Word) (s s1 : State) (a : Val),
      unaryOf i = some (f, op) → Ready i [f.srcA] [f.dst] s → s.take f.a = some (a, s1) → Open s1 f.d →
      exec i s = retired s (s1.put f.d { w := op a.w, poison := a.poison }))
    ∧ (∀ (i : Instr) (f : RForm) (op : Word → Word → Word → Word) (s s1 s2 s3 : State) (a b c : Val),
      ternaryOf i = some (f, op) → Ready i [f.srcA, f.srcB, f.srcC] [f.dst] s →
      s.take f.a = some (a, s1) → s1.take f.b = some (b, s2) → s2.take f.c = some (c, s3) → Open s3 f.d →
      exec i s = retired s (s3.put f.d { w := op a.w b.w c.w, poison := a.poison || b.poison || c.poison })))
  ∧ ((∀ (i : Instr) (f : IForm) (op : Word → Word → Word) (s s1 : State) (a : Val),
      immediateOf i = some (f, op) → i.wf = true → Ready i [f.srcA] [f.dst] s → s.take f.a = some (a, s1) → Open s1 f.d →
      exec i s = retired s (s1.put f.d { w := op a.w f.imm, poison := a.poison }))
    ∧ (∀ (f : IForm) (s : State), Instr.wf (.addwi f) = true → Ready (.addwi f) [f.srcA 2] [f.dst 2] s →
      let a := s.me.pair f.a.toNat
      let r : Val2 := { w := BitVec.ofInt 64 (a.w.toNat + f.imm.toInt), poison := a.poison }
      exec (.addwi f) s = retired s ((s.put f.d r.lo).put (f.d + 1) r.hi))
    ∧ (∀ (f : IForm) (s : State), Ready (.movi f) [] [f.dst] s → Open s f.d →
      exec (.movi f) s = retired s (s.put f.d { w := f.imm })))

/-- R56, R57, R59, R61: the instructions of register pairs, low word first. The pairs of a well-formed word are g
registers of even number. -/
def Obligations.PairResults : Prop :=
  (∀ (i : Instr) (f : RForm) (op : DWord → DWord → DWord) (s : State),
    pairOf i = some (f, op) → i.wf = true → Ready i [f.srcA 2, f.srcB 2] [f.dst 2] s →
    let a := s.me.pair f.a.toNat
    let b := s.me.pair f.b.toNat
    let r : Val2 := { w := op a.w b.w, poison := a.poison || b.poison }
    exec i s = retired s ((s.put f.d r.lo).put (f.d + 1) r.hi))
  ∧ (∀ (i : Instr) (f : RForm) (op : DWord → DWord → Bool) (s : State),
    pairTestOf i = some (f, op) → Ready i [f.srcA 2, f.srcB 2] [f.dst] s → Open s f.d →
    let a := s.me.pair f.a.toNat
    let b := s.me.pair f.b.toNat
    exec i s = retired s (s.put f.d { w := flag (op a.w b.w = true), poison := a.poison || b.poison }))
  ∧ (∀ (i : Instr) (f : RForm) (op : DWord → Word → DWord) (s s1 : State) (b : Val),
    pairShiftOf i = some (f, op) → i.wf = true → Ready i [f.srcA 2, f.srcB] [f.dst 2] s → s.take f.b = some (b, s1) →
    let a := s.me.pair f.a.toNat
    let r : Val2 := { w := op a.w b.w, poison := a.poison || b.poison }
    exec i s = retired s ((s1.put f.d r.lo).put (f.d + 1) r.hi))

/-- R61 to R63: DIV and DIVB mark D empty and owe it the quotient, poisoned with either source, to land exactly 18
cycles after issue; and a quotient that lands fills its register, whatever the slot does. -/
def Obligations.Division : Prop :=
  (∀ (i : Instr) (f : RForm) (op : Word → Word → Word) (s s1 s2 : State) (a b : Val),
    quotientOf i = some (f, op) → i.wf = true → Ready i [f.srcA, f.srcB] [f.dst] s →
    s.take f.a = some (a, s1) → s1.take f.b = some (b, s2) →
    exec i s = retired s (s2.owe f.d [{ w := op a.w b.w, poison := a.poison || b.poison }] 18 .divisionLands))
  ∧ (∀ (s : State) (k : Nat) (o : Owed), s.subject = [k, o.id] →
    (s.slot k).owed.find? (fun x => x.id == o.id) = some o → (s.slot k).draining = false →
    exec .divisionLands s = .next (s.modSlot k (fun sl =>
      { sl.land o.index o.vals with owed := sl.owed.filter (fun x => x.id != o.id) })))

/-- R64 to R68, R55, R57: FP32 results, each the exact result rounded once under the instruction's mode or FRND, with
its flags gathered in FFLAGS; a poisoned source poisons D and silences the flags. R64 to R68: the same for FP64 in
register pairs; compares and the class mask write one register. R69, R70: FCVT from the format of bits 2 to 0 of FN to
that of bits 6 to 4; a wide source or destination is a pair. R55, R40: an enabled flag of an FP32, FP64 or FCVT step
with no poisoned source traps FPTRAP with all the flags of the step as XVAL, and leaves D and FFLAGS as they were. -/
def Obligations.FloatResults : Prop :=
  ((∀ (i : Instr) (fn : Nat) (f : RForm) (op : Nat → Nat → Nat → Nat × FlagBits) (s s1 s2 : State) (a b : Val),
      fp32 i = some (fn, f) → floatBinary f32 fn = some op → Ready i [f.srcA, f.srcB] [f.dst] s →
      s.take f.a = some (a, s1) → s1.take f.b = some (b, s2) → Open s2 f.d →
      let p := a.poison || b.poison
      let r := op (roundMode s.me f.rnd) a.w.toNat b.w.toNat
      Quiet s p r.2 →
      exec i s = retired s ((withFlags s2 p r.2).put f.d { w := BitVec.ofNat 32 r.1, poison := p }))
    ∧ (∀ (i : Instr) (fn : Nat) (f : RForm) (op : Nat → Nat → Nat × FlagBits) (s s1 : State) (a : Val),
      fp32 i = some (fn, f) → floatUnary f32 fn = some op → Ready i [f.srcA] [f.dst] s →
      s.take f.a = some (a, s1) → Open s1 f.d →
      let r := op (roundMode s.me f.rnd) a.w.toNat
      Quiet s a.poison r.2 →
      exec i s = retired s ((withFlags s1 a.poison r.2).put f.d { w := BitVec.ofNat 32 r.1, poison := a.poison }))
    ∧ (∀ (f : RForm) (s s1 s2 s3 : State) (a b c : Val),
      Ready (.ffmaF32 f) [f.srcA, f.srcB, f.srcC] [f.dst] s →
      s.take f.a = some (a, s1) → s1.take f.b = some (b, s2) → s2.take f.c = some (c, s3) → Open s3 f.d →
      let p := a.poison || b.poison || c.poison
      let rnd := roundMode s.me f.rnd
      let r := f32.round rnd false (fmaExact rnd (f32.decode a.w.toNat) (f32.decode b.w.toNat) (f32.decode c.w.toNat))
      Quiet s p r.2 →
      exec (.ffmaF32 f) s = retired s ((withFlags s3 p r.2).put f.d { w := BitVec.ofNat 32 r.1, poison := p })))
  ∧ ((∀ (i : Instr) (fn : Nat) (f : RForm) (op : Nat → Nat → Nat → Nat × FlagBits) (s : State),
      fp64 i = some (fn, f) → floatBinary f64 fn = some op → i.wf = true →
      Ready i [f.srcA 2, f.srcB 2] [f.dst (if oneWord fn then 1 else 2)] s → (oneWord fn = true → Open s f.d) →
      let a := s.me.pair f.a.toNat
      let b := s.me.pair f.b.toNat
      let p := a.poison || b.poison
      let r := op (roundMode s.me f.rnd) a.w.toNat b.w.toNat
      let d : Val2 := { w := BitVec.ofNat 64 r.1, poison := p }
      let t := withFlags s p r.2
      Quiet s p r.2 →
      exec i s = retired s (if oneWord fn then t.put f.d d.lo else (t.put f.d d.lo).put (f.d + 1) d.hi))
    ∧ (∀ (i : Instr) (fn : Nat) (f : RForm) (op : Nat → Nat → Nat × FlagBits) (s : State),
      fp64 i = some (fn, f) → floatUnary f64 fn = some op → i.wf = true →
      Ready i [f.srcA 2] [f.dst (if oneWord fn then 1 else 2)] s → (oneWord fn = true → Open s f.d) →
      let a := s.me.pair f.a.toNat
      let r := op (roundMode s.me f.rnd) a.w.toNat
      let d : Val2 := { w := BitVec.ofNat 64 r.1, poison := a.poison }
      let t := withFlags s a.poison r.2
      Quiet s a.poison r.2 →
      exec i s = retired s (if oneWord fn then t.put f.d d.lo else (t.put f.d d.lo).put (f.d + 1) d.hi))
    ∧ (∀ (f : RForm) (s : State), Instr.wf (.ffmaF64 f) = true →
      Ready (.ffmaF64 f) [f.srcA 2, f.srcB 2, f.srcC 2] [f.dst 2] s →
      let a := s.me.pair f.a.toNat
      let b := s.me.pair f.b.toNat
      let c := s.me.pair f.c.toNat
      let p := a.poison || b.poison || c.poison
      let rnd := roundMode s.me f.rnd
      let r := f64.round rnd false (fmaExact rnd (f64.decode a.w.toNat) (f64.decode b.w.toNat) (f64.decode c.w.toNat))
      let d : Val2 := { w := BitVec.ofNat 64 r.1, poison := p }
      Quiet s p r.2 →
      exec (.ffmaF64 f) s = retired s (((withFlags s p r.2).put f.d d.lo).put (f.d + 1) d.hi)))
  ∧ (∀ (fn : BitVec 8) (f : RForm) (s s1 : State) (a : Val2),
      Instr.wf (.fcvt fn f) = true →
      let dst := fn.toNat / 16 % 8
      let src := fn.toNat % 8
      Ready (.fcvt fn f) [f.srcA (if fcvtWide src then 2 else 1)] [f.dst (if fcvtWide dst then 2 else 1)] s →
      (if fcvtWide src then a = s.me.pair f.a.toNat ∧ s1 = s
        else ∃ v, s.take f.a = some (v, s1) ∧ a = { w := v.w.zeroExtend 64, poison := v.poison }) →
      (fcvtWide dst = false → Open s1 f.d) →
      let r := fcvt dst src (roundMode s.me f.rnd) a.w
      let d : Val2 := { w := r.1, poison := a.poison }
      let t := withFlags s1 a.poison r.2
      Quiet s a.poison r.2 →
      exec (.fcvt fn f) s = retired s (if fcvtWide dst then (t.put f.d d.lo).put (f.d + 1) d.hi else t.put f.d d.lo))
  ∧ ((∀ (i : Instr) (fn : Nat) (f : RForm) (op : Nat → Nat → Nat → Nat × FlagBits) (s s1 s2 : State) (a b : Val),
      fp32 i = some (fn, f) → floatBinary f32 fn = some op → Ready i [f.srcA, f.srcB] [f.dst] s →
      s.take f.a = some (a, s1) → s1.take f.b = some (b, s2) → a.poison = false → b.poison = false →
      FlagsTrap i s (op (roundMode s.me f.rnd) a.w.toNat b.w.toNat).2)
    ∧ (∀ (i : Instr) (fn : Nat) (f : RForm) (op : Nat → Nat → Nat × FlagBits) (s s1 : State) (a : Val),
      fp32 i = some (fn, f) → floatUnary f32 fn = some op → Ready i [f.srcA] [f.dst] s →
      s.take f.a = some (a, s1) → a.poison = false →
      FlagsTrap i s (op (roundMode s.me f.rnd) a.w.toNat).2)
    ∧ (∀ (f : RForm) (s s1 s2 s3 : State) (a b c : Val), Ready (.ffmaF32 f) [f.srcA, f.srcB, f.srcC] [f.dst] s →
      s.take f.a = some (a, s1) → s1.take f.b = some (b, s2) → s2.take f.c = some (c, s3) →
      (a.poison || b.poison || c.poison) = false →
      let rnd := roundMode s.me f.rnd
      FlagsTrap (.ffmaF32 f) s
        (f32.round rnd false (fmaExact rnd (f32.decode a.w.toNat) (f32.decode b.w.toNat) (f32.decode c.w.toNat))).2)
    ∧ (∀ (i : Instr) (fn : Nat) (f : RForm) (op : Nat → Nat → Nat → Nat × FlagBits) (s : State),
      fp64 i = some (fn, f) → floatBinary f64 fn = some op →
      Ready i [f.srcA 2, f.srcB 2] [f.dst (if oneWord fn then 1 else 2)] s →
      let a := s.me.pair f.a.toNat
      let b := s.me.pair f.b.toNat
      (a.poison || b.poison) = false → FlagsTrap i s (op (roundMode s.me f.rnd) a.w.toNat b.w.toNat).2)
    ∧ (∀ (f : RForm) (s : State), Ready (.ffmaF64 f) [f.srcA 2, f.srcB 2, f.srcC 2] [f.dst 2] s →
      let a := s.me.pair f.a.toNat
      let b := s.me.pair f.b.toNat
      let c := s.me.pair f.c.toNat
      let rnd := roundMode s.me f.rnd
      (a.poison || b.poison || c.poison) = false → FlagsTrap (.ffmaF64 f) s
        (f64.round rnd false (fmaExact rnd (f64.decode a.w.toNat) (f64.decode b.w.toNat) (f64.decode c.w.toNat))).2)
    ∧ (∀ (fn : BitVec 8) (f : RForm) (s s1 : State) (a : Val2),
      let dst := fn.toNat / 16 % 8
      let src := fn.toNat % 8
      Ready (.fcvt fn f) [f.srcA (if fcvtWide src then 2 else 1)] [f.dst (if fcvtWide dst then 2 else 1)] s →
      (if fcvtWide src then a = s.me.pair f.a.toNat
        else ∃ v, s.take f.a = some (v, s1) ∧ a = { w := v.w.zeroExtend 64, poison := v.poison }) →
      a.poison = false → FlagsTrap (.fcvt fn f) s (fcvt dst src (roundMode s.me f.rnd) a.w).2))

/-- R71: a branch reads A and B; where the comparison holds the program counter moves by the offset in words, else to
the next word. A poisoned source traps POISON with its code. R72, R73: JAL and JALR write the address of the next word
to D and jump; JALR reads its base first. R78, R275: NOP only moves on; YIELD also stands back for at most four cycles
while another slot of its core that was ready has neither issued nor stopped being ready. -/
def Obligations.ControlFlow : Prop :=
  ((∀ (i : Instr) (f : BForm) (taken : Word → Word → Bool) (s s1 s2 : State) (a b : Val),
      branchOf i = some (f, taken) → Ready i (branchSources f) [] s →
      s.take f.a = some (a, s1) → s1.take f.b = some (b, s2) → a.poison = false → b.poison = false →
      exec i s = .next (s2.retireAt s.cur s.me.pc
        (if taken a.w b.w then wordsFrom s.me.pc f.off else s.me.pc + 8)))
    ∧ (∀ (i : Instr) (f : BForm) (taken : Word → Word → Bool) (s s1 s2 : State) (a b : Val),
      branchOf i = some (f, taken) → Ready i (branchSources f) [] s →
      s.take f.a = some (a, s1) → s1.take f.b = some (b, s2) → (a.poison || b.poison) = true →
      exec i s = traps i s .poison (if a.poison then f.a.toNat else f.b.toNat) 0))
  ∧ ((∀ (f : IForm) (s : State), Ready (.jal f) [] [f.dst] s → Open s f.d →
      exec (.jal f) s = .next ((s.put f.d { w := s.me.pc + 8 }).retireAt s.cur s.me.pc (wordsFrom s.me.pc f.imm)))
    ∧ (∀ (f : IForm) (s s1 : State) (a : Val), Ready (.jalr f) [f.srcA] [f.dst] s → s.take f.a = some (a, s1) →
      a.poison = false → Open s1 f.d →
      exec (.jalr f) s = .next ((s1.put f.d { w := s.me.pc + 8 }).retireAt s.cur s.me.pc (a.w + f.imm))))
  ∧ ((∀ (f : IForm) (s : State), modeLegal (.nop f) s.me.xlt = true → exec (.nop f) s = retired s s)
    ∧ (∀ (f : RForm) (s : State), modeLegal (.yield f) s.me.xlt = true →
      exec (.yield f) s = retired s (s.setMe { s.me with yielded := some (s.othersReady s.cur, s.cycle + 4) })))

/-- R51, R79: a word of an emulated pair that reaches execution traps ILLEGAL, with the word in XINST. R40, R50, R55:
a pending landing trap is taken before the fetch, and a word that stands for no instruction traps ILLEGAL with the
word in XINST. Which word XINST holds where none has been fetched is open (log entry 7). -/
def Obligations.TrapsBeforeExecution : Prop :=
  (∀ (i : Instr) (s : State), emulatedPair i = true → modeLegal i s.me.xlt = true →
      exec i s = traps i s .illegal 0 0)
  ∧ ((∀ (s : State), s.me.fptrap ≠ 0 → s.me.mode = .task →
      let s1 : State := { s with draws := s.draws + 1 }
      exec .landingFptrap s = .next (((s1.setMe { s.me with fptrap := 0, landed := 0 }).takeTrap s.cur .fptrap
        (s.me.landed &&& s.me.fenable).toNat 0 (Config.freeWord s.draws)).issued s.cur))
    ∧ (∀ (s : State) (w : DWord), s.subject = [w.toNat] →
      exec .illegalInstruction s = .next ((s.takeTrap s.cur .illegal 0 0 w).issued s.cur)))

/-- R351, R55: taking a trap in a task with a handler saves the program counter, the cause and the trap values, hides
the task's bounds behind the handler's, and continues at the handler's first word in handler mode. What the slot's
registers, views, masks and handles hold stays. R353: where the launch has no handler image, or the trap strikes in
handler mode, the launch is aborted with the cause as its status and with the trap's values; the first such end
stands. -/
def Obligations.TrapEntry : Prop :=
  (∀ (s : State) (l : Launch) (base len : Nat) (c : Cause) (v v2 w : DWord),
      Handled s c l base len → base < 2 ^ 32 → base + len < 2 ^ 32 →
      let t := (s.takeTrap s.cur c v v2 w).me
      t.mode = .handler ∧ t.pc.toNat = base ∧ t.cbase.toNat = base ∧ t.cbound.toNat = base + len
        ∧ t.taskBase = s.me.cbase ∧ t.taskBound = s.me.cbound
        ∧ t.xpc = s.me.pc ∧ t.xcause = c.code ∧ t.xval = v ∧ t.xval2 = v2 ∧ t.xinst = w
        ∧ t.xsave = s.me.xsave ∧ t.regs = s.me.regs ∧ t.views = s.me.views ∧ t.masks = s.me.masks
        ∧ t.handles = s.me.handles ∧ t.fflags = s.me.fflags ∧ t.fenable = s.me.fenable ∧ t.retired = s.me.retired)
  ∧ (∀ (s : State) (lid : Nat) (l : Launch) (c : Cause) (v v2 w : DWord),
      launchAt s c = some l → l.lid = lid → (s.leaveFor s.cur c).launches.find lid = some l → l.ending = none →
      s.me.xlt = false →
      l.emulates s.me.pc = false → (l.handler = none ∨ s.me.mode = .handler) →
      ((s.takeTrap s.cur c v v2 w).launches.find lid).bind Launch.ending =
        some { status := c.code.toNat, xpc := s.me.pc, xval := v, xval2 := v2, trap := decide (s.me.mode = .task) })

/-- R37, R74: CSRR writes the CSR to D. A low word of a 64-bit counter latches its high word, which the next reading
of that high word gives. R74: CSRW, CSRS and CSRC read the CSR, then A, write the new value with reserved bits
ignored, and give the old one to D. R38, R74, R33: a CSR that the mode may not reach traps PRIV, and a write of one
that it may only read traps ILLEGAL, before any operand is looked at; FFLAGS, MXC0 to MXC3 and a write of the window
wait while the slot owes a span; a poisoned A traps POISON with its code; a write that would change TRC.SUSP or set a
rounding mode above 4 traps ILLEGAL. -/
def Obligations.CsrInstructions : Prop :=
  ((∀ (f : IForm) (s : State), Ready (.csrr f) [] [f.dst] s → Open s f.d → csrAccess s.me.mode f.imm.toNat ≠ .none →
      csrWaits s f.imm.toNat false = false → latchLow f.imm.toNat = false →
      s.me.latched.get latchedDefault (f.imm.toNat - 1) = none →
      exec (.csrr f) s = retired s (s.put f.d { w := s.csr s.cur f.imm.toNat }))
    ∧ (∀ (f : IForm) (s : State), Ready (.csrr f) [] [f.dst] s → Open s f.d → csrAccess s.me.mode f.imm.toNat ≠ .none →
      latchLow f.imm.toNat = true →
      exec (.csrr f) s = retired s ((s.setMe { s.me with
        latched := s.me.latched.set latchedDefault f.imm.toNat (some (s.csr s.cur (f.imm.toNat + 1))) }).put f.d
          { w := s.csr s.cur f.imm.toNat }))
    ∧ (∀ (f : IForm) (s : State) (v : Word), Ready (.csrr f) [] [f.dst] s → Open s f.d →
      csrAccess s.me.mode f.imm.toNat ≠ .none → latchLow (f.imm.toNat - 1) = true →
      s.me.latched.get latchedDefault (f.imm.toNat - 1) = some v →
      exec (.csrr f) s = retired s ((s.setMe { s.me with
        latched := s.me.latched.set latchedDefault (f.imm.toNat - 1) none }).put f.d { w := v })))
  ∧ (∀ (i : Instr) (f : IForm) (op : Word → Word → Word) (s s0 s1 : State) (old : Word) (a : Val),
      csrWriteOf i = some (f, op) → Ready i [f.srcA] [f.dst] s → csrAccess s.me.mode f.imm.toNat = .write →
      csrWaits s f.imm.toNat true = false → readCsr f.imm.toNat s = .ok (old, s0) →
      s0.take f.a = some (a, s1) → a.poison = false →
      let new := op old a.w
      (f.imm.toNat = 0x060 → new.getLsbD 1 = old.getLsbD 1) → (f.imm.toNat = 0x012 → new.toNat % 8 ≤ 4) →
      let t := s1.setMe (s1.me.setCsr f.imm.toNat new)
      Open t f.d → exec i s = retired s (t.put f.d { w := old }))
  ∧ ((∀ (i : Instr) (f : IForm) (write : Bool) (s : State), csrOf i = some (f, write) → modeLegal i s.me.xlt = true →
      (csrAccess s.me.mode f.imm.toNat = .none → exec i s = traps i s .priv 0 0)
      ∧ (write = true → csrAccess s.me.mode f.imm.toNat = .read → exec i s = traps i s .illegal 0 0)
      ∧ (csrAccess s.me.mode f.imm.toNat = .write ∨ (write = false ∧ csrAccess s.me.mode f.imm.toNat = .read) →
        Ready i (if write then [f.srcA] else []) [f.dst] s → csrWaits s f.imm.toNat write = true →
        exec i s = parks s { xval := f.d.toNat, reason := 0x03 }))
    ∧ (∀ (i : Instr) (f : IForm) (op : Word → Word → Word) (s s0 s1 : State) (old : Word) (a : Val),
      csrWriteOf i = some (f, op) → Ready i [f.srcA] [f.dst] s → csrAccess s.me.mode f.imm.toNat = .write →
      csrWaits s f.imm.toNat true = false → readCsr f.imm.toNat s = .ok (old, s0) → s0.take f.a = some (a, s1) →
      let new := op old a.w
      (a.poison = true → exec i s = traps i s .poison f.a.toNat 0)
      ∧ (a.poison = false → (f.imm.toNat = 0x060 ∧ new.getLsbD 1 ≠ old.getLsbD 1) ∨ (f.imm.toNat = 0x012 ∧ 5 ≤ new.toNat % 8) →
        exec i s = traps i s .illegal 0 0)))

/-- R82 to R84, R97: LD and LDS check the address, find its place, mark D empty, and leave a load in flight that will
fill D. R82, R85, R113: ST reads its data, checks the address, finds its place, and leaves a store in flight with the
data's bytes, poisoned with any of the registers. -/
def Obligations.LoadsAndStoresIssue : Prop :=
  (∀ (i : Instr) (f : MForm) (sign : Bool) (s s1 : State) (ps : List Piece),
      loadOf i = some (f, sign) → i.wf = true → Ready i [f.srcA] [{ code := f.d, n := f.regs }] s → Aligned s f →
      target f.d f.space.toNat (addressIn s f) f.bytes false s = .ok (ps, s1) →
      exec i s = retired s ((awaiting s1 f.d f.regs).sendLoad {
        id := s1.nextId, kind := .load, ord := f.ord, scope := cappedScope f.space.toNat f.scope.toNat, pieces := ps
        evict := f.evict, rdc := f.rdc, dest := .regs (regIndex s.me.mode f.d.toNat) f.regs f.bytes sign }))
  ∧ (∀ (f : MForm) (s s1 s2 : State) (vs : List Val) (ps : List Piece),
      Ready (.st f) [f.srcA, f.srcD f.regs] [] s → readData f.d f.regs s = .ok (vs, s1) → Aligned s1 f →
      target f.d f.space.toNat (addressIn s1 f) f.bytes true s1 = .ok (ps, s2) →
      exec (.st f) s = retired s (({ s2 with nextId := s2.nextId + 1 } : State).sendStore {
        id := s2.nextId, kind := .store, ord := f.ord, scope := cappedScope f.space.toNat f.scope.toNat, pieces := ps
        data := dataBytes f.bytes vs, poison := vs.any Val.poison, evict := f.evict, rdc := f.rdc }))

/-- R84, R26: a load that lands puts what it read into its registers, which become full; it is in flight no more. A
load that has not been performed before is performed now, after what must come before it. -/
def Obligations.LoadsLand : Prop :=
  ∀ (s : State) (k : Nat) (x : Acc) (index n nb : Nat) (sign : Bool),
    s.subject = [k, x.id] → (s.slot k).accs.find? (fun y => y.id == x.id) = some x → x.kind = .load →
    x.dest = .regs index n nb sign → (s.slot k).draining = false →
    let read := ((s.forceBefore k x).readPieces (coreOfSlot k) x.evict x.rdc x.pieces).1
    let vs := loadedValues n nb sign (x.got.getD read)
    ∃ t, exec .loadValueLands s = .next t ∧ (t.slot k).accs.all (fun y => y.id != x.id) = true
      ∧ ∀ j, j < vs.length → index + j ≠ 0 → (t.slot k).regAt (index + j) = (vs.getD j {}).toReg

/-- R85, R86, R96: a clean store to one place with no L1 before it (a scratchpad) writes exactly its bytes when it is
performed: each byte of the place is the data's inside the store and what it was outside, no other place changes, and
the bytes written lose their poison. R93, R113: a clean store to memory behind an L1 first enters the line of the L1
that holds its address for the writer: its bytes stand there valid, dirty and clean of poison. -/
def Obligations.StoresPerformed : Prop :=
  (∀ (s : State) (k : Nat) (x : Acc) (p : Piece),
      s.subject = [k, x.id] → (s.slot k).accs.find? (fun y => y.id == x.id) = some x → x.kind = .store →
      x.pieces = [p] → x.data.length = p.len → x.poison = false → x.localDone = false → p.place.cached = false →
      Unordered { s with draws := s.draws + 1 } k x →
      ∃ t, exec .storePerformed s = .next t ∧ (∀ q, q ≠ p.place → t.memAt q = s.memAt q)
        ∧ ∀ a, (p.off ≤ a → a < p.off + p.len → byteOf t p.place a = x.data.getD (a - p.off) 0 ∧ poisonOf t p.place a = false)
          ∧ (a < p.off ∨ p.off + p.len ≤ a → byteOf t p.place a = byteOf s p.place a ∧ poisonOf t p.place a = poisonOf s p.place a))
  ∧ (∀ (s : State) (k : Nat) (x : Acc) (p : Piece),
      s.subject = [k, x.id] → (s.slot k).accs.find? (fun y => y.id == x.id) = some x → x.kind = .store →
      x.pieces = [p] → x.data.length = p.len → x.poison = false → x.localDone = false → p.place.cached = true →
      p.off % 256 + p.len ≤ 256 → Unordered { s with draws := s.draws + 1 } k x →
      ∃ t y, exec .storePerformed s = .next t ∧ t.line (s.l1Of (coreOfSlot k) p.off) (lineKey p.place p.off) = some y
        ∧ ∀ j, j < p.len → y.bytes.find (p.off % 256 + j) = some { val := x.data.getD j 0, dirty := true, poison := false })

/-- R88, R90: an atomic on device memory or a scratchpad marks D empty and leaves its access in flight; one on host
memory, where the host performs it, marks D empty, sends a request and then holds the slot at the instruction, which
goes on when the completion has come (R90). In interval mode the device performs it on what it sees (R362). R87 to
R89: an atomic on one piece of a place with no L1 before it is performed in one step: the piece takes what the
operation gives from its old bytes, or stays where a compare fails, and D takes the old bytes. -/
def Obligations.Atomics : Prop :=
  ((∀ (i : Instr) (x : Atomic) (s s1 s2 : State) (vs : List Val) (p : Piece),
      atomicOf i = some x → s.me.hostOp = none →
      Ready i [x.f.srcA, x.f.srcD x.srcs] [{ code := x.f.d, n := x.n }] s → readData x.f.d x.srcs s = .ok (vs, s1) →
      Aligned s1 x.f → OutsideWindows s1 x.f →
      target x.f.d x.f.space.toNat (addressIn s1 x.f) x.f.bytes true s1 = .ok ([p], s2) →
      (p.place = .host → hostAtomic x.kind = true ∧ s1.intervalWorlds.contains (s1.die s1.myDie).wid = true) →
      s2.me.fullFrom x.f.d.toNat x.n = true →
      let t := (awaiting s2 x.f.d x.n).addAcc (x.access s2 vs p)
      let due := t.cycle + t.lag + State.atomCycles t.myCore t.draws p + t.contention + t.hioCycles x.f.ord (cappedScope x.f.space.toNat x.f.scope.toNat)
      exec i s = retired s (({ t with draws := t.draws + 1 } : State).schedule (max due s.me.hioStores) .atomicPerformed
        [t.cur, s2.nextId]))
    ∧ (∀ (i : Instr) (x : Atomic) (s : State) (op : HostOp) (r : List Byte × Bool),
      atomicOf i = some x → modeLegal i s.me.xlt = true → s.me.hostOp = some op → op.answer = some (.ok, r) →
      exec i s = retired s (s.setMe (({ s.me with hostOp := none } : Slot).land (regIndex s.me.mode x.f.d.toNat)
        (loadedValues x.n (4 * x.n) false r))))
    ∧ (∀ (i : Instr) (x : Atomic) (s s1 s2 : State) (vs : List Val) (p : Piece),
      atomicOf i = some x → s.me.hostOp = none →
      Ready i [x.f.srcA, x.f.srcD x.srcs] [{ code := x.f.d, n := x.n }] s → readData x.f.d x.srcs s = .ok (vs, s1) →
      Aligned s1 x.f → OutsideWindows s1 x.f →
      target x.f.d x.f.space.toNat (addressIn s1 x.f) x.f.bytes true s1 = .ok ([p], s2) →
      p.place = .host → hostAtomic x.kind = true → s1.intervalWorlds.contains (s1.die s1.myDie).wid = false →
      ∃ (op : HostOp) (t : State), exec i s = .next (t.parkSlot s.cur (waitHostOp (addressIn s1 x.f)))
        ∧ t.me.hostOp = some op ∧ op.id = s2.nextId ∧ op.piece = p ∧ op.kind = x.kind ∧ op.operand = x.operand vs
        ∧ op.answer = none ∧ t.me.regs = (s2.me.markEmpty x.f.d.toNat x.n).regs))
  ∧ (∀ (s : State) (k : Nat) (x : Acc) (p : Piece) (op : AtomKind) (b c : List Byte) (poison : Bool)
        (index n nb : Nat),
      s.subject = [k, x.id] → (s.slot k).accs.find? (fun y => y.id == x.id) = some x → x.kind = .atomic op b c poison →
      x.pieces = [p] → x.got = none → p.place.cached = false → x.dest = .regs index n nb false →
      (s.slot k).draining = false → Unordered s k x →
      let old := ((s.memAt p.place).bytes p.off p.len, (s.memAt p.place).poisonIn p.off p.len)
      let vs := loadedValues n nb false old
      ∃ t, exec .atomicPerformed s = .next t
        ∧ (match atomWrites op b c poison old with
            | some w => t.memAt p.place = (s.memAt p.place).write p.off w.1 w.2
            | none => t.memAt p.place = s.memAt p.place)
        ∧ ∀ j, j < vs.length → index + j ≠ 0 → (t.slot k).regAt (index + j) = (vs.getD j {}).toReg)

/-- R82, R98: an ATOM at system scope whose address lies in a reduction window of the world is a reduction. Its
address is translated; D is marked empty, and the contribution leaves the slot for its home package. R98, R385: the
router answers a reduction with 0 and merges it with one of the same place and function that it has held for at most
128 cycles, or holds it; then, and at once where 4,096 are held, it goes to its home over a path that is up, and is
combined there. -/
def Obligations.Reductions : Prop :=
  (∀ (f : MForm) (s s1 s2 : State) (vs : List Val) (w : Nat × Nat × Nat) (at_ : Place × Nat),
      s.me.hostOp = none → Ready (.atom f) [f.srcA, f.srcD f.regs] [{ code := f.d, n := f.regs }] s →
      readData f.d f.regs s = .ok (vs, s1) → Aligned s1 f → f.scope = 5 → f.space = 0 →
      s1.redWindow (s1.die s1.myDie).wid (addressIn s1 f) = some w → s1.unreachable.contains w.2.2 = false →
      translateMe (addressIn s1 f) true s1 = .ok (at_, s2) →
      (at_.1 = .host → hostAtomic (.op f.evict f.rdc) = true) →
      s2.me.fullFrom f.d.toNat f.regs = true →
      ∃ t, exec (.atom f) s = .next t ∧ t.contributions = s2.contributions ++ [
          { id := s2.nextId + 1, world := (s1.die s1.myDie).wid, va := addressIn s1 f
            piece := if w.2.2 = s2.pkgid.toNat then some { place := at_.1, off := at_.2, len := f.bytes } else none, home := w.2.2
            len := f.bytes, type := f.evict, fn := f.rdc, operand := dataBytes f.bytes vs, poison := vs.any Val.poison
            parts := [(s.cur, s2.nextId)], held := false }]
        ∧ t.me.pc = s.me.pc + 8 ∧ t.me.regs = (s2.me.markEmpty f.d.toNat f.regs).regs)
  ∧ ((∀ (s : State) (k id cid : Nat) (c : Contribution), s.subject = [k, id, cid] →
      s.contributions.find? (fun c => c.id == cid) = some c → c.held = false → s.unreachable.contains c.home = false →
      let held := s.contributions.filter (fun x => x.held)
      let merges := fun (x : Contribution) => x.matches c && x.open_ s.cycle
      (∀ x, held.length < 4096 → held.find? merges = some x → ∃ t, exec .reductionAccepted s = .next t
        ∧ t.contributions = (s.contributions.filter (fun y => y.id != cid)).map (fun y =>
            if y.id = x.id then x.merge c else y))
      ∧ (held.find? merges = none → held.length < 4096 → ∃ t, exec .reductionAccepted s = .next t
        ∧ (∀ y ∈ t.contributions, y.id = cid → y.held = true ∧ y.accepted = true ∧ y.since = s.cycle)
        ∧ ∃ d ∈ t.agenda, d.step = .combineBufferForward ∧ d.subject = [cid] ∧ d.at_ ≤ s.cycle + 128)
      ∧ (4096 ≤ held.length → s.pathsDown.has c.home = false → ∃ t, exec .reductionAccepted s = .next t
        ∧ (∀ y ∈ t.contributions, y.id = cid → y.held = false ∧ y.accepted = true ∧ y.sent = true)
        ∧ ∃ d ∈ t.agenda, d.step = .reductionPerformed ∧ d.subject = [cid] ∧ s.cycle < d.at_)
      ∧ (∀ (x : Acc) (index n nb : Nat), (s.slot k).accs.find? (fun y => y.id == id) = some x →
        (s.slot k).draining = false → x.dest = .regs index n nb false → ∃ t, exec .reductionAccepted s = .next t
        ∧ ∀ j, j < (loadedValues n nb false (bytesOfWord 8 0, false)).length → index + j ≠ 0 →
          (t.slot k).regAt (index + j) = ((loadedValues n nb false (bytesOfWord 8 0, false)).getD j {}).toReg))
    ∧ (∀ (s : State) (cid : Nat) (c : Contribution), s.subject = [cid] →
      s.contributions.find? (fun c => c.id == cid && c.held) = some c → s.pathsDown.has c.home = false →
      ∃ t, exec .combineBufferForward s = .next t ∧ (∀ y ∈ t.contributions, y.id = cid → y.held = false)
        ∧ ∃ d ∈ t.agenda, d.step = .reductionPerformed ∧ d.subject = [cid] ∧ s.cycle < d.at_)
    ∧ (∀ (s : State) (cid : Nat) (c : Contribution) (p : Piece), s.subject = [cid] →
      s.contributions.find? (fun c => c.id == cid) = some c → c.piece = some p → s.pathsDown.has c.home = false →
      ∃ t, exec .reductionPerformed s = .next t
        ∧ (∀ q, t.memAt q = (s.atomAt c.world p (.op c.type c.fn) c.operand [] c.poison).2.memAt q)
        ∧ (∀ y ∈ t.contributions, y.id ≠ cid)))

/-- R94, R95, R112: FENCE performs what must come first: every earlier load and atomic for an acquire, every earlier
access and the cleaning of the L1 for a release; at system scope a release waits for the slot's reductions, and at
scope 6 what it orders waits as long as a read of the host takes. That what comes first is performed at once, in the
FENCE's own step, is the model's choice (log entry 12). PREF asks for a line where its address leads to one, and never
traps or waits for what its address finds; that the line is present when PREF has issued is the model's choice too
(log entry 14). -/
def Obligations.FenceAndPrefetch : Prop :=
  (∀ (f : MForm) (s : State), modeLegal (.fence f) s.me.xlt = true →
    (releases f.ord = true → 5 ≤ f.scope.toNat → s.me.accs.any Acc.isReduction = false) →
    exec (.fence f) s = retired s (if f.ord = 1 then s.acquireSlot s.cur
      else
        let t := s.releaseSlot s.cur f.scope.toNat
        if f.scope = 6 then t.setMe { t.me with
          hioStores := s.cycle + s.hostCycles, hioLoads := if f.ord = 3 then s.cycle + s.hostCycles else t.me.hioLoads }
        else t))
  ∧ (∀ (f : MForm) (s : State), Ready (.pref f) [f.srcA] [] s → (s.me.pair f.a.toNat).poison = false →
    (s.prefTarget (addressIn s f)).1 = none → exec (.pref f) s = retired s (s.prefTarget (addressIn s f)).2)
  ∧ (∀ (f : MForm) (s s1 : State) (p : Place) (a : Nat), Ready (.pref f) [f.srcA] [] s →
    (s.me.pair f.a.toNat).poison = false → s.prefTarget (addressIn s f) = (some (p, a), s1) →
    ∃ t, exec (.pref f) s = .next t ∧ (t.line (s.l1Of s.myCore a) (lineKey p a)).isSome = true
      ∧ t.me.pc = s.me.pc + 8)

/-- R82, R83: the traps of the address of a load, store or atomic, in their order: a poisoned base, an address
misaligned to the access, and, in a space other than the global one, an address past its end, each with the address
and the size or the code. R82, R83, R143, R191 to R193, R176: the traps of the addresses of a vector access. A
poisoned base and a misaligned origin trap before any unit is placed; then the first unit that lies past the end of
its space, or outside a tile of its handle, traps PROT, and the first misaligned element of VGATH and VSCAT traps
ALIGN, once every unit before it has its place. An access to a tile of a package that cannot be reached traps PAGE
0x410, and one over a path that is down waits. -/
def Obligations.AddressTraps : Prop :=
  (∀ (i : Instr) (f : MForm) (srcs dsts : Nat) (s s1 : State),
      addressedOf i = some (f, srcs, dsts) → DataRead i f srcs dsts s s1 →
      let addr := addressIn s1 f
      ((s1.me.pair f.a.toNat).poison = true → exec i s = traps i s .poison f.a.toNat 0)
      ∧ ((s1.me.pair f.a.toNat).poison = false → addr % f.bytes ≠ 0 →
        exec i s = traps i s .align (BitVec.ofNat 64 addr) (BitVec.ofNat 64 f.bytes))
      ∧ (∀ n code, Aligned s1 f → spaceBound f.space.toNat = some (n, code) → n ≤ addr →
        exec i s = traps i s .prot (BitVec.ofNat 64 addr) (BitVec.ofNat 64 code)))
  ∧ ((∀ (i : Instr) (f : MForm) (write : Bool) (s : State), ViewReady i f write s →
      let al := fmtAlign (s.me.view f.d).format
      ((s.me.pair f.a.toNat).poison = true → exec i s = traps i s .poison f.a.toNat 0)
      ∧ ((s.me.pair f.a.toNat).poison = false → addressIn s f % al ≠ 0 →
        exec i s = traps i s .align (BitVec.ofNat 64 (addressIn s f)) (BitVec.ofNat 64 al))
      ∧ (∀ (s1 : State) (us : List (ViewPart × List Piece)) (u : ViewPart) (rest : List ViewPart) (n code : Nat),
        (s.me.pair f.a.toNat).poison = false → addressIn s f % al = 0 →
        let at_ := fun (u : ViewPart) => (addressIn s f + u.rel) % 2 ^ 64
        unitsOf (s.me.view f.d) = us.map Prod.fst ++ u :: rest →
        Placed (fun u => target f.d f.space.toNat (at_ u) u.len write) s us s1 →
        spaceBound f.space.toNat = some (n, code) → n ≤ at_ u →
        exec i s = traps i s .prot (BitVec.ofNat 64 (at_ u)) (BitVec.ofNat 64 code)))
    ∧ (∀ (i : Instr) (f : MForm) (write : Bool) (w : DWord) (s : State), TileViewReady i f write w s →
      let al := fmtAlign (s.me.view f.d).format
      let off := f.off.toInt
      let tiles := accessTiles s w write
      (off % al ≠ 0 → exec i s = traps i s .align (BitVec.ofInt 64 off) (BitVec.ofNat 64 al))
      ∧ (∀ (s1 : State) (us : List (ViewPart × List Piece)) (u : ViewPart) (rest : List ViewPart),
        s.away w = false → off % al = 0 → unitsOf (s.me.view f.d) = us.map Prod.fst ++ u :: rest →
        (write = true → NibblesFit us) → (∀ x ∈ us, UnitInTiles s f tiles x.1) →
        Placed (fun u => tileTargets (off + u.rel).toNat u.len write tiles) s us s1 → ¬ UnitInTiles s f tiles u →
        exec i s = traps i s .prot (BitVec.ofInt 64 (off + u.rel)) 0x130)
      ∧ (∀ (u : ViewPart) (rest : List ViewPart), s.away w = true → off % al = 0 → unitsOf (s.me.view f.d) = u :: rest →
        s.awayLost w = true ∨ s.pathsDown.has (handlePkg w).toNat = true →
        exec i s = if off + u.rel < 0 ∨ Config.remoteLength w < off + u.rel + u.len then
            traps i s .prot (BitVec.ofInt 64 (off + u.rel)) 0x130
          else if s.awayLost w then traps i s .page (Config.freeWord s.draws) 0x410
          else parks s {}))
    ∧ (∀ (i : Instr) (f : RForm) (write : Bool) (s s1 : State) (xs : List (Lane × List Piece)) (x : Lane) (rest : List Lane),
      LanesReady i f write s → lanesOf s f = xs.map Prod.fst ++ x :: rest →
      (∀ y ∈ xs, laneAddress s f y.1 % laneBytes s f = 0) →
      Placed (fun y => globalTarget (laneAddress s f y) (laneBytes s f) write) s xs s1 →
      laneAddress s f x % laneBytes s f ≠ 0 →
      exec i s = traps i s .align (BitVec.ofNat 64 (laneAddress s f x)) (BitVec.ofNat 64 (laneBytes s f))))

/-- R137: HNEW and HNEW.SP take an entry of this die's table that was not in use, make it an open tile with one fill
and one see handle, and write the fill handle to D and the see handle to the next handle register. -/
def Obligations.TilesAreCreated : Prop :=
  ∀ (i : Instr) (f : RForm) (scratch : Bool) (s s1 : State) (len : Val),
    newTileOf i = some (f, scratch) → Ready i [f.srcA 2, f.srcB] [] s → s.take f.b = some (len, s1) →
    let b := s.me.pair f.a.toNat
    b.poison = false → len.poison = false → FreeHandle s f.d → FreeHandle s (f.d + 1) →
    TileFits scratch b.w.toNat len.w.toNat → s1.entriesFree s.myDie 1 = true →
    ∃ (e : Nat) (t : State), e / 65536 = s.myDie ∧ (s1.entry e).used = false
      ∧ t = ({ s1 with draws := s1.draws + 1 } : State).setEntry e
          { used := true, base := b.w, scratch := scratch, core := s.myCore, len := len.w.zeroExtend 64, state := .open
            fill := true, sees := 1, gen := (s1.entry e).gen, world := (s.die s.myDie).wid, lid := s.lidOf s.cur }
      ∧ exec i s = retired s (withHandle (withHandle t f.d (t.handleTo kindFill e)) (f.d + 1) (t.handleTo kindSee e))

/-- R138, R139, R131, R133: HCOPY makes a second see handle, HMOVE moves a word, HDROP gives a handle up (a fill one
publishes its tiles, after a release at world scope), and HINFO writes what a handle register says of its tile. A
handle of a tile of another package is counted and settled at its home; the drop of its fill is a release at system
scope. R140, R130: HWAIT goes on once the tile was published, traps ABANDON on an abandoned one, with its code and the
index and generation of its entry, and on an open one traps EMPTY under its EP bit, else parks with the code as XVAL.
A tile that was settled in this cycle is seen as open. -/
def Obligations.HandleRegisters : Prop :=
  ((∀ (f : RForm) (s : State) (w : DWord), modeLegal (.hcopy f) s.me.xlt = true → hget f.a .live s = .ok (w, s) →
      handleKind w = kindSee → FreeHandle s f.d →
      exec (.hcopy f) s = retired s (withHandle
        (if s.away w then s else s.modEntry (handleEntry w) (fun x => { x with sees := x.sees + 1 })) f.d w))
    ∧ (∀ (f : RForm) (s : State) (w : DWord), modeLegal (.hcopy f) s.me.xlt = true → hget f.a .live s = .ok (w, s) →
      handleKind w ≠ kindSee →
      exec (.hcopy f) s = traps (.hcopy f) s .handle f.a.toNat 0x02)
    ∧ (∀ (f : RForm) (s : State) (w : DWord), modeLegal (.hmove f) s.me.xlt = true → hget f.a .live s = .ok (w, s) →
      FreeHandle s f.d → exec (.hmove f) s = retired s (withHandle (withHandle s f.d w) f.a 0))
    ∧ (∀ (f : RForm) (s : State) (w : DWord), modeLegal (.hdrop f) s.me.xlt = true → hget f.a .live s = .ok (w, s) →
      exec (.hdrop f) s = retired s (withHandle
        (if s.away w then (if handleKind w = kindSee then s else s.releaseSlot s.cur 5)
        else if handleKind w = kindSee then s.dropSee (handleEntry w)
        else (s.releaseSlot s.cur 4).settleFill (handleEntry w) .published) f.a 0))
    ∧ (∀ (f : RForm) (s : State), Instr.wf (.hinfo f) = true → Ready (.hinfo f) [] [f.dst 2] s →
      (handleKind (s.me.handleAt f.a) ≠ 0 → s.stale (s.die s.myDie).wid (s.me.handleAt f.a) = false) →
      let r : Val2 := { w := s.handleInfo (s.me.handleAt f.a) }
      exec (.hinfo f) s = retired s ((s.put f.d r.lo).put (f.d + 1) r.hi)))
  ∧ (∀ (f : RForm) (s : State) (w : DWord), modeLegal (.hwait f) s.me.xlt = true → hget f.a .see s = .ok (w, s) →
      let x := s.wordEntry w
      (x.state = .published → x.settled ≠ some s.cycle → exec (.hwait f) s = retired s s)
      ∧ (x.state = .abandoned → x.settled ≠ some s.cycle →
        exec (.hwait f) s = traps (.hwait f) s .abandon f.a.toNat
          (BitVec.ofNat 64 (handleIndex w + x.gen.toNat * 65536)))
      ∧ (x.state = .open ∨ x.settled = some s.cycle → f.ep.getLsbD 0 = true →
        exec (.hwait f) s = traps (.hwait f) s .empty f.a.toNat 0)
      ∧ (x.state = .open ∨ x.settled = some s.cycle → f.ep.getLsbD 0 = false →
        exec (.hwait f) s = parks s { xval := f.a.toNat, reason := 0x04 }))

/-- R141, R142: HSEND queues a message with the handle word and empties its handle register; HRECV takes the oldest
handle message for its slot out of the inbox and writes its word to a free handle register; without one it waits, or
traps WAITX where its limit is 0. -/
def Obligations.HandleMessages : Prop :=
  (∀ (f : RForm) (s s1 s2 : State) (b c : Val) (w : DWord), Ready (.hsend f) [f.srcB, f.srcC] [] s →
    s.take f.b = some (b, s1) → s1.take f.c = some (c, s2) → b.poison = false → c.poison = false →
    hget f.a .live s2 = .ok (w, s2) → DestWellFormed b.w c.w →
    let d := handleDest b.w c.w
    (c.w.getLsbD 8 = true → s2.unreachable.contains (c.w.toNat % 256) = false) →
    s2.destLive (s.die s.myDie).wid d = true → s2.sendQueueFull = false →
    exec (.hsend f) s = retired s (withHandle (messageSent s2 {
        kind := .handle w (b.w.toNat % 4)
        header := headerOf s.cur (c.w.getLsbD 8 && decide (c.w.toNat % 256 ≠ s2.pkgid.toNat)) false 0 } d) f.a 0))
  ∧ (∀ (f : RForm) (s s1 : State) (lim : Val) (i k : Nat) (m : Msg) (w : DWord), Ready (.hrecv f) [f.srcA] [] s →
    s.take f.a = some (lim, s1) → lim.poison = false → FreeHandle s f.d →
    (s1.core s.myCore).handleMsg (slotNumber s.cur) = some i → (s1.core s.myCore).inbox[i]? = some m →
    m.kind = .handle w k →
    exec (.hrecv f) s = retired s
      ((withHandle s1 f.d w).modCore s.myCore (fun c => c.removeMsg i)))
  ∧ (∀ (f : RForm) (s s1 : State) (lim : Val), Ready (.hrecv f) [f.srcA] [] s →
    s.take f.a = some (lim, s1) → lim.poison = false → FreeHandle s f.d →
    (s1.core s.myCore).handleMsg (slotNumber s.cur) = none →
    exec (.hrecv f) s = if lim.w = 0 then traps (.hrecv f) s .waitx 68 0
      else parks s { waitInbox lim.w with limit := some lim.w })

/-- R143, R133, R383: HLD loads from the tile of a handle, through a see handle as an acquire at world scope once it
was published; HST stores through a fill handle, to every tile that it covers. An offset outside the tile traps PROT,
and a misaligned one ALIGN. A tile of another package is accessed at its home: the access traps there, or traps PAGE
0x410 where the package cannot be reached, or waits while the path is down, or goes on. -/
def Obligations.HandleAccesses : Prop :=
  (∀ (f : MForm) (s s1 : State) (w : DWord) (ps : List Piece), Ready (.hld f) [] [{ code := f.d, n := f.regs }] s →
    hget f.a .live s = .ok (w, s) → s.away w = false → (handleKind w = kindSee → Seen s (handleEntry w)) →
    let e := (s.membersOf (handleEntry w)).headD 0
    InTile f (s.entry e).len.toNat → tileTarget e f.off.toInt.toNat f.bytes false s = .ok (ps, s1) →
    s1.me.fullFrom f.d.toNat f.regs = true →
    exec (.hld f) s = retired s ((awaiting s1 f.d f.regs).sendLoad {
      id := s1.nextId, kind := .load, ord := if handleKind w = kindSee then 1 else 0
      scope := if handleKind w = kindSee then 4 else 0, pieces := ps, evict := f.evict, rdc := f.rdc
      dest := .regs (regIndex s1.me.mode f.d.toNat) f.regs f.bytes false }))
  ∧ (∀ (f : MForm) (s s1 s2 : State) (w : DWord) (vs : List Val) (ps : List Piece),
    Ready (.hst f) [f.srcD f.regs] [] s → readData f.d f.regs s = .ok (vs, s1) → hget f.a .fill s1 = .ok (w, s1) →
    s1.away w = false →
    let ms := s1.membersOf (handleEntry w)
    InTile f (sharedLength s1 ms) → tileTargets f.off.toInt.toNat f.bytes true ms s1 = .ok (ps, s2) →
    exec (.hst f) s = retired s (({ s2 with nextId := s2.nextId + 1 } : State).sendStore {
      id := s2.nextId, kind := .store, pieces := ps, data := (ms.map (fun _ => dataBytes f.bytes vs)).flatten
      poison := vs.any Val.poison, evict := f.evict, rdc := f.rdc }))
  ∧ (∀ (i : Instr) (f : MForm) (s s1 : State) (w : DWord) (len : Nat),
    (i = .hld f ∧ Ready i [] [{ code := f.d, n := f.regs }] s ∧ s1 = s ∧ hget f.a .live s = .ok (w, s)
        ∧ (handleKind w = kindSee → Seen s (handleEntry w))
        ∧ len = (s.entry ((s.membersOf (handleEntry w)).headD 0)).len.toNat)
      ∨ (i = .hst f ∧ Ready i [f.srcD f.regs] [] s ∧ (∃ vs, readData f.d f.regs s = .ok (vs, s1))
        ∧ hget f.a .fill s1 = .ok (w, s1) ∧ len = sharedLength s1 (s1.membersOf (handleEntry w))) →
    s1.away w = false →
    let off := f.off.toInt
    (off < 0 ∨ len < off + f.bytes → exec i s = traps i s .prot (BitVec.ofInt 64 off) 0x130)
    ∧ (0 ≤ off ∧ off + f.bytes ≤ len → off % f.bytes ≠ 0 →
      exec i s = traps i s .align (BitVec.ofInt 64 off) (BitVec.ofNat 64 f.bytes)))
  ∧ (∀ (f : MForm) (s : State) (w : DWord), Ready (.hld f) [] [{ code := f.d, n := f.regs }] s →
    hget f.a .live s = .ok (w, s) → s.away w = true → (handleKind w = kindSee → (s.wordEntry w).state = .published) →
    s.me.fullFrom f.d.toNat f.regs = true →
    awayEnds (.hld f) s s w f.off.toInt f.bytes (fun t => ∃ u, exec (.hld f) s = .next u
      ∧ u.me.regs = (t.me.markEmpty f.d.toNat f.regs).regs ∧ u.me.pc = s.me.pc + 8))
  ∧ (∀ (f : MForm) (s s1 : State) (w : DWord) (vs : List Val), Ready (.hst f) [f.srcD f.regs] [] s →
    readData f.d f.regs s = .ok (vs, s1) → hget f.a .fill s1 = .ok (w, s1) → s1.away w = true →
    awayEnds (.hst f) s s1 w f.off.toInt f.bytes (fun t => exec (.hst f) s = retired s t))

/-- R146 to R150: QCFG configures a ring register from eight registers or takes it out of use, QRSV reserves the tail
slot of its ring (of every member's ring for a link) under a fill handle, QPOP pops the head slot and moves the see
handle, and QSTAT writes the ring's state. -/
def Obligations.Rings : Prop :=
  (∀ (f : RForm) (s : State), Ready (.qcfg f) (f.srcA 8).each [] s →
    let vs := s.me.regsFrom f.a.toNat 8
    vs.all (fun v => !v.poison) = true → s.ringEmpty (s.me.ring (ringNumber f.d)) = true →
    vs.all (fun v => v.w == 0) = true →
    exec (.qcfg f) s = retired s (s.deconfigure s.cur (ringNumber f.d)))
  ∧ (∀ (f : RForm) (s s2 : State) (r : Ring) (slots : Assoc RingSlot), Ready (.qcfg f) (f.srcA 8).each [] s →
    let q := ringNumber f.d
    let vs := s.me.regsFrom f.a.toNat 8
    vs.all (fun v => !v.poison) = true → s.ringEmpty (s.me.ring q) = true → vs.all (fun v => v.w == 0) = false →
    parseRing (fun i => (vs.getD i {}).w) = some r → (r.link = false → s.ringClash s.cur q r = false) →
    (s.deconfigure s.cur q).entriesFree s.myDie r.nslot = true →
    ringEntries s.cur q r 0 r.nslot (s.deconfigure s.cur q) = .ok (slots, s2) →
    exec (.qcfg f) s = retired s (s2.setMe { s2.me with rings := s2.me.rings.set ringDefault q { r with slots := slots } }))
  ∧ (∀ (f : RForm) (s s1 : State) (lim : Val), Ready (.qrsv f) [f.srcB] [] s → s.take f.b = some (lim, s1) →
    lim.poison = false → FreeHandle s f.d →
    let q := ringNumber f.a
    let r := s.me.ring q
    let ts := r.targets s.cur q
    r.configured = true → ts.length ≤ 1 → (∀ t ∈ ts, TailFree s1 t) →
    let t := reserveAll s1 ts
    exec (.qrsv f) s = retired s (withHandle t f.d
      (t.handleTo (if r.link then kindJoint else kindFill) ((ts.map s1.tailEntry).headD 0))))
  ∧ (∀ (f : RForm) (s s1 s2 : State) (lim : Val) (j : Nat), Ready (.qrsv f) [f.srcB] [] s → s.take f.b = some (lim, s1) →
    lim.poison = false → FreeHandle s f.d →
    let q := ringNumber f.a
    let ts := (s.me.ring q).targets s.cur q
    (s.me.ring q).configured = true → 1 < ts.length → (∀ t ∈ ts, TailFree s1 t) → s1.entriesFree s.myDie 1 = true →
    newEntry s.myDie (reserveAll s1 ts) = .ok (j, s2) →
    let t := s2.setEntry j
      { used := true, fill := true, gen := (s2.entry j).gen, members := ts.map s1.tailEntry
        len := (s2.entry ((ts.map s1.tailEntry).headD 0)).len, scratch := true
        world := (s2.die s2.myDie).wid, lid := s2.lidOf s2.cur }
    exec (.qrsv f) s = retired s (withHandle t f.d (t.handleTo kindJoint j)))
  ∧ (∀ (f : RForm) (s : State), modeLegal (.qpop f) s.me.xlt = true →
    let q := ringNumber f.a
    let r := s.me.ring q
    r.configured = true → r.link = false → 0 < r.res → (r.slotAt r.h).broken = false → (f.d ≠ 0 → FreeHandle s f.d) →
    let t := s.popRing s.cur q
    exec (.qpop f) s = retired s (if f.d = 0 then t.dropSee r.headEntry else withHandle t f.d (t.handleTo kindSee r.headEntry)))
  ∧ (∀ (f : RForm) (s : State), Instr.wf (.qstat f) = true → Ready (.qstat f) [] [f.dst 2] s →
    (s.me.ring (ringNumber f.a)).configured = true →
    let r : Val2 := { w := s.ringStatus (s.me.ring (ringNumber f.a)) }
    exec (.qstat f) s = retired s ((s.put f.d r.lo).put (f.d + 1) r.hi))

/-- R172 to R176, R181 to R184, R187: an elementwise instruction that passes its checks reads every element it needs
now, gathers the flags of the elements that it writes, keeps the unit busy, owes D's view, and has the results of all
active places (for VSEL of every place) on their way to it. R187, R185: VMOV copies elements (px8 blocks whole),
VBCAST one element, VTRN the transposed view; VLUT and VPERM look elements up by an unsigned index, and give 0 for one
past the table. None of them raises a flag. -/
def Obligations.VectorElements : Prop :=
  (∀ (i : Instr) (e : Elementwise) (s : State) (fmts : List Nat), elementwiseOf i = some e → modeLegal i s.me.xlt = true →
      elementChecks e.f e.op s = .ok (fmts, s) →
      let rs := s.elementRows e.f e.op (e.fn s)
      Silent s (flagsOf rs) →
      exec i s = retired s ((s.addFlags (flagsOf rs)).putView e.f.d (rs.map Prod.fst) (s.elementBusy e.f e.op fmts)))
  ∧ ((∀ (f : VForm) (s : State) (fmts : List Nat), modeLegal (.vmov f) s.me.xlt = true → (s.me.view f.d).format ≠ fmtPx8 →
      elementChecks f (moveOp f) s = .ok (fmts, s) →
      exec (.vmov f) s = retired s (s.putView f.d ((s.activePositions f).map (fun p =>
        let e := (s.vOperand f.a (s.me.view f.d).format).at s p.1 p.2
        ElemWrite.mk p.1 p.2 e.bits e.poison)) (s.elementBusy f (moveOp f) fmts)))
    ∧ (∀ (f : VForm) (s : State), modeLegal (.vmov f) s.me.xlt = true → (s.me.view f.d).format = fmtPx8 →
      px8Checks f s = .ok ((), s) →
      exec (.vmov f) s = retired s (s.putView f.d (s.px8Moves f)
        (vectorCycles (s.me.view f.d).rows (s.me.view f.d).cols [fmtPx8])))
    ∧ (∀ (i : Instr) (f : VForm) (shape : View → View → Act Unit) (pick : Nat → Nat → Nat × Nat) (s : State),
      moveFromOf i = some (f, shape, pick) → modeLegal i s.me.xlt = true → moveChecks f shape s = .ok ((), s) →
      exec i s = retired s (s.putView f.d (s.moveWrites f pick)
        (vectorCycles (s.me.view f.d).rows (s.me.view f.d).cols [(s.me.view f.d).format])))
    ∧ (∀ (i : Instr) (x : Lookup) (s : State), lookupOf i = some x → modeLegal i s.me.xlt = true →
      lookupChecks x.f x.table x.index x.integer x.rowsOk s = .ok ((), s) →
      exec i s = retired s (s.putView x.f.d (s.lookupWrites x.f x.table.code x.index.code)
        (vectorCycles (s.me.view x.f.d).rows (s.me.view x.f.d).cols
          ((s.me.view x.f.d).format :: (s.me.view x.table.code).format
            :: (if x.index.code.isView then [s.indexFormat x.index.code] else []))))))

/-- R186, R188 to R190: VCMP writes a mask pair, a reduction registers, VCVT the elements of D in its own format; each
a number of cycles after it has read its sources. R170, R178, R33: what lands puts its bytes into the arena of its
core and its values into the slot, and its span is owed no longer; no other memory and no other slot changes. -/
def Obligations.VectorResults : Prop :=
  ((∀ (rel : BitVec 6) (f : VForm) (s : State) (fa fb : Nat), modeLegal (.vcmp rel f) s.me.xlt = true →
      vcmpChecks rel f s = .ok ((fa, fb), s) →
      let v := s.me.view f.lead
      let rs := s.vcmpBits rel f
      Silent s (predicateFlags rs) →
      let busy := vectorCycles v.rows v.cols [fa, fb]
      exec (.vcmp rel f) s = retired s (((s.addFlags (predicateFlags rs)).occupy busy).landLater
        { mask := some (maskNumber f.d, maskPairOf (v.rows == 1) rs) } (busy + 3)))
    ∧ (∀ (i : Instr) (x : Reduction) (s : State), reductionOf i = some x → modeLegal i s.me.xlt = true →
      reductionChecks x.f x.accept x.ix s = .ok ((), s) → s.me.fullFrom x.f.d.toNat (s.reducedRegs x.f x.ix) = true →
      let v := s.me.view x.f.a
      let xs := s.reducedElems x.f
      let p := xs.any (fun y => y.2.poison)
      let r := x.fn x.f (roundMode s.me x.f.rnd) v.format xs
      Quiet s p r.flags →
      let busy := vectorCycles v.rows v.cols [v.format]
      let t := withFlags s p r.flags
      exec i s = retired s (((t.setMe (t.me.markEmpty x.f.d.toNat (s.reducedRegs x.f x.ix))).occupy busy).landLater
        { regs := s.regWrites x.f.d (s.reducedWords x.f x.ix r) p } (busy + 8)))
    ∧ (∀ (f : VForm) (s : State), modeLegal (.vcvt f) s.me.xlt = true → vcvtChecks f s = .ok ((), s) →
      let v := s.me.view f.d
      let rs := if v.format = fmtPx8 then s.vcvtBlocks f else s.vcvtElems f
      Silent s (flagsOf rs) →
      exec (.vcvt f) s = retired s ((s.addFlags (flagsOf rs)).putView f.d (rs.map Prod.fst)
        (vectorCycles v.rows v.cols [v.format, (s.me.view f.a).format]))))
  ∧ (∀ (s : State) (k : Nat) (r : Result), s.subject = [k, r.id] → s.results.find? (fun x => x.id == r.id) = some r →
      (s.slot k).draining = false →
      ∃ t, exec .vectorWritesLand s = .next t
        ∧ t.memAt (.arena r.core) = (if r.writes.isEmpty && r.poisoned.isEmpty then s.memAt (.arena r.core)
            else (s.memAt (.arena r.core)).land r.writes r.poisoned)
        ∧ (∀ p, p ≠ .arena r.core → t.memAt p = s.memAt p) ∧ (∀ j, j ≠ k → t.slot j = s.slot j)
        ∧ (∀ n m, r.mask = some (n, m) → n ≠ 0 → (t.slot k).mask n = m)
        ∧ (t.slot k).fflags = (s.slot k).fflags ||| r.flags
        ∧ (r.regs = [] → (t.slot k).regs = (s.slot k).regs)
        ∧ (∀ e, r.regs = [e] → e.1 ≠ 0 → (t.slot k).regAt e.1 = e.2.toReg)
        ∧ (∀ x ∈ t.spans, x.id = r.id → x.held = true) ∧ (∀ x ∈ t.results, x.id ≠ r.id))

/-- R179, R180: VSET gives a view its format and shape once no span of the view is owed, and traps TFORMAT where a
field does not fit; MSET writes a mask pair. -/
def Obligations.ViewsAndMasks : Prop :=
  (∀ (fmt : BitVec 8) (f : RForm) (s s1 s2 : State) (a b : Val), Ready (.vset fmt f) [f.srcA, f.srcB] [] s →
    s.take f.a = some (a, s1) → s1.take f.b = some (b, s2) → a.poison = false → b.poison = false →
    s2.viewOwed f.d = false → (shapeOf a.w b.w).Fits fmt.toNat →
    exec (.vset fmt f) s = retired s (s2.setMe (s2.me.setView f.d ((shapeOf a.w b.w).view fmt))))
  ∧ (∀ (fmt : BitVec 8) (f : RForm) (s s1 s2 : State) (a b : Val), Ready (.vset fmt f) [f.srcA, f.srcB] [] s →
    s.take f.a = some (a, s1) → s1.take f.b = some (b, s2) → a.poison = false → b.poison = false →
    s2.viewOwed f.d = false → ¬ (shapeOf a.w b.w).Fits fmt.toNat →
    ∃ why, exec (.vset fmt f) s = traps (.vset fmt f) s .tformat f.d.toNat why ∧ why ∈ [0x110, 0x111, 0x112, 0x113])
  ∧ (∀ (f : RForm) (s : State), Ready (.mset f) [f.srcA 2, f.srcB 2] [] s →
    s.maskPending s.cur (maskNumber f.d) = false → (s.me.pair f.a.toNat).poison = false →
    (s.me.pair f.b.toNat).poison = false →
    exec (.mset f) s = retired s (s.setMe (s.me.setMask (maskNumber f.d)
      { ky := (s.me.pair f.a.toNat).w, kx := (s.me.pair f.b.toNat).w })))

/-- R191 to R193: the vector memory instructions find the place of every unit, in row-major order, before they begin.
A load then owes D's view until it lands, and sends one load per unit, whose bytes go where the unit stands in the
view; a store reads each unit's bytes now and sends one store per unit. VGATH and VSCAT do the same for each active
element, at its index in elements from the base; the elements of a VSCAT follow one another. -/
def Obligations.VectorMemory : Prop :=
  (∀ (f : MForm) (s s1 : State) (us : List (ViewPart × List Piece)), modeLegal (.vld f) s.me.xlt = true →
    vectorReady [f.srcA] [{ code := f.d }] [] true s = .ok ((), s) →
    let org := addressIn s f
    (s.me.pair f.a.toNat).poison = false → org % fmtAlign (s.me.view f.d).format = 0 →
    us.map Prod.fst = unitsOf (s.me.view f.d) →
    Placed (fun u => target f.d f.space.toNat ((org + u.rel) % 2 ^ 64) u.len false) s us s1 →
    exec (.vld f) s = retired s (viewLoading s1 f f.ord (cappedScope f.space.toNat f.scope.toNat) us))
  ∧ (∀ (f : MForm) (s s1 : State) (us : List (ViewPart × List Piece)), modeLegal (.vst f) s.me.xlt = true →
    vectorReady [f.srcA, f.srcD 1] [] [] false s = .ok ((), s) →
    let org := addressIn s f
    (s.me.pair f.a.toNat).poison = false → org % fmtAlign (s.me.view f.d).format = 0 →
    us.map Prod.fst = unitsOf (s.me.view f.d) → NibblesFit us →
    Placed (fun u => target f.d f.space.toNat ((org + u.rel) % 2 ^ 64) u.len true) s us s1 →
    exec (.vst f) s = retired s (viewStoring s1 f f.ord (cappedScope f.space.toNat f.scope.toNat) 1 us))
  ∧ (∀ (f : MForm) (s s1 : State) (w : DWord) (us : List (ViewPart × List Piece)),
    modeLegal (.vldh f) s.me.xlt = true → vectorReady [] [{ code := f.d }] [] true s = .ok ((), s) →
    hget f.a .live s = .ok (w, s) → s.away w = false → (handleKind w = kindSee → Seen s (handleEntry w)) →
    let tiles := (s.membersOf (handleEntry w)).take 1
    f.off.toInt % fmtAlign (s.me.view f.d).format = 0 → us.map Prod.fst = unitsOf (s.me.view f.d) →
    (∀ u ∈ us, UnitInTiles s f tiles u.1) →
    Placed (fun u => tileTargets (f.off.toInt + u.rel).toNat u.len false tiles) s us s1 →
    exec (.vldh f) s = retired s (viewLoading s1 f (if handleKind w = kindSee then 1 else 0)
      (if handleKind w = kindSee then 4 else 0) us))
  ∧ (∀ (f : MForm) (s s1 : State) (w : DWord) (us : List (ViewPart × List Piece)),
    modeLegal (.vsth f) s.me.xlt = true → vectorReady [f.srcD 1] [] [] false s = .ok ((), s) →
    hget f.a .fill s = .ok (w, s) → s.away w = false →
    let tiles := s.membersOf (handleEntry w)
    f.off.toInt % fmtAlign (s.me.view f.d).format = 0 → us.map Prod.fst = unitsOf (s.me.view f.d) → NibblesFit us →
    (∀ u ∈ us, UnitInTiles s f tiles u.1) →
    Placed (fun u => tileTargets (f.off.toInt + u.rel).toNat u.len true tiles) s us s1 →
    exec (.vsth f) s = retired s (viewStoring s1 f 0 0 tiles.length us))
  ∧ (∀ (f : RForm) (s s1 : State) (xs : List (Lane × List Piece)), modeLegal (.vgath f) s.me.xlt = true →
    vectorReady [f.srcA 2, f.srcB] [{ code := f.d }] [maskNumber f.c] true s = .ok ((), s) →
    LanesFit s f → xs.map Prod.fst = lanesOf s f →
    Placed (fun x => globalTarget (laneAddress s f x) (laneBytes s f) false) s xs s1 →
    let t := sendLoads (awaitsView s1 f.d (laneCycles s1 f)) (xs.map (fun x =>
      { id := 0, kind := .load, pieces := x.2, dest := .vector s1.nextId ((s1.grid f.d).bytesOf x.1.i x.1.j).1 }))
    exec (.vgath f) s = retired s
      (if xs = [] then t.schedule (s1.cycle + laneCycles s1 f) .vectorWritesLand [s1.cur, s1.nextId] else t))
  ∧ (∀ (f : RForm) (s s1 : State) (xs : List (Lane × List Piece)), modeLegal (.vscat f) s.me.xlt = true →
    vectorReady [f.srcA 2, f.srcB, { code := f.d }] [] [maskNumber f.c] false s = .ok ((), s) →
    LanesFit s f → xs.map Prod.fst = lanesOf s f →
    Placed (fun x => globalTarget (laneAddress s f x) (laneBytes s f) true) s xs s1 →
    let m := s1.memAt (s1.grid f.d).place
    let at_ := fun (x : Lane) => (s1.grid f.d).bytesOf x.i x.j
    exec (.vscat f) s = retired s (sendStores { s1.occupy (laneCycles s1 f) with nextId := s1.nextId + 1 } (xs.map (fun x =>
      { id := 0, kind := .store, pieces := x.2, data := m.bytes (at_ x.1).1 (at_ x.1).2
        poison := m.poisonIn (at_ x.1).1 (at_ x.1).2, chain := some s1.nextId }))))

/-- R195, R204: a tile instruction that passes its checks without a grant posts its request and parks. R195, R196,
R204: a tile instruction that holds a grant reads its operands and issues in that cycle: its results, with their flags
and counts, are on their way to D's view, which is owed until they land ten cycles after the unit's occupancy ends,
and the unit is busy for the occupancy. -/
def Obligations.TileInstructions : Prop :=
  (∀ (i : Instr) (op : Nat) (f : TForm) (s : State) (j : TileJob), tileOf i = some (op, f) → modeLegal i s.me.xlt = true →
      tilePrep op f s = .ok (j, s) → recordParks j (wordOf i) s = .ok ((), s) → s.me.granted = false →
      exec i s = .next ((s.unpop (requesting s)).parkSlot s.cur { xval := 0 }))
  ∧ (∀ (i : Instr) (op : Nat) (f : TForm) (s s1 : State) (j : TileJob) (plan : Option RecordPlan),
      tileOf i = some (op, f) → modeLegal i s.me.xlt = true → tilePrep op f s = .ok (j, s) →
      recordParks j (wordOf i) s = .ok ((), s) → planRecord j (wordOf i) s = .ok (plan, s1) → s.me.granted = true →
      ∃ t, exec i s = retired s t
        ∧ (t.cluster (clusterOfCore s.myCore)).matrixBusy = s.cycle + j.occupancy
        ∧ { s1.tileResult j s1.nextId (j.cells (s1.tileInput j (s1.grid f.d))) with
            selects := plan.isSome && j.selects } ∈ t.results
        ∧ { id := s1.nextId, slot := s.cur, core := s.myCore, window := s1.me.window, lo := (s1.me.view f.d).lo
            hi := (s1.me.view f.d).hi, held := false } ∈ t.spans
        ∧ { at_ := s.cycle + j.occupancy + 10, step := .tileResultsLand, subject := [s.cur, s1.nextId] } ∈ t.agenda
        ∧ (∀ p, t.memAt p = s1.memAt p ∨ plan.isSome = true))

/-- R195, R196: a free unit grants one request of its cluster. Of the cores in which a slot asks it takes the next
after the core granted last, and in that core the next slot that asks after the slot granted last there; both become
the last granted, and what the other cores were granted last stays. With no request, or a busy unit, nothing happens.
The granted slot is the first that its core issues, ahead of the core's own order. R196, R206, R145: results of the
matrix unit put their bytes into the arena of its core and their flags into the slot, and their span is owed no
longer, a held span ends, and a ring slot that no instruction reads any more is free. -/
def Obligations.MatrixUnit : Prop :=
  ((∀ (s : State) (cl : Nat), s.subject = [cl] → (s.cluster cl).matrixBusy ≤ s.cycle →
      (∃ c i, c < 4 ∧ i < 4 ∧ s.requests (slotOfCluster cl c i) = true) →
      ∃ t c i, exec .matrixGrant s = .next t ∧ c < 4 ∧ i < 4 ∧ s.requests (slotOfCluster cl c i) = true
        ∧ (∀ d j, d < 4 → j < 4 → s.requests (slotOfCluster cl d j) = true →
          rank (s.cluster cl).matrixCore c < rank (s.cluster cl).matrixCore d
            ∨ c = d ∧ rank (lastSlot s cl c) i ≤ rank (lastSlot s cl c) j)
        ∧ (t.slot (slotOfCluster cl c i)).granted = true
        ∧ (∀ k, k ≠ slotOfCluster cl c i → t.slot k = s.slot k)
        ∧ (t.cluster cl).matrixCore = c ∧ lastSlot t cl c = i ∧ (∀ d, d ≠ c → lastSlot t cl d = lastSlot s cl d))
    ∧ (∀ (s : State) (cl : Nat), s.subject = [cl] →
      s.cycle < (s.cluster cl).matrixBusy ∨ (∀ c i, c < 4 → i < 4 → s.requests (slotOfCluster cl c i) = false) →
      exec .matrixGrant s = .next s)
    ∧ (∀ (s : State) (k j n : Nat), (s.slot k).granted = true → s.mayIssue k = true →
      (∀ i, coreOfSlot i = coreOfSlot k → (s.slot i).granted = true → i = k) →
      (s.turn = coreOfSlot k → s.tried = 0) → s.nextIssuer = some (j, n) → coreOfSlot j = coreOfSlot k → j = k ∧ n = 0))
  ∧ ((∀ (s : State) (k : Nat) (r : Result), s.subject = [k, r.id] → s.results.find? (fun x => x.id == r.id) = some r →
      (s.slot k).draining = false →
      ∃ t, exec .tileResultsLand s = .next t
        ∧ t.memAt (.arena r.core) = (if r.writes.isEmpty && r.poisoned.isEmpty then s.memAt (.arena r.core)
            else (s.memAt (.arena r.core)).land r.writes r.poisoned)
        ∧ (∀ p, p ≠ .arena r.core → t.memAt p = s.memAt p) ∧ (∀ j, j ≠ k → t.slot j = s.slot j)
        ∧ (t.slot k).fflags = (s.slot k).fflags ||| r.flags
        ∧ (∀ x ∈ t.spans, x.id = r.id → x.held = true) ∧ (∀ x ∈ t.results, x.id ≠ r.id))
    ∧ (∀ (s : State) (k id : Nat), s.subject = [k, id] →
      ∃ t, exec .heldSpanRelease s = .next t ∧ (∀ x ∈ t.spans, x.held = true → x.id ≠ id)
        ∧ (∀ x ∈ s.spans, x.id ≠ id ∨ x.held = false → x ∈ t.spans) ∧ t.slots = s.slots)
    ∧ (∀ (s : State) (k q i : Nat) (x : RingSlot), s.subject = [k, q, i] → ((s.slot k).ring q).slots.find i = some x →
      x.readers = 1 → x.drain = true → (s.entry x.entry).fill = false → (s.entry x.entry).sees = 0 →
      ∃ t, exec .ringSlotFrees s = .next t
        ∧ ((t.slot k).ring q).slotAt i = { x with readers := 0, drain := false, freed := some s.cycle }))

/-- R198, R254 to R257, R259, R260: TFMT swaps the format context, TREC switches recording, TLOGB places an empty log,
TMARK and TLSTAT read where it ends, and the two forms of TGMAP say where gradients lie. -/
def Obligations.TileControl : Prop :=
  (∀ (f : RForm) (s s1 : State) (a : Val), Ready (.tfmt f) [f.srcA] (if f.d = 0 then [] else [f.dst]) s →
    s.take f.a = some (a, s1) → a.poison = false → ContextWord a.w →
    let t := s1.setMe { s1.me with tfmt := a.w.extractLsb' 0 13 }
    Open t f.d → exec (.tfmt f) s = retired s (t.put f.d { w := s.me.tfmt.zeroExtend 32 }))
  ∧ (∀ (f : RForm) (s s1 : State) (a : Val), Ready (.tfmt f) [f.srcA] (if f.d = 0 then [] else [f.dst]) s →
    s.take f.a = some (a, s1) → a.poison = false → ¬ ContextWord a.w →
    exec (.tfmt f) s = traps (.tfmt f) s .tformat f.a.toNat 0x201)
  ∧ (∀ (f : RForm) (s s1 : State) (a : Val), Ready (.trec f) [f.srcA] [] s → s.take f.a = some (a, s1) →
    a.poison = false → exec (.trec f) s = retired s (s1.setMe { s1.me with trcEn := decide (a.w.toNat % 2 = 1) }))
  ∧ (∀ (f : RForm) (s s1 : State) (n : Val), Ready (.tlogb f) [f.srcA 2, f.srcB] [] s → s.take f.b = some (n, s1) →
    n.poison = false →
    let b := s.me.pair f.a.toNat
    b.poison = false → b.w.toNat % 64 = 0 → n.w.toNat % 64 = 0 → (b.w.toNat + n.w.toNat - 1) % 2 ^ 64 < 2 ^ 56 →
    exec (.tlogb f) s = retired s (s1.setMe { s1.me with
      tlbase := b.w, tllim := n.w, tltail := 0, trcur := 0xFFFFFFFF, reversal := none, recent := [] }))
  ∧ (∀ (f : RForm) (s : State), Ready (.tmark f) [] [f.dst] s → Open s f.d →
    exec (.tmark f) s = retired s (s.put f.d { w := s.me.tltail }))
  ∧ (∀ (f : RForm) (s : State), Instr.wf (.tlstat f) = true → Ready (.tlstat f) [] [f.dst 2] s →
    exec (.tlstat f) s = retired s ((s.put f.d { w := s.me.tltail }).put (f.d + 1) { w := s.me.trcur }))
  ∧ (∀ (f : RForm) (s s1 : State) (a : Val), Ready (.tgmapView f) [f.srcA] [] s → s.take f.a = some (a, s1) →
    a.poison = false → a.w.toNat < 2 ^ 16 → a.w.toNat % 4 = 0 →
    exec (.tgmapView f) s = retired s (s1.setMe { s1.me with
      gvoff := s1.me.gvoff.set gvoffDefault (f.d.toNat - 80) (BitVec.ofNat 16 a.w.toNat) }))
  ∧ (∀ (f : RForm) (s : State), Ready (.tgmapDelta f) [f.srcA 2] [] s → (s.me.pair f.a.toNat).poison = false →
    exec (.tgmapDelta f) s = retired s (s.setMe { s.me with gdelta := (s.me.pair f.a.toNat).w }))

/-- R258, R247 to R253: TREV, at a mark of the log, suspends recording and retires once no record is left at or above
the mark, cutting the log there; else it asks for the unit, and at a grant runs the adjoint of the newest record left,
whose second request waits for a grant of its own. -/
def Obligations.ReverseSteps : Prop :=
  (∀ (f : RForm) (s s1 : State) (a : Val), Ready (.trev f) [f.srcA] [] s → s.take f.a = some (a, s1) → MarkFits s1 a →
    s1.me.reversal = none → (s1.me.trcur = 0xFFFFFFFF ∨ s1.me.trcur.toNat < a.w.toNat) →
    exec (.trev f) s = .next ((s1.setMe (reversed s1 s.me.pc a.w)).issued s.cur))
  ∧ (∀ (f : RForm) (s s1 s2 : State) (a : Val) (p : ReversePlan), Ready (.trev f) [f.srcA] [] s →
    s.take f.a = some (a, s1) → MarkFits s1 a → s1.me.reversal = none → s1.me.trcur ≠ 0xFFFFFFFF →
    a.w.toNat ≤ s1.me.trcur.toNat → planReverse s1.me.trcur.toNat (suspended s1) = .ok (p, s2) → s1.me.granted = false →
    let u := s.unpop (suspended s1)
    exec (.trev f) s = .next ((u.unpop (requesting s2)).parkSlot u.cur { xval := 0 }))
  ∧ (∀ (f : RForm) (s s1 s2 : State) (a : Val) (p : ReversePlan), Ready (.trev f) [f.srcA] [] s →
    s.take f.a = some (a, s1) → MarkFits s1 a → s1.me.reversal = none → s1.me.trcur ≠ 0xFFFFFFFF →
    a.w.toNat ≤ s1.me.trcur.toNat → planReverse s1.me.trcur.toNat (suspended s1) = .ok (p, s2) → s1.me.granted = true →
    exec (.trev f) s = afterGrant s (firstGrant p s2) a.w)
  ∧ (∀ (f : RForm) (s s1 : State) (a : Val) (v : Reversal), Ready (.trev f) [f.srcA] [] s →
    s.take f.a = some (a, s1) → MarkFits s1 a → s1.me.reversal = some v → s1.me.granted = true →
    exec (.trev f) s = afterGrant s (secondGrant v (suspended s1)) a.w)

/-- R221 to R225: CPY, CPYH and CPYM park until their descriptor has been read; then, where it is well formed and the
cluster's queue has a place, the copy stands last in that queue, its handle register is empty, and it may start eight
cycles later. R226 to R228: the oldest copy of a cluster starts where fewer than four run and no completion is held
up; a copy that faults moves nothing more; one that has ended puts its completion message last in the inbox of its
core. -/
def Obligations.Copies : Prop :=
  ((∀ (i : Instr) (f : RForm) (handle single : Bool) (s s1 s2 : State) (o : Val) (w : DWord)
      (len : Option Nat) (bs : List Byte), copyOf i = some (f, handle, single) → Ready i [f.srcA 2, f.srcB] [] s
        → s.take f.b = some (o, s1) →
      let b := s.me.pair f.a.toNat
      b.poison = false → o.poison = false → FillOf handle single f s1 w len → b.w.toNat % 64 = 0 →
      readAtIssue s f.a b.w.toNat 2 s1 = .ok ((bs, false), s2) → CopyFits handle len bs o.w.toNat →
      ((s2.cluster (myCluster s)).copyQueue).length < 16 →
      ∃ t c, exec i s = retired s t ∧ (t.cluster (myCluster s)).copyQueue = (s2.cluster (myCluster s)).copyQueue ++ [c]
        ∧ c.desc = parseDesc bs ∧ c.extra = o.w.toNat ∧ c.word = w ∧ c.slot = s.cur ∧ c.tag = f.c.zeroExtend 8
        ∧ (handle = true → t.me.handleAt f.d = 0)
        ∧ (∃ d ∈ t.agenda, d.step = .copyStart ∧ d.subject = [myCluster s, c.id] ∧ s.cycle + 8 ≤ d.at_))
    ∧ (∀ (i : Instr) (f : RForm) (handle single : Bool) (s s1 s2 : State) (o : Val) (w : DWord)
      (len : Option Nat) (ps : List Piece), copyOf i = some (f, handle, single) → Ready i [f.srcA 2, f.srcB] [] s →
      s.take f.b = some (o, s1) →
      let b := s.me.pair f.a.toNat
      b.poison = false → o.poison = false → FillOf handle single f s1 w len → b.w.toNat % 64 = 0 →
      lineTargets b.w.toNat 2 s1 = .ok (ps, s2) → s.me.arrival = none →
      ∃ t : State, exec i s = .next (t.parkSlot s.cur (waitArrival f.a)) ∧ t.me.pc = s.me.pc
        ∧ ∃ n, t.me.arrival = some n ∧ s.cycle + 4 ≤ n))
  ∧ ((∀ (s : State) (cl : Nat) (c : CopyCmd) (rest : List CopyCmd), s.subject = [cl, c.id] →
      (s.cluster cl).copyQueue = c :: rest → (s.cluster cl).copyRuns.length < 4 →
      (s.cluster cl).copyRuns.any CopyRun.blocked = false →
      ∃ t, exec .copyStart s = .next t ∧ (t.cluster cl).copyQueue = rest
        ∧ (t.cluster cl).copyRuns = (s.cluster cl).copyRuns ++ [{ cmd := c, remaining := [(0, c.desc.pieceCount)] }])
    ∧ (∀ (s : State) (cl id : Nat) (r : CopyRun), s.subject = [cl, id] →
      (s.cluster cl).copyRuns.find? (fun r => r.cmd.id == id) = some r → r.ended = false → r.cmd.word = 0 →
      ∃ t, exec .copyFault s = .next t
        ∧ (∀ x ∈ (t.cluster cl).copyRuns, x.cmd.id = id → x.ended = true ∧ x.remaining = [])
        ∧ (∀ p, t.memAt p = s.memAt p)
        ∧ ∃ d ∈ t.agenda, d.step = .copyCompletion ∧ d.subject = [cl, id] ∧ s.cycle + 4 ≤ d.at_)
    ∧ (∀ (s : State) (cl id : Nat) (r : CopyRun), s.subject = [cl, id] →
      (s.cluster cl).copyRuns.find? (fun r => r.cmd.id == id) = some r → (r.dropped = true ∨ r.cmd.word = 0) →
      (s.launches.find r.cmd.lid).all (fun l => !l.saved) = true →
      let core := coreOfSlot r.cmd.slot
      (s.core core).copies.head? = some id → (s.core core).inbox.length < 64 →
      ∃ t m w, exec .copyCompletion s = .next t ∧ (t.core core).inbox = (s.core core).inbox ++ [m]
        ∧ m.kind = .completion ∧ m.words = [{ w := w }] ∧ w.toNat % 2 ^ 16 = r.cmd.seq.toNat
        ∧ (r.fault = none → w.toNat / 2 ^ 16 = 0)
        ∧ (∀ c code, r.fault = some (c, code) →
          w.toNat / 2 ^ 16 = 2 ^ 15 + c.code.toNat % 2 ^ 7 * 2 ^ 8 + code % 2 ^ 8)
        ∧ (t.core core).copies = (s.core core).copies.drop 1
        ∧ (∀ x ∈ (t.cluster cl).copyRuns, x.cmd.id ≠ id)))

/-- R229 to R236: SEND and SEND on a channel send the outbox as one message to a live core of the world, after a
release at world scope, and leave it empty; RECV makes a message current and owes D its header two cycles later. R28,
R232, R235, R366, R383: a message whose turn has come enters the inbox of its destination last, and a word on its way
through a link port can then be popped. What another package sends is refused where the world that it names does not
hold the die; else its message enters the inbox, and its drop of a handle settles the tile here. -/
def Obligations.Messages : Prop :=
  ((∀ (f : RForm) (s s1 s2 : State) (a b : Val), Ready (.send f) [f.srcA, f.srcB] [] s → s.take f.a = some (a, s1) →
      s1.take f.b = some (b, s2) → a.poison = false → b.poison = false → a.w.toNat / 4 % 64 = 0 → b.w.toNat < 256 →
      s.me.outbox ≠ [] →
      let d : Dest2 := { remote := none, die := coordDie a.w, y := coordY a.w, x := coordX a.w }
      s2.destLive (s.die s.myDie).wid d = true → s2.sendQueueFull = false →
      let t := messageSent (s2.releaseSlot s.cur 4)
        { kind := .data, header := headerOf s.cur false false (BitVec.ofNat 8 b.w.toNat), words := s.me.outbox } d
      exec (.send f) s = retired s (t.setMe { t.me with outbox := [] }))
    ∧ (∀ (ch : BitVec 8) (f : RForm) (s : State), modeLegal (.sendChannel ch f) s.me.xlt = true →
      let e := s.route s.cur ch.toNat
      let d := resolveRoute e s.myCore
      e.getLsbD 63 = true → s.me.outbox ≠ [] → s.destLive (s.die s.myDie).wid d = true → s.sendQueueFull = false →
      let t := messageSent (s.releaseSlot s.cur (if d.remote.isSome then 5 else 4))
        { kind := .data, header := headerOf s.cur (d.remote.any (fun p => p != s.pkgid.toNat)) false (e.extractLsb' 0 8)
          words := s.me.outbox } d
      exec (.sendChannel ch f) s = retired s (t.setMe { t.me with outbox := [] }))
    ∧ (∀ (f : RForm) (s s1 s2 : State) (a lim : Val) (i : Nat) (m : Msg), Instr.wf (.recv f) = true →
      Ready (.recv f) [f.srcA, f.srcB] [f.dst] s → s.take f.a = some (a, s1) → s1.take f.b = some (lim, s2) →
      a.poison = false → lim.poison = false → a.w.toNat < 2 ^ 16 → Selected (s2.core s.myCore) a.w i m →
      exec (.recv f) s = retired s ((s2.modCore s.myCore (fun c => { c with current := some i })).owe f.d
        [{ w := m.fullHeader }] 2 .divisionLands)))
  ∧ ((∀ (s : State) (m : FlyingMsg), s.subject = [m.id] → s.flying.find? (fun x => x.id == m.id) = some m →
      s.flying.all (fun x => decide (m.id ≤ x.id) || x.src != m.src || x.dst != m.dst || x.remote != m.remote) = true →
      m.remote = none → (s.launches.find m.lid).all (fun l => !l.saved) = true → (s.core m.dst).inbox.length < 64 →
      ∃ t, exec .messageEntersInbox s = .next t ∧ (t.core m.dst).inbox = (s.core m.dst).inbox ++ [m.msg])
    ∧ (∀ (s : State) (wid dst header : Nat) (words : List Nat), s.subject = wid :: 0 :: dst :: header :: words →
      (s.portAccepts wid (dieOfCore dst) = false →
        exec .messageEntersInbox s = .next (s.schedule s.cycle (.diePortRefusal wid (dieOfCore dst))))
      ∧ (∀ lid, s.portAccepts wid (dieOfCore dst) = true → s.launchAt wid (dieOfCore dst) = some lid →
        (s.launches.find lid).all (fun l => !l.saved) = true → (s.core dst).inbox.length < 64 →
        ∃ t, exec .messageEntersInbox s = .next t ∧ (t.core dst).inbox = (s.core dst).inbox ++ [
          { kind := .data, header := BitVec.ofNat 32 header
            words := words.map (fun x => ({ w := BitVec.ofNat 32 x } : Val)) }]))
    ∧ (∀ (s : State) (wid : Nat) (w : DWord), s.subject = [wid, 2, w.toNat, 1] →
      s.portAccepts wid (handleDie w) = true → s.away w = false → s.stale wid w = false → handleKind w ≠ 0 →
      exec .messageEntersInbox s = .next (if handleKind w = kindSee then s.dropSee (handleEntry w)
        else s.settleFill (handleEntry w) .published))
    ∧ (∀ (s : State) (core dir n : Nat) (w : PortWord), s.subject = [core, dir] →
      ((s.core core).port dir).findIdx? (fun x => !x.arrived) = some n → ((s.core core).port dir)[n]? = some w →
      ∃ t, exec .portWordDelivery s = .next t
        ∧ (t.core core).port dir = ((s.core core).port dir).set n { w with arrived := true }))

/-- R262, R265 to R267, R273: FORK puts a task descriptor last in the deque of its core, after a release at die scope,
and empties the handle registers that it moves; EXIT gives up the handles of the slot and frees it, after a release at
world scope where it drops a fill, at system scope where that names a tile of another package (R133), and subtracts 1
from the join counter of a task that has one. -/
def Obligations.TasksForkAndExit : Prop :=
  (∀ (f : IForm) (s s1 : State) (ws : List DWord), Ready (.fork f) (f.srcA 8).each [] s →
    let vs := s.me.regsFrom f.a.toNat 8
    let v := fun (i : Nat) => (vs.getD i {}).w
    let entry := wordsFrom s.me.pc f.imm
    let hf := (v 4).toNat % 16
    let nh := (v 4).toNat / 16 % 4
    vs.all (fun x => !x.poison) = true → ForkFits s v entry → JoinPlace s s1 ((v 4).getLsbD 7) (v 7 ++ v 6) →
    hgetAll hf nh s1 = .ok (ws, s1) →
    let full := decide (64 ≤ (s1.core s.myCore).deque.length)
    (full = true → (s1.core s.myCore).spilled.length < 1024) →
    let u := s1.releaseSlot s.cur 3
    let t := (if full then u.spill s.myCore else u).modCore s.myCore (fun c =>
      { c with deque := c.deque ++ [forked v entry ws] })
    exec (.fork f) s =
      retired s (t.setMe ((List.range nh).foldl (fun sl n => sl.setHandle (hf + n) 0) t.me)))
  ∧ (∀ (f : RForm) (s : State), modeLegal (.exit f) s.me.xlt = true → s.me.ctrl.getLsbD 7 = false →
    let u := if s.me.mode = .task ∧ s.me.handles.any (fun e => decide (1 < handleKind e.2)) = true then
        s.releaseSlot s.cur (if s.me.handles.any (fun e => decide (1 < handleKind e.2) && s.away e.2) = true then 5 else 4)
      else s
    exec (.exit f) s = .next (((u.dropHandles s.cur (decide (s.me.mode = .task))).vacate s.cur).issued s.cur))
  ∧ (∀ (f : RForm) (s s1 : State) (p : Place) (a : Nat), modeLegal (.exit f) s.me.xlt = true →
    s.me.ctrl.getLsbD 7 = true → s.hostDelegated (s.translatorOf s.cur) s.me.jaddr.toNat = false →
    translateMe s.me.jaddr.toNat true s = .ok ((p, a), s1) →
    ∃ t, exec (.exit f) s = .next t ∧ t.me.occupied = false
      ∧ ∃ x ∈ t.me.accs, x.kind = .atomic (.op 0 0) (bytesOfWord 4 0xFFFFFFFF) [] false
        ∧ x.pieces = [{ place := p, off := a, len := 4 }])

/-- R268 to R270, R274, R276, R277: the lowest free slot of a core takes its newest ready entry, whose first
instruction comes four cycles after the next one; spilled entries come back, 32 at a time; a core with nothing to do
asks others, and takes the oldest entry of one that has more than its own free slots will take; a waiting slot has its
word read, and a bound that passes traps WAITX, with the word that was read last as XVAL2, unless the slot has stopped
for a save. R274, R276, R277: JOIN and WAITQ park and have their word read; they go on once a word read lets them (for
JOIN one not above zero, for WAITQ one that is not B); else they trap WAITX with a limit of 0, or wait on. -/
def Obligations.TasksStartAndWait : Prop :=
  ((∀ (s : State) (core k i : Nat) (d : TaskDesc) (l : Launch), s.subject = [core] → s.freeSlot core = some k →
      (s.readyEntries core).getLast? = some (i, d) → s.launchOn (dieOfCore (coreOfSlot k)) = some l →
      ∃ t, exec .taskStart s = .next t ∧ (t.core core).deque = (s.core core).deque.eraseIdx i
        ∧ (t.slot k).occupied = true ∧ (t.slot k).mode = .task ∧ (t.slot k).pc = d.entry ∧ (t.slot k).ready = s.cycle + 1 + 4
        ∧ (t.slot k).cbase = BitVec.ofNat 32 l.codeBase ∧ (t.slot k).ctrl = d.ctrl
        ∧ (∀ n < 4, ((t.slot k).reg (8 + n)).val = d.args.getD n 0) ∧ (∀ j, j ≠ k → t.slot j = s.slot j))
    ∧ (∀ (s : State) (core : Nat), s.subject = [core] → (s.core core).spilled ≠ [] → (s.core core).deque.length ≤ 16 →
      (s.unspillAll core ((s.core core).spilled.drop ((s.core core).spilled.length - 32))).1.isSome = true →
      ∃ t, exec .dequeRefill s = .next t
        ∧ (t.core core).spilled = (s.core core).spilled.take ((s.core core).spilled.length - 32)
        ∧ (t.core core).deque.length = (s.core core).deque.length + min 32 (s.core core).spilled.length)
    ∧ (∀ (s : State) (core : Nat), s.subject = [core] → s.wantsSteal core = true →
      ∃ t, exec .stealAttempt s = .next t
        ∧ (t.core core).steal = some { candidates := s.stealOrder core, asked := s.cycle }
        ∧ ∃ d ∈ t.agenda, d.step = .stealAnswer ∧ d.subject = [core] ∧ d.at_ = s.cycle + 4)
    ∧ (∀ (s : State) (core v i k : Nat) (vs : List Nat) (x : Steal) (d : TaskDesc) (l : Launch), s.subject = [core] →
      (s.core core).steal = some x → s.outranked core x = false → x.candidates = v :: vs →
      (s.core v).gave ≠ some x.asked → s.givesUp v = some (i, d) → s.freeSlot core = some k →
      s.launchOn (dieOfCore (coreOfSlot k)) = some l →
      ∃ t, exec .stealAnswer s = .next t ∧ (t.core core).steal = none ∧ (t.core v).deque = (s.core v).deque.eraseIdx i
        ∧ (t.slot k).occupied = true ∧ (t.slot k).pc = d.entry ∧ s.cycle < (t.slot k).ready
        ∧ (t.slot k).ready ≤ s.cycle + 12)
    ∧ (∀ (s : State) (core v : Nat) (x : Steal), s.subject = [core] → (s.core core).steal = some x → s.outranked core x = false →
      x.candidates = [v] → s.givesUp v = none →
      ∃ t, exec .stealAnswer s = .next t ∧ (t.core core).steal = none ∧ (t.core core).stealEnd = some s.cycle
        ∧ t.slots = s.slots)
    ∧ (∀ (s : State) (k a : Nat) (p : Parked) (pl : Place), s.subject = [k, (s.slot k).retired.toNat] →
      (s.slot k).parked = some p → p.wait.word = some (pl, a) →
      ∃ t, exec .waitWordReread s = .next t
        ∧ (t.slot k).parked = some { p with last := some (s.readWord k pl a).1 }
        ∧ ∃ d ∈ t.agenda, d.step = .waitWordReread ∧ d.subject = s.subject ∧ d.at_ = s.cycle + 256)
    ∧ (∀ (s : State) (k since : Nat) (p : Parked), s.subject = [k, since] → (s.slot k).parked = some p →
      p.since = since → p.wait.limit.isSome = true →
      (s.stopped k = false → exec .boundedWaitExpiry s = .next (s.takeTrap k .waitx p.wait.xval
        (match p.last with
          | some v => v.zeroExtend 64
          | none => p.wait.xval2)
        (s.codeWord (dieOfCore (coreOfSlot k)) (s.slot k).pc)))
      ∧ (s.stopped k = true → exec .boundedWaitExpiry s = .next s)))
  ∧ (∀ (i : Instr) (x : WordWait) (s u : State) (b limit : Word) (t : Place × Nat), wordWaitOf i = some x →
      WaitsAt i x s b limit t u →
      (s.me.parked.filter (fun p => p.wait.word.isSome) = none →
        ∃ s1 : State, exec i s = .next (s1.parkSlot s.cur (waitFor s x t)) ∧ s1.slots = s.slots
          ∧ ∃ d ∈ s1.agenda, d.step = .waitWordReread ∧ d.subject = [s.cur, s.me.retired.toNat] ∧ s.cycle ≤ d.at_)
      ∧ (∀ p v, s.me.parked.filter (fun p => p.wait.word.isSome) = some p → p.last = some v →
        (x.go b v = true → exec i s = retired s u)
        ∧ (x.go b v = false → limit = 0 → exec i s = traps i s .waitx (s.me.pair x.f.a.toNat).w (v.zeroExtend 64))
        ∧ (x.go b v = false → limit ≠ 0 → exec i s = parks s { waitFor s x t with
            xval2 := v.zeroExtend 64, limit := some limit })))

/-- R280, R281: EVWT takes one of its line's count once the waiters before it leave one, or with KEEP sees a count
without taking it; EVSIG sends one to a line of its own cluster, at the end of the cycle, or by message to another. -/
def Obligations.EventLines : Prop :=
  (∀ (f : RForm) (s s2 : State) (a b : Word), EventWords (.evwt f) f s s2 a b → a.toNat < 32 →
    let cl := myCluster s
    let q := (s2.cluster cl).lineWaiters.get queueDefault a.toNat
    ahead q s.cur < ((s2.cluster cl).count a.toNat).toNat →
    exec (.evwt f) s = retired s (s2.modCluster cl (fun c => { c with
      lines := c.lines.set countDefault a.toNat ((s2.cluster cl).count a.toNat - 1)
      lineWaiters := c.lineWaiters.set queueDefault a.toNat (q.filter (fun x => x != s.cur)) })))
  ∧ (∀ (f : RForm) (s s2 : State) (a b : Word), EventWords (.evwt f) f s s2 a b → 256 ≤ a.toNat → a.toNat < 256 + 32 →
    ((s2.cluster (myCluster s)).count (a.toNat - 256) ≠ 0 ∨ s.me.signalled = true) →
    exec (.evwt f) s = retired s (s2.setMe { s2.me with signalled := false }))
  ∧ (∀ (f : RForm) (s s2 : State) (a b : Word), EventWords (.evsig f) f s s2 a b → a.toNat < 32 →
    (b = 0 ∨ 2 ^ 31 ≤ b.toNat ∧ b.toNat - 2 ^ 31 < 72) →
    let cl := if b = 0 then myCluster s else s.myDie * 72 + (b.toNat - 2 ^ 31)
    let u := s2.releaseSlot s.cur (if cl = myCluster s then 2 else 3)
    ∃ t, exec (.evsig f) s = retired s t
      ∧ t.flyingEvents = u.flyingEvents ++ [{ id := u.nextId, cl := cl, line := a.toNat, src := s.cur
                                              lid := u.lidOf s.cur, counted := decide (cl ≠ myCluster s) }]
      ∧ ∃ d ∈ t.agenda, d.step = .eventMessageArrives ∧ d.subject = [u.nextId]
        ∧ (if cl = myCluster s then d.at_ = s.cycle else s.cycle + eventCycles (myCluster s) cl ≤ d.at_))
  ∧ (∀ (s : State) (m : FlyingEvent), s.subject = [m.id] → s.flyingEvents.find? (fun x => x.id == m.id) = some m →
    s.flyingEvents.all (fun x => decide (m.id ≤ x.id) || x.src != m.src || x.cl != m.cl || !x.counted || !m.counted) = true →
    s.lidAt m.cl = m.lid →
    ∃ t, exec .eventMessageArrives s = .next t
      ∧ ((t.cluster m.cl).count m.line).toNat = min 255 (((s.cluster m.cl).count m.line).toNat + 1))

/-- R282: the arrival of an EVBAR is recorded, after the release its level asks for, and parks; the last member's
arrival completes the barrier, whose members then depart; EVLCK takes a free mutex in the order of arrival, and EVUNL
gives it back after a release (R283). -/
def Obligations.BarriersAndMutexes : Prop :=
  (∀ (f : RForm) (s s2 : State) (a b : Word), EventWords (.evbar f) f s s2 a b → s.me.arrived = none →
    a.toNat < 8 → b.toNat < 2 ^ 16 → b.getLsbD (4 * coreInCluster s.myCore + slotNumber s.cur) = true →
    let n := a.toNat
    let bar := (s2.cluster (myCluster s)).barrier n
    bar.first.all (fun x => x == (a, b)) = true →
    ∃ t : State, exec (.evbar f) s = .next (t.parkSlot s.cur { xval := f.a.toNat, reason := 0x07 }) ∧ t.me.arrived = some n
      ∧ ((t.cluster (myCluster s)).barrier n).arrived = bar.arrived ++ [s.cur]
      ∧ (memberCount b ≤ bar.arrived.length + 1 →
        { at_ := s.cycle, step := .barrierDeparture, subject := [myCluster s, n] } ∈ t.agenda))
  ∧ (∀ (f : RForm) (s s2 : State) (a b : Word) (n : Nat), EventWords (.evbar f) f s s2 a b → s.me.arrived = some n →
    s.me.depart = some 0 →
    exec (.evbar f) s = retired s (s2.setMe { s2.me with arrived := none, depart := none }))
  ∧ (∀ (s : State) (cl n : Nat), s.subject = [cl, n] →
    ∃ t, exec .barrierDeparture s = .next t ∧ (t.cluster cl).barrier n = {}
      ∧ ∀ k ∈ ((s.cluster cl).barrier n).arrived, (t.slot k).depart = some 0)
  ∧ (∀ (s : State) (die n cl lid : Nat) (a b : Word), s.subject = [0, cl, n, lid] → die = dieOfCluster cl → s.lidAt cl = lid →
    ((s.cluster cl).barrier n).first = some (a, b) → ((s.cluster cl).barrier n).sent = true →
    let db := (s.die die).barriers.get dieBarrierDefault n
    (db.cl = none ∨ db.cl = some ((a.extractLsb' 16 7).toNat)) → db.arrived.length + 1 < (a.extractLsb' 16 7).toNat →
    ∃ t, exec .dieBarrierArrival s = .next t
      ∧ ((t.die die).barriers.get dieBarrierDefault n).arrived = db.arrived ++ [cl])
  ∧ (∀ (f : RForm) (s s2 : State) (a b : Word), EventWords (.evlck f) f s s2 a b → a.toNat < 8 →
    let cl := myCluster s
    let m := (s2.cluster cl).mutex a.toNat
    let q := (s2.cluster cl).mutexWaiters.get queueDefault a.toNat
    m.owner = none → m.freed ≠ some s.cycle → ahead q s.cur = 0 →
    exec (.evlck f) s = retired s ((s2.setMutex cl a.toNat { owner := some s.cur, freed := none }).modCluster cl (fun c =>
      { c with mutexWaiters := c.mutexWaiters.set queueDefault a.toNat (q.filter (fun x => x != s.cur)) })))
  ∧ (∀ (f : RForm) (s s1 : State) (a : Val), Ready (.evunl f) [f.srcA] [] s → s.take f.a = some (a, s1) →
    a.poison = false → a.w.toNat < 8 → ((s1.cluster (myCluster s)).mutex a.w.toNat).owner = some s.cur →
    let u := s1.releaseSlot s.cur 2
    exec (.evunl f) s = retired s (u.setMutex (myCluster s) a.w.toNat { owner := none, freed := some u.cycle }))

/-- R292, R293, R300: KEND waits for the stores of its run and then leaves the output to the loader; KMTR reads the
meter, and may lower it to a value that is not zero; a run whose meter has reached 0 traps METER before its next
instruction. -/
def Obligations.TranslatorRuns : Prop :=
  (∀ (f : IForm) (s : State), s.me.xlt = true → s.me.accs.all Acc.isLoad = true →
    ∃ t, exec (.kend f) s = retired s t ∧ (∃ d ∈ t.agenda, d.step = .loaderValidate ∧ d.subject = [s.cur] ∧ s.cycle ≤ d.at_)
      ∧ (s.cycle < 2 ^ 64 → t.mayIssue s.cur = false))
  ∧ (∀ (f : IForm) (s : State), s.me.xlt = true → s.me.accs.any (fun x => !x.isLoad) = true →
    exec (.kend f) s = parks s {})
  ∧ (∀ (f : IForm) (s s1 : State) (a : Val), Instr.wf (.kmtr f) = true → Ready (.kmtr f) [f.srcA] [f.dst] s → s.take f.a = some (a, s1) →
    a.poison = false → Open s1 f.d →
    let left := s.me.kmeter - 1
    ∃ t, exec (.kmtr f) s = .next t ∧ t.me.kmeter = (if a.w ≠ 0 ∧ a.w.toNat < left.toNat then a.w else left)
      ∧ (f.d ≠ 0 → (t.me.reg f.d.toNat).val = left) ∧ t.me.pc = s.me.pc + 8)
  ∧ (∀ (s : State), s.me.xlt = true → s.me.kmeter = 0 →
    exec .meterExhausted s = .next ((s.takeTrap s.cur .meter (s.me.retired &&& 0xFFFFFFFF) 0
      (s.codeWord s.myDie s.me.pc)).issued s.cur))

/-- R16, R17, R90, R105 to R107: the answers of the host. A host atomic has its completion; a grant enters the TLB or
serves one access; a page that is not resident is asked for; a failure reaches every slot that waits; a page response
lets the request go out again, or fails; an invalidation discards every entry of its range, and completes once the
accesses translated through them are performed. -/
def Obligations.HostAnswers : Prop :=
  (∀ (s : State) (k id : Nat) (op : HostOp), (s.slot k).hostOp = some op → op.id = id → op.answer = none →
    let x : Acc := { id := id, kind := .atomic op.kind op.operand op.compare op.poison, ord := op.ord
                     scope := op.scope, pieces := [op.piece] }
    let r := (s.forceBefore k x).atomAt ((s.forceBefore k x).worldOf (coreOfSlot k)) op.piece op.kind op.operand op.compare op.poison
    ∃ t, exec (.hostAtomicopCompletion k id .ok) s = .next t
      ∧ (t.slot k).hostOp = some { op with answer := some (.ok, r.1) } ∧ ∀ p, t.memAt p = r.2.memAt p)
  ∧ (∀ (s : State) (k id : Nat) (op : HostOp) (st : HostStatus), (s.slot k).hostOp = some op → op.id = id →
    op.answer = none → st ≠ .ok →
    ∃ t, exec (.hostAtomicopCompletion k id st) s = .next t
      ∧ (t.slot k).hostOp = some { op with answer := some (st, [], false) } ∧ ∀ p, t.memAt p = s.memAt p)
  ∧ (∀ (s : State) (id : Nat) (r : AtsReq), s.ats.find? (fun x => x.id == id) = some r → r.pri = false → r.queued = false →
    r.sent = true → r.stale = false → r.dropped = false →
    (∀ addr size, ∃ t, exec (.atsCompletion id (.granted addr size true true false)) s = .next t
      ∧ (∀ x ∈ t.ats, x.id ≠ r.id)
      ∧ ∃ e ∈ t.tlb, e.die = r.die ∧ e.world = r.world ∧ e.pasid = some r.pasid ∧ e.va ≤ r.va ∧ e.r = true ∧ e.w = true)
    ∧ (∀ addr size k, AtsUser.slot k ∈ r.users →
      ∃ t o, exec (.atsCompletion id (.granted addr size true true true)) s = .next t ∧ t.tlb = s.tlb
        ∧ o ∈ (t.slot k).atsOnce ∧ o.page = r.va)
    ∧ (s.priFailed.contains (s.functionOf r.world) = false → (s.ats.filter (fun x => x.pri)).length < 1024 →
      ∃ t, exec (.atsCompletion id .notResident) s = .next t ∧ (∀ x ∈ t.ats, x.id = r.id → x.pri = true)
        ∧ t.tlb = s.tlb ∧ t.slots = s.slots)
    ∧ (∀ k, AtsUser.slot k ∈ r.users → ∃ t, exec (.atsCompletion id .unsupported) s = .next t
        ∧ (t.slot k).atsFail = some (r.va, .page, 0x201) ∧ (∀ x ∈ t.ats, x.id ≠ r.id)))
  ∧ (∀ (s : State) (id : Nat) (r : AtsReq), s.ats.find? (fun x => x.id == id && x.pri) = some r →
    (∀ x ∈ s.ats, x.queued = false) →
    (∃ t, exec (.priResponse id 0) s = .next t ∧ (∀ x ∈ t.ats, x.id = r.id → x.pri = false) ∧ t.slots = s.slots)
    ∧ (∀ (code : BitVec 4) k, code ≠ 0 → AtsUser.slot k ∈ r.users → ∃ t, exec (.priResponse id code) s = .next t
      ∧ (t.slot k).atsFail = some (r.va, .page, code.toNat)
      ∧ (code = 0xF → s.functionOf r.world ∈ t.priFailed)))
  ∧ (∀ (s : State) (id : Nat) (r q : AtsReq), s.ats.find? (fun x => x.id == id && x.pri) = some r → q.id ≠ id →
    s.ats.find? (fun x => x.queued) = some q → r.queued = false → (∀ x ∈ s.ats, x.id = id → x = r) →
    s.priFailed.contains (s.functionOf q.world) = false →
    (s.ats.filter (fun x => x.pri && x.id != id)).length < 1024 →
    ∃ t, exec (.priResponse id 0) s = .next t ∧ ∀ x ∈ t.ats, x.id = q.id → x.pri = true ∧ x.queued = false)
  ∧ (∀ (s : State) (fn : Nat), ∃ t, exec (.priReset fn) s = .next t ∧ fn ∉ t.priFailed ∧ t.slots = s.slots)
  ∧ (∀ (s : State) (pasid : Option Nat) (va len : Nat), s.invalidations.length < 32 →
    ∃ t x, exec (.atsInvalidation pasid va len) s = .next t
      ∧ (∀ e ∈ t.tlb, e.pasid.isSome = true → pasid = none ∨ e.pasid = pasid → va + len ≤ e.va ∨ e.va + e.size ≤ va)
      ∧ (∀ e ∈ t.tlb, e ∈ s.tlb) ∧ t.invalidations = s.invalidations ++ [x]
      ∧ { at_ := s.cycle, step := .atsInvalidationComplete, subject := [x.id] } ∈ t.agenda)
  ∧ (∀ (s : State) (id : Nat) (x : Invalidation), s.subject = [id] → s.invalidations.find? (fun y => y.id == id) = some x →
    let waits := x.waits.any s.unperformed || s.copiesInto x.frames || s.reversesInto x.frames
    (waits = false → ∃ t, exec .atsInvalidationComplete s = .next t ∧ ∀ y ∈ t.invalidations, y.id ≠ id)
    ∧ (waits = true → ∃ t, exec .atsInvalidationComplete s = .next t
      ∧ t.invalidations = s.invalidations ∧ t.slots = s.slots))

/-- R359, R360, R363, R365, R366, R368, R378: a poison error marks its sector (of a translator's window too), its L1
sector or its register, and a line of a sealed die whose MAC does not match all four of its sectors, as one event;
every value stays. An uncontained error aborts the launches it touches with ABORT and 0x200 plus its site, or has
their world rolled back in interval mode, and so does a message that a die port refuses; a corrected error is only
counted; a frame that fails its check on a link is sent again. -/
def Obligations.HardwareErrors : Prop :=
  (∀ (s : State) (pa : Nat), s.windowAt pa = none → ∃ t, exec (.poisonError (.dram pa)) s = .next t
    ∧ (∀ a, t.dram.poisonAt a = true ↔ a / 64 = pa / 64 ∨ s.dram.poisonAt a = true)
    ∧ (∀ a, t.dram.byte a = s.dram.byte a) ∧ t.slots = s.slots)
  ∧ (∀ (s : State) (pa k o : Nat), s.windowAt pa = some (k, o) → ∃ t, exec (.poisonError (.dram pa)) s = .next t
    ∧ (∀ a, (t.memAt (.window k)).poisonAt a = true ↔ a / 64 = o / 64 ∨ (s.memAt (.window k)).poisonAt a = true)
    ∧ (∀ a, (t.memAt (.window k)).byte a = (s.memAt (.window k)).byte a) ∧ t.dram = s.dram ∧ t.slots = s.slots)
  ∧ (∀ (s : State) (pa : Nat),
    ((s.die (dieOfAddress pa)).wid ≠ 0 → s.windowAt (pa / 256 * 256) = none →
      ∃ t, exec (.poisonError (.mac pa)) s = .next t
      ∧ (∀ a, t.dram.poisonAt a = true ↔ a / 256 = pa / 256 ∨ s.dram.poisonAt a = true)
      ∧ (∀ a, t.dram.byte a = s.dram.byte a) ∧ t.slots = s.slots
      ∧ ∀ l, s.launchOn (dieOfAddress pa) = some l → s.launches.find l.lid = some l →
        t.launches.find l.lid = some { l with npoison := l.npoison + 1 })
    ∧ (∀ k o, (s.die (dieOfAddress pa)).wid ≠ 0 → s.windowAt (pa / 256 * 256) = some (k, o) →
      ∃ t, exec (.poisonError (.mac pa)) s = .next t
      ∧ (∀ a, (t.memAt (.window k)).poisonAt a = true ↔ a / 256 = o / 256 ∨ (s.memAt (.window k)).poisonAt a = true)
      ∧ (∀ a, (t.memAt (.window k)).byte a = (s.memAt (.window k)).byte a) ∧ t.dram = s.dram ∧ t.slots = s.slots)
    ∧ ((s.die (dieOfAddress pa)).wid = 0 → exec (.poisonError (.mac pa)) s = .next s))
  ∧ (∀ (s : State) (core sector : Nat) (host : Bool),
    let key := sector / 4 * 2 + if host then 1 else 0
    (∀ x, s.line core key = some x → ∃ t, exec (.poisonError (.l1 core host sector)) s = .next t
      ∧ t.line core key = some { x with bytes := x.bytes.map (fun e =>
          (e.1, if e.1 / 64 = sector % 4 then { e.2 with poison := true } else e.2)) }
      ∧ t.slots = s.slots ∧ ∀ p, t.memAt p = s.memAt p)
    ∧ (s.line core key = none → ∃ t, exec (.poisonError (.l1 core host sector)) s = .next t
      ∧ t.cores = s.cores ∧ t.slots = s.slots ∧ ∀ p, t.memAt p = s.memAt p))
  ∧ (∀ (s : State) (core off : Nat),
    (∃ t, exec (.poisonError (.scratchpad core off)) s = .next t
      ∧ (∀ a, (t.memAt (.scratchpad core)).poisonAt a = true ↔
          a / 64 = off / 64 ∨ (s.memAt (.scratchpad core)).poisonAt a = true)
      ∧ ∀ p a, (t.memAt p).byte a = (s.memAt p).byte a)
    ∧ (∃ t, exec (.poisonError (.arena core off)) s = .next t
      ∧ (∀ a, (t.memAt (.arena core)).poisonAt a = true ↔ a / 64 = off / 64 ∨ (s.memAt (.arena core)).poisonAt a = true)
      ∧ ∀ p a, (t.memAt p).byte a = (s.memAt p).byte a))
  ∧ (∀ (s : State) (k code : Nat), code ≠ 0 → ∃ t, exec (.poisonError (.register k code)) s = .next t
    ∧ (t.slot k).regAt code = { (s.slot k).regAt code with poison := true } ∧ ∀ j, j ≠ k → t.slot j = s.slot j)
  ∧ (∀ (s : State) (lid site at_ : Nat) (l : Launch), s.launches = [(lid, l)] → l.lid = lid → l.ending = none →
    1 ≤ site → site ≤ 8 → l.dies.contains (errorDie site at_) = true →
    ∃ t, exec (.uncontainedError site at_) s = .next t
      ∧ (s.intervalWorlds.contains l.world = false → ∃ l', t.launches.find lid = some l'
        ∧ l'.ending = some { status := Cause.abort.code.toNat, xval2 := BitVec.ofNat 64 (0x200 + site) })
      ∧ (s.intervalWorlds.contains l.world = true → t.launches = s.launches
        ∧ { at_ := s.cycle, step := .rollback, subject := [l.world, site] } ∈ t.agenda))
  ∧ (∀ (s : State) (lid wid die : Nat) (l : Launch), s.launches = [(lid, l)] → l.lid = lid → l.ending = none →
    l.world = wid → s.portAccepts wid die = false → s.intervalWorlds.contains wid = false →
    ∃ t l', exec (.diePortRefusal wid die) s = .next t ∧ t.launches.find lid = some l'
      ∧ l'.ending = some { status := Cause.abort.code.toNat, xval2 := 0x209 })
  ∧ (∀ (s : State) (wid die : Nat), s.portAccepts wid die = true → exec (.diePortRefusal wid die) s = .next s)
  ∧ (∀ (s : State) (core : Nat), ∃ t, exec (.correctedSoftError core) s = .next t
    ∧ t.health.contained.get queueDefault core = s.now :: s.health.contained.get queueDefault core
    ∧ t.slots = s.slots ∧ t.launches = s.launches ∧ ∀ p, t.memAt p = s.memAt p)
  ∧ (∀ (s : State) (link : LinkKind), exec (.linkFrameIntegrityFail link) s = .next s)

/-- R327, R342, R343: NOP, SIGNAL, TIMESTAMP and PROVENANCE do their work and complete with status 0; work that fails
ends the packet with that failure, and no memory is changed; a signal's word holds the new value; a record that the
Curator does not hold, one of a packet that has not ended, or room too small for it, ends PROVENANCE with NOPROV. -/
def Obligations.ShortPackets : Prop :=
  (∀ (i : Instr) (p q : Packet) (work : Front Unit) (s u : State), shortPacket i p = some work → Working s p →
    work (s.startWork p.id) = .ok ((), u) → u.packet p.id = some q → q.result = none →
    ∃ t, exec i s = .next t ∧ Decided t p.id {} ∧ ∀ pl, t.memAt pl = u.memAt pl)
  ∧ (∀ (i : Instr) (p : Packet) (work : Front Unit) (s : State) (v : EndValues), shortPacket i p = some work → Working s p →
    work (s.startWork p.id) = .error (.fail v) →
    ∃ t, exec i s = .next t ∧ Decided t p.id v ∧ ∀ pl, t.memAt pl = s.memAt pl)
  ∧ (∀ (p : Packet) (s s1 : State) (pl : Place) (a : Nat), Working s p →
    frontPlace p.translator (p.field 32 8) true (s.startWork p.id) = .ok ((pl, a), s1) →
    let s2 := if pl.cached then s1.invalidateOthers [] (lineKey pl a) else s1
    let old : DWord := BitVec.ofNat 64 (leNat ((s2.memAt pl).bytes a 8))
    ∃ t, exec .signalPacket s = .next t
      ∧ (t.memAt pl).bytes a 8 = bytesOfWord 8 (signalled (p.field 40 1) old (BitVec.ofNat 64 (p.field 48 8))).toNat)
  ∧ (∀ (p q : Packet) (s s1 : State) (pl : Place) (a : Nat), Working s p → p.field 32 8 % 8 = 0 →
    frontPlace p.translator (p.field 32 8) true (s.startWork p.id) = .ok ((pl, a), s1) → s1.packet p.id = some q →
    q.result = none →
    ∃ t, exec .timestampPacket s = .next t ∧ Decided t p.id {} ∧ (t.memAt pl).bytes a 8 = bytesOfWord 8 p.taken)
  ∧ (∀ (p q : Packet) (s u : State) (r : ProvRecord), Working s p → 0xF00 ≤ p.field 40 4 →
    (∀ x ∈ s.packets, x.queue = p.queue → x.idx.toNat ≠ p.field 44 4) →
    s.provs.find? (fun r => r.queue == p.queue && r.idx.toNat == p.field 44 4) = some r →
    frontWrite p.translator (p.field 32 8) (noPoison r.bytes) (s.startWork p.id) = .ok ((), u) →
    u.packet p.id = some q → q.result = none →
    ∃ t, exec .provenancePacket s = .next t ∧ Decided t p.id {} ∧ ∀ pl, t.memAt pl = u.memAt pl)
  ∧ (∀ (p : Packet) (s : State), Working s p →
    (p.field 40 4 < 0xF00 ∨ (∀ r ∈ s.provs, r.queue = p.queue → r.idx.toNat ≠ p.field 44 4)
      ∨ ∃ x ∈ s.packets, x.queue = p.queue ∧ x.idx.toNat = p.field 44 4) →
    ∃ t, exec .provenancePacket s = .next t ∧ Decided t p.id { status := 0x46 })

/-- R226, R326, R328, R342, R344: a COPY moves one block of its destination a step, and completes with the last; a
BARRIER without conditions completes at once, and one with conditions waits: a negative signal aborts it, else it
completes once every condition holds; the signals on host pages are read again after 1 µs. -/
def Obligations.CopyAndBarrierPackets : Prop :=
  (∀ (p q : Packet) (s u : State), Working s p → p.tstart ≠ 0 →
    copyBlock p p.done (s.startWork p.id) = .ok ((), u) → u.packet p.id = some q → q.result = none → q.done = p.done →
    let n := (cutRange 64 (p.field 40 8) (p.field 48 8)).length
    ∃ t, exec .copyPacket s = .next t ∧ (∀ pl, t.memAt pl = u.memAt pl)
      ∧ (n ≤ p.done + 1 → Decided t p.id {})
      ∧ (p.done + 1 < n → (∃ r, t.packet p.id = some r ∧ r.done = p.done + 1 ∧ r.result = none)
        ∧ ∃ d ∈ t.agenda, d.step = .copyPacket ∧ d.subject = [p.id] ∧ u.cycle < d.at_))
  ∧ (∀ (p : Packet) (s u : State) (conds : List Cond), Working s p → p.verdict = none →
    condsFrom p 4 (s.startWork p.id) = .ok (conds, u) → (∃ q, u.packet p.id = some q ∧ q.result = none ∧ q.verdict = none) →
    Standing u p conds → ∃ t, exec .barrierPacket s = .next t
      ∧ (conds = [] → Decided t p.id {})
      ∧ (conds ≠ [] → ∃ q, t.packet p.id = some q ∧ q.conds = conds ∧ q.result = none
        ∧ (∀ c, conds.find? (fun c => decide ((u.signal c).toInt < 0)) = some c → q.verdict = some (some c.va))
        ∧ ((∀ c ∈ conds, 0 ≤ (u.signal c).toInt) → (∀ c ∈ conds, condHolds c (u.signal c)) → q.verdict = some none)
        ∧ ((∀ c ∈ conds, 0 ≤ (u.signal c).toInt) → (∃ c ∈ conds, ¬ condHolds c (u.signal c)) → q.verdict = none)))
  ∧ (∀ (p : Packet) (s u : State) (conds : List Cond), Working s p → p.conds ≠ [] → p.verdict = none →
    condsFrom p 4 s = .ok (conds, u) → conds ≠ [] → (∃ q, u.packet p.id = some q ∧ q.result = none ∧ q.verdict = none) →
    Standing u p conds → ∃ t q, exec .hostSignalPoll s = .next t ∧ t.packet p.id = some q ∧ q.conds = conds
      ∧ ((∀ c ∈ conds, 0 ≤ (u.signal c).toInt) → (∀ c ∈ conds, condHolds c (u.signal c)) → q.verdict = some none)
      ∧ (conds.any (fun c => c.place == .host) = true → (∀ x ∈ u.packets, x.id = p.id → x.poll ≤ u.cycle) →
        ∃ d ∈ t.agenda, d.step = .hostSignalPoll ∧ d.subject = [p.id] ∧ d.at_ = u.cycle + u.cyclesFor 1000))
  ∧ (∀ (p : Packet) (s : State), Working s p →
    (p.verdict = some none → ∃ t, exec .barrierEvaluate s = .next t ∧ Decided t p.id {})
    ∧ (∀ va, p.verdict = some (some va) →
      ∃ t, exec .barrierEvaluate s = .next t ∧ Decided t p.id { status := Cause.abort.code.toNat }))

/-- R329, R333 to R337, R344: the front end takes the next packet of the queue it serves, at most one every 4 ns; KICK
raises the queue's index within its ring, and is ignored otherwise; a reset queue drains, and is idle with its error
cleared once its packets have ended. -/
def Obligations.Queues : Prop :=
  (∀ (s s1 : State) (q : Nat) (x : Queue) (bs : List (Byte × Bool)), s.nextTake ≤ s.time → s.updating = false →
    s.pick s.serveOrder = (some (q, bs), s1) → s1.queue q = some x → s1.packet s1.nextId = none →
    ∃ t p, exec .packetTake s = .next t ∧ t.packet s1.nextId = some p
      ∧ p.queue = q ∧ p.idx = x.ridx ∧ p.wid = x.wid ∧ p.taken = s1.now
      ∧ (bs.any Prod.snd = false → p.bytes = bs.map Prod.fst)
      ∧ t.queue q = some { x with ridx := x.ridx + 1 } ∧ t.nextTake = s1.time + 4 * 4284)
  ∧ (∀ (s : State) (q : Nat) (x : Queue) (w : Word), s.queue q = some x → x.draining = false → x.destroying = false →
    let behind := (x.kick - x.ridx).toNat
    let ahead := (w - x.ridx).toNat
    (behind < ahead → ahead ≤ x.nslot → x.error = false →
      ∃ t, exec (.kick q w) s = .next t ∧ t.queue q = some { x with kick := w }
        ∧ (∀ r, r ≠ q → t.queue r = s.queue r) ∧ t.packets = s.packets)
    ∧ ((ahead ≤ behind ∨ x.nslot < ahead) → exec (.kick q w) s = .next s))
  ∧ (∀ (s : State) (q : Nat) (x : Queue), s.queue q = some x →
    ∃ t, exec (.queueReset q) s = .next t ∧ t.queue q = some { x with draining := true }
      ∧ (s.unended q = [] → ∃ d ∈ t.agenda, d.step = .queueDrainComplete ∧ d.subject = [q] ∧ d.at_ = s.cycle))
  ∧ (∀ (s : State) (q : Nat) (x : Queue), s.subject = [q] → s.queue q = some x → x.draining = true → s.unended q = [] →
    ∃ t, exec .queueDrainComplete s = .next t
      ∧ (x.destroying = true → t.queue q = none)
      ∧ (x.destroying = false → ∃ y, t.queue q = some y ∧ y.draining = false ∧ y.error = false ∧ y.errStat = 0
        ∧ y.ridx = x.kick ∧ y.kick = x.kick ∧ t.queueMode q y = 0))

/-- R348, R349, R379, R394: what a page wait's answer brings reaches its packet; the watchdog of a queue fails its
oldest packet, one of which only the report is left too: then the report's wait ends; a packet whose end is decided
leaves a provenance record where it used a partition, and ends. -/
def Obligations.PacketsEnd : Prop :=
  (∀ (s : State) (r : AtsReq) (pk addr size : Nat),
    s.ats.filter (fun r => r.pri && r.users.contains (.packet pk)) = [r] → r.stale = false →
    r.queued = false → r.sent = true → r.dropped = false →
    ∃ t, exec (.frontEndPageWait pk (.granted addr size true true false)) s = .next t ∧ (∀ x ∈ t.ats, x.id ≠ r.id)
      ∧ ∃ e ∈ t.tlb, e.die = r.die ∧ e.world = r.world ∧ e.pasid = some r.pasid ∧ e.r = true ∧ e.w = true)
  ∧ (∀ (s : State) (q : Nat) (x : Queue) (p : Packet), s.subject = [q] → s.queue q = some x → x.error = false →
    x.ridx = x.kick → s.unended q = [p] → s.packet p.id = some p → p.result = none →
    s.launches.all (fun e => e.2.pk != p.id) = true →
    ∃ t, exec .watchdogExpiry s = .next t ∧ Decided t p.id { status := Cause.watchdog.code.toNat }
      ∧ (t.queue q).map (fun y => (y.error, y.errIdx, y.errStat)) = some (true, p.idx, Cause.watchdog.code.toNat))
  ∧ (∀ (s : State) (q : Nat) (x : Queue) (p : Packet) (v : EndValues), s.subject = [q] → s.queue q = some x →
    x.error = true → s.unended q = [p] → s.packet p.id = some p → p.result = some v → p.waiting = true →
    s.launches.all (fun e => e.2.pk != p.id) = true →
    ∃ t y, exec .watchdogExpiry s = .next t ∧ t.packet p.id = some y ∧ y.waiting = false ∧ y.result = some v
      ∧ (∀ r ∈ t.ats, .packet p.id ∉ r.users) ∧ { at_ := s.cycle, step := .packetEnd, subject := [p.id] } ∈ t.agenda)
  ∧ (∀ (s : State) (p : Packet) (v : EndValues), Ending s p v → p.usesPartition = true → p.proved = false →
    ∃ t, exec .packetEnd s = .next t ∧ ∃ r ∈ t.provs, r.queue = p.queue ∧ r.idx = p.idx)
  ∧ (∀ (s u : State) (p : Packet) (v : EndValues) (a : Nat), Ending s p v → p.usesPartition = false → v.status = 0 →
    p.csig = none → p.res = some a → p.recorded = false → p.released = false →
    frontWrite p.translator a (noPoison (p.record v s.now)) s = .ok ((), u) →
    ∃ t, exec .packetEnd s = .next t ∧ t.packet p.id = none ∧ ∀ pl, t.memAt pl = u.memAt pl)
  ∧ (∀ (s : State) (p : Packet) (v : EndValues) (x : Queue), Ending s p v → p.usesPartition = false → v.status ≠ 0 →
    p.csig = none → p.res = none → s.queue p.queue = some x → x.error = false → x.ridx = x.kick →
    ∃ t, exec .packetEnd s = .next t ∧ t.packet p.id = none
      ∧ t.queue p.queue = some { x with
          error := true, errIdx := p.idx, errStat := v.status, errSig := abortedBy p v })
  ∧ (∀ (s s1 : State) (p : Packet) (v : EndValues) (pl : Place) (a o : Nat), Ending s p v → p.usesPartition = false →
    (v.status = 0 ∨ ∀ x, s.queue p.queue = some x → x.error = true) → p.res = none → p.csig = some a
      → p.released = false → p.faulted = false →
    frontPlace p.translator a true
      (s.modPacket p.id (fun q => { q with bytes := p.bytes, recorded := true, result := some v })) = .ok ((pl, o), s1) →
    let s2 := if pl.cached then s1.invalidateOthers [] (lineKey pl o) else s1
    let old : DWord := BitVec.ofNat 64 (leNat ((s2.memAt pl).bytes o 8))
    ∃ t, exec .packetEnd s = .next t ∧ t.packet p.id = none
      ∧ (t.memAt pl).bytes o 8 = bytesOfWord 8 (old - (if v.status = 0 then 1 else 2)).toNat)

/-- R288, R298, R299, R310, R315, R347, R364, R388: a LAUNCH that is found good asks for its class, waits for it where
it is held, and is then loaded on its world's partition, and its start event comes later; a TRANSLATE whose result is
cached completes at once, and else its run is prepared on a core of the partition; the loader decides a run by its
output; the drain of a partition leaves no slot and no message of it, and the end of a launch decides its packet. -/
def Obligations.LaunchesAndRuns : Prop :=
  (∀ (s u : State) (p q : Packet) (x : LoadPlan), Working s p → s.launchOf p.id = none → Unplanned s p →
    planLaunch p s = .ok (x, u) → u.packet p.id = some q → q.result = none → u.launchOf p.id = none →
    let asked := u.requestClass p.wid (if p.fcset then p.fclass else recField x.record 96 1)
    exec .launchLoad s = exec .launchLoad
      { asked.modPacket p.id (fun r => { r with plan := some x, waiting := false }) with
        hostOnce := asked.hostOnce.filter (fun f => f.1 != .packet p.id) })
  ∧ (∀ (s : State) (p : Packet) (x : LoadPlan), Working s p → s.launchOf p.id = none → Planned s p x → p.waiting = false →
    p.hold = true → s.classReached p.wid = false →
    ∃ t, exec .launchLoad s = .next t ∧ t.launches = s.launches ∧ t.slots = s.slots ∧ t.packet p.id = some p)
  ∧ (∀ (s u : State) (p : Packet) (x : LoadPlan), Working s p → s.launchOf p.id = none → Planned s p x → p.waiting = false →
    (p.hold = true → s.classReached p.wid = true) → placeLaunch p x s = .ok ((), u) →
    ∃ t l, exec .launchLoad s = .next t ∧ t.launches = u.launches ∧ t.slots = u.slots ∧ t.agenda = u.agenda
      ∧ (∀ pl, t.memAt pl = u.memAt pl)
      ∧ t.launchOf p.id = some l ∧ l.started = false ∧ l.dies = x.dies ∧ l.world = p.wid
      ∧ ∃ d ∈ t.agenda, d.step = .startEvent ∧ d.subject = [l.lid] ∧ s.cycle < d.at_)
  ∧ (∀ (s : State) (p : Packet) (x : LoadPlan) (base : Nat), Working s p → s.launchOf p.id = none → Planned s p x →
    p.waiting = false → (p.hold = true → s.classReached p.wid = true) → x.items = [] →
    s.choosePlace x.dies (upPage x.image.code.length + (s.world p.wid).handler.length) = some base →
    ∃ t l, exec .launchLoad s = .next t ∧ t.launchOf p.id = some l ∧ l.started = false ∧ l.dies = x.dies ∧ l.world = p.wid
      ∧ l.codeBase = base ∧ l.codeLen = x.image.code.length ∧ l.entries = x.entries.map Prod.fst
      ∧ (∀ e ∈ x.entries, x.dies.contains (dieOfCore (coreOfSlot e.1)) = true → (t.slot e.1).occupied = true)
      ∧ ∃ d ∈ t.agenda, d.step = .startEvent ∧ d.subject = [l.lid] ∧ s.cycle < d.at_)
  ∧ (∀ (s : State) (p : Packet) (v : EndValues), Working s p → s.launchOf p.id = none →
    (Unplanned s p ∧ planLaunch p s = .error (.fail v)
      ∨ ∃ x, Planned s p x ∧ p.waiting = false ∧ (p.hold = true → s.classReached p.wid = true)
        ∧ placeLaunch p x s = .error (.fail v)) →
    ∃ t, exec .launchLoad s = .next t ∧ Decided t p.id v ∧ t.launches = s.launches)
  ∧ (∀ (s s1 s2 : State) (p q : Packet) (code input : List (Byte × Bool)), Working s p → s.launchOf p.id = none →
    frontRead p.translator (p.field 32 8) (p.field 40 4) s = .ok (code, s1) →
    frontRead p.translator (p.field 48 8) (p.field 56 4) s1 = .ok (input, s2) → s2.packet p.id = some q → q.result = none →
    let key := sha512 (sha512 (code.map Prod.fst) ++ sha512 (input.map Prod.fst) ++ sha512 s.catalogue
      ++ le32 (p.field 60 4) ++ le32 (p.field 64 4) ++ bytesOfWord 1 p.wid)
    (∀ i, s.image key p.wid = some i → i.cost ≤ p.field 44 4 → ∃ t, exec .translatePacket s = .next t ∧ Decided t p.id {})
    ∧ ((∀ i, s.image key p.wid = some i → p.field 44 4 < i.cost) →
      ∃ t k r, exec .translatePacket s = .next t ∧ t.runs.find k = some r ∧ r.pk = p.id ∧ r.meter = p.field 44 4
        ∧ (t.slot k).xlt = true ∧ (t.slot k).occupied = true ∧ s2.cycle < (t.slot k).ready))
  ∧ (∀ (s : State) (k lid : Nat) (r : Run) (l : Launch) (p : Packet) (o : Except (Nat × Nat) Output), s.subject = [k] →
    s.runOf k = some r → s.launches.find? (fun e => r.pk == e.2.pk) = some (lid, l) → l.lid = lid →
    s.launches.find lid = some l →
    s.packet r.pk = some p → l.ending = none → checkOutput (s.memAt (.window k)) r.output = o →
    ∃ t v l', exec .loaderValidate s = .next t ∧ t.launches.find lid = some l' ∧ l'.ending = some v
      ∧ (t.slot k).occupied = false ∧ t.runOf k = none
      ∧ (∀ c off, o = .error (c, off) → v = { status := 0x45, code := c, xval := BitVec.ofNat 64 off })
      ∧ (∀ y, o = .ok y → v = {} ∧ ∃ i ∈ t.images, i.key = p.key ∧ i.wid = p.wid ∧ i.routes = y.routes ∧ i.place = y.place))
  ∧ (∀ (s : State) (lid : Nat) (l : Launch) (v : EndValues), s.subject = [lid] → s.launches.find lid = some l →
    l.lid = lid → l.ending = some v → l.saved = false → s.runs.all (fun e => e.2.pk != l.pk) = true →
    ∃ t, exec .partitionDrainReset s = .next t
      ∧ (∀ e ∈ t.slots, l.dies.contains (dieOfCore (coreOfSlot e.1)) = false)
      ∧ (∀ m ∈ t.flying, m.lid ≠ lid) ∧ (∀ e ∈ t.arena, l.dies.contains (dieOfCore e.1) = false)
      ∧ (∀ e ∈ t.scratch, l.dies.contains (dieOfCore e.1) = false)
      ∧ ∃ d ∈ t.agenda, d.step = .launchEnd ∧ d.subject = [lid] ∧ s.cycle < d.at_)
  ∧ (∀ (s : State) (lid : Nat) (l : Launch) (p : Packet) (v : EndValues), s.subject = [lid] → s.launches.find lid = some l →
    l.lid = lid → l.ending = some v → s.packet l.pk = some p → p.result = none →
    (s.intervalWorlds.contains l.world = false ∨ p.type = 2 ∨ s.copiesDone l.dies = true) →
    ∃ t, exec .launchEnd s = .next t ∧ t.launches.find lid = none ∧ Decided t l.pk v)

/-- R23, R110, R286, R287, R361 to R363, R357, R358: a start event has every entry task of its launch fetch its first
word in the next cycle; two samples of a quiet partition end its launch, or with slots parked deliver DEADLOCK; a
launch is pre-empted only if it may be, its context is saved once its partition has stopped, where it can be written,
and comes back with the restore; an uncontained error takes a launch back to its last boundary, or, before its first,
to its loading, and the third aborts it. -/
def Obligations.LaunchesRunAndStop : Prop :=
  (∀ (s : State) (lid : Nat) (l : Launch), s.subject = [lid] → s.launches.find lid = some l → l.started = false →
    l.ending = none → l.lid = lid → (s.intervalWorlds.contains l.world = true → l.checkpoint.isSome = true) →
    ∃ t l', exec .startEvent s = .next t ∧ t.launches.find lid = some l' ∧ l'.started = true ∧ l'.start = some (s.cycle + 1)
      ∧ (∀ k ∈ l.entries, s.cycle + 1 ≤ (t.slot k).ready)
      ∧ ∀ k, l.entries = [k] →
        (∀ n, s.wordArrives (coreOfSlot k) (s.slot k).pc = some n → (t.slot k).ready = max (s.cycle + 1) n)
        ∧ (s.wordArrives (coreOfSlot k) (s.slot k).pc = none →
          (t.slot k).ready = s.cycle + 1 + missCycles (coreOfSlot k) (s.slot k).pc))
  ∧ (∀ (s : State) (lid c n : Nat) (l : Launch), s.subject = [lid] → s.launches.find lid = some l → l.lid = lid →
    l.sample = some (c, n, n) → l.sent = n → l.received = n → l.deadlock = false →
    let s1 := s.modLaunch lid (fun l => { l with sample := some (s.cycle, l.sent, l.received) })
    s1.quiet l = true → s1.allIdle l = true →
    ∃ t l' v, exec .quiescenceSample s = .next t ∧ t.launches.find lid = some l' ∧ l'.ending = some v ∧ v.status = 0
      ∧ ∃ d ∈ t.agenda, d.step = .launchEnd ∧ d.subject = [lid] ∧ d.at_ = s.cycle)
  ∧ (∀ (s : State) (lid x : Nat) (l : Launch), s.subject = [lid, x] → s.launches.find lid = some l → l.ending = none →
    exec .quiescenceSample s = .next (s.deliverDeadlock l))
  ∧ (∀ (s : State) (lid : Nat) (l : Launch), s.subject = [lid] → s.launches.find lid = some l → l.lid = lid →
    l.started = true → l.ending = none → l.preempting = none → l.saved = false →
    (l.preemptable = true → ∃ t l', exec .launchPreempt s = .next t ∧ t.launches.find lid = some l'
      ∧ l'.preempting = some s.cycle
      ∧ ∃ d ∈ t.agenda, d.step = .preemptTimeout ∧ d.subject = [lid, s.cycle] ∧ d.at_ = s.cycle + 65536)
    ∧ (l.preemptable = false → exec .launchPreempt s = .next s))
  ∧ (∀ (s : State) (lid since k : Nat) (l : Launch), s.subject = [lid, since] → s.launches.find lid = some l →
    l.preempting = some since → l.ending = none →
    (s.slotsOn l).find? (fun k => (s.slot k).occupied && (s.slot k).mode == .handler) = some k →
    exec .preemptTimeout s = .next (s.takeTrap k .preempt (BitVec.ofNat 64 (s.cycle - since)) 0
      (s.codeWord (dieOfCore (coreOfSlot k)) (s.slot k).pc)))
  ∧ (∀ (s u : State) (lid : Nat) (l : Launch) (p : Packet), s.subject = [lid] → s.launches.find lid = some l → l.lid = lid →
    s.packet l.pk = some p → l.preempting.isSome = true → l.checkpointing = false → l.ending = none →
    (s.saveReady l = false → exec .preemptSave s = .next (s.modLaunch lid (fun l => { l with saving := false })))
    ∧ (s.saveReady l = true →
    let s1 := s.settlePartition l
    writePages l p.translator (s1.contextBuffer l) (s1.bufferPages l) s1 = .ok ((), u) → u.launches = s.launches →
    ∃ t l', exec .preemptSave s = .next t ∧ t.launches.find lid = some l' ∧ l'.saved = true ∧ l'.preempting = none
      ∧ (∀ e ∈ t.slots, l.dies.contains (dieOfCore (coreOfSlot e.1)) = false)))
  ∧ (∀ (s u : State) (lid : Nat) (l : Launch) (p : Packet) (b : Assoc Mem), s.subject = [lid] →
    s.launches.find lid = some l → l.lid = lid → s.packet l.pk = some p → l.saved = true → l.restoring = true →
    l.ending = none → s.appending lid = false → l.held.whole = false
      → readPages l p.translator (s.bufferPages l) [] s = .ok (b, u) → u.launches = s.launches →
    ∃ t l', exec .contextRestore s = .next t ∧ t.launches.find lid = some l' ∧ l'.saved = false ∧ l'.restoring = false)
  ∧ (∀ (s : State) (lid : Nat) (l : Launch) (p : Packet), s.subject = [lid] → s.launches.find lid = some l → l.lid = lid →
    s.packet l.pk = some p → l.saved = true → l.restoring = true → l.ending = none → s.appending lid = false →
    l.held.whole = true →
    ∃ t l', exec .contextRestore s = .next t ∧ t.launches.find lid = some l' ∧ l'.saved = false ∧ l'.restoring = false
      ∧ l'.sent = l.sent ∧ l'.received = l.received)
  ∧ (∀ (s : State) (lid : Nat) (l : Launch), s.subject = [lid] → s.launches.find lid = some l → l.lid = lid →
    l.preempting.isSome = true → l.checkpointing = true → l.saving = true → l.saved = false → l.ending = none →
    s.saveReady l = true → ∃ t l', exec .intervalBoundary s = .next t ∧ t.launches.find lid = some l' ∧ l'.checkpoint.isSome = true
      ∧ l'.preempting = none ∧ (t.world l.world).boundary = s.cycle ∧ (t.world l.world).rolls = 0
      ∧ (∀ e ∈ t.undo, e.1 ≠ l.world) ∧ (∀ e ∈ t.commit, e.1 ≠ l.world))
  ∧ (∀ (s : State) (lid w site : Nat) (l : Launch), s.subject = [w, site] → s.launches = [(lid, l)] → l.lid = lid →
    l.world = w → l.rolls = true →
    ((s.world w).rolls < 2 → l.checkpoint = none → ∃ t, exec .rollback s = .next t ∧ t.launches.find lid = none
      ∧ { at_ := s.cycle, step := if s.isRun l then .translatePacket else .launchLoad, subject := [l.pk] } ∈ t.agenda)
    ∧ (2 ≤ (s.world w).rolls → ∃ t l', exec .rollback s = .next t ∧ t.launches.find lid = some l'
      ∧ l'.ending = some { status := Cause.abort.code.toNat })
    ∧ (∀ h, (s.world w).rolls < 2 → l.checkpoint = some h → l.saved = false → h.away = false →
      ∃ t l', exec .rollback s = .next t ∧ t.launches.find lid = some l' ∧ l'.ending = none ∧ l'.nroll = l.nroll + 1
        ∧ l'.saved = false ∧ l'.sent = h.sent ∧ l'.received = h.received ∧ l'.deadlock = h.deadlock)
    ∧ (∀ h, (s.world w).rolls < 2 → l.checkpoint = some h → l.saved = true →
      ∃ t l', exec .rollback s = .next t ∧ t.launches.find lid = some l' ∧ l'.ending = none ∧ l'.nroll = l.nroll + 1
        ∧ l'.saved = true ∧ l'.held = h))

/-- R371, R374, R377, R391: CREATE_WORLD, DESTROY_WORLD, OFFER, RECLAIM and FORCE do what they say where their checks
pass, and answer their code at the record; a request that fails a check is answered with the code of that check. That
CREATE_WORLD answers 3 before 8, that DESTROY_WORLD of a world that is not alive, FORCE of a frame that the world does
not hold and RECLAIM of one that is being reclaimed answer 3, is the model's reading (log entry 67), and so is what
the mailbox makes of a record that it cannot take (log entry 68). R373, R375: ACCEPT gives a frame that is being
reclaimed back, and REFUSE keeps it; EXPORT_PAGE gives a frame up for a sealed record of it in host memory, a header
and one entry for each 256 bytes as they stand once what the L1s hold has gone home (the cipher and the check value
are open: log entry 69); IMPORT_PAGE takes a record back that the world has exported, and destroys the world where the
record is not what it exported. -/
def Obligations.WorldsAndFrames : Prop :=
  ((∀ (s : State) (a : Nat), Requested s 0x01 a →
      let w := s.requestWid
      let r := s.hostBytes (s.arg 0) 64
      let h := s.hostBytes (recField r 16 8) (recField r 24 4)
      let good := w ≠ 0 ∧ s.worldRecordLegal r = true ∧ handlerLegal h = true
      (good → s.health.debug = false → s.worldAlive w = false →
        s.freeOfWork ((List.range 8).filter (fun d => recField r 0 1 / 2 ^ d % 2 = 1)) = true →
        (∀ d < 8, recField r 0 1 / 2 ^ d % 2 = 1 → d ∈ s.partition 0) →
        ∃ t, exec .createWorld s = .next t ∧ Answered t a 0 ∧ (t.world w).alive = true ∧ (t.world w).record = r
          ∧ (t.world w).handler = h ∧ (t.world w).ptroot = some (recField r 8 8) ∧ (t.world w).frames = []
          ∧ ∀ d < 8, recField r 0 1 / 2 ^ d % 2 = 1 → (t.die d).wid = w)
      ∧ (¬ good → ∃ t, exec .createWorld s = .next t ∧ Answered t a 3 ∧ t.worlds = s.worlds)
      ∧ (good → s.health.debug = true → ∃ t, exec .createWorld s = .next t ∧ Answered t a 8 ∧ t.worlds = s.worlds))
    ∧ (∀ (s : State) (a : Nat), Requested s 0x02 a → s.requestWid ≠ 0 →
      (s.worldAlive s.requestWid = true → ∃ t, exec .destroyWorld s = .next t ∧ Answered t a 0 ∧ Gone t s.requestWid)
      ∧ (s.worldAlive s.requestWid = false → ∃ t, exec .destroyWorld s = .next t ∧ Answered t a 3 ∧ t.worlds = s.worlds))
    ∧ (∀ (s : State) (a : Nat), Requested s 0x03 a → s.requestWid ≠ 0 → s.worldAlive s.requestWid = true →
      s.arg 1 ≤ 11 → s.arg 0 % pageBytes (s.arg 1) = 0 → s.inPool s.requestWid (s.arg 0) (pageBytes (s.arg 1)) = true →
      ∃ t, exec .offer s = .next t ∧ Answered t a 0
        ∧ (t.world s.requestWid).frames = (s.world s.requestWid).frames ++ [{ pa := s.arg 0, size := s.arg 1 }])
    ∧ (∀ (s : State) (a : Nat) (f : Frame), Requested s 0x04 a → (s.world s.requestWid).frame (s.arg 0) = some f →
      f.asked = false →
      ∃ t, exec .reclaim s = .next t ∧ t.mailbox = s.mailbox
        ∧ ∀ g ∈ (t.world s.requestWid).frames, g.pa = s.arg 0 → g.asked = true)
    ∧ (∀ (s : State) (a : Nat) (f : Frame), Requested s 0x04 a → (s.world s.requestWid).frame (s.arg 0) = some f →
      f.asked = true → ∃ t, exec .reclaim s = .next t ∧ Answered t a 3 ∧ t.worlds = s.worlds)
    ∧ (∀ (s : State) (a : Nat), Requested s 0x05 a → s.requestWid ≠ 0 →
      (s.worldAlive s.requestWid = true → ((s.world s.requestWid).frame (s.arg 0)).isSome = true →
        ∃ t, exec .force s = .next t ∧ Answered t a 0 ∧ Gone t s.requestWid)
      ∧ ((s.world s.requestWid).frame (s.arg 0) = none →
        ∃ t, exec .force s = .next t ∧ Answered t a 3 ∧ t.worlds = s.worlds)))
  ∧ ((∀ (s s1 : State) (w res pa arg : Nat) (f : Frame), Took s s1 w 1 res pa arg → (s1.world w).frame pa = some f →
      f.asked = true →
      ∃ t, exec .accept s = .next t ∧ (∀ g ∈ (t.world w).frames, g.pa ≠ pa)
        ∧ (∀ a, s.mailbox.busy = some a → s1.reclaiming w pa = true → Answered t a 0))
    ∧ (∀ (s s1 : State) (w res pa arg : Nat) (f : Frame), Took s s1 w 2 res pa arg → (s1.world w).frame pa = some f →
      f.asked = true →
      ∃ t, exec .refuse s = .next t ∧ (∀ g ∈ (t.world w).frames, g.pa = pa → g.asked = false)
        ∧ (t.world w).frames.length = (s1.world w).frames.length
        ∧ (∀ a, s.mailbox.busy = some a → s1.reclaiming w pa = true → Answered t a 4))
    ∧ (∀ (s s1 : State) (w res pa ha : Nat) (f : Frame), Took s s1 w 3 res pa ha → (s1.world w).frame pa = some f →
      f.asked = false → (s1.world w).exports.length < 2 ^ 20 →
      ∃ t, exec .exportPage s = .next t ∧ (∀ g ∈ (t.world w).frames, g.pa ≠ pa)
        ∧ (t.world w).exportCount = (s1.world w).exportCount + 1
        ∧ (t.world w).exports = (s1.world w).exports ++ [(pa, (s1.world w).exportCount + 1, f.size)]
        ∧ (s.hostDown = false →
          let u := (s1.cores.map Prod.fst).foldl State.cleanL1 s1
          let ver := (s1.world w).exportCount + 1
          t.hostBytes ha 64 = exportHeader w f.size pa ver
            ∧ ∀ e < pageBytes f.size / 256, t.hostBytes (ha + 64 + 264 * e) 264
              = sealEntry (s1.world w).keys pa ver f.size e (u.frameBlock pa e)))
    ∧ (∀ (s : State) (a : Nat), Requested s 0x06 a → s.requestWid ≠ 0 → s.worldAlive s.requestWid = true →
      let w := s.requestWid
      let h := s.hostBytes (s.arg 0) 64
      let eid := recField h 8 8
      let ver := recField h 16 8
      let size := recField h 5 1
      let known := decide (recField h 0 4 = exportMagic) && recField h 4 1 == w && zeroBytes h 6 2 && zeroBytes h 24 40
        && (s.world w).exports.any (fun e => e.1 == eid && e.2.1 == ver && e.2.2 == size)
      let plain := s.openRecord (s.world w).keys eid ver size (s.arg 0) (pageBytes size / 256) 0
      size ≤ 11 → s.arg 1 % pageBytes size = 0 → s.inPool w (s.arg 1) (pageBytes size) = true →
      (known = true → plain ≠ none → ∃ t, exec .importPage s = .next t ∧ Answered t a 0
        ∧ (t.world w).frames = (s.world w).frames ++ [{ pa := s.arg 1, size := size }]
        ∧ (∀ e ∈ (t.world w).exports, e.1 = eid → e.2.1 ≠ ver))
      ∧ (known = false ∨ plain = none → ∃ t, exec .importPage s = .next t ∧ Answered t a 5 ∧ Gone t w)))

/-- R332, R372, R376, R384, R390: SET_ROOT, the requests for queues and windows, and DEBUG_UNLOCK, which destroys
every confidential world. What counts as loaded for SET_ROOT is log entry 67, that its root is in force at once and
its TLB entries are dropped log entry 71, and which tokens are good log entry 70: the model's readings. -/
def Obligations.RootsQueuesAndWindows : Prop :=
  (∀ (s : State) (a : Nat), Requested s 0x07 a → s.requestWid = 0 → s.arg 0 % 0x1000 = 0 →
    s.ownsDram 0 (s.arg 0) 0x1000 = true →
    let loaded := s.launches.any (fun e => e.2.world == 0 && !s.isRun e.2)
    (loaded = false → ∃ t, exec .setRoot s = .next t ∧ Answered t a 0 ∧ (t.world 0).ptroot = some (s.arg 0)
      ∧ ∀ e ∈ t.tlb, e.world = 0 → e.pasid ≠ none)
    ∧ (loaded = true → ∃ t, exec .setRoot s = .next t ∧ Answered t a 2 ∧ t.worlds = s.worlds))
  ∧ (∀ (s : State) (a : Nat), Requested s 0x10 a →
    let r := s.hostBytes (s.arg 0) 64
    s.arg 1 < 2048 → s.arg 0 % 64 = 0 → s.worldAlive s.requestWid = true → queueRecordLegal r = true →
    (s.queue (s.arg 1) = none → ∃ t x, exec .createQueue s = .next t ∧ Answered t a 0 ∧ t.queue (s.arg 1) = some x
      ∧ x.wid = s.requestWid ∧ x.ring = recField r 0 8 ∧ x.nslot = recField r 8 4 ∧ x.prio = recField r 12 1
      ∧ x.pasid = (if recField r 13 1 = 1 then some (recField r 16 4) else none) ∧ x.wdog = recField r 20 4
      ∧ x.kick = 0 ∧ x.ridx = 0 ∧ x.error = false)
    ∧ ((s.queue (s.arg 1)).isSome = true → ∃ t, exec .createQueue s = .next t ∧ Answered t a 2 ∧ t.queues = s.queues))
  ∧ (∀ (s : State) (a : Nat) (x : Queue), Requested s 0x11 a → s.queue (s.arg 0) = some x → x.wid = s.requestWid →
    ∃ t, exec .destroyQueue s = .next t ∧ Answered t a 0
      ∧ t.queue (s.arg 0) = some { x with draining := true, destroying := true })
  ∧ (∀ (s : State) (a : Nat), Requested s 0x20 a → s.worldAlive s.requestWid = true →
    s.arg 0 % 0x1000 = 0 → s.arg 1 % 0x1000 = 0 → 0 < s.arg 1 → s.arg 1 ≤ 0x40000000 → s.arg 2 < 256 →
    (∀ x ∈ (s.world s.requestWid).windows, s.arg 0 + s.arg 1 ≤ x.1 ∨ x.1 + x.2.1 ≤ s.arg 0) →
    s.idleWorld s.requestWid = true →
    let ws := (s.world s.requestWid).windows
    (ws.length < 16 → ∃ t, exec .setWindow s = .next t ∧ Answered t a 0
      ∧ (t.world s.requestWid).windows = ws ++ [(s.arg 0, s.arg 1, s.arg 2)])
    ∧ (16 ≤ ws.length → ∃ t, exec .setWindow s = .next t ∧ Answered t a 6 ∧ t.worlds = s.worlds))
  ∧ (∀ (s : State) (a : Nat), Requested s 0x21 a →
    (s.world s.requestWid).windows.any (fun x => x.1 == s.arg 0) = true → s.idleWorld s.requestWid = true →
    ∃ t, exec .clearWindow s = .next t ∧ Answered t a 0
      ∧ (t.world s.requestWid).windows = (s.world s.requestWid).windows.filter (fun y => y.1 != s.arg 0))
  ∧ (∀ (s : State) (a : Nat), Requested s 0x30 a →
    let v := Config.tokenVerdict (s.hostBytes (s.arg 0) 0x2000)
    (v = 0 → ∃ t, exec .debugUnlock s = .next t ∧ Answered t a 0 ∧ t.health.debug = true
      ∧ ∀ w, w ≠ 0 → (s.world w).alive = true → Gone t w)
    ∧ (v = 1 → ∃ t, exec .debugUnlock s = .next t ∧ Answered t a 3 ∧ t.health = s.health ∧ t.worlds = s.worlds)
    ∧ (v ≠ 0 → v ≠ 1 → ∃ t, exec .debugUnlock s = .next t ∧ Answered t a 7 ∧ t.health = s.health ∧ t.worlds = s.worlds))

/-- R376, R378, R391: while the link is up, a write of MBADDR, MBDOOR or MBSTAT acts on the mailbox, and an SPDM
request is answered with the measurements of the function's world; while it is down neither reaches the device, and
the host's translations fail. What a link that goes down does to what is outstanding is log entry 47, and the steps of
a function's session, lock and start log entry 48: the model's readings. R382, R383, R392: a package whose path has
been down for more than 1 ms cannot be reached, and what was on its way there is lost, but for reductions that the
router has not accepted (log entry 51, the model's reading); a path that comes back carries on, with the reductions
that the router has accepted. -/
def Obligations.HostLinkAndFabric : Prop :=
  ((∀ (s : State) (v : DWord), s.hostDown = false →
      (∃ t, exec (.registerWrite 0x00 v) s = .next t ∧ t.mailbox = { s.mailbox with addr := v })
      ∧ (v.getLsbD 1 = true → ∃ t, exec (.registerWrite 0x0C v) s = .next t ∧ t.mailbox = { s.mailbox with done := false })
      ∧ (v.getLsbD 0 = true → s.mailbox.busy = none →
        let a := s.mailbox.addr.toNat / 64 * 64
        let r := s.hostBytes a 64
        let good := zeroBytes r 3 5 = true ∧ zeroBytes r 36 28 = true
        (∀ i, good → requestStep (leNat (r.take 2)) = some i →
          ∃ t, exec (.registerWrite 0x08 v) s = .next t ∧ t.mailbox = { s.mailbox with busy := some a }
            ∧ { at_ := s.cycle, step := i, subject := [] } ∈ t.agenda)
        ∧ ((¬ good ∨ requestStep (leNat (r.take 2)) = none) →
          ∃ t, exec (.registerWrite 0x08 v) s = .next t ∧ Answered t a 3)))
    ∧ (∀ (s : State) (vf : Nat) (nonce : List Byte), s.hostDown = false →
      ∃ t x, exec (.spdmRequest vf (.attest nonce)) s = .next t ∧ t.attestation = some x ∧ x.vf = vf ∧ x.nonce = nonce
        ∧ x.measurements = s.measurements (s.boundWorld vf))
    ∧ (∀ (s : State) (vf : Nat), s.hostDown = false → s.boundWorld vf ≠ 0 →
      let w := s.boundWorld vf
      (∃ t, exec (.spdmRequest vf .session) s = .next t ∧ (t.world w).session = true)
      ∧ (∃ t, exec (.spdmRequest vf .ideKm) s = .next t ∧ (t.world w).ide = (s.world w).session)
      ∧ ((s.world w).ide = true → (s.world w).tdisp ≠ .run →
        ∃ t, exec (.spdmRequest vf .lockInterface) s = .next t ∧ (t.world w).tdisp = .locked)
      ∧ ((s.world w).tdisp = .locked → ∃ t, exec (.spdmRequest vf .startInterface) s = .next t
        ∧ (t.world w).tdisp = .run ∧ (t.world w).tdispError = false))
    ∧ (∀ (s : State), ∃ t, exec .linkDown s = .next t ∧ t.hostDown = true ∧ t.ats = []
      ∧ (∀ w ∈ s.confidential, (t.world w).tdispError = true ∧ (t.world w).tdisp = .error)
      ∧ ∀ p, t.memAt p = s.memAt p)
    ∧ (∀ (s : State) (off vf : Nat) (v : DWord) (m : SpdmMessage), s.hostDown = true →
      exec (.registerWrite off v) s = .next s ∧ exec (.spdmRequest vf m) s = .next s)
    ∧ (∀ (s : State), exec .hostLinkUp s = .next { s with hostDown := false }))
  ∧ ((∀ (s : State) (pkg : Nat), pkg ≠ s.pkgid.toNat → s.pathsDown.has pkg = false →
      ∃ t, exec (.fabricPathFailure pkg) s = .next t ∧ t.pathsDown.find pkg = some s.time
        ∧ { at_ := s.cycle + 1, step := .fabricPathDown, subject := [pkg, s.time] } ∈ t.agenda)
    ∧ (∀ (s : State) (pkg since : Nat), s.subject = [pkg, since] → s.pathsDown.find pkg = some since →
      (4284 * 10 ^ 6 < s.time - since → s.unreachable.contains pkg = false →
        ∃ t, exec .fabricPathDown s = .next t ∧ pkg ∈ t.unreachable ∧ (∀ c ∈ t.contributions, c.home = pkg → c.accepted = false)
          ∧ (∀ c ∈ s.contributions, (∀ y ∈ s.contributions, y.id = c.id → y.accepted = false) → c ∈ t.contributions)
          ∧ (∀ m ∈ s.flying, m.remote ≠ some pkg → m ∈ t.flying))
      ∧ (s.time - since ≤ 4284 * 10 ^ 6 → ∃ t, exec .fabricPathDown s = .next t ∧ t.unreachable = s.unreachable
        ∧ { at_ := s.cycle + 1, step := .fabricPathDown, subject := [pkg, since] } ∈ t.agenda))
    ∧ (∀ (s : State) (pkg : Nat), s.pkgid ≠ 0xFF →
      ∃ t, exec (.fabricPathRecovery pkg) s = .next t ∧ t.pathsDown.has pkg = false ∧ pkg ∉ t.unreachable
        ∧ ∀ c ∈ t.contributions, c.home = pkg → c.accepted = true → c.sent = true))

/-- R307, R316, R378, R386 to R390: resets, the frequency classes, wear and the debug freeze. What a reset keeps
beyond the retirement record and the notices is the model's reading (log entries 41 and 42). -/
def Obligations.ResetsClassesAndWear : Prop :=
  (∀ (s : State) (vf : Nat), s.boundWorld vf ≠ 0 → (s.world (s.boundWorld vf)).alive = true →
    ∃ t, exec (.functionLevelReset vf) s = .next t ∧ Gone t (s.boundWorld vf))
  ∧ (∀ (s : State), ∃ t, exec .hotReset s = .next t ∧ (∀ w ∈ s.confidential, (t.world w).alive = false))
  ∧ (∀ (s : State) (pkgid : Byte), ∃ t, exec (.powerOnReset pkgid) s = .next t ∧ t.pkgid = pkgid ∧ t.slots = []
    ∧ t.launches = [] ∧ t.queues = [] ∧ t.worlds = [] ∧ t.dram = {} ∧ t.frozen = false ∧ t.time = 0
    ∧ t.retiredCores = s.retiredCores ∧ t.deadCores = s.retiredCores ∧ t.notices = s.notices)
  ∧ (∀ (s : State), ∃ t, exec .deviceReset s = .next t ∧ t.pkgid = s.pkgid ∧ t.slots = [] ∧ t.launches = []
    ∧ t.worlds = [] ∧ t.dram = {} ∧ t.time = 0 ∧ t.retiredCores = s.retiredCores ∧ t.notices = s.notices
    ∧ (s.savedQueues = [] → t.queues = [] ∧ t.packets = []))
  ∧ (∀ (s : State),
    (s.packets.all Packet.waits = true → ∃ t, exec .firmwareUpdate s = .next t ∧ t.firmware = s.firmware + 1
      ∧ t.slots = [] ∧ t.worlds = [] ∧ t.updating = false)
    ∧ (s.packets.all Packet.waits = false → exec .firmwareUpdate s = .next { s with updating := true }))
  ∧ (∀ (s : State) (w : Nat), s.subject = [w] →
    ∃ t, exec .frequencyClassChange s = .next t ∧ ∀ d ∈ s.partition w, (t.die d).fclass = (s.die d).target)
  ∧ (∀ (s : State), ∃ t, exec .throttle s = .next t ∧ t.health.throt = true
    ∧ ∀ d < 8, (t.die d).ceiling = some (lowerClass (s.die d).target) ∧ (t.die d).fclass = (s.die d).fclass)
  ∧ (∀ (s : State), ∃ t, exec .unthrottle s = .next t ∧ t.health.throt = false ∧ ∀ d < 8, (t.die d).ceiling = none)
  ∧ (∀ (s : State), s.dueCores ≠ [] ∨ s.dueDies ≠ [] → s.mapPending = false → ∃ t, exec .retire s = .next t
    ∧ { at_ := s.cycle, step := .liveMapChange, subject := [] } ∈ t.agenda)
  ∧ (∀ (s : State), s.dueCores ≠ [] ∨ s.dueDies ≠ [] → s.mapMoment = true → ∃ t, exec .liveMapChange s = .next t
    ∧ (∀ d < 8, d ∈ s.dueDies → d ∈ t.deadDies ∧ d ∈ t.retiredDies)
    ∧ (∀ c < 8 * 288, c ∈ s.dueCores ∨ c ∈ s.retiredCores → c ∈ t.deadCores) ∧ t.deadCores = t.retiredCores
    ∧ (∀ d ∈ t.deadDies, (t.die d).valid = false) ∧ t.health.dreq = true)
  ∧ (∀ (s : State), (s.health.debug = true → ∃ t, exec .debugFreeze s = .next t ∧ t.frozen = true
      ∧ (step t = .fault .frozen ↔ t.agenda.all (fun d => !isPowerOn d.step) = true))
    ∧ (s.health.debug = false → exec .debugFreeze s = .next s))
end

