-- ==== Sys2Proof/Laws/Assoc.lean ====
section
/-! SUPPORT. The laws of sparse data: a read after a write, other keys untouched, and the canonical form kept. -/

namespace Sys2Proof.Machine

variable {α : Type}

theorem Assoc.get_nil (d : Nat → α) (k : Nat) : Assoc.get d [] k = d k := rfl

theorem Assoc.get_erase_same (d : Nat → α) (m : Assoc α) (k : Nat) : (m.erase k).get d k = d k := by
  induction m with
  | nil => rfl
  | cons e rest ih =>
    by_cases h : e.1 = k
    · simpa [Assoc.erase, h] using ih
    · simp only [Assoc.erase, List.filter_cons] at ih ⊢
      simp [h, Assoc.get, ih]

theorem Assoc.get_erase_ne (d : Nat → α) (m : Assoc α) {k j : Nat} (hj : j ≠ k) :
    (m.erase k).get d j = m.get d j := by
  induction m with
  | nil => rfl
  | cons e rest ih =>
    by_cases h : e.1 = k
    · have hj' : ¬ e.1 = j := fun h' => hj (by omega)
      simpa [Assoc.erase, h, Assoc.get, hj'] using (by
        simpa [Assoc.erase, Assoc.get, show ¬ k = j from fun h' => hj h'.symm] using ih)
    · simp only [Assoc.erase, List.filter_cons] at ih ⊢
      simp [h, Assoc.get, ih]

theorem Assoc.get_insert_same (d : Nat → α) (m : Assoc α) (k : Nat) (v : α) (h : m.get d k = d k)
    (hn : ∀ e ∈ m, e.1 ≠ k) : (m.insert k v).get d k = v := by
  induction m with
  | nil => simp [Assoc.insert, Assoc.get]
  | cons e rest ih =>
    have he : e.1 ≠ k := hn e (by simp)
    unfold Assoc.insert
    split
    · simp [Assoc.get]
    · simp only [Assoc.get, he, if_false] at h ⊢
      exact ih h (fun x hx => hn x (by simp [hx]))

theorem Assoc.get_insert_ne (d : Nat → α) (m : Assoc α) {k j : Nat} (v : α) (hj : j ≠ k) :
    (m.insert k v).get d j = m.get d j := by
  induction m with
  | nil => simp [Assoc.insert, Assoc.get, show ¬ k = j from fun h => hj h.symm]
  | cons e rest ih =>
    unfold Assoc.insert
    split
    · simp [Assoc.get, show ¬ k = j from fun h => hj h.symm]
    · simp [Assoc.get, ih]

theorem Assoc.erase_no_key (m : Assoc α) (k : Nat) : ∀ e ∈ m.erase k, e.1 ≠ k := by
  intro e he
  simpa using (List.mem_filter.mp he).2

/-- A read after a write to the same key gives the value written. -/
@[simp] theorem Assoc.get_set_same [DecidableEq α] (d : Nat → α) (m : Assoc α) (k : Nat) (v : α) :
    (m.set d k v).get d k = v := by
  unfold Assoc.set
  split
  · rename_i h
    rw [Assoc.get_erase_same, h]
  · exact Assoc.get_insert_same d _ k v (Assoc.get_erase_same d m k) (Assoc.erase_no_key m k)

/-- A write leaves every other key alone. -/
theorem Assoc.get_set_ne [DecidableEq α] (d : Nat → α) (m : Assoc α) {k j : Nat} (v : α) (hj : j ≠ k) :
    (m.set d k v).get d j = m.get d j := by
  unfold Assoc.set
  split
  · exact Assoc.get_erase_ne d m hj
  · rw [Assoc.get_insert_ne d _ v hj, Assoc.get_erase_ne d m hj]

theorem Assoc.get_set [DecidableEq α] (d : Nat → α) (m : Assoc α) (k j : Nat) (v : α) :
    (m.set d k v).get d j = if j = k then v else m.get d j := by
  by_cases h : j = k
  · subst h; simp
  · simp [h, Assoc.get_set_ne d m v h]

theorem Assoc.rising_tail {a : Nat × α} {m : Assoc α} (h : Assoc.rising (a :: m) = true) :
    Assoc.rising m = true := by
  cases m with
  | nil => rfl
  | cons b rest => simp only [Assoc.rising, Bool.and_eq_true] at h; exact h.2

theorem Assoc.rising_lt {a : Nat × α} {m : Assoc α} (h : Assoc.rising (a :: m) = true) :
    ∀ e ∈ m, a.1 < e.1 := by
  induction m generalizing a with
  | nil => simp
  | cons b rest ih =>
    simp only [Assoc.rising, Bool.and_eq_true, decide_eq_true_eq] at h
    intro e he
    rcases List.mem_cons.mp he with rfl | he
    · exact h.1
    · exact Nat.lt_trans h.1 (ih h.2 e he)

theorem Assoc.rising_cons {a : Nat × α} {m : Assoc α} (h : Assoc.rising m = true) (hl : ∀ e ∈ m, a.1 < e.1) :
    Assoc.rising (a :: m) = true := by
  cases m with
  | nil => rfl
  | cons b rest => simp [Assoc.rising, h, hl b (by simp)]

theorem Assoc.rising_filter (p : Nat × α → Bool) {m : Assoc α} (h : Assoc.rising m = true) :
    Assoc.rising (m.filter p) = true := by
  induction m with
  | nil => rfl
  | cons a rest ih =>
    have hr := ih (Assoc.rising_tail h)
    rw [List.filter_cons]
    split
    · exact Assoc.rising_cons hr (fun e he => Assoc.rising_lt h e (List.mem_filter.mp he).1)
    · exact hr

theorem Assoc.mem_insert {m : Assoc α} {k : Nat} {v : α} {e : Nat × α} (h : e ∈ m.insert k v) :
    e = (k, v) ∨ e ∈ m := by
  induction m with
  | nil => simpa [Assoc.insert] using h
  | cons a rest ih =>
    unfold Assoc.insert at h
    split at h
    · simpa using h
    · rcases List.mem_cons.mp h with rfl | h
      · right; simp
      · rcases ih h with h | h
        · exact .inl h
        · right; simp [h]

theorem Assoc.rising_insert {m : Assoc α} {k : Nat} (v : α) (h : Assoc.rising m = true)
    (hn : ∀ e ∈ m, e.1 ≠ k) : Assoc.rising (m.insert k v) = true := by
  induction m with
  | nil => rfl
  | cons a rest ih =>
    unfold Assoc.insert
    split
    · rename_i hlt
      refine Assoc.rising_cons h ?_
      intro e he
      rcases List.mem_cons.mp he with rfl | he
      · exact hlt
      · exact Nat.lt_trans hlt (Assoc.rising_lt h e he)
    · rename_i hge
      refine Assoc.rising_cons (ih (Assoc.rising_tail h) (fun e he => hn e (by simp [he]))) ?_
      intro e he
      rcases Assoc.mem_insert he with rfl | he
      · have := hn a (by simp); simp only at *; omega
      · exact Assoc.rising_lt h e he

/-- A write keeps the canonical form. -/
theorem Assoc.wf_set [DecidableEq α] (d : Nat → α) {m : Assoc α} (k : Nat) (v : α) (h : m.wf d = true) :
    (m.set d k v).wf d = true := by
  simp only [Assoc.wf, Bool.and_eq_true, List.all_eq_true, decide_eq_true_eq] at h ⊢
  have he : Assoc.rising (m.erase k) = true := Assoc.rising_filter _ h.1
  unfold Assoc.set
  split
  · exact ⟨he, fun e hm => h.2 e (List.mem_filter.mp hm).1⟩
  · rename_i hv
    refine ⟨Assoc.rising_insert v he (Assoc.erase_no_key m k), fun e hm => ?_⟩
    rcases Assoc.mem_insert hm with rfl | hm
    · exact hv
    · exact h.2 e (List.mem_filter.mp hm).1

theorem Assoc.wf_nil [DecidableEq α] (d : Nat → α) : Assoc.wf d ([] : Assoc α) = true := rfl

end Sys2Proof.Machine
end

