-- ==== Sys2Proof/Laws/Memory.lean ====
section
/-! SUPPORT. Memory: reading after writing, and every operation on a memory keeps its canonical form. -/

namespace Sys2Proof.Machine

/-! ## One byte -/

@[simp] theorem Mem.byte_setByte_same (m : Mem) (a : Nat) (v : Byte) : (m.setByte a v).byte a = v :=
  Assoc.get_set_same byteDefault m.cells a v

theorem Mem.byte_setByte_ne (m : Mem) {a b : Nat} (v : Byte) (h : b ≠ a) : (m.setByte a v).byte b = m.byte b :=
  Assoc.get_set_ne byteDefault m.cells v h

@[simp] theorem Mem.poisonAt_setByte (m : Mem) (a b : Nat) (v : Byte) : (m.setByte a v).poisonAt b = m.poisonAt b := rfl

theorem Mem.wf_empty : ({} : Mem).wf = true := rfl

theorem Mem.wf_iff (m : Mem) :
    m.wf = true ↔ Assoc.wf byteDefault m.cells = true ∧ Assoc.wf poisonDefault m.poison = true := by
  simp [Mem.wf]

theorem Mem.wf_setByte {m : Mem} (a : Nat) (v : Byte) (h : m.wf = true) : (m.setByte a v).wf = true := by
  rw [Mem.wf_iff] at *
  exact ⟨Assoc.wf_set _ _ _ h.1, h.2⟩

/-- One location's poison, set or cleared. -/
theorem Mem.wf_setPoisonAt {m : Mem} (a : Nat) (p : Bool) (h : m.wf = true) :
    ({ m with poison := m.poison.set poisonDefault a p } : Mem).wf = true := by
  rw [Mem.wf_iff] at *
  exact ⟨h.1, Assoc.wf_set _ _ _ h.2⟩

/-! ## Runs of bytes -/

theorem Mem.bytes_length (m : Mem) (a n : Nat) : (m.bytes a n).length = n := by
  induction n generalizing a with
  | zero => rfl
  | succ n ih => simp [Mem.bytes, ih]

/-- A byte inside a run written is the run's; one outside keeps its value. -/
theorem Mem.byte_setBytes (m : Mem) (a : Nat) (bs : List Byte) (x : Nat) :
    (m.setBytes a bs).byte x = if a ≤ x ∧ x < a + bs.length then bs.getD (x - a) 0 else m.byte x := by
  induction bs generalizing m a with
  | nil => simp only [Mem.setBytes, List.length_nil]; rw [if_neg (by omega)]
  | cons b bs ih =>
    simp only [Mem.setBytes, ih, List.length_cons]
    by_cases h : x = a
    · subst h
      rw [if_neg (by omega), if_pos (by omega)]
      simp
    · rw [Mem.byte_setByte_ne _ _ h]
      by_cases h2 : a ≤ x ∧ x < a + (bs.length + 1)
      · rw [if_pos (by omega), if_pos h2]
        obtain ⟨n, hn⟩ : ∃ n, x - a = n + 1 := ⟨x - a - 1, by omega⟩
        rw [hn, show x - (a + 1) = n by omega]
        simp
      · rw [if_neg (by omega), if_neg h2]

@[simp] theorem Mem.poisonAt_setBytes (m : Mem) (a : Nat) (bs : List Byte) (x : Nat) :
    (m.setBytes a bs).poisonAt x = m.poisonAt x := by
  induction bs generalizing m a with
  | nil => rfl
  | cons b bs ih => simp [Mem.setBytes, ih]

theorem Mem.wf_setBytes {m : Mem} (a : Nat) (bs : List Byte) (h : m.wf = true) : (m.setBytes a bs).wf = true := by
  induction bs generalizing m a with
  | nil => exact h
  | cons b bs ih => exact ih (a + 1) (Mem.wf_setByte a b h)

/-! ## Poison -/

theorem Mem.setPoison_succ (m : Mem) (a n : Nat) (p : Bool) :
    m.setPoison a (n + 1) p =
      { m.setPoison a n p with poison := (m.setPoison a n p).poison.set poisonDefault (a + n) p } := by
  simp [Mem.setPoison, List.range_succ, List.foldl_append]

@[simp] theorem Mem.byte_setPoison (m : Mem) (a n : Nat) (p : Bool) (x : Nat) :
    (m.setPoison a n p).byte x = m.byte x := by
  induction n with
  | zero => rfl
  | succ n ih => rw [Mem.setPoison_succ]; exact ih

theorem Mem.poisonAt_setPoison (m : Mem) (a n : Nat) (p : Bool) (x : Nat) :
    (m.setPoison a n p).poisonAt x = if a ≤ x ∧ x < a + n then p else m.poisonAt x := by
  induction n with
  | zero => rw [if_neg (by omega)]; rfl
  | succ n ih =>
    rw [Mem.setPoison_succ]
    simp only [Mem.poisonAt] at *
    by_cases h : x = a + n
    · subst h
      rw [Assoc.get_set_same, if_pos (by omega)]
    · rw [Assoc.get_set_ne _ _ _ h, ih]
      by_cases h2 : a ≤ x ∧ x < a + n
      · rw [if_pos h2, if_pos (by omega)]
      · rw [if_neg h2, if_neg (by omega)]

theorem Mem.wf_setPoison {m : Mem} (a n : Nat) (p : Bool) (h : m.wf = true) : (m.setPoison a n p).wf = true := by
  induction n with
  | zero => exact h
  | succ n ih => rw [Mem.setPoison_succ]; exact Mem.wf_setPoisonAt _ p ih

/-- Placing one byte with its poison keeps the canonical form. -/
theorem Mem.wf_putByte {m : Mem} (a : Nat) (v : Byte) (p : Bool) (h : m.wf = true) : (m.putByte a v p).wf = true :=
  Mem.wf_setPoison a 1 p (Mem.wf_setByte a v h)

theorem Mem.wf_poisonSectors {m : Mem} (a n : Nat) (h : m.wf = true) : (m.poisonSectors a n).wf = true :=
  Mem.wf_setPoison _ _ _ h

/-! ## A write (R85) -/

theorem Mem.byte_write (m : Mem) (a : Nat) (bs : List Byte) (p : Bool) (x : Nat) :
    (m.write a bs p).byte x = if a ≤ x ∧ x < a + bs.length then bs.getD (x - a) 0 else m.byte x := by
  unfold Mem.write
  rw [← Mem.byte_setBytes]
  split
  · rfl
  · split
    · exact Mem.byte_setPoison _ _ _ _ _
    · exact Mem.byte_setPoison _ _ _ _ _

/-- A clean write clears the poison of exactly the bytes it writes. -/
theorem Mem.poisonAt_write_clean (m : Mem) (a : Nat) (bs : List Byte) (x : Nat) :
    (m.write a bs false).poisonAt x = if a ≤ x ∧ x < a + bs.length then false else m.poisonAt x := by
  unfold Mem.write
  cases bs with
  | nil => simp only [List.isEmpty_nil, if_true, List.length_nil]; rw [if_neg (by omega)]; rfl
  | cons b bs => simp [Mem.poisonAt_setPoison]

theorem Mem.wf_write {m : Mem} (a : Nat) (bs : List Byte) (p : Bool) (h : m.wf = true) : (m.write a bs p).wf = true := by
  unfold Mem.write
  have h1 := Mem.wf_setBytes a bs h
  split
  · exact h1
  · split
    · exact Mem.wf_poisonSectors _ _ h1
    · exact Mem.wf_setPoison _ _ _ h1

/-! ## Blocks copied, cleared and overwritten -/

/-- Rising lists, the first wholly below the second, make a rising list. -/
theorem Assoc.rising_append {α : Type} {m n : Assoc α} (hm : Assoc.rising m = true) (hn : Assoc.rising n = true)
    (h : ∀ e ∈ m, ∀ f ∈ n, e.1 < f.1) : Assoc.rising (m ++ n) = true := by
  induction m with
  | nil => exact hn
  | cons a m ih =>
    refine Assoc.rising_cons (ih (Assoc.rising_tail hm) (fun e he f hf => h e (List.mem_cons_of_mem _ he) f hf)) ?_
    intro e he
    rcases List.mem_append.1 he with he | he
    · exact Assoc.rising_lt hm e he
    · exact h a List.mem_cons_self e he

theorem Assoc.rising_map_shift {α : Type} {m : Assoc α} (off a : Nat) (hm : Assoc.rising m = true)
    (h : ∀ e ∈ m, off ≤ e.1) : Assoc.rising (m.map (fun e => (e.1 - off + a, e.2))) = true := by
  induction m with
  | nil => rfl
  | cons x m ih =>
    refine Assoc.rising_cons (a := (x.1 - off + a, x.2))
      (ih (Assoc.rising_tail hm) (fun e he => h e (List.mem_cons_of_mem _ he))) ?_
    intro e he
    obtain ⟨y, hy, rfl⟩ := List.mem_map.1 he
    have h1 := Assoc.rising_lt hm y hy
    have h2 := h x List.mem_cons_self
    simp only
    omega

theorem Assoc.wf_splice {α : Type} [DecidableEq α] (v : α) {m src : Assoc α} (a n off : Nat)
    (hm : m.wf (fun _ => v) = true) (hs : src.wf (fun _ => v) = true) : (m.splice a n src off).wf (fun _ => v) = true := by
  simp only [Assoc.wf, Bool.and_eq_true, List.all_eq_true, decide_eq_true_eq] at *
  have hsh : Assoc.rising (src.shifted off n a) = true := by
    refine Assoc.rising_map_shift off a (Assoc.rising_filter _ hs.1) ?_
    intro e he
    have := (List.mem_filter.1 he).2
    simp at this
    omega
  have hrange : ∀ e ∈ src.shifted off n a, a ≤ e.1 ∧ e.1 < a + n := by
    intro e he
    obtain ⟨y, hy, rfl⟩ := List.mem_map.1 he
    have := (List.mem_filter.1 hy).2
    simp at this
    simp only
    omega
  constructor
  · refine Assoc.rising_append (Assoc.rising_append (Assoc.rising_filter _ hm.1) hsh ?_) (Assoc.rising_filter _ hm.1) ?_
    · intro e he f hf
      have h1 := (List.mem_filter.1 he).2
      have h2 := hrange f hf
      simp at h1
      omega
    · intro e he f hf
      have h3 := (List.mem_filter.1 hf).2
      simp at h3
      rcases List.mem_append.1 he with he | he
      · have h1 := (List.mem_filter.1 he).2
        simp at h1
        omega
      · have := hrange e he
        omega
  · intro e he
    rcases List.mem_append.1 he with he | he
    · rcases List.mem_append.1 he with he | he
      · exact hm.2 e (List.mem_filter.1 he).1
      · obtain ⟨y, hy, rfl⟩ := List.mem_map.1 he
        exact hs.2 y (List.mem_filter.1 hy).1
    · exact hm.2 e (List.mem_filter.1 he).1

theorem Mem.wf_copyIn {m src : Mem} (a n off : Nat) (hm : m.wf = true) (hs : src.wf = true) :
    (m.copyIn a n src off).wf = true := by
  rw [Mem.wf_iff] at *
  exact ⟨Assoc.wf_splice 0 a n off hm.1 hs.1, Assoc.wf_splice false a n off hm.2 hs.2⟩

theorem Mem.wf_clear {m : Mem} (a n : Nat) (hm : m.wf = true) : (m.clear a n).wf = true :=
  Mem.wf_copyIn a n 0 hm Mem.wf_empty

theorem listed_ge (a : Nat) (bs : List Byte) : ∀ e ∈ listed a bs, a ≤ e.1 := by
  induction bs generalizing a with
  | nil => intro e he; cases he
  | cons b bs ih =>
    intro e he
    unfold listed at he
    split at he
    · have := ih (a + 1) e he
      omega
    · rcases List.mem_cons.1 he with rfl | he
      · exact Nat.le_refl _
      · have := ih (a + 1) e he
        omega

theorem wf_listed (a : Nat) (bs : List Byte) : Assoc.wf byteDefault (listed a bs) = true := by
  induction bs generalizing a with
  | nil => rfl
  | cons b bs ih =>
    have h := ih (a + 1)
    unfold listed
    split
    · exact h
    · rename_i hb
      simp only [Assoc.wf, Bool.and_eq_true, List.all_eq_true, decide_eq_true_eq] at *
      refine ⟨Assoc.rising_cons h.1 ?_, ?_⟩
      · intro e he
        have := listed_ge (a + 1) bs e he
        simp only
        omega
      · intro e he
        rcases List.mem_cons.1 he with rfl | he
        · exact hb
        · exact h.2 e he

theorem Mem.wf_memoryOf (bs : List Byte) : (memoryOf bs).wf = true := by
  rw [Mem.wf_iff]
  exact ⟨wf_listed 0 bs, rfl⟩

theorem Mem.wf_overwrite {m : Mem} (a : Nat) (bs : List Byte) (hm : m.wf = true) : (m.overwrite a bs).wf = true :=
  Mem.wf_copyIn a bs.length 0 hm (Mem.wf_memoryOf bs)

/-! ## The memories of the state -/

@[simp] theorem State.memAt_setMemAt_same (s : State) (p : Place) (m : Mem) : (s.setMemAt p m).memAt p = m := by
  cases p <;> simp [State.memAt, State.setMemAt]

theorem State.memAt_setMemAt_ne (s : State) {p q : Place} (m : Mem) (h : q ≠ p) :
    (s.setMemAt p m).memAt q = s.memAt q := by
  cases p <;> cases q <;> first
    | rfl
    | exact absurd rfl h
    | (simp only [State.memAt, State.setMemAt]
       exact Assoc.get_set_ne memDefault _ m (fun e => h (by rw [e])))

@[simp] theorem State.setMemAt_slots (s : State) (p : Place) (m : Mem) : (s.setMemAt p m).slots = s.slots := by
  cases p <;> rfl
@[simp] theorem State.setMemAt_cores (s : State) (p : Place) (m : Mem) : (s.setMemAt p m).cores = s.cores := by
  cases p <;> rfl
@[simp] theorem State.setMemAt_dies (s : State) (p : Place) (m : Mem) : (s.setMemAt p m).dies = s.dies := by
  cases p <;> rfl
@[simp] theorem State.setMemAt_cur (s : State) (p : Place) (m : Mem) : (s.setMemAt p m).cur = s.cur := by
  cases p <;> rfl

/-- Raising a line's version changes no memory. -/
@[simp] theorem State.memAt_raiseVersion (s : State) (p q : Place) (a : Nat) : (s.raiseVersion p a).memAt q = s.memAt q := by
  unfold State.raiseVersion
  split
  · split <;> cases q <;> rfl
  · rfl

/-- Logging a write for interval mode changes no memory. -/
@[simp] theorem State.memAt_logWrite (s : State) (w : Nat) (p q : Place) (a : Nat) : (s.logWrite w p a).memAt q = s.memAt q := by
  unfold State.logWrite
  split
  · simp only; split <;> cases q <;> rfl
  · split <;> cases q <;> rfl
  · rfl

@[simp] theorem State.memAt_logRange (s : State) (w : Nat) (p q : Place) (a n : Nat) :
    (s.logRange w p a n).memAt q = s.memAt q := by
  have h : ∀ (f : Nat → Nat) (l : List Nat) (s : State),
      (l.foldl (fun s i => s.logWrite w p (f i)) s).memAt q = s.memAt q := by
    intro f l
    induction l with
    | nil => intro s; rfl
    | cons i l ih => intro s; rw [List.foldl_cons, ih, State.memAt_logWrite]
  unfold State.logRange
  split
  · rfl
  · split
    · exact h (fun i => a + 256 * i) _ s
    · exact h (fun i => a + i) _ s
    · rfl

/-- Host memory holds no line of device DRAM, so what is written to it raises no version. -/
@[simp] theorem State.raiseVersion_host (s : State) (a : Nat) : s.raiseVersion .host a = s := rfl

@[simp] theorem State.raiseRange_host (s : State) (a n : Nat) : s.raiseRange .host a n = s := by
  have h : ∀ l : List Nat, l.foldl (fun s i => s.raiseVersion .host (a + 256 * i)) s = s := by
    intro l
    induction l with
    | nil => rfl
    | cons i l ih => rw [List.foldl_cons, State.raiseVersion_host, ih]
  exact h _

theorem State.homeByte_memAt (s : State) (w : Nat) (p q : Place) (a : Nat) (v : Byte) (poison : Bool) :
    (s.homeByte w p a v poison).memAt q =
      if q = p then
        { (s.memAt p).setByte a v with poison := ((s.memAt p).setByte a v).poison.set poisonDefault a poison }
      else s.memAt q := by
  unfold State.homeByte
  split
  · rename_i h
    subst h
    simp
  · rename_i h
    rw [State.memAt_setMemAt_ne _ _ h, State.memAt_logWrite]

/-- Writing a byte at home keeps every memory canonical. -/
theorem State.homeByte_wf {s : State} (w : Nat) (p q : Place) (a : Nat) (v : Byte) (poison : Bool)
    (hp : (s.memAt p).wf = true) (hq : (s.memAt q).wf = true) : ((s.homeByte w p a v poison).memAt q).wf = true := by
  rw [State.homeByte_memAt]
  split
  · exact Mem.wf_setPoisonAt a poison (Mem.wf_setByte a v hp)
  · exact hq

end Sys2Proof.Machine
end

