-- ==== Sys2Proof/Laws/State.lean ====
section
/-! SUPPORT. What each update of the state leaves alone, field by field, and what it reads back. -/

namespace Sys2Proof.Machine

/-! ## setSlot -/

@[simp] theorem State.setSlot_cycle (s : State) (k : Nat) (v : Slot) :
    (s.setSlot k v).cycle = s.cycle := rfl
@[simp] theorem State.setSlot_turn (s : State) (k : Nat) (v : Slot) :
    (s.setSlot k v).turn = s.turn := rfl
@[simp] theorem State.setSlot_tried (s : State) (k : Nat) (v : Slot) :
    (s.setSlot k v).tried = s.tried := rfl
@[simp] theorem State.setSlot_closing (s : State) (k : Nat) (v : Slot) :
    (s.setSlot k v).closing = s.closing := rfl
@[simp] theorem State.setSlot_early (s : State) (k : Nat) (v : Slot) :
    (s.setSlot k v).early = s.early := rfl
@[simp] theorem State.setSlot_cur (s : State) (k : Nat) (v : Slot) :
    (s.setSlot k v).cur = s.cur := rfl
@[simp] theorem State.setSlot_nextId (s : State) (k : Nat) (v : Slot) :
    (s.setSlot k v).nextId = s.nextId := rfl
@[simp] theorem State.setSlot_draws (s : State) (k : Nat) (v : Slot) :
    (s.setSlot k v).draws = s.draws := rfl
@[simp] theorem State.setSlot_agenda (s : State) (k : Nat) (v : Slot) :
    (s.setSlot k v).agenda = s.agenda := rfl
@[simp] theorem State.setSlot_subject (s : State) (k : Nat) (v : Slot) :
    (s.setSlot k v).subject = s.subject := rfl
@[simp] theorem State.setSlot_cores (s : State) (k : Nat) (v : Slot) :
    (s.setSlot k v).cores = s.cores := rfl
@[simp] theorem State.setSlot_clusters (s : State) (k : Nat) (v : Slot) :
    (s.setSlot k v).clusters = s.clusters := rfl
@[simp] theorem State.setSlot_dies (s : State) (k : Nat) (v : Slot) :
    (s.setSlot k v).dies = s.dies := rfl
@[simp] theorem State.setSlot_dram (s : State) (k : Nat) (v : Slot) :
    (s.setSlot k v).dram = s.dram := rfl
@[simp] theorem State.setSlot_versions (s : State) (k : Nat) (v : Slot) :
    (s.setSlot k v).versions = s.versions := rfl
@[simp] theorem State.setSlot_hostMem (s : State) (k : Nat) (v : Slot) :
    (s.setSlot k v).hostMem = s.hostMem := rfl
@[simp] theorem State.setSlot_scratch (s : State) (k : Nat) (v : Slot) :
    (s.setSlot k v).scratch = s.scratch := rfl
@[simp] theorem State.setSlot_arena (s : State) (k : Nat) (v : Slot) :
    (s.setSlot k v).arena = s.arena := rfl
@[simp] theorem State.setSlot_windows (s : State) (k : Nat) (v : Slot) :
    (s.setSlot k v).windows = s.windows := rfl
@[simp] theorem State.setSlot_tlb (s : State) (k : Nat) (v : Slot) :
    (s.setSlot k v).tlb = s.tlb := rfl
@[simp] theorem State.setSlot_lag (s : State) (k : Nat) (v : Slot) :
    (s.setSlot k v).lag = s.lag := rfl
@[simp] theorem State.setSlot_ats (s : State) (k : Nat) (v : Slot) :
    (s.setSlot k v).ats = s.ats := rfl
@[simp] theorem State.setSlot_invalidations (s : State) (k : Nat) (v : Slot) :
    (s.setSlot k v).invalidations = s.invalidations := rfl
@[simp] theorem State.setSlot_spans (s : State) (k : Nat) (v : Slot) :
    (s.setSlot k v).spans = s.spans := rfl
@[simp] theorem State.setSlot_results (s : State) (k : Nat) (v : Slot) :
    (s.setSlot k v).results = s.results := rfl
@[simp] theorem State.setSlot_flying (s : State) (k : Nat) (v : Slot) :
    (s.setSlot k v).flying = s.flying := rfl
@[simp] theorem State.setSlot_flyingEvents (s : State) (k : Nat) (v : Slot) :
    (s.setSlot k v).flyingEvents = s.flyingEvents := rfl
@[simp] theorem State.setSlot_launches (s : State) (k : Nat) (v : Slot) :
    (s.setSlot k v).launches = s.launches := rfl
@[simp] theorem State.setSlot_poisonings (s : State) (k : Nat) (v : Slot) :
    (s.setSlot k v).poisonings = s.poisonings := rfl
@[simp] theorem State.setSlot_deadCores (s : State) (k : Nat) (v : Slot) :
    (s.setSlot k v).deadCores = s.deadCores := rfl
@[simp] theorem State.setSlot_retiredCores (s : State) (k : Nat) (v : Slot) :
    (s.setSlot k v).retiredCores = s.retiredCores := rfl
@[simp] theorem State.setSlot_worlds (s : State) (k : Nat) (v : Slot) :
    (s.setSlot k v).worlds = s.worlds := rfl
@[simp] theorem State.setSlot_runs (s : State) (k : Nat) (v : Slot) :
    (s.setSlot k v).runs = s.runs := rfl
@[simp] theorem State.setSlot_contributions (s : State) (k : Nat) (v : Slot) :
    (s.setSlot k v).contributions = s.contributions := rfl
@[simp] theorem State.setSlot_pathsDown (s : State) (k : Nat) (v : Slot) :
    (s.setSlot k v).pathsDown = s.pathsDown := rfl
@[simp] theorem State.setSlot_unreachable (s : State) (k : Nat) (v : Slot) :
    (s.setSlot k v).unreachable = s.unreachable := rfl
@[simp] theorem State.setSlot_time (s : State) (k : Nat) (v : Slot) :
    (s.setSlot k v).time = s.time := rfl
@[simp] theorem State.setSlot_queues (s : State) (k : Nat) (v : Slot) :
    (s.setSlot k v).queues = s.queues := rfl
@[simp] theorem State.setSlot_packets (s : State) (k : Nat) (v : Slot) :
    (s.setSlot k v).packets = s.packets := rfl
@[simp] theorem State.setSlot_nextTake (s : State) (k : Nat) (v : Slot) :
    (s.setSlot k v).nextTake = s.nextTake := rfl
@[simp] theorem State.setSlot_served (s : State) (k : Nat) (v : Slot) :
    (s.setSlot k v).served = s.served := rfl
@[simp] theorem State.setSlot_hostFails (s : State) (k : Nat) (v : Slot) :
    (s.setSlot k v).hostFails = s.hostFails := rfl
@[simp] theorem State.setSlot_hostOnce (s : State) (k : Nat) (v : Slot) :
    (s.setSlot k v).hostOnce = s.hostOnce := rfl
@[simp] theorem State.setSlot_nextLid (s : State) (k : Nat) (v : Slot) :
    (s.setSlot k v).nextLid = s.nextLid := rfl
@[simp] theorem State.setSlot_nextIdent (s : State) (k : Nat) (v : Slot) :
    (s.setSlot k v).nextIdent = s.nextIdent := rfl
@[simp] theorem State.setSlot_images (s : State) (k : Nat) (v : Slot) :
    (s.setSlot k v).images = s.images := rfl
@[simp] theorem State.setSlot_provs (s : State) (k : Nat) (v : Slot) :
    (s.setSlot k v).provs = s.provs := rfl
@[simp] theorem State.setSlot_mailbox (s : State) (k : Nat) (v : Slot) :
    (s.setSlot k v).mailbox = s.mailbox := rfl
@[simp] theorem State.setSlot_notices (s : State) (k : Nat) (v : Slot) :
    (s.setSlot k v).notices = s.notices := rfl
@[simp] theorem State.setSlot_attestation (s : State) (k : Nat) (v : Slot) :
    (s.setSlot k v).attestation = s.attestation := rfl
@[simp] theorem State.setSlot_health (s : State) (k : Nat) (v : Slot) :
    (s.setSlot k v).health = s.health := rfl
@[simp] theorem State.setSlot_deadDies (s : State) (k : Nat) (v : Slot) :
    (s.setSlot k v).deadDies = s.deadDies := rfl
@[simp] theorem State.setSlot_retiredDies (s : State) (k : Nat) (v : Slot) :
    (s.setSlot k v).retiredDies = s.retiredDies := rfl
@[simp] theorem State.setSlot_savedQueues (s : State) (k : Nat) (v : Slot) :
    (s.setSlot k v).savedQueues = s.savedQueues := rfl
@[simp] theorem State.setSlot_updating (s : State) (k : Nat) (v : Slot) :
    (s.setSlot k v).updating = s.updating := rfl
@[simp] theorem State.setSlot_commit (s : State) (k : Nat) (v : Slot) :
    (s.setSlot k v).commit = s.commit := rfl
@[simp] theorem State.setSlot_priFailed (s : State) (k : Nat) (v : Slot) :
    (s.setSlot k v).priFailed = s.priFailed := rfl
@[simp] theorem State.setSlot_hostDown (s : State) (k : Nat) (v : Slot) :
    (s.setSlot k v).hostDown = s.hostDown := rfl
@[simp] theorem State.setSlot_frozen (s : State) (k : Nat) (v : Slot) :
    (s.setSlot k v).frozen = s.frozen := rfl
@[simp] theorem State.setSlot_pkgid (s : State) (k : Nat) (v : Slot) :
    (s.setSlot k v).pkgid = s.pkgid := rfl
@[simp] theorem State.setSlot_firmware (s : State) (k : Nat) (v : Slot) :
    (s.setSlot k v).firmware = s.firmware := rfl
@[simp] theorem State.setSlot_intervalWorlds (s : State) (k : Nat) (v : Slot) :
    (s.setSlot k v).intervalWorlds = s.intervalWorlds := rfl
@[simp] theorem State.setSlot_undo (s : State) (k : Nat) (v : Slot) :
    (s.setSlot k v).undo = s.undo := rfl

/-! ## setCore -/

@[simp] theorem State.setCore_cycle (s : State) (k : Nat) (v : Core) :
    (s.setCore k v).cycle = s.cycle := rfl
@[simp] theorem State.setCore_turn (s : State) (k : Nat) (v : Core) :
    (s.setCore k v).turn = s.turn := rfl
@[simp] theorem State.setCore_tried (s : State) (k : Nat) (v : Core) :
    (s.setCore k v).tried = s.tried := rfl
@[simp] theorem State.setCore_closing (s : State) (k : Nat) (v : Core) :
    (s.setCore k v).closing = s.closing := rfl
@[simp] theorem State.setCore_early (s : State) (k : Nat) (v : Core) :
    (s.setCore k v).early = s.early := rfl
@[simp] theorem State.setCore_cur (s : State) (k : Nat) (v : Core) :
    (s.setCore k v).cur = s.cur := rfl
@[simp] theorem State.setCore_nextId (s : State) (k : Nat) (v : Core) :
    (s.setCore k v).nextId = s.nextId := rfl
@[simp] theorem State.setCore_draws (s : State) (k : Nat) (v : Core) :
    (s.setCore k v).draws = s.draws := rfl
@[simp] theorem State.setCore_agenda (s : State) (k : Nat) (v : Core) :
    (s.setCore k v).agenda = s.agenda := rfl
@[simp] theorem State.setCore_subject (s : State) (k : Nat) (v : Core) :
    (s.setCore k v).subject = s.subject := rfl
@[simp] theorem State.setCore_slots (s : State) (k : Nat) (v : Core) :
    (s.setCore k v).slots = s.slots := rfl
@[simp] theorem State.setCore_clusters (s : State) (k : Nat) (v : Core) :
    (s.setCore k v).clusters = s.clusters := rfl
@[simp] theorem State.setCore_dies (s : State) (k : Nat) (v : Core) :
    (s.setCore k v).dies = s.dies := rfl
@[simp] theorem State.setCore_dram (s : State) (k : Nat) (v : Core) :
    (s.setCore k v).dram = s.dram := rfl
@[simp] theorem State.setCore_versions (s : State) (k : Nat) (v : Core) :
    (s.setCore k v).versions = s.versions := rfl
@[simp] theorem State.setCore_hostMem (s : State) (k : Nat) (v : Core) :
    (s.setCore k v).hostMem = s.hostMem := rfl
@[simp] theorem State.setCore_scratch (s : State) (k : Nat) (v : Core) :
    (s.setCore k v).scratch = s.scratch := rfl
@[simp] theorem State.setCore_arena (s : State) (k : Nat) (v : Core) :
    (s.setCore k v).arena = s.arena := rfl
@[simp] theorem State.setCore_windows (s : State) (k : Nat) (v : Core) :
    (s.setCore k v).windows = s.windows := rfl
@[simp] theorem State.setCore_tlb (s : State) (k : Nat) (v : Core) :
    (s.setCore k v).tlb = s.tlb := rfl
@[simp] theorem State.setCore_lag (s : State) (k : Nat) (v : Core) :
    (s.setCore k v).lag = s.lag := rfl
@[simp] theorem State.setCore_ats (s : State) (k : Nat) (v : Core) :
    (s.setCore k v).ats = s.ats := rfl
@[simp] theorem State.setCore_invalidations (s : State) (k : Nat) (v : Core) :
    (s.setCore k v).invalidations = s.invalidations := rfl
@[simp] theorem State.setCore_spans (s : State) (k : Nat) (v : Core) :
    (s.setCore k v).spans = s.spans := rfl
@[simp] theorem State.setCore_results (s : State) (k : Nat) (v : Core) :
    (s.setCore k v).results = s.results := rfl
@[simp] theorem State.setCore_flying (s : State) (k : Nat) (v : Core) :
    (s.setCore k v).flying = s.flying := rfl
@[simp] theorem State.setCore_flyingEvents (s : State) (k : Nat) (v : Core) :
    (s.setCore k v).flyingEvents = s.flyingEvents := rfl
@[simp] theorem State.setCore_launches (s : State) (k : Nat) (v : Core) :
    (s.setCore k v).launches = s.launches := rfl
@[simp] theorem State.setCore_poisonings (s : State) (k : Nat) (v : Core) :
    (s.setCore k v).poisonings = s.poisonings := rfl
@[simp] theorem State.setCore_deadCores (s : State) (k : Nat) (v : Core) :
    (s.setCore k v).deadCores = s.deadCores := rfl
@[simp] theorem State.setCore_retiredCores (s : State) (k : Nat) (v : Core) :
    (s.setCore k v).retiredCores = s.retiredCores := rfl
@[simp] theorem State.setCore_worlds (s : State) (k : Nat) (v : Core) :
    (s.setCore k v).worlds = s.worlds := rfl
@[simp] theorem State.setCore_runs (s : State) (k : Nat) (v : Core) :
    (s.setCore k v).runs = s.runs := rfl
@[simp] theorem State.setCore_contributions (s : State) (k : Nat) (v : Core) :
    (s.setCore k v).contributions = s.contributions := rfl
@[simp] theorem State.setCore_pathsDown (s : State) (k : Nat) (v : Core) :
    (s.setCore k v).pathsDown = s.pathsDown := rfl
@[simp] theorem State.setCore_unreachable (s : State) (k : Nat) (v : Core) :
    (s.setCore k v).unreachable = s.unreachable := rfl
@[simp] theorem State.setCore_time (s : State) (k : Nat) (v : Core) :
    (s.setCore k v).time = s.time := rfl
@[simp] theorem State.setCore_queues (s : State) (k : Nat) (v : Core) :
    (s.setCore k v).queues = s.queues := rfl
@[simp] theorem State.setCore_packets (s : State) (k : Nat) (v : Core) :
    (s.setCore k v).packets = s.packets := rfl
@[simp] theorem State.setCore_nextTake (s : State) (k : Nat) (v : Core) :
    (s.setCore k v).nextTake = s.nextTake := rfl
@[simp] theorem State.setCore_served (s : State) (k : Nat) (v : Core) :
    (s.setCore k v).served = s.served := rfl
@[simp] theorem State.setCore_hostFails (s : State) (k : Nat) (v : Core) :
    (s.setCore k v).hostFails = s.hostFails := rfl
@[simp] theorem State.setCore_hostOnce (s : State) (k : Nat) (v : Core) :
    (s.setCore k v).hostOnce = s.hostOnce := rfl
@[simp] theorem State.setCore_nextLid (s : State) (k : Nat) (v : Core) :
    (s.setCore k v).nextLid = s.nextLid := rfl
@[simp] theorem State.setCore_nextIdent (s : State) (k : Nat) (v : Core) :
    (s.setCore k v).nextIdent = s.nextIdent := rfl
@[simp] theorem State.setCore_images (s : State) (k : Nat) (v : Core) :
    (s.setCore k v).images = s.images := rfl
@[simp] theorem State.setCore_provs (s : State) (k : Nat) (v : Core) :
    (s.setCore k v).provs = s.provs := rfl
@[simp] theorem State.setCore_mailbox (s : State) (k : Nat) (v : Core) :
    (s.setCore k v).mailbox = s.mailbox := rfl
@[simp] theorem State.setCore_notices (s : State) (k : Nat) (v : Core) :
    (s.setCore k v).notices = s.notices := rfl
@[simp] theorem State.setCore_attestation (s : State) (k : Nat) (v : Core) :
    (s.setCore k v).attestation = s.attestation := rfl
@[simp] theorem State.setCore_health (s : State) (k : Nat) (v : Core) :
    (s.setCore k v).health = s.health := rfl
@[simp] theorem State.setCore_deadDies (s : State) (k : Nat) (v : Core) :
    (s.setCore k v).deadDies = s.deadDies := rfl
@[simp] theorem State.setCore_retiredDies (s : State) (k : Nat) (v : Core) :
    (s.setCore k v).retiredDies = s.retiredDies := rfl
@[simp] theorem State.setCore_savedQueues (s : State) (k : Nat) (v : Core) :
    (s.setCore k v).savedQueues = s.savedQueues := rfl
@[simp] theorem State.setCore_updating (s : State) (k : Nat) (v : Core) :
    (s.setCore k v).updating = s.updating := rfl
@[simp] theorem State.setCore_commit (s : State) (k : Nat) (v : Core) :
    (s.setCore k v).commit = s.commit := rfl
@[simp] theorem State.setCore_priFailed (s : State) (k : Nat) (v : Core) :
    (s.setCore k v).priFailed = s.priFailed := rfl
@[simp] theorem State.setCore_hostDown (s : State) (k : Nat) (v : Core) :
    (s.setCore k v).hostDown = s.hostDown := rfl
@[simp] theorem State.setCore_frozen (s : State) (k : Nat) (v : Core) :
    (s.setCore k v).frozen = s.frozen := rfl
@[simp] theorem State.setCore_pkgid (s : State) (k : Nat) (v : Core) :
    (s.setCore k v).pkgid = s.pkgid := rfl
@[simp] theorem State.setCore_firmware (s : State) (k : Nat) (v : Core) :
    (s.setCore k v).firmware = s.firmware := rfl
@[simp] theorem State.setCore_intervalWorlds (s : State) (k : Nat) (v : Core) :
    (s.setCore k v).intervalWorlds = s.intervalWorlds := rfl
@[simp] theorem State.setCore_undo (s : State) (k : Nat) (v : Core) :
    (s.setCore k v).undo = s.undo := rfl

/-! ## setCluster -/

@[simp] theorem State.setCluster_cycle (s : State) (k : Nat) (v : Cluster) :
    (s.setCluster k v).cycle = s.cycle := rfl
@[simp] theorem State.setCluster_turn (s : State) (k : Nat) (v : Cluster) :
    (s.setCluster k v).turn = s.turn := rfl
@[simp] theorem State.setCluster_tried (s : State) (k : Nat) (v : Cluster) :
    (s.setCluster k v).tried = s.tried := rfl
@[simp] theorem State.setCluster_closing (s : State) (k : Nat) (v : Cluster) :
    (s.setCluster k v).closing = s.closing := rfl
@[simp] theorem State.setCluster_early (s : State) (k : Nat) (v : Cluster) :
    (s.setCluster k v).early = s.early := rfl
@[simp] theorem State.setCluster_cur (s : State) (k : Nat) (v : Cluster) :
    (s.setCluster k v).cur = s.cur := rfl
@[simp] theorem State.setCluster_nextId (s : State) (k : Nat) (v : Cluster) :
    (s.setCluster k v).nextId = s.nextId := rfl
@[simp] theorem State.setCluster_draws (s : State) (k : Nat) (v : Cluster) :
    (s.setCluster k v).draws = s.draws := rfl
@[simp] theorem State.setCluster_agenda (s : State) (k : Nat) (v : Cluster) :
    (s.setCluster k v).agenda = s.agenda := rfl
@[simp] theorem State.setCluster_subject (s : State) (k : Nat) (v : Cluster) :
    (s.setCluster k v).subject = s.subject := rfl
@[simp] theorem State.setCluster_slots (s : State) (k : Nat) (v : Cluster) :
    (s.setCluster k v).slots = s.slots := rfl
@[simp] theorem State.setCluster_cores (s : State) (k : Nat) (v : Cluster) :
    (s.setCluster k v).cores = s.cores := rfl
@[simp] theorem State.setCluster_dies (s : State) (k : Nat) (v : Cluster) :
    (s.setCluster k v).dies = s.dies := rfl
@[simp] theorem State.setCluster_dram (s : State) (k : Nat) (v : Cluster) :
    (s.setCluster k v).dram = s.dram := rfl
@[simp] theorem State.setCluster_versions (s : State) (k : Nat) (v : Cluster) :
    (s.setCluster k v).versions = s.versions := rfl
@[simp] theorem State.setCluster_hostMem (s : State) (k : Nat) (v : Cluster) :
    (s.setCluster k v).hostMem = s.hostMem := rfl
@[simp] theorem State.setCluster_scratch (s : State) (k : Nat) (v : Cluster) :
    (s.setCluster k v).scratch = s.scratch := rfl
@[simp] theorem State.setCluster_arena (s : State) (k : Nat) (v : Cluster) :
    (s.setCluster k v).arena = s.arena := rfl
@[simp] theorem State.setCluster_windows (s : State) (k : Nat) (v : Cluster) :
    (s.setCluster k v).windows = s.windows := rfl
@[simp] theorem State.setCluster_tlb (s : State) (k : Nat) (v : Cluster) :
    (s.setCluster k v).tlb = s.tlb := rfl
@[simp] theorem State.setCluster_lag (s : State) (k : Nat) (v : Cluster) :
    (s.setCluster k v).lag = s.lag := rfl
@[simp] theorem State.setCluster_ats (s : State) (k : Nat) (v : Cluster) :
    (s.setCluster k v).ats = s.ats := rfl
@[simp] theorem State.setCluster_invalidations (s : State) (k : Nat) (v : Cluster) :
    (s.setCluster k v).invalidations = s.invalidations := rfl
@[simp] theorem State.setCluster_spans (s : State) (k : Nat) (v : Cluster) :
    (s.setCluster k v).spans = s.spans := rfl
@[simp] theorem State.setCluster_results (s : State) (k : Nat) (v : Cluster) :
    (s.setCluster k v).results = s.results := rfl
@[simp] theorem State.setCluster_flying (s : State) (k : Nat) (v : Cluster) :
    (s.setCluster k v).flying = s.flying := rfl
@[simp] theorem State.setCluster_flyingEvents (s : State) (k : Nat) (v : Cluster) :
    (s.setCluster k v).flyingEvents = s.flyingEvents := rfl
@[simp] theorem State.setCluster_launches (s : State) (k : Nat) (v : Cluster) :
    (s.setCluster k v).launches = s.launches := rfl
@[simp] theorem State.setCluster_poisonings (s : State) (k : Nat) (v : Cluster) :
    (s.setCluster k v).poisonings = s.poisonings := rfl
@[simp] theorem State.setCluster_deadCores (s : State) (k : Nat) (v : Cluster) :
    (s.setCluster k v).deadCores = s.deadCores := rfl
@[simp] theorem State.setCluster_retiredCores (s : State) (k : Nat) (v : Cluster) :
    (s.setCluster k v).retiredCores = s.retiredCores := rfl
@[simp] theorem State.setCluster_worlds (s : State) (k : Nat) (v : Cluster) :
    (s.setCluster k v).worlds = s.worlds := rfl
@[simp] theorem State.setCluster_runs (s : State) (k : Nat) (v : Cluster) :
    (s.setCluster k v).runs = s.runs := rfl
@[simp] theorem State.setCluster_contributions (s : State) (k : Nat) (v : Cluster) :
    (s.setCluster k v).contributions = s.contributions := rfl
@[simp] theorem State.setCluster_pathsDown (s : State) (k : Nat) (v : Cluster) :
    (s.setCluster k v).pathsDown = s.pathsDown := rfl
@[simp] theorem State.setCluster_unreachable (s : State) (k : Nat) (v : Cluster) :
    (s.setCluster k v).unreachable = s.unreachable := rfl
@[simp] theorem State.setCluster_time (s : State) (k : Nat) (v : Cluster) :
    (s.setCluster k v).time = s.time := rfl
@[simp] theorem State.setCluster_queues (s : State) (k : Nat) (v : Cluster) :
    (s.setCluster k v).queues = s.queues := rfl
@[simp] theorem State.setCluster_packets (s : State) (k : Nat) (v : Cluster) :
    (s.setCluster k v).packets = s.packets := rfl
@[simp] theorem State.setCluster_nextTake (s : State) (k : Nat) (v : Cluster) :
    (s.setCluster k v).nextTake = s.nextTake := rfl
@[simp] theorem State.setCluster_served (s : State) (k : Nat) (v : Cluster) :
    (s.setCluster k v).served = s.served := rfl
@[simp] theorem State.setCluster_hostFails (s : State) (k : Nat) (v : Cluster) :
    (s.setCluster k v).hostFails = s.hostFails := rfl
@[simp] theorem State.setCluster_hostOnce (s : State) (k : Nat) (v : Cluster) :
    (s.setCluster k v).hostOnce = s.hostOnce := rfl
@[simp] theorem State.setCluster_nextLid (s : State) (k : Nat) (v : Cluster) :
    (s.setCluster k v).nextLid = s.nextLid := rfl
@[simp] theorem State.setCluster_nextIdent (s : State) (k : Nat) (v : Cluster) :
    (s.setCluster k v).nextIdent = s.nextIdent := rfl
@[simp] theorem State.setCluster_images (s : State) (k : Nat) (v : Cluster) :
    (s.setCluster k v).images = s.images := rfl
@[simp] theorem State.setCluster_provs (s : State) (k : Nat) (v : Cluster) :
    (s.setCluster k v).provs = s.provs := rfl
@[simp] theorem State.setCluster_mailbox (s : State) (k : Nat) (v : Cluster) :
    (s.setCluster k v).mailbox = s.mailbox := rfl
@[simp] theorem State.setCluster_notices (s : State) (k : Nat) (v : Cluster) :
    (s.setCluster k v).notices = s.notices := rfl
@[simp] theorem State.setCluster_attestation (s : State) (k : Nat) (v : Cluster) :
    (s.setCluster k v).attestation = s.attestation := rfl
@[simp] theorem State.setCluster_health (s : State) (k : Nat) (v : Cluster) :
    (s.setCluster k v).health = s.health := rfl
@[simp] theorem State.setCluster_deadDies (s : State) (k : Nat) (v : Cluster) :
    (s.setCluster k v).deadDies = s.deadDies := rfl
@[simp] theorem State.setCluster_retiredDies (s : State) (k : Nat) (v : Cluster) :
    (s.setCluster k v).retiredDies = s.retiredDies := rfl
@[simp] theorem State.setCluster_savedQueues (s : State) (k : Nat) (v : Cluster) :
    (s.setCluster k v).savedQueues = s.savedQueues := rfl
@[simp] theorem State.setCluster_updating (s : State) (k : Nat) (v : Cluster) :
    (s.setCluster k v).updating = s.updating := rfl
@[simp] theorem State.setCluster_commit (s : State) (k : Nat) (v : Cluster) :
    (s.setCluster k v).commit = s.commit := rfl
@[simp] theorem State.setCluster_priFailed (s : State) (k : Nat) (v : Cluster) :
    (s.setCluster k v).priFailed = s.priFailed := rfl
@[simp] theorem State.setCluster_hostDown (s : State) (k : Nat) (v : Cluster) :
    (s.setCluster k v).hostDown = s.hostDown := rfl
@[simp] theorem State.setCluster_frozen (s : State) (k : Nat) (v : Cluster) :
    (s.setCluster k v).frozen = s.frozen := rfl
@[simp] theorem State.setCluster_pkgid (s : State) (k : Nat) (v : Cluster) :
    (s.setCluster k v).pkgid = s.pkgid := rfl
@[simp] theorem State.setCluster_firmware (s : State) (k : Nat) (v : Cluster) :
    (s.setCluster k v).firmware = s.firmware := rfl
@[simp] theorem State.setCluster_intervalWorlds (s : State) (k : Nat) (v : Cluster) :
    (s.setCluster k v).intervalWorlds = s.intervalWorlds := rfl
@[simp] theorem State.setCluster_undo (s : State) (k : Nat) (v : Cluster) :
    (s.setCluster k v).undo = s.undo := rfl

/-! ## setDie -/

@[simp] theorem State.setDie_cycle (s : State) (k : Nat) (v : Die) :
    (s.setDie k v).cycle = s.cycle := rfl
@[simp] theorem State.setDie_turn (s : State) (k : Nat) (v : Die) :
    (s.setDie k v).turn = s.turn := rfl
@[simp] theorem State.setDie_tried (s : State) (k : Nat) (v : Die) :
    (s.setDie k v).tried = s.tried := rfl
@[simp] theorem State.setDie_closing (s : State) (k : Nat) (v : Die) :
    (s.setDie k v).closing = s.closing := rfl
@[simp] theorem State.setDie_early (s : State) (k : Nat) (v : Die) :
    (s.setDie k v).early = s.early := rfl
@[simp] theorem State.setDie_cur (s : State) (k : Nat) (v : Die) :
    (s.setDie k v).cur = s.cur := rfl
@[simp] theorem State.setDie_nextId (s : State) (k : Nat) (v : Die) :
    (s.setDie k v).nextId = s.nextId := rfl
@[simp] theorem State.setDie_draws (s : State) (k : Nat) (v : Die) :
    (s.setDie k v).draws = s.draws := rfl
@[simp] theorem State.setDie_agenda (s : State) (k : Nat) (v : Die) :
    (s.setDie k v).agenda = s.agenda := rfl
@[simp] theorem State.setDie_subject (s : State) (k : Nat) (v : Die) :
    (s.setDie k v).subject = s.subject := rfl
@[simp] theorem State.setDie_slots (s : State) (k : Nat) (v : Die) :
    (s.setDie k v).slots = s.slots := rfl
@[simp] theorem State.setDie_cores (s : State) (k : Nat) (v : Die) :
    (s.setDie k v).cores = s.cores := rfl
@[simp] theorem State.setDie_clusters (s : State) (k : Nat) (v : Die) :
    (s.setDie k v).clusters = s.clusters := rfl
@[simp] theorem State.setDie_dram (s : State) (k : Nat) (v : Die) :
    (s.setDie k v).dram = s.dram := rfl
@[simp] theorem State.setDie_versions (s : State) (k : Nat) (v : Die) :
    (s.setDie k v).versions = s.versions := rfl
@[simp] theorem State.setDie_hostMem (s : State) (k : Nat) (v : Die) :
    (s.setDie k v).hostMem = s.hostMem := rfl
@[simp] theorem State.setDie_scratch (s : State) (k : Nat) (v : Die) :
    (s.setDie k v).scratch = s.scratch := rfl
@[simp] theorem State.setDie_arena (s : State) (k : Nat) (v : Die) :
    (s.setDie k v).arena = s.arena := rfl
@[simp] theorem State.setDie_windows (s : State) (k : Nat) (v : Die) :
    (s.setDie k v).windows = s.windows := rfl
@[simp] theorem State.setDie_tlb (s : State) (k : Nat) (v : Die) :
    (s.setDie k v).tlb = s.tlb := rfl
@[simp] theorem State.setDie_lag (s : State) (k : Nat) (v : Die) :
    (s.setDie k v).lag = s.lag := rfl
@[simp] theorem State.setDie_ats (s : State) (k : Nat) (v : Die) :
    (s.setDie k v).ats = s.ats := rfl
@[simp] theorem State.setDie_invalidations (s : State) (k : Nat) (v : Die) :
    (s.setDie k v).invalidations = s.invalidations := rfl
@[simp] theorem State.setDie_spans (s : State) (k : Nat) (v : Die) :
    (s.setDie k v).spans = s.spans := rfl
@[simp] theorem State.setDie_results (s : State) (k : Nat) (v : Die) :
    (s.setDie k v).results = s.results := rfl
@[simp] theorem State.setDie_flying (s : State) (k : Nat) (v : Die) :
    (s.setDie k v).flying = s.flying := rfl
@[simp] theorem State.setDie_flyingEvents (s : State) (k : Nat) (v : Die) :
    (s.setDie k v).flyingEvents = s.flyingEvents := rfl
@[simp] theorem State.setDie_launches (s : State) (k : Nat) (v : Die) :
    (s.setDie k v).launches = s.launches := rfl
@[simp] theorem State.setDie_poisonings (s : State) (k : Nat) (v : Die) :
    (s.setDie k v).poisonings = s.poisonings := rfl
@[simp] theorem State.setDie_deadCores (s : State) (k : Nat) (v : Die) :
    (s.setDie k v).deadCores = s.deadCores := rfl
@[simp] theorem State.setDie_retiredCores (s : State) (k : Nat) (v : Die) :
    (s.setDie k v).retiredCores = s.retiredCores := rfl
@[simp] theorem State.setDie_worlds (s : State) (k : Nat) (v : Die) :
    (s.setDie k v).worlds = s.worlds := rfl
@[simp] theorem State.setDie_runs (s : State) (k : Nat) (v : Die) :
    (s.setDie k v).runs = s.runs := rfl
@[simp] theorem State.setDie_contributions (s : State) (k : Nat) (v : Die) :
    (s.setDie k v).contributions = s.contributions := rfl
@[simp] theorem State.setDie_pathsDown (s : State) (k : Nat) (v : Die) :
    (s.setDie k v).pathsDown = s.pathsDown := rfl
@[simp] theorem State.setDie_unreachable (s : State) (k : Nat) (v : Die) :
    (s.setDie k v).unreachable = s.unreachable := rfl
@[simp] theorem State.setDie_time (s : State) (k : Nat) (v : Die) :
    (s.setDie k v).time = s.time := rfl
@[simp] theorem State.setDie_queues (s : State) (k : Nat) (v : Die) :
    (s.setDie k v).queues = s.queues := rfl
@[simp] theorem State.setDie_packets (s : State) (k : Nat) (v : Die) :
    (s.setDie k v).packets = s.packets := rfl
@[simp] theorem State.setDie_nextTake (s : State) (k : Nat) (v : Die) :
    (s.setDie k v).nextTake = s.nextTake := rfl
@[simp] theorem State.setDie_served (s : State) (k : Nat) (v : Die) :
    (s.setDie k v).served = s.served := rfl
@[simp] theorem State.setDie_hostFails (s : State) (k : Nat) (v : Die) :
    (s.setDie k v).hostFails = s.hostFails := rfl
@[simp] theorem State.setDie_hostOnce (s : State) (k : Nat) (v : Die) :
    (s.setDie k v).hostOnce = s.hostOnce := rfl
@[simp] theorem State.setDie_nextLid (s : State) (k : Nat) (v : Die) :
    (s.setDie k v).nextLid = s.nextLid := rfl
@[simp] theorem State.setDie_nextIdent (s : State) (k : Nat) (v : Die) :
    (s.setDie k v).nextIdent = s.nextIdent := rfl
@[simp] theorem State.setDie_images (s : State) (k : Nat) (v : Die) :
    (s.setDie k v).images = s.images := rfl
@[simp] theorem State.setDie_provs (s : State) (k : Nat) (v : Die) :
    (s.setDie k v).provs = s.provs := rfl
@[simp] theorem State.setDie_mailbox (s : State) (k : Nat) (v : Die) :
    (s.setDie k v).mailbox = s.mailbox := rfl
@[simp] theorem State.setDie_notices (s : State) (k : Nat) (v : Die) :
    (s.setDie k v).notices = s.notices := rfl
@[simp] theorem State.setDie_attestation (s : State) (k : Nat) (v : Die) :
    (s.setDie k v).attestation = s.attestation := rfl
@[simp] theorem State.setDie_health (s : State) (k : Nat) (v : Die) :
    (s.setDie k v).health = s.health := rfl
@[simp] theorem State.setDie_deadDies (s : State) (k : Nat) (v : Die) :
    (s.setDie k v).deadDies = s.deadDies := rfl
@[simp] theorem State.setDie_retiredDies (s : State) (k : Nat) (v : Die) :
    (s.setDie k v).retiredDies = s.retiredDies := rfl
@[simp] theorem State.setDie_savedQueues (s : State) (k : Nat) (v : Die) :
    (s.setDie k v).savedQueues = s.savedQueues := rfl
@[simp] theorem State.setDie_updating (s : State) (k : Nat) (v : Die) :
    (s.setDie k v).updating = s.updating := rfl
@[simp] theorem State.setDie_commit (s : State) (k : Nat) (v : Die) :
    (s.setDie k v).commit = s.commit := rfl
@[simp] theorem State.setDie_priFailed (s : State) (k : Nat) (v : Die) :
    (s.setDie k v).priFailed = s.priFailed := rfl
@[simp] theorem State.setDie_hostDown (s : State) (k : Nat) (v : Die) :
    (s.setDie k v).hostDown = s.hostDown := rfl
@[simp] theorem State.setDie_frozen (s : State) (k : Nat) (v : Die) :
    (s.setDie k v).frozen = s.frozen := rfl
@[simp] theorem State.setDie_pkgid (s : State) (k : Nat) (v : Die) :
    (s.setDie k v).pkgid = s.pkgid := rfl
@[simp] theorem State.setDie_firmware (s : State) (k : Nat) (v : Die) :
    (s.setDie k v).firmware = s.firmware := rfl
@[simp] theorem State.setDie_intervalWorlds (s : State) (k : Nat) (v : Die) :
    (s.setDie k v).intervalWorlds = s.intervalWorlds := rfl
@[simp] theorem State.setDie_undo (s : State) (k : Nat) (v : Die) :
    (s.setDie k v).undo = s.undo := rfl

/-! ## schedule -/

@[simp] theorem State.schedule_cycle (s : State) (due : Nat) (i : Instr) (l : List Nat) :
    (s.schedule due i l).cycle = s.cycle := rfl
@[simp] theorem State.schedule_turn (s : State) (due : Nat) (i : Instr) (l : List Nat) :
    (s.schedule due i l).turn = s.turn := rfl
@[simp] theorem State.schedule_tried (s : State) (due : Nat) (i : Instr) (l : List Nat) :
    (s.schedule due i l).tried = s.tried := rfl
@[simp] theorem State.schedule_closing (s : State) (due : Nat) (i : Instr) (l : List Nat) :
    (s.schedule due i l).closing = s.closing := rfl
@[simp] theorem State.schedule_early (s : State) (due : Nat) (i : Instr) (l : List Nat) :
    (s.schedule due i l).early = s.early := rfl
@[simp] theorem State.schedule_cur (s : State) (due : Nat) (i : Instr) (l : List Nat) :
    (s.schedule due i l).cur = s.cur := rfl
@[simp] theorem State.schedule_nextId (s : State) (due : Nat) (i : Instr) (l : List Nat) :
    (s.schedule due i l).nextId = s.nextId := rfl
@[simp] theorem State.schedule_draws (s : State) (due : Nat) (i : Instr) (l : List Nat) :
    (s.schedule due i l).draws = s.draws := rfl
@[simp] theorem State.schedule_subject (s : State) (due : Nat) (i : Instr) (l : List Nat) :
    (s.schedule due i l).subject = s.subject := rfl
@[simp] theorem State.schedule_slots (s : State) (due : Nat) (i : Instr) (l : List Nat) :
    (s.schedule due i l).slots = s.slots := rfl
@[simp] theorem State.schedule_cores (s : State) (due : Nat) (i : Instr) (l : List Nat) :
    (s.schedule due i l).cores = s.cores := rfl
@[simp] theorem State.schedule_clusters (s : State) (due : Nat) (i : Instr) (l : List Nat) :
    (s.schedule due i l).clusters = s.clusters := rfl
@[simp] theorem State.schedule_dies (s : State) (due : Nat) (i : Instr) (l : List Nat) :
    (s.schedule due i l).dies = s.dies := rfl
@[simp] theorem State.schedule_dram (s : State) (due : Nat) (i : Instr) (l : List Nat) :
    (s.schedule due i l).dram = s.dram := rfl
@[simp] theorem State.schedule_versions (s : State) (due : Nat) (i : Instr) (l : List Nat) :
    (s.schedule due i l).versions = s.versions := rfl
@[simp] theorem State.schedule_hostMem (s : State) (due : Nat) (i : Instr) (l : List Nat) :
    (s.schedule due i l).hostMem = s.hostMem := rfl
@[simp] theorem State.schedule_scratch (s : State) (due : Nat) (i : Instr) (l : List Nat) :
    (s.schedule due i l).scratch = s.scratch := rfl
@[simp] theorem State.schedule_arena (s : State) (due : Nat) (i : Instr) (l : List Nat) :
    (s.schedule due i l).arena = s.arena := rfl
@[simp] theorem State.schedule_windows (s : State) (due : Nat) (i : Instr) (l : List Nat) :
    (s.schedule due i l).windows = s.windows := rfl
@[simp] theorem State.schedule_tlb (s : State) (due : Nat) (i : Instr) (l : List Nat) :
    (s.schedule due i l).tlb = s.tlb := rfl
@[simp] theorem State.schedule_lag (s : State) (due : Nat) (i : Instr) (l : List Nat) :
    (s.schedule due i l).lag = s.lag := rfl
@[simp] theorem State.schedule_ats (s : State) (due : Nat) (i : Instr) (l : List Nat) :
    (s.schedule due i l).ats = s.ats := rfl
@[simp] theorem State.schedule_invalidations (s : State) (due : Nat) (i : Instr) (l : List Nat) :
    (s.schedule due i l).invalidations = s.invalidations := rfl
@[simp] theorem State.schedule_spans (s : State) (due : Nat) (i : Instr) (l : List Nat) :
    (s.schedule due i l).spans = s.spans := rfl
@[simp] theorem State.schedule_results (s : State) (due : Nat) (i : Instr) (l : List Nat) :
    (s.schedule due i l).results = s.results := rfl
@[simp] theorem State.schedule_flying (s : State) (due : Nat) (i : Instr) (l : List Nat) :
    (s.schedule due i l).flying = s.flying := rfl
@[simp] theorem State.schedule_flyingEvents (s : State) (due : Nat) (i : Instr) (l : List Nat) :
    (s.schedule due i l).flyingEvents = s.flyingEvents := rfl
@[simp] theorem State.schedule_launches (s : State) (due : Nat) (i : Instr) (l : List Nat) :
    (s.schedule due i l).launches = s.launches := rfl
@[simp] theorem State.schedule_poisonings (s : State) (due : Nat) (i : Instr) (l : List Nat) :
    (s.schedule due i l).poisonings = s.poisonings := rfl
@[simp] theorem State.schedule_deadCores (s : State) (due : Nat) (i : Instr) (l : List Nat) :
    (s.schedule due i l).deadCores = s.deadCores := rfl
@[simp] theorem State.schedule_retiredCores (s : State) (due : Nat) (i : Instr) (l : List Nat) :
    (s.schedule due i l).retiredCores = s.retiredCores := rfl
@[simp] theorem State.schedule_worlds (s : State) (due : Nat) (i : Instr) (l : List Nat) :
    (s.schedule due i l).worlds = s.worlds := rfl
@[simp] theorem State.schedule_runs (s : State) (due : Nat) (i : Instr) (l : List Nat) :
    (s.schedule due i l).runs = s.runs := rfl
@[simp] theorem State.schedule_contributions (s : State) (due : Nat) (i : Instr) (l : List Nat) :
    (s.schedule due i l).contributions = s.contributions := rfl
@[simp] theorem State.schedule_pathsDown (s : State) (due : Nat) (i : Instr) (l : List Nat) :
    (s.schedule due i l).pathsDown = s.pathsDown := rfl
@[simp] theorem State.schedule_unreachable (s : State) (due : Nat) (i : Instr) (l : List Nat) :
    (s.schedule due i l).unreachable = s.unreachable := rfl
@[simp] theorem State.schedule_time (s : State) (due : Nat) (i : Instr) (l : List Nat) :
    (s.schedule due i l).time = s.time := rfl
@[simp] theorem State.schedule_queues (s : State) (due : Nat) (i : Instr) (l : List Nat) :
    (s.schedule due i l).queues = s.queues := rfl
@[simp] theorem State.schedule_packets (s : State) (due : Nat) (i : Instr) (l : List Nat) :
    (s.schedule due i l).packets = s.packets := rfl
@[simp] theorem State.schedule_nextTake (s : State) (due : Nat) (i : Instr) (l : List Nat) :
    (s.schedule due i l).nextTake = s.nextTake := rfl
@[simp] theorem State.schedule_served (s : State) (due : Nat) (i : Instr) (l : List Nat) :
    (s.schedule due i l).served = s.served := rfl
@[simp] theorem State.schedule_hostFails (s : State) (due : Nat) (i : Instr) (l : List Nat) :
    (s.schedule due i l).hostFails = s.hostFails := rfl
@[simp] theorem State.schedule_hostOnce (s : State) (due : Nat) (i : Instr) (l : List Nat) :
    (s.schedule due i l).hostOnce = s.hostOnce := rfl
@[simp] theorem State.schedule_nextLid (s : State) (due : Nat) (i : Instr) (l : List Nat) :
    (s.schedule due i l).nextLid = s.nextLid := rfl
@[simp] theorem State.schedule_nextIdent (s : State) (due : Nat) (i : Instr) (l : List Nat) :
    (s.schedule due i l).nextIdent = s.nextIdent := rfl
@[simp] theorem State.schedule_images (s : State) (due : Nat) (i : Instr) (l : List Nat) :
    (s.schedule due i l).images = s.images := rfl
@[simp] theorem State.schedule_provs (s : State) (due : Nat) (i : Instr) (l : List Nat) :
    (s.schedule due i l).provs = s.provs := rfl
@[simp] theorem State.schedule_mailbox (s : State) (due : Nat) (i : Instr) (l : List Nat) :
    (s.schedule due i l).mailbox = s.mailbox := rfl
@[simp] theorem State.schedule_notices (s : State) (due : Nat) (i : Instr) (l : List Nat) :
    (s.schedule due i l).notices = s.notices := rfl
@[simp] theorem State.schedule_attestation (s : State) (due : Nat) (i : Instr) (l : List Nat) :
    (s.schedule due i l).attestation = s.attestation := rfl
@[simp] theorem State.schedule_health (s : State) (due : Nat) (i : Instr) (l : List Nat) :
    (s.schedule due i l).health = s.health := rfl
@[simp] theorem State.schedule_deadDies (s : State) (due : Nat) (i : Instr) (l : List Nat) :
    (s.schedule due i l).deadDies = s.deadDies := rfl
@[simp] theorem State.schedule_retiredDies (s : State) (due : Nat) (i : Instr) (l : List Nat) :
    (s.schedule due i l).retiredDies = s.retiredDies := rfl
@[simp] theorem State.schedule_savedQueues (s : State) (due : Nat) (i : Instr) (l : List Nat) :
    (s.schedule due i l).savedQueues = s.savedQueues := rfl
@[simp] theorem State.schedule_updating (s : State) (due : Nat) (i : Instr) (l : List Nat) :
    (s.schedule due i l).updating = s.updating := rfl
@[simp] theorem State.schedule_commit (s : State) (due : Nat) (i : Instr) (l : List Nat) :
    (s.schedule due i l).commit = s.commit := rfl
@[simp] theorem State.schedule_priFailed (s : State) (due : Nat) (i : Instr) (l : List Nat) :
    (s.schedule due i l).priFailed = s.priFailed := rfl
@[simp] theorem State.schedule_hostDown (s : State) (due : Nat) (i : Instr) (l : List Nat) :
    (s.schedule due i l).hostDown = s.hostDown := rfl
@[simp] theorem State.schedule_frozen (s : State) (due : Nat) (i : Instr) (l : List Nat) :
    (s.schedule due i l).frozen = s.frozen := rfl
@[simp] theorem State.schedule_pkgid (s : State) (due : Nat) (i : Instr) (l : List Nat) :
    (s.schedule due i l).pkgid = s.pkgid := rfl
@[simp] theorem State.schedule_firmware (s : State) (due : Nat) (i : Instr) (l : List Nat) :
    (s.schedule due i l).firmware = s.firmware := rfl
@[simp] theorem State.schedule_intervalWorlds (s : State) (due : Nat) (i : Instr) (l : List Nat) :
    (s.schedule due i l).intervalWorlds = s.intervalWorlds := rfl
@[simp] theorem State.schedule_undo (s : State) (due : Nat) (i : Instr) (l : List Nat) :
    (s.schedule due i l).undo = s.undo := rfl

/-! ## The parts read back -/

@[simp] theorem State.slot_setSlot_same (s : State) (k : Nat) (v : Slot) : (s.setSlot k v).slot k = v := by
  simp [State.slot, State.setSlot]

theorem State.slot_setSlot_ne (s : State) {k j : Nat} (v : Slot) (h : j ≠ k) : (s.setSlot k v).slot j = s.slot j := by
  simp [State.slot, State.setSlot, Assoc.get_set_ne _ _ _ h]

theorem State.slot_setSlot (s : State) (k j : Nat) (v : Slot) :
    (s.setSlot k v).slot j = if j = k then v else s.slot j := by
  by_cases h : j = k
  · subst h; simp
  · simp [h, State.slot_setSlot_ne s v h]
@[simp] theorem State.slot_setCore (s : State) (k j : Nat) (v : Core) : (s.setCore k v).slot j = s.slot j := rfl
@[simp] theorem State.slot_setCluster (s : State) (k j : Nat) (v : Cluster) : (s.setCluster k v).slot j = s.slot j := rfl
@[simp] theorem State.slot_setDie (s : State) (k j : Nat) (v : Die) : (s.setDie k v).slot j = s.slot j := rfl
@[simp] theorem State.slot_schedule (s : State) (due : Nat) (i : Instr) (l : List Nat) (j : Nat) :
    (s.schedule due i l).slot j = s.slot j := rfl
@[simp] theorem State.core_setSlot (s : State) (k j : Nat) (v : Slot) : (s.setSlot k v).core j = s.core j := rfl
@[simp] theorem State.core_setCore_same (s : State) (k : Nat) (v : Core) : (s.setCore k v).core k = v := by
  simp [State.core, State.setCore]

theorem State.core_setCore_ne (s : State) {k j : Nat} (v : Core) (h : j ≠ k) : (s.setCore k v).core j = s.core j := by
  simp [State.core, State.setCore, Assoc.get_set_ne _ _ _ h]

theorem State.core_setCore (s : State) (k j : Nat) (v : Core) :
    (s.setCore k v).core j = if j = k then v else s.core j := by
  by_cases h : j = k
  · subst h; simp
  · simp [h, State.core_setCore_ne s v h]
@[simp] theorem State.core_setCluster (s : State) (k j : Nat) (v : Cluster) : (s.setCluster k v).core j = s.core j := rfl
@[simp] theorem State.core_setDie (s : State) (k j : Nat) (v : Die) : (s.setDie k v).core j = s.core j := rfl
@[simp] theorem State.core_schedule (s : State) (due : Nat) (i : Instr) (l : List Nat) (j : Nat) :
    (s.schedule due i l).core j = s.core j := rfl
@[simp] theorem State.cluster_setSlot (s : State) (k j : Nat) (v : Slot) : (s.setSlot k v).cluster j = s.cluster j := rfl
@[simp] theorem State.cluster_setCore (s : State) (k j : Nat) (v : Core) : (s.setCore k v).cluster j = s.cluster j := rfl
@[simp] theorem State.cluster_setCluster_same (s : State) (k : Nat) (v : Cluster) : (s.setCluster k v).cluster k = v := by
  simp [State.cluster, State.setCluster]

theorem State.cluster_setCluster_ne (s : State) {k j : Nat} (v : Cluster) (h : j ≠ k) : (s.setCluster k v).cluster j = s.cluster j := by
  simp [State.cluster, State.setCluster, Assoc.get_set_ne _ _ _ h]

theorem State.cluster_setCluster (s : State) (k j : Nat) (v : Cluster) :
    (s.setCluster k v).cluster j = if j = k then v else s.cluster j := by
  by_cases h : j = k
  · subst h; simp
  · simp [h, State.cluster_setCluster_ne s v h]
@[simp] theorem State.cluster_setDie (s : State) (k j : Nat) (v : Die) : (s.setDie k v).cluster j = s.cluster j := rfl
@[simp] theorem State.cluster_schedule (s : State) (due : Nat) (i : Instr) (l : List Nat) (j : Nat) :
    (s.schedule due i l).cluster j = s.cluster j := rfl
@[simp] theorem State.die_setSlot (s : State) (k j : Nat) (v : Slot) : (s.setSlot k v).die j = s.die j := rfl
@[simp] theorem State.die_setCore (s : State) (k j : Nat) (v : Core) : (s.setCore k v).die j = s.die j := rfl
@[simp] theorem State.die_setCluster (s : State) (k j : Nat) (v : Cluster) : (s.setCluster k v).die j = s.die j := rfl
@[simp] theorem State.die_setDie_same (s : State) (k : Nat) (v : Die) : (s.setDie k v).die k = v := by
  simp [State.die, State.setDie]

theorem State.die_setDie_ne (s : State) {k j : Nat} (v : Die) (h : j ≠ k) : (s.setDie k v).die j = s.die j := by
  simp [State.die, State.setDie, Assoc.get_set_ne _ _ _ h]

theorem State.die_setDie (s : State) (k j : Nat) (v : Die) :
    (s.setDie k v).die j = if j = k then v else s.die j := by
  by_cases h : j = k
  · subst h; simp
  · simp [h, State.die_setDie_ne s v h]
@[simp] theorem State.die_schedule (s : State) (due : Nat) (i : Instr) (l : List Nat) (j : Nat) :
    (s.schedule due i l).die j = s.die j := rfl

@[simp] theorem State.modSlot_eq (s : State) (k : Nat) (f : Slot → Slot) : s.modSlot k f = s.setSlot k (f (s.slot k)) := rfl
@[simp] theorem State.modCore_eq (s : State) (k : Nat) (f : Core → Core) : s.modCore k f = s.setCore k (f (s.core k)) := rfl
@[simp] theorem State.modCluster_eq (s : State) (k : Nat) (f : Cluster → Cluster) : s.modCluster k f = s.setCluster k (f (s.cluster k)) := rfl
@[simp] theorem State.modDie_eq (s : State) (k : Nat) (f : Die → Die) : s.modDie k f = s.setDie k (f (s.die k)) := rfl
theorem State.setMe_eq (s : State) (v : Slot) : s.setMe v = s.setSlot s.cur v := rfl
theorem State.me_eq (s : State) : s.me = s.slot s.cur := rfl
@[simp] theorem State.me_setMe (s : State) (v : Slot) : (s.setMe v).me = v := State.slot_setSlot_same s s.cur v
@[simp] theorem State.me_setCore (s : State) (k : Nat) (v : Core) : (s.setCore k v).me = s.me := rfl
@[simp] theorem State.me_setCluster (s : State) (k : Nat) (v : Cluster) : (s.setCluster k v).me = s.me := rfl
@[simp] theorem State.me_setDie (s : State) (k : Nat) (v : Die) : (s.setDie k v).me = s.me := rfl
@[simp] theorem State.me_schedule (s : State) (due : Nat) (i : Instr) (l : List Nat) :
    (s.schedule due i l).me = s.me := rfl
@[simp] theorem State.core_setMe (s : State) (v : Slot) (j : Nat) : (s.setMe v).core j = s.core j := rfl
@[simp] theorem State.cluster_setMe (s : State) (v : Slot) (j : Nat) : (s.setMe v).cluster j = s.cluster j := rfl
@[simp] theorem State.die_setMe (s : State) (v : Slot) (j : Nat) : (s.setMe v).die j = s.die j := rfl
@[simp] theorem State.setMe_cycle (s : State) (v : Slot) : (s.setMe v).cycle = s.cycle := rfl
@[simp] theorem State.setMe_turn (s : State) (v : Slot) : (s.setMe v).turn = s.turn := rfl
@[simp] theorem State.setMe_tried (s : State) (v : Slot) : (s.setMe v).tried = s.tried := rfl
@[simp] theorem State.setMe_closing (s : State) (v : Slot) : (s.setMe v).closing = s.closing := rfl
@[simp] theorem State.setMe_early (s : State) (v : Slot) : (s.setMe v).early = s.early := rfl
@[simp] theorem State.setMe_cur (s : State) (v : Slot) : (s.setMe v).cur = s.cur := rfl
@[simp] theorem State.setMe_nextId (s : State) (v : Slot) : (s.setMe v).nextId = s.nextId := rfl
@[simp] theorem State.setMe_draws (s : State) (v : Slot) : (s.setMe v).draws = s.draws := rfl
@[simp] theorem State.setMe_agenda (s : State) (v : Slot) : (s.setMe v).agenda = s.agenda := rfl
@[simp] theorem State.setMe_subject (s : State) (v : Slot) : (s.setMe v).subject = s.subject := rfl
@[simp] theorem State.setMe_cores (s : State) (v : Slot) : (s.setMe v).cores = s.cores := rfl
@[simp] theorem State.setMe_clusters (s : State) (v : Slot) : (s.setMe v).clusters = s.clusters := rfl
@[simp] theorem State.setMe_dies (s : State) (v : Slot) : (s.setMe v).dies = s.dies := rfl
@[simp] theorem State.setMe_dram (s : State) (v : Slot) : (s.setMe v).dram = s.dram := rfl
@[simp] theorem State.setMe_versions (s : State) (v : Slot) : (s.setMe v).versions = s.versions := rfl
@[simp] theorem State.setMe_hostMem (s : State) (v : Slot) : (s.setMe v).hostMem = s.hostMem := rfl
@[simp] theorem State.setMe_scratch (s : State) (v : Slot) : (s.setMe v).scratch = s.scratch := rfl
@[simp] theorem State.setMe_arena (s : State) (v : Slot) : (s.setMe v).arena = s.arena := rfl
@[simp] theorem State.setMe_windows (s : State) (v : Slot) : (s.setMe v).windows = s.windows := rfl
@[simp] theorem State.setMe_tlb (s : State) (v : Slot) : (s.setMe v).tlb = s.tlb := rfl
@[simp] theorem State.setMe_lag (s : State) (v : Slot) : (s.setMe v).lag = s.lag := rfl
@[simp] theorem State.setMe_ats (s : State) (v : Slot) : (s.setMe v).ats = s.ats := rfl
@[simp] theorem State.setMe_invalidations (s : State) (v : Slot) : (s.setMe v).invalidations = s.invalidations := rfl
@[simp] theorem State.setMe_spans (s : State) (v : Slot) : (s.setMe v).spans = s.spans := rfl
@[simp] theorem State.setMe_results (s : State) (v : Slot) : (s.setMe v).results = s.results := rfl
@[simp] theorem State.setMe_flying (s : State) (v : Slot) : (s.setMe v).flying = s.flying := rfl
@[simp] theorem State.setMe_flyingEvents (s : State) (v : Slot) : (s.setMe v).flyingEvents = s.flyingEvents := rfl
@[simp] theorem State.setMe_launches (s : State) (v : Slot) : (s.setMe v).launches = s.launches := rfl
@[simp] theorem State.setMe_poisonings (s : State) (v : Slot) : (s.setMe v).poisonings = s.poisonings := rfl
@[simp] theorem State.setMe_deadCores (s : State) (v : Slot) : (s.setMe v).deadCores = s.deadCores := rfl
@[simp] theorem State.setMe_retiredCores (s : State) (v : Slot) : (s.setMe v).retiredCores = s.retiredCores := rfl
@[simp] theorem State.setMe_worlds (s : State) (v : Slot) : (s.setMe v).worlds = s.worlds := rfl
@[simp] theorem State.setMe_runs (s : State) (v : Slot) : (s.setMe v).runs = s.runs := rfl
@[simp] theorem State.setMe_contributions (s : State) (v : Slot) : (s.setMe v).contributions = s.contributions := rfl
@[simp] theorem State.setMe_pathsDown (s : State) (v : Slot) : (s.setMe v).pathsDown = s.pathsDown := rfl
@[simp] theorem State.setMe_unreachable (s : State) (v : Slot) : (s.setMe v).unreachable = s.unreachable := rfl
@[simp] theorem State.setMe_time (s : State) (v : Slot) : (s.setMe v).time = s.time := rfl
@[simp] theorem State.setMe_queues (s : State) (v : Slot) : (s.setMe v).queues = s.queues := rfl
@[simp] theorem State.setMe_packets (s : State) (v : Slot) : (s.setMe v).packets = s.packets := rfl
@[simp] theorem State.setMe_nextTake (s : State) (v : Slot) : (s.setMe v).nextTake = s.nextTake := rfl
@[simp] theorem State.setMe_served (s : State) (v : Slot) : (s.setMe v).served = s.served := rfl
@[simp] theorem State.setMe_hostFails (s : State) (v : Slot) : (s.setMe v).hostFails = s.hostFails := rfl
@[simp] theorem State.setMe_hostOnce (s : State) (v : Slot) : (s.setMe v).hostOnce = s.hostOnce := rfl
@[simp] theorem State.setMe_nextLid (s : State) (v : Slot) : (s.setMe v).nextLid = s.nextLid := rfl
@[simp] theorem State.setMe_nextIdent (s : State) (v : Slot) : (s.setMe v).nextIdent = s.nextIdent := rfl
@[simp] theorem State.setMe_images (s : State) (v : Slot) : (s.setMe v).images = s.images := rfl
@[simp] theorem State.setMe_provs (s : State) (v : Slot) : (s.setMe v).provs = s.provs := rfl
@[simp] theorem State.setMe_mailbox (s : State) (v : Slot) : (s.setMe v).mailbox = s.mailbox := rfl
@[simp] theorem State.setMe_notices (s : State) (v : Slot) : (s.setMe v).notices = s.notices := rfl
@[simp] theorem State.setMe_attestation (s : State) (v : Slot) : (s.setMe v).attestation = s.attestation := rfl
@[simp] theorem State.setMe_health (s : State) (v : Slot) : (s.setMe v).health = s.health := rfl
@[simp] theorem State.setMe_deadDies (s : State) (v : Slot) : (s.setMe v).deadDies = s.deadDies := rfl
@[simp] theorem State.setMe_retiredDies (s : State) (v : Slot) : (s.setMe v).retiredDies = s.retiredDies := rfl
@[simp] theorem State.setMe_savedQueues (s : State) (v : Slot) : (s.setMe v).savedQueues = s.savedQueues := rfl
@[simp] theorem State.setMe_updating (s : State) (v : Slot) : (s.setMe v).updating = s.updating := rfl
@[simp] theorem State.setMe_commit (s : State) (v : Slot) : (s.setMe v).commit = s.commit := rfl
@[simp] theorem State.setMe_priFailed (s : State) (v : Slot) : (s.setMe v).priFailed = s.priFailed := rfl
@[simp] theorem State.setMe_hostDown (s : State) (v : Slot) : (s.setMe v).hostDown = s.hostDown := rfl
@[simp] theorem State.setMe_frozen (s : State) (v : Slot) : (s.setMe v).frozen = s.frozen := rfl
@[simp] theorem State.setMe_pkgid (s : State) (v : Slot) : (s.setMe v).pkgid = s.pkgid := rfl
@[simp] theorem State.setMe_firmware (s : State) (v : Slot) : (s.setMe v).firmware = s.firmware := rfl
@[simp] theorem State.setMe_intervalWorlds (s : State) (v : Slot) : (s.setMe v).intervalWorlds = s.intervalWorlds := rfl
@[simp] theorem State.setMe_undo (s : State) (v : Slot) : (s.setMe v).undo = s.undo := rfl

/-! ## General registers -/

@[simp] theorem Slot.regAt_zero (sl : Slot) : sl.regAt 0 = {} := rfl

@[simp] theorem Slot.setRegAt_zero (sl : Slot) (r : Reg) : sl.setRegAt 0 r = sl := rfl

theorem Slot.regAt_setRegAt (sl : Slot) (i j : Nat) (r : Reg) :
    (sl.setRegAt i r).regAt j = if j = i ∧ i ≠ 0 then r else sl.regAt j := by
  unfold Slot.setRegAt Slot.regAt
  by_cases hi : i = 0
  · simp [hi]
  · by_cases hj : j = 0
    · subst hj; simp [Ne.symm hi, hi]
    · by_cases h : j = i
      · subst h; simp [hi]
      · simp [hi, hj, h, Assoc.get_set_ne _ _ _ h]

@[simp] theorem Slot.setRegAt_occupied (sl : Slot) (i : Nat) (r : Reg) : (sl.setRegAt i r).occupied = sl.occupied := by
  unfold Slot.setRegAt; split <;> rfl
@[simp] theorem Slot.setReg_occupied (sl : Slot) (c : Nat) (r : Reg) : (sl.setReg c r).occupied = sl.occupied :=
  sl.setRegAt_occupied _ r
@[simp] theorem Slot.setRegAt_pc (sl : Slot) (i : Nat) (r : Reg) : (sl.setRegAt i r).pc = sl.pc := by
  unfold Slot.setRegAt; split <;> rfl
@[simp] theorem Slot.setReg_pc (sl : Slot) (c : Nat) (r : Reg) : (sl.setReg c r).pc = sl.pc :=
  sl.setRegAt_pc _ r
@[simp] theorem Slot.setRegAt_lastPc (sl : Slot) (i : Nat) (r : Reg) : (sl.setRegAt i r).lastPc = sl.lastPc := by
  unfold Slot.setRegAt; split <;> rfl
@[simp] theorem Slot.setReg_lastPc (sl : Slot) (c : Nat) (r : Reg) : (sl.setReg c r).lastPc = sl.lastPc :=
  sl.setRegAt_lastPc _ r
@[simp] theorem Slot.setRegAt_cbase (sl : Slot) (i : Nat) (r : Reg) : (sl.setRegAt i r).cbase = sl.cbase := by
  unfold Slot.setRegAt; split <;> rfl
@[simp] theorem Slot.setReg_cbase (sl : Slot) (c : Nat) (r : Reg) : (sl.setReg c r).cbase = sl.cbase :=
  sl.setRegAt_cbase _ r
@[simp] theorem Slot.setRegAt_cbound (sl : Slot) (i : Nat) (r : Reg) : (sl.setRegAt i r).cbound = sl.cbound := by
  unfold Slot.setRegAt; split <;> rfl
@[simp] theorem Slot.setReg_cbound (sl : Slot) (c : Nat) (r : Reg) : (sl.setReg c r).cbound = sl.cbound :=
  sl.setRegAt_cbound _ r
@[simp] theorem Slot.setRegAt_taskBase (sl : Slot) (i : Nat) (r : Reg) : (sl.setRegAt i r).taskBase = sl.taskBase := by
  unfold Slot.setRegAt; split <;> rfl
@[simp] theorem Slot.setReg_taskBase (sl : Slot) (c : Nat) (r : Reg) : (sl.setReg c r).taskBase = sl.taskBase :=
  sl.setRegAt_taskBase _ r
@[simp] theorem Slot.setRegAt_taskBound (sl : Slot) (i : Nat) (r : Reg) : (sl.setRegAt i r).taskBound = sl.taskBound := by
  unfold Slot.setRegAt; split <;> rfl
@[simp] theorem Slot.setReg_taskBound (sl : Slot) (c : Nat) (r : Reg) : (sl.setReg c r).taskBound = sl.taskBound :=
  sl.setRegAt_taskBound _ r
@[simp] theorem Slot.setRegAt_mode (sl : Slot) (i : Nat) (r : Reg) : (sl.setRegAt i r).mode = sl.mode := by
  unfold Slot.setRegAt; split <;> rfl
@[simp] theorem Slot.setReg_mode (sl : Slot) (c : Nat) (r : Reg) : (sl.setReg c r).mode = sl.mode :=
  sl.setRegAt_mode _ r
@[simp] theorem Slot.setRegAt_xlt (sl : Slot) (i : Nat) (r : Reg) : (sl.setRegAt i r).xlt = sl.xlt := by
  unfold Slot.setRegAt; split <;> rfl
@[simp] theorem Slot.setReg_xlt (sl : Slot) (c : Nat) (r : Reg) : (sl.setReg c r).xlt = sl.xlt :=
  sl.setRegAt_xlt _ r
@[simp] theorem Slot.setRegAt_views (sl : Slot) (i : Nat) (r : Reg) : (sl.setRegAt i r).views = sl.views := by
  unfold Slot.setRegAt; split <;> rfl
@[simp] theorem Slot.setReg_views (sl : Slot) (c : Nat) (r : Reg) : (sl.setReg c r).views = sl.views :=
  sl.setRegAt_views _ r
@[simp] theorem Slot.setRegAt_masks (sl : Slot) (i : Nat) (r : Reg) : (sl.setRegAt i r).masks = sl.masks := by
  unfold Slot.setRegAt; split <;> rfl
@[simp] theorem Slot.setReg_masks (sl : Slot) (c : Nat) (r : Reg) : (sl.setReg c r).masks = sl.masks :=
  sl.setRegAt_masks _ r
@[simp] theorem Slot.setRegAt_handles (sl : Slot) (i : Nat) (r : Reg) : (sl.setRegAt i r).handles = sl.handles := by
  unfold Slot.setRegAt; split <;> rfl
@[simp] theorem Slot.setReg_handles (sl : Slot) (c : Nat) (r : Reg) : (sl.setReg c r).handles = sl.handles :=
  sl.setRegAt_handles _ r
@[simp] theorem Slot.setRegAt_rings (sl : Slot) (i : Nat) (r : Reg) : (sl.setRegAt i r).rings = sl.rings := by
  unfold Slot.setRegAt; split <;> rfl
@[simp] theorem Slot.setReg_rings (sl : Slot) (c : Nat) (r : Reg) : (sl.setReg c r).rings = sl.rings :=
  sl.setRegAt_rings _ r
@[simp] theorem Slot.setRegAt_xcause (sl : Slot) (i : Nat) (r : Reg) : (sl.setRegAt i r).xcause = sl.xcause := by
  unfold Slot.setRegAt; split <;> rfl
@[simp] theorem Slot.setReg_xcause (sl : Slot) (c : Nat) (r : Reg) : (sl.setReg c r).xcause = sl.xcause :=
  sl.setRegAt_xcause _ r
@[simp] theorem Slot.setRegAt_xpc (sl : Slot) (i : Nat) (r : Reg) : (sl.setRegAt i r).xpc = sl.xpc := by
  unfold Slot.setRegAt; split <;> rfl
@[simp] theorem Slot.setReg_xpc (sl : Slot) (c : Nat) (r : Reg) : (sl.setReg c r).xpc = sl.xpc :=
  sl.setRegAt_xpc _ r
@[simp] theorem Slot.setRegAt_xval (sl : Slot) (i : Nat) (r : Reg) : (sl.setRegAt i r).xval = sl.xval := by
  unfold Slot.setRegAt; split <;> rfl
@[simp] theorem Slot.setReg_xval (sl : Slot) (c : Nat) (r : Reg) : (sl.setReg c r).xval = sl.xval :=
  sl.setRegAt_xval _ r
@[simp] theorem Slot.setRegAt_xval2 (sl : Slot) (i : Nat) (r : Reg) : (sl.setRegAt i r).xval2 = sl.xval2 := by
  unfold Slot.setRegAt; split <;> rfl
@[simp] theorem Slot.setReg_xval2 (sl : Slot) (c : Nat) (r : Reg) : (sl.setReg c r).xval2 = sl.xval2 :=
  sl.setRegAt_xval2 _ r
@[simp] theorem Slot.setRegAt_xinst (sl : Slot) (i : Nat) (r : Reg) : (sl.setRegAt i r).xinst = sl.xinst := by
  unfold Slot.setRegAt; split <;> rfl
@[simp] theorem Slot.setReg_xinst (sl : Slot) (c : Nat) (r : Reg) : (sl.setReg c r).xinst = sl.xinst :=
  sl.setRegAt_xinst _ r
@[simp] theorem Slot.setRegAt_xsave (sl : Slot) (i : Nat) (r : Reg) : (sl.setRegAt i r).xsave = sl.xsave := by
  unfold Slot.setRegAt; split <;> rfl
@[simp] theorem Slot.setReg_xsave (sl : Slot) (c : Nat) (r : Reg) : (sl.setReg c r).xsave = sl.xsave :=
  sl.setRegAt_xsave _ r
@[simp] theorem Slot.setRegAt_fflags (sl : Slot) (i : Nat) (r : Reg) : (sl.setRegAt i r).fflags = sl.fflags := by
  unfold Slot.setRegAt; split <;> rfl
@[simp] theorem Slot.setReg_fflags (sl : Slot) (c : Nat) (r : Reg) : (sl.setReg c r).fflags = sl.fflags :=
  sl.setRegAt_fflags _ r
@[simp] theorem Slot.setRegAt_fenable (sl : Slot) (i : Nat) (r : Reg) : (sl.setRegAt i r).fenable = sl.fenable := by
  unfold Slot.setRegAt; split <;> rfl
@[simp] theorem Slot.setReg_fenable (sl : Slot) (c : Nat) (r : Reg) : (sl.setReg c r).fenable = sl.fenable :=
  sl.setRegAt_fenable _ r
@[simp] theorem Slot.setRegAt_frnd (sl : Slot) (i : Nat) (r : Reg) : (sl.setRegAt i r).frnd = sl.frnd := by
  unfold Slot.setRegAt; split <;> rfl
@[simp] theorem Slot.setReg_frnd (sl : Slot) (c : Nat) (r : Reg) : (sl.setReg c r).frnd = sl.frnd :=
  sl.setRegAt_frnd _ r
@[simp] theorem Slot.setRegAt_mxc (sl : Slot) (i : Nat) (r : Reg) : (sl.setRegAt i r).mxc = sl.mxc := by
  unfold Slot.setRegAt; split <;> rfl
@[simp] theorem Slot.setReg_mxc (sl : Slot) (c : Nat) (r : Reg) : (sl.setReg c r).mxc = sl.mxc :=
  sl.setRegAt_mxc _ r
@[simp] theorem Slot.setRegAt_tilec (sl : Slot) (i : Nat) (r : Reg) : (sl.setRegAt i r).tilec = sl.tilec := by
  unfold Slot.setRegAt; split <;> rfl
@[simp] theorem Slot.setReg_tilec (sl : Slot) (c : Nat) (r : Reg) : (sl.setReg c r).tilec = sl.tilec :=
  sl.setRegAt_tilec _ r
@[simp] theorem Slot.setRegAt_retired (sl : Slot) (i : Nat) (r : Reg) : (sl.setRegAt i r).retired = sl.retired := by
  unfold Slot.setRegAt; split <;> rfl
@[simp] theorem Slot.setReg_retired (sl : Slot) (c : Nat) (r : Reg) : (sl.setReg c r).retired = sl.retired :=
  sl.setRegAt_retired _ r
@[simp] theorem Slot.setRegAt_latched (sl : Slot) (i : Nat) (r : Reg) : (sl.setRegAt i r).latched = sl.latched := by
  unfold Slot.setRegAt; split <;> rfl
@[simp] theorem Slot.setReg_latched (sl : Slot) (c : Nat) (r : Reg) : (sl.setReg c r).latched = sl.latched :=
  sl.setRegAt_latched _ r
@[simp] theorem Slot.setRegAt_window (sl : Slot) (i : Nat) (r : Reg) : (sl.setRegAt i r).window = sl.window := by
  unfold Slot.setRegAt; split <;> rfl
@[simp] theorem Slot.setReg_window (sl : Slot) (c : Nat) (r : Reg) : (sl.setReg c r).window = sl.window :=
  sl.setRegAt_window _ r
@[simp] theorem Slot.setRegAt_lut (sl : Slot) (i : Nat) (r : Reg) : (sl.setRegAt i r).lut = sl.lut := by
  unfold Slot.setRegAt; split <;> rfl
@[simp] theorem Slot.setReg_lut (sl : Slot) (c : Nat) (r : Reg) : (sl.setReg c r).lut = sl.lut :=
  sl.setRegAt_lut _ r
@[simp] theorem Slot.setRegAt_trcEn (sl : Slot) (i : Nat) (r : Reg) : (sl.setRegAt i r).trcEn = sl.trcEn := by
  unfold Slot.setRegAt; split <;> rfl
@[simp] theorem Slot.setReg_trcEn (sl : Slot) (c : Nat) (r : Reg) : (sl.setReg c r).trcEn = sl.trcEn :=
  sl.setRegAt_trcEn _ r
@[simp] theorem Slot.setRegAt_trcSusp (sl : Slot) (i : Nat) (r : Reg) : (sl.setRegAt i r).trcSusp = sl.trcSusp := by
  unfold Slot.setRegAt; split <;> rfl
@[simp] theorem Slot.setReg_trcSusp (sl : Slot) (c : Nat) (r : Reg) : (sl.setReg c r).trcSusp = sl.trcSusp :=
  sl.setRegAt_trcSusp _ r
@[simp] theorem Slot.setRegAt_tlbase (sl : Slot) (i : Nat) (r : Reg) : (sl.setRegAt i r).tlbase = sl.tlbase := by
  unfold Slot.setRegAt; split <;> rfl
@[simp] theorem Slot.setReg_tlbase (sl : Slot) (c : Nat) (r : Reg) : (sl.setReg c r).tlbase = sl.tlbase :=
  sl.setRegAt_tlbase _ r
@[simp] theorem Slot.setRegAt_tllim (sl : Slot) (i : Nat) (r : Reg) : (sl.setRegAt i r).tllim = sl.tllim := by
  unfold Slot.setRegAt; split <;> rfl
@[simp] theorem Slot.setReg_tllim (sl : Slot) (c : Nat) (r : Reg) : (sl.setReg c r).tllim = sl.tllim :=
  sl.setRegAt_tllim _ r
@[simp] theorem Slot.setRegAt_tltail (sl : Slot) (i : Nat) (r : Reg) : (sl.setRegAt i r).tltail = sl.tltail := by
  unfold Slot.setRegAt; split <;> rfl
@[simp] theorem Slot.setReg_tltail (sl : Slot) (c : Nat) (r : Reg) : (sl.setReg c r).tltail = sl.tltail :=
  sl.setRegAt_tltail _ r
@[simp] theorem Slot.setRegAt_trcur (sl : Slot) (i : Nat) (r : Reg) : (sl.setRegAt i r).trcur = sl.trcur := by
  unfold Slot.setRegAt; split <;> rfl
@[simp] theorem Slot.setReg_trcur (sl : Slot) (c : Nat) (r : Reg) : (sl.setReg c r).trcur = sl.trcur :=
  sl.setRegAt_trcur _ r
@[simp] theorem Slot.setRegAt_gdelta (sl : Slot) (i : Nat) (r : Reg) : (sl.setRegAt i r).gdelta = sl.gdelta := by
  unfold Slot.setRegAt; split <;> rfl
@[simp] theorem Slot.setReg_gdelta (sl : Slot) (c : Nat) (r : Reg) : (sl.setReg c r).gdelta = sl.gdelta :=
  sl.setRegAt_gdelta _ r
@[simp] theorem Slot.setRegAt_gvoff (sl : Slot) (i : Nat) (r : Reg) : (sl.setRegAt i r).gvoff = sl.gvoff := by
  unfold Slot.setRegAt; split <;> rfl
@[simp] theorem Slot.setReg_gvoff (sl : Slot) (c : Nat) (r : Reg) : (sl.setReg c r).gvoff = sl.gvoff :=
  sl.setRegAt_gvoff _ r
@[simp] theorem Slot.setRegAt_recent (sl : Slot) (i : Nat) (r : Reg) : (sl.setRegAt i r).recent = sl.recent := by
  unfold Slot.setRegAt; split <;> rfl
@[simp] theorem Slot.setReg_recent (sl : Slot) (c : Nat) (r : Reg) : (sl.setReg c r).recent = sl.recent :=
  sl.setRegAt_recent _ r
@[simp] theorem Slot.setRegAt_reversal (sl : Slot) (i : Nat) (r : Reg) : (sl.setRegAt i r).reversal = sl.reversal := by
  unfold Slot.setRegAt; split <;> rfl
@[simp] theorem Slot.setReg_reversal (sl : Slot) (c : Nat) (r : Reg) : (sl.setReg c r).reversal = sl.reversal :=
  sl.setRegAt_reversal _ r
@[simp] theorem Slot.setRegAt_kmeter (sl : Slot) (i : Nat) (r : Reg) : (sl.setRegAt i r).kmeter = sl.kmeter := by
  unfold Slot.setRegAt; split <;> rfl
@[simp] theorem Slot.setReg_kmeter (sl : Slot) (c : Nat) (r : Reg) : (sl.setReg c r).kmeter = sl.kmeter :=
  sl.setRegAt_kmeter _ r
@[simp] theorem Slot.setRegAt_fptrap (sl : Slot) (i : Nat) (r : Reg) : (sl.setRegAt i r).fptrap = sl.fptrap := by
  unfold Slot.setRegAt; split <;> rfl
@[simp] theorem Slot.setReg_fptrap (sl : Slot) (c : Nat) (r : Reg) : (sl.setReg c r).fptrap = sl.fptrap :=
  sl.setRegAt_fptrap _ r
@[simp] theorem Slot.setRegAt_landed (sl : Slot) (i : Nat) (r : Reg) : (sl.setRegAt i r).landed = sl.landed := by
  unfold Slot.setRegAt; split <;> rfl
@[simp] theorem Slot.setReg_landed (sl : Slot) (c : Nat) (r : Reg) : (sl.setReg c r).landed = sl.landed :=
  sl.setRegAt_landed _ r
@[simp] theorem Slot.setRegAt_tfmt (sl : Slot) (i : Nat) (r : Reg) : (sl.setRegAt i r).tfmt = sl.tfmt := by
  unfold Slot.setRegAt; split <;> rfl
@[simp] theorem Slot.setReg_tfmt (sl : Slot) (c : Nat) (r : Reg) : (sl.setReg c r).tfmt = sl.tfmt :=
  sl.setRegAt_tfmt _ r
@[simp] theorem Slot.setRegAt_outbox (sl : Slot) (i : Nat) (r : Reg) : (sl.setRegAt i r).outbox = sl.outbox := by
  unfold Slot.setRegAt; split <;> rfl
@[simp] theorem Slot.setReg_outbox (sl : Slot) (c : Nat) (r : Reg) : (sl.setReg c r).outbox = sl.outbox :=
  sl.setRegAt_outbox _ r
@[simp] theorem Slot.setRegAt_hioStores (sl : Slot) (i : Nat) (r : Reg) : (sl.setRegAt i r).hioStores = sl.hioStores := by
  unfold Slot.setRegAt; split <;> rfl
@[simp] theorem Slot.setReg_hioStores (sl : Slot) (c : Nat) (r : Reg) : (sl.setReg c r).hioStores = sl.hioStores :=
  sl.setRegAt_hioStores _ r
@[simp] theorem Slot.setRegAt_hioLoads (sl : Slot) (i : Nat) (r : Reg) : (sl.setRegAt i r).hioLoads = sl.hioLoads := by
  unfold Slot.setRegAt; split <;> rfl
@[simp] theorem Slot.setReg_hioLoads (sl : Slot) (c : Nat) (r : Reg) : (sl.setReg c r).hioLoads = sl.hioLoads :=
  sl.setRegAt_hioLoads _ r
@[simp] theorem Slot.setRegAt_ctrl (sl : Slot) (i : Nat) (r : Reg) : (sl.setRegAt i r).ctrl = sl.ctrl := by
  unfold Slot.setRegAt; split <;> rfl
@[simp] theorem Slot.setReg_ctrl (sl : Slot) (c : Nat) (r : Reg) : (sl.setReg c r).ctrl = sl.ctrl :=
  sl.setRegAt_ctrl _ r
@[simp] theorem Slot.setRegAt_jaddr (sl : Slot) (i : Nat) (r : Reg) : (sl.setRegAt i r).jaddr = sl.jaddr := by
  unfold Slot.setRegAt; split <;> rfl
@[simp] theorem Slot.setReg_jaddr (sl : Slot) (c : Nat) (r : Reg) : (sl.setReg c r).jaddr = sl.jaddr :=
  sl.setRegAt_jaddr _ r
@[simp] theorem Slot.setRegAt_arrived (sl : Slot) (i : Nat) (r : Reg) : (sl.setRegAt i r).arrived = sl.arrived := by
  unfold Slot.setRegAt; split <;> rfl
@[simp] theorem Slot.setReg_arrived (sl : Slot) (c : Nat) (r : Reg) : (sl.setReg c r).arrived = sl.arrived :=
  sl.setRegAt_arrived _ r
@[simp] theorem Slot.setRegAt_depart (sl : Slot) (i : Nat) (r : Reg) : (sl.setRegAt i r).depart = sl.depart := by
  unfold Slot.setRegAt; split <;> rfl
@[simp] theorem Slot.setReg_depart (sl : Slot) (c : Nat) (r : Reg) : (sl.setReg c r).depart = sl.depart :=
  sl.setRegAt_depart _ r
@[simp] theorem Slot.setRegAt_parked (sl : Slot) (i : Nat) (r : Reg) : (sl.setRegAt i r).parked = sl.parked := by
  unfold Slot.setRegAt; split <;> rfl
@[simp] theorem Slot.setReg_parked (sl : Slot) (c : Nat) (r : Reg) : (sl.setReg c r).parked = sl.parked :=
  sl.setRegAt_parked _ r
@[simp] theorem Slot.setRegAt_ready (sl : Slot) (i : Nat) (r : Reg) : (sl.setRegAt i r).ready = sl.ready := by
  unfold Slot.setRegAt; split <;> rfl
@[simp] theorem Slot.setReg_ready (sl : Slot) (c : Nat) (r : Reg) : (sl.setReg c r).ready = sl.ready :=
  sl.setRegAt_ready _ r
@[simp] theorem Slot.setRegAt_yielded (sl : Slot) (i : Nat) (r : Reg) : (sl.setRegAt i r).yielded = sl.yielded := by
  unfold Slot.setRegAt; split <;> rfl
@[simp] theorem Slot.setReg_yielded (sl : Slot) (c : Nat) (r : Reg) : (sl.setReg c r).yielded = sl.yielded :=
  sl.setRegAt_yielded _ r
@[simp] theorem Slot.setRegAt_signalled (sl : Slot) (i : Nat) (r : Reg) : (sl.setRegAt i r).signalled = sl.signalled := by
  unfold Slot.setRegAt; split <;> rfl
@[simp] theorem Slot.setReg_signalled (sl : Slot) (c : Nat) (r : Reg) : (sl.setReg c r).signalled = sl.signalled :=
  sl.setRegAt_signalled _ r
@[simp] theorem Slot.setRegAt_request (sl : Slot) (i : Nat) (r : Reg) : (sl.setRegAt i r).request = sl.request := by
  unfold Slot.setRegAt; split <;> rfl
@[simp] theorem Slot.setReg_request (sl : Slot) (c : Nat) (r : Reg) : (sl.setReg c r).request = sl.request :=
  sl.setRegAt_request _ r
@[simp] theorem Slot.setRegAt_granted (sl : Slot) (i : Nat) (r : Reg) : (sl.setRegAt i r).granted = sl.granted := by
  unfold Slot.setRegAt; split <;> rfl
@[simp] theorem Slot.setReg_granted (sl : Slot) (c : Nat) (r : Reg) : (sl.setReg c r).granted = sl.granted :=
  sl.setRegAt_granted _ r
@[simp] theorem Slot.setRegAt_accs (sl : Slot) (i : Nat) (r : Reg) : (sl.setRegAt i r).accs = sl.accs := by
  unfold Slot.setRegAt; split <;> rfl
@[simp] theorem Slot.setReg_accs (sl : Slot) (c : Nat) (r : Reg) : (sl.setReg c r).accs = sl.accs :=
  sl.setRegAt_accs _ r
@[simp] theorem Slot.setRegAt_hostOp (sl : Slot) (i : Nat) (r : Reg) : (sl.setRegAt i r).hostOp = sl.hostOp := by
  unfold Slot.setRegAt; split <;> rfl
@[simp] theorem Slot.setReg_hostOp (sl : Slot) (c : Nat) (r : Reg) : (sl.setReg c r).hostOp = sl.hostOp :=
  sl.setRegAt_hostOp _ r
@[simp] theorem Slot.setRegAt_owed (sl : Slot) (i : Nat) (r : Reg) : (sl.setRegAt i r).owed = sl.owed := by
  unfold Slot.setRegAt; split <;> rfl
@[simp] theorem Slot.setReg_owed (sl : Slot) (c : Nat) (r : Reg) : (sl.setReg c r).owed = sl.owed :=
  sl.setRegAt_owed _ r
@[simp] theorem Slot.setRegAt_draining (sl : Slot) (i : Nat) (r : Reg) : (sl.setRegAt i r).draining = sl.draining := by
  unfold Slot.setRegAt; split <;> rfl
@[simp] theorem Slot.setReg_draining (sl : Slot) (c : Nat) (r : Reg) : (sl.setReg c r).draining = sl.draining :=
  sl.setRegAt_draining _ r
@[simp] theorem Slot.setRegAt_arrival (sl : Slot) (i : Nat) (r : Reg) : (sl.setRegAt i r).arrival = sl.arrival := by
  unfold Slot.setRegAt; split <;> rfl
@[simp] theorem Slot.setReg_arrival (sl : Slot) (c : Nat) (r : Reg) : (sl.setReg c r).arrival = sl.arrival :=
  sl.setRegAt_arrival _ r
@[simp] theorem Slot.setRegAt_atsFail (sl : Slot) (i : Nat) (r : Reg) : (sl.setRegAt i r).atsFail = sl.atsFail := by
  unfold Slot.setRegAt; split <;> rfl
@[simp] theorem Slot.setReg_atsFail (sl : Slot) (c : Nat) (r : Reg) : (sl.setReg c r).atsFail = sl.atsFail :=
  sl.setRegAt_atsFail _ r
@[simp] theorem Slot.setRegAt_atsOnce (sl : Slot) (i : Nat) (r : Reg) : (sl.setRegAt i r).atsOnce = sl.atsOnce := by
  unfold Slot.setRegAt; split <;> rfl
@[simp] theorem Slot.setReg_atsOnce (sl : Slot) (c : Nat) (r : Reg) : (sl.setReg c r).atsOnce = sl.atsOnce :=
  sl.setRegAt_atsOnce _ r
@[simp] theorem Slot.setRegAt_library (sl : Slot) (i : Nat) (r : Reg) : (sl.setRegAt i r).library = sl.library := by
  unfold Slot.setRegAt; split <;> rfl
@[simp] theorem Slot.setReg_library (sl : Slot) (c : Nat) (r : Reg) : (sl.setReg c r).library = sl.library :=
  sl.setRegAt_library _ r

end Sys2Proof.Machine
end

