-- ==== Sys2Proof/Laws/Ops.lean ====
section
/-! SUPPORT. The shared operations: what each can do, said once. An instruction's proof cites these and unfolds only its
own meaning. -/

namespace Sys2Proof.Machine

/-! ## Running one instruction (R54) -/

/-- An instruction always answers a next state: it retires with its meaning's state, or stops. -/
theorem issueTo_cases (i : Instr) (a : Act Word) (s : State) :
    (∃ next t, modeLegal i s.me.xlt = true ∧ a s = .ok (next, t)
      ∧ issueTo i a s = .next (t.retireAt s.cur s.me.pc next))
    ∨ (∃ e, modeLegal i s.me.xlt = true ∧ a s = .error e ∧ issueTo i a s = .next (s.stop i e))
    ∨ (modeLegal i s.me.xlt = false ∧ issueTo i a s = .next ((s.takeTrap s.cur .illegal 0 0 (wordOf i)).issued s.cur)) := by
  unfold issueTo
  cases h : modeLegal i s.me.xlt
  · exact .inr (.inr ⟨rfl, by simp⟩)
  · cases ha : a s with
    | ok r => exact .inl ⟨r.1, r.2, rfl, rfl, by simp⟩
    | error e => exact .inr (.inl ⟨e, rfl, rfl, by simp⟩)

theorem issue_ok {i : Instr} {a : Act Unit} {s t : State} (hm : modeLegal i s.me.xlt = true) (ha : a s = .ok ((), t)) :
    issue i a s = .next (t.retireAt s.cur s.me.pc (s.me.pc + 8)) := by
  simp [issue, issueTo, hm, ha, bind, StateT.bind, Except.bind, pure, StateT.pure, Except.pure]

theorem issue_error {i : Instr} {a : Act Unit} {s : State} {e : Stop} (hm : modeLegal i s.me.xlt = true)
    (ha : a s = .error e) : issue i a s = .next (s.stop i e) := by
  simp [issue, issueTo, hm, ha, bind, StateT.bind, Except.bind]

theorem issue_answers (i : Instr) (a : Act Unit) (s : State) : ∃ t, issue i a s = .next t := by
  rcases issueTo_cases i (do a; return s.me.pc + 8) s with ⟨_, _, _, _, h⟩ | ⟨_, _, _, h⟩ | ⟨_, h⟩
  · exact ⟨_, h⟩
  · exact ⟨_, h⟩
  · exact ⟨_, h⟩

/-! ## Sequencing -/

theorem Act.bind_ok {α β : Type} {a : Act α} {f : α → Act β} {s t : State} {b : β} :
    (a >>= f) s = .ok (b, t) ↔ ∃ x u, a s = .ok (x, u) ∧ f x u = .ok (b, t) := by
  simp only [bind, StateT.bind, Except.bind]
  cases h : a s with
  | error e => simp
  | ok r => exact ⟨fun hf => ⟨r.1, r.2, rfl, hf⟩, fun ⟨x, u, hx, hf⟩ => by cases hx; exact hf⟩

theorem Act.trapIf_ok {c : Bool} {cause : Cause} {v v2 : DWord} {s t : State} {x : Unit} :
    Act.trapIf c cause v v2 s = .ok (x, t) ↔ c = false ∧ t = s := by
  cases c <;> simp [Act.trapIf, Act.trap, pure, StateT.pure, Except.pure, eq_comm]

theorem Act.parkIf_ok {c : Bool} {w : Wait} {s t : State} {x : Unit} :
    Act.parkIf c w s = .ok (x, t) ↔ c = false ∧ t = s := by
  cases c <;> simp [Act.parkIf, Act.park, pure, StateT.pure, Except.pure, eq_comm]

/-! ## The checks of R52 -/

theorem checkPorts_ok {codes : List Code} {s t : State} {x : Unit} (h : checkPorts codes s = .ok (x, t)) :
    t = s ∧ (s.me.xlt = false → ∀ c ∈ codes, s.unconnected c = false) := by
  unfold checkPorts at h
  split at h
  · split at h
    · cases h
    · rename_i hx _ _
      exact ⟨by cases h; rfl, fun hf => by rw [hf] at hx; cases hx⟩
  · split at h
    · cases h
    · rename_i hf
      refine ⟨by cases h; rfl, fun _ c hc => ?_⟩
      have := List.find?_eq_none.1 hf c hc
      simpa using this

theorem checkSources_ok {srcs : List Src} {s t : State} {x : Unit} (h : checkSources srcs s = .ok (x, t)) :
    t = s ∧ s.emptySources [] srcs = [] := by
  unfold checkSources at h
  simp only at h
  split at h
  · cases h
  · split at h
    · cases h
    · rename_i he
      exact ⟨by cases h; rfl, he⟩

theorem checkDests_ok {dests : List Dst} {s t : State} {x : Unit} (h : checkDests dests s = .ok (x, t)) :
    t = s ∧ ∀ d ∈ dests, s.dstWaits d = false := by
  unfold checkDests at h
  split at h
  · cases h
  · rename_i hf
    refine ⟨by cases h; rfl, fun d hd => ?_⟩
    have := List.find?_eq_none.1 hf d hd
    simpa using this

/-- A check that goes through changes nothing; then every source holds a value and no destination waits. -/
theorem check_ok {srcs : List Src} {dests : List Dst} {s t : State} {x : Unit} (h : check srcs dests s = .ok (x, t)) :
    t = s ∧ s.emptySources [] srcs = [] ∧ ∀ d ∈ dests, s.dstWaits d = false := by
  unfold check at h
  obtain ⟨_, u, h1, h2⟩ := Act.bind_ok.1 h
  obtain ⟨_, w, h3, h4⟩ := Act.bind_ok.1 h2
  obtain ⟨rfl, -⟩ := checkPorts_ok h1
  obtain ⟨rfl, he⟩ := checkSources_ok h3
  obtain ⟨rfl, hd⟩ := checkDests_ok h4
  exact ⟨rfl, he, hd⟩

/-! ## Sources -/

/-- Taking a source leaves the state alone, or pops a word of the slot's own core. -/
theorem State.take_cases {s t : State} {code : Code} {v : Val} (h : s.take code = some (v, t)) :
    t = s ∨ ∃ c, t = s.setCore s.myCore c := by
  unfold State.take at h
  split at h
  · cases h; exact .inl rfl
  · right
    simp only [Option.map_eq_some_iff] at h
    obtain ⟨r, -, hr⟩ := h
    cases hr
    exact ⟨r.2, rfl⟩

theorem State.take_reg {s : State} {code : Code} (h : code.toNat ≤ 63) :
    s.take code = some ((s.me.reg code.toNat).toVal, s) := by
  simp [State.take, h]

theorem rd_ok {code : Code} {s t : State} {v : Val} : rd code s = .ok (v, t) ↔ s.take code = some (v, t) := by
  unfold rd
  cases s.take code with
  | none => simp
  | some r => simp

theorem State.take_slots {s t : State} {code : Code} {v : Val} (h : s.take code = some (v, t)) : t.slots = s.slots := by
  rcases State.take_cases h with rfl | ⟨c, rfl⟩ <;> rfl

theorem State.take_cur {s t : State} {code : Code} {v : Val} (h : s.take code = some (v, t)) : t.cur = s.cur := by
  rcases State.take_cases h with rfl | ⟨c, rfl⟩ <;> rfl

theorem State.take_me {s t : State} {code : Code} {v : Val} (h : s.take code = some (v, t)) : t.me = s.me := by
  rcases State.take_cases h with rfl | ⟨c, rfl⟩ <;> simp

theorem State.take_myCore {s t : State} {code : Code} {v : Val} (h : s.take code = some (v, t)) : t.myCore = s.myCore := by
  unfold State.myCore; rw [State.take_cur h]

theorem State.take_memAt {s t : State} {code : Code} {v : Val} (h : s.take code = some (v, t)) (p : Place) :
    t.memAt p = s.memAt p := by
  rcases State.take_cases h with rfl | ⟨c, rfl⟩
  · rfl
  · cases p <;> rfl

/-! ## Destinations -/

theorem wr_ok {code : Code} {v : Val} {s t : State} {x : Unit} :
    wr code v s = .ok (x, t) ↔ s.dstWaits { code := code } = false ∧ s.outboxFull code = false ∧ t = s.put code v := by
  unfold wr
  cases s.dstWaits { code := code } <;> cases s.outboxFull code <;> simp [eq_comm]

/-- Writing a register changes that register of the slot, and no other state. -/
theorem State.put_reg {s : State} {code : Code} (v : Val) (h : code.toNat ≤ 63) :
    s.put code v = s.setMe (s.me.setReg code.toNat v.toReg) := by
  simp [State.put, h]

@[simp] theorem State.put_cur (s : State) (code : Code) (v : Val) : (s.put code v).cur = s.cur := by
  unfold State.put State.pushPort
  repeat' split
  all_goals rfl

@[simp] theorem State.put_memAt (s : State) (code : Code) (v : Val) (p : Place) :
    (s.put code v).memAt p = s.memAt p := by
  unfold State.put State.pushPort
  repeat' split
  all_goals (cases p <;> rfl)

/-- Writing a destination changes no flag, mode or trap register of the slot. -/
theorem State.put_me (s : State) (code : Code) (v : Val) :
    (s.put code v).me = s.me ∨ (∃ r, (s.put code v).me = s.me.setReg code.toNat r)
      ∨ (s.put code v).me = { s.me with outbox := s.me.outbox ++ [v] } := by
  unfold State.put
  split
  · exact .inr (.inl ⟨v.toReg, by simp⟩)
  · split
    · left
      unfold State.pushPort
      split
      · rfl
      · simp [State.me, State.slot, State.schedule, State.modCore, State.setCore]
    · exact .inr (.inr (by simp))

/-- A register keeps what was put there. -/
theorem State.take_put_reg (s : State) (code : Code) (v : Val) (h : code.toNat ≤ 63) (h0 : regIndex s.me.mode code.toNat ≠ 0) :
    (s.put code v).take code = some (v, s.put code v) := by
  rw [State.take_reg h, State.put_reg v h]
  simp [Slot.reg, Slot.setReg, Slot.setRegAt, Slot.regAt, h0, Val.toReg, Reg.toVal]

/-! ## Retiring, stopping, trapping -/

@[simp] theorem State.issued_memAt (s : State) (k : Nat) (p : Place) : (s.issued k).memAt p = s.memAt p := by
  cases p <;> rfl

@[simp] theorem State.issued_slot (s : State) (k j : Nat) : (s.issued k).slot j = s.slot j := rfl

/-- Retiring moves the program counter and counts; it writes no register. -/
theorem State.retireAt_slot (s : State) (k : Nat) (here next : Word) :
    (s.retireAt k here next).slot k = (s.slot k).retire here next := by
  unfold State.retireAt
  rw [State.issued_slot]
  exact State.slot_setSlot_same _ k _

@[simp] theorem State.retireAt_memAt (s : State) (k : Nat) (here next : Word) (p : Place) :
    (s.retireAt k here next).memAt p = s.memAt p := by
  cases p <;> rfl

theorem State.retireAt_slot_ne (s : State) {k j : Nat} (here next : Word) (h : j ≠ k) :
    (s.retireAt k here next).slot j = s.slot j := by
  unfold State.retireAt
  rw [State.issued_slot]
  exact State.slot_setSlot_ne _ _ h

/-! ## Taking a trap (R55, R351, R353) -/

/-- Two states that agree on every slot and every memory, and on the slot that runs. -/
def State.SameSlots (s t : State) : Prop := t.cur = s.cur ∧ t.slots = s.slots ∧ ∀ p, t.memAt p = s.memAt p

theorem State.SameSlots.refl (s : State) : s.SameSlots s := ⟨rfl, rfl, fun _ => rfl⟩

theorem State.SameSlots.trans {s t u : State} (h : s.SameSlots t) (g : t.SameSlots u) : s.SameSlots u :=
  ⟨g.1.trans h.1, g.2.1.trans h.2.1, fun p => (g.2.2 p).trans (h.2.2 p)⟩

theorem State.SameSlots.foldl {α : Type} {f : State → α → State} (hf : ∀ (s : State) a, s.SameSlots (f s a)) (l : List α)
    (s : State) : s.SameSlots (l.foldl f s) := by
  induction l generalizing s with
  | nil => exact .refl s
  | cons a l ih => exact (hf s a).trans (ih _)

theorem State.modDie_same (s : State) (d : Nat) (f : Die → Die) : s.SameSlots (s.modDie d f) :=
  ⟨rfl, rfl, fun p => by cases p <;> rfl⟩

theorem State.modCluster_same (s : State) (c : Nat) (f : Cluster → Cluster) : s.SameSlots (s.modCluster c f) :=
  ⟨rfl, rfl, fun p => by cases p <;> rfl⟩

theorem State.modLaunch_same (s : State) (lid : Nat) (f : Launch → Launch) : s.SameSlots (s.modLaunch lid f) := by
  unfold State.modLaunch
  split
  · exact .refl s
  · exact ⟨rfl, rfl, fun p => by cases p <;> rfl⟩

theorem State.schedule_same (s : State) (n : Nat) (i : Instr) (l : List Nat) : s.SameSlots (s.schedule n i l) :=
  ⟨rfl, rfl, fun p => by cases p <;> rfl⟩

theorem State.withdrawCluster_same (s : State) (k : Nat) : s.SameSlots (s.withdrawCluster k) := by
  unfold State.withdrawCluster
  refine .foldl (fun s n => ?_) _ s
  simp only
  split
  · split
    · exact (State.modDie_same _ _ _).trans (State.modLaunch_same _ _ _)
    · exact State.modDie_same _ _ _
  · exact State.modDie_same _ _ _

theorem State.abortLaunch_same (s : State) (lid : Nat) (v : EndValues) : s.SameSlots (s.abortLaunch lid v) := by
  unfold State.abortLaunch
  split
  · exact .refl s
  · split
    · exact .refl s
    · exact (State.modLaunch_same _ _ _).trans (State.schedule_same _ _ _ _)

/-- Leaving a barrier touches the slot's own arrival, and no memory. -/
theorem State.withdrawArrival_slot (s : State) (k : Nat) :
    (s.withdrawArrival k).slot k = { s.slot k with arrived := none, depart := none } := by
  have h := (State.withdrawCluster_same s k).2.1
  unfold State.withdrawArrival
  simp only [State.modSlot_eq, State.slot_setSlot_same]
  have hs : ∀ f, ((s.withdrawCluster k).modCluster (clusterOfCore (coreOfSlot k)) f).slot k = s.slot k := fun f => by
    show (s.withdrawCluster k).slots.get slotDefault k = _
    rw [h]; rfl
  rw [hs]

theorem State.withdrawArrival_slot_ne (s : State) {k j : Nat} (h : j ≠ k) : (s.withdrawArrival k).slot j = s.slot j := by
  have hs := (State.withdrawCluster_same s k).2.1
  unfold State.withdrawArrival
  simp only [State.modSlot_eq]
  rw [State.slot_setSlot_ne _ _ h]
  show (s.withdrawCluster k).slots.get slotDefault j = _
  rw [hs]; rfl

theorem State.withdrawArrival_memAt (s : State) (k : Nat) (p : Place) : (s.withdrawArrival k).memAt p = s.memAt p := by
  have h := (State.withdrawCluster_same s k).2.2 p
  rw [← h]
  unfold State.withdrawArrival
  cases p <;> rfl

/-- Leaving the event unit's queues touches what the slot has seen of a line, and no memory. -/
theorem State.leaveWaits_slot (s : State) (k : Nat) : (s.leaveWaits k).slot k = { s.slot k with signalled := false } :=
  State.slot_setSlot_same _ k _

theorem State.leaveWaits_slot_ne (s : State) {k j : Nat} (h : j ≠ k) : (s.leaveWaits k).slot j = s.slot j :=
  State.slot_setSlot_ne _ _ h

@[simp] theorem State.leaveWaits_memAt (s : State) (k : Nat) (p : Place) : (s.leaveWaits k).memAt p = s.memAt p := by
  cases p <;> rfl

/-- What a trap leaves of the waits of its slot: an arrival at a barrier stays, but for DEADLOCK and a failed barrier. -/
theorem State.leaveFor_slot (s : State) (k : Nat) (c : Cause) :
    (s.leaveFor k c).slot k =
      (if c == .deadlock || (s.slot k).depart.any (fun c => c != 0)
        then { s.slot k with arrived := none, depart := none, signalled := false }
        else { s.slot k with signalled := false }) := by
  unfold State.leaveFor
  split
  · rw [State.leaveQueues, State.leaveWaits_slot, State.withdrawArrival_slot]
  · rw [State.leaveWaits_slot]

theorem State.leaveFor_slot_ne (s : State) {k j : Nat} (c : Cause) (h : j ≠ k) : (s.leaveFor k c).slot j = s.slot j := by
  unfold State.leaveFor
  split
  · rw [State.leaveQueues, State.leaveWaits_slot_ne _ h, State.withdrawArrival_slot_ne _ h]
  · rw [State.leaveWaits_slot_ne _ h]

theorem State.leaveFor_memAt (s : State) (k : Nat) (c : Cause) (p : Place) : (s.leaveFor k c).memAt p = s.memAt p := by
  unfold State.leaveFor
  split
  · rw [State.leaveQueues, State.leaveWaits_memAt, State.withdrawArrival_memAt]
  · rw [State.leaveWaits_memAt]

/-- A trap writes no memory: what the machine changes outside the slot is the event unit's queues and the launch's
end. -/
theorem State.takeTrap_memAt (s : State) (k : Nat) (c : Cause) (v v2 w : DWord) (p : Place) :
    (s.takeTrap k c v v2 w).memAt p = s.memAt p := by
  have h := State.leaveFor_memAt s k c p
  have hset : ∀ (t : State) (x : Slot), (t.setSlot k x).memAt p = t.memAt p := fun t x => by cases p <;> rfl
  unfold State.takeTrap
  simp only
  repeat' split
  all_goals first
    | rw [hset, h]
    | rw [(State.abortLaunch_same _ _ _).2.2 p, hset, h]

/-- A trap changes no other slot. -/
theorem State.takeTrap_slot_ne (s : State) {k j : Nat} (c : Cause) (v v2 w : DWord) (hj : j ≠ k) :
    (s.takeTrap k c v v2 w).slot j = s.slot j := by
  have h := State.leaveFor_slot_ne s c hj
  have hset : ∀ (t : State) (x : Slot), (t.setSlot k x).slot j = t.slot j := fun t x => State.slot_setSlot_ne t x hj
  have hab : ∀ (t : State) lid e, (t.abortLaunch lid e).slot j = t.slot j := fun t lid e => by
    show (t.abortLaunch lid e).slots.get _ _ = _
    rw [(State.abortLaunch_same t lid e).2.1]; rfl
  unfold State.takeTrap
  simp only
  repeat' split
  all_goals first
    | rw [hset, h]
    | rw [hab, hset, h]

/-! ## Flags (R40, R65) -/

/-- Flags accumulate: none is cleared, and those given are set. -/
theorem State.addFlags_cases (s : State) (fl : FlagBits) : ∃ v, s.addFlags fl = s.setMe { s.me with fflags := v } := by
  exact ⟨_, rfl⟩

end Sys2Proof.Machine
end

