-- ==== Sys2Proof/Laws/PerInstr.lean ====
section
/-! SUPPORT. One law of the encoding tables, per instruction: the decoder's tables read the encoder's parts of a well-formed
instruction back as that instruction. A device step has no parts. -/

/-- The encoder's major, function code and form of an instruction name it in the decoder's tables. -/
def Sys2Proof.Laws.Table.Statement (i : Sys2Proof.Instr) : Prop :=
  ∀ p, Sys2Proof.partsOf i = some p → i.wf = true → Sys2Proof.instrOfParts p = some i

set_option maxRecDepth 8000

theorem Sys2Proof.Laws.Table.add (f : Sys2Proof.RForm) :
    Sys2Proof.Laws.Table.Statement (.add f) := by
  intro p h hw
  cases h
  rfl

theorem Sys2Proof.Laws.Table.sub (f : Sys2Proof.RForm) :
    Sys2Proof.Laws.Table.Statement (.sub f) := by
  intro p h hw
  cases h
  rfl

theorem Sys2Proof.Laws.Table.and (f : Sys2Proof.RForm) :
    Sys2Proof.Laws.Table.Statement (.and f) := by
  intro p h hw
  cases h
  rfl

theorem Sys2Proof.Laws.Table.or (f : Sys2Proof.RForm) :
    Sys2Proof.Laws.Table.Statement (.or f) := by
  intro p h hw
  cases h
  rfl

theorem Sys2Proof.Laws.Table.xor (f : Sys2Proof.RForm) :
    Sys2Proof.Laws.Table.Statement (.xor f) := by
  intro p h hw
  cases h
  rfl

theorem Sys2Proof.Laws.Table.shl (f : Sys2Proof.RForm) :
    Sys2Proof.Laws.Table.Statement (.shl f) := by
  intro p h hw
  cases h
  rfl

theorem Sys2Proof.Laws.Table.shr (f : Sys2Proof.RForm) :
    Sys2Proof.Laws.Table.Statement (.shr f) := by
  intro p h hw
  cases h
  rfl

theorem Sys2Proof.Laws.Table.sra (f : Sys2Proof.RForm) :
    Sys2Proof.Laws.Table.Statement (.sra f) := by
  intro p h hw
  cases h
  rfl

theorem Sys2Proof.Laws.Table.slt (f : Sys2Proof.RForm) :
    Sys2Proof.Laws.Table.Statement (.slt f) := by
  intro p h hw
  cases h
  rfl

theorem Sys2Proof.Laws.Table.sltb (f : Sys2Proof.RForm) :
    Sys2Proof.Laws.Table.Statement (.sltb f) := by
  intro p h hw
  cases h
  rfl

theorem Sys2Proof.Laws.Table.seq (f : Sys2Proof.RForm) :
    Sys2Proof.Laws.Table.Statement (.seq f) := by
  intro p h hw
  cases h
  rfl

theorem Sys2Proof.Laws.Table.mul (f : Sys2Proof.RForm) :
    Sys2Proof.Laws.Table.Statement (.mul f) := by
  intro p h hw
  cases h
  rfl

theorem Sys2Proof.Laws.Table.mulhb (f : Sys2Proof.RForm) :
    Sys2Proof.Laws.Table.Statement (.mulhb f) := by
  intro p h hw
  cases h
  rfl

theorem Sys2Proof.Laws.Table.min (f : Sys2Proof.RForm) :
    Sys2Proof.Laws.Table.Statement (.min f) := by
  intro p h hw
  cases h
  rfl

theorem Sys2Proof.Laws.Table.max (f : Sys2Proof.RForm) :
    Sys2Proof.Laws.Table.Statement (.max f) := by
  intro p h hw
  cases h
  rfl

theorem Sys2Proof.Laws.Table.minb (f : Sys2Proof.RForm) :
    Sys2Proof.Laws.Table.Statement (.minb f) := by
  intro p h hw
  cases h
  rfl

theorem Sys2Proof.Laws.Table.maxb (f : Sys2Proof.RForm) :
    Sys2Proof.Laws.Table.Statement (.maxb f) := by
  intro p h hw
  cases h
  rfl

theorem Sys2Proof.Laws.Table.addw (f : Sys2Proof.RForm) :
    Sys2Proof.Laws.Table.Statement (.addw f) := by
  intro p h hw
  cases h
  rfl

theorem Sys2Proof.Laws.Table.subw (f : Sys2Proof.RForm) :
    Sys2Proof.Laws.Table.Statement (.subw f) := by
  intro p h hw
  cases h
  rfl

theorem Sys2Proof.Laws.Table.addi (f : Sys2Proof.IForm) :
    Sys2Proof.Laws.Table.Statement (.addi f) := by
  intro p h hw
  cases h
  rfl

theorem Sys2Proof.Laws.Table.andi (f : Sys2Proof.IForm) :
    Sys2Proof.Laws.Table.Statement (.andi f) := by
  intro p h hw
  cases h
  rfl

theorem Sys2Proof.Laws.Table.ori (f : Sys2Proof.IForm) :
    Sys2Proof.Laws.Table.Statement (.ori f) := by
  intro p h hw
  cases h
  rfl

theorem Sys2Proof.Laws.Table.xori (f : Sys2Proof.IForm) :
    Sys2Proof.Laws.Table.Statement (.xori f) := by
  intro p h hw
  cases h
  rfl

theorem Sys2Proof.Laws.Table.shli (f : Sys2Proof.IForm) :
    Sys2Proof.Laws.Table.Statement (.shli f) := by
  intro p h hw
  cases h
  rfl

theorem Sys2Proof.Laws.Table.shri (f : Sys2Proof.IForm) :
    Sys2Proof.Laws.Table.Statement (.shri f) := by
  intro p h hw
  cases h
  rfl

theorem Sys2Proof.Laws.Table.srai (f : Sys2Proof.IForm) :
    Sys2Proof.Laws.Table.Statement (.srai f) := by
  intro p h hw
  cases h
  rfl

theorem Sys2Proof.Laws.Table.slti (f : Sys2Proof.IForm) :
    Sys2Proof.Laws.Table.Statement (.slti f) := by
  intro p h hw
  cases h
  rfl

theorem Sys2Proof.Laws.Table.sltbi (f : Sys2Proof.IForm) :
    Sys2Proof.Laws.Table.Statement (.sltbi f) := by
  intro p h hw
  cases h
  rfl

theorem Sys2Proof.Laws.Table.seqi (f : Sys2Proof.IForm) :
    Sys2Proof.Laws.Table.Statement (.seqi f) := by
  intro p h hw
  cases h
  rfl

theorem Sys2Proof.Laws.Table.muli (f : Sys2Proof.IForm) :
    Sys2Proof.Laws.Table.Statement (.muli f) := by
  intro p h hw
  cases h
  rfl

theorem Sys2Proof.Laws.Table.addwi (f : Sys2Proof.IForm) :
    Sys2Proof.Laws.Table.Statement (.addwi f) := by
  intro p h hw
  cases h
  rfl

theorem Sys2Proof.Laws.Table.movi (f : Sys2Proof.IForm) :
    Sys2Proof.Laws.Table.Statement (.movi f) := by
  intro p h hw
  cases h
  rfl

theorem Sys2Proof.Laws.Table.ld (f : Sys2Proof.MForm) :
    Sys2Proof.Laws.Table.Statement (.ld f) := by
  intro p h hw
  cases h
  rfl

theorem Sys2Proof.Laws.Table.lds (f : Sys2Proof.MForm) :
    Sys2Proof.Laws.Table.Statement (.lds f) := by
  intro p h hw
  cases h
  rfl

theorem Sys2Proof.Laws.Table.st (f : Sys2Proof.MForm) :
    Sys2Proof.Laws.Table.Statement (.st f) := by
  intro p h hw
  cases h
  rfl

theorem Sys2Proof.Laws.Table.beq (f : Sys2Proof.BForm) :
    Sys2Proof.Laws.Table.Statement (.beq f) := by
  intro p h hw
  cases h
  rfl

theorem Sys2Proof.Laws.Table.bne (f : Sys2Proof.BForm) :
    Sys2Proof.Laws.Table.Statement (.bne f) := by
  intro p h hw
  cases h
  rfl

theorem Sys2Proof.Laws.Table.blt (f : Sys2Proof.BForm) :
    Sys2Proof.Laws.Table.Statement (.blt f) := by
  intro p h hw
  cases h
  rfl

theorem Sys2Proof.Laws.Table.bge (f : Sys2Proof.BForm) :
    Sys2Proof.Laws.Table.Statement (.bge f) := by
  intro p h hw
  cases h
  rfl

theorem Sys2Proof.Laws.Table.bltb (f : Sys2Proof.BForm) :
    Sys2Proof.Laws.Table.Statement (.bltb f) := by
  intro p h hw
  cases h
  rfl

theorem Sys2Proof.Laws.Table.bgeb (f : Sys2Proof.BForm) :
    Sys2Proof.Laws.Table.Statement (.bgeb f) := by
  intro p h hw
  cases h
  rfl

theorem Sys2Proof.Laws.Table.jal (f : Sys2Proof.IForm) :
    Sys2Proof.Laws.Table.Statement (.jal f) := by
  intro p h hw
  cases h
  rfl

theorem Sys2Proof.Laws.Table.jalr (f : Sys2Proof.IForm) :
    Sys2Proof.Laws.Table.Statement (.jalr f) := by
  intro p h hw
  cases h
  rfl

theorem Sys2Proof.Laws.Table.kend (f : Sys2Proof.IForm) :
    Sys2Proof.Laws.Table.Statement (.kend f) := by
  intro p h hw
  cases h
  rfl

theorem Sys2Proof.Laws.Table.kmtr (f : Sys2Proof.IForm) :
    Sys2Proof.Laws.Table.Statement (.kmtr f) := by
  intro p h hw
  cases h
  rfl

theorem Sys2Proof.Laws.Table.trap (f : Sys2Proof.IForm) :
    Sys2Proof.Laws.Table.Statement (.trap f) := by
  intro p h hw
  cases h
  rfl

theorem Sys2Proof.Laws.Table.div (f : Sys2Proof.RForm) :
    Sys2Proof.Laws.Table.Statement (.div f) := by
  intro p h hw
  cases h
  rfl

theorem Sys2Proof.Laws.Table.divb (f : Sys2Proof.RForm) :
    Sys2Proof.Laws.Table.Statement (.divb f) := by
  intro p h hw
  cases h
  rfl

theorem Sys2Proof.Laws.Table.rem (f : Sys2Proof.RForm) :
    Sys2Proof.Laws.Table.Statement (.rem f) := by
  intro p h hw
  cases h
  rfl

theorem Sys2Proof.Laws.Table.remb (f : Sys2Proof.RForm) :
    Sys2Proof.Laws.Table.Statement (.remb f) := by
  intro p h hw
  cases h
  rfl

theorem Sys2Proof.Laws.Table.mulh (f : Sys2Proof.RForm) :
    Sys2Proof.Laws.Table.Statement (.mulh f) := by
  intro p h hw
  cases h
  rfl

theorem Sys2Proof.Laws.Table.clz (f : Sys2Proof.RForm) :
    Sys2Proof.Laws.Table.Statement (.clz f) := by
  intro p h hw
  cases h
  rfl

theorem Sys2Proof.Laws.Table.ctz (f : Sys2Proof.RForm) :
    Sys2Proof.Laws.Table.Statement (.ctz f) := by
  intro p h hw
  cases h
  rfl

theorem Sys2Proof.Laws.Table.popc (f : Sys2Proof.RForm) :
    Sys2Proof.Laws.Table.Statement (.popc f) := by
  intro p h hw
  cases h
  rfl

theorem Sys2Proof.Laws.Table.rotl (f : Sys2Proof.RForm) :
    Sys2Proof.Laws.Table.Statement (.rotl f) := by
  intro p h hw
  cases h
  rfl

theorem Sys2Proof.Laws.Table.rotr (f : Sys2Proof.RForm) :
    Sys2Proof.Laws.Table.Statement (.rotr f) := by
  intro p h hw
  cases h
  rfl

theorem Sys2Proof.Laws.Table.bext (f : Sys2Proof.RForm) :
    Sys2Proof.Laws.Table.Statement (.bext f) := by
  intro p h hw
  cases h
  rfl

theorem Sys2Proof.Laws.Table.bins (f : Sys2Proof.RForm) :
    Sys2Proof.Laws.Table.Statement (.bins f) := by
  intro p h hw
  cases h
  rfl

theorem Sys2Proof.Laws.Table.shlw (f : Sys2Proof.RForm) :
    Sys2Proof.Laws.Table.Statement (.shlw f) := by
  intro p h hw
  cases h
  rfl

theorem Sys2Proof.Laws.Table.shrw (f : Sys2Proof.RForm) :
    Sys2Proof.Laws.Table.Statement (.shrw f) := by
  intro p h hw
  cases h
  rfl

theorem Sys2Proof.Laws.Table.sraw (f : Sys2Proof.RForm) :
    Sys2Proof.Laws.Table.Statement (.sraw f) := by
  intro p h hw
  cases h
  rfl

theorem Sys2Proof.Laws.Table.mulw (f : Sys2Proof.RForm) :
    Sys2Proof.Laws.Table.Statement (.mulw f) := by
  intro p h hw
  cases h
  rfl

theorem Sys2Proof.Laws.Table.mulwb (f : Sys2Proof.RForm) :
    Sys2Proof.Laws.Table.Statement (.mulwb f) := by
  intro p h hw
  cases h
  rfl

theorem Sys2Proof.Laws.Table.sltw (f : Sys2Proof.RForm) :
    Sys2Proof.Laws.Table.Statement (.sltw f) := by
  intro p h hw
  cases h
  rfl

theorem Sys2Proof.Laws.Table.sltwb (f : Sys2Proof.RForm) :
    Sys2Proof.Laws.Table.Statement (.sltwb f) := by
  intro p h hw
  cases h
  rfl

theorem Sys2Proof.Laws.Table.sel (f : Sys2Proof.RForm) :
    Sys2Proof.Laws.Table.Statement (.sel f) := by
  intro p h hw
  cases h
  rfl

theorem Sys2Proof.Laws.Table.faddF32 (f : Sys2Proof.RForm) :
    Sys2Proof.Laws.Table.Statement (.faddF32 f) := by
  intro p h hw
  cases h
  rfl

theorem Sys2Proof.Laws.Table.fsubF32 (f : Sys2Proof.RForm) :
    Sys2Proof.Laws.Table.Statement (.fsubF32 f) := by
  intro p h hw
  cases h
  rfl

theorem Sys2Proof.Laws.Table.fmulF32 (f : Sys2Proof.RForm) :
    Sys2Proof.Laws.Table.Statement (.fmulF32 f) := by
  intro p h hw
  cases h
  rfl

theorem Sys2Proof.Laws.Table.ffmaF32 (f : Sys2Proof.RForm) :
    Sys2Proof.Laws.Table.Statement (.ffmaF32 f) := by
  intro p h hw
  cases h
  rfl

theorem Sys2Proof.Laws.Table.fdivF32 (f : Sys2Proof.RForm) :
    Sys2Proof.Laws.Table.Statement (.fdivF32 f) := by
  intro p h hw
  cases h
  rfl

theorem Sys2Proof.Laws.Table.fsqrtF32 (f : Sys2Proof.RForm) :
    Sys2Proof.Laws.Table.Statement (.fsqrtF32 f) := by
  intro p h hw
  cases h
  rfl

theorem Sys2Proof.Laws.Table.fminF32 (f : Sys2Proof.RForm) :
    Sys2Proof.Laws.Table.Statement (.fminF32 f) := by
  intro p h hw
  cases h
  rfl

theorem Sys2Proof.Laws.Table.fmaxF32 (f : Sys2Proof.RForm) :
    Sys2Proof.Laws.Table.Statement (.fmaxF32 f) := by
  intro p h hw
  cases h
  rfl

theorem Sys2Proof.Laws.Table.fabsF32 (f : Sys2Proof.RForm) :
    Sys2Proof.Laws.Table.Statement (.fabsF32 f) := by
  intro p h hw
  cases h
  rfl

theorem Sys2Proof.Laws.Table.fnegF32 (f : Sys2Proof.RForm) :
    Sys2Proof.Laws.Table.Statement (.fnegF32 f) := by
  intro p h hw
  cases h
  rfl

theorem Sys2Proof.Laws.Table.feqF32 (f : Sys2Proof.RForm) :
    Sys2Proof.Laws.Table.Statement (.feqF32 f) := by
  intro p h hw
  cases h
  rfl

theorem Sys2Proof.Laws.Table.fltF32 (f : Sys2Proof.RForm) :
    Sys2Proof.Laws.Table.Statement (.fltF32 f) := by
  intro p h hw
  cases h
  rfl

theorem Sys2Proof.Laws.Table.fleF32 (f : Sys2Proof.RForm) :
    Sys2Proof.Laws.Table.Statement (.fleF32 f) := by
  intro p h hw
  cases h
  rfl

theorem Sys2Proof.Laws.Table.fclsF32 (f : Sys2Proof.RForm) :
    Sys2Proof.Laws.Table.Statement (.fclsF32 f) := by
  intro p h hw
  cases h
  rfl

theorem Sys2Proof.Laws.Table.faddF64 (f : Sys2Proof.RForm) :
    Sys2Proof.Laws.Table.Statement (.faddF64 f) := by
  intro p h hw
  cases h
  rfl

theorem Sys2Proof.Laws.Table.fsubF64 (f : Sys2Proof.RForm) :
    Sys2Proof.Laws.Table.Statement (.fsubF64 f) := by
  intro p h hw
  cases h
  rfl

theorem Sys2Proof.Laws.Table.fmulF64 (f : Sys2Proof.RForm) :
    Sys2Proof.Laws.Table.Statement (.fmulF64 f) := by
  intro p h hw
  cases h
  rfl

theorem Sys2Proof.Laws.Table.ffmaF64 (f : Sys2Proof.RForm) :
    Sys2Proof.Laws.Table.Statement (.ffmaF64 f) := by
  intro p h hw
  cases h
  rfl

theorem Sys2Proof.Laws.Table.fdivF64 (f : Sys2Proof.RForm) :
    Sys2Proof.Laws.Table.Statement (.fdivF64 f) := by
  intro p h hw
  cases h
  rfl

theorem Sys2Proof.Laws.Table.fsqrtF64 (f : Sys2Proof.RForm) :
    Sys2Proof.Laws.Table.Statement (.fsqrtF64 f) := by
  intro p h hw
  cases h
  rfl

theorem Sys2Proof.Laws.Table.fminF64 (f : Sys2Proof.RForm) :
    Sys2Proof.Laws.Table.Statement (.fminF64 f) := by
  intro p h hw
  cases h
  rfl

theorem Sys2Proof.Laws.Table.fmaxF64 (f : Sys2Proof.RForm) :
    Sys2Proof.Laws.Table.Statement (.fmaxF64 f) := by
  intro p h hw
  cases h
  rfl

theorem Sys2Proof.Laws.Table.fabsF64 (f : Sys2Proof.RForm) :
    Sys2Proof.Laws.Table.Statement (.fabsF64 f) := by
  intro p h hw
  cases h
  rfl

theorem Sys2Proof.Laws.Table.fnegF64 (f : Sys2Proof.RForm) :
    Sys2Proof.Laws.Table.Statement (.fnegF64 f) := by
  intro p h hw
  cases h
  rfl

theorem Sys2Proof.Laws.Table.feqF64 (f : Sys2Proof.RForm) :
    Sys2Proof.Laws.Table.Statement (.feqF64 f) := by
  intro p h hw
  cases h
  rfl

theorem Sys2Proof.Laws.Table.fltF64 (f : Sys2Proof.RForm) :
    Sys2Proof.Laws.Table.Statement (.fltF64 f) := by
  intro p h hw
  cases h
  rfl

theorem Sys2Proof.Laws.Table.fleF64 (f : Sys2Proof.RForm) :
    Sys2Proof.Laws.Table.Statement (.fleF64 f) := by
  intro p h hw
  cases h
  rfl

theorem Sys2Proof.Laws.Table.fclsF64 (f : Sys2Proof.RForm) :
    Sys2Proof.Laws.Table.Statement (.fclsF64 f) := by
  intro p h hw
  cases h
  rfl

theorem Sys2Proof.Laws.Table.fcvt (fn : BitVec 8) (f : Sys2Proof.RForm) :
    Sys2Proof.Laws.Table.Statement (.fcvt fn f) := by
  intro p h hw
  cases h
  simp [Sys2Proof.instrOfParts, Sys2Proof.instrOfR]

theorem Sys2Proof.Laws.Table.csrr (f : Sys2Proof.IForm) :
    Sys2Proof.Laws.Table.Statement (.csrr f) := by
  intro p h hw
  cases h
  rfl

theorem Sys2Proof.Laws.Table.csrw (f : Sys2Proof.IForm) :
    Sys2Proof.Laws.Table.Statement (.csrw f) := by
  intro p h hw
  cases h
  rfl

theorem Sys2Proof.Laws.Table.csrs (f : Sys2Proof.IForm) :
    Sys2Proof.Laws.Table.Statement (.csrs f) := by
  intro p h hw
  cases h
  rfl

theorem Sys2Proof.Laws.Table.csrc (f : Sys2Proof.IForm) :
    Sys2Proof.Laws.Table.Statement (.csrc f) := by
  intro p h hw
  cases h
  rfl

theorem Sys2Proof.Laws.Table.eret (f : Sys2Proof.IForm) :
    Sys2Proof.Laws.Table.Statement (.eret f) := by
  intro p h hw
  cases h
  rfl

theorem Sys2Proof.Laws.Table.brk (f : Sys2Proof.IForm) :
    Sys2Proof.Laws.Table.Statement (.brk f) := by
  intro p h hw
  cases h
  rfl

theorem Sys2Proof.Laws.Table.nop (f : Sys2Proof.IForm) :
    Sys2Proof.Laws.Table.Statement (.nop f) := by
  intro p h hw
  cases h
  rfl

theorem Sys2Proof.Laws.Table.atom (f : Sys2Proof.MForm) :
    Sys2Proof.Laws.Table.Statement (.atom f) := by
  intro p h hw
  cases h
  rfl

theorem Sys2Proof.Laws.Table.aswp (f : Sys2Proof.MForm) :
    Sys2Proof.Laws.Table.Statement (.aswp f) := by
  intro p h hw
  cases h
  rfl

theorem Sys2Proof.Laws.Table.acas (f : Sys2Proof.MForm) :
    Sys2Proof.Laws.Table.Statement (.acas f) := by
  intro p h hw
  cases h
  rfl

theorem Sys2Proof.Laws.Table.fence (f : Sys2Proof.MForm) :
    Sys2Proof.Laws.Table.Statement (.fence f) := by
  intro p h hw
  cases h
  rfl

theorem Sys2Proof.Laws.Table.pref (f : Sys2Proof.MForm) :
    Sys2Proof.Laws.Table.Statement (.pref f) := by
  intro p h hw
  cases h
  rfl

theorem Sys2Proof.Laws.Table.hnew (f : Sys2Proof.RForm) :
    Sys2Proof.Laws.Table.Statement (.hnew f) := by
  intro p h hw
  cases h
  rfl

theorem Sys2Proof.Laws.Table.hnewSp (f : Sys2Proof.RForm) :
    Sys2Proof.Laws.Table.Statement (.hnewSp f) := by
  intro p h hw
  cases h
  rfl

theorem Sys2Proof.Laws.Table.hcopy (f : Sys2Proof.RForm) :
    Sys2Proof.Laws.Table.Statement (.hcopy f) := by
  intro p h hw
  cases h
  rfl

theorem Sys2Proof.Laws.Table.hdrop (f : Sys2Proof.RForm) :
    Sys2Proof.Laws.Table.Statement (.hdrop f) := by
  intro p h hw
  cases h
  rfl

theorem Sys2Proof.Laws.Table.hmove (f : Sys2Proof.RForm) :
    Sys2Proof.Laws.Table.Statement (.hmove f) := by
  intro p h hw
  cases h
  rfl

theorem Sys2Proof.Laws.Table.hinfo (f : Sys2Proof.RForm) :
    Sys2Proof.Laws.Table.Statement (.hinfo f) := by
  intro p h hw
  cases h
  rfl

theorem Sys2Proof.Laws.Table.hwait (f : Sys2Proof.RForm) :
    Sys2Proof.Laws.Table.Statement (.hwait f) := by
  intro p h hw
  cases h
  rfl

theorem Sys2Proof.Laws.Table.hsend (f : Sys2Proof.RForm) :
    Sys2Proof.Laws.Table.Statement (.hsend f) := by
  intro p h hw
  cases h
  rfl

theorem Sys2Proof.Laws.Table.hrecv (f : Sys2Proof.RForm) :
    Sys2Proof.Laws.Table.Statement (.hrecv f) := by
  intro p h hw
  cases h
  rfl

theorem Sys2Proof.Laws.Table.hld (f : Sys2Proof.MForm) :
    Sys2Proof.Laws.Table.Statement (.hld f) := by
  intro p h hw
  cases h
  rfl

theorem Sys2Proof.Laws.Table.hst (f : Sys2Proof.MForm) :
    Sys2Proof.Laws.Table.Statement (.hst f) := by
  intro p h hw
  cases h
  rfl

theorem Sys2Proof.Laws.Table.qcfg (f : Sys2Proof.RForm) :
    Sys2Proof.Laws.Table.Statement (.qcfg f) := by
  intro p h hw
  cases h
  rfl

theorem Sys2Proof.Laws.Table.qrsv (f : Sys2Proof.RForm) :
    Sys2Proof.Laws.Table.Statement (.qrsv f) := by
  intro p h hw
  cases h
  rfl

theorem Sys2Proof.Laws.Table.qpop (f : Sys2Proof.RForm) :
    Sys2Proof.Laws.Table.Statement (.qpop f) := by
  intro p h hw
  cases h
  rfl

theorem Sys2Proof.Laws.Table.qstat (f : Sys2Proof.RForm) :
    Sys2Proof.Laws.Table.Statement (.qstat f) := by
  intro p h hw
  cases h
  rfl

theorem Sys2Proof.Laws.Table.vadd (f : Sys2Proof.VForm) :
    Sys2Proof.Laws.Table.Statement (.vadd f) := by
  intro p h hw
  cases h
  rfl

theorem Sys2Proof.Laws.Table.vsub (f : Sys2Proof.VForm) :
    Sys2Proof.Laws.Table.Statement (.vsub f) := by
  intro p h hw
  cases h
  rfl

theorem Sys2Proof.Laws.Table.vmul (f : Sys2Proof.VForm) :
    Sys2Proof.Laws.Table.Statement (.vmul f) := by
  intro p h hw
  cases h
  rfl

theorem Sys2Proof.Laws.Table.vfma (f : Sys2Proof.VForm) :
    Sys2Proof.Laws.Table.Statement (.vfma f) := by
  intro p h hw
  cases h
  rfl

theorem Sys2Proof.Laws.Table.vmin (f : Sys2Proof.VForm) :
    Sys2Proof.Laws.Table.Statement (.vmin f) := by
  intro p h hw
  cases h
  rfl

theorem Sys2Proof.Laws.Table.vmax (f : Sys2Proof.VForm) :
    Sys2Proof.Laws.Table.Statement (.vmax f) := by
  intro p h hw
  cases h
  rfl

theorem Sys2Proof.Laws.Table.vabs (f : Sys2Proof.VForm) :
    Sys2Proof.Laws.Table.Statement (.vabs f) := by
  intro p h hw
  cases h
  rfl

theorem Sys2Proof.Laws.Table.vneg (f : Sys2Proof.VForm) :
    Sys2Proof.Laws.Table.Statement (.vneg f) := by
  intro p h hw
  cases h
  rfl

theorem Sys2Proof.Laws.Table.vrcp (f : Sys2Proof.VForm) :
    Sys2Proof.Laws.Table.Statement (.vrcp f) := by
  intro p h hw
  cases h
  rfl

theorem Sys2Proof.Laws.Table.vrsq (f : Sys2Proof.VForm) :
    Sys2Proof.Laws.Table.Statement (.vrsq f) := by
  intro p h hw
  cases h
  rfl

theorem Sys2Proof.Laws.Table.vexp2 (f : Sys2Proof.VForm) :
    Sys2Proof.Laws.Table.Statement (.vexp2 f) := by
  intro p h hw
  cases h
  rfl

theorem Sys2Proof.Laws.Table.vlog2 (f : Sys2Proof.VForm) :
    Sys2Proof.Laws.Table.Statement (.vlog2 f) := by
  intro p h hw
  cases h
  rfl

theorem Sys2Proof.Laws.Table.vtanh (f : Sys2Proof.VForm) :
    Sys2Proof.Laws.Table.Statement (.vtanh f) := by
  intro p h hw
  cases h
  rfl

theorem Sys2Proof.Laws.Table.viadd (f : Sys2Proof.VForm) :
    Sys2Proof.Laws.Table.Statement (.viadd f) := by
  intro p h hw
  cases h
  rfl

theorem Sys2Proof.Laws.Table.visub (f : Sys2Proof.VForm) :
    Sys2Proof.Laws.Table.Statement (.visub f) := by
  intro p h hw
  cases h
  rfl

theorem Sys2Proof.Laws.Table.vimul (f : Sys2Proof.VForm) :
    Sys2Proof.Laws.Table.Statement (.vimul f) := by
  intro p h hw
  cases h
  rfl

theorem Sys2Proof.Laws.Table.vand (f : Sys2Proof.VForm) :
    Sys2Proof.Laws.Table.Statement (.vand f) := by
  intro p h hw
  cases h
  rfl

theorem Sys2Proof.Laws.Table.vor (f : Sys2Proof.VForm) :
    Sys2Proof.Laws.Table.Statement (.vor f) := by
  intro p h hw
  cases h
  rfl

theorem Sys2Proof.Laws.Table.vxor (f : Sys2Proof.VForm) :
    Sys2Proof.Laws.Table.Statement (.vxor f) := by
  intro p h hw
  cases h
  rfl

theorem Sys2Proof.Laws.Table.vshl (f : Sys2Proof.VForm) :
    Sys2Proof.Laws.Table.Statement (.vshl f) := by
  intro p h hw
  cases h
  rfl

theorem Sys2Proof.Laws.Table.vshr (f : Sys2Proof.VForm) :
    Sys2Proof.Laws.Table.Statement (.vshr f) := by
  intro p h hw
  cases h
  rfl

theorem Sys2Proof.Laws.Table.vsra (f : Sys2Proof.VForm) :
    Sys2Proof.Laws.Table.Statement (.vsra f) := by
  intro p h hw
  cases h
  rfl

theorem Sys2Proof.Laws.Table.vimin (f : Sys2Proof.VForm) :
    Sys2Proof.Laws.Table.Statement (.vimin f) := by
  intro p h hw
  cases h
  rfl

theorem Sys2Proof.Laws.Table.vimax (f : Sys2Proof.VForm) :
    Sys2Proof.Laws.Table.Statement (.vimax f) := by
  intro p h hw
  cases h
  rfl

theorem Sys2Proof.Laws.Table.vhash (f : Sys2Proof.VForm) :
    Sys2Proof.Laws.Table.Statement (.vhash f) := by
  intro p h hw
  cases h
  rfl

theorem Sys2Proof.Laws.Table.vlut (f : Sys2Proof.VForm) :
    Sys2Proof.Laws.Table.Statement (.vlut f) := by
  intro p h hw
  cases h
  rfl

theorem Sys2Proof.Laws.Table.vidx (f : Sys2Proof.VForm) :
    Sys2Proof.Laws.Table.Statement (.vidx f) := by
  intro p h hw
  cases h
  rfl

theorem Sys2Proof.Laws.Table.vcmp (rel : BitVec 6) (f : Sys2Proof.VForm) :
    Sys2Proof.Laws.Table.Statement (.vcmp rel f) := by
  intro p h hw
  cases h
  simp [Sys2Proof.instrOfParts, Sys2Proof.instrOfV]

theorem Sys2Proof.Laws.Table.vmov (f : Sys2Proof.VForm) :
    Sys2Proof.Laws.Table.Statement (.vmov f) := by
  intro p h hw
  cases h
  rfl

theorem Sys2Proof.Laws.Table.vsel (f : Sys2Proof.VForm) :
    Sys2Proof.Laws.Table.Statement (.vsel f) := by
  intro p h hw
  cases h
  rfl

theorem Sys2Proof.Laws.Table.vbcast (f : Sys2Proof.VForm) :
    Sys2Proof.Laws.Table.Statement (.vbcast f) := by
  intro p h hw
  cases h
  rfl

theorem Sys2Proof.Laws.Table.vperm (f : Sys2Proof.VForm) :
    Sys2Proof.Laws.Table.Statement (.vperm f) := by
  intro p h hw
  cases h
  rfl

theorem Sys2Proof.Laws.Table.vtrn (f : Sys2Proof.VForm) :
    Sys2Proof.Laws.Table.Statement (.vtrn f) := by
  intro p h hw
  cases h
  rfl

theorem Sys2Proof.Laws.Table.vrsum (f : Sys2Proof.VForm) :
    Sys2Proof.Laws.Table.Statement (.vrsum f) := by
  intro p h hw
  cases h
  rfl

theorem Sys2Proof.Laws.Table.vrmin (f : Sys2Proof.VForm) :
    Sys2Proof.Laws.Table.Statement (.vrmin f) := by
  intro p h hw
  cases h
  rfl

theorem Sys2Proof.Laws.Table.vrmax (f : Sys2Proof.VForm) :
    Sys2Proof.Laws.Table.Statement (.vrmax f) := by
  intro p h hw
  cases h
  rfl

theorem Sys2Proof.Laws.Table.vrmini (f : Sys2Proof.VForm) :
    Sys2Proof.Laws.Table.Statement (.vrmini f) := by
  intro p h hw
  cases h
  rfl

theorem Sys2Proof.Laws.Table.vrmaxi (f : Sys2Proof.VForm) :
    Sys2Proof.Laws.Table.Statement (.vrmaxi f) := by
  intro p h hw
  cases h
  rfl

theorem Sys2Proof.Laws.Table.vror (f : Sys2Proof.VForm) :
    Sys2Proof.Laws.Table.Statement (.vror f) := by
  intro p h hw
  cases h
  rfl

theorem Sys2Proof.Laws.Table.vcvt (f : Sys2Proof.VForm) :
    Sys2Proof.Laws.Table.Statement (.vcvt f) := by
  intro p h hw
  cases h
  rfl

theorem Sys2Proof.Laws.Table.vld (f : Sys2Proof.MForm) :
    Sys2Proof.Laws.Table.Statement (.vld f) := by
  intro p h hw
  cases h
  rfl

theorem Sys2Proof.Laws.Table.vst (f : Sys2Proof.MForm) :
    Sys2Proof.Laws.Table.Statement (.vst f) := by
  intro p h hw
  cases h
  rfl

theorem Sys2Proof.Laws.Table.vldh (f : Sys2Proof.MForm) :
    Sys2Proof.Laws.Table.Statement (.vldh f) := by
  intro p h hw
  cases h
  rfl

theorem Sys2Proof.Laws.Table.vsth (f : Sys2Proof.MForm) :
    Sys2Proof.Laws.Table.Statement (.vsth f) := by
  intro p h hw
  cases h
  rfl

theorem Sys2Proof.Laws.Table.vgath (f : Sys2Proof.RForm) :
    Sys2Proof.Laws.Table.Statement (.vgath f) := by
  intro p h hw
  cases h
  rfl

theorem Sys2Proof.Laws.Table.vscat (f : Sys2Proof.RForm) :
    Sys2Proof.Laws.Table.Statement (.vscat f) := by
  intro p h hw
  cases h
  rfl

theorem Sys2Proof.Laws.Table.vset (fmt : BitVec 8) (f : Sys2Proof.RForm) :
    Sys2Proof.Laws.Table.Statement (.vset fmt f) := by
  intro p h hw
  cases h
  simp [Sys2Proof.instrOfParts, Sys2Proof.instrOfR]

theorem Sys2Proof.Laws.Table.mset (f : Sys2Proof.RForm) :
    Sys2Proof.Laws.Table.Statement (.mset f) := by
  intro p h hw
  cases h
  rfl

theorem Sys2Proof.Laws.Table.tmma (f : Sys2Proof.TForm) :
    Sys2Proof.Laws.Table.Statement (.tmma f) := by
  intro p h hw
  cases h
  rfl

theorem Sys2Proof.Laws.Table.tmms (f : Sys2Proof.TForm) :
    Sys2Proof.Laws.Table.Statement (.tmms f) := by
  intro p h hw
  cases h
  rfl

theorem Sys2Proof.Laws.Table.tadd (f : Sys2Proof.TForm) :
    Sys2Proof.Laws.Table.Statement (.tadd f) := by
  intro p h hw
  cases h
  rfl

theorem Sys2Proof.Laws.Table.temul (f : Sys2Proof.TForm) :
    Sys2Proof.Laws.Table.Statement (.temul f) := by
  intro p h hw
  cases h
  rfl

theorem Sys2Proof.Laws.Table.tact (f : Sys2Proof.TForm) :
    Sys2Proof.Laws.Table.Statement (.tact f) := by
  intro p h hw
  cases h
  rfl

theorem Sys2Proof.Laws.Table.ttrn (f : Sys2Proof.TForm) :
    Sys2Proof.Laws.Table.Statement (.ttrn f) := by
  intro p h hw
  cases h
  rfl

theorem Sys2Proof.Laws.Table.tred (f : Sys2Proof.TForm) :
    Sys2Proof.Laws.Table.Statement (.tred f) := by
  intro p h hw
  cases h
  rfl

theorem Sys2Proof.Laws.Table.tcvt (f : Sys2Proof.TForm) :
    Sys2Proof.Laws.Table.Statement (.tcvt f) := by
  intro p h hw
  cases h
  rfl

theorem Sys2Proof.Laws.Table.tsmx (f : Sys2Proof.TForm) :
    Sys2Proof.Laws.Table.Statement (.tsmx f) := by
  intro p h hw
  cases h
  rfl

theorem Sys2Proof.Laws.Table.tzero (f : Sys2Proof.TForm) :
    Sys2Proof.Laws.Table.Statement (.tzero f) := by
  intro p h hw
  cases h
  rfl

theorem Sys2Proof.Laws.Table.tfmt (f : Sys2Proof.RForm) :
    Sys2Proof.Laws.Table.Statement (.tfmt f) := by
  intro p h hw
  cases h
  rfl

theorem Sys2Proof.Laws.Table.trec (f : Sys2Proof.RForm) :
    Sys2Proof.Laws.Table.Statement (.trec f) := by
  intro p h hw
  cases h
  rfl

theorem Sys2Proof.Laws.Table.tlogb (f : Sys2Proof.RForm) :
    Sys2Proof.Laws.Table.Statement (.tlogb f) := by
  intro p h hw
  cases h
  rfl

theorem Sys2Proof.Laws.Table.tmark (f : Sys2Proof.RForm) :
    Sys2Proof.Laws.Table.Statement (.tmark f) := by
  intro p h hw
  cases h
  rfl

theorem Sys2Proof.Laws.Table.trev (f : Sys2Proof.RForm) :
    Sys2Proof.Laws.Table.Statement (.trev f) := by
  intro p h hw
  cases h
  rfl

theorem Sys2Proof.Laws.Table.tgmapView (f : Sys2Proof.RForm) :
    Sys2Proof.Laws.Table.Statement (.tgmapView f) := by
  intro p h hw
  cases h
  have h0 : f.d ≠ 0 := by
    intro h0
    simp [Sys2Proof.Instr.wf, Sys2Proof.RForm.fits, h0, Sys2Proof.OpClass.accepts, Sys2Proof.Code.isView] at hw
  simpa [Sys2Proof.instrOfParts, Sys2Proof.instrOfR] using h0

theorem Sys2Proof.Laws.Table.tgmapDelta (f : Sys2Proof.RForm) :
    Sys2Proof.Laws.Table.Statement (.tgmapDelta f) := by
  intro p h hw
  cases h
  have h0 : f.d = 0 := by
    simp only [Sys2Proof.Instr.wf, Sys2Proof.RForm.fits, Sys2Proof.OpClass.accepts, Bool.and_eq_true, beq_iff_eq] at hw
    tauto
  simpa [Sys2Proof.instrOfParts, Sys2Proof.instrOfR] using h0

theorem Sys2Proof.Laws.Table.tlstat (f : Sys2Proof.RForm) :
    Sys2Proof.Laws.Table.Statement (.tlstat f) := by
  intro p h hw
  cases h
  rfl

theorem Sys2Proof.Laws.Table.cpy (f : Sys2Proof.RForm) :
    Sys2Proof.Laws.Table.Statement (.cpy f) := by
  intro p h hw
  cases h
  rfl

theorem Sys2Proof.Laws.Table.cpyh (f : Sys2Proof.RForm) :
    Sys2Proof.Laws.Table.Statement (.cpyh f) := by
  intro p h hw
  cases h
  rfl

theorem Sys2Proof.Laws.Table.cpym (f : Sys2Proof.RForm) :
    Sys2Proof.Laws.Table.Statement (.cpym f) := by
  intro p h hw
  cases h
  rfl

theorem Sys2Proof.Laws.Table.send (f : Sys2Proof.RForm) :
    Sys2Proof.Laws.Table.Statement (.send f) := by
  intro p h hw
  cases h
  rfl

theorem Sys2Proof.Laws.Table.sendChannel (ch : BitVec 8) (f : Sys2Proof.RForm) :
    Sys2Proof.Laws.Table.Statement (.sendChannel ch f) := by
  intro p h hw
  cases h
  have h0 : ch.toNat ≠ 0 := by
    intro h0
    simp only [Sys2Proof.Instr.wf, Bool.and_eq_true, bne_iff_ne, ne_eq] at hw
    exact hw.1 (BitVec.eq_of_toNat_eq h0)
  simp [Sys2Proof.instrOfParts, Sys2Proof.instrOfR, h0]

theorem Sys2Proof.Laws.Table.recv (f : Sys2Proof.RForm) :
    Sys2Proof.Laws.Table.Statement (.recv f) := by
  intro p h hw
  cases h
  rfl

theorem Sys2Proof.Laws.Table.fork (f : Sys2Proof.IForm) :
    Sys2Proof.Laws.Table.Statement (.fork f) := by
  intro p h hw
  cases h
  rfl

theorem Sys2Proof.Laws.Table.join (f : Sys2Proof.RForm) :
    Sys2Proof.Laws.Table.Statement (.join f) := by
  intro p h hw
  cases h
  rfl

theorem Sys2Proof.Laws.Table.exit (f : Sys2Proof.RForm) :
    Sys2Proof.Laws.Table.Statement (.exit f) := by
  intro p h hw
  cases h
  rfl

theorem Sys2Proof.Laws.Table.yield (f : Sys2Proof.RForm) :
    Sys2Proof.Laws.Table.Statement (.yield f) := by
  intro p h hw
  cases h
  rfl

theorem Sys2Proof.Laws.Table.waitq (f : Sys2Proof.RForm) :
    Sys2Proof.Laws.Table.Statement (.waitq f) := by
  intro p h hw
  cases h
  rfl

theorem Sys2Proof.Laws.Table.evwt (f : Sys2Proof.RForm) :
    Sys2Proof.Laws.Table.Statement (.evwt f) := by
  intro p h hw
  cases h
  rfl

theorem Sys2Proof.Laws.Table.evsig (f : Sys2Proof.RForm) :
    Sys2Proof.Laws.Table.Statement (.evsig f) := by
  intro p h hw
  cases h
  rfl

theorem Sys2Proof.Laws.Table.evbar (f : Sys2Proof.RForm) :
    Sys2Proof.Laws.Table.Statement (.evbar f) := by
  intro p h hw
  cases h
  rfl

theorem Sys2Proof.Laws.Table.evlck (f : Sys2Proof.RForm) :
    Sys2Proof.Laws.Table.Statement (.evlck f) := by
  intro p h hw
  cases h
  rfl

theorem Sys2Proof.Laws.Table.evunl (f : Sys2Proof.RForm) :
    Sys2Proof.Laws.Table.Statement (.evunl f) := by
  intro p h hw
  cases h
  rfl

theorem Sys2Proof.Laws.Table.landingFptrap :
    Sys2Proof.Laws.Table.Statement (.landingFptrap) := by
  intro p h hw
  cases h

theorem Sys2Proof.Laws.Table.meterExhausted :
    Sys2Proof.Laws.Table.Statement (.meterExhausted) := by
  intro p h hw
  cases h

theorem Sys2Proof.Laws.Table.loadValueLands :
    Sys2Proof.Laws.Table.Statement (.loadValueLands) := by
  intro p h hw
  cases h

theorem Sys2Proof.Laws.Table.divisionLands :
    Sys2Proof.Laws.Table.Statement (.divisionLands) := by
  intro p h hw
  cases h

theorem Sys2Proof.Laws.Table.atomicPerformed :
    Sys2Proof.Laws.Table.Statement (.atomicPerformed) := by
  intro p h hw
  cases h

theorem Sys2Proof.Laws.Table.hostAtomicopCompletion (slot : Nat) (id : Nat) (st : Sys2Proof.HostStatus) :
    Sys2Proof.Laws.Table.Statement (.hostAtomicopCompletion slot id st) := by
  intro p h hw
  cases h

theorem Sys2Proof.Laws.Table.storePerformed :
    Sys2Proof.Laws.Table.Statement (.storePerformed) := by
  intro p h hw
  cases h

theorem Sys2Proof.Laws.Table.atsCompletion (req : Nat) (reply : Sys2Proof.AtsReply) :
    Sys2Proof.Laws.Table.Statement (.atsCompletion req reply) := by
  intro p h hw
  cases h

theorem Sys2Proof.Laws.Table.priResponse (req : Nat) (code : BitVec 4) :
    Sys2Proof.Laws.Table.Statement (.priResponse req code) := by
  intro p h hw
  cases h

theorem Sys2Proof.Laws.Table.atsInvalidation (pasid : Option Nat) (va : Nat) (len : Nat) :
    Sys2Proof.Laws.Table.Statement (.atsInvalidation pasid va len) := by
  intro p h hw
  cases h

theorem Sys2Proof.Laws.Table.atsInvalidationComplete :
    Sys2Proof.Laws.Table.Statement (.atsInvalidationComplete) := by
  intro p h hw
  cases h

theorem Sys2Proof.Laws.Table.vectorWritesLand :
    Sys2Proof.Laws.Table.Statement (.vectorWritesLand) := by
  intro p h hw
  cases h

theorem Sys2Proof.Laws.Table.matrixGrant :
    Sys2Proof.Laws.Table.Statement (.matrixGrant) := by
  intro p h hw
  cases h

theorem Sys2Proof.Laws.Table.tileResultsLand :
    Sys2Proof.Laws.Table.Statement (.tileResultsLand) := by
  intro p h hw
  cases h

theorem Sys2Proof.Laws.Table.heldSpanRelease :
    Sys2Proof.Laws.Table.Statement (.heldSpanRelease) := by
  intro p h hw
  cases h

theorem Sys2Proof.Laws.Table.ringSlotFrees :
    Sys2Proof.Laws.Table.Statement (.ringSlotFrees) := by
  intro p h hw
  cases h

theorem Sys2Proof.Laws.Table.copyStart :
    Sys2Proof.Laws.Table.Statement (.copyStart) := by
  intro p h hw
  cases h

theorem Sys2Proof.Laws.Table.copyFault :
    Sys2Proof.Laws.Table.Statement (.copyFault) := by
  intro p h hw
  cases h

theorem Sys2Proof.Laws.Table.copyCompletion :
    Sys2Proof.Laws.Table.Statement (.copyCompletion) := by
  intro p h hw
  cases h

theorem Sys2Proof.Laws.Table.messageEntersInbox :
    Sys2Proof.Laws.Table.Statement (.messageEntersInbox) := by
  intro p h hw
  cases h

theorem Sys2Proof.Laws.Table.eventMessageArrives :
    Sys2Proof.Laws.Table.Statement (.eventMessageArrives) := by
  intro p h hw
  cases h

theorem Sys2Proof.Laws.Table.barrierDeparture :
    Sys2Proof.Laws.Table.Statement (.barrierDeparture) := by
  intro p h hw
  cases h

theorem Sys2Proof.Laws.Table.dieBarrierArrival :
    Sys2Proof.Laws.Table.Statement (.dieBarrierArrival) := by
  intro p h hw
  cases h

theorem Sys2Proof.Laws.Table.boundedWaitExpiry :
    Sys2Proof.Laws.Table.Statement (.boundedWaitExpiry) := by
  intro p h hw
  cases h

theorem Sys2Proof.Laws.Table.waitWordReread :
    Sys2Proof.Laws.Table.Statement (.waitWordReread) := by
  intro p h hw
  cases h

theorem Sys2Proof.Laws.Table.taskStart :
    Sys2Proof.Laws.Table.Statement (.taskStart) := by
  intro p h hw
  cases h

theorem Sys2Proof.Laws.Table.dequeRefill :
    Sys2Proof.Laws.Table.Statement (.dequeRefill) := by
  intro p h hw
  cases h

theorem Sys2Proof.Laws.Table.stealAttempt :
    Sys2Proof.Laws.Table.Statement (.stealAttempt) := by
  intro p h hw
  cases h

theorem Sys2Proof.Laws.Table.stealAnswer :
    Sys2Proof.Laws.Table.Statement (.stealAnswer) := by
  intro p h hw
  cases h

theorem Sys2Proof.Laws.Table.startEvent :
    Sys2Proof.Laws.Table.Statement (.startEvent) := by
  intro p h hw
  cases h

theorem Sys2Proof.Laws.Table.quiescenceSample :
    Sys2Proof.Laws.Table.Statement (.quiescenceSample) := by
  intro p h hw
  cases h

theorem Sys2Proof.Laws.Table.preemptSave :
    Sys2Proof.Laws.Table.Statement (.preemptSave) := by
  intro p h hw
  cases h

theorem Sys2Proof.Laws.Table.contextRestore :
    Sys2Proof.Laws.Table.Statement (.contextRestore) := by
  intro p h hw
  cases h

theorem Sys2Proof.Laws.Table.preemptTimeout :
    Sys2Proof.Laws.Table.Statement (.preemptTimeout) := by
  intro p h hw
  cases h

theorem Sys2Proof.Laws.Table.poisonError (tgt : Sys2Proof.ErrTarget) :
    Sys2Proof.Laws.Table.Statement (.poisonError tgt) := by
  intro p h hw
  cases h

theorem Sys2Proof.Laws.Table.uncontainedError (site : Nat) (at_ : Nat) :
    Sys2Proof.Laws.Table.Statement (.uncontainedError site at_) := by
  intro p h hw
  cases h

theorem Sys2Proof.Laws.Table.intervalBoundary :
    Sys2Proof.Laws.Table.Statement (.intervalBoundary) := by
  intro p h hw
  cases h

theorem Sys2Proof.Laws.Table.rollback :
    Sys2Proof.Laws.Table.Statement (.rollback) := by
  intro p h hw
  cases h

theorem Sys2Proof.Laws.Table.partitionDrainReset :
    Sys2Proof.Laws.Table.Statement (.partitionDrainReset) := by
  intro p h hw
  cases h

theorem Sys2Proof.Laws.Table.diePortRefusal (wid : Nat) (die : Nat) :
    Sys2Proof.Laws.Table.Statement (.diePortRefusal wid die) := by
  intro p h hw
  cases h

theorem Sys2Proof.Laws.Table.linkFrameIntegrityFail (link : Sys2Proof.LinkKind) :
    Sys2Proof.Laws.Table.Statement (.linkFrameIntegrityFail link) := by
  intro p h hw
  cases h

theorem Sys2Proof.Laws.Table.kick (q : Nat) (w : Sys2Proof.Word) :
    Sys2Proof.Laws.Table.Statement (.kick q w) := by
  intro p h hw
  cases h

theorem Sys2Proof.Laws.Table.queueReset (q : Nat) :
    Sys2Proof.Laws.Table.Statement (.queueReset q) := by
  intro p h hw
  cases h

theorem Sys2Proof.Laws.Table.queueDrainComplete :
    Sys2Proof.Laws.Table.Statement (.queueDrainComplete) := by
  intro p h hw
  cases h

theorem Sys2Proof.Laws.Table.packetTake :
    Sys2Proof.Laws.Table.Statement (.packetTake) := by
  intro p h hw
  cases h

theorem Sys2Proof.Laws.Table.nopPacket :
    Sys2Proof.Laws.Table.Statement (.nopPacket) := by
  intro p h hw
  cases h

theorem Sys2Proof.Laws.Table.launchLoad :
    Sys2Proof.Laws.Table.Statement (.launchLoad) := by
  intro p h hw
  cases h

theorem Sys2Proof.Laws.Table.translatePacket :
    Sys2Proof.Laws.Table.Statement (.translatePacket) := by
  intro p h hw
  cases h

theorem Sys2Proof.Laws.Table.loaderValidate :
    Sys2Proof.Laws.Table.Statement (.loaderValidate) := by
  intro p h hw
  cases h

theorem Sys2Proof.Laws.Table.copyPacket :
    Sys2Proof.Laws.Table.Statement (.copyPacket) := by
  intro p h hw
  cases h

theorem Sys2Proof.Laws.Table.signalPacket :
    Sys2Proof.Laws.Table.Statement (.signalPacket) := by
  intro p h hw
  cases h

theorem Sys2Proof.Laws.Table.barrierPacket :
    Sys2Proof.Laws.Table.Statement (.barrierPacket) := by
  intro p h hw
  cases h

theorem Sys2Proof.Laws.Table.barrierEvaluate :
    Sys2Proof.Laws.Table.Statement (.barrierEvaluate) := by
  intro p h hw
  cases h

theorem Sys2Proof.Laws.Table.hostSignalPoll :
    Sys2Proof.Laws.Table.Statement (.hostSignalPoll) := by
  intro p h hw
  cases h

theorem Sys2Proof.Laws.Table.timestampPacket :
    Sys2Proof.Laws.Table.Statement (.timestampPacket) := by
  intro p h hw
  cases h

theorem Sys2Proof.Laws.Table.provenancePacket :
    Sys2Proof.Laws.Table.Statement (.provenancePacket) := by
  intro p h hw
  cases h

theorem Sys2Proof.Laws.Table.packetEnd :
    Sys2Proof.Laws.Table.Statement (.packetEnd) := by
  intro p h hw
  cases h

theorem Sys2Proof.Laws.Table.launchEnd :
    Sys2Proof.Laws.Table.Statement (.launchEnd) := by
  intro p h hw
  cases h

theorem Sys2Proof.Laws.Table.launchPreempt :
    Sys2Proof.Laws.Table.Statement (.launchPreempt) := by
  intro p h hw
  cases h

theorem Sys2Proof.Laws.Table.frontEndPageWait (pk : Nat) (reply : Sys2Proof.AtsReply) :
    Sys2Proof.Laws.Table.Statement (.frontEndPageWait pk reply) := by
  intro p h hw
  cases h

theorem Sys2Proof.Laws.Table.watchdogExpiry :
    Sys2Proof.Laws.Table.Statement (.watchdogExpiry) := by
  intro p h hw
  cases h

theorem Sys2Proof.Laws.Table.createWorld :
    Sys2Proof.Laws.Table.Statement (.createWorld) := by
  intro p h hw
  cases h

theorem Sys2Proof.Laws.Table.destroyWorld :
    Sys2Proof.Laws.Table.Statement (.destroyWorld) := by
  intro p h hw
  cases h

theorem Sys2Proof.Laws.Table.offer :
    Sys2Proof.Laws.Table.Statement (.offer) := by
  intro p h hw
  cases h

theorem Sys2Proof.Laws.Table.reclaim :
    Sys2Proof.Laws.Table.Statement (.reclaim) := by
  intro p h hw
  cases h

theorem Sys2Proof.Laws.Table.force :
    Sys2Proof.Laws.Table.Statement (.force) := by
  intro p h hw
  cases h

theorem Sys2Proof.Laws.Table.importPage :
    Sys2Proof.Laws.Table.Statement (.importPage) := by
  intro p h hw
  cases h

theorem Sys2Proof.Laws.Table.setRoot :
    Sys2Proof.Laws.Table.Statement (.setRoot) := by
  intro p h hw
  cases h

theorem Sys2Proof.Laws.Table.createQueue :
    Sys2Proof.Laws.Table.Statement (.createQueue) := by
  intro p h hw
  cases h

theorem Sys2Proof.Laws.Table.destroyQueue :
    Sys2Proof.Laws.Table.Statement (.destroyQueue) := by
  intro p h hw
  cases h

theorem Sys2Proof.Laws.Table.setWindow :
    Sys2Proof.Laws.Table.Statement (.setWindow) := by
  intro p h hw
  cases h

theorem Sys2Proof.Laws.Table.clearWindow :
    Sys2Proof.Laws.Table.Statement (.clearWindow) := by
  intro p h hw
  cases h

theorem Sys2Proof.Laws.Table.debugUnlock :
    Sys2Proof.Laws.Table.Statement (.debugUnlock) := by
  intro p h hw
  cases h

theorem Sys2Proof.Laws.Table.accept :
    Sys2Proof.Laws.Table.Statement (.accept) := by
  intro p h hw
  cases h

theorem Sys2Proof.Laws.Table.refuse :
    Sys2Proof.Laws.Table.Statement (.refuse) := by
  intro p h hw
  cases h

theorem Sys2Proof.Laws.Table.exportPage :
    Sys2Proof.Laws.Table.Statement (.exportPage) := by
  intro p h hw
  cases h

theorem Sys2Proof.Laws.Table.spdmRequest (vf : Nat) (msg : Sys2Proof.SpdmMessage) :
    Sys2Proof.Laws.Table.Statement (.spdmRequest vf msg) := by
  intro p h hw
  cases h

theorem Sys2Proof.Laws.Table.linkDown :
    Sys2Proof.Laws.Table.Statement (.linkDown) := by
  intro p h hw
  cases h

theorem Sys2Proof.Laws.Table.functionLevelReset (vf : Nat) :
    Sys2Proof.Laws.Table.Statement (.functionLevelReset vf) := by
  intro p h hw
  cases h

theorem Sys2Proof.Laws.Table.hotReset :
    Sys2Proof.Laws.Table.Statement (.hotReset) := by
  intro p h hw
  cases h

theorem Sys2Proof.Laws.Table.powerOnReset (pkgid : Sys2Proof.Byte) :
    Sys2Proof.Laws.Table.Statement (.powerOnReset pkgid) := by
  intro p h hw
  cases h

theorem Sys2Proof.Laws.Table.deviceReset :
    Sys2Proof.Laws.Table.Statement (.deviceReset) := by
  intro p h hw
  cases h

theorem Sys2Proof.Laws.Table.firmwareUpdate :
    Sys2Proof.Laws.Table.Statement (.firmwareUpdate) := by
  intro p h hw
  cases h

theorem Sys2Proof.Laws.Table.frequencyClassChange :
    Sys2Proof.Laws.Table.Statement (.frequencyClassChange) := by
  intro p h hw
  cases h

theorem Sys2Proof.Laws.Table.throttle :
    Sys2Proof.Laws.Table.Statement (.throttle) := by
  intro p h hw
  cases h

theorem Sys2Proof.Laws.Table.unthrottle :
    Sys2Proof.Laws.Table.Statement (.unthrottle) := by
  intro p h hw
  cases h

theorem Sys2Proof.Laws.Table.retire :
    Sys2Proof.Laws.Table.Statement (.retire) := by
  intro p h hw
  cases h

theorem Sys2Proof.Laws.Table.liveMapChange :
    Sys2Proof.Laws.Table.Statement (.liveMapChange) := by
  intro p h hw
  cases h

theorem Sys2Proof.Laws.Table.debugFreeze :
    Sys2Proof.Laws.Table.Statement (.debugFreeze) := by
  intro p h hw
  cases h

theorem Sys2Proof.Laws.Table.fabricPathDown :
    Sys2Proof.Laws.Table.Statement (.fabricPathDown) := by
  intro p h hw
  cases h

theorem Sys2Proof.Laws.Table.combineBufferForward :
    Sys2Proof.Laws.Table.Statement (.combineBufferForward) := by
  intro p h hw
  cases h

theorem Sys2Proof.Laws.Table.reductionPerformed :
    Sys2Proof.Laws.Table.Statement (.reductionPerformed) := by
  intro p h hw
  cases h

theorem Sys2Proof.Laws.Table.reductionAccepted :
    Sys2Proof.Laws.Table.Statement (.reductionAccepted) := by
  intro p h hw
  cases h

theorem Sys2Proof.Laws.Table.registerWrite (off : Nat) (val : Sys2Proof.DWord) :
    Sys2Proof.Laws.Table.Statement (.registerWrite off val) := by
  intro p h hw
  cases h

theorem Sys2Proof.Laws.Table.illegalInstruction :
    Sys2Proof.Laws.Table.Statement (.illegalInstruction) := by
  intro p h hw
  cases h

theorem Sys2Proof.Laws.Table.portWordDelivery :
    Sys2Proof.Laws.Table.Statement (.portWordDelivery) := by
  intro p h hw
  cases h

theorem Sys2Proof.Laws.Table.priReset (fn : Nat) :
    Sys2Proof.Laws.Table.Statement (.priReset fn) := by
  intro p h hw
  cases h

theorem Sys2Proof.Laws.Table.hostLinkUp :
    Sys2Proof.Laws.Table.Statement (.hostLinkUp) := by
  intro p h hw
  cases h

theorem Sys2Proof.Laws.Table.fabricPathFailure (pkg : Nat) :
    Sys2Proof.Laws.Table.Statement (.fabricPathFailure pkg) := by
  intro p h hw
  cases h

theorem Sys2Proof.Laws.Table.fabricPathRecovery (pkg : Nat) :
    Sys2Proof.Laws.Table.Statement (.fabricPathRecovery pkg) := by
  intro p h hw
  cases h

theorem Sys2Proof.Laws.Table.correctedSoftError (core : Nat) :
    Sys2Proof.Laws.Table.Statement (.correctedSoftError core) := by
  intro p h hw
  cases h
end

