-- ==== Sys2Proof/Laws/Tiles.lean ====
section
/-! SUPPORT. Handle words (R127, R128): the check value stands apart from every other field, so what a word names does not
depend on its value. -/

namespace Sys2Proof.Machine

/-- The mask of a check value has its low 19 bits set, and no other. -/
theorem checkMask_bit (i : Nat) : ((0x7FFFF : DWord)).getLsbD i = decide (i < 19) := by
  have h : ((0x7FFFF : DWord)).toNat = 2 ^ 19 - 1 := by decide
  rw [BitVec.getLsbD, h, Nat.testBit_two_pow_sub_one]

theorem withCheck_bit (world : Nat) (b : DWord) (i : Nat) (h : 19 ≤ i) :
    (withCheck world b).getLsbD i = b.getLsbD i := by
  have h2 : (Config.handleCheck world (b &&& ~~~(0x7FFFF : DWord))).getLsbD i = false := BitVec.getLsbD_of_ge _ i h
  have h1 := checkMask_bit i
  unfold withCheck
  rw [BitVec.getLsbD_or, BitVec.getLsbD_setWidth, h2, BitVec.getLsbD_and, BitVec.getLsbD_not, h1]
  by_cases hi : i < 64
  · simp [hi]; omega
  · simp [hi, BitVec.getLsbD_of_ge b i (by omega)]

theorem withCheck_field (world : Nat) (b : DWord) (lo n : Nat) (h : 19 ≤ lo) :
    (withCheck world b).extractLsb' lo n = b.extractLsb' lo n := by
  ext i hi
  rw [BitVec.getElem_extractLsb', BitVec.getElem_extractLsb', withCheck_bit _ _ _ (by omega)]

theorem clear_withCheck (world : Nat) (b : DWord) :
    withCheck world b &&& ~~~(0x7FFFF : DWord) = b &&& ~~~(0x7FFFF : DWord) := by
  apply BitVec.eq_of_getLsbD_eq
  intro i _
  rw [BitVec.getLsbD_and, BitVec.getLsbD_and, BitVec.getLsbD_not, checkMask_bit]
  by_cases h : i < 19
  · simp [h]
  · rw [withCheck_bit _ _ _ (by omega)]

/-- Recomputing the check value of a word that has it changes nothing. -/
@[simp] theorem withCheck_withCheck (world : Nat) (b : DWord) : withCheck world (withCheck world b) = withCheck world b := by
  show (withCheck world b &&& ~~~0x7FFFF ||| _) = _
  rw [clear_withCheck]; rfl

@[simp] theorem handleKind_withCheck (w : Nat) (b : DWord) : handleKind (withCheck w b) = handleKind b := by
  unfold handleKind; rw [withCheck_field _ _ _ _ (by decide)]

@[simp] theorem handlePkg_withCheck (w : Nat) (b : DWord) : handlePkg (withCheck w b) = handlePkg b := by
  unfold handlePkg; rw [withCheck_field _ _ _ _ (by decide)]

@[simp] theorem handleDie_withCheck (w : Nat) (b : DWord) : handleDie (withCheck w b) = handleDie b := by
  unfold handleDie; rw [withCheck_field _ _ _ _ (by decide)]

@[simp] theorem handleGen_withCheck (w : Nat) (b : DWord) : handleGen (withCheck w b) = handleGen b := by
  unfold handleGen; rw [withCheck_field _ _ _ _ (by decide)]

@[simp] theorem handleEntry_withCheck (w : Nat) (b : DWord) : handleEntry (withCheck w b) = handleEntry b := by
  unfold handleEntry handleIndex; rw [withCheck_field _ _ _ _ (by decide), handleDie_withCheck]

@[simp] theorem State.away_withCheck (s : State) (w : Nat) (b : DWord) : s.away (withCheck w b) = s.away b := by
  simp [State.away]

/-- A word with its own check value is stale by its other fields only, and of those a word homed on another package has none
that this package holds. -/
theorem State.stale_withCheck (s : State) (w : Nat) (b : DWord) :
    s.stale w (withCheck w b) = (!s.away b && (!(s.entry (handleEntry b)).used
      || (s.entry (handleEntry b)).gen != handleGen b || (s.die (handleDie b)).wid != w
      || (handleKind b != kindSee && !(s.entry (handleEntry b)).fill))) := by
  simp [State.stale]

/-- hget (R136): a live word of a wanted kind is given as it is, and nothing changes. -/
theorem hget_ok {s : State} {code : Code} {want : Want} (hk : handleKind (s.me.handleAt code) ≠ 0)
    (hs : s.stale (s.die s.myDie).wid (s.me.handleAt code) = false) (hw : want.ok (handleKind (s.me.handleAt code)) = true) :
    hget code want s = .ok (s.me.handleAt code, s) := by
  simp [hget, hk, hs, hw]

end Sys2Proof.Machine
end

