-- ==== Sys2Proof/Tests/Slice0.lean ====
section
/-! SUPPORT. Tests of this model's own: the well-formedness checks refuse an ill-formed term each, words written out from
R43 and R47 decode to the instructions they stand for, single steps give the values that the spec's rules give, and for
every statement a witness shows a state and operands that meet its hypotheses together. -/

open Sys2Proof Sys2Proof.Machine Sys2Proof.Statements

namespace Sys2Proof.Tests

/-! ## Well-formedness (R24, R44 to R48) -/

theorem test_wf_operand_classes :
    Instr.wf (.add { d := 68, a := 1, b := 2 }) = false        -- the inbox is no destination
    ∧ Instr.wf (.add { d := 1, a := 69, b := 2 }) = false      -- the outbox is no source
    ∧ Instr.wf (.add { d := 1, a := 2, b := 3, c := 4 }) = false
    ∧ Instr.wf (.div { d := 64, a := 1, b := 2 }) = false
    ∧ Instr.wf (.addw { d := 3, a := 4, b := 6 }) = false
    ∧ Instr.wf (.addw { d := 64, a := 4, b := 6 }) = false
    ∧ Instr.wf (.fork { a := 12 }) = false
    ∧ Instr.wf (.fork { a := 64 }) = false
    ∧ Instr.wf (.vset 0 { d := 96, a := 1, b := 2 }) = false
    ∧ Instr.wf (.vadd { d := 80, a := 64, b := 81 }) = false
    ∧ Instr.wf (.tadd { d := 80, a := 1, b := 81 }) = false
    ∧ Instr.wf (.hcopy { d := 112, a := 96 }) = false
    ∧ Instr.wf (.hnew { d := 111, a := 2, b := 1 }) = false
    ∧ Instr.wf (.qpop { d := 1, a := 112 }) = false
    ∧ Instr.wf (.qstat { d := 2, a := 120 }) = false
    ∧ Instr.wf (.vgath { d := 80, a := 2, b := 81, c := 124 }) = false
    ∧ Instr.wf (.mset { d := 120, a := 2, b := 4 }) = false := by decide

theorem test_wf_fields :
    Instr.wf (.add { d := 1, a := 2, b := 3, ep := 4 }) = false
    ∧ Instr.wf (.faddF32 { d := 1, a := 2, b := 3, rnd := 6 }) = false
    ∧ Instr.wf (.fminF32 { d := 1, a := 2, b := 3, rnd := 1 }) = false
    ∧ Instr.wf (.shli { d := 1, a := 2, imm := 32 }) = false
    ∧ Instr.wf (.kend { imm := 1 }) = false
    ∧ Instr.wf (.csrr { d := 1, imm := 0x0A }) = false
    ∧ Instr.wf (.movi { d := 1, ep := 1 }) = false
    ∧ Instr.wf (.beq { a := 69, b := 1 }) = false
    ∧ Instr.wf (.vmin { d := 80, a := 81, b := 82, sat := 1 }) = false
    ∧ Instr.wf (.vand { d := 80, a := 81, b := 82, sign := 1 }) = false
    ∧ Instr.wf (.vadd { d := 80, a := 81, b := 82, imm := 1 }) = false
    ∧ Instr.wf (.vcmp 12 { d := 121, a := 81, b := 82 }) = false
    ∧ Instr.wf (.vset 13 { d := 80, a := 1, b := 2 }) = false
    ∧ Instr.wf (.sendChannel 0 {}) = false
    ∧ Instr.wf (.fcvt 0x22 { d := 1, a := 2 }) = false          -- the two codes are equal
    ∧ Instr.wf (.fcvt 0x10 { d := 1, a := 2 }) = false          -- neither is a floating format
    ∧ Instr.wf (.fcvt 0xA0 { d := 1, a := 2 }) = false          -- bit 7
    ∧ Instr.wf (.fcvt 0x32 { d := 1, a := 2 }) = false := by decide  -- a pair of odd number

theorem test_wf_memory :
    Instr.wf (.ld { d := 1, a := 3 }) = false
    ∧ Instr.wf (.ld { d := 1, a := 2, ord := 2 }) = false
    ∧ Instr.wf (.ld { d := 1, a := 2, scope := 1 }) = false
    ∧ Instr.wf (.ld { d := 1, a := 2, ord := 1, scope := 7 }) = false
    ∧ Instr.wf (.ld { d := 1, a := 2, space := 1, evict := 1 }) = false
    ∧ Instr.wf (.ld { d := 1, a := 2, size := 3 }) = false
    ∧ Instr.wf (.ld { d := 6, a := 2, size := 4 }) = false
    ∧ Instr.wf (.ld { d := 12, a := 2, size := 5 }) = false
    ∧ Instr.wf (.ld { d := 0, a := 2, size := 6 }) = false
    ∧ Instr.wf (.ld { d := 1, a := 2, epD := 1 }) = false
    ∧ Instr.wf (.lds { d := 4, a := 2, size := 4 }) = false
    ∧ Instr.wf (.st { d := 1, a := 2, ord := 1 }) = false
    ∧ Instr.wf (.aswp { d := 1, a := 2, size := 2, space := 3 }) = false
    ∧ Instr.wf (.atom { d := 1, a := 2, size := 2, evict := 4 }) = false
    ∧ Instr.wf (.atom { d := 1, a := 2, size := 2, evict := 1, rdc := 1 }) = false
    ∧ Instr.wf (.atom { d := 2, a := 4, size := 3, evict := 1 }) = false
    ∧ Instr.wf (.aswp { d := 1, a := 2, size := 1 }) = false
    ∧ Instr.wf (.aswp { d := 1, a := 2, size := 2, rdc := 1 }) = false
    ∧ Instr.wf (.acas { d := 3, a := 2, size := 2 }) = false
    ∧ Instr.wf (.acas { d := 6, a := 2, size := 3 }) = false
    ∧ Instr.wf (.fence { scope := 4 }) = false
    ∧ Instr.wf (.fence { ord := 1, off := 1 }) = false
    ∧ Instr.wf (.pref { a := 2, ord := 1 }) = false
    ∧ Instr.wf (.hld { d := 1, a := 2 }) = false
    ∧ Instr.wf (.hst { d := 1, a := 96, space := 1 }) = false
    ∧ Instr.wf (.vld { d := 80, a := 2, space := 3 }) = false
    ∧ Instr.wf (.vst { d := 80, a := 2, size := 1 }) = false
    ∧ Instr.wf (.vldh { d := 80, a := 96, epD := 1 }) = false := by decide

theorem test_wf_tiles :
    Instr.wf (.tadd { d := 80, a := 81, b := 82, popA := 1 }) = false
    ∧ Instr.wf (.tact { d := 80, a := 81, savB := 1 }) = false
    ∧ Instr.wf (.tmma { d := 80, a := 81, b := 82, tfn := 5 }) = false
    ∧ Instr.wf (.tmma { d := 80, a := 81, b := 82, rnd := 1 }) = false
    ∧ Instr.wf (.ttrn { d := 80, a := 81, sat := 1 }) = false
    ∧ Instr.wf (.tcvt { d := 80, a := 81, had := 3 }) = false
    ∧ Instr.wf (.tadd { d := 80, a := 81, b := 82, had := 1 }) = false
    ∧ Instr.wf (.tzero { d := 80, imm := 1 }) = false
    ∧ Instr.wf (.tmms { d := 80, a := 81, b := 82, imm := 0x30 }) = false
    ∧ Instr.wf (.tred { d := 80, a := 81, imm := 1 }) = false := by decide

/-! ## Words of R43 and R47: each row of R47 once, with the fields written at the bits of R43 -/

theorem test_decode_integer_words :
      decode 0x0111022300000000 = .ok (.add { d := 8, a := 0x40, b := 0x44, ep := 3 })
    ∧ decode 0x018B104B00020000 = .ok (.sub { d := 0x45, a := 0x44, b := 9, ep := 3 })
    ∧ decode 0x0186260300040000 = .ok (.and { d := 0x43, a := 9, b := 0x40, ep := 3 })
    ∧ decode 0x0111022300060000 = .ok (.or { d := 8, a := 0x40, b := 0x44, ep := 3 })
    ∧ decode 0x018B104B00080000 = .ok (.xor { d := 0x45, a := 0x44, b := 9, ep := 3 })
    ∧ decode 0x01862603000A0000 = .ok (.shl { d := 0x43, a := 9, b := 0x40, ep := 3 })
    ∧ decode 0x01110223000C0000 = .ok (.shr { d := 8, a := 0x40, b := 0x44, ep := 3 })
    ∧ decode 0x018B104B000E0000 = .ok (.sra { d := 0x45, a := 0x44, b := 9, ep := 3 })
    ∧ decode 0x0186260300100000 = .ok (.slt { d := 0x43, a := 9, b := 0x40, ep := 3 })
    ∧ decode 0x0111022300120000 = .ok (.sltb { d := 8, a := 0x40, b := 0x44, ep := 3 })
    ∧ decode 0x018B104B00140000 = .ok (.seq { d := 0x45, a := 0x44, b := 9, ep := 3 })
    ∧ decode 0x0186260300160000 = .ok (.mul { d := 0x43, a := 9, b := 0x40, ep := 3 })
    ∧ decode 0x0111022300180000 = .ok (.mulhb { d := 8, a := 0x40, b := 0x44, ep := 3 })
    ∧ decode 0x018B104B001A0000 = .ok (.min { d := 0x45, a := 0x44, b := 9, ep := 3 })
    ∧ decode 0x01862603001C0000 = .ok (.max { d := 0x43, a := 9, b := 0x40, ep := 3 })
    ∧ decode 0x01110223001E0000 = .ok (.minb { d := 8, a := 0x40, b := 0x44, ep := 3 })
    ∧ decode 0x018B104B00200000 = .ok (.maxb { d := 0x45, a := 0x44, b := 9, ep := 3 })
    ∧ decode 0x0120307300220000 = .ok (.addw { d := 0x10, a := 0xc, b := 0xe, ep := 3 })
    ∧ decode 0x0118388300240000 = .ok (.subw { d := 0xc, a := 0xe, b := 0x10, ep := 3 }) := by
  and_intros <;> rfl

theorem test_decode_integer_rows_of_0x10_words :
      decode 0x1017104B00000000 = .ok (.div { d := 0xb, a := 0x44, b := 9, ep := 3 })
    ∧ decode 0x107E260300020000 = .ok (.divb { d := 0x3f, a := 9, b := 0x40, ep := 3 })
    ∧ decode 0x1017022300040000 = .ok (.rem { d := 0xb, a := 0x40, b := 0x44, ep := 3 })
    ∧ decode 0x107F104B00060000 = .ok (.remb { d := 0x3f, a := 0x44, b := 9, ep := 3 })
    ∧ decode 0x1086260300080000 = .ok (.mulh { d := 0x43, a := 9, b := 0x40, ep := 3 })
    ∧ decode 0x10110001000A0000 = .ok (.clz { d := 8, a := 0x40, ep := 1 })
    ∧ decode 0x108B1001000C0000 = .ok (.ctz { d := 0x45, a := 0x44, ep := 1 })
    ∧ decode 0x10862401000E0000 = .ok (.popc { d := 0x43, a := 9, ep := 1 })
    ∧ decode 0x1011022300100000 = .ok (.rotl { d := 8, a := 0x40, b := 0x44, ep := 3 })
    ∧ decode 0x108B104B00120000 = .ok (.rotr { d := 0x45, a := 0x44, b := 9, ep := 3 })
    ∧ decode 0x1086260300140000 = .ok (.bext { d := 0x43, a := 9, b := 0x40, ep := 3 })
    ∧ decode 0x1011022712160000 = .ok (.bins { d := 8, a := 0x40, b := 0x44, c := 9, ep := 7 })
    ∧ decode 0x101C404B00180000 = .ok (.shlw { d := 0xe, a := 0x10, b := 9, ep := 3 })
    ∧ decode 0x10203203001A0000 = .ok (.shrw { d := 0x10, a := 0xc, b := 0x40, ep := 3 })
    ∧ decode 0x10183A23001C0000 = .ok (.sraw { d := 0xc, a := 0xe, b := 0x44, ep := 3 })
    ∧ decode 0x101C4063001E0000 = .ok (.mulw { d := 0xe, a := 0x10, b := 0xc, ep := 3 })
    ∧ decode 0x1020307300200000 = .ok (.mulwb { d := 0x10, a := 0xc, b := 0xe, ep := 3 })
    ∧ decode 0x1010388300220000 = .ok (.sltw { d := 8, a := 0xe, b := 0x10, ep := 3 })
    ∧ decode 0x108A406300240000 = .ok (.sltwb { d := 0x45, a := 0x10, b := 0xc, ep := 3 })
    ∧ decode 0x1086260788260000 = .ok (.sel { d := 0x43, a := 9, b := 0x40, c := 0x44, ep := 7 }) := by
  and_intros <;> rfl

theorem test_decode_immediate_words :
      decode 0x028B100189ABCDEF = .ok (.addi { d := 0x45, a := 0x44, ep := 1, imm := 0x89abcdef })
    ∧ decode 0x0286241189ABCDEF = .ok (.andi { d := 0x43, a := 9, ep := 1, imm := 0x89abcdef })
    ∧ decode 0x0211001989ABCDEF = .ok (.ori { d := 8, a := 0x40, ep := 1, imm := 0x89abcdef })
    ∧ decode 0x028B102189ABCDEF = .ok (.xori { d := 0x45, a := 0x44, ep := 1, imm := 0x89abcdef })
    ∧ decode 0x028624290000001F = .ok (.shli { d := 0x43, a := 9, ep := 1, imm := 0x1f })
    ∧ decode 0x021100310000001F = .ok (.shri { d := 8, a := 0x40, ep := 1, imm := 0x1f })
    ∧ decode 0x028B10390000001F = .ok (.srai { d := 0x45, a := 0x44, ep := 1, imm := 0x1f })
    ∧ decode 0x0286244189ABCDEF = .ok (.slti { d := 0x43, a := 9, ep := 1, imm := 0x89abcdef })
    ∧ decode 0x0211004989ABCDEF = .ok (.sltbi { d := 8, a := 0x40, ep := 1, imm := 0x89abcdef })
    ∧ decode 0x028B105189ABCDEF = .ok (.seqi { d := 0x45, a := 0x44, ep := 1, imm := 0x89abcdef })
    ∧ decode 0x0286245989ABCDEF = .ok (.muli { d := 0x43, a := 9, ep := 1, imm := 0x89abcdef })
    ∧ decode 0x0218388989ABCDEF = .ok (.addwi { d := 0xc, a := 0xe, ep := 1, imm := 0x89abcdef })
    ∧ decode 0x028A010089ABCDEF = .ok (.movi { d := 0x45, imm := 0x89abcdef }) := by
  and_intros <;> rfl

theorem test_decode_plain_memory_words :
      decode 0x031839833DFFFFF0 =
        .ok (.ld { d := 0xc, a := 0xe, ord := 1, scope := 4, epA := 1, size := 4,
                   evict := 7, rdc := 5, off := 0xfffff0 })
    ∧ decode 0x0416380840000002 = .ok (.lds { d := 0xb, a := 0xe, space := 1, size := 1, off := 2 })
    ∧ decode 0x058032A680000004 = .ok (.st { d := 0x40, a := 0xc, ord := 2, scope := 5, epD := 1, epA := 1, size := 2, off := 4 }) := by
  and_intros <;> rfl

theorem test_decode_control_flow_words :
      decode 0x0601104AFFFFFFFE = .ok (.beq { a := 0x44, b := 9, ep := 2, off := 0xfffffffe })
    ∧ decode 0x0603104AFFFFFFFE = .ok (.bne { a := 0x44, b := 9, ep := 2, off := 0xfffffffe })
    ∧ decode 0x0605104AFFFFFFFE = .ok (.blt { a := 0x44, b := 9, ep := 2, off := 0xfffffffe })
    ∧ decode 0x0607104AFFFFFFFE = .ok (.bge { a := 0x44, b := 9, ep := 2, off := 0xfffffffe })
    ∧ decode 0x0609104AFFFFFFFE = .ok (.bltb { a := 0x44, b := 9, ep := 2, off := 0xfffffffe })
    ∧ decode 0x060B104AFFFFFFFE = .ok (.bgeb { a := 0x44, b := 9, ep := 2, off := 0xfffffffe })
    ∧ decode 0x0786000089ABCDEF = .ok (.jal { d := 0x43, imm := 0x89abcdef })
    ∧ decode 0x0811000189ABCDEF = .ok (.jalr { d := 8, a := 0x40, ep := 1, imm := 0x89abcdef })
    ∧ decode 0x0900000000000000 = .ok (.kend {})
    ∧ decode 0x0986240900000000 = .ok (.kmtr { d := 0x43, a := 9, ep := 1 })
    ∧ decode 0x0901001189ABCDEF = .ok (.trap { a := 0x40, ep := 1, imm := 0x89abcdef })
    ∧ decode 0x1386000000000077 = .ok (.csrr { d := 0x43, imm := 0x77 })
    ∧ decode 0x1311000900000077 = .ok (.csrw { d := 8, a := 0x40, ep := 1, imm := 0x77 })
    ∧ decode 0x138B101100000077 = .ok (.csrs { d := 0x45, a := 0x44, ep := 1, imm := 0x77 })
    ∧ decode 0x1386241900000077 = .ok (.csrc { d := 0x43, a := 9, ep := 1, imm := 0x77 })
    ∧ decode 0x1500000000000000 = .ok (.eret {})
    ∧ decode 0x1500000889ABCDEF = .ok (.brk { imm := 0x89abcdef })
    ∧ decode 0x1500001000000000 = .ok (.nop {}) := by
  and_intros <;> rfl

theorem test_decode_float_words :
      decode 0x1111022300014000 = .ok (.faddF32 { d := 8, a := 0x40, b := 0x44, ep := 3, rnd := 5 })
    ∧ decode 0x118B104B00034000 = .ok (.fsubF32 { d := 0x45, a := 0x44, b := 9, ep := 3, rnd := 5 })
    ∧ decode 0x1186260300054000 = .ok (.fmulF32 { d := 0x43, a := 9, b := 0x40, ep := 3, rnd := 5 })
    ∧ decode 0x1111022712074000 = .ok (.ffmaF32 { d := 8, a := 0x40, b := 0x44, c := 9, ep := 7, rnd := 5 })
    ∧ decode 0x118B104B00094000 = .ok (.fdivF32 { d := 0x45, a := 0x44, b := 9, ep := 3, rnd := 5 })
    ∧ decode 0x11862401000B4000 = .ok (.fsqrtF32 { d := 0x43, a := 9, ep := 1, rnd := 5 })
    ∧ decode 0x11110223000C0000 = .ok (.fminF32 { d := 8, a := 0x40, b := 0x44, ep := 3 })
    ∧ decode 0x118B104B000E0000 = .ok (.fmaxF32 { d := 0x45, a := 0x44, b := 9, ep := 3 })
    ∧ decode 0x1186240100100000 = .ok (.fabsF32 { d := 0x43, a := 9, ep := 1 })
    ∧ decode 0x1111000100120000 = .ok (.fnegF32 { d := 8, a := 0x40, ep := 1 })
    ∧ decode 0x118B104B00140000 = .ok (.feqF32 { d := 0x45, a := 0x44, b := 9, ep := 3 })
    ∧ decode 0x1186260300160000 = .ok (.fltF32 { d := 0x43, a := 9, b := 0x40, ep := 3 })
    ∧ decode 0x1111022300180000 = .ok (.fleF32 { d := 8, a := 0x40, b := 0x44, ep := 3 })
    ∧ decode 0x118B1001001A0000 = .ok (.fclsF32 { d := 0x45, a := 0x44, ep := 1 })
    ∧ decode 0x1120307301014000 = .ok (.faddF64 { d := 0x10, a := 0xc, b := 0xe, ep := 3, rnd := 5 })
    ∧ decode 0x1118388301034000 = .ok (.fsubF64 { d := 0xc, a := 0xe, b := 0x10, ep := 3, rnd := 5 })
    ∧ decode 0x111C406301054000 = .ok (.fmulF64 { d := 0xe, a := 0x10, b := 0xc, ep := 3, rnd := 5 })
    ∧ decode 0x1120307721074000 = .ok (.ffmaF64 { d := 0x10, a := 0xc, b := 0xe, c := 0x10, ep := 7, rnd := 5 })
    ∧ decode 0x1118388301094000 = .ok (.fdivF64 { d := 0xc, a := 0xe, b := 0x10, ep := 3, rnd := 5 })
    ∧ decode 0x111C4001010B4000 = .ok (.fsqrtF64 { d := 0xe, a := 0x10, ep := 1, rnd := 5 })
    ∧ decode 0x11203073010C0000 = .ok (.fminF64 { d := 0x10, a := 0xc, b := 0xe, ep := 3 })
    ∧ decode 0x11183883010E0000 = .ok (.fmaxF64 { d := 0xc, a := 0xe, b := 0x10, ep := 3 })
    ∧ decode 0x111C400101100000 = .ok (.fabsF64 { d := 0xe, a := 0x10, ep := 1 })
    ∧ decode 0x1120300101120000 = .ok (.fnegF64 { d := 0x10, a := 0xc, ep := 1 })
    ∧ decode 0x1110388301140000 = .ok (.feqF64 { d := 8, a := 0xe, b := 0x10, ep := 3 })
    ∧ decode 0x118A406301160000 = .ok (.fltF64 { d := 0x45, a := 0x10, b := 0xc, ep := 3 })
    ∧ decode 0x1186307301180000 = .ok (.fleF64 { d := 0x43, a := 0xc, b := 0xe, ep := 3 })
    ∧ decode 0x11103801011A0000 = .ok (.fclsF64 { d := 8, a := 0xe, ep := 1 })
    ∧ decode 0x121D100100654000 = .ok (.fcvt 0x32 { d := 0xe, a := 0x44, ep := 1, rnd := 5 }) := by
  and_intros <;> rfl

theorem test_decode_memory_words :
      decode 0x181433D4DD000008 =
        .ok (.atom { d := 0xa, a := 0xc, ord := 3, scope := 6, space := 2, epD := 1,
                     size := 3, evict := 3, rdc := 5, off := 8 })
    ∧ decode 0x19143202C0000000 = .ok (.aswp { d := 0xa, a := 0xc, ord := 2, epA := 1, size := 3 })
    ∧ decode 0x1A283164C0000000 = .ok (.acas { d := 0x14, a := 0xc, ord := 1, scope := 3, epD := 1, size := 3 })
    ∧ decode 0x1B0003A000000000 = .ok (.fence { ord := 3, scope := 5 })
    ∧ decode 0x1C0030021A000040 = .ok (.pref { a := 0xc, epA := 1, evict := 3, rdc := 2, off := 0x40 }) := by
  and_intros <;> rfl

theorem test_decode_handle_words :
      decode 0x20DC320300000000 = .ok (.hnew { d := 0x6e, a := 0xc, b := 0x40, ep := 3 })
    ∧ decode 0x20DC3A2300020000 = .ok (.hnewSp { d := 0x6e, a := 0xe, b := 0x44, ep := 3 })
    ∧ decode 0x21DF840100000000 = .ok (.hcopy { d := 0x6f, a := 0x61, ep := 1 })
    ∧ decode 0x2101BC0000020000 = .ok (.hdrop { a := 0x6f })
    ∧ decode 0x21DF840000040000 = .ok (.hmove { d := 0x6f, a := 0x61 })
    ∧ decode 0x211DBC0000060000 = .ok (.hinfo { d := 0xe, a := 0x6f })
    ∧ decode 0x2101840100080000 = .ok (.hwait { a := 0x61, ep := 1 })
    ∧ decode 0x2201BE2612000000 = .ok (.hsend { a := 0x6f, b := 0x44, c := 9, ep := 6 })
    ∧ decode 0x23DF100100000000 = .ok (.hrecv { d := 0x6f, a := 0x44, ep := 1 })
    ∧ decode 0x242190014F000020 = .ok (.hld { d := 0x10, a := 0x64, size := 5, evict := 1, rdc := 7, off := 0x20 })
    ∧ decode 0x2583BC0400000001 = .ok (.hst { d := 0x41, a := 0x6f, epD := 1, off := 1 }) := by
  and_intros <;> rfl

theorem test_decode_ring_words :
      decode 0x28EA600100000000 = .ok (.qcfg { d := 0x75, a := 0x18, ep := 1 })
    ∧ decode 0x28DFD60200020000 = .ok (.qrsv { d := 0x6f, a := 0x75, b := 0x40, ep := 2 })
    ∧ decode 0x28C7D40000040000 = .ok (.qpop { d := 0x63, a := 0x75 })
    ∧ decode 0x281DD40000060000 = .ok (.qstat { d := 0xe, a := 0x75 }) := by
  and_intros <;> rfl

theorem test_decode_vector_float_words :
      decode 0x30AB590B0006E000 = .ok (.vadd { d := 0x55, a := 0x56, b := 0x21, ep := 3, k := 3, rnd := 3, sat := 1 })
    ∧ decode 0x30B686FB000B2000 = .ok (.vsub { d := 0x5b, a := 0x21, b := 0x5f, ep := 3, k := 1, rnd := 4, sat := 1 })
    ∧ decode 0x30AB7EB300156000 = .ok (.vmul { d := 0x55, a := 0x5f, b := 0x56, ep := 3, k := 2, rnd := 5, sat := 1 })
    ∧ decode 0x30B7590FBE1E6000 = .ok (.vfma { d := 0x5b, a := 0x56, b := 0x21, c := 0x5f, ep := 7, k := 3, rnd := 1, sat := 1 })
    ∧ decode 0x30AA86FB00220000 = .ok (.vmin { d := 0x55, a := 0x21, b := 0x5f, ep := 3, k := 1 })
    ∧ decode 0x30B77EB3002C0000 = .ok (.vmax { d := 0x5b, a := 0x5f, b := 0x56, ep := 3, k := 2 })
    ∧ decode 0x30AB580100360000 = .ok (.vabs { d := 0x55, a := 0x56, ep := 1, k := 3 })
    ∧ decode 0x30B68401003A0000 = .ok (.vneg { d := 0x5b, a := 0x21, ep := 1, k := 1 })
    ∧ decode 0x30AB7C0100446000 = .ok (.vrcp { d := 0x55, a := 0x5f, ep := 1, k := 2, rnd := 1, sat := 1 })
    ∧ decode 0x30B75801004EA000 = .ok (.vrsq { d := 0x5b, a := 0x56, ep := 1, k := 3, rnd := 2, sat := 1 })
    ∧ decode 0x30AA84010052E000 = .ok (.vexp2 { d := 0x55, a := 0x21, ep := 1, k := 1, rnd := 3, sat := 1 })
    ∧ decode 0x30B77C01005D2000 = .ok (.vlog2 { d := 0x5b, a := 0x5f, ep := 1, k := 2, rnd := 4, sat := 1 })
    ∧ decode 0x30AB580100676000 = .ok (.vtanh { d := 0x55, a := 0x56, ep := 1, k := 3, rnd := 5, sat := 1 }) := by
  and_intros <;> rfl

theorem test_decode_vector_integer_words :
      decode 0x31B686FB00023000 = .ok (.viadd { d := 0x5b, a := 0x21, b := 0x5f, ep := 3, k := 1, sat := 1, sign := 1 })
    ∧ decode 0x31AB7EB3000C3000 = .ok (.visub { d := 0x55, a := 0x5f, b := 0x56, ep := 3, k := 2, sat := 1, sign := 1 })
    ∧ decode 0x31B7590B00163000 = .ok (.vimul { d := 0x5b, a := 0x56, b := 0x21, ep := 3, k := 3, sat := 1, sign := 1 })
    ∧ decode 0x31AA86FB001A0000 = .ok (.vand { d := 0x55, a := 0x21, b := 0x5f, ep := 3, k := 1 })
    ∧ decode 0x31B77EB300240000 = .ok (.vor { d := 0x5b, a := 0x5f, b := 0x56, ep := 3, k := 2 })
    ∧ decode 0x31AB590B002E0000 = .ok (.vxor { d := 0x55, a := 0x56, b := 0x21, ep := 3, k := 3 })
    ∧ decode 0x31B686FB00320000 = .ok (.vshl { d := 0x5b, a := 0x21, b := 0x5f, ep := 3, k := 1 })
    ∧ decode 0x31AB7EB3003C0000 = .ok (.vshr { d := 0x55, a := 0x5f, b := 0x56, ep := 3, k := 2 })
    ∧ decode 0x31B7590B00460000 = .ok (.vsra { d := 0x5b, a := 0x56, b := 0x21, ep := 3, k := 3 })
    ∧ decode 0x31AA86FB004A1000 = .ok (.vimin { d := 0x55, a := 0x21, b := 0x5f, ep := 3, k := 1, sign := 1 })
    ∧ decode 0x31B77EB300541000 = .ok (.vimax { d := 0x5b, a := 0x5f, b := 0x56, ep := 3, k := 2, sign := 1 })
    ∧ decode 0x31AB590B005E0ABC = .ok (.vhash { d := 0x55, a := 0x56, b := 0x21, ep := 3, k := 3, imm := 0xabc })
    ∧ decode 0x31B686FB00620000 = .ok (.vlut { d := 0x5b, a := 0x21, b := 0x5f, ep := 3, k := 1 })
    ∧ decode 0x31AB7C01006C0000 = .ok (.vidx { d := 0x55, a := 0x5f, ep := 1, k := 2 }) := by
  and_intros <;> rfl

theorem test_decode_vector_move_and_reduce_words :
      decode 0x32F7590B005E0000 = .ok (.vcmp 0x0B { d := 0x7b, a := 0x56, b := 0x21, ep := 3, k := 3 })
    ∧ decode 0x33AA840100020000 = .ok (.vmov { d := 0x55, a := 0x21, ep := 1, k := 1 })
    ∧ decode 0x33B77EB3000C0000 = .ok (.vsel { d := 0x5b, a := 0x5f, b := 0x56, ep := 3, k := 2 })
    ∧ decode 0x33AB580100160ABC = .ok (.vbcast { d := 0x55, a := 0x56, ep := 1, k := 3, imm := 0xabc })
    ∧ decode 0x33B686FB001A0000 = .ok (.vperm { d := 0x5b, a := 0x21, b := 0x5f, ep := 3, k := 1 })
    ∧ decode 0x33AB7C0100240000 = .ok (.vtrn { d := 0x55, a := 0x5f, ep := 1, k := 2 })
    ∧ decode 0x347F580100067000 = .ok (.vrsum { d := 0x3f, a := 0x56, ep := 1, k := 3, rnd := 1, sat := 1, sign := 1 })
    ∧ decode 0x34168401000A1000 = .ok (.vrmin { d := 0xb, a := 0x21, ep := 1, k := 1, sign := 1 })
    ∧ decode 0x347F7C0100141000 = .ok (.vrmax { d := 0x3f, a := 0x5f, ep := 1, k := 2, sign := 1 })
    ∧ decode 0x34175801001E1000 = .ok (.vrmini { d := 0xb, a := 0x56, ep := 1, k := 3, sign := 1 })
    ∧ decode 0x347E840100221000 = .ok (.vrmaxi { d := 0x3f, a := 0x21, ep := 1, k := 1, sign := 1 })
    ∧ decode 0x34177C01002C1000 = .ok (.vror { d := 0xb, a := 0x5f, ep := 1, k := 2, sign := 1 })
    ∧ decode 0x35B758010006A000 = .ok (.vcvt { d := 0x5b, a := 0x56, ep := 1, k := 3, rnd := 2, sat := 1 }) := by
  and_intros <;> rfl

theorem test_decode_vector_memory_and_view_words :
      decode 0x36A0314A00000080 = .ok (.vld { d := 0x50, a := 0xc, ord := 1, scope := 2, space := 1, epA := 1, off := 0x80 })
    ∧ decode 0x37BE326410000000 = .ok (.vst { d := 0x5f, a := 0xc, ord := 2, scope := 3, epD := 1, evict := 2 })
    ∧ decode 0x38AA42B3F2000000 = .ok (.vgath { d := 0x55, a := 0x10, b := 0x56, c := 0x79, ep := 3 })
    ∧ decode 0x39B6310BF2000000 = .ok (.vscat { d := 0x5b, a := 0xc, b := 0x21, c := 0x79, ep := 3 })
    ∧ decode 0x3AA3800003000000 = .ok (.vldh { d := 0x51, a := 0x60, rdc := 3 })
    ∧ decode 0x3BA5880400000040 = .ok (.vsth { d := 0x52, a := 0x62, epD := 1, off := 0x40 })
    ∧ decode 0x3CAB022300180000 = .ok (.vset 0x0C { d := 0x55, a := 0x40, b := 0x44, ep := 3 })
    ∧ decode 0x3DF6406300000000 = .ok (.mset { d := 0x7b, a := 0x10, b := 0xc, ep := 3 }) := by
  and_intros <;> rfl

theorem test_decode_tile_words :
      decode 0x40A1C28F4B60C00F =
        .ok (.tmma { d := 0x50, a := 0x70, b := 0x51, ep := 7, tfn := 4, popA := 1, k := 3,
                     savA := 1, savB := 2, sat := 1, noRec := 1, imm := 0xf })
    ∧ decode 0x41A14BB81400002F = .ok (.tmms { d := 0x50, a := 0x52, b := 0x77, tfn := 1, popB := 1, imm := 0x2f })
    ∧ decode 0x42A34A9B000300FF = .ok (.tadd { d := 0x51, a := 0x52, b := 0x53, ep := 3, rnd := 3, imm := 0xff })
    ∧ decode 0x43A34A9800028000 = .ok (.temul { d := 0x51, a := 0x52, b := 0x53, rnd := 2, sat := 1 })
    ∧ decode 0x44A3C40148000000 = .ok (.tact { d := 0x51, a := 0x71, ep := 1, tfn := 4, popA := 1 })
    ∧ decode 0x45A37C0001000000 = .ok (.ttrn { d := 0x51, a := 0x5f, k := 1 })
    ∧ decode 0x46A3C8003000003F = .ok (.tred { d := 0x51, a := 0x72, tfn := 3, imm := 0x3f })
    ∧ decode 0x47A34C0000090001 = .ok (.tcvt { d := 0x51, a := 0x53, had := 2, rnd := 1, imm := 1 })
    ∧ decode 0x48A34C0000C00000 = .ok (.tsmx { d := 0x51, a := 0x53, savA := 3 })
    ∧ decode 0x49BE000000004000 = .ok (.tzero { d := 0x5f, noRec := 1 })
    ∧ decode 0x4A10FC0100000000 = .ok (.tfmt { d := 8, a := 0x3f, ep := 1 }) := by
  and_intros <;> rfl

theorem test_decode_record_words :
      decode 0x5001100100000000 = .ok (.trec { a := 0x44, ep := 1 })
    ∧ decode 0x5000320300020000 = .ok (.tlogb { a := 0xc, b := 0x40, ep := 3 })
    ∧ decode 0x5010000000040000 = .ok (.tmark { d := 8 })
    ∧ decode 0x5001100100060000 = .ok (.trev { a := 0x44, ep := 1 })
    ∧ decode 0x50B6240100080000 = .ok (.tgmapView { d := 0x5b, a := 9, ep := 1 })
    ∧ decode 0x5000380100080000 = .ok (.tgmapDelta { a := 0xe, ep := 1 })
    ∧ decode 0x501C0000000A0000 = .ok (.tlstat { d := 0xe }) := by
  and_intros <;> rfl

theorem test_decode_copy_and_message_words :
      decode 0x58003203B4000000 = .ok (.cpy { a := 0xc, b := 0x40, c := 0x5a, ep := 3 })
    ∧ decode 0x58DE3A23B4020000 = .ok (.cpyh { d := 0x6f, a := 0xe, b := 0x44, c := 0x5a, ep := 3 })
    ∧ decode 0x58C2404BB4040000 = .ok (.cpym { d := 0x61, a := 0x10, b := 9, c := 0x5a, ep := 3 })
    ∧ decode 0x5900260300000000 = .ok (.send { a := 9, b := 0x40, ep := 3 })
    ∧ decode 0x59000000014A0000 = .ok (.sendChannel 0xA5 {})
    ∧ decode 0x5A7F104B00000000 = .ok (.recv { d := 0x3f, a := 0x44, b := 9, ep := 3 }) := by
  and_intros <;> rfl

theorem test_decode_task_and_event_words :
      decode 0x6000600189ABCDEF = .ok (.fork { a := 0x18, ep := 1, imm := 0x89abcdef })
    ∧ decode 0x61003A2300000000 = .ok (.join { a := 0xe, b := 0x44, ep := 3 })
    ∧ decode 0x6100000000020000 = .ok (.exit {})
    ∧ decode 0x6100000000040000 = .ok (.yield {})
    ∧ decode 0x61003A2712060000 = .ok (.waitq { a := 0xe, b := 0x44, c := 9, ep := 7 })
    ∧ decode 0x6201104B00000000 = .ok (.evwt { a := 0x44, b := 9, ep := 3 })
    ∧ decode 0x6200260300020000 = .ok (.evsig { a := 9, b := 0x40, ep := 3 })
    ∧ decode 0x6201022300040000 = .ok (.evbar { a := 0x40, b := 0x44, ep := 3 })
    ∧ decode 0x6201104B00060000 = .ok (.evlck { a := 0x44, b := 9, ep := 3 })
    ∧ decode 0x6200240100080000 = .ok (.evunl { a := 9, ep := 1 }) := by
  and_intros <;> rfl

/-- Words that the spec's worked fragments give (R10 to R14, R53, R146, R254, R279). -/
theorem test_decode_worked_words :
      decode 0x0208108800000001 = .ok (.addwi { d := 4, a := 4, imm := 1 })
    ∧ decode 0x020C010000000064 = .ok (.movi { d := 6, imm := 100 })
    ∧ decode 0x010E182800000000 = .ok (.add { d := 7, a := 6, b := 5 })
    ∧ decode 0x03105180B2000010 = .ok (.ld { d := 8, a := 20, ord := 1, scope := 4, size := 2, evict := 6, rdc := 2, off := 16 })
    ∧ decode 0x06021000FFFFFFFE = .ok (.bne { a := 4, off := 0xFFFFFFFE })
    ∧ decode 0x0112200900000000 = .ok (.add { d := 9, a := 8, b := 1, ep := 1 })
    ∧ decode 0x30A7469000020000 = .ok (.vadd { d := 83, a := 81, b := 82, k := 1 })
    ∧ decode 0x40A9C3880C000000 = .ok (.tmma { d := 84, a := 112, b := 113, popA := 1, popB := 1 })
    ∧ decode 0x130A000000000022 = .ok (.csrr { d := 5, imm := 0x22 })
    ∧ decode 0x060A50A800000010 = .ok (.bgeb { a := 20, b := 21, off := 16 })
    ∧ decode 0x113C70E800000000 = .ok (.faddF32 { d := 30, a := 28, b := 29 })
    ∧ decode 0x053C400080000000 = .ok (.st { d := 30, a := 16, size := 2 })
    ∧ decode 0x1012285800000000 = .ok (.div { d := 9, a := 10, b := 11 })
    ∧ decode 0x1210240000600000 = .ok (.fcvt 0x30 { d := 8, a := 9 })
    ∧ decode 0x1010000000040000 = .ok (.rem { d := 8 })
    ∧ decode 0x50A03C0000080000 = .ok (.tgmapView { d := 80, a := 15 })
    ∧ decode 0x5000300000080000 = .ok (.tgmapDelta { a := 12 })
    ∧ decode 0x5028000000040000 = .ok (.tmark { d := 20 })
    ∧ decode 0x6200100000020000 = .ok (.evsig { a := 4 })
    ∧ decode 0x31B15AB8005A0000 = .ok (.vhash { d := 88, a := 86, b := 87, k := 1 })
    ∧ decode 0x38B232C0F2000000 = .ok (.vgath { d := 89, a := 12, b := 88, c := 121 })
    ∧ decode 0x032E701080000000 = .ok (.ld { d := 23, a := 28, space := 2, size := 2 })
    ∧ decode 0x33A346A000180000 = .ok (.vperm { d := 81, a := 81, b := 84 })
    ∧ decode 0x28E0400000000000 = .ok (.qcfg { d := 112, a := 16 })
    ∧ decode 0x28C1C0E800020000 = .ok (.qrsv { d := 96, a := 112, b := 29 })
    ∧ decode 0x0900441000000051 = .ok (.trap { a := 17, imm := 0x51 })
    ∧ decode 0 = .error .unassignedMajor ∧ decode 0x1012285800000001 = .error .reservedBits
    ∧ decode 0x03105181B2000010 = .error .illegalField ∧ decode 0x1502000000000000 = .error .illegalField := by
  and_intros <;> rfl
/-! ## States to test on -/

/-- The state that an outcome gives. -/
def after : Outcome → State
  | .next t => t
  | _ => State.reset

/-- Slot 0 with a task at offset 0x1000, alone on the machine. -/
def task : Slot := { occupied := true, pc := 0x1000, cbase := 0x1000, cbound := 0x2000 }

def alone (sl : Slot) : State := State.reset.setSlot 0 sl

/-- Registers with their values, full and clean. -/
def words (l : List (Nat × Word)) : Assoc Reg := l.map (fun e => (e.1, { val := e.2 }))

def holding (l : List (Nat × Word)) : State := alone { task with regs := words l }

/-- A launch on die 0, with a handler image at offset 0x8000. -/
def launch : Launch :=
  { lid := 0, pk := 0, world := 0, prio := 0, dies := [0], codeBase := 0x1000, codeLen := 0x1000, handler := some (0x8000, 0x100)
    started := true, start := some 0 }

def launched (l : List (Nat × Word)) : State := { holding l with launches := [(0, launch)] }

/-- The word of an ADD at the task's program counter. -/
def fetching : State := (holding []).storeCode 0 0x010E182800000000

/-- Slot 0 in a translator run. -/
def translating (l : List (Nat × Word)) : State := alone { task with xlt := true, kmeter := 5, regs := words l }

/-- Two operations that go through one after the other. -/
theorem ok_then {α β : Type} {a : Except Stop (α × State)} {f : α → State → Except Stop (β × State)}
    (h : (match a with
      | .ok r => (match f r.1 r.2 with
        | .ok _ => true
        | .error _ => false)
      | .error _ => false) = true) : ∃ x s, a = .ok (x, s) ∧ ∃ y t, f x s = .ok (y, t) := by
  cases a with
  | error e => cases h
  | ok r =>
    cases hf : f r.1 r.2 with
    | error e => simp [hf] at h
    | ok q => exact ⟨r.1, r.2, rfl, q.1, q.2, hf⟩

/-! ## Encoding, steps and reset -/

theorem witness_DecodeInvertsEncode :
    Instr.wf (.add { d := 7, a := 6, b := 5 }) = true
      ∧ encode (.add { d := 7, a := 6, b := 5 }) = some 0x010E182800000000 := by and_intros <;> rfl

theorem witness_EncodeInvertsDecode :
    decode 0x010E182800000000 = .ok (.add { d := 7, a := 6, b := 5 })
      ∧ formOf ((0xFF00000000000000 : DWord).toNat / 2 ^ 56) = none := by and_intros <;> rfl

theorem witness_StepRunsTheDecodedInstruction_runs :
    let s := fetching
    let s1 : State := { s with cur := 0, turn := coreOfSlot 0, tried := 0 }
    s.frozen = false ∧ s.early = [] ∧ s.closing = false ∧ s.nextIssuer = some (0, 0)
      ∧ s1.me.fptrap = 0 ∧ s1.me.pc.toNat % 8 = 0 ∧ s1.me.cbase.toNat ≤ s1.me.pc.toNat
      ∧ s1.me.pc.toNat < s1.me.cbound.toNat ∧ s1.fetched 0 = true ∧ s1.me.xlt = false ∧ s1.emulationAt 0 = none
      ∧ decode (s1.codeWord s1.myDie s1.me.pc) = .ok (.add { d := 7, a := 6, b := 5 }) := by
  decide

/-- The word of empty memory is no instruction; the other slot's word has not come. -/
theorem witness_StepRunsTheDecodedInstruction_illegal :
    let s := (holding []).storeCode 0 0
    s.nextIssuer = some (0, 0) ∧ s.fetched 0 = true ∧ (holding []).nextIssuer = some (0, 0) ∧ (holding []).fetched 0 = false
      ∧ decode (s.codeWord s.myDie s.me.pc) = .error .unassignedMajor := by
  decide

/-- A pending landing FPTRAP; a program counter at the bound, below it and between words; a word that has not come; a
translator whose meter is exhausted; the first entry of a library. -/
theorem witness_StepRunsTheDecodedInstruction_before :
    (∀ sl ∈ [{ task with fptrap := 1 }, { task with pc := 0x2000 }, { task with pc := 0xFF8 }, { task with pc := 0x1004 }, task],
        let s := alone sl
        s.frozen = false ∧ s.early = [] ∧ s.closing = false ∧ s.nextIssuer = some (0, 0) ∧ s.fetched 0 = false)
      ∧ ({ task with fptrap := 1 } : Slot).mode = .task ∧ (0x1004 : Word).toNat % 8 ≠ 0
      ∧ (let s := (alone { task with xlt := true, kmeter := 0 }).storeCode 0 0
        s.nextIssuer = some (0, 0) ∧ s.fetched 0 = true ∧ s.me.xlt = true ∧ s.me.kmeter = 0)
      ∧ (let s := ({ alone task with launches := [(0, { launch with libLen := 0x1000 })] } : State).storeCode 0 0
        s.nextIssuer = some (0, 0) ∧ s.fetched 0 = true ∧ s.emulationAt 0 ≠ none) := by
  decide

theorem witness_StepRunsTheDecodedInstruction_else :
    let d : Due := { at_ := 0, step := .packetTake }
    State.reset.frozen = false ∧ State.reset.early = [] ∧ State.reset.closing = false ∧ State.reset.nextIssuer = none
      ∧ ({ State.reset with closing := true, agenda := [d] } : State).agenda = [d] ∧ d.at_ ≤ State.reset.cycle
      ∧ ({ State.reset with early := [d] } : State).early = [d] := by decide

theorem witness_EveryStepAnswers :
    State.reset.frozen = false ∧ ({ State.reset with frozen := true } : State).frozen = true := by decide

theorem witness_StepKeepsMemoryForm : fetching.canonical ∧ ∃ t, step fetching = .next t := by
  refine ⟨?_, ?_⟩
  · unfold State.canonical; decide
  · exact ⟨_, rfl⟩

theorem witness_RegisterInstructionFrame :
    ∃ t, writesOf (.add { d := 7, a := 6, b := 5 }) = some [7] ∧ exec (.add { d := 7, a := 6, b := 5 }) (holding []) = .next t
      ∧ t.me.retired ≠ (holding []).me.retired ∧ t.me.occupied = true :=
  ⟨_, rfl, rfl, by decide, by decide⟩

/-! ## Modes, operands and traps -/

theorem witness_ModesNarrowTheLegalSet :
    encode (.eret {}) = some 0x1500000000000000 ∧ 9 < (0x1500000000000000 : DWord).toNat / 2 ^ 56
      ∧ (translating []).me.xlt = true
      ∧ (holding []).me.xlt = false ∧ (holding []).me.mode = .task
      ∧ (csrWriteOf (.csrw { d := 1, a := 2, imm := 9 })).map Prod.fst = some { d := 1, a := 2, imm := 9 } := by
  decide

/-- g1 is empty; the source with its EP bit, the one without, and a destination. -/
theorem witness_EmptyOperands :
    let s := alone { task with regs := [(1, { full := false }), (63, { full := false })] }
    binaryOf (.add { d := 63, a := 1, b := 2, ep := 1 }) ≠ none ∧ modeLegal (.add { d := 63, a := 1, b := 2, ep := 1 }) s.me.xlt = true
      ∧ (s.me.reg 1).full = false ∧ (s.me.reg 2).full = true ∧ (s.me.reg 63).full = false := by
  decide

theorem witness_RegisterZero : (63 : Code).toNat < 64 ∧ (1 : Nat) ≠ (holding []).cur := by decide

theorem witness_SystemInstructions :
    let f : IForm := { a := 5, imm := 0x77 }
    let s := launched [(5, 3)]
    Ready (.trap f) [f.srcA] [] s ∧ s.take f.a = some ({ w := 3 }, s) ∧ modeLegal (.brk { imm := 3 }) s.me.xlt = true
      ∧ Handled s .break launch 0x8000 0x100 ∧ (translating []).me.xlt = true
      ∧ (alone { task with mode := .handler }).me.mode = .handler := by
  unfold Ready Handled
  decide

theorem witness_SystemInstructions_trap : ∃ t, traps (.brk { imm := 3 }) (launched []) .break 3 0 = .next t := ⟨_, rfl⟩

/-- The ring is empty, then the write lies just inside and just outside it. -/
theorem witness_KickWrites :
    let x : Queue := { nslot := 64, kick := 5, ridx := 5 }
    let s : State := { State.reset with queues := [(3, x)] }
    s.queue 3 = some x ∧ x.draining = false ∧ x.destroying = false
      ∧ (let behind := (x.kick.toNat + 2 ^ 32 - x.ridx.toNat) % 2 ^ 32
        (behind < ((69 : Word).toNat + 2 ^ 32 - x.ridx.toNat) % 2 ^ 32 ∧ ((69 : Word).toNat + 2 ^ 32 - x.ridx.toNat) % 2 ^ 32 ≤ x.nslot)
          ∧ ¬ (((70 : Word).toNat + 2 ^ 32 - x.ridx.toNat) % 2 ^ 32 ≤ x.nslot)
          ∧ ¬ (behind < ((5 : Word).toNat + 2 ^ 32 - x.ridx.toNat) % 2 ^ 32)) := by decide

theorem witness_TrapEntry_handled :
    Handled (launched []) .trap launch 0x8000 0x100 ∧ (0x8000 : Nat) < 2 ^ 32 ∧ (0x8000 : Nat) + 0x100 < 2 ^ 32 := by
  unfold Handled
  decide

theorem witness_TrapEntry_aborted :
    let l : Launch := { launch with handler := none }
    let s : State := { holding [] with launches := [(0, l)] }
    launchAt s .trap = some l ∧ l.lid = 0 ∧ (s.leaveFor s.cur .trap).launches.find 0 = some l ∧ l.ending = none
      ∧ s.me.xlt = false ∧ l.emulates s.me.pc = false ∧ l.handler = none := by
  decide

theorem witness_TrapsBeforeExecution :
    emulatedPair (.rem { d := 8 }) = true ∧ modeLegal (.rem { d := 8 }) (holding []).me.xlt = true
      ∧ (alone { task with fptrap := 1 }).me.fptrap ≠ 0 ∧ (alone { task with fptrap := 1 }).me.mode = .task
      ∧ ({ holding [] with subject := [(7 : DWord).toNat] } : State).subject = [(7 : DWord).toNat] := by decide


/-! ## Values that the rules' tables and worked cases give -/

/-- The word that a register of slot 0 holds after an instruction. -/
def got (i : Instr) (s : State) (code : Nat) : Nat := ((after (exec i s)).slot 0).reg code |>.val.toNat

/-- The pair that starts at a register of slot 0 after an instruction. -/
def gotPair (i : Instr) (s : State) (code : Nat) : Nat := got i s code + 2 ^ 32 * got i s (code + 1)

/-- The status flags of slot 0 after an instruction. -/
def flags (i : Instr) (s : State) : Nat := ((after (exec i s)).slot 0).fflags.toNat

/-- The program counter of slot 0 after an instruction. -/
def pcAfter (i : Instr) (s : State) : Nat := ((after (exec i s)).slot 0).pc.toNat

/-- R59: results wrap, a shift by 33 is a shift by 1, MULHB is the high word of the unsigned product. -/
theorem test_integer_results :
    let s := holding [(1, 0xFFFFFFFF), (2, 33), (3, 0x80000001)]
    let f : RForm := { d := 4, a := 1, b := 2 }
    let g : RForm := { d := 4, a := 3, b := 2 }
    got (.add f) s 4 = 32 ∧ got (.sub { f with a := 0 }) s 4 = 0xFFFFFFDF ∧ got (.shl g) s 4 = 2
      ∧ got (.shr g) s 4 = 0x40000000 ∧ got (.sra g) s 4 = 0xC0000000 ∧ got (.slt f) s 4 = 1 ∧ got (.sltb f) s 4 = 0
      ∧ got (.mulhb { f with b := 1 }) s 4 = 0xFFFFFFFE ∧ got (.mul { f with b := 1 }) s 4 = 1
      ∧ got (.min f) s 4 = 0xFFFFFFFF ∧ got (.minb f) s 4 = 33 ∧ got (.max f) s 4 = 33 ∧ got (.maxb f) s 4 = 0xFFFFFFFF
      ∧ got (.seq { f with b := 1 }) s 4 = 1 ∧ got (.xor { f with b := 3 }) s 4 = 0x7FFFFFFE := by decide

/-- R60: ADDWI extends its immediate by sign; SLTI compares by sign and SLTBI does not. -/
theorem test_immediate_results :
    let s := holding [(2, 5), (3, 1)]
    gotPair (.addwi { d := 4, a := 2, imm := 0xFFFFFFFA }) s 4 = 0xFFFFFFFF
      ∧ got (.slti { d := 4, a := 2, imm := 0xFFFFFFFA }) s 4 = 0 ∧ got (.sltbi { d := 4, a := 2, imm := 0xFFFFFFFA }) s 4 = 1
      ∧ got (.movi { d := 4, imm := 100 }) s 4 = 100 ∧ got (.srai { d := 4, a := 2, imm := 1 }) s 4 = 2 := by decide

/-- R25: a write to g0 is dropped. -/
theorem test_g0 : got (.movi { d := 0, imm := 7 }) (holding []) 0 = 0 := by decide

/-- The worked case of R63: BINS replaces four bits of g4 and BEXT reads them back. -/
theorem test_bit_fields :
    let s := holding [(4, 0xFFFFFFFF), (6, 0x408), (7, 5)]
    got (.bins { d := 4, a := 4, b := 6, c := 7 }) s 4 = 0xFFFFF5FF
      ∧ got (.bext { d := 8, a := 4, b := 6 }) (holding [(4, 0xFFFFF5FF), (6, 0x408)]) 8 = 5
      ∧ got (.bext { d := 8, a := 4, b := 6 }) (holding [(4, 0x90000000), (6, 0x81C)]) 8 = 9
      ∧ got (.bins { d := 8, a := 4, b := 6, c := 7 }) (holding [(4, 3), (6, 8), (7, 5)]) 8 = 3 := by decide

/-- R61: counts of bits, rotations, shifts of pairs, products of pairs and SEL. -/
theorem test_bit_counts :
    let s := holding [(1, 0x00010000), (2, 33), (4, 1), (5, 0x80000000), (6, 0xFFFFFFFF), (7, 0xFFFFFFFF)]
    got (.clz { d := 3, a := 1 }) s 3 = 15 ∧ got (.clz { d := 3, a := 0 }) s 3 = 32 ∧ got (.ctz { d := 3, a := 1 }) s 3 = 16
      ∧ got (.ctz { d := 3, a := 0 }) s 3 = 32 ∧ got (.popc { d := 3, a := 6 }) s 3 = 32
      ∧ got (.rotl { d := 3, a := 5, b := 2 }) s 3 = 1 ∧ got (.rotr { d := 3, a := 4, b := 2 }) s 3 = 0x80000000
      ∧ gotPair (.shlw { d := 8, a := 4, b := 2 }) s 8 = 0x200000000 ∧ gotPair (.shrw { d := 8, a := 4, b := 2 }) s 8 = 0x40000000
      ∧ gotPair (.sraw { d := 8, a := 4, b := 2 }) s 8 = 0xFFFFFFFFC0000000
      ∧ gotPair (.mulw { d := 8, a := 4, b := 6 }) s 8 = 0x7FFFFFFFFFFFFFFF
      ∧ gotPair (.mulwb { d := 8, a := 6, b := 6 }) s 8 = 0xFFFFFFFFFFFFFFFE
      ∧ got (.sltw { d := 3, a := 4, b := 6 }) s 3 = 1 ∧ got (.sltwb { d := 3, a := 6, b := 4 }) s 3 = 0
      ∧ got (.sel { d := 3, a := 1, b := 2, c := 0 }) s 3 = 33 ∧ got (.mulh { d := 3, a := 6, b := 4 }) s 3 = 0xFFFFFFFF := by
  decide

/-- The words that are owed to registers of slot 0 after an instruction. -/
def owedWords (i : Instr) (s : State) : List Nat :=
  ((after (exec i s)).slot 0).owed.flatMap (fun o => o.vals.map (fun v => v.w.toNat))

/-- The table of R62; the quotient is owed until cycle 18 (R63). -/
theorem test_division :
    let s := holding [(1, 0x80000000), (2, 0xFFFFFFFF), (3, 0xFFFFFFF9), (4, 2)]
    owedWords (.div { d := 5, a := 1, b := 2 }) s = [0x80000000] ∧ owedWords (.divb { d := 5, a := 1, b := 2 }) s = [0]
      ∧ owedWords (.div { d := 5, a := 3, b := 4 }) s = [0xFFFFFFFD] ∧ owedWords (.divb { d := 5, a := 3, b := 4 }) s = [0x7FFFFFFC]
      ∧ owedWords (.div { d := 5, a := 3, b := 0 }) s = [0xFFFFFFFF] ∧ owedWords (.divb { d := 5, a := 3, b := 0 }) s = [0xFFFFFFFF]
      ∧ ((after (exec (.div { d := 5, a := 1, b := 2 }) s)).slot 0 |>.reg 5).full = false
      ∧ (after (exec (.div { d := 5, a := 1, b := 2 }) s)).agenda.map Due.at_ = [18] := by decide

/-- The table after R68: 1.0 + 2^-24 is halfway, in each rounding mode, and raises NX. -/
theorem test_fadd_rounding :
    let s := holding [(2, 0x3F800000), (3, 0x33800000)]
    let f : RForm := { d := 4, a := 2, b := 3 }
    (List.range 5).map (fun m => got (.faddF32 { f with rnd := m }) s 4)
        = [0x3F800000, 0x3F800000, 0x3F800001, 0x3F800000, 0x3F800001]
      ∧ flags (.faddF32 f) s = flags (.faddF32 { f with rnd := 2 }) s ∧ flags (.faddF32 { f with b := 0 }) s = 0 := by decide

/-- R66 and R67: special operands. -/
theorem test_float_specials :
    let s := holding [(1, 0x3F800000), (2, 0xBF800000), (3, 0x80000000), (4, 0x7FC00001), (5, 0x7F800000), (6, 0x00000001)]
    got (.fdivF32 { d := 8, a := 2, b := 0 }) s 8 = 0xFF800000 ∧ got (.fsqrtF32 { d := 8, a := 3 }) s 8 = 0x80000000
      ∧ got (.faddF32 { d := 8, a := 1, b := 2 }) s 8 = 0 ∧ got (.faddF32 { d := 8, a := 1, b := 2, rnd := 3 }) s 8 = 0x80000000
      ∧ got (.fminF32 { d := 8, a := 3, b := 0 }) s 8 = 0x80000000 ∧ got (.fmaxF32 { d := 8, a := 4, b := 1 }) s 8 = 0x3F800000
      ∧ got (.fnegF32 { d := 8, a := 4 }) s 8 = 0xFFC00001 ∧ got (.fabsF32 { d := 8, a := 3 }) s 8 = 0
      ∧ got (.feqF32 { d := 8, a := 3, b := 0 }) s 8 = 1 ∧ got (.fltF32 { d := 8, a := 4, b := 1 }) s 8 = 0
      ∧ got (.fleF32 { d := 8, a := 2, b := 1 }) s 8 = 1 ∧ got (.fsubF32 { d := 8, a := 6, b := 6 }) s 8 = 0
      ∧ got (.fmulF32 { d := 8, a := 2, b := 5 }) s 8 = 0xFF800000
      ∧ got (.ffmaF32 { d := 8, a := 1, b := 2, c := 1 }) s 8 = 0 := by decide

/-- R68: one bit for each class. -/
theorem test_float_classes :
    (([0xFF800000, 0xBF800000, 0x80000001, 0x80000000, 0, 1, 0x3F800000, 0x7F800000, 0x7F800001, 0x7FC00000] : List Word).map
      (fun w => got (.fclsF32 { d := 8, a := 1 }) (holding [(1, w)]) 8)) = (List.range 10).map (2 ^ ·) := by decide

/-- The conversions of R70: 2.5 to s32 in each mode, −0.5 to b32, a NaN, and 1.0 to binary64. -/
theorem test_conversions :
    let s := holding [(6, 0x40200000), (1, 0xBF000000), (2, 0x7FC00000), (3, 0x3F800000)]
    (List.range 5).map (fun m => got (.fcvt 0x02 { d := 7, a := 6, rnd := m }) s 7) = [2, 2, 3, 2, 3]
      ∧ got (.fcvt 0x12 { d := 7, a := 1 }) s 7 = 0 ∧ got (.fcvt 0x02 { d := 7, a := 2 }) s 7 = 0
      ∧ gotPair (.fcvt 0x32 { d := 8, a := 3 }) s 8 = 0x3FF0000000000000
      ∧ got (.fcvt 0x42 { d := 7, a := 6 }) s 7 = 0x4100 ∧ got (.fcvt 0x52 { d := 7, a := 6 }) s 7 = 0x4020 := by decide

/-- FP64 forms work on pairs: 1.0 + 1.0, 1.0 − 2.0, and a comparison writes one register. -/
theorem test_double_results :
    let s := holding [(5, 0x3FF00000), (7, 0x40000000)]
    gotPair (.faddF64 { d := 2, a := 4, b := 4 }) s 2 = 0x4000000000000000
      ∧ gotPair (.fsubF64 { d := 2, a := 4, b := 6 }) s 2 = 0xBFF0000000000000
      ∧ got (.fltF64 { d := 3, a := 4, b := 6 }) s 3 = 1 ∧ got (.fclsF64 { d := 3, a := 4 }) s 3 = 64 := by decide

/-- R71: BNE goes back two words, BLT compares by sign and BLTB does not, JAL and JALR link. -/
theorem test_control_flow :
    let s := holding [(1, 0xFFFFFFFF), (2, 1), (3, 0x1801)]
    pcAfter (.bne { a := 1, b := 2, off := 0xFFFFFFFE }) s = 0xFF0 ∧ pcAfter (.beq { a := 1, b := 2, off := 4 }) s = 0x1008
      ∧ pcAfter (.blt { a := 1, b := 2, off := 4 }) s = 0x1020 ∧ pcAfter (.bltb { a := 1, b := 2, off := 4 }) s = 0x1008
      ∧ pcAfter (.bge { a := 1, b := 2, off := 4 }) s = 0x1008 ∧ pcAfter (.bgeb { a := 1, b := 2, off := 4 }) s = 0x1020
      ∧ got (.jal { d := 5, imm := 2 }) s 5 = 0x1008 ∧ pcAfter (.jal { d := 5, imm := 2 }) s = 0x1010 := by decide

/-- R75: TRAP enters the handler with the immediate in XVAL and g1 in XVAL2; ERET then goes back to XPC (R77). -/
theorem test_trap_and_return :
    let t := after (exec (.trap { a := 1, imm := 0x51 }) (launched [(1, 9)]))
    t.me.mode = .handler ∧ t.me.pc = 0x8000 ∧ t.me.xpc = 0x1000 ∧ t.me.xval = 0x51 ∧ t.me.xval2 = 9
      ∧ t.me.cbase = 0x8000 ∧ t.me.cbound = 0x8100
      ∧ (after (exec (.eret {}) t)).me.mode = .task ∧ (after (exec (.eret {}) t)).me.pc = 0x1000
      ∧ (after (exec (.eret {}) t)).me.cbase = 0x1000 := by decide

/-- R38 and R74: CSRW gives the old FRND and writes the new one; CSRS sets bits of FFLAGS and CSRC clears them. -/
theorem test_csr_values :
    let s := alone { task with frnd := 2, fflags := 5, regs := words [(1, 4), (2, 6)] }
    got (.csrr { d := 3, imm := 0x012 }) s 3 = 2 ∧ got (.csrw { d := 3, a := 1, imm := 0x012 }) s 3 = 2
      ∧ (after (exec (.csrw { d := 3, a := 1, imm := 0x012 }) s)).me.frnd = 4
      ∧ (after (exec (.csrs { d := 3, a := 2, imm := 0x010 }) s)).me.fflags = 7
      ∧ (after (exec (.csrc { d := 3, a := 2, imm := 0x010 }) s)).me.fflags = 1 := by decide

/-- The value that a load of the given form gives g4, from scratchpad bytes FE FF 7F 80 at address 0. -/
def loaded (i : Instr) : List Nat :=
  let s : State := { holding [] with scratch := [(0, memoryOf [0xFE, 0xFF, 0x7F, 0x80])] }
  let t := after (exec i s)
  let u := after (exec .loadValueLands { t with subject := [0, ((t.slot 0).accs.map (fun x => x.id)).headD 0] })
  [((t.slot 0).reg 4).full.toNat, ((u.slot 0).reg 4).val.toNat, ((u.slot 0).reg 4).full.toNat]

/-- R2, R84 and R97: bytes lie with the lowest first, LD extends by zero and LDS by sign, and the value lands later. -/
theorem test_loads :
    loaded (.ld { d := 4, a := 2, space := 1, size := 0 }) = [0, 0xFE, 1]
      ∧ loaded (.lds { d := 4, a := 2, space := 1, size := 0 }) = [0, 0xFFFFFFFE, 1]
      ∧ loaded (.ld { d := 4, a := 2, space := 1, size := 1, off := 2 }) = [0, 0x807F, 1]
      ∧ loaded (.lds { d := 4, a := 2, space := 1, size := 1, off := 2 }) = [0, 0xFFFF807F, 1]
      ∧ loaded (.ld { d := 4, a := 2, space := 1, size := 2 }) = [0, 0x807FFFFE, 1] := by decide

/-- Bytes of the window of slot 0 after a vector instruction and the landing of its result. -/
def lands (i : Instr) (s : State) (a n : Nat) : List Byte :=
  let t := after (exec i s)
  let u := after (exec .vectorWritesLand { t with subject := [0, (t.results.map (fun r => r.id)).headD 0] })
  ((u.memAt (.arena 0)).bytes a n)

/-- Two f32 elements 1.0 and 2.0 at v1, two f32 elements 2.0 and −1.0 at v2, two s32 elements at v3 and v4. -/
def lanes : State :=
  let v := fun (f : BitVec 4) (o : BitVec 16) => ({ fmt := f, cols1 := 1, stride := 8, off := o } : View)
  { alone { task with
      views := [(0, v 0 0), (1, v 0 8), (2, v 0 16), (3, v 8 24), (4, v 8 32), (5, v 8 40)]
      masks := [(1, { ky := 1, kx := 2 })] } with
    arena := [(0, memoryOf ([0, 0, 0, 0, 0, 0, 0, 0,  0, 0, 0x80, 0x3F, 0, 0, 0, 0x40,  0, 0, 0, 0x40, 0, 0, 0x80, 0xBF,
      0xFF, 0xFF, 0xFF, 0x7F, 0, 0, 0, 0x80,  1, 0, 0, 0, 0xFF, 0xFF, 0xFF, 0xFF]))] }

/-- R175, R181 and R183: sums and products of lanes; a masked lane keeps its bytes; SAT holds s32 sums at the format's ends. -/
theorem test_vector_lanes :
    lands (.vadd { d := 80, a := 81, b := 82 }) lanes 0 8 = [0, 0, 0x40, 0x40, 0, 0, 0x80, 0x3F]
      ∧ lands (.vadd { d := 80, a := 81, b := 82, k := 1 }) lanes 0 8 = [0, 0, 0, 0, 0, 0, 0x80, 0x3F]
      ∧ lands (.vmul { d := 80, a := 81, b := 82 }) lanes 0 8 = [0, 0, 0, 0x40, 0, 0, 0, 0xC0]
      ∧ lands (.vsub { d := 80, a := 81, b := 82 }) lanes 0 8 = [0, 0, 0x80, 0xBF, 0, 0, 0x40, 0x40]
      ∧ lands (.viadd { d := 85, a := 83, b := 84 }) lanes 40 8 = [0, 0, 0, 0x80, 0xFF, 0xFF, 0xFF, 0x7F]
      ∧ lands (.viadd { d := 85, a := 83, b := 84, sat := 1, sign := 1 }) lanes 40 8 = [0xFF, 0xFF, 0xFF, 0x7F, 0, 0, 0, 0x80] := by
  decide
/-! ## Scalar instructions -/

theorem witness_IntegerResults_binary :
    let f : RForm := { d := 3, a := 1, b := 2 }
    let s := holding [(1, 5), (2, 0xFFFFFFFF)]
    (binaryOf (.add f)).map Prod.fst = some f ∧ Ready (.add f) [f.srcA, f.srcB] [f.dst] s
      ∧ s.take f.a = some ({ w := 5 }, s) ∧ s.take f.b = some ({ w := 0xFFFFFFFF }, s) ∧ Open s f.d := by
  unfold Ready Open; decide

theorem witness_IntegerResults_unary_ternary :
    let f : RForm := { d := 3, a := 1, b := 2, c := 4 }
    let s := holding [(1, 5)]
    (unaryOf (.clz f)).map Prod.fst = some f ∧ Ready (.clz f) [f.srcA] [f.dst] s
      ∧ (ternaryOf (.sel f)).map Prod.fst = some f ∧ Ready (.sel f) [f.srcA, f.srcB, f.srcC] [f.dst] s
      ∧ s.take f.a = some ({ w := 5 }, s) ∧ s.take f.b = some ({}, s) ∧ s.take f.c = some ({}, s) ∧ Open s f.d := by
  unfold Ready Open; decide

theorem witness_IntegerResults_immediate :
    let f : IForm := { d := 2, a := 4, imm := 31 }
    let s := holding [(4, 5)]
    (immediateOf (.shli f)).map Prod.fst = some f ∧ Instr.wf (.shli f) = true ∧ Ready (.shli f) [f.srcA] [f.dst] s
      ∧ s.take f.a = some ({ w := 5 }, s) ∧ Open s f.d
      ∧ Instr.wf (.addwi f) = true ∧ Ready (.addwi f) [f.srcA 2] [f.dst 2] s ∧ Ready (.movi f) [] [f.dst] s := by
  unfold Ready Open; decide

theorem witness_PairResults :
    let f : RForm := { d := 2, a := 4, b := 6 }
    let s := holding [(4, 5)]
    (pairOf (.addw f)).map Prod.fst = some f ∧ Instr.wf (.addw f) = true ∧ Ready (.addw f) [f.srcA 2, f.srcB 2] [f.dst 2] s
      ∧ (pairTestOf (.sltw f)).map Prod.fst = some f ∧ Ready (.sltw f) [f.srcA 2, f.srcB 2] [f.dst] s ∧ Open s f.d
      ∧ (pairShiftOf (.sraw f)).map Prod.fst = some f ∧ Instr.wf (.sraw f) = true
      ∧ Ready (.sraw f) [f.srcA 2, f.srcB] [f.dst 2] s ∧ s.take f.b = some ({}, s) := by
  unfold Ready Open; decide

theorem witness_Division :
    let f : RForm := { d := 3, a := 1, b := 2 }
    let s := holding [(1, 5)]
    let o : Owed := { id := 7, index := 3, vals := [{ w := 1 }] }
    let t : State := { alone { task with owed := [o] } with subject := [0, o.id] }
    (quotientOf (.div f)).map Prod.fst = some f ∧ Instr.wf (.div f) = true ∧ Ready (.div f) [f.srcA, f.srcB] [f.dst] s
      ∧ s.take f.a = some ({ w := 5 }, s) ∧ s.take f.b = some ({}, s)
      ∧ t.subject = [0, o.id] ∧ (t.slot 0).owed.find? (fun x => x.id == o.id) = some o ∧ (t.slot 0).draining = false := by
  unfold Ready; decide

theorem witness_FloatResults_f32 :
    let f : RForm := { d := 3, a := 1, b := 2, c := 4 }
    let s := holding [(1, 0x3F800000)]
    fp32 (.faddF32 f) = some (0, f) ∧ (floatBinary f32 0).isSome = true ∧ Ready (.faddF32 f) [f.srcA, f.srcB] [f.dst] s
      ∧ s.take f.a = some ({ w := 0x3F800000 }, s) ∧ s.take f.b = some ({}, s) ∧ Open s f.d ∧ Quiet s false 1
      ∧ fp32 (.fsqrtF32 f) = some (5, f) ∧ (floatUnary f32 5).isSome = true ∧ Ready (.fsqrtF32 f) [f.srcA] [f.dst] s
      ∧ Ready (.ffmaF32 f) [f.srcA, f.srcB, f.srcC] [f.dst] s ∧ s.take f.c = some ({}, s) := by
  unfold Ready Open Quiet; decide

theorem witness_FloatResults_f64 :
    let f : RForm := { d := 2, a := 4, b := 6, c := 8 }
    let s := holding [(5, 0x3FF00000)]
    fp64 (.faddF64 f) = some (0, f) ∧ (floatBinary f64 0).isSome = true ∧ Instr.wf (.faddF64 { f with c := 0 }) = true
      ∧ Ready (.faddF64 f) [f.srcA 2, f.srcB 2] [f.dst (if oneWord 0 then 1 else 2)] s
      ∧ fp64 (.fclsF64 f) = some (13, f) ∧ Instr.wf (.fclsF64 { f with b := 0, c := 0 }) = true
      ∧ Ready (.fclsF64 f) [f.srcA 2] [f.dst (if oneWord 13 then 1 else 2)] s ∧ Open s f.d ∧ Quiet s false 1
      ∧ Instr.wf (.ffmaF64 f) = true ∧ Ready (.ffmaF64 f) [f.srcA 2, f.srcB 2, f.srcC 2] [f.dst 2] s := by
  unfold Ready Open Quiet; decide

theorem witness_FloatResults_fcvt :
    let f : RForm := { d := 8, a := 9 }
    let s := holding [(9, 5)]
    Instr.wf (.fcvt 0x30 f) = true ∧ Ready (.fcvt 0x30 f) [f.srcA 1] [f.dst 2] s ∧ fcvtWide 3 = true
      ∧ s.take f.a = some ({ w := 5 }, s) ∧ Quiet s false 0 := by
  unfold Ready Quiet; decide

/-- One third is inexact, and NX is enabled. -/
theorem witness_FloatResults_fptrap :
    let f : RForm := { d := 3, a := 1, b := 2 }
    let s := alone { task with fenable := 31, regs := words [(1, 0x3F800000), (2, 0x40400000)] }
    fp32 (.fdivF32 f) = some (4, f) ∧ Ready (.fdivF32 f) [f.srcA, f.srcB] [f.dst] s
      ∧ s.take f.a = some ({ w := 0x3F800000 }, s) ∧ s.take f.b = some ({ w := 0x40400000 }, s)
      ∧ (((floatBinary f32 4).getD (fun _ _ _ => (0, 0))) (roundMode s.me f.rnd) 0x3F800000 0x40400000).2 &&& s.me.fenable ≠ 0 := by
  unfold Ready; decide

/-- The root of minus 1 is invalid; fused sums, an FP64 sum and 2^24 + 1 in fp32 are inexact. -/
theorem witness_FloatResults_fptrap_forms :
    let f : RForm := { d := 4, a := 6, b := 8, c := 10 }
    let s := alone { task with
      fenable := 31, regs := words [(6, 0xBF800000), (7, 0x3FF00000), (8, 0x40400001), (9, 0x3FE00000),
        (10, 0x3F800001), (11, 0x3FF00000)] }
    let n := alone { task with fenable := 31, regs := words [(6, 0x01000001)] }
    let rnd := roundMode s.me f.rnd
    fp32 (.fsqrtF32 f) = some (5, f) ∧ Ready (.fsqrtF32 f) [f.srcA] [f.dst] s ∧ s.take f.a = some ({ w := 0xBF800000 }, s)
      ∧ (((floatUnary f32 5).getD (fun _ _ => (0, 0))) rnd 0xBF800000).2 &&& s.me.fenable ≠ 0
      ∧ Ready (.ffmaF32 f) [f.srcA, f.srcB, f.srcC] [f.dst] s ∧ s.take f.b = some ({ w := 0x40400001 }, s)
      ∧ s.take f.c = some ({ w := 0x3F800001 }, s)
      ∧ (f32.round rnd false (fmaExact rnd (f32.decode 0xBF800000) (f32.decode 0x40400001) (f32.decode 0x3F800001))).2
          &&& s.me.fenable ≠ 0
      ∧ fp64 (.faddF64 f) = some (0, f) ∧ Ready (.faddF64 f) [f.srcA 2, f.srcB 2] [f.dst (if oneWord 0 then 1 else 2)] s
      ∧ ((s.me.pair 6).poison || (s.me.pair 8).poison) = false
      ∧ (((floatBinary f64 0).getD (fun _ _ _ => (0, 0))) rnd (s.me.pair 6).w.toNat (s.me.pair 8).w.toNat).2 &&& s.me.fenable ≠ 0
      ∧ Ready (.ffmaF64 f) [f.srcA 2, f.srcB 2, f.srcC 2] [f.dst 2] s
      ∧ (f64.round rnd false (fmaExact rnd (f64.decode (s.me.pair 6).w.toNat) (f64.decode (s.me.pair 8).w.toNat)
          (f64.decode (s.me.pair 10).w.toNat))).2 &&& s.me.fenable ≠ 0
      ∧ Ready (.fcvt 0x20 f) [f.srcA (if fcvtWide 0 then 2 else 1)] [f.dst (if fcvtWide 2 then 2 else 1)] n
      ∧ n.take f.a = some ({ w := 0x01000001 }, n)
      ∧ (fcvt 2 0 (roundMode n.me f.rnd) 0x01000001).2 &&& n.me.fenable ≠ 0 := by
  unfold Ready; decide

theorem witness_ControlFlow :
    let f : BForm := { a := 1, b := 2, off := 0xFFFFFFFE }
    let s := holding [(1, 5)]
    let p := alone { task with regs := [(1, { poison := true })] }
    (branchOf (.bne f)).map Prod.fst = some f ∧ Ready (.bne f) (branchSources f) [] s
      ∧ s.take f.a = some ({ w := 5 }, s) ∧ s.take f.b = some ({}, s)
      ∧ Ready (.bne f) (branchSources f) [] p ∧ p.take f.a = some ({ poison := true }, p)
      ∧ Ready (.jal { d := 63 }) [] [({ d := 63 } : IForm).dst] s ∧ Open s 63
      ∧ Ready (.jalr { d := 63, a := 1 }) [({ a := 1 } : IForm).srcA] [({ d := 63 } : IForm).dst] s
      ∧ modeLegal (.nop {}) s.me.xlt = true ∧ modeLegal (.yield {}) s.me.xlt = true := by
  unfold Ready Open; decide

/-- A plain register, the low word of a counter, and its latched high word. -/
theorem witness_CsrInstructions_reads :
    let s := holding []
    let t := alone { task with latched := [(0x030, some 9)] }
    Ready (.csrr { d := 3, imm := 0x010 }) [] [({ d := 3 } : IForm).dst] s ∧ Open s 3 ∧ csrAccess s.me.mode 0x010 ≠ .none
      ∧ csrWaits s 0x010 false = false ∧ latchLow 0x010 = false ∧ s.me.latched.get latchedDefault (0x010 - 1) = none
      ∧ latchLow 0x030 = true ∧ csrAccess s.me.mode 0x030 ≠ .none
      ∧ Ready (.csrr { d := 3, imm := 0x031 }) [] [({ d := 3 } : IForm).dst] t ∧ Open t 3 ∧ csrAccess t.me.mode 0x031 ≠ .none
      ∧ latchLow (0x031 - 1) = true ∧ t.me.latched.get latchedDefault (0x031 - 1) = some 9 := by
  unfold Ready Open; decide

/-- FRND takes 4, the last rounding mode that exists. -/
theorem witness_CsrInstructions_writes :
    let f : IForm := { d := 3, a := 1, imm := 0x012 }
    let s := holding [(1, 4)]
    (csrWriteOf (.csrw f)).map Prod.fst = some f ∧ Ready (.csrw f) [f.srcA] [f.dst] s ∧ csrAccess s.me.mode 0x012 = .write
      ∧ csrWaits s 0x012 true = false ∧ readCsr 0x012 s = .ok (0, s) ∧ s.take f.a = some ({ w := 4 }, s)
      ∧ (4 : Word).toNat % 8 ≤ 4 ∧ Open (s.setMe (s.me.setCsr 0x012 4)) f.d := by
  unfold Ready Open; decide

/-- A trap register in task mode and a read-only one; the flags while a span is owed; a poisoned source; TRC.SUSP and the
first rounding mode that does not exist. -/
theorem witness_CsrInstructions_traps :
    let f := fun (n : Word) => ({ d := 3, a := 1, imm := n } : IForm)
    let s := holding [(1, 5)]
    let x : Span := { id := 9, slot := 0, core := 0, window := 0, lo := 0, hi := 4, held := false }
    let t : State := { s with spans := [x] }
    let p := alone { task with regs := [(1, { poison := true })] }
    let u := holding [(1, 2)]
    csrOf (.csrw (f 1)) = some (f 1, true) ∧ modeLegal (.csrw (f 1)) s.me.xlt = true ∧ csrAccess s.me.mode 1 = .none
      ∧ csrOf (.csrs (f 0x20)) = some (f 0x20, true) ∧ csrAccess s.me.mode 0x20 = .read
      ∧ csrOf (.csrr { d := 3, imm := 0x010 }) = some ({ d := 3, imm := 0x010 }, false) ∧ csrAccess t.me.mode 0x010 = .write
      ∧ Ready (.csrr { d := 3, imm := 0x010 }) [] [({ d := 3 } : IForm).dst] t ∧ csrWaits t 0x010 false = true
      ∧ Ready (.csrw (f 0x010)) [(f 0x010).srcA] [(f 0x010).dst] t ∧ csrWaits t 0x010 true = true
      ∧ (∀ n ∈ [0x060, 0x012], ∀ v ∈ [s, p, u], Ready (.csrw (f (BitVec.ofNat 32 n))) [(f 0).srcA] [(f 0).dst] v
        ∧ csrAccess v.me.mode n = .write ∧ csrWaits v n true = false ∧ readCsr n v = .ok (0, v))
      ∧ s.take 1 = some ({ w := 5 }, s) ∧ 5 ≤ (5 : Word).toNat % 8
      ∧ p.take 1 = some ({ poison := true }, p)
      ∧ u.take 1 = some ({ w := 2 }, u) ∧ (2 : Word).getLsbD 1 ≠ (0 : Word).getLsbD 1 := by
  unfold Ready; decide

/-! ## Memory -/

theorem witness_LoadsAndStoresIssue_load :
    let f : MForm := { d := 4, a := 2, space := 1, size := 3 }
    let s := holding [(2, 0x7FFF8)]
    loadOf (.ld f) = some (f, false) ∧ Instr.wf (.ld f) = true ∧ Ready (.ld f) [f.srcA] [{ code := f.d, n := f.regs }] s
      ∧ Aligned s f
      ∧ target f.d f.space.toNat (addressIn s f) f.bytes false s = .ok ([{ place := .scratchpad 0, off := 0x7FFF8, len := 8 }], s) := by
  unfold Ready Aligned; decide

theorem witness_LoadsAndStoresIssue_store :
    let f : MForm := { d := 4, a := 2, space := 1, size := 3, off := 0xFFFFF8 }
    let s := holding [(2, 8), (4, 1), (5, 2)]
    Ready (.st f) [f.srcA, f.srcD f.regs] [] s ∧ readData f.d f.regs s = .ok ([{ w := 1 }, { w := 2 }], s) ∧ Aligned s f
      ∧ target f.d f.space.toNat (addressIn s f) f.bytes true s = .ok ([{ place := .scratchpad 0, off := 0, len := 8 }], s) := by
  unfold Ready Aligned; decide

theorem witness_LoadsLand :
    let x : Acc := { id := 9, kind := .load, pieces := [{ place := .scratchpad 0, off := 0, len := 4 }], dest := .regs 3 1 4 false }
    let s : State := { alone { task with accs := [x] } with subject := [0, 9] }
    s.subject = [0, x.id] ∧ (s.slot 0).accs.find? (fun y => y.id == x.id) = some x ∧ (s.slot 0).draining = false
      ∧ 0 < (loadedValues 1 4 false (x.got.getD ((s.forceBefore 0 x).readPieces 0 x.evict x.rdc x.pieces).1)).length := by decide

/-- A store of four bytes to a place of one byte behind the sector border, and to DRAM. -/
def storing (p : Place) : Acc :=
  { id := 9, kind := .store, pieces := [{ place := p, off := 64, len := 4 }], data := [1, 2, 3, 4] }

theorem witness_StoresPerformed :
    let s := fun p => ({ alone { task with accs := [storing p] } with subject := [0, 9] } : State)
    (∀ p ∈ [Place.scratchpad 0, .dram], (s p).subject = [0, (storing p).id]
      ∧ ((s p).slot 0).accs.find? (fun y => y.id == 9) = some (storing p) ∧ (storing p).data.length = 4
      ∧ (storing p).localDone = false ∧ Unordered { s p with draws := (s p).draws + 1 } 0 (storing p))
      ∧ Place.cached (.scratchpad 0) = false ∧ Place.cached .dram = true ∧ 64 % 256 + 4 ≤ 256 := by
  unfold Unordered; decide

theorem witness_Atomics_issue :
    let f : MForm := { d := 4, a := 2, space := 1, size := 2 }
    let s := holding [(2, 0x100), (4, 7)]
    (atomicOf (.atom f)).map Atomic.f = some f ∧ s.me.hostOp = none
      ∧ Ready (.atom f) [f.srcA, f.srcD 1] [{ code := f.d, n := 1 }] s ∧ readData f.d 1 s = .ok ([{ w := 7 }], s) ∧ Aligned s f
      ∧ OutsideWindows s f
      ∧ target f.d f.space.toNat (addressIn s f) f.bytes true s = .ok ([{ place := .scratchpad 0, off := 0x100, len := 4 }], s)
      ∧ Place.scratchpad 0 ≠ .host ∧ s.me.fullFrom f.d.toNat 1 = true := by
  unfold Ready Aligned OutsideWindows; decide

/-- An answered host atomic. -/
def hostOp : HostOp :=
  { id := 9, va := 0x100, piece := { place := .host, off := 0x100, len := 4 }, kind := .op 0 0, operand := [1, 0, 0, 0]
    compare := [], poison := false, ord := 0, scope := 0 }

theorem witness_Atomics_host_answer :
    let op := { hostOp with answer := some (.ok, [7, 0, 0, 0], false) }
    let s := alone { task with hostOp := some op }
    let f : MForm := { d := 4, a := 2, size := 2 }
    (atomicOf (.atom f)).map Atomic.f = some f ∧ modeLegal (.atom f) s.me.xlt = true ∧ s.me.hostOp = some op
      ∧ op.answer = some (.ok, [7, 0, 0, 0], false) := by decide

/-- A page of device DRAM and a host page, both in the micro-TLB of core 0. -/
def devicePage : TlbEntry := { core := some 0, die := 0, world := 0, pasid := none, va := 0, size := 0x1000,
                               base := 0, r := true, w := true }
def hostPage : TlbEntry := { devicePage with pasid := some 1, va := 0x1000, base := 0x5000 }

/-- Slot 0 under a launch with PASID 1. -/
def paged (l : List (Nat × Word)) : State :=
  { holding l with tlb := [devicePage, hostPage], launches := [(0, { launch with pasid := some 1 })] }

theorem witness_Atomics_host_request :
    let f : MForm := { d := 4, a := 2, size := 2 }
    let s := paged [(2, 0x1010), (4, 7)]
    (atomicOf (.atom f)).map Atomic.f = some f ∧ s.me.hostOp = none
      ∧ Ready (.atom f) [f.srcA, f.srcD 1] [{ code := f.d, n := 1 }] s ∧ readData f.d 1 s = .ok ([{ w := 7 }], s) ∧ Aligned s f
      ∧ OutsideWindows s f
      ∧ target f.d f.space.toNat (addressIn s f) f.bytes true s = .ok ([{ place := .host, off := 0x5010, len := 4 }], s)
      ∧ hostAtomic (.op f.evict f.rdc) = true ∧ s.intervalWorlds.contains (s.die s.myDie).wid = false := by
  unfold Ready Aligned OutsideWindows; decide

theorem witness_Atomics_performed :
    let x : Acc := { id := 9, kind := .atomic (.op 0 0) [1, 0, 0, 0] [] false, pieces := [{ place := .scratchpad 0, off := 0, len := 4 }]
                     dest := .regs 3 1 4 false }
    let s : State := { alone { task with accs := [x] } with subject := [0, 9] }
    s.subject = [0, x.id] ∧ (s.slot 0).accs.find? (fun y => y.id == x.id) = some x ∧ x.got = none
      ∧ Place.cached (.scratchpad 0) = false ∧ (s.slot 0).draining = false ∧ Unordered s 0 x
      ∧ (loadedValues 1 4 false ((s.memAt (.scratchpad 0)).bytes 0 4, (s.memAt (.scratchpad 0)).poisonIn 0 4)).length = 1 := by
  unfold Unordered; decide

/-- A state with a reduction window at address 0, whose home is this package or package 5. -/
def windowed (home : Nat) : State := { paged [(4, 7)] with worlds := [(0, { windows := [(0, 0x1000, home)] })] }

/-- An ATOM at the first byte of each window. -/
theorem witness_Reductions_issue :
    let f : MForm := { d := 4, a := 2, scope := 5, size := 2 }
    (windowed 0).pkgid.toNat = 0 ∧ ∀ home ∈ [0, 5], let s := windowed home
      Ready (.atom f) [f.srcA, f.srcD f.regs] [{ code := f.d, n := f.regs }] s
      ∧ readData f.d f.regs s = .ok ([{ w := 7 }], s) ∧ Aligned s f
      ∧ s.redWindow 0 (addressIn s f) = some (0, 0x1000, home) ∧ s.unreachable.contains home = false
      ∧ translateMe (addressIn s f) true s = .ok ((.dram, 0), s) ∧ s.me.fullFrom f.d.toNat f.regs = true ∧ s.me.hostOp = none := by
  unfold Ready Aligned; decide

/-- A contribution to four bytes at the start of DRAM, on its way and held. -/
def contribution (id : Nat) (held : Bool) : Contribution :=
  { id := id, world := 0, va := 0, piece := some { place := .dram, off := 0, len := 4 }, home := 0, len := 4, type := 0, fn := 0
    operand := [1, 0, 0, 0], poison := false, parts := [(0, id)], held := held }

theorem witness_Reductions_merge :
    let s : State := { alone { task with accs := [{ id := 4, kind := .reduction 0 0 [], dest := .regs 5 1 4 false }] } with
      contributions := [contribution 3 true, contribution 4 false], subject := [0, 4, 4] }
    let t : State := { State.reset with contributions := [contribution 4 false], subject := [0, 4, 4] }
    let u : State := { State.reset with contributions := [contribution 3 true], subject := [3] }
    s.subject = [0, 4, 4] ∧ s.contributions.find? (fun c => c.id == 4) = some (contribution 4 false)
      ∧ (s.contributions.filter (fun x => x.held)).find? (fun x => x.matches (contribution 4 false) && x.open_ s.cycle)
        = some (contribution 3 true)
      ∧ s.unreachable.contains 0 = false ∧ (s.contributions.filter (fun x => x.held)).length < 4096
      ∧ (s.slot 0).accs.find? (fun y => y.id == 4) = some { id := 4, kind := .reduction 0 0 [], dest := .regs 5 1 4 false }
      ∧ (s.slot 0).draining = false ∧ (loadedValues 1 4 false (bytesOfWord 8 0, false)).length = 1
      ∧ (t.contributions.filter (fun x => x.held)).find? (fun x => x.matches (contribution 4 false) && x.open_ t.cycle) = none
      ∧ u.contributions.find? (fun c => c.id == 3 && c.held) = some (contribution 3 true) ∧ u.pathsDown.has 0 = false
      ∧ (contribution 3 true).piece = some { place := .dram, off := 0, len := 4 } := by decide

/-- The combine buffer is full. -/
theorem witness_Reductions_full :
    let s : State := { State.reset with
      contributions := contribution 4 false :: List.replicate 4096 (contribution 3 true), subject := [0, 4, 4] }
    s.contributions.find? (fun c => c.id == 4) = some (contribution 4 false) ∧ (contribution 4 false).held = false
      ∧ 4096 ≤ (s.contributions.filter (fun x => x.held)).length ∧ s.pathsDown.has 0 = false := by
  refine ⟨rfl, rfl, ?_, rfl⟩
  have h : (contribution 4 false :: List.replicate 4096 (contribution 3 true)).filter (fun x => x.held)
      = List.replicate 4096 (contribution 3 true) := by
    rw [List.filter_cons_of_neg (by decide), List.filter_eq_self.2]
    intro x hx; rw [List.eq_of_mem_replicate hx]; rfl
  show 4096 ≤ ((contribution 4 false :: List.replicate 4096 (contribution 3 true)).filter (fun x => x.held)).length
  rw [h, List.length_replicate]

theorem witness_FenceAndPrefetch :
    let f : MForm := { a := 2 }
    let s := paged []
    let t := holding []
    modeLegal (.fence { ord := 3, scope := 5 }) s.me.xlt = true ∧ s.me.accs.any Acc.isReduction = false
      ∧ Ready (.pref f) [f.srcA] [] t ∧ (t.me.pair 2).poison = false ∧ (t.prefTarget (addressIn t f)).1 = none
      ∧ Ready (.pref f) [f.srcA] [] s ∧ s.prefTarget (addressIn s f) = (some (.dram, 0), s) := by
  unfold Ready; decide

/-- A poisoned base, one byte past alignment, and the first byte past the scratchpad, the cluster window and the arena: for
a load, a store and an atomic. -/
theorem witness_AddressTraps :
    ∀ space ∈ ([1, 2, 3] : List (BitVec 2)),
      let f : MForm := { d := 4, a := 2, space := space, size := 2 }
      let bound := ((spaceBound space.toNat).getD (0, 0)).1
      ∀ s ∈ [holding [(2, 3)], holding [(2, BitVec.ofNat 32 bound)], alone { task with regs := [(2, { poison := true })] }],
        (addressedOf (.ld f) = some (f, 0, 1) ∧ DataRead (.ld f) f 0 1 s s)
        ∧ (addressedOf (.st f) = some (f, 1, 0) ∧ DataRead (.st f) f 1 0 s s)
        ∧ (space ≠ 3 → addressedOf (.atom f) = some (f, 1, 1) ∧ DataRead (.atom f) f 1 1 s s)
        ∧ ((s.me.pair 2).poison = true ∨ addressIn s f % f.bytes ≠ 0
          ∨ Aligned s f ∧ spaceBound space.toNat ≠ none ∧ bound ≤ addressIn s f) := by
  intro space hs f bound s h
  fin_cases hs <;> fin_cases h <;>
    refine ⟨⟨rfl, by decide, ⟨by decide, rfl⟩, by decide, rfl⟩, ⟨rfl, by decide, ⟨by decide, rfl⟩, by decide, _, rfl⟩, ?_, ?_⟩
  all_goals first
    | exact fun _ => ⟨rfl, by decide, ⟨by decide, rfl⟩, fun _ => rfl, _, rfl⟩
    | (unfold Aligned; decide)
    | (intro h; exact absurd rfl h)

/-! ## Tiles, handles and rings -/

/-- The last tile that a scratchpad holds, and one at the top of the global space. -/
theorem witness_TilesAreCreated :
    let f : RForm := { d := 96, a := 2, b := 4 }
    let s := holding [(2, 0x7FFC0), (4, 64)]
    let t := holding [(2, 0xFFFFFFC0), (3, 0x00FFFFFF), (4, 64)]
    newTileOf (.hnew f) = some (f, false) ∧ newTileOf (.hnewSp f) = some (f, true)
      ∧ Ready (.hnewSp f) [f.srcA 2, f.srcB] [] s ∧ s.take f.b = some ({ w := 64 }, s)
      ∧ Ready (.hnew f) [f.srcA 2, f.srcB] [] t ∧ t.take f.b = some ({ w := 64 }, t)
      ∧ (s.me.pair 2).poison = false ∧ FreeHandle s f.d ∧ FreeHandle s (f.d + 1)
      ∧ TileFits true (s.me.pair 2).w.toNat 64 ∧ TileFits false (t.me.pair 2).w.toNat 64
      ∧ s.entriesFree s.myDie 1 = true := by
  unfold Ready FreeHandle TileFits; decide

/-- Entry 1 of die 0: a tile of 64 bytes of core 0's scratchpad. -/
def tile (st : TileState) : Entry :=
  { used := true, base := 0x100, scratch := true, core := 0, len := 64, state := st, fill := st == .open, sees := 1 }

/-- The words of its handles; their check value is whatever the device computes (R127). -/
def tileBody (kind : Nat) : DWord := handleBody kind 0 0 1 0

/-- Its fill handle stands in h0 and its see handle in h1. -/
def tiled (st : TileState) : State :=
  { alone { task with handles := [(0, withCheck 0 (tileBody kindFill)), (1, withCheck 0 (tileBody kindSee))] } with
    launches := [(0, launch)], dies := [(0, { handles := [(1, tile st)] })] }

/-- What hget answers for a word that has its check value, and whose other fields are live. -/
theorem hget_checked {s : State} {code : Code} {want : Want} {b : DWord} (hc : s.me.handleAt code = withCheck 0 b)
    (h : ((s.die s.myDie).wid == 0 && handleKind b != 0 && want.ok (handleKind b) && (s.entry (handleEntry b)).used
      && (s.entry (handleEntry b)).gen == handleGen b && (s.die (handleDie b)).wid == 0 && handlePkg b == s.pkgid
      && (handleKind b == kindSee || (s.entry (handleEntry b)).fill)) = true) :
    hget code want s = .ok (withCheck 0 b, s) := by
  simp only [Bool.and_eq_true, beq_iff_eq, bne_iff_ne] at h
  obtain ⟨⟨⟨⟨⟨⟨⟨hw, hk⟩, hwant⟩, hu⟩, hg⟩, hd⟩, hp⟩, hf⟩ := h
  rw [← hc]
  apply hget_ok
  · rw [hc]; simpa using hk
  · rw [hc, hw, State.stale_withCheck]; cases hf' : (handleKind b == kindSee) <;> simp_all
  · rw [hc]; simpa using hwant

theorem tiled_see (st : TileState) (want : Want) (h : want ≠ .fill) :
    hget 97 want (tiled st) = .ok (withCheck 0 (tileBody kindSee), tiled st) := by
  cases want <;> first | exact absurd rfl h | (cases st <;> exact hget_checked rfl (by decide))

theorem tiled_fill (want : Want) (h : want ≠ .see) :
    hget 96 want (tiled .open) = .ok (withCheck 0 (tileBody kindFill), tiled .open) := by
  cases want <;> first | exact absurd rfl h | exact hget_checked rfl (by decide)

theorem witness_HandleRegisters :
    let s := tiled .open
    modeLegal (.hcopy { d := 98, a := 97 }) s.me.xlt = true ∧ FreeHandle s 98
      ∧ hget 97 .live s = .ok (withCheck 0 (tileBody kindSee), s) ∧ handleKind (withCheck 0 (tileBody kindSee)) = kindSee
      ∧ hget 96 .live s = .ok (withCheck 0 (tileBody kindFill), s) ∧ handleKind (withCheck 0 (tileBody kindFill)) ≠ kindSee
      ∧ Instr.wf (.hinfo { d := 2, a := 97 }) = true ∧ Ready (.hinfo { d := 2, a := 97 }) [] [({ d := 2 } : RForm).dst 2] s
      ∧ s.stale (s.die s.myDie).wid (s.me.handleAt 97) = false := by
  refine ⟨by decide, ?_, tiled_see _ _ (by decide), by rw [handleKind_withCheck]; decide, tiled_fill _ (by decide),
    by rw [handleKind_withCheck]; decide, by decide, ?_, ?_⟩
  · unfold FreeHandle; decide
  · exact ⟨by decide, rfl⟩
  · show State.stale _ 0 (withCheck 0 (tileBody kindSee)) = false
    rw [State.stale_withCheck]; rfl

theorem tiled_home (st : TileState) (kind : Nat) (h : kind = kindFill ∨ kind = kindSee) :
    (tiled st).away (withCheck 0 (tileBody kind)) = false := by
  rw [State.away_withCheck]
  rcases h with rfl | rfl <;> rfl

theorem tiled_entry (st : TileState) (kind : Nat) (h : kind = kindFill ∨ kind = kindSee) :
    (tiled st).wordEntry (withCheck 0 (tileBody kind)) = tile st := by
  rw [State.wordEntry, if_neg (by rw [tiled_home _ _ h]; decide), handleEntry_withCheck]
  rcases h with rfl | rfl <;> cases st <;> decide

/-- Published and abandoned in an earlier cycle, and still open, without and with the EP bit. -/
theorem witness_HandleRegisters_wait :
    (∀ st, modeLegal (.hwait { a := 97 }) (tiled st).me.xlt = true
        ∧ hget 97 .see (tiled st) = .ok (withCheck 0 (tileBody kindSee), tiled st)
        ∧ ((tiled st).wordEntry (withCheck 0 (tileBody kindSee))).state = st
        ∧ ((tiled st).wordEntry (withCheck 0 (tileBody kindSee))).settled = none)
      ∧ (1 : BitVec 3).getLsbD 0 = true := by
  refine ⟨fun st => ⟨by cases st <;> rfl, tiled_see st _ (by decide), ?_, ?_⟩, by decide⟩ <;> rw [tiled_entry _ _ (.inr rfl)] <;> rfl

theorem witness_HandleMessages_send :
    let f : RForm := { a := 96, b := 2, c := 3 }
    let s := tiled .open
    Ready (.hsend f) [f.srcB, f.srcC] [] s ∧ s.take f.b = some ({}, s) ∧ s.take f.c = some ({}, s)
      ∧ hget f.a .live s = .ok (withCheck 0 (tileBody kindFill), s) ∧ DestWellFormed 0 0
      ∧ s.destLive (s.die s.myDie).wid (handleDest 0 0) = true ∧ s.sendQueueFull = false := by
  refine ⟨⟨by decide, rfl⟩, rfl, rfl, tiled_fill _ (by decide), ?_, by decide, by decide⟩
  · unfold DestWellFormed; decide

theorem witness_HandleMessages_receive :
    let f : RForm := { d := 96, a := 2 }
    let m : Msg := { kind := .handle 7 0 }
    let s : State := { holding [] with cores := [(0, { inbox := [m] })] }
    let t := holding []
    Ready (.hrecv f) [f.srcA] [] s ∧ s.take f.a = some ({}, s) ∧ FreeHandle s f.d
      ∧ (s.core s.myCore).handleMsg (slotNumber s.cur) = some 0 ∧ (s.core s.myCore).inbox[0]? = some m
      ∧ Ready (.hrecv f) [f.srcA] [] t ∧ t.take f.a = some ({}, t) ∧ FreeHandle t f.d
      ∧ (t.core t.myCore).handleMsg (slotNumber t.cur) = none := by
  unfold Ready FreeHandle; decide

/-- The last four bytes of a published tile, and the first four of an open one. -/
theorem witness_HandleAccesses :
    let f : MForm := { d := 4, a := 97, size := 2, off := 60 }
    let g : MForm := { d := 4, a := 96, size := 2 }
    let s := tiled .published
    let t := tiled .open
    Ready (.hld f) [] [{ code := f.d, n := f.regs }] s ∧ hget f.a .live s = .ok (withCheck 0 (tileBody kindSee), s)
      ∧ s.away (withCheck 0 (tileBody kindSee)) = false ∧ t.away (withCheck 0 (tileBody kindFill)) = false
      ∧ handleEntry (tileBody kindSee) = 1 ∧ Seen s 1 ∧ s.membersOf 1 = [1] ∧ InTile f (s.entry 1).len.toNat
      ∧ tileTarget 1 60 4 false s = .ok ([{ place := .scratchpad 0, off := 0x13C, len := 4 }], s)
      ∧ s.me.fullFrom f.d.toNat f.regs = true
      ∧ Ready (.hst g) [g.srcD g.regs] [] t ∧ readData g.d g.regs t = .ok ([{}], t)
      ∧ hget g.a .fill t = .ok (withCheck 0 (tileBody kindFill), t) ∧ InTile g (sharedLength t [1])
      ∧ tileTargets 0 4 true [1] t = .ok ([{ place := .scratchpad 0, off := 0x100, len := 4 }], t) := by
  refine ⟨⟨by decide, rfl⟩, tiled_see _ _ (by decide), tiled_home _ _ (.inr rfl), tiled_home _ _ (.inl rfl),
    by decide, ?_, by decide, ?_, rfl, by decide, ⟨by decide, rfl⟩, rfl,
    tiled_fill _ (by decide), ?_, rfl⟩
  · unfold Seen; decide
  · unfold InTile; decide
  · unfold InTile; decide

/-- A ring of two slots in q0 with its entries 1 and 2; a slot of it is reserved, or not. -/
def ring (res : Nat) : Ring :=
  { configured := true, base := 0x100, slotBytes := 64, nslot := 2, t := res, res := res
    slots := [(0, { entry := 1, held := decide (0 < res) }), (1, { entry := 2 })] }

def ringed (r : Ring) : State :=
  { alone { task with rings := [(0, r)] } with
    dies := [(0, { handles := [(1, { tile .published with ring := some (0, 0, 0) }), (2, { tile .open with ring := some (0, 0, 1) })] })] }

theorem witness_Rings_unconfigure :
    let f : RForm := { d := 112, a := 16 }
    let s := ringed (ring 0)
    Ready (.qcfg f) (f.srcA 8).each [] s ∧ (s.me.regsFrom f.a.toNat 8).all (fun v => !v.poison) = true
      ∧ s.ringEmpty (s.me.ring (ringNumber f.d)) = true ∧ (s.me.regsFrom f.a.toNat 8).all (fun v => v.w == 0) = true := by
  unfold Ready; decide

/-- A ring of two slots that ends at the last byte of the scratchpad. -/
theorem witness_Rings_configure :
    let f : RForm := { d := 112, a := 16 }
    let s := holding [(16, 0x7FF80), (17, 64), (18, 2)]
    let vs := s.me.regsFrom f.a.toNat 8
    Ready (.qcfg f) (f.srcA 8).each [] s ∧ vs.all (fun v => !v.poison) = true ∧ s.ringEmpty (s.me.ring (ringNumber f.d)) = true
      ∧ vs.all (fun v => v.w == 0) = false
      ∧ ∃ r, parseRing (fun i => (vs.getD i {}).w) = some r ∧ r.nslot = 2 ∧ (r.link = false → s.ringClash s.cur 0 r = false)
        ∧ (s.deconfigure s.cur 0).entriesFree s.myDie r.nslot = true
        ∧ ∃ slots s2, ringEntries s.cur 0 r 0 r.nslot (s.deconfigure s.cur 0) = .ok (slots, s2) := by
  refine ⟨?_, by decide, by decide, by decide, _, rfl, by decide, by decide, by decide, ?_⟩
  · unfold Ready; decide
  · exact ⟨_, _, rfl⟩

theorem witness_Rings_reserve :
    let f : RForm := { d := 96, a := 112, b := 2 }
    let s := ringed (ring 0)
    Ready (.qrsv f) [f.srcB] [] s ∧ s.take f.b = some ({}, s) ∧ FreeHandle s f.d ∧ (s.me.ring 0).configured = true
      ∧ ((s.me.ring 0).targets s.cur 0).length ≤ 1 ∧ (∀ t ∈ (s.me.ring 0).targets s.cur 0, TailFree s t) := by
  unfold Ready FreeHandle TailFree; decide

/-- A link in q1 of slot 0 to ring 0 of slot 0 of cores 0 and 1 of the cluster. -/
theorem witness_Rings_reserve_joint :
    let f : RForm := { d := 96, a := 113, b := 2 }
    let l : Ring := { configured := true, link := true, members := 3 }
    let s : State := { ringed (ring 0) with slots := [(0, { task with rings := [(0, ring 0), (1, l)] }), (4, { rings := [(0, ring 0)] })] }
    let ts := (s.me.ring 1).targets s.cur 1
    Ready (.qrsv f) [f.srcB] [] s ∧ s.take f.b = some ({}, s) ∧ FreeHandle s f.d ∧ (s.me.ring 1).configured = true
      ∧ 1 < ts.length ∧ (∀ t ∈ ts, TailFree s t) ∧ s.entriesFree s.myDie 1 = true
      ∧ ∃ j s2, newEntry s.myDie (reserveAll s ts) = .ok (j, s2) := by
  refine ⟨?_, by decide, ?_, by decide, by decide, ?_, by decide, _, _, rfl⟩
  · unfold Ready; decide
  · unfold FreeHandle; decide
  · unfold TailFree; decide

theorem witness_Rings_pop_and_state :
    let s := ringed (ring 1)
    modeLegal (.qpop { d := 96, a := 112 }) s.me.xlt = true ∧ (s.me.ring 0).configured = true ∧ (s.me.ring 0).link = false
      ∧ 0 < (s.me.ring 0).res ∧ ((s.me.ring 0).slotAt (s.me.ring 0).h).broken = false ∧ FreeHandle s 96
        ∧ Instr.wf (.qstat { d := 2, a := 112 }) = true
      ∧ Ready (.qstat { d := 2, a := 112 }) [] [({ d := 2 } : RForm).dst 2] s := by
  unfold Ready FreeHandle; decide

/-- An access that begins before its tile, one that ends a byte past it, and a misaligned one inside. -/
theorem witness_HandleAccesses_traps :
    ∀ off ∈ ([-1, 61, 58] : List (BitVec 24)),
      let f : MForm := { d := 4, a := 97, size := 2, off := off }
      let g : MForm := { d := 4, a := 96, size := 2, off := off }
      let s := tiled .published
      let t := tiled .open
      (Ready (.hld f) [] [{ code := f.d, n := f.regs }] s ∧ hget f.a .live s = .ok (withCheck 0 (tileBody kindSee), s)
          ∧ Seen s 1 ∧ (s.entry ((s.membersOf 1).headD 0)).len.toNat = 64)
        ∧ (Ready (.hst g) [g.srcD g.regs] [] t ∧ readData g.d g.regs t = .ok ([{}], t)
          ∧ hget g.a .fill t = .ok (withCheck 0 (tileBody kindFill), t) ∧ sharedLength t (t.membersOf 1) = 64)
        ∧ (off.toInt < 0 ∨ 64 < off.toInt + f.bytes ∨ 0 ≤ off.toInt ∧ off.toInt + f.bytes ≤ 64 ∧ off.toInt % f.bytes ≠ 0) := by
  intro off h
  refine ⟨⟨?_, tiled_see _ _ (by decide), ?_, by decide⟩, ⟨?_, rfl, tiled_fill _ (by decide), by decide⟩, ?_⟩
  · fin_cases h <;> exact ⟨by decide, rfl⟩
  · unfold Seen; decide
  · fin_cases h <;> exact ⟨by decide, rfl⟩
  · fin_cases h <;> decide

/-- The words of a fill and a see handle of a tile of package 5, which can be reached or not. -/
def abroadBody (kind : Nat) : DWord := handleBody kind 5 0 1 0

def abroad (lost down : Bool) : State :=
  { alone { task with handles := [(0, withCheck 0 (abroadBody kindFill)), (1, withCheck 0 (abroadBody kindSee))] } with
    unreachable := if lost then [5] else [], pathsDown := if down then [(5, 0)] else [] }

theorem abroad_get (lost down : Bool) (n : Nat) (h : n < 2) (want : Want)
    (hw : want.ok (if n = 0 then kindFill else kindSee) = true) :
    hget (BitVec.ofNat 7 (96 + n)) want (abroad lost down)
      = .ok (withCheck 0 (abroadBody (if n = 0 then kindFill else kindSee)), abroad lost down) := by
  have e : (abroad lost down).me.handleAt (BitVec.ofNat 7 (96 + n))
      = withCheck 0 (abroadBody (if n = 0 then kindFill else kindSee)) := by
    interval_cases n <;> rfl
  have k : handleKind (abroadBody (if n = 0 then kindFill else kindSee)) = if n = 0 then kindFill else kindSee := by
    interval_cases n <;> rfl
  rw [← e]
  apply hget_ok
  · rw [e, handleKind_withCheck]
    interval_cases n <;> decide
  · rw [e]
    show State.stale _ 0 (withCheck 0 _) = false
    rw [State.stale_withCheck]
    interval_cases n <;> rfl
  · rw [e, handleKind_withCheck, k]; exact hw

theorem abroad_away (lost down : Bool) (k : Nat) (h : k = kindFill ∨ k = kindSee) :
    (abroad lost down).away (withCheck 0 (abroadBody k)) = true := by
  rw [State.away_withCheck]
  rcases h with rfl | rfl <;> rfl

/-- Loads and stores through the fill handle of a tile of another package: over a path that is up, one that is down, and to a
package that cannot be reached. -/
theorem witness_HandleAccesses_away :
    ∀ lost down, let f : MForm := { d := 4, a := 96, size := 2 }
      let s := abroad lost down
      let w := withCheck 0 (abroadBody kindFill)
      Ready (.hld f) [] [{ code := f.d, n := f.regs }] s ∧ hget f.a .live s = .ok (w, s) ∧ s.away w = true
        ∧ handleKind w ≠ kindSee ∧ s.me.fullFrom f.d.toNat f.regs = true
        ∧ Ready (.hst f) [f.srcD f.regs] [] s ∧ readData f.d f.regs s = .ok ([{}], s) ∧ hget f.a .fill s = .ok (w, s) := by
  intro lost down
  refine ⟨⟨?_, ?_⟩, abroad_get _ _ 0 (by decide) _ rfl, abroad_away _ _ _ (.inl rfl),
    by rw [handleKind_withCheck]; decide, ?_, ⟨?_, ?_⟩, ?_,
    abroad_get _ _ 0 (by decide) _ rfl⟩ <;> cases lost <;> cases down <;> rfl

/-- HCOPY, HDROP and HINFO of handles of another package; HWAIT on a tile whose package cannot be reached, which is
abandoned. -/
theorem witness_HandleRegisters_away :
    let s := abroad true false
    let w := withCheck 0 (abroadBody kindSee)
    modeLegal (.hcopy { d := 98, a := 97 }) s.me.xlt = true ∧ hget 97 .live s = .ok (w, s) ∧ handleKind w = kindSee
      ∧ FreeHandle s 98 ∧ s.away w = true ∧ s.stale (s.die s.myDie).wid (s.me.handleAt 97) = false
      ∧ hget 97 .see s = .ok (w, s) ∧ (s.wordEntry w).state = .abandoned ∧ (s.wordEntry w).settled ≠ some s.cycle := by
  have ha : (abroad true false).away (withCheck 0 (abroadBody kindSee)) = true := abroad_away _ _ _ (.inr rfl)
  refine ⟨by decide, abroad_get _ _ 1 (by decide) _ rfl, by rw [handleKind_withCheck]; decide, ?_, ha, ?_,
    abroad_get _ _ 1 (by decide) _ rfl, ?_, ?_⟩
  · unfold FreeHandle; decide
  · show State.stale _ 0 (withCheck 0 (abroadBody kindSee)) = false
    rw [State.stale_withCheck]; rfl
  · rw [State.wordEntry, if_pos ha, State.awayEntry, State.awayLost, handlePkg_withCheck]; rfl
  · rw [State.wordEntry, if_pos ha]; exact fun h => nomatch h
/-! ## The vector unit -/

/-- Views v1 and v2 in f32, v3 in s32 and v4 in px8 (R31), of one element each. -/
def view (fmt : BitVec 4) (off : BitVec 16) : View := { fmt := fmt, off := off }

def viewed (regs : List (Nat × Word)) : State :=
  alone { task with regs := words regs, views := [(1, view 0 64), (2, view 0 128), (3, view 8 192), (4, view 5 256)] }

theorem witness_VectorElements_elementwise :
    let f : VForm := { d := 80, a := 81, b := 82 }
    let s := viewed []
    ∃ e fmts, elementwiseOf (.vadd f) = some e ∧ modeLegal (.vadd f) s.me.xlt = true ∧ elementChecks e.f e.op s = .ok (fmts, s)
      ∧ Silent s (flagsOf (s.elementRows e.f e.op (e.fn s))) := by
  refine ⟨_, _, rfl, by decide, rfl, ?_⟩
  unfold Silent; decide

theorem witness_VectorElements_moves :
    let f : VForm := { d := 80, a := 81 }
    let g : VForm := { d := 84, a := 84 }
    let s := viewed []
    modeLegal (.vmov f) s.me.xlt = true ∧ (s.me.view f.d).format ≠ fmtPx8 ∧ (elementChecks f (moveOp f) s).toOption.map Prod.snd = some s
      ∧ (s.me.view g.d).format = fmtPx8 ∧ px8Checks g s = .ok ((), s)
      ∧ moveChecks f (bcastShape f) s = .ok ((), s) ∧ moveChecks f (trnShape f) s = .ok ((), s) := by decide

theorem witness_VectorElements_lookups :
    let f : VForm := { d := 80, a := 83, b := 81 }
    let g : VForm := { d := 80, a := 81, b := 83 }
    let s := viewed []
    (lookupOf (.vlut f)).map Lookup.f = some f ∧ modeLegal (.vlut f) s.me.xlt = true
      ∧ (∀ x, lookupOf (.vlut f) = some x → lookupChecks x.f x.table x.index x.integer x.rowsOk s = .ok ((), s))
      ∧ (∀ x, lookupOf (.vperm g) = some x → lookupChecks x.f x.table x.index x.integer x.rowsOk s = .ok ((), s)) := by
  refine ⟨rfl, by decide, ?_, ?_⟩ <;> intro x h <;> cases h <;> rfl

theorem witness_VectorResults :
    let f : VForm := { d := 121, a := 81, b := 82 }
    let g : VForm := { d := 4, a := 81 }
    let h : VForm := { d := 83, a := 81 }
    let s := viewed []
    modeLegal (.vcmp 0 f) s.me.xlt = true ∧ (vcmpChecks 0 f s).toOption.map Prod.snd = some s
      ∧ Silent s (predicateFlags (s.vcmpBits 0 f))
      ∧ (reductionOf (.vrsum g)).map Reduction.f = some g
      ∧ reductionChecks g acceptReduce false s = .ok ((), s) ∧ s.me.fullFrom g.d.toNat (s.reducedRegs g false) = true
      ∧ Quiet s ((s.reducedElems g).any (fun y => y.2.poison))
        (reduceSum g (roundMode s.me g.rnd) (s.me.view g.a).format (s.reducedElems g)).flags
      ∧ vcvtChecks h s = .ok ((), s) ∧ Silent s (flagsOf (s.vcvtElems h)) := by
  unfold Silent Quiet; decide

theorem witness_VectorResults_land :
    let r : Result := { id := 9, slot := 0, core := 0, writes := [(0, 1)], regs := [(4, { w := 5 })] }
    let s : State := { viewed [] with results := [r], subject := [0, 9] }
    s.subject = [0, r.id] ∧ s.results.find? (fun x => x.id == r.id) = some r ∧ (s.slot 0).draining = false := by decide

/-- A view of 64 rows and 64 columns that fits, and one of no row. -/
theorem witness_ViewsAndMasks :
    let f : RForm := { d := 80, a := 2, b := 4 }
    let s := holding [(2, 0x01000000), (4, 0x4040)]
    let t := holding [(2, 0x01000000), (4, 0x4000)]
    let m : RForm := { d := 121, a := 2, b := 4 }
    Ready (.vset 0 f) [f.srcA, f.srcB] [] s ∧ s.take f.a = some ({ w := 0x01000000 }, s) ∧ s.take f.b = some ({ w := 0x4040 }, s)
      ∧ s.viewOwed f.d = false ∧ (shapeOf 0x01000000 0x4040).Fits 0
      ∧ Ready (.vset 0 f) [f.srcA, f.srcB] [] t ∧ t.take f.b = some ({ w := 0x4000 }, t) ∧ ¬ (shapeOf 0x01000000 0x4000).Fits 0
      ∧ Ready (.mset m) [m.srcA 2, m.srcB 2] [] s ∧ s.maskPending s.cur (maskNumber m.d) = false
      ∧ (s.me.pair 2).poison = false ∧ (s.me.pair 4).poison = false := by
  unfold Ready Shape.Fits; decide

/-- v5 in q4, three codes. -/
def nibbled : State := (viewed [(2, 0x100)]).setMe ((viewed [(2, 0x100)]).me.setView 85 { fmt := 12, off := 320, cols1 := 2 })

/-- The view unit with a page of DRAM. -/
def laned : State := { viewed [] with tlb := [devicePage] }

/-- Views of one element of four bytes, and q4 views of three codes, whose last byte moves one code. -/
theorem witness_VectorMemory_views :
    let f : MForm := { d := 81, a := 2, space := 1 }
    let q : MForm := { d := 85, a := 2, space := 1 }
    let s := viewed [(2, 0x100)]
    let t := nibbled
    let us : List (ViewPart × List Piece) := [({ rel := 0, len := 4, low := false }, [{ place := .scratchpad 0, off := 0x100, len := 4 }])]
    let qs : List (ViewPart × List Piece) := [({ rel := 0, len := 1, low := false }, [{ place := .scratchpad 0, off := 0x100, len := 1 }]),
      ({ rel := 1, len := 1, low := true }, [{ place := .scratchpad 0, off := 0x101, len := 1 }])]
    modeLegal (.vld f) s.me.xlt = true ∧ vectorReady [f.srcA] [{ code := f.d }] [] true s = .ok ((), s)
      ∧ (s.me.pair f.a.toNat).poison = false ∧ addressIn s f % fmtAlign (s.me.view f.d).format = 0
      ∧ us.map Prod.fst = unitsOf (s.me.view f.d)
      ∧ Placed (fun u => target f.d f.space.toNat ((addressIn s f + u.rel) % 2 ^ 64) u.len false) s us s
      ∧ modeLegal (.vst q) t.me.xlt = true ∧ vectorReady [q.srcA, q.srcD 1] [] [] false t = .ok ((), t)
      ∧ qs.map Prod.fst = unitsOf (t.me.view q.d) ∧ NibblesFit qs
      ∧ Placed (fun u => target q.d q.space.toNat ((addressIn t q + u.rel) % 2 ^ 64) u.len true) t qs t := by
  refine ⟨by decide, by decide, by decide, by decide, by decide, ⟨viewed [(2, 0x100)], by decide, rfl⟩, by decide, by decide,
    by decide, ?_, ⟨nibbled, by decide, nibbled, by decide, rfl⟩⟩
  unfold NibblesFit; decide

/-- v0 is one element of fp16 at offset 0; the tile's 64 bytes hold it. -/
theorem witness_VectorMemory_tiles :
    let f : MForm := { d := 80, a := 97 }
    let g : MForm := { d := 80, a := 96 }
    let s := tiled .published
    let t := tiled .open
    let us : List (ViewPart × List Piece) := [({ rel := 0, len := 4, low := false }, [{ place := .scratchpad 0, off := 0x100, len := 4 }])]
    vectorReady [] [{ code := f.d }] [] true s = .ok ((), s) ∧ hget f.a .live s = .ok (withCheck 0 (tileBody kindSee), s)
      ∧ s.away (withCheck 0 (tileBody kindSee)) = false ∧ t.away (withCheck 0 (tileBody kindFill)) = false ∧ Seen s 1
        ∧ f.off.toInt % fmtAlign (s.me.view f.d).format = 0 ∧ us.map Prod.fst = unitsOf (s.me.view f.d)
      ∧ (∀ u ∈ us, UnitInTiles s f ((s.membersOf 1).take 1) u.1)
      ∧ Placed (fun u => tileTargets (f.off.toInt + u.rel).toNat u.len false ((s.membersOf 1).take 1)) s us s
      ∧ vectorReady [g.srcD 1] [] [] false t = .ok ((), t) ∧ hget g.a .fill t = .ok (withCheck 0 (tileBody kindFill), t)
      ∧ NibblesFit us ∧ (∀ u ∈ us, UnitInTiles t g (t.membersOf 1) u.1)
      ∧ Placed (fun u => tileTargets (g.off.toInt + u.rel).toNat u.len true (t.membersOf 1)) t us t := by
  refine ⟨rfl, tiled_see _ _ (by decide), tiled_home _ _ (.inr rfl), tiled_home _ _ (.inl rfl), ?_, by decide,
    by decide, ?_, ⟨tiled .published, rfl, rfl⟩, rfl,
    tiled_fill _ (by decide), ?_, ?_, ⟨tiled .open, rfl, rfl⟩⟩
  · unfold Seen; decide
  · unfold UnitInTiles; decide
  · unfold NibblesFit; decide
  · unfold UnitInTiles; decide

/-- One active element, with an index of 0 from base 0; and none, under a mask that is empty. -/
theorem witness_VectorMemory_lanes :
    let f : RForm := { d := 81, a := 2, b := 83, c := 120 }
    let s := laned
    let xs : List (Lane × List Piece) := [({ i := 0, j := 0, index := 0, poison := false }, [{ place := .dram, off := 0, len := 4 }])]
    vectorReady [f.srcA 2, f.srcB] [{ code := f.d }] [maskNumber f.c] true s = .ok ((), s)
      ∧ vectorReady [f.srcA 2, f.srcB, { code := f.d }] [] [maskNumber f.c] false s = .ok ((), s) ∧ LanesFit s f
      ∧ xs.map Prod.fst = lanesOf s f
      ∧ (∀ w, Placed (fun x => globalTarget (laneAddress s f x) (laneBytes s f) w) s xs s) := by
  refine ⟨by decide, by decide, ?_, by decide, fun w => ⟨laned, ?_, rfl⟩⟩
  · unfold LanesFit LanesRead; decide
  · cases w <;> decide

theorem witness_VectorMemory_no_lanes :
    let f : RForm := { d := 81, a := 2, b := 83, c := 121 }
    let s : State := alone { task with views := (viewed []).me.views, masks := [(1, { ky := 0, kx := 0 })] }
    lanesOf s f = [] ∧ LanesFit s f := by
  refine ⟨by decide, ?_⟩
  unfold LanesFit LanesRead; decide

/-- A poisoned base, one byte past alignment, and an origin at the end of the scratchpad; the second of two units there. -/
theorem witness_VectorAddressTraps_views :
    let f : MForm := { d := 81, a := 2, space := 1 }
    let q : MForm := { d := 85, a := 2, space := 1 }
    (∀ s ∈ [viewed [(2, 0x101)], viewed [(2, 0x80000)], (viewed []).setMe { (viewed []).me with regs := [(2, { poison := true })] }],
        ViewReady (.vld f) f false s ∧ ViewReady (.vst f) f true s
          ∧ ((s.me.pair 2).poison = true ∨ addressIn s f % fmtAlign (s.me.view 81).format ≠ 0
            ∨ ((s.me.pair 2).poison = false ∧ addressIn s f % fmtAlign (s.me.view 81).format = 0
              ∧ unitsOf (s.me.view 81) = [{ rel := 0, len := 4, low := false }] ∧ 0x80000 ≤ addressIn s f)))
      ∧ (let s := nibbled.setMe { nibbled.me with regs := words [(2, 0x7FFFF)] }
        let u : ViewPart := { rel := 0, len := 1, low := false }
        ViewReady (.vst q) q true s ∧ unitsOf (s.me.view 85) = u :: [{ rel := 1, len := 1, low := true }]
          ∧ Placed (fun u => target q.d q.space.toNat ((addressIn s q + u.rel) % 2 ^ 64) u.len true) s
            [(u, [{ place := .scratchpad 0, off := 0x7FFFF, len := 1 }])] s
          ∧ 0x80000 ≤ (addressIn s q + 1) % 2 ^ 64) := by
  unfold ViewReady
  refine ⟨?_, ⟨by decide, .inr ⟨rfl, rfl, rfl⟩⟩, by decide, ⟨_, by decide, rfl⟩, by decide⟩
  intro s h
  fin_cases h <;>
    refine ⟨⟨by decide, .inl ⟨rfl, rfl, rfl⟩⟩, ⟨by decide, .inr ⟨rfl, rfl, rfl⟩⟩, by decide⟩

/-- A misaligned offset of a tile, and the first offset whose unit ends past it; through handles of another package, a unit over
a path that is down, and to a package that cannot be reached. -/
theorem witness_VectorAddressTraps_tiles :
    (∀ off ∈ ([2, 64] : List (BitVec 24)),
      let f : MForm := { d := 80, a := 97, off := off }
      let g : MForm := { d := 80, a := 96, off := off }
      let s := tiled .published
      let t := tiled .open
      let u : ViewPart := { rel := 0, len := 4, low := false }
      TileViewReady (.vldh f) f false (withCheck 0 (tileBody kindSee)) s
        ∧ TileViewReady (.vsth g) g true (withCheck 0 (tileBody kindFill)) t
        ∧ (off.toInt % fmtAlign (s.me.view f.d).format ≠ 0 ∨ unitsOf (s.me.view f.d) = [u]
          ∧ ¬ UnitInTiles s f (accessTiles s (withCheck 0 (tileBody kindSee)) false) u
          ∧ ¬ UnitInTiles t g (accessTiles t (withCheck 0 (tileBody kindFill)) true) u))
      ∧ (∀ lost, let s := abroad lost (!lost)
        let f : MForm := { d := 80, a := 96 }
        let w := withCheck 0 (abroadBody kindFill)
        TileViewReady (.vldh f) f false w s ∧ TileViewReady (.vsth f) f true w s ∧ s.away w = true
          ∧ unitsOf (s.me.view f.d) = [{ rel := 0, len := 4, low := false }]
          ∧ (s.awayLost w = true ∨ s.pathsDown.has (handlePkg w).toNat = true)) := by
  unfold TileViewReady
  refine ⟨fun off h => ⟨⟨?_, .inl ⟨rfl, rfl, ?_, tiled_see _ _ (by decide), fun _ => ?_⟩⟩,
    ⟨?_, .inr ⟨rfl, rfl, ?_, tiled_fill _ (by decide)⟩⟩, ?_⟩, fun lost => ⟨⟨?_, .inl ⟨rfl, rfl, ?_,
    abroad_get _ _ 0 (by decide) _ rfl, fun hk => ?_⟩⟩, ⟨?_, .inr ⟨rfl, rfl, ?_, abroad_get _ _ 0 (by decide) _ rfl⟩⟩,
    abroad_away _ _ _ (.inl rfl), ?_, ?_⟩⟩
  · fin_cases h <;> rfl
  · fin_cases h <;> rfl
  · rw [tiled_entry _ _ (.inr rfl)]; decide
  · fin_cases h <;> rfl
  · fin_cases h <;> rfl
  · simp only [accessTiles, handleEntry_withCheck, UnitInTiles]
    fin_cases h <;> decide
  · cases lost <;> rfl
  · cases lost <;> rfl
  · rw [handleKind_withCheck] at hk; exact absurd hk (by decide)
  · cases lost <;> rfl
  · cases lost <;> rfl
  · cases lost <;> rfl
  · rw [State.awayLost, handlePkg_withCheck]
    cases lost <;> decide

/-- An element whose base is one byte past alignment. -/
theorem witness_VectorAddressTraps_lanes :
    let f : RForm := { d := 81, a := 2, b := 83, c := 120 }
    let s := laned.setMe { laned.me with regs := words [(2, 1)] }
    let x : Lane := { i := 0, j := 0, index := 0, poison := false }
    LanesReady (.vgath f) f false s ∧ LanesReady (.vscat f) f true s ∧ lanesOf s f = [x] ∧ laneAddress s f x % laneBytes s f ≠ 0 := by
  unfold LanesReady LanesRead
  refine ⟨⟨by decide, by decide, .inl ⟨rfl, rfl, rfl⟩⟩, ⟨by decide, by decide, .inr ⟨rfl, rfl, rfl⟩⟩, by decide, by decide⟩
/-! ## The matrix unit and the log -/

theorem witness_TileInstructions :
    let f : TForm := { d := 80, a := 81, b := 82 }
    ∀ granted, let s := alone { task with granted := granted, views := [(1, view 0 64), (2, view 0 128)] }
      ∃ j plan s1, tileOf (.tadd f) = some (0x42, f) ∧ modeLegal (.tadd f) s.me.xlt = true ∧ tilePrep 0x42 f s = .ok (j, s)
        ∧ recordParks j (wordOf (.tadd f)) s = .ok ((), s) ∧ planRecord j (wordOf (.tadd f)) s = .ok (plan, s1)
        ∧ s.me.granted = granted := by
  intro f granted
  cases granted <;> exact ⟨_, _, _, rfl, by decide, rfl, by decide, rfl, by decide⟩

/-- Slot 0 asks for the unit with a TZERO. -/
def asking : State := (alone task).storeCode 0 0x49A0000000000000

/-- It asks alone, from a free unit and a busy one; no slot asks; its granted instruction is the next to issue. -/
theorem witness_MatrixUnit_grants :
    let s : State := { asking with subject := [0] }
    let t : State := { s with clusters := [(0, { matrixBusy := 9 })] }
    let g := s.setMe { s.me with granted := true }
    s.subject = [0] ∧ (s.cluster 0).matrixBusy ≤ s.cycle ∧ s.requests (slotOfCluster 0 0 0) = true
      ∧ t.cycle < (t.cluster 0).matrixBusy
      ∧ (∀ c < 4, ∀ i < 4, ({ alone task with subject := [0] } : State).requests (slotOfCluster 0 c i) = false)
      ∧ (g.slot 0).granted = true ∧ g.mayIssue 0 = true ∧ (∀ i < 4, (g.slot i).granted = true → i = 0)
      ∧ (∀ i, coreOfSlot i = coreOfSlot 0 → i < 4) ∧ g.tried = 0 ∧ g.nextIssuer = some (0, 0) := by
  refine ⟨rfl, by decide, by decide, by decide, by decide, by decide, by decide, by decide, fun i h => ?_, rfl, by decide⟩
  unfold coreOfSlot at h
  omega

theorem witness_MatrixUnit_land :
    let x : Result := { id := 9, slot := 0, core := 0, writes := [(0, 1)] }
    let s : State := { asking with results := [x], subject := [0, 9] }
    let r : Ring := { ring 0 with slots := [(0, { entry := 1, drain := true, readers := 1 }), (1, { entry := 2 })] }
    let t : State := { ringed r with
      subject := [0, 0, 0], dies := [(0, { handles := [(1, { tile .published with sees := 0 })] })] }
    s.subject = [0, x.id] ∧ s.results.find? (fun y => y.id == x.id) = some x ∧ (s.slot 0).draining = false
      ∧ t.subject = [0, 0, 0] ∧ ((t.slot 0).ring 0).slots.find 0 = some { entry := 1, drain := true, readers := 1 }
      ∧ (t.entry 1).fill = false ∧ (t.entry 1).sees = 0 := by decide

/-- The context word of three formats 0xC with FOLD, and one with a format 0xD. -/
theorem witness_TileControl_format :
    let f : RForm := { d := 4, a := 1 }
    let s := holding [(1, 0x1CCC)]
    let t := holding [(1, 0xD)]
    Ready (.tfmt f) [f.srcA] (if f.d = 0 then [] else [f.dst]) s ∧ s.take f.a = some ({ w := 0x1CCC }, s) ∧ ContextWord 0x1CCC
      ∧ Open (s.setMe { s.me with tfmt := 0x1CCC }) f.d
      ∧ Ready (.tfmt f) [f.srcA] (if f.d = 0 then [] else [f.dst]) t ∧ t.take f.a = some ({ w := 0xD }, t) ∧ ¬ ContextWord 0xD := by
  unfold Ready Open ContextWord; decide

/-- A log that ends where the global space does. -/
theorem witness_TileControl_log :
    let l : RForm := { a := 2, b := 4 }
    let u := holding [(2, 0xFFFFFFC0), (3, 0x00FFFFFF), (4, 64)]
    Ready (.trec { a := 1 }) [({ a := 1 } : RForm).srcA] [] u
      ∧ Ready (.tlogb l) [l.srcA 2, l.srcB] [] u ∧ u.take l.b = some ({ w := 64 }, u) ∧ (u.me.pair 2).poison = false
      ∧ (u.me.pair 2).w.toNat % 64 = 0 ∧ ((u.me.pair 2).w.toNat + 64 - 1) % 2 ^ 64 < 2 ^ 56 := by
  unfold Ready; decide

/-- The last gradient offset. -/
theorem witness_TileControl_reads_and_maps :
    let f : RForm := { d := 4 }
    let g : RForm := { d := 95, a := 1 }
    let v := holding [(1, 0xFFFC)]
    Ready (.tmark f) [] [f.dst] v ∧ Open v f.d ∧ Instr.wf (.tlstat f) = true ∧ Ready (.tlstat f) [] [f.dst 2] v
      ∧ Ready (.tgmapView g) [g.srcA] [] v ∧ v.take g.a = some ({ w := 0xFFFC }, v)
      ∧ Ready (.tgmapDelta { a := 2 }) [({ a := 2 } : RForm).srcA 2] [] v ∧ (v.me.pair 2).poison = false := by
  unfold Ready Open; decide

/-- One TZERO record at offset 0 of a log at address 0 (R245), and the slot with its log. -/
def log : List Byte :=
  [0x49A0000000000000, 0x1000, 0x5000000000000000, 0, 0, 0, 0xFFFFFFFFFFFFFFFF, 0xFFFFFFFF00000040].flatMap (fun w => bytesOfWord 8 w)

def reversing (tail : Word) (granted : Bool) (v : Option Reversal) : State :=
  { alone { task with tllim := 0x400, tltail := tail, trcur := if tail = 0 then 0xFFFFFFFF else 0, granted := granted, reversal := v } with
    tlb := [devicePage], dram := memoryOf log }

theorem witness_ReverseSteps_ends :
    let f : RForm := { a := 1 }
    let s := reversing 0 false none
    Ready (.trev f) [f.srcA] [] s ∧ s.take f.a = some ({}, s) ∧ MarkFits s {} ∧ s.me.reversal = none ∧ s.me.trcur = 0xFFFFFFFF := by
  unfold Ready MarkFits; decide

theorem witness_ReverseSteps_record :
    let f : RForm := { a := 1 }
    ∀ granted, let s := reversing 64 granted none
      Ready (.trev f) [f.srcA] [] s ∧ s.take f.a = some ({}, s) ∧ MarkFits s {} ∧ s.me.reversal = none
      ∧ s.me.trcur ≠ 0xFFFFFFFF ∧ (0 : Nat) ≤ s.me.trcur.toNat ∧ s.me.granted = granted
      ∧ ∃ p s2, planReverse s.me.trcur.toNat (suspended s) = .ok (p, s2) := by
  intro f granted
  refine ⟨?_, ?_, ?_, ?_, ?_, ?_, ?_, ?_⟩
  · cases granted <;> (unfold Ready; decide)
  · cases granted <;> decide
  · cases granted <;> (unfold MarkFits; decide)
  · cases granted <;> decide
  · cases granted <;> decide
  · exact Nat.zero_le _
  · cases granted <;> decide
  · cases granted <;> exact ⟨_, _, rfl⟩

theorem witness_ReverseSteps_second_request :
    let f : RForm := { a := 1 }
    let v : Reversal := { prev := 0xFFFFFFFF, occ := 4, grad := none, shares := [] }
    let s := reversing 64 true (some v)
    Ready (.trev f) [f.srcA] [] s ∧ s.take f.a = some ({}, s) ∧ MarkFits s {} ∧ s.me.reversal = some v ∧ s.me.granted = true := by
  unfold Ready MarkFits; decide

/-! ## Copies, messages, tasks and events -/

/-- A descriptor of one element of one byte, from DRAM address 0 to 0x40 (R222), at address 0x80. -/
def descriptor (dst : Nat) : List Byte :=
  bytesOfWord 8 0 ++ bytesOfWord 8 dst ++ [0, 1] ++ List.replicate 6 0 ++ [1] ++ List.replicate 103 0

/-- The data of the descriptor have arrived, or have not been asked for. -/
def copying (dst : Nat) (arrival : Option Nat) : State :=
  { tiled .open with
    slots := [(0, { (tiled .open).slot 0 with arrival := arrival, regs := words [(2, 0x80)] })]
    tlb := [devicePage], cycle := 100, dram := { cells := listed 0x80 (descriptor dst) } }

set_option maxRecDepth 8000 in
theorem witness_Copies_cpy :
    let f : RForm := { a := 2, b := 4 }
    let s := copying 0x40 (some 99)
    copyOf (.cpy f) = some (f, false, false) ∧ Ready (.cpy f) [f.srcA 2, f.srcB] [] s ∧ s.take f.b = some ({}, s)
      ∧ (s.me.pair 2).poison = false ∧ (s.me.pair 2).w.toNat = 0x80 ∧ FillOf false false f s 0 none
      ∧ (∃ s2, readAtIssue s f.a 0x80 2 s = .ok ((descriptor 0x40, false), s2) ∧ ((s2.cluster (myCluster s)).copyQueue).length < 16)
      ∧ CopyFits false none (descriptor 0x40) 0 := by
  refine ⟨rfl, ⟨by decide, rfl⟩, rfl, by decide, by decide, ?_, ⟨_, rfl, by decide⟩, ?_⟩
  · unfold FillOf; decide
  · unfold CopyFits; decide

set_option maxRecDepth 8000 in
theorem witness_Copies_cpyh :
    let f : RForm := { d := 96, a := 2, b := 4 }
    let s := copying 0 (some 99)
    copyOf (.cpyh f) = some (f, true, true) ∧ Ready (.cpyh f) [f.srcA 2, f.srcB] [] s
      ∧ FillOf true true f s (withCheck 0 (tileBody kindFill)) (some 64)
      ∧ (∃ s2, readAtIssue s f.a 0x80 2 s = .ok ((descriptor 0, false), s2)) ∧ CopyFits true (some 64) (descriptor 0) 0 := by
  refine ⟨rfl, ⟨by decide, rfl⟩, ?_, ⟨_, rfl⟩, ?_⟩
  · refine ⟨hget_checked rfl (by decide), fun _ h => ?_, ?_⟩
    · rw [handleKind_withCheck] at h; exact absurd h (by decide)
    · rw [State.away_withCheck, handleEntry_withCheck]; decide
  · unfold CopyFits; decide

theorem witness_Copies_waits :
    let f : RForm := { a := 2, b := 4 }
    let s := copying 0x40 none
    Ready (.cpy f) [f.srcA 2, f.srcB] [] s ∧ (∃ ps s2, lineTargets 0x80 2 s = .ok (ps, s2)) ∧ s.me.arrival = none :=
  ⟨⟨by decide, rfl⟩, ⟨_, _, rfl⟩, rfl⟩

def command : CopyCmd :=
  { id := 9, slot := 0, desc := parseDesc (descriptor 0x40), extra := 0, tag := 0, word := 0, seq := 3, lid := 0, pasid := none
    accepted := 0 }

def copyState (q : List CopyCmd) (r : List CopyRun) : State :=
  { launched [] with clusters := [(0, { copyQueue := q, copyRuns := r })], cores := [(0, { copies := [9] })], subject := [0, 9] }

theorem witness_Copies_runs :
    let s := copyState [command] []
    let r : CopyRun := { cmd := command, remaining := [(0, 1)] }
    let t := copyState [] [r]
    s.subject = [0, command.id] ∧ (s.cluster 0).copyQueue = [command] ∧ (s.cluster 0).copyRuns.length < 4
      ∧ (s.cluster 0).copyRuns.any CopyRun.blocked = false
      ∧ (t.cluster 0).copyRuns.find? (fun r => r.cmd.id == 9) = some r ∧ r.ended = false ∧ r.cmd.word = 0
      ∧ (t.launches.find r.cmd.lid).all (fun l => !l.saved) = true ∧ (t.core 0).copies.head? = some 9
      ∧ (t.core 0).inbox.length < 64 := by decide

/-- The outbox holds a word; the destination is this core. -/
def sending : State :=
  { alone { task with outbox := [{ w := 7 }] } with launches := [(0, { launch with routes := [(1, 0x8000000000000000)] })] }

theorem witness_Messages_send :
    let f : RForm := { a := 2, b := 4 }
    let s := sending
    Ready (.send f) [f.srcA, f.srcB] [] s ∧ s.take f.a = some ({}, s) ∧ s.take f.b = some ({}, s) ∧ s.me.outbox ≠ []
      ∧ s.destLive (s.die s.myDie).wid { remote := none, die := coordDie 0, y := coordY 0, x := coordX 0 } = true
      ∧ s.sendQueueFull = false := by
  unfold Ready; decide

theorem witness_Messages_send_channel :
    let s := sending
    let e := s.route s.cur 1
    let d := resolveRoute e s.myCore
    modeLegal (.sendChannel 1 {}) s.me.xlt = true ∧ e.getLsbD 63 = true ∧ s.me.outbox ≠ []
      ∧ s.destLive (s.die s.myDie).wid d = true ∧ s.sendQueueFull = false := by decide

theorem witness_Messages_receive :
    let f : RForm := { d := 4, a := 2, b := 6 }
    let m : Msg := { words := [{ w := 7 }] }
    let s : State := { holding [] with cores := [(0, { inbox := [m] })] }
    Instr.wf (.recv f) = true ∧ Ready (.recv f) [f.srcA, f.srcB] [f.dst] s ∧ s.take f.a = some ({}, s)
      ∧ s.take f.b = some ({}, s) ∧ Selected (s.core s.myCore) 0 0 m := by
  unfold Ready Selected; decide

theorem witness_Messages_arrive :
    let m : FlyingMsg := { id := 9, msg := { words := [{ w := 7 }] }, src := 0, dst := 5, lid := 0 }
    let s : State := { launched [] with flying := [m], subject := [9] }
    let w : PortWord := { val := { w := 7 }, arrived := false }
    let t : State := { launched [] with cores := [(1, { ports := [(3, [w])] })], subject := [1, 3] }
    s.subject = [m.id] ∧ s.flying.find? (fun x => x.id == m.id) = some m
      ∧ s.flying.all (fun x => decide (m.id ≤ x.id) || x.src != m.src || x.dst != m.dst || x.remote != m.remote) = true
      ∧ m.remote = none ∧ (s.launches.find m.lid).all (fun l => !l.saved) = true ∧ (s.core m.dst).inbox.length < 64
      ∧ ((t.core 1).port 3).findIdx? (fun x => !x.arrived) = some 0 ∧ ((t.core 1).port 3)[0]? = some w := by decide

/-- What another package sends to core 0: a message from world 0, one from a world that does not hold the die, and the drops
of a fill and a see handle. -/
theorem witness_Messages_arrive_from_afar :
    let s := fun (w : Nat) => ({ launched [] with subject := w :: 0 :: 0 :: 7 :: [1, 2] } : State)
    (s 1).portAccepts 1 (dieOfCore 0) = false ∧ (s 0).portAccepts 0 (dieOfCore 0) = true
      ∧ (s 0).launchAt 0 (dieOfCore 0) = some 0 ∧ ((s 0).launches.find 0).all (fun l => !l.saved) = true
      ∧ ((s 0).core 0).inbox.length < 64 := by decide

theorem witness_Messages_arrive_drops :
    ∀ kind, kind = kindFill ∨ kind = kindSee →
      let w := withCheck 0 (tileBody kind)
      let s : State := { tiled .open with subject := [0, 2, w.toNat, 1] }
      s.subject = [0, 2, w.toNat, 1] ∧ s.portAccepts 0 (handleDie w) = true ∧ s.away w = false ∧ s.stale 0 w = false
        ∧ handleKind w ≠ 0 := by
  intro kind h w s
  refine ⟨rfl, ?_, tiled_home .open kind h, ?_, ?_⟩
  · rw [handleDie_withCheck]; rcases h with rfl | rfl <;> decide
  · rw [State.stale_withCheck]; rcases h with rfl | rfl <;> rfl
  · rw [handleKind_withCheck]; rcases h with rfl | rfl <;> decide

/-- The deque is full, and its spill area has one place left. -/
def full : State :=
  { launched [] with cores := [(0, { deque := List.replicate 64 {}, spilled := List.replicate 1023 { desc := {}, va := none } })] }

set_option maxRecDepth 8000 in
theorem witness_TasksForkAndExit :
    let f : IForm := { a := 8 }
    let s := launched []
    let v := fun (i : Nat) => ((s.me.regsFrom f.a.toNat 8).getD i {}).w
    Ready (.fork f) (f.srcA 8).each [] s ∧ (s.me.regsFrom f.a.toNat 8).all (fun x => !x.poison) = true
      ∧ ForkFits s v (wordsFrom s.me.pc f.imm) ∧ (v 4).getLsbD 7 = false ∧ hgetAll 0 0 s = .ok ([], s)
      ∧ (full.core full.myCore).spilled.length < 1024 ∧ 64 ≤ (full.core full.myCore).deque.length
      ∧ modeLegal (.exit {}) s.me.xlt = true ∧ s.me.ctrl.getLsbD 7 = false := by
  unfold Ready ForkFits; decide

theorem witness_TasksForkAndExit_join :
    let s : State := { alone { task with ctrl := 0x80, jaddr := 0x10 } with tlb := [devicePage] }
    s.me.ctrl.getLsbD 7 = true ∧ s.hostDelegated (s.translatorOf s.cur) s.me.jaddr.toNat = false
      ∧ translateMe s.me.jaddr.toNat true s = .ok ((.dram, 0x10), s)
      ∧ JoinPlace s s true 0x10 := by
  refine ⟨by decide, by decide, by decide, ⟨(.dram, 0x10), by decide, by decide, by decide⟩⟩

/-- A core with one task waiting and free slots; a launch runs. -/
def waiting (deque : List TaskDesc) (c : Core) : State :=
  { State.reset with launches := [(0, launch)], cores := [(0, { c with deque := deque })], subject := [0] }

theorem witness_TasksStartAndWait_start :
    let s := waiting [{ entry := 0x1000 }] {}
    s.subject = [0] ∧ s.freeSlot 0 = some 0 ∧ (s.readyEntries 0).getLast? = some (0, { entry := 0x1000 })
      ∧ s.launchOn (dieOfCore (coreOfSlot 0)) = some launch := by decide

theorem witness_TasksStartAndWait_refill :
    let s := waiting (List.replicate 16 {}) { spilled := [{ desc := {}, va := none }] }
    (s.core 0).spilled ≠ [] ∧ (s.core 0).deque.length ≤ 16
      ∧ (s.unspillAll 0 ((s.core 0).spilled.drop ((s.core 0).spilled.length - 32))).1.isSome = true := by decide

/-- Core 1 has one entry more than its four free slots will take. -/
theorem witness_TasksStartAndWait_steal :
    let x : Steal := { candidates := [1], asked := 0 }
    let s : State := { waiting [] { steal := some x } with
      cores := [(0, { steal := some x }), (1, { deque := List.replicate 5 { entry := 0x1000 } })] }
    let t := waiting [] { steal := some x }
    (waiting [] {}).wantsSteal 0 = true ∧ (s.core 0).steal = some x ∧ x.candidates = [1]
      ∧ s.givesUp 1 = some (0, { entry := 0x1000 }) ∧ s.freeSlot 0 = some 0 ∧ s.launchOn 0 = some launch
      ∧ s.outranked 0 x = false ∧ (s.core 1).gave ≠ some x.asked
      ∧ (t.core 0).steal = some x ∧ t.outranked 0 x = false ∧ t.givesUp 1 = none := by decide

theorem witness_TasksStartAndWait_bounds :
    let p : Parked := { wait := { xval := 0x10, limit := some 5, word := some (.dram, 0x10) }, since := 3 }
    let s : State := { alone { task with parked := some p } with subject := [0, 0] }
    let t : State := { alone { task with parked := some { p with wait := { limit := some 5 } } } with subject := [0, 3] }
    s.subject = [0, (s.slot 0).retired.toNat] ∧ (s.slot 0).parked = some p ∧ p.wait.word = some (.dram, 0x10)
      ∧ t.subject = [0, 3] ∧ (t.slot 0).parked = some { p with wait := { limit := some 5 } } ∧ t.stopped 0 = false
      ∧ ({ t with launches := [(0, { launch with preempting := some 0, saving := true })] } : State).stopped 0 = true := by decide

/-- A WAITQ before it has parked, and after its word has been read as what B holds and as another value. -/
theorem witness_TasksStartAndWait_words :
    let f : RForm := { a := 2, b := 4, c := 6 }
    ∀ last ∈ ([none, some 0, some 1] : List (Option Word)),
      let s : State := { alone { task with
        parked := last.map (fun v => { wait := { word := some (.dram, 0x10) }, since := 0, last := some v })
        regs := words [(2, 0x10)] } with tlb := [devicePage] }
      ∃ x, wordWaitOf (.waitq f) = some x ∧ WaitsAt (.waitq f) x s 0 0 (.dram, 0x10) s
        ∧ (s.me.parked.filter (fun p => p.wait.word.isSome)).bind Parked.last = last := by
  intro f last h
  fin_cases h <;>
    refine ⟨_, rfl, ⟨_, _, {}, {}, ⟨by decide, rfl⟩, rfl, rfl, rfl, rfl, by decide, by decide, by decide, ?_, by decide⟩, rfl⟩ <;>
    simp

theorem witness_EventLines :
    let f : RForm := { a := 2, b := 4 }
    let s := { launched [] with clusters := [(0, { lines := [(0, 1)] })] }
    let keep := { launched [(2, 256 + 31)] with clusters := [(0, { lines := [(31, 1)] })] }
    let far := launched [(2, 31), (4, 0x80000047)]
    EventWords (.evwt f) f s s 0 0 ∧ ahead ((s.cluster 0).lineWaiters.get queueDefault 0) s.cur < ((s.cluster 0).count 0).toNat
      ∧ EventWords (.evwt f) f keep keep (256 + 31) 0 ∧ (keep.cluster (myCluster keep)).count 31 ≠ 0
      ∧ EventWords (.evsig f) f s s 0 0 ∧ EventWords (.evsig f) f far far 31 0x80000047 := by
  refine ⟨⟨_, {}, {}, ⟨by decide, by decide⟩, rfl, rfl, by decide, by decide, by decide, by decide⟩, by decide,
    ⟨_, { w := 256 + 31 }, {}, ⟨by decide, by decide⟩, rfl, rfl, by decide, by decide, by decide, by decide⟩, by decide,
    ⟨_, {}, {}, ⟨by decide, by decide⟩, rfl, rfl, by decide, by decide, by decide, by decide⟩,
    ⟨_, { w := 31 }, { w := 0x80000047 }, ⟨by decide, by decide⟩, rfl, rfl, by decide, by decide, by decide, by decide⟩⟩

theorem witness_EventLines_arrive :
    let m : FlyingEvent := { id := 9, cl := 3, line := 5, src := 0, lid := 0, counted := true }
    let s : State := { launched [] with flyingEvents := [m], subject := [9] }
    s.subject = [m.id] ∧ s.flyingEvents.find? (fun x => x.id == m.id) = some m
      ∧ s.flyingEvents.all (fun x => decide (m.id ≤ x.id) || x.src != m.src || x.cl != m.cl || !x.counted || !m.counted) = true
      ∧ s.lidOf (m.cl / 72 * 288 * 4) = m.lid := by decide

/-- Slot 0 is the last member of barrier 0 to arrive; it departs; it arrives at a die barrier of two clusters. -/
theorem witness_BarriersAndMutexes :
    let f : RForm := { a := 2, b := 4 }
    let s := launched [(4, 1)]
    let t := alone { task with arrived := some 0, depart := some 0 }
    let u : State := { launched [] with
      clusters := [(0, { barriers := [(0, { arrived := [0], first := some (0x20008, 1), sent := true })] })], subject := [0, 0, 0, 0] }
    EventWords (.evbar f) f s s 0 1 ∧ s.me.arrived = none ∧ (1 : Word).getLsbD (4 * coreInCluster s.myCore + slotNumber s.cur) = true
      ∧ ((s.cluster (myCluster s)).barrier 0).first = none
      ∧ t.me.arrived = some 0 ∧ t.me.depart = some 0 ∧ modeLegal (.evbar f) t.me.xlt = true
      ∧ (({ u with subject := [0, 0] } : State).subject = [0, 0])
      ∧ ((u.cluster 0).barrier 0).first = some (0x20008, 1) ∧ ((u.cluster 0).barrier 0).sent = true
      ∧ ((u.die 0).barriers.get dieBarrierDefault 0).cl = none ∧ 1 < ((0x20008 : Word).extractLsb' 16 7).toNat := by
  refine ⟨⟨_, {}, { w := 1 }, ⟨by decide, by decide⟩, rfl, rfl, by decide, by decide, by decide, by decide⟩, ?_⟩
  decide

theorem witness_BarriersAndMutexes_mutex :
    let f : RForm := { a := 2, b := 4 }
    let s := launched []
    let t := { launched [] with clusters := [(0, { mutexes := [(0, { owner := some 0 })] })] }
    EventWords (.evlck f) f s s 0 0 ∧ ((s.cluster (myCluster s)).mutex 0).owner = none
      ∧ ((s.cluster (myCluster s)).mutex 0).freed = none ∧ ahead ((s.cluster 0).mutexWaiters.get queueDefault 0) s.cur = 0
      ∧ Ready (.evunl { a := 2 }) [({ a := 2 } : RForm).srcA] [] t ∧ ((t.cluster (myCluster t)).mutex 0).owner = some t.cur := by
  refine ⟨⟨_, {}, {}, ⟨by decide, by decide⟩, rfl, rfl, by decide, by decide, by decide, by decide⟩, by decide, by decide,
    by decide, ?_, by decide⟩
  unfold Ready; decide

theorem witness_TranslatorRuns :
    let f : IForm := { d := 4, a := 2 }
    let s := translating [(2, 3)]
    let t := alone { task with xlt := true, accs := [storing (.window 0)] }
    s.me.xlt = true ∧ s.me.accs.all Acc.isLoad = true ∧ t.me.xlt = true ∧ t.me.accs.any (fun x => !x.isLoad) = true
      ∧ Instr.wf (.kmtr f) = true ∧ Ready (.kmtr f) [f.srcA] [f.dst] s ∧ s.take f.a = some ({ w := 3 }, s) ∧ Open s f.d
      ∧ t.me.kmeter = 0 := by
  unfold Ready Open; decide

/-! ## Packets of the front end -/

/-- The bytes of a packet or record of n bytes, 0 but where listed. -/
def bytesWith (n : Nat) (l : List (Nat × Byte)) : List Byte :=
  (List.range n).map (fun i => ((l.find? (fun e => e.1 == i)).map Prod.snd).getD 0)

/-- A host page of the front end, which world 0's process 1 reaches at 0x1000. -/
def frontPage : TlbEntry := { hostPage with core := none, die := 8 }

/-- A packet of queue 3 of that process, with its bytes. -/
def packet (type : Nat) (l : List (Nat × Byte)) : Packet :=
  { id := 9, queue := 3, idx := 5, wid := 0, pasid := some 1, prio := 0, type := type, taken := 7, tstart := 8
    bytes := bytesWith 128 ((0, BitVec.ofNat 8 type) :: l) }

def atWork (p : Packet) : State :=
  { State.reset with packets := [p], subject := [9], tlb := [frontPage], cycle := 100, time := 600000 }

/-- Work that goes through, at the last word of the page and where a signal overflows. -/
theorem witness_ShortPackets_done :
    ∀ x ∈ ([(.nopPacket, packet 0 []), (.timestampPacket, packet 6 [(32, 0xF8), (33, 0x1F)]),
        (.signalPacket, packet 4 [(32, 0xF8), (33, 0x1F), (48, 1)]),
        (.signalPacket, packet 4 [(33, 0x10), (40, 1), (48, 1)])] : List (Instr × Packet)),
      ∃ work u q, shortPacket x.1 x.2 = some work ∧ Working (atWork x.2) x.2
        ∧ work ((atWork x.2).startWork x.2.id) = .ok ((), u) ∧ u.packet x.2.id = some q ∧ q.result = none := by
  intro x h
  fin_cases h <;> exact ⟨_, _, _, rfl, ⟨rfl, rfl, rfl⟩, rfl, rfl, rfl⟩

theorem witness_ShortPackets_failed :
    let p := packet 4 [(39, 1)]
    ∃ work v, shortPacket .signalPacket p = some work ∧ Working (atWork p) p ∧ work ((atWork p).startWork p.id) = .error (.fail v) :=
  ⟨_, _, rfl, ⟨rfl, rfl, rfl⟩, rfl⟩

theorem witness_ShortPackets_signal :
    let p := packet 4 [(32, 0xF8), (33, 0x1F), (48, 1)]
    ∃ pl a s1, frontPlace p.translator (p.field 32 8) true ((atWork p).startWork p.id) = .ok ((pl, a), s1) := ⟨_, _, _, rfl⟩

theorem witness_ShortPackets_timestamp :
    let p := packet 6 [(32, 0xF8), (33, 0x1F)]
    ∃ pl a s1 q, Working (atWork p) p ∧ p.field 32 8 % 8 = 0
      ∧ frontPlace p.translator (p.field 32 8) true ((atWork p).startWork p.id) = .ok ((pl, a), s1) ∧ s1.packet p.id = some q
      ∧ q.result = none :=
  ⟨_, _, _, _, ⟨rfl, rfl, rfl⟩, by decide, rfl, rfl, rfl⟩

/-- The record is held, and the room is just enough; it is one byte too small; there is no record; the packet itself is
named, which has not ended. -/
theorem witness_ShortPackets_provenance :
    let p := packet 7 [(33, 0x10), (41, 0x0F), (44, 2)]
    let small := packet 7 [(33, 0x10), (40, 0xFF), (41, 0x0E), (44, 2)]
    let r : ProvRecord := { queue := 3, idx := 2, bytes := [1, 2] }
    let s : State := { atWork p with provs := [r] }
    let own := packet 7 [(33, 0x10), (41, 0x0F), (44, 5)]
    (∃ u q, Working s p ∧ 0xF00 ≤ p.field 40 4 ∧ (∀ x ∈ s.packets, x.queue = p.queue → x.idx.toNat ≠ p.field 44 4)
      ∧ s.provs.find? (fun r => r.queue == p.queue && r.idx.toNat == p.field 44 4) = some r
      ∧ frontWrite p.translator (p.field 32 8) (noPoison r.bytes) (s.startWork p.id) = .ok ((), u)
      ∧ u.packet p.id = some q ∧ q.result = none)
      ∧ Working (atWork small) small ∧ small.field 40 4 < 0xF00
      ∧ Working (atWork p) p ∧ (∀ r ∈ (atWork p).provs, r.queue = p.queue → r.idx.toNat ≠ p.field 44 4)
      ∧ Working (atWork own) own ∧ ∃ x ∈ (atWork own).packets, x.queue = own.queue ∧ x.idx.toNat = own.field 44 4 :=
  ⟨⟨_, _, ⟨rfl, rfl, rfl⟩, by decide, by decide, rfl, rfl, rfl, rfl⟩, ⟨rfl, rfl, rfl⟩, by decide, ⟨rfl, rfl, rfl⟩, by decide,
    ⟨rfl, rfl, rfl⟩, by decide⟩

/-- A COPY of 65 bytes from 0x1040 to 0x1100: its first block, and its second and last. -/
theorem witness_CopyAndBarrierPackets_copy :
    ∀ d ∈ ([0, 1] : List Nat),
      let p : Packet := { packet 3 [(32, 0x40), (33, 0x10), (41, 0x11), (48, 65)] with done := d }
      let s := atWork p
      ∃ u q, Working s p ∧ p.tstart ≠ 0 ∧ copyBlock p p.done (s.startWork p.id) = .ok ((), u) ∧ u.packet p.id = some q
        ∧ q.result = none ∧ q.done = p.done ∧ (cutRange 64 (p.field 40 8) (p.field 48 8)).length = 2 := by
  intro d h
  fin_cases h <;> exact ⟨_, _, ⟨rfl, rfl, rfl⟩, by decide, rfl, rfl, rfl, rfl, rfl⟩

/-- A BARRIER without conditions; with one at 0x1000 that holds for 0, with one that does not, and with a signal that
is negative. -/
def barrier (cmp : Byte) (conds : List Cond) : Packet :=
  { packet 5 [(33, 0x10), (40, cmp)] with conds := conds }

def signalAt (v : List (Nat × Byte)) (p : Packet) : State := { atWork p with hostMem := { cells := v } }

theorem witness_CopyAndBarrierPackets_empty :
    let p := packet 5 []
    ∃ u q, Working (atWork p) p ∧ p.verdict = none ∧ condsFrom p 4 ((atWork p).startWork p.id) = .ok ([], u)
      ∧ u.packet p.id = some q ∧ q.result = none ∧ q.verdict = none :=
  ⟨_, _, ⟨rfl, rfl, rfl⟩, rfl, rfl, rfl, rfl, rfl⟩

theorem witness_CopyAndBarrierPackets_conditions :
    let c : Cond := { va := 0x1000, place := .host, off := 0x5000, cmp := 0, thr := 0 }
    (∃ u q, Working (atWork (barrier 0 [])) (barrier 0 []) ∧ condsFrom (barrier 0 []) 4 ((atWork (barrier 0 [])).startWork 9) = .ok ([c], u)
      ∧ u.packet 9 = some q ∧ q.result = none ∧ q.verdict = none ∧ Standing u (barrier 0 []) [c]
      ∧ 0 ≤ (u.signal c).toInt ∧ condHolds c (u.signal c))
    ∧ (∃ u, condsFrom (barrier 1 []) 4 ((atWork (barrier 1 [])).startWork 9) = .ok ([{ c with cmp := 1 }], u)
      ∧ 0 ≤ (u.signal c).toInt ∧ ¬ condHolds { c with cmp := 1 } (u.signal c))
    ∧ (∃ u, condsFrom (barrier 0 []) 4 ((signalAt [(0x5007, 0x80)] (barrier 0 [])).startWork 9) = .ok ([c], u)
      ∧ [c].find? (fun c => decide ((u.signal c).toInt < 0)) = some c)
    ∧ (∃ u q, Working (atWork (barrier 0 [c])) (barrier 0 [c]) ∧ (barrier 0 [c]).conds ≠ [] ∧ (barrier 0 [c]).verdict = none
      ∧ condsFrom (barrier 0 [c]) 4 (atWork (barrier 0 [c])) = .ok ([c], u) ∧ u.packet 9 = some q ∧ q.result = none
      ∧ q.verdict = none ∧ Standing u (barrier 0 [c]) [c] ∧ (∀ x ∈ u.packets, x.id = 9 → x.poll ≤ u.cycle)
      ∧ [c].any (fun c => c.place == .host) = true ∧ 0 ≤ (u.signal c).toInt ∧ condHolds c (u.signal c)) := by
  refine ⟨⟨_, _, ⟨rfl, rfl, rfl⟩, rfl, rfl, rfl, rfl, rfl, by decide, rfl⟩,
    ⟨_, rfl, by decide, fun h => h rfl⟩, ⟨_, rfl, by decide⟩,
    ⟨_, _, ⟨rfl, rfl, rfl⟩, by decide, rfl, rfl, rfl, rfl, rfl, rfl, by decide, by decide, by decide, rfl⟩⟩

theorem witness_CopyAndBarrierPackets_decided :
    ∀ v ∈ ([none, some 0x1000] : List (Option Nat)),
      let p : Packet := { barrier 0 [] with verdict := some v }
      Working (atWork p) p ∧ p.verdict = some v := by
  intro v h
  fin_cases h <;> exact ⟨⟨rfl, rfl, rfl⟩, rfl⟩

/-- A queue of 64 slots at 0x1000, with a packet to take at index 5. -/
def queue : Queue := { wid := 0, ring := 0x1000, nslot := 64, pasid := some 1, kick := 6, ridx := 5 }

def queued (x : Queue) : State :=
  { State.reset with queues := [(3, x)], subject := [3], tlb := [frontPage], cycle := 100, time := 600000, nextId := 7 }

theorem witness_Queues_take :
    let s := queued queue
    ∃ bs s1 x, s.nextTake ≤ s.time ∧ s.updating = false ∧ s.pick s.serveOrder = (some (3, bs), s1) ∧ s1.queue 3 = some x
      ∧ s1.packet s1.nextId = none ∧ bs.any Prod.snd = false :=
  ⟨_, _, _, by decide, rfl, rfl, rfl, rfl, rfl⟩

/-- A write of KICK at the ring's end, one past it, and one that goes back. -/
theorem witness_Queues_kick :
    let s := queued queue
    s.queue 3 = some queue ∧ queue.draining = false ∧ queue.destroying = false ∧ queue.error = false
      ∧ (queue.kick - queue.ridx).toNat < ((69 : Word) - queue.ridx).toNat ∧ ((69 : Word) - queue.ridx).toNat ≤ queue.nslot
      ∧ queue.nslot < ((70 : Word) - queue.ridx).toNat
      ∧ ((6 : Word) - queue.ridx).toNat ≤ (queue.kick - queue.ridx).toNat := by decide

theorem witness_Queues_drain :
    ∀ d ∈ ([false, true] : List Bool),
      let x : Queue := { queue with draining := true, destroying := d }
      let s := queued x
      s.subject = [3] ∧ s.queue 3 = some x ∧ x.draining = true ∧ s.unended 3 = [] ∧ x.destroying = d := by
  intro d h
  fin_cases h <;> decide

/-- The page request of packet 9 has been made; the answer comes. -/
theorem witness_PacketsEnd_page :
    let r : AtsReq := { id := 1, die := 8, world := 0, pasid := 1, va := 0x1000, write := true, pri := true, users := [.packet 9] }
    let s : State := { atWork (packet 6 [(33, 0x10)]) with ats := [r] }
    s.ats.filter (fun r => r.pri && r.users.contains (.packet 9)) = [r] ∧ r.stale = false ∧ r.queued = false ∧ r.sent = true
      ∧ r.dropped = false := by decide

/-- The work of the oldest packet is open; its report alone is left, and waits for a page. -/
theorem witness_PacketsEnd_watchdog :
    let x : Queue := { queue with ridx := 6 }
    let p := packet 0 []
    let s : State := { queued x with packets := [p] }
    s.subject = [3] ∧ s.queue 3 = some x ∧ x.error = false ∧ x.ridx = x.kick
      ∧ s.unended 3 = [p] ∧ s.packet p.id = some p ∧ p.result = none
      ∧ s.launches.all (fun e => e.2.pk != p.id) = true
      ∧ (let y : Queue := { x with error := true }
        let r := { p with result := some {}, waiting := true }
        let t : State := { queued y with packets := [r] }
        t.subject = [3] ∧ t.queue 3 = some y ∧ y.error = true ∧ t.unended 3 = [r] ∧ t.packet r.id = some r
          ∧ r.result = some {} ∧ r.waiting = true ∧ t.launches.all (fun e => e.2.pk != r.id) = true) := by decide

def ended (p : Packet) (v : EndValues) (x : Queue) : State :=
  { atWork { p with result := some v } with queues := [(3, x)] }

theorem witness_PacketsEnd_provenance :
    let p := { packet 1 [] with result := some {} }
    Ending (atWork p) p {} ∧ p.usesPartition = true ∧ p.proved = false := ⟨⟨rfl, rfl, rfl, rfl⟩, rfl, rfl⟩

set_option maxRecDepth 4000 in
/-- A result record at 0x1000; a failure without one; a signal at 0x1008. -/
theorem witness_PacketsEnd_reports :
    let x : Queue := { queue with ridx := 6 }
    let p := { packet 0 [(17, 0x10)] with result := some {} }
    let q := { packet 0 [] with result := some { status := 0x41 } }
    let r := { packet 0 [(8, 0x08), (9, 0x10)] with result := some {} }
    (∃ u, Ending (ended p {} x) p {} ∧ p.usesPartition = false ∧ p.csig = none ∧ p.res = some 0x1000
      ∧ p.recorded = false ∧ p.released = false
      ∧ frontWrite p.translator 0x1000 (noPoison (p.record {} (ended p {} x).now)) (ended p {} x) = .ok ((), u))
    ∧ (Ending (ended q { status := 0x41 } x) q { status := 0x41 } ∧ q.csig = none ∧ q.res = none
      ∧ (ended q { status := 0x41 } x).queue q.queue = some x ∧ x.error = false ∧ x.ridx = x.kick)
    ∧ (∃ pl o s1, Ending (ended r {} x) r {} ∧ r.usesPartition = false ∧ r.res = none ∧ r.csig = some 0x1008
      ∧ r.released = false ∧ r.faulted = false
      ∧ frontPlace r.translator 0x1008 true
        ((ended r {} x).modPacket r.id (fun q => { q with bytes := r.bytes, recorded := true, result := some {} }))
          = .ok ((pl, o), s1)) :=
  ⟨⟨_, ⟨rfl, rfl, rfl, rfl⟩, rfl, rfl, rfl, rfl, rfl, rfl⟩, ⟨⟨rfl, rfl, rfl, rfl⟩, rfl, rfl, rfl, rfl, rfl⟩,
    ⟨_, _, _, ⟨rfl, rfl, rfl, rfl⟩, rfl, rfl, rfl, rfl, rfl, rfl⟩⟩

/-! ## Launches and runs -/

/-- World 0 has die 0 alone. -/
def small : State :=
  { State.reset with
    dies := (List.range 7).map (fun d => (d + 1, { wid := 1 })), cycle := 100
    time := 600000, tlb := [{ frontPage with va := 0, size := 2 ^ 40 }] }

/-- A front end's work after its first step. -/
theorem front_eq {α β : Type} {x : Front α} {f : α → Front β} {s s' : State} {a : α} (h : x s = .ok (a, s')) :
    (x >>= f) s = f a s' := by
  simp only [bind, StateT.bind, Except.bind, h]

theorem front_then {α β : Type} {x : Front α} {f : α → Front β} {s s' : State} {a : α} {P : β → State → Prop}
    (h : x s = .ok (a, s')) (h' : ∃ b u, f a s' = .ok (b, u) ∧ P b u) : ∃ b u, (x >>= f) s = .ok (b, u) ∧ P b u := by
  rwa [front_eq h]

/-- Code has a place below the translators' place, or behind it. -/
theorem place_some (z c n : Nat) (hn : n ≤ 0x10000) :
    ∃ a, (if placeFree [(z, z + 0x10000)] c n then some c
      else (0 :: [(z, z + 0x10000)].map (fun u => upPage u.2)).find? (fun a => placeFree [(z, z + 0x10000)] a n)) = some a := by
  by_cases hc : placeFree [(z, z + 0x10000)] c n = true
  · exact ⟨c, if_pos hc⟩
  · rw [if_neg hc, ← Option.isSome_iff_exists, List.find?_isSome]
    by_cases hp : n ≤ z
    · refine ⟨0, List.mem_cons_self .., ?_⟩
      simp only [placeFree, List.all_cons, List.all_nil, Bool.and_true, Bool.and_eq_true, Bool.or_eq_true, decide_eq_true_eq]
      omega
    · refine ⟨upPage (z + 0x10000), List.mem_cons_of_mem _ (List.mem_singleton_self _), ?_⟩
      simp only [placeFree, List.all_cons, List.all_nil, Bool.and_true, Bool.and_eq_true, Bool.or_eq_true, decide_eq_true_eq]
      unfold upPage
      omega

/-- Where no launch is loaded there is a place for code. -/
theorem choosePlace_some {s : State} (h : s.launches = []) (dies : List Nat) {n : Nat} (hn : n ≤ 0x10000) :
    ∃ a, s.choosePlace dies n = some a := by
  obtain ⟨a, ha⟩ := place_some translatorBase (Config.codePlace s.draws % 0x40000 * 0x1000) n hn
  refine ⟨a, ?_⟩
  rw [← ha]
  unfold State.choosePlace State.codeInUse
  rw [h]
  rfl

/-- A launch record for one entry task, with its entry table behind it. -/
def launchRecord : List Byte := bytesWith 320 [(80, 1), (85, 1)]

def image : Image :=
  { key := List.replicate 64 0, wid := 0, code := List.replicate 8 0, codeLen := 8, lib := 8, emulates := false, routes := []
    place := [], backMap := [], cost := 0, ht := [], hc := [], hcode := [], used := 0 }

def loading (p : Packet) : State :=
  { small with packets := [p], subject := [9], images := [image], hostMem := { cells := listed 0x5000 launchRecord }
               tlb := [frontPage] }

/-- A LAUNCH packet before its load is planned, and the plan: one entry task and no item. -/
def launchPacket : Packet := packet 1 [(33, 0x10)]

def heldPacket (x : Option LoadPlan) : Packet :=
  { packet 1 [(1, 2), (33, 0x10)] with plan := x }

def loadPlan : LoadPlan :=
  { dies := [0], record := bytesWith 256 [(80, 1), (85, 1)], image := image, cores := []
    entries := [(0, { ctrl := 64, args := [0, 0, 0, 0] })], items := [] }

def planned : Packet := { launchPacket with plan := some loadPlan }

theorem loading_then {α β : Type} {x : Front α} {f : α → Front β} {b : β} (a : α)
    (h : x (loading launchPacket) = .ok (a, loading launchPacket)) (h' : f a (loading launchPacket) = .ok (b, loading launchPacket)) :
    (x >>= f) (loading launchPacket) = .ok (b, loading launchPacket) := by rwa [front_eq h]

set_option maxRecDepth 10000 in
theorem witness_LaunchesAndRuns_plan :
    let p := launchPacket
    let s := loading p
    Working s p ∧ s.launchOf p.id = none ∧ Unplanned s p ∧ planLaunch p s = .ok (loadPlan, s)
      ∧ (∃ q, s.packet p.id = some q ∧ q.result = none)
      ∧ Unplanned s { p with plan := some { loadPlan with dies := [0, 1] } } := by
  refine ⟨⟨rfl, rfl, rfl⟩, rfl, fun _ h => (nomatch h), ?_, ⟨_, rfl, rfl⟩, fun x h => ?_⟩
  rotate_left
  · cases h
    decide
  unfold planLaunch
  exact loading_then _ rfl (loading_then () (by decide +kernel) (loading_then (bytesWith 256 [(80, 1), (85, 1)]) (by decide +kernel)
    (loading_then () (by decide +kernel) (loading_then () (by decide +kernel) (loading_then image (by decide +kernel)
    (loading_then [] (by decide +kernel) (loading_then (bytesWith 64 []) (by decide +kernel)
    (loading_then [(0, { ctrl := 64, args := [0, 0, 0, 0] })] (by decide +kernel) (loading_then [] (by decide +kernel)
    (loading_then [] rfl rfl))))))))))

/-- A held packet whose plan is made and whose class is not reached; one that loads. -/
theorem witness_LaunchesAndRuns_load :
    let p := planned
    let h := heldPacket (some loadPlan)
    let s := loading p
    let held : State := { loading h with dies := (0, { wanted := 3 }) :: small.dies }
    Working held h ∧ held.launchOf h.id = none ∧ Planned held h loadPlan ∧ h.waiting = false ∧ h.hold = true
      ∧ held.classReached h.wid = false
      ∧ Working s p ∧ s.launchOf p.id = none ∧ Planned s p loadPlan ∧ p.waiting = false ∧ p.hold = false
      ∧ loadPlan.items = []
      ∧ (∃ base, s.choosePlace loadPlan.dies (upPage loadPlan.image.code.length + (s.world p.wid).handler.length) = some base)
      ∧ ∃ u, placeLaunch p loadPlan s = .ok ((), u) := by
  refine ⟨⟨rfl, rfl, rfl⟩, rfl, ⟨rfl, by decide⟩, rfl, rfl, by decide, ⟨rfl, rfl, rfl⟩, rfl, ⟨rfl, by decide⟩, rfl, rfl, rfl,
    choosePlace_some rfl _ (by decide), ?_⟩
  unfold placeLaunch
  rw [front_eq (a := loading planned) rfl]
  obtain ⟨a, ha⟩ := choosePlace_some (s := loading planned) rfl loadPlan.dies
    (n := upPage loadPlan.image.code.length
      + ((loading planned).world planned.wid).handler.length)
    (by decide)
  dsimp only
  rw [ha]
  exact ⟨_, rfl⟩

set_option maxRecDepth 4000 in
theorem witness_LaunchesAndRuns_rejected :
    let p := packet 1 [(34, 0x10)]
    let s := loading p
    ∃ v, Working s p ∧ s.launchOf p.id = none ∧ Unplanned s p ∧ planLaunch p s = .error (.fail v) :=
  ⟨_, ⟨rfl, rfl, rfl⟩, rfl, fun _ h => (nomatch h), rfl⟩

/-- A TRANSLATE of 8 bytes of code; the key of its result. -/
def translatePacket : Packet := packet 2 [(33, 0x10), (40, 8), (44, 5)]

def translateKey (s : State) : List Byte :=
  sha512 (sha512 (List.replicate 8 0) ++ sha512 [] ++ sha512 s.catalogue ++ le32 0 ++ le32 0 ++ bytesOfWord 1 0)

set_option maxRecDepth 8000 in
theorem witness_LaunchesAndRuns_translate :
    let p := translatePacket
    let s := loading p
    ∃ q, Working s p ∧ s.launchOf p.id = none
      ∧ frontRead p.translator (p.field 32 8) (p.field 40 4) s = .ok (List.replicate 8 (0, false), s)
      ∧ frontRead p.translator (p.field 48 8) (p.field 56 4) s = .ok ([], s) ∧ s.packet p.id = some q ∧ q.result = none
      ∧ (∀ i : Image, i.key = translateKey s → i.wid = 0 → i.cost = 5 →
        ({ s with images := [i] } : State).image (translateKey s) p.wid = some i ∧ i.cost ≤ p.field 44 4)
      ∧ (∀ i, ({ s with images := [] } : State).image (translateKey s) p.wid = some i → p.field 44 4 < i.cost) := by
  refine ⟨_, ⟨rfl, rfl, rfl⟩, rfl, by rfl, by rfl, rfl, rfl, ?_, ?_⟩
  · intro i hk hw hc
    refine ⟨?_, by rw [hc]; decide⟩
    simp only [State.image, List.find?_cons, hk, hw]
    simp [show translatePacket.wid = 0 from rfl]
  · intro i h
    exact nomatch (show (none : Option Image) = some i from h)

/-- A translator run in slot 0, with its output window. -/
def running (out : Mem) : State :=
  { small with packets := [translatePacket], subject := [0], launches := [(0, { launch with pk := 9 })]
               runs := [(0, { pk := 9, world := 0, catalogue := 0x800, input := 0, output := 72, scratch := 0, meter := 5 })]
               windows := [(0, out)] }

/-- An output of one NOP. -/
def nopOutput : Mem := { cells := listed 0x300000000 (le32 64 ++ le32 8 ++ zeros 56 ++ bytesOfWord 8 0x1500001000000000) }

theorem witness_LaunchesAndRuns_loader :
    ∀ out ∈ [({} : Mem), nopOutput],
      let s := running out
      ∃ r l, s.subject = [0] ∧ s.runOf 0 = some r ∧ s.launches.find? (fun e => r.pk == e.2.pk) = some (0, l) ∧ l.lid = 0
        ∧ s.launches.find 0 = some l ∧ s.packet r.pk = some translatePacket ∧ l.ending = none := by
  intro out h
  fin_cases h <;> exact ⟨_, _, rfl, rfl, rfl, rfl, rfl, rfl, rfl⟩

/-- No output at all is refused at the length of its code; the NOP passes. -/
theorem witness_LaunchesAndRuns_output :
    checkOutput {} 72 = .error (3, 4)
      ∧ checkOutput nopOutput 72 = .ok { code := [0x1500001000000000], routes := [], place := [], backMap := [] } := by
  refine ⟨rfl, by decide +kernel⟩

/-- A launch that has ended, with its packet. -/
def finished : State := { small with
  packets := [packet 1 []], subject := [0],
  launches := [(0, { launch with pk := 9, ending := some {} })] }

theorem witness_LaunchesAndRuns_end :
    let s := finished
    let l := { launch with pk := 9, ending := some {} }
    s.subject = [0] ∧ s.launches.find 0 = some l ∧ l.lid = 0 ∧ l.ending = some {} ∧ l.saved = false
      ∧ s.runs.all (fun e => e.2.pk != l.pk) = true ∧ s.packet l.pk = some (packet 1 []) ∧ (packet 1 []).result = none
      ∧ s.intervalWorlds.contains l.world = false := by decide

/-! ## Launches as they run and stop -/

/-- The package with a launch and its packet. -/
def withLaunch (l : Launch) : State := { small with packets := [packet 1 []], subject := [0], launches := [(0, { l with pk := 9 })] }

theorem witness_LaunchesRunAndStop_start :
    let l := { launch with pk := 9, started := false, start := none, entries := [0] }
    (withLaunch l).subject = [0] ∧ (withLaunch l).launches.find 0 = some l ∧ l.started = false ∧ l.ending = none ∧ l.lid = 0
      ∧ (withLaunch l).intervalWorlds.contains l.world = false ∧ l.entries = [0]
      ∧ (withLaunch l).wordArrives (coreOfSlot 0) ((withLaunch l).slot 0).pc = none
      ∧ ((withLaunch l).storeCode 0 0).wordArrives (coreOfSlot 0) (((withLaunch l).storeCode 0 0).slot 0).pc = some 100 := by decide

/-- Core 0 is the only live core of die 0. -/
theorem lone_core {s : State} (h : s.deadCores = (List.range 287).map (· + 1)) : ∀ c ∈ s.liveCores 0, c = 0 := by
  intro c hc
  obtain ⟨hm, hd⟩ := List.mem_filter.mp hc
  obtain ⟨i, hi, rfl⟩ := List.mem_map.mp hm
  have hi : i < 288 := List.mem_range.mp hi
  by_contra hne
  have : (0 * coresPerDie + i) ∈ s.deadCores := by
    rw [h]
    exact List.mem_map.mpr ⟨i - 1, List.mem_range.mpr (by omega), by omega⟩
  simp only [List.contains_eq_mem, decide_eq_true this, Bool.not_true] at hd
  exact absurd hd (by decide)

theorem witness_LaunchesRunAndStop_quiescence :
    let l := { launch with pk := 9, sample := some (0, 2, 2), sent := 2, received := 2 }
    let s : State := { withLaunch l with cores := [(0, { stealNone := true })], deadCores := (List.range 287).map (· + 1) }
    let s1 := s.modLaunch 0 (fun l => { l with sample := some (s.cycle, l.sent, l.received) })
    s.launches.find 0 = some l ∧ l.sample = some (0, 2, 2) ∧ l.deadlock = false ∧ s1.quiet l = true ∧ s1.allIdle l = true
      ∧ ({ s with subject := [0, 1] } : State).subject = [0, 1] ∧ l.ending = none := by
  intro l s s1
  have hi : s1.idle 0 = true := by decide
  have hl : ∀ d ∈ l.dies, ∀ c ∈ s1.liveCores d, s1.idle c = true := by
    intro d hd c hc
    have hd : d = 0 := List.mem_singleton.mp hd
    subst hd
    rw [lone_core rfl c hc]
    exact hi
  refine ⟨rfl, rfl, rfl, ?_, ?_, rfl, rfl⟩
  · rw [State.quiet, Bool.and_eq_true]
    exact ⟨by decide, List.all_eq_true.mpr (fun d hd => List.all_eq_true.mpr (fun c hc => by simp [hl d hd c hc]))⟩
  · exact List.all_eq_true.mpr (fun d hd => List.all_eq_true.mpr (fun c hc => hl d hd c hc))

theorem witness_LaunchesRunAndStop_preempt :
    ∀ b ∈ [true, false],
      let l := { launch with pk := 9, preemptable := b }
      (withLaunch l).subject = [0] ∧ (withLaunch l).launches.find 0 = some l ∧ l.lid = 0 ∧ l.started = true
        ∧ l.ending = none ∧ l.preempting = none ∧ l.saved = false ∧ l.preemptable = b := by
  intro b h
  fin_cases h <;> decide

theorem witness_LaunchesRunAndStop_timeout :
    let l := { launch with pk := 9, preempting := some 5 }
    let s : State := { withLaunch l with slots := [(0, { task with mode := .handler })], subject := [0, 5] }
    s.launches.find 0 = some l ∧ l.preempting = some 5 ∧ l.ending = none
      ∧ (s.slotsOn l).find? (fun k => (s.slot k).occupied && (s.slot k).mode == .handler) = some 0 := by decide

/-- Pages of host memory take what is written to them. -/
theorem writePages_some {b : State} {l : Launch} {t : Translator} (f : Nat → Mem) (n : Nat) (hc : b.cores = [])
    (hi : b.intervalWorlds = []) (hs : b.slots = [])
    (hb : ∀ m va, va < n → frontPlace t va true { b with hostMem := m } = .ok ((.host, 0x5000 + va), { b with hostMem := m })) :
    ∀ (ps : List (Nat × Nat)) (m : Mem), (∀ p ∈ ps, l.ctx.toNat + bufferOffset l p.1 + p.2 < n) →
      ∃ x m', writePages l t f ps { b with hostMem := m } = .ok (x, { b with hostMem := m' }) := by
  intro ps
  induction ps with
  | nil => exact fun m _ => ⟨(), m, rfl⟩
  | cons x rest ih =>
    intro m h
    have hw : ∀ a, State.blockWrite { b with hostMem := m } t.world .host a 0x1000 (f x.1) x.2
        = { b with hostMem := m.copyIn a 0x1000 (f x.1) x.2 } := by
      intro a
      simp [State.blockWrite, State.logRange, hc, hi, State.setMemAt, State.memAt, State.wakeWords,
        State.signalWritten, State.wakeWaiters, hs]
    obtain ⟨y, m', hr⟩ := ih (m.copyIn (0x5000 + (l.ctx.toNat + bufferOffset l x.1 + x.2)) 0x1000 (f x.1) x.2)
      (fun p hp => h p (List.mem_cons_of_mem _ hp))
    refine ⟨y, m', ?_⟩
    rw [writePages, front_eq (hb _ _ (h x (List.mem_cons_self ..))), front_eq (a := ()) rfl]
    dsimp only
    rw [hw]
    exact hr

/-- And give back what they hold. -/
theorem readPages_some {s : State} {l : Launch} {t : Translator} (n : Nat)
    (hb : ∀ va, va < n → frontPlace t va false s = .ok ((.host, 0x5000 + va), s)) :
    ∀ (ps : List (Nat × Nat)) (b : Assoc Mem), (∀ p ∈ ps, l.ctx.toNat + bufferOffset l p.1 + p.2 < n) →
      ∃ b', readPages l t ps b s = .ok (b', s) := by
  intro ps
  induction ps with
  | nil => exact fun b _ => ⟨b, rfl⟩
  | cons x rest ih =>
    intro b h
    obtain ⟨b', hr⟩ := ih
      (b.set memDefault x.1 ((b.get memDefault x.1).copyIn x.2 0x1000 (s.memAt .host)
        (0x5000 + (l.ctx.toNat + bufferOffset l x.1 + x.2))))
      (fun p hp => h p (List.mem_cons_of_mem _ hp))
    refine ⟨b', ?_⟩
    rw [readPages, front_eq (hb _ (h x (List.mem_cons_self ..))), front_eq (a := s) (s' := s) rfl]
    exact hr

theorem front_page {s : State} (ht : s.tlb = [{ frontPage with va := 0, size := 2 ^ 40 }]) (hd : s.hostDown = false)
    (hw : s.worlds = []) (w : Bool) {va : Nat} (h : va < 2 ^ 40) :
    frontPlace (packet 1 []).translator va w s = .ok ((.host, 0x5000 + va), s) := by
  have h2 : ¬ 2 ^ 56 ≤ va := by omega
  have hc : ({ frontPage with va := 0, size := 2 ^ 40 } : TlbEntry).covers (packet 1 []).translator va = true := by
    simp only [TlbEntry.covers, Packet.translator, frontPage, hostPage, devicePage, packet, frontDie]
    simp only [Nat.zero_add, Nat.zero_le, decide_true, h]
    decide
  have he : (s.world (packet 1 []).translator.world).tdispError = false := by
    simp only [State.world, hw]
    rfl
  have he' : (s.world (packet 1 []).wid).tdispError = false := he
  have hf : s.tlbFind (packet 1 []).translator va = some { frontPage with va := 0, size := 2 ^ 40 } := by
    simp only [State.tlbFind, ht, List.find?_cons, hc]
    rfl
  unfold frontPlace State.translate
  rw [if_neg h2, hf]
  cases w <;> simp [State.fillMicro, State.addLag, Translator.core, Packet.translator, State.translateBy, State.hostLost,
    frontPage, hostPage, devicePage, hd, he']

theorem bufferPages_bound {s : State} {l : Launch} (hd : l.dies = [0]) (hc : l.ctx = 0) :
    ∀ p ∈ s.bufferPages l, l.ctx.toNat + bufferOffset l p.1 + p.2 < 2 ^ 40 := by
  intro p hp
  unfold State.bufferPages at hp
  obtain ⟨c, i, h3, rfl⟩ : ∃ c i, i < 208 ∧ p = (c, i * 0x1000) := by
    rcases List.mem_append.mp hp with hp | hp
    · obtain ⟨c, -, hp⟩ := List.mem_flatMap.mp hp
      obtain ⟨i, hi, rfl⟩ := List.mem_map.mp hp
      exact ⟨c, i, by simpa [contextBytes] using List.mem_range.mp hi, rfl⟩
    · obtain ⟨c, -, rfl⟩ := List.mem_map.mp hp
      exact ⟨c, 3, by decide, rfl⟩
  have h1 : l.dies.idxOf (dieOfCore c) ≤ 1 := by rw [hd]; exact List.idxOf_le_length
  have h2 : numberOfCore c < 288 := Nat.mod_lt _ (by decide)
  simp only [hc, bufferOffset]
  have h4 : (288 * l.dies.idxOf (dieOfCore c) + numberOfCore c) * 0xD0000 ≤ 576 * 0xD0000 := Nat.mul_le_mul_right _ (by omega)
  have h5 : (0 : DWord).toNat = 0 := rfl
  omega

/-- A result is still on its way, then nothing is. -/
theorem witness_LaunchesRunAndStop_save :
    let l := { launch with pk := 9, preempting := some 5, preemptable := true }
    let s := withLaunch l
    let p := packet 1 []
    let s1 := s.settlePartition l
    s.subject = [0] ∧ s.launches.find 0 = some l ∧ l.lid = 0 ∧ s.packet l.pk = some p ∧ l.preempting.isSome = true
      ∧ l.checkpointing = false ∧ l.ending = none
      ∧ ({ s with results := [{ id := 9, slot := 0, core := 0 }] } : State).saveReady l = false ∧ s.saveReady l = true
      ∧ ∃ x u, writePages l p.translator (s1.contextBuffer l) (s1.bufferPages l) s1 = .ok (x, u) ∧ u.launches = s.launches := by
  refine ⟨rfl, rfl, rfl, rfl, rfl, rfl, rfl, by decide, by decide, ?_⟩
  obtain ⟨x, m, h⟩ := writePages_some (b := withLaunch { launch with pk := 9, preempting := some 5, preemptable := true })
    (l := { launch with pk := 9, preempting := some 5, preemptable := true }) (t := (packet 1 []).translator)
    ((withLaunch { launch with pk := 9, preempting := some 5, preemptable := true }).contextBuffer
      { launch with pk := 9, preempting := some 5, preemptable := true }) (2 ^ 40) rfl rfl rfl
    (fun m va hv => front_page rfl rfl rfl true hv)
    ((withLaunch { launch with pk := 9, preempting := some 5, preemptable := true }).bufferPages
      { launch with pk := 9, preempting := some 5, preemptable := true }) {} (bufferPages_bound rfl rfl)
  exact ⟨x, _, h, rfl⟩

theorem witness_LaunchesRunAndStop_restore :
    let l := { launch with pk := 9, saved := true, restoring := true, preemptable := true }
    let s := withLaunch l
    let p := packet 1 []
    s.subject = [0] ∧ s.launches.find 0 = some l ∧ l.lid = 0 ∧ s.packet l.pk = some p ∧ l.saved = true
      ∧ l.restoring = true ∧ l.ending = none ∧ s.appending 0 = false ∧ l.held.whole = false
      ∧ ∃ b, readPages l p.translator (s.bufferPages l) [] s = .ok (b, s) := by
  refine ⟨rfl, rfl, rfl, rfl, rfl, rfl, rfl, rfl, rfl, ?_⟩
  exact readPages_some (2 ^ 40) (fun va hv => front_page rfl rfl rfl false hv) _ [] (bufferPages_bound rfl rfl)

theorem witness_LaunchesRunAndStop_restore_whole :
    let l := { launch with pk := 9, saved := true, restoring := true, held := { whole := true, sent := 2, received := 2 } }
    let s := withLaunch l
    s.subject = [0] ∧ s.launches.find 0 = some l ∧ l.lid = 0 ∧ s.packet l.pk = some (packet 1 []) ∧ l.saved = true
      ∧ l.restoring = true ∧ l.ending = none ∧ s.appending 0 = false ∧ l.held.whole = true := by decide

theorem witness_LaunchesRunAndStop_interval :
    let l := { launch with pk := 9, preempting := some 5, checkpointing := true, saving := true }
    (withLaunch l).subject = [0] ∧ (withLaunch l).launches.find 0 = some l ∧ l.lid = 0 ∧ l.preempting.isSome = true
      ∧ l.checkpointing = true ∧ l.saving = true ∧ l.saved = false ∧ l.ending = none
      ∧ (withLaunch l).saveReady l = true := by decide

/-- Before the first boundary, at the second rollback of an interval, of a launch that has been pre-empted, and at the
third. -/
theorem witness_LaunchesRunAndStop_rollback :
    let l := { launch with pk := 9 }
    let m := { launch with pk := 9, checkpoint := some {} }
    let s : State := { withLaunch l with subject := [0, 3] }
    let at_ := fun (x : Launch) (n : Nat) => ({ withLaunch x with subject := [0, 3], worlds := [(0, { rolls := n })] } : State)
    s.subject = [0, 3] ∧ s.launches = [(0, l)] ∧ l.lid = 0 ∧ l.world = 0 ∧ l.rolls = true ∧ (s.world 0).rolls < 2
      ∧ l.checkpoint = none
      ∧ (∀ b ∈ [false, true], let x : Launch := { m with saved := b }
        (at_ x 1).subject = [0, 3] ∧ (at_ x 1).launches = [(0, x)] ∧ x.rolls = true ∧ x.checkpoint = some {} ∧ x.saved = b
        ∧ ({} : Saved).away = false ∧ ((at_ x 1).world 0).rolls < 2 ∧ 2 ≤ ((at_ x 2).world 0).rolls) := by decide
/-! ## Answers of the host, and hardware errors -/

/-- A host atomic of slot 0 without its answer, and one request for a translation. -/
theorem witness_HostAnswers :
    let s : State := { State.reset with slots := [(0, { task with hostOp := some hostOp })] }
    (s.slot 0).hostOp = some hostOp ∧ hostOp.id = hostOp.id ∧ hostOp.answer = none ∧ HostStatus.abort ≠ HostStatus.ok := by decide

/-- Before and after the page request, and with another one that waits for its place; the answers 1 and 0xF are failures. -/
theorem witness_HostAnswers_requests :
    let r : AtsReq := { id := 1, die := 0, world := 0, pasid := 1, va := 0x1000, write := true, users := [.slot 0] }
    let s : State := { State.reset with ats := [r] }
    let q : AtsReq := { r with pri := true }
    let t : State := { State.reset with ats := [q] }
    let w : AtsReq := { r with id := 2, va := 0x2000, queued := true }
    let u : State := { State.reset with ats := [q, w] }
    s.ats.find? (fun x => x.id == 1) = some r ∧ r.pri = false ∧ r.queued = false ∧ r.sent = true ∧ r.stale = false ∧ r.dropped = false
      ∧ AtsUser.slot 0 ∈ r.users ∧ s.priFailed.contains (s.functionOf r.world) = false
      ∧ (s.ats.filter (fun x => x.pri)).length < 1024 ∧ t.ats.find? (fun x => x.id == 1 && x.pri) = some q
      ∧ (∀ x ∈ t.ats, x.queued = false) ∧ AtsUser.slot 0 ∈ q.users ∧ (1 : BitVec 4) ≠ 0 ∧ (0xF : BitVec 4) ≠ 0
      ∧ u.ats.find? (fun x => x.id == 1 && x.pri) = some q ∧ w.id ≠ 1 ∧ u.ats.find? (fun x => x.queued) = some w
      ∧ q.queued = false ∧ (∀ x ∈ u.ats, x.id = 1 → x = q) ∧ u.priFailed.contains (u.functionOf w.world) = false
      ∧ (u.ats.filter (fun x => x.pri && x.id != 1)).length < 1024 := by decide

/-- An invalidation that nothing holds up, and one that waits for a store. -/
theorem witness_HostAnswers_invalidations :
    let x : Invalidation := { id := 4, pasid := some 1, va := 0x1000, len := 0x1000, waits := [(0, 7)], frames := [] }
    let s : State := { State.reset with invalidations := [x], subject := [4] }
    let t : State := { s with slots := [(0, { task with accs := [{ storing .host with id := 7 }] })] }
    s.subject = [4] ∧ s.invalidations.length < 32 ∧ s.invalidations.find? (fun y => y.id == 4) = some x
      ∧ (x.waits.any s.unperformed || s.copiesInto x.frames || s.reversesInto x.frames) = false
      ∧ (x.waits.any t.unperformed || t.copiesInto x.frames || t.reversesInto x.frames) = true := by decide

theorem witness_HardwareErrors :
    let l := { launch with pk := 9 }
    let s := withLaunch l
    let t : State := { s with intervalWorlds := [0] }
    s.launches = [(0, l)] ∧ l.lid = 0 ∧ l.ending = none
      ∧ l.dies.contains (errorDie 1 0) = true ∧ l.dies.contains (errorDie 3 287) = true ∧ l.dies.contains (errorDie 6 71) = true
      ∧ l.dies.contains (errorDie 8 0) = true ∧ s.intervalWorlds.contains l.world = false
      ∧ t.intervalWorlds.contains l.world = true ∧ (8 : Nat) ≠ 0
      ∧ s.portAccepts 0 1 = false ∧ s.portAccepts 0 0 = true ∧ s.portAccepts 1 1 = true := by decide

/-- The first line of the first window of a run, whose die is world 0's or world 1's, and the byte before it. -/
theorem witness_HardwareErrors_windows :
    let s := running {}
    let t : State := { s with dies := [(0, { wid := 1 })] }
    s.windowAt 0xB00000000 = some (0, 0x100000000) ∧ s.windowAt 0xAFFFFFFFF = none
      ∧ (t.die (dieOfAddress 0xB00000000)).wid ≠ 0 ∧ t.windowAt (0xB00000000 / 256 * 256) = some (0, 0x100000000) := by decide

/-- A line of a die of world 1 and of world 0, and a line that core 0 holds or does not. -/
theorem witness_HardwareErrors_lines :
    let l := { launch with dies := [1], world := 1 }
    let s : State := { small with launches := [(0, l)] }
    let x : Line := { bytes := [(64, { val := 3, dirty := true, poison := false })] }
    let t : State := { State.reset with cores := [(0, { lines := [(2, x)] })] }
    (s.die (dieOfAddress 0x1000000000)).wid ≠ 0 ∧ s.windowAt (0x1000000000 / 256 * 256) = none ∧ (s.die (dieOfAddress 0x2000)).wid = 0
      ∧ s.launchOn (dieOfAddress 0x1000000000) = some l ∧ s.launches.find l.lid = some l
      ∧ t.line 0 (5 / 4 * 2 + if false then 1 else 0) = some x ∧ t.line 0 (5 / 4 * 2 + if true then 1 else 0) = none := by decide
/-! ## The Curator and the package -/

/-- A request of the host at 0x9000, and a record behind it at 0x9100. -/
def requesting (l r : List (Nat × Byte)) : State :=
  { small with mailbox := { busy := some 0x9000 }
               hostMem := { cells := l.map (fun e => (0x9000 + e.1, e.2)) ++ r.map (fun e => (0x9100 + e.1, e.2)) } }

/-- Requests by operation, world and arguments, each argument a 16-bit number. -/
def askFor (op w : Byte) (args : List Nat) : List (Nat × Byte) :=
  [(0, op), (2, w)] ++ (numbered args).flatMap (fun a => [(8 + 8 * a.1, BitVec.ofNat 8 a.2), (9 + 8 * a.1, BitVec.ofNat 8 (a.2 / 256))])

theorem witness_WorldsAndFrames_create :
    let s := requesting (askFor 1 1 [0x9100]) [(0, 1), (4, 7), (10, 1)]
    let bad := requesting (askFor 1 1 [0x9100]) [(0, 1), (4, 7), (10, 1), (40, 1)]
    Requested s 0x01 0x9000 ∧ s.requestWid ≠ 0 ∧ s.worldRecordLegal (s.hostBytes (s.arg 0) 64) = true
      ∧ handlerLegal (s.hostBytes (recField (s.hostBytes (s.arg 0) 64) 16 8) (recField (s.hostBytes (s.arg 0) 64) 24 4)) = true
      ∧ s.health.debug = false ∧ s.worldAlive s.requestWid = false ∧ s.freeOfWork [0] = true
        ∧ (List.range 8).filter (fun d => recField (s.hostBytes (s.arg 0) 64) 0 1 / 2 ^ d % 2 = 1) = [0]
      ∧ (∀ d < 8, recField (s.hostBytes (s.arg 0) 64) 0 1 / 2 ^ d % 2 = 1 → d ∈ s.partition 0)
      ∧ Requested bad 0x01 0x9000 ∧ bad.worldRecordLegal (bad.hostBytes (bad.arg 0) 64) = false
      ∧ ({ s with health := { debug := true } } : State).health.debug = true := by
  simp only [Requested]
  decide +kernel

/-- World 1 on die 1, with a frame of 4 KiB at its start. -/
def frame : Frame := { pa := 0x1000, size := 0 }

def worldly (op : Byte) (args : List Nat) (f : List Frame) : State :=
  { requesting (askFor op 1 args) [] with worlds := [(1, { alive := true, vf := 7, seed := 0x1000100000, frames := f })] }

theorem witness_WorldsAndFrames_destroy :
    let s := worldly 2 [] []
    Requested s 0x02 0x9000 ∧ s.requestWid ≠ 0 ∧ s.worldAlive s.requestWid = true
      ∧ Requested (requesting (askFor 2 1 []) []) 0x02 0x9000 ∧ (requesting (askFor 2 1 []) []).worldAlive 1 = false := by
  simp only [Requested]
  decide +kernel

/-- An OFFER of a page of die 0, which world 1 owns here. -/
theorem witness_WorldsAndFrames_offer :
    let s : State := { worldly 3 [0x1000, 0] [] with dies := [(0, { wid := 1 })] }
    Requested s 0x03 0x9000 ∧ s.requestWid ≠ 0 ∧ s.worldAlive s.requestWid = true ∧ s.arg 1 ≤ 11
      ∧ s.arg 0 % pageBytes (s.arg 1) = 0 ∧ s.inPool s.requestWid (s.arg 0) (pageBytes (s.arg 1)) = true := by
  simp only [Requested]
  decide +kernel

theorem witness_WorldsAndFrames_reclaim :
    let s := worldly 4 [0x1000] [frame]
    let t := worldly 5 [0x1000] [frame]
    let u := worldly 5 [0x2000] [frame]
    let g := { frame with asked := true }
    let v := worldly 4 [0x1000] [g]
    Requested s 0x04 0x9000 ∧ (s.world s.requestWid).frame (s.arg 0) = some frame ∧ frame.asked = false
      ∧ Requested v 0x04 0x9000 ∧ (v.world v.requestWid).frame (v.arg 0) = some g ∧ g.asked = true
      ∧ Requested t 0x05 0x9000 ∧ t.requestWid ≠ 0 ∧ t.worldAlive t.requestWid = true
      ∧ ((t.world t.requestWid).frame (t.arg 0)).isSome = true
      ∧ Requested u 0x05 0x9000 ∧ u.requestWid ≠ 0 ∧ (u.world u.requestWid).frame (u.arg 0) = none := by
  simp only [Requested]
  decide +kernel

/-- The world's runtime asks: one entry of an operation for the page at 0x1000 in its request ring, with a host address. -/
def runtime (op : Byte) (f : Frame) (busy : Option Nat) : State :=
  { worldly 4 [0x1000] [f] with
    mailbox := { busy := busy }, subject := [1]
    worlds := [(1, { alive := true, vf := 7, seed := 0x1000100000, frames := [f], limit := 1 })]
    dram := { cells := [(0x1000105800, op), (0x1000105809, 0x10), (0x1000105811, 0x40), (0x1000106010, 1)] } }

theorem witness_FramesMove_answers :
    ∀ o ∈ ([1, 2] : List Nat),
      let f := { frame with asked := true }
      let s := runtime (BitVec.ofNat 8 o) f (some 0x9000)
      ∃ s1, Took s s1 1 o 0 0x1000 0x4000 ∧ (s1.world 1).frame 0x1000 = some f ∧ f.asked = true
        ∧ s.mailbox.busy = some 0x9000 ∧ s1.reclaiming 1 0x1000 = true := by
  intro o h
  fin_cases h <;> exact ⟨_, ⟨rfl, by decide +kernel, rfl⟩, by decide +kernel, rfl, rfl, by decide +kernel⟩

theorem witness_FramesMove_export :
    let s := runtime 3 frame none
    s.hostDown = false ∧ ∃ s1, Took s s1 1 3 0 0x1000 0x4000 ∧ (s1.world 1).frame 0x1000 = some frame ∧ frame.asked = false
      ∧ (s1.world 1).exports.length < 2 ^ 20 :=
  ⟨rfl, _, ⟨rfl, by decide +kernel, rfl⟩, by decide +kernel, rfl, by decide +kernel⟩

/-- What has been written is read. -/
theorem bytes_setBytes (bs : List Byte) (a : Nat) :
    ∀ n i, i + n ≤ bs.length → (({} : Mem).setBytes a bs).bytes (a + i) n = (bs.drop i).take n
  | 0, i, _ => by simp [Mem.bytes]
  | n + 1, i, h => by
    have hd : bs.drop i = bs.getD i 0 :: bs.drop (i + 1) := by
      rw [List.drop_eq_getElem_cons (by omega)]
      simp [List.getD_eq_getElem?_getD, List.getElem?_eq_getElem (show i < bs.length by omega)]
    rw [Mem.bytes, Mem.byte_setBytes, if_pos (by omega), Nat.add_assoc a i 1, bytes_setBytes bs a n (i + 1) (by omega), hd,
      List.take_succ_cons, Nat.add_sub_cancel_left]

theorem wordOfBytes_bytesOfWord : ∀ n w, wordOfBytes (bytesOfWord n w) = w % 256 ^ n
  | 0, w => by simp [bytesOfWord, wordOfBytes, Nat.mod_one]
  | n + 1, w => by
    rw [bytesOfWord, wordOfBytes, wordOfBytes_bytesOfWord n (w / 256), Nat.pow_succ, Nat.mul_comm (256 ^ n), Nat.mod_mul,
      BitVec.toNat_ofNat]

theorem bytesOfWord_length : ∀ n w, (bytesOfWord n w).length = n
  | 0, _ => rfl
  | n + 1, w => by rw [bytesOfWord, List.length_cons, bytesOfWord_length n]

theorem pow_256 (k : Nat) : 256 ^ k = 2 ^ (8 * k) := by
  rw [pow_mul]
  rfl

/-- A sealed entry opens. -/
theorem openEntry_some (key eid ver size e : Nat) (plain : List Byte) :
    (openEntry key eid ver size e (sealEntry key eid ver size e plain)).isSome = true := by
  unfold openEntry sealEntry
  simp only [List.append_assoc]
  generalize Config.exportCipher key eid ver e (BitVec.ofNat 2048 (leNat plain)) = c
  have h1 : (bytesOfWord 256 c.toNat ++ (bytesOfWord 7 (Config.exportMac key eid ver size e c).toNat ++ [0])).take 256
      = bytesOfWord 256 c.toNat := List.take_left' (bytesOfWord_length _ _)
  have h2 : (bytesOfWord 256 c.toNat ++ (bytesOfWord 7 (Config.exportMac key eid ver size e c).toNat ++ [0])).drop 256
      = bytesOfWord 7 (Config.exportMac key eid ver size e c).toNat ++ [0] := List.drop_left' (bytesOfWord_length _ _)
  have h3 : BitVec.ofNat 2048 (leNat (bytesOfWord 256 c.toNat)) = c := by
    rw [leNat, wordOfBytes_bytesOfWord, pow_256, Nat.mod_eq_of_lt c.isLt, BitVec.ofNat_toNat, BitVec.setWidth_eq]
  have h4 : recField (bytesOfWord 256 c.toNat ++ (bytesOfWord 7 (Config.exportMac key eid ver size e c).toNat ++ [0])) 256 7
      = (Config.exportMac key eid ver size e c).toNat := by
    rw [recField, h2, List.take_left' (bytesOfWord_length _ _), leNat, wordOfBytes_bytesOfWord,
      Nat.mod_eq_of_lt (by simpa using (Config.exportMac key eid ver size e c).isLt)]
  have h5 : recField (bytesOfWord 256 c.toNat ++ (bytesOfWord 7 (Config.exportMac key eid ver size e c).toNat ++ [0])) 263 1
      = 0 := by
    rw [recField, ← List.append_assoc, List.drop_left' (by simp [bytesOfWord_length])]
    rfl
  rw [h1, h3, h4, h5]
  simp

/-- A piece of a list of pieces of one length. -/
theorem piece_of {α : Type} (n : Nat) (f : α → List Byte) : ∀ (l : List α) (i : Nat) (h : i < l.length),
    (∀ x ∈ l, (f x).length = n) → ((l.flatMap f).drop (n * i)).take n = f l[i]
  | x :: rest, 0, _, hf => by
    simp only [List.flatMap_cons, Nat.mul_zero, List.drop_zero, List.getElem_cons_zero]
    exact List.take_left' (hf x (List.mem_cons_self ..))
  | x :: rest, i + 1, h, hf => by
    rw [List.flatMap_cons, List.getElem_cons_succ, Nat.mul_succ, Nat.add_comm, ← List.drop_drop,
      List.drop_left' (hf x (List.mem_cons_self ..))]
    exact piece_of n f rest i (by simpa using h) (fun y hy => hf y (List.mem_cons_of_mem _ hy))

/-- What stands in host memory for an IMPORT: the request, and the record that EXPORT makes of a page of zeros, with EID 5
and VER 1. -/
def importBytes (key : Nat) : List Byte :=
  (bytesWith 256 (askFor 6 1 [0x9100, 0x1000]) ++ exportHeader 1 0 5 1)
    ++ (List.range 16).flatMap (fun e => sealEntry key 5 1 0 e (zeros 256))

def importing : State :=
  { worldly 6 [] [] with
    dies := [(0, { wid := 1 })], hostMem := ({} : Mem).setBytes 0x9000 (importBytes 0)
    worlds := [(1, { alive := true, vf := 7, seed := 0x1000100000, exports := [(5, 1, 0)] })] }

set_option maxRecDepth 8000 in
theorem importBytes_length : (importBytes 0).length = 320 + 16 * 264 := by
  unfold importBytes
  simp only [List.length_append, List.length_flatMap, sealEntry, bytesOfWord_length]
  decide

theorem importing_mem : importing.hostMem = ({} : Mem).setBytes 0x9000 (importBytes 0) := by simp only [importing]

theorem importing_head (i n : Nat) (h : i + n ≤ 320) :
    importing.hostBytes (0x9000 + i) n
      = ((bytesWith 256 (askFor 6 1 [0x9100, 0x1000]) ++ exportHeader 1 0 5 1).drop i).take n := by
  have hl : (bytesWith 256 (askFor 6 1 [0x9100, 0x1000]) ++ exportHeader 1 0 5 1).length = 320 := by decide +kernel
  rw [State.hostBytes, importing_mem, bytes_setBytes _ _ n i (by rw [importBytes_length]; omega), importBytes,
    List.drop_append_of_le_length (by omega),
    List.take_append_of_le_length (by rw [List.length_drop]; omega)]

theorem importing_entry (e : Nat) (h : e < 16) :
    importing.hostBytes (0x9100 + 64 + 264 * e) 264 = sealEntry 0 5 1 0 e (zeros 256) := by
  have hl : (bytesWith 256 (askFor 6 1 [0x9100, 0x1000]) ++ exportHeader 1 0 5 1).length = 320 := by decide +kernel
  have ha : 0x9100 + 64 + 264 * e = 0x9000 + (320 + 264 * e) := by omega
  rw [ha, State.hostBytes, importing_mem, bytes_setBytes _ _ 264 (320 + 264 * e) (by rw [importBytes_length]; omega),
    importBytes, ← List.drop_drop,
    List.drop_left' hl, piece_of 264 _ (List.range 16) e (by simpa using h) (fun x _ => by simp [sealEntry, bytesOfWord_length]),
    List.getElem_range]

theorem importing_opens : ∀ n e, e + n ≤ 16 → (importing.openRecord 0 5 1 0 0x9100 n e).isSome = true
  | 0, _, _ => rfl
  | n + 1, e, h => by
    obtain ⟨b, hb⟩ := Option.isSome_iff_exists.mp (openEntry_some 0 5 1 0 e (zeros 256))
    obtain ⟨r, hr⟩ := Option.isSome_iff_exists.mp (importing_opens n (e + 1) (by omega))
    rw [State.openRecord, importing_entry e (by omega), hb]
    simp [hr]

theorem witness_FramesMove_import :
    let s := importing
    Requested s 0x06 0x9000 ∧ s.requestWid = 1 ∧ s.worldAlive 1 = true ∧ s.arg 0 = 0x9100 ∧ s.arg 1 = 0x1000
      ∧ s.hostBytes 0x9100 64 = exportHeader 1 0 5 1 ∧ recField (exportHeader 1 0 5 1) 8 8 = 5
      ∧ recField (exportHeader 1 0 5 1) 16 8 = 1 ∧ recField (exportHeader 1 0 5 1) 5 1 = 0
      ∧ recField (exportHeader 1 0 5 1) 0 4 = exportMagic ∧ recField (exportHeader 1 0 5 1) 4 1 = 1
      ∧ zeroBytes (exportHeader 1 0 5 1) 6 2 = true ∧ zeroBytes (exportHeader 1 0 5 1) 24 40 = true
      ∧ s.inPool 1 0x1000 (pageBytes 0) = true
      ∧ (s.world 1).exports.any (fun e => e.1 == 5 && e.2.1 == 1 && e.2.2 == 0) = true
      ∧ s.openRecord (s.world 1).keys 5 1 0 0x9100 (pageBytes 0 / 256) 0 ≠ none := by
  have hq : ∀ off n, off + n ≤ 320 → importing.request off n
      = leNat (((bytesWith 256 (askFor 6 1 [0x9100, 0x1000]) ++ exportHeader 1 0 5 1).drop off).take n) :=
    fun off n h => congrArg leNat (importing_head off n h)
  have header : let h := exportHeader 1 0 5 1
      recField h 8 8 = 5 ∧ recField h 16 8 = 1 ∧ recField h 5 1 = 0 ∧ recField h 0 4 = exportMagic ∧ recField h 4 1 = 1
        ∧ zeroBytes h 6 2 = true ∧ zeroBytes h 24 40 = true := by decide +kernel
  obtain ⟨f1, f2, f3, f4, f5, f6, f7⟩ := header
  refine ⟨⟨rfl, ?_⟩, ?_, rfl, ?_, ?_, ?_, f1, f2, f3, f4, f5, f6, f7, by decide +kernel, rfl, ?_⟩
  · rw [hq 0 2 (by decide)]
    decide +kernel
  · rw [State.requestWid, hq 2 1 (by decide)]
    decide +kernel
  · rw [State.arg, hq (8 + 8 * 0) 8 (by decide)]
    decide +kernel
  · rw [State.arg, hq (8 + 8 * 1) 8 (by decide)]
    decide +kernel
  · rw [show 0x9100 = 0x9000 + 256 from rfl, importing_head 256 64 (by decide)]
    decide +kernel
  · intro h
    have := importing_opens 16 0 (by decide)
    rw [show importing.openRecord 0 5 1 0 0x9100 16 0 = none from h] at this
    simp at this

/-- An IMPORT of what the world has not exported. -/
theorem witness_FramesMove_refused :
    let s : State := { worldly 6 [0x9100, 0x1000] [] with dies := [(0, { wid := 1 })] }
    Requested s 0x06 0x9000 ∧ s.requestWid ≠ 0 ∧ s.worldAlive s.requestWid = true
      ∧ recField (s.hostBytes (s.arg 0) 64) 5 1 ≤ 11 ∧ s.arg 1 % pageBytes (recField (s.hostBytes (s.arg 0) 64) 5 1) = 0
      ∧ s.inPool s.requestWid (s.arg 1) (pageBytes (recField (s.hostBytes (s.arg 0) 64) 5 1)) = true
      ∧ recField (s.hostBytes (s.arg 0) 64) 0 4 ≠ exportMagic := by
  simp only [Requested]
  decide +kernel

/-- World 0 asks: SET_ROOT, also while a launch runs. -/
def rooting (op w : Byte) (args : List Nat) (r : List (Nat × Byte)) : State := requesting (askFor op w args) r

theorem witness_RootsQueuesAndWindows_root :
    let s := rooting 7 0 [0x2000] []
    Requested s 0x07 0x9000 ∧ s.requestWid = 0 ∧ s.arg 0 % 0x1000 = 0 ∧ s.ownsDram 0 (s.arg 0) 0x1000 = true
      ∧ s.launches.any (fun e => e.2.world == 0 && !s.isRun e.2) = false
      ∧ ({ s with launches := [(0, launch)] } : State).launches.any (fun e => e.2.world == 0 && !s.isRun e.2) = true := by
  simp only [Requested]
  decide +kernel

/-- The last queue there is, on a ring of two slots, free and taken. -/
theorem witness_RootsQueuesAndWindows_queue :
    let s := rooting 0x10 0 [0x9100, 2047] [(0, 0x80), (8, 2), (20, 1)]
    let t : State := { s with queues := [(2047, {})] }
    let u : State := { rooting 0x11 0 [3] [] with queues := [(3, queue)] }
    Requested s 0x10 0x9000 ∧ s.arg 1 < 2048 ∧ s.arg 0 % 64 = 0 ∧ s.worldAlive s.requestWid = true
      ∧ queueRecordLegal (s.hostBytes (s.arg 0) 64) = true ∧ s.queue (s.arg 1) = none ∧ (t.queue (t.arg 1)).isSome = true
      ∧ Requested u 0x11 0x9000 ∧ u.queue (u.arg 0) = some queue ∧ queue.wid = u.requestWid := by
  simp only [Requested]
  decide +kernel

/-- A window of the largest home next to the one that is there; the sixteenth and one too many. -/
theorem witness_RootsQueuesAndWindows_window :
    let s : State := { rooting 0x20 0 [0x2000, 0x1000, 255] [] with worlds := [(0, { windows := [(0x1000, 0x1000, 1)] })] }
    let t : State := { s with worlds := [(0, { windows := (List.range 16).map (fun i => (0x10000 + 0x1000 * i, 0x1000, 1)) })] }
    let u : State := { rooting 0x21 0 [0x1000] [] with worlds := [(0, { windows := [(0x1000, 0x1000, 1)] })] }
    Requested s 0x20 0x9000 ∧ s.worldAlive s.requestWid = true ∧ s.arg 0 % 0x1000 = 0 ∧ s.arg 1 % 0x1000 = 0 ∧ 0 < s.arg 1
      ∧ s.arg 1 ≤ 0x40000000 ∧ s.arg 2 < 256
      ∧ (∀ x ∈ (s.world s.requestWid).windows, s.arg 0 + s.arg 1 ≤ x.1 ∨ x.1 + x.2.1 ≤ s.arg 0) ∧ s.idleWorld s.requestWid = true
      ∧ (s.world s.requestWid).windows.length < 16
      ∧ (∀ x ∈ (t.world t.requestWid).windows, t.arg 0 + t.arg 1 ≤ x.1 ∨ x.1 + x.2.1 ≤ t.arg 0)
      ∧ 16 ≤ (t.world t.requestWid).windows.length
      ∧ Requested u 0x21 0x9000 ∧ (u.world u.requestWid).windows.any (fun x => x.1 == u.arg 0) = true
      ∧ u.idleWorld u.requestWid = true := by
  simp only [Requested]
  decide +kernel

theorem witness_RootsQueuesAndWindows_unlock : Requested (rooting 0x30 0 [0x9100] []) 0x30 0x9000 :=
  ⟨rfl, by decide +kernel⟩

/-- The mailbox is free, with a good request at MBADDR, one of no known operation, and one with a reserved byte set. -/
theorem witness_HostLink_mailbox :
    let free := fun (l : List (Nat × Byte)) => ({ requesting l [] with mailbox := { addr := 0x9000 } } : State)
    let s := free (askFor 3 1 [])
    let t := free (askFor 8 1 [])
    let u := free [(0, 3), (3, 1)]
    s.hostDown = false ∧ s.mailbox.busy = none ∧ (2 : DWord).getLsbD 1 = true ∧ (1 : DWord).getLsbD 0 = true
      ∧ zeroBytes (s.hostBytes 0x9000 64) 3 5 = true ∧ zeroBytes (s.hostBytes 0x9000 64) 36 28 = true
      ∧ requestStep (leNat ((s.hostBytes 0x9000 64).take 2)) = some .offer
      ∧ requestStep (leNat ((t.hostBytes 0x9000 64).take 2)) = none ∧ zeroBytes (u.hostBytes 0x9000 64) 3 5 = false := by
  decide +kernel

theorem witness_HostLink_down : ({ State.reset with hostDown := true } : State).hostDown = true := rfl

/-- World 1's function, before its interface is set up, with keys, and with the interface locked. -/
theorem witness_HostLink_function :
    let w : World := { alive := true, vf := 7 }
    let s : State := { State.reset with worlds := [(1, { w with ide := true })] }
    let t : State := { State.reset with worlds := [(1, { w with tdisp := .locked })] }
    s.hostDown = false ∧ s.boundWorld 7 = 1 ∧ (s.world 1).ide = true ∧ (s.world 1).tdisp ≠ .run
      ∧ t.boundWorld 7 = 1 ∧ (t.world 1).tdisp = .locked ∧ 1 ∈ s.confidential := by decide

theorem witness_ResetsClassesAndWear :
    let w : World := { alive := true, vf := 7 }
    let s : State := { State.reset with
      worlds := [(1, w)],
      packets := [{ barrier 0 [{ va := 0, place := .host, off := 0, cmp := 0, thr := 0 }] with idx := 1 }] }
    let t : State := { State.reset with packets := [packet 0 []], health := { debug := true } }
    s.boundWorld 7 ≠ 0 ∧ (s.world (s.boundWorld 7)).alive = true ∧ 1 ∈ s.confidential ∧ s.savedQueues = []
      ∧ s.packets.all Packet.waits = true ∧ t.packets.all Packet.waits = false ∧ t.health.debug = true ∧ s.health.debug = false
      ∧ ({ State.reset with subject := [0] } : State).subject = [0] := by decide

/-- Sixteen events of core 5 within a day, two uncontained errors of core 6, and die 3, whose ports have not trained. -/
theorem witness_ResetsClassesAndWear_retirement :
    let h : Health := { contained := [(5, (List.range 16).reverse)], cores := [(6, 2)], untrained := [3] }
    let s : State := { State.reset with health := h }
    s.dueCores = [5, 6] ∧ s.dueDies = [3] ∧ s.mapPending = false ∧ s.mapMoment = true := by decide

/-- A path that has just failed, one that has been down for 1 ms and one that has been down longer. -/
theorem witness_FabricPaths :
    let s := fun (n : Nat) => ({ State.reset with time := n, pathsDown := [(2, 0)], subject := [2, 0] } : State)
    2 ≠ State.reset.pkgid.toNat ∧ State.reset.pathsDown.has 2 = false ∧ (s 0).subject = [2, 0] ∧ (s 0).pathsDown.find 2 = some 0
      ∧ (s (4284 * 10 ^ 6)).time - 0 ≤ 4284 * 10 ^ 6 ∧ 4284 * 10 ^ 6 < (s (4284 * 10 ^ 6 + 1)).time - 0
      ∧ (s 0).unreachable.contains 2 = false ∧ (s 0).pkgid ≠ 0xFF := by decide


end Sys2Proof.Tests
end

section
/-! SUPPORT. The register g0 (R25): what reading, testing and writing it come to, and the proof of the statement about it.
Code 0 names index 0 in every mode, and index 0 keeps no write and reads as the default register. -/

namespace Sys2Proof.Machine

/-- Handler mode moves only g56 to g63 (R352), so g0 is the same register in both modes. -/
@[simp] theorem regIndex_zero (m : Mode) : regIndex m 0 = 0 := by
  cases m <;> rfl

@[simp] theorem Slot.reg_zero (sl : Slot) : sl.reg 0 = {} := by
  rw [Slot.reg, regIndex_zero, Slot.regAt_zero]

@[simp] theorem Slot.setReg_zero (sl : Slot) (r : Reg) : sl.setReg 0 r = sl := by
  rw [Slot.setReg, regIndex_zero, Slot.setRegAt_zero]

/-- One value that lands late is one register write. -/
theorem Slot.land_singleton (sl : Slot) (index : Nat) (v : Val) : sl.land index [v] = sl.setRegAt index v.toReg := rfl

theorem State.take_zero (s : State) : s.take 0 = some ({ w := 0, poison := false }, s) := by
  have h : s.take 0 = some ((s.me.reg 0).toVal, s) := State.take_reg (by decide)
  rw [h, Slot.reg_zero]
  rfl

/-- A single register is waited for as a destination exactly while it is empty (R27). -/
theorem State.dstWaits_reg {s : State} {code : Code} (h : code.toNat ≤ 63) :
    s.dstWaits { code := code } = !(s.me.reg code.toNat).full := by
  simp [State.dstWaits, h, Slot.fullFrom]

theorem State.dstWaits_zero (s : State) : s.dstWaits { code := 0 } = false := by
  have h : s.dstWaits { code := 0 } = !(s.me.reg 0).full := State.dstWaits_reg (by decide)
  rw [h, Slot.reg_zero]
  rfl

theorem State.me_put_zero (s : State) (v : Val) : (s.put 0 v).me = s.me := by
  have h : s.put 0 v = s.setMe (s.me.setReg 0 v.toReg) := State.put_reg v (by decide)
  rw [h, State.me_setMe, Slot.setReg_zero]

/-- Each slot has its own registers: a register write reaches no other slot. -/
theorem State.slot_put_reg_ne (s : State) {code : Code} (v : Val) {k : Nat} (h : code.toNat ≤ 63) (hk : k ≠ s.cur) :
    (s.put code v).slot k = s.slot k := by
  rw [State.put_reg v h]
  exact State.slot_setSlot_ne s _ hk

end Sys2Proof.Machine

namespace Sys2Proof.Statements

open Sys2Proof.Machine

/-- Settles O11: reads and writes of g0 come down to index 0, and a register write reaches the running slot only. -/
theorem registerZero : Obligations.RegisterZero := by
  unfold Obligations.RegisterZero
  refine ⟨fun s v => ⟨s.take_zero, s.dstWaits_zero, s.me_put_zero v, (s.put 0 v).take_zero⟩, fun sl v => ?_,
    fun s c v k hc hk => s.slot_put_reg_ne v (Nat.le_of_lt_succ hc) hk⟩
  have landed : sl.land 0 [v] = sl := by rw [Slot.land_singleton, Slot.setRegAt_zero]
  have fixed : sl.regAt 0 = {} := sl.regAt_zero
  exact ⟨landed, congrArg Reg.val fixed, congrArg Reg.full fixed, congrArg Reg.poison fixed⟩

end Sys2Proof.Statements
end

section
/-! SUPPORT. The modes (R11, R50): which instructions each mode runs, what the others answer, and the proof of the
statement about them. -/

namespace Sys2Proof

/-- The major of an instruction's parts (R43): the first field of its word. -/
def Parts.major : Parts → BitVec 8
  | .r op _ _ | .i op _ _ | .m op _ | .v op _ _ | .t op _ => op
  | .b _ _ => 0x06

/-- Every form begins with its major (R43). -/
theorem Parts.opOf_word (p : Parts) : opOf p.word = p.major := by
  cases p
  all_goals
    simp only [opOf, fieldOf, Parts.word, writeR, writeI, writeB, writeM, writeV, writeT]
    repeat rw [BitVec.extractLsb'_append_eq_of_le (by decide)]
    exact BitVec.extractLsb'_eq_self

theorem opOf_toNat (w : DWord) : (opOf w).toNat = w.toNat / 2 ^ 56 := by
  rw [opOf, fieldOf, BitVec.extractLsb'_toNat, Nat.shiftRight_eq_div_pow]
  exact Nat.mod_eq_of_lt (by have := w.isLt; omega)

/-- A word that an instruction is written as begins with the major of the instruction's parts. -/
theorem encode_eq_some {i : Instr} {w : DWord} (h : encode i = some w) :
    ∃ p, partsOf i = some p ∧ p.major.toNat = w.toNat / 2 ^ 56 := by
  obtain ⟨p, hp, rfl⟩ := Option.map_eq_some_iff.1 h
  exact ⟨p, hp, by rw [← opOf_toNat, Parts.opOf_word]⟩

end Sys2Proof

namespace Sys2Proof.Machine

open Sys2Proof.Statements (traps csrWriteOf)

/-! ## Which instructions a mode runs -/

/-- Translator mode runs no major above 9. -/
theorem modeLegal_major {i : Instr} {p : Parts} (hp : partsOf i = some p) (h : 9 < p.major.toNat) :
    modeLegal i true = false := by
  unfold modeLegal
  split
  case h_6 =>
    rw [hp]
    cases p with
    | r | i | m => exact decide_eq_false (Nat.not_le.2 h)
    | b => simp [Parts.major] at h
    | v | t => rfl
  all_goals
    cases hp
    simp [Parts.major] at h

/-- Translator mode runs LD, LDS and ST in their frozen form only (R11). -/
theorem modeLegal_memory_form {i : Instr} {f : MForm} (hi : i = .ld f ∨ i = .lds f ∨ i = .st f)
    (h : f.ord ≠ 0 ∨ f.scope ≠ 0 ∨ f.space ≠ 0 ∨ f.evict ≠ 0 ∨ f.rdc ≠ 0 ∨ 3 < f.size.toNat) :
    modeLegal i true = false := by
  have hb : (f.ord == 0 && f.scope == 0 && f.space == 0 && f.evict == 0 && f.rdc == 0
      && decide (f.size.toNat ≤ 3)) = false := by
    rw [← Bool.not_eq_true]
    simp only [Bool.and_eq_true, beq_iff_eq, decide_eq_true_eq]
    rintro ⟨⟨⟨⟨⟨h1, h2⟩, h3⟩, h4⟩, h5⟩, h6⟩
    simp only [h1, h2, h3, h4, h5, ne_eq, not_true_eq_false, false_or] at h
    omega
  rcases hi with rfl | rfl | rfl <;> exact hb

/-- Task and handler mode run every instruction but KEND and KMTR. -/
theorem modeLegal_native {i : Instr} (hk : ∀ f, i ≠ .kend f) (hm : ∀ f, i ≠ .kmtr f) : modeLegal i false = true := by
  unfold modeLegal
  split
  · exact absurd rfl (hk _)
  · exact absurd rfl (hm _)
  all_goals rfl

/-! ## What an instruction that its mode shuts out answers -/

theorem issueTo_shutOut {i : Instr} {a : Act Word} {s : State} (hm : modeLegal i s.me.xlt = false) :
    issueTo i a s = traps i s .illegal 0 0 := by
  rw [issueTo, hm]
  rfl

theorem issue_shutOut {i : Instr} {a : Act Unit} {s : State} (hm : modeLegal i s.me.xlt = false) :
    issue i a s = traps i s .illegal 0 0 :=
  issueTo_shutOut hm

theorem issueLast_shutOut {i : Instr} {a : Act Unit} {s : State} (hm : modeLegal i s.me.xlt = false) :
    issueLast i a s = traps i s .illegal 0 0 := by
  rw [issueLast, hm]
  rfl

theorem execTrev_shutOut {f : RForm} {s : State} (hm : modeLegal (.trev f) s.me.xlt = false) :
    execTrev f s = traps (.trev f) s .illegal 0 0 := by
  rw [execTrev, hm]
  rfl

/-- Every instruction that has a word traps ILLEGAL where its mode shuts it out. -/
theorem exec_shutOut {i : Instr} {p : Parts} {s : State} (hp : partsOf i = some p)
    (hm : modeLegal i s.me.xlt = false) : exec i s = traps i s .illegal 0 0 := by
  cases i <;> cases hp
  case exit => exact issueLast_shutOut hm
  case trev => exact execTrev_shutOut hm
  case beq | bne | blt | bge | bltb | bgeb | jal | jalr | eret => exact issueTo_shutOut hm
  case rem | remb | fdivF64 | fsqrtF64 => exact issue_shutOut (a := emulatedWord) hm
  case brk | nop | yield => simp only [exec, execBrk, execNop, execYield, issue_shutOut hm]
  all_goals exact issue_shutOut hm

/-! ## PRIV -/

theorem Act.trapIf_true {c : Bool} {cause : Cause} {v v2 : DWord} {s : State} (h : c = true) :
    Act.trapIf c cause v v2 s = .error (.trap cause v v2) := by
  rw [h]
  rfl

theorem Act.bind_error {α β : Type} {a : Act α} {f : α → Act β} {s : State} {e : Stop} (h : a s = .error e) :
    (a >>= f) s = .error e := by
  simp only [bind, StateT.bind, Except.bind, h]

theorem Act.me_bind {β : Type} (f : Slot → Act β) (s : State) : (Act.me >>= f) s = f s.me s := rfl

theorem issueTo_trap {i : Instr} {a : Act Word} {s : State} {c : Cause} {v v2 : DWord} (hm : modeLegal i s.me.xlt = true)
    (ha : a s = .error (.trap c v v2)) : issueTo i a s = traps i s c v v2 := by
  rw [issueTo, hm, ha]
  rfl

theorem issue_trap {i : Instr} {a : Act Unit} {s : State} {c : Cause} {v v2 : DWord} (hm : modeLegal i s.me.xlt = true)
    (ha : a s = .error (.trap c v v2)) : issue i a s = traps i s c v v2 :=
  issueTo_trap hm (Act.bind_error ha)

/-- Task mode has no access to CSRs 0x001 to 0x009 (R38). -/
theorem csrAccess_task_none {n : Nat} (h1 : 1 ≤ n) (h9 : n ≤ 9) : csrAccess .task n = .none := by
  rw [csrAccess, if_neg (by omega), if_pos h9]
  rfl

/-- A CSR instruction traps PRIV where the mode has no access to its register (R74). -/
theorem csrOp_priv {f : IForm} {op : Option (Word → Word → Word)} {s : State}
    (h : csrAccess s.me.mode f.imm.toNat = .none) : csrOp f op s = .error (.trap .priv 0 0) := by
  rw [csrOp, Act.me_bind]
  exact Act.bind_error (Act.trapIf_true (by rw [h]; rfl))

theorem exec_eret_task {f : IForm} {s : State} (hx : s.me.xlt = false) (ht : s.me.mode = .task) :
    exec (.eret f) s = traps (.eret f) s .priv 0 0 := by
  refine issueTo_trap (by rw [hx]; rfl) ?_
  rw [Act.me_bind]
  exact Act.bind_error (Act.trapIf_true (by simpa using ht))

theorem csrWriteOf_form {i : Instr} {f : IForm} (h : (csrWriteOf i).map Prod.fst = some f) :
    i = .csrw f ∨ i = .csrs f ∨ i = .csrc f := by
  unfold csrWriteOf at h
  split at h
  · exact .inl (by cases h; rfl)
  · exact .inr (.inl (by cases h; rfl))
  · exact .inr (.inr (by cases h; rfl))
  · cases h

/-- Outside translator mode a CSR instruction traps PRIV where the mode has no access to its register. -/
theorem exec_csr_priv {i : Instr} {f : IForm} {s : State} (hi : i = .csrr f ∨ (csrWriteOf i).map Prod.fst = some f)
    (hx : s.me.xlt = false) (h : csrAccess s.me.mode f.imm.toNat = .none) : exec i s = traps i s .priv 0 0 := by
  rcases hi with rfl | hw
  · exact issue_trap (by rw [hx]; rfl) (csrOp_priv h)
  · rcases csrWriteOf_form hw with rfl | rfl | rfl <;> exact issue_trap (by rw [hx]; rfl) (csrOp_priv h)

end Sys2Proof.Machine

namespace Sys2Proof.Statements

open Sys2Proof.Machine

/-- Settles O9: an instruction that its mode shuts out answers ILLEGAL whatever it means, and ERET and the CSR
instructions check the mode before anything else. -/
theorem modesNarrowTheLegalSet : Obligations.ModesNarrowTheLegalSet := by
  unfold Obligations.ModesNarrowTheLegalSet
  refine ⟨fun i w s hw hx hmajor => ?_, fun i f s hi hx hform => ?_, fun i f s hi hx => ?_, fun f s => exec_eret_task,
    fun i f s hi hx ht h1 h9 => exec_csr_priv hi hx (by rw [ht]; exact csrAccess_task_none h1 h9),
    fun i w _ => modeLegal_native⟩
  · obtain ⟨p, hp, hm⟩ := encode_eq_some hw
    exact exec_shutOut hp (by rw [hx]; exact modeLegal_major hp (by rw [hm]; exact hmajor))
  · have shut : modeLegal i s.me.xlt = false := by
      rw [hx]
      exact modeLegal_memory_form hi hform
    rcases hi with rfl | rfl | rfl <;> exact exec_shutOut rfl shut
  · rcases hi with rfl | rfl <;> exact exec_shutOut rfl hx

end Sys2Proof.Statements
end

section
/-! SUPPORT. TRAP, BRK, ERET and NOP (R75 to R78): the fields they leave zero, what an action that ends well and a trap that
a handler takes come to, and the proof of the statement about these instructions. -/

namespace Sys2Proof

/-- An I-form instruction that uses IMM32 alone holds zero in D, A and EP. -/
theorem IForm.fits_imm {f : IForm} {r : ImmRule} (h : f.fits { imm := r } = true) :
    f.d = 0 ∧ f.a = 0 ∧ f.ep = 0 ∧ r.accepts f.imm = true := by
  simp only [IForm.fits, OpClass.accepts, Bool.and_eq_true, beq_iff_eq] at h
  obtain ⟨⟨⟨hd, ha⟩, hep⟩, himm⟩ := h
  have mask : ~~~(0 : BitVec 1) = BitVec.allOnes 1 := rfl
  rw [mask, BitVec.and_allOnes] at hep
  exact ⟨hd, ha, hep, himm⟩

/-- An I-form instruction that uses no field is the one of zeros. -/
theorem IForm.fits_zero {f : IForm} (h : f.fits { imm := .zero } = true) : f = {} := by
  obtain ⟨d, a, ep, imm⟩ := f
  obtain ⟨rfl, rfl, rfl, himm⟩ := IForm.fits_imm h
  have zero : imm = 0 := eq_of_beq himm
  rw [zero]

/-- A well-formed TRAP holds zero in D (R75). -/
theorem Instr.wf_trap_d {f : IForm} (h : Instr.wf (.trap f) = true) : f.d = 0 := by
  simp only [Instr.wf, IForm.fits, OpClass.accepts, Bool.and_eq_true, beq_iff_eq] at h
  obtain ⟨⟨⟨hd, -⟩, -⟩, -⟩ := h
  exact hd

end Sys2Proof

namespace Sys2Proof.Machine

open Sys2Proof.Statements (traps retired Ready Handled)

/-! ## Running an action to its end -/

theorem issueTo_ok {i : Instr} {a : Act Word} {s t : State} {next : Word} (hm : modeLegal i s.me.xlt = true)
    (ha : a s = .ok (next, t)) : issueTo i a s = .next (t.retireAt s.cur s.me.pc next) := by
  rw [issueTo, hm, ha]
  rfl

/-- After a first action that ends well the second runs on its state. -/
theorem Act.bind_run {α β : Type} {a : Act α} {f : α → Act β} {s t : State} {x : α} (h : a s = .ok (x, t)) :
    (a >>= f) s = f x t := by
  simp only [bind, StateT.bind, Except.bind, h]

/-! ## The four instructions -/

/-- TRAP is legal in every mode (R75). -/
theorem modeLegal_trap (f : IForm) (x : Bool) : modeLegal (.trap f) x = true := by
  cases x <;> rfl

/-- TRAP reads A and traps with the immediate and A's value, poisoned or not (R75). -/
theorem exec_trap {f : IForm} {s s1 : State} {a : Val} (hr : Ready (.trap f) [f.srcA] [] s)
    (ha : s.take f.a = some (a, s1)) :
    exec (.trap f) s = traps (.trap f) s .trap (f.imm.zeroExtend 64) (a.w.zeroExtend 64) := by
  obtain ⟨hm, hc⟩ := hr
  refine issue_trap hm ?_
  rw [Act.bind_run hc, Act.bind_run (rd_ok.2 ha)]
  rfl

theorem exec_brk {f : IForm} {s : State} (hm : modeLegal (.brk f) s.me.xlt = true) :
    exec (.brk f) s = traps (.brk f) s .break (f.imm.zeroExtend 64) 0 :=
  issue_trap (a := Act.trap .break (f.imm.zeroExtend 64) 0) hm rfl

/-- ERET in handler mode takes the slot out of its handler and goes on at XPC (R77). -/
theorem exec_eret_handler {f : IForm} {s : State} (hx : s.me.xlt = false) (hh : s.me.mode = .handler) :
    exec (.eret f) s = .next ((s.setMe s.me.leaveHandler).retireAt s.cur s.me.pc s.me.xpc) := by
  have noTrap : Act.trapIf (decide (s.me.mode = .task)) .priv 0 0 s = .ok ((), s) :=
    Act.trapIf_ok.2 ⟨by simp [hh], rfl⟩
  refine issueTo_ok (by rw [hx]; rfl) ?_
  rw [Act.me_bind, Act.bind_run noTrap]
  rfl

theorem exec_eret_translator {f : IForm} {s : State} (hx : s.me.xlt = true) :
    exec (.eret f) s = traps (.eret f) s .illegal 0 0 :=
  exec_shutOut rfl (by rw [hx]; rfl)

theorem exec_nop {f : IForm} {s : State} (hx : s.me.xlt = false) : exec (.nop f) s = retired s s :=
  issue_ok (i := .nop f) (a := pure ()) (by rw [hx]; rfl) rfl

/-! ## A trap that a handler takes (R55, R351) -/

theorem State.leaveWaits_cur (s : State) (k : Nat) : (s.leaveWaits k).cur = s.cur := rfl

theorem State.withdrawArrival_cur (s : State) (k : Nat) : (s.withdrawArrival k).cur = s.cur := by
  rw [State.withdrawArrival, State.modSlot_eq, State.setSlot_cur, (State.modCluster_same _ _ _).1,
    (State.withdrawCluster_same s k).1]

theorem State.leaveFor_cur (s : State) (k : Nat) (c : Cause) : (s.leaveFor k c).cur = s.cur := by
  unfold State.leaveFor
  split
  · rw [State.leaveQueues, State.leaveWaits_cur, State.withdrawArrival_cur]
  · rw [State.leaveWaits_cur]

/-- Leaving the event unit changes what the slot waits for there and what it has seen of a line, nothing else of it. -/
theorem State.leaveFor_slot_frame (s : State) (k : Nat) (c : Cause) :
    ∃ a d, (s.leaveFor k c).slot k = { s.slot k with arrived := a, depart := d, signalled := false } := by
  rw [State.leaveFor_slot]
  split
  · exact ⟨none, none, rfl⟩
  · exact ⟨(s.slot k).arrived, (s.slot k).depart, rfl⟩

/-- Outside the emulation span a trap reports the slot's own program counter (R313). -/
theorem Slot.trapPc_eq_pc {sl : Slot} {l : Launch} (h : l.emulates sl.pc = false) : sl.trapPc (some l) = sl.pc := by
  simp [Slot.trapPc, h]

/-- What a trap makes of its slot before a handler or an end of the launch follows: its trap registers are written, and
what it waited for is dropped (R55). -/
def Slot.trapped (sl : Slot) (c : Cause) (xpc : Word) (v v2 iw : DWord) : Slot :=
  { (sl.saveTrap c xpc v v2 iw).dropHostOp with
    parked := none, yielded := none, request := none, granted := false,
    atsFail := none, atsOnce := [], arrival := none, trcSusp := false, library := none }

@[simp] theorem Slot.dropHostOp_xpc (sl : Slot) : sl.dropHostOp.xpc = sl.xpc := by
  unfold Slot.dropHostOp
  split <;> rfl

@[simp] theorem Slot.trapped_xpc (sl : Slot) (c : Cause) (xpc : Word) (v v2 iw : DWord) :
    (sl.trapped c xpc v v2 iw).xpc = xpc :=
  Slot.dropHostOp_xpc _

@[simp] theorem Slot.enterHandler_xpc (sl : Slot) (base bound : Word) : (sl.enterHandler base bound).xpc = sl.xpc := rfl

/-- A trap with a handler that takes it changes its slot alone, once the slot has left the event unit: the trap is saved at
the slot's own program counter, and the slot enters the handler. -/
theorem State.takeTrap_handled {s : State} {c : Cause} {l : Launch} {base len : Nat} (v v2 iw : DWord)
    (h : Handled s c l base len) :
    s.takeTrap s.cur c v v2 iw =
      (s.leaveFor s.cur c).setSlot s.cur
        ((((s.leaveFor s.cur c).slot s.cur).trapped c s.me.pc v v2 iw).enterHandler
          (BitVec.ofNat 32 base) (BitVec.ofNat 32 (base + len))) := by
  obtain ⟨hl, hh, ht, hx, he⟩ := h
  obtain ⟨a, d, hs⟩ := s.leaveFor_slot_frame s.cur c
  have hpc : ((s.leaveFor s.cur c).slot s.cur).pc = s.me.pc := by rw [hs, State.me_eq]
  have hmode : ((s.leaveFor s.cur c).slot s.cur).mode = .task := by rw [hs]; exact ht
  have hxlt : ((s.leaveFor s.cur c).slot s.cur).xlt = false := by rw [hs]; exact hx
  have hlaunch : (s.leaveFor s.cur c).launchOn (dieOfCore (coreOfSlot s.cur)) = some l := hl
  have hxpc : ((s.leaveFor s.cur c).slot s.cur).trapPc (some l) = s.me.pc :=
    (Slot.trapPc_eq_pc (by rw [hpc, he])).trans hpc
  simp [State.takeTrap, hlaunch, hh, hmode, hxlt, hxpc, hpc, Slot.trapped]

/-- The saved program counter is that of the instruction that trapped (R55). -/
theorem traps_xpc {i : Instr} {s t : State} {l : Launch} {base len : Nat} {c : Cause} {v v2 : DWord}
    (h : Handled s c l base len) (ht : traps i s c v v2 = .next t) : t.me.xpc = s.me.pc := by
  have hcur := s.leaveFor_cur s.cur c
  cases ht
  rw [State.takeTrap_handled v v2 _ h, State.me_eq, State.issued_slot]
  show (((s.leaveFor s.cur c).setSlot s.cur _).slot (s.leaveFor s.cur c).cur).xpc = _
  rw [hcur, State.slot_setSlot_same, Slot.enterHandler_xpc, Slot.trapped_xpc]

end Sys2Proof.Machine

namespace Sys2Proof.Statements

open Sys2Proof.Machine

/-- Settles O12: each instruction by the equation for its mode, and the saved program counter by what a trap with a handler
makes of its slot. -/
theorem systemInstructions : Obligations.SystemInstructions := by
  unfold Obligations.SystemInstructions
  refine ⟨fun f s s1 a => exec_trap, fun f x => ⟨modeLegal_trap f x, Instr.wf_trap_d⟩, fun f s => exec_brk,
    fun f hw => ?_,
    fun i s l base len c v v2 t => traps_xpc, fun f s => exec_eret_handler, fun f s => exec_eret_task,
    fun f s => exec_eret_translator, fun f s => exec_nop, fun f => ⟨IForm.fits_zero, IForm.fits_zero⟩, ?_⟩
  · obtain ⟨hd, ha, hep, -⟩ := IForm.fits_imm hw
    exact ⟨hd, ha, hep⟩
  · exact ⟨rfl, rfl, rfl, rfl⟩

end Sys2Proof.Statements
end

section
/-! SUPPORT. What a write of KICK leaves in the queue registers (R333, R334). In the error state the write drops every packet
that it offers, and each drop reports an end: it translates addresses, writes home and lowers a signal. None of that touches
a queue, so every operation of that path gets its frame here: it leaves `State.queues` as they are. -/

namespace Sys2Proof.Machine

/-! ## Tables of listed values -/

section
variable {α : Type}

theorem Assoc.find_erase_same (m : Assoc α) (k : Nat) : (m.erase k).find k = none := by
  induction m with
  | nil => rfl
  | cons e rest ih =>
    by_cases h : e.1 = k
    · simpa [Assoc.erase, h] using ih
    · simp only [Assoc.erase, List.filter_cons] at ih ⊢
      simp [h, Assoc.find, ih]

theorem Assoc.find_insert_same {m : Assoc α} {k : Nat} (v : α) (h : m.find k = none) : (m.insert k v).find k = some v := by
  induction m with
  | nil => simp [Assoc.insert, Assoc.find]
  | cons e rest ih =>
    have he : e.1 ≠ k := fun he => by simp [Assoc.find, he] at h
    simp only [Assoc.find, he, if_false] at h
    unfold Assoc.insert
    split
    · simp [Assoc.find]
    · simp [Assoc.find, he, ih h]

@[simp] theorem Assoc.find_put_same (m : Assoc α) (k : Nat) (v : α) : (m.put k v).find k = some v :=
  Assoc.find_insert_same v (Assoc.find_erase_same m k)

end

theorem State.queue_modQueue_same {s : State} {q : Nat} {x : Queue} (f : Queue → Queue) (h : s.queue q = some x) :
    (s.modQueue q f).queue q = some (f x) := by
  have hx : s.queues.find q = some x := h
  simp [State.modQueue, State.queue, hx]

theorem State.queue_of_queues_eq {s t : State} (h : t.queues = s.queues) (q : Nat) : t.queue q = s.queue q :=
  congrArg (fun m => Assoc.find m q) h

theorem State.foldl_queues {α : Type} {f : State → α → State} (hf : ∀ s a, (f s a).queues = s.queues) (l : List α)
    (s : State) : (l.foldl f s).queues = s.queues := by
  induction l generalizing s with
  | nil => rfl
  | cons a rest ih => exact (ih (f s a)).trans (hf s a)

/-! ## Translating an address (R99 to R109) -/

@[simp] theorem State.fillTlb_queues (s : State) (e : TlbEntry) : (s.fillTlb e).queues = s.queues := by
  unfold State.fillTlb
  exact (apply_ite State.queues _ _ _).trans (ite_self _)

@[simp] theorem State.fillMicro_queues (s : State) (t : Translator) (e : TlbEntry) :
    (s.fillMicro t e).queues = s.queues := by
  unfold State.fillMicro
  split
  · split
    · rfl
    · exact s.fillTlb_queues _
  · rfl

@[simp] theorem State.addLag_queues (s : State) (t : Translator) (n : Nat) : (s.addLag t n).queues = s.queues := by
  unfold State.addLag
  split <;> rfl

@[simp] theorem State.requestAts_queues (s : State) (t : Translator) (pasid va : Nat) (write : Bool) :
    (s.requestAts t pasid va write).queues = s.queues := by
  unfold State.requestAts
  split <;> rfl

@[simp] theorem State.modAts_queues (s : State) (id : Nat) (f : AtsReq → AtsReq) : (s.modAts id f).queues = s.queues := rfl

@[simp] theorem State.failAts_queues (s : State) (r : AtsReq) (c : Cause) (code : Nat) :
    (s.failAts r c code).queues = s.queues := by
  unfold State.failAts State.failUsers
  refine State.foldl_queues (fun s u => ?_) _ _
  split <;> rfl

@[simp] theorem State.sendPri_queues (s : State) (r : AtsReq) : (s.sendPri r).queues = s.queues := by
  unfold State.sendPri
  split
  · exact s.failAts_queues _ _ _
  · split <;> rfl

@[simp] theorem State.requestPri_queues (s : State) (t : Translator) (pasid va : Nat) (write : Bool) :
    (s.requestPri t pasid va write).queues = s.queues := by
  unfold State.requestPri
  simp only
  split <;> simp

@[simp] theorem State.takeFailure_queues (s : State) (t : Translator) (va : Nat) :
    (s.takeFailure t va).2.queues = s.queues := by
  unfold State.takeFailure
  split
  · split
    · simp only
      split <;> rfl
    · rfl
  · split <;> rfl

@[simp] theorem State.takeOnce_queues (s : State) (t : Translator) (va : Nat) (write : Bool) :
    (s.takeOnce t va write).2.queues = s.queues := by
  unfold State.takeOnce
  split
  · rfl
  · split <;> rfl

@[simp] theorem State.hostTranslate_queues (s : State) (t : Translator) (va : Nat) (write : Bool) :
    (s.hostTranslate t va write).2.queues = s.queues := by
  have failure := s.takeFailure_queues t va
  unfold State.hostTranslate
  split
  · rfl
  · split
    · rfl
    · split
      next h => rwa [h] at failure
      next u h =>
        rw [h] at failure
        have once := u.takeOnce_queues t va write
        split
        next h => rw [h] at once; exact once.trans failure
        next h => rw [h] at once; simpa using once.trans failure

@[simp] theorem State.translateBy_queues (s : State) (e : TlbEntry) (t : Translator) (va : Nat) (write : Bool) :
    (s.translateBy e t va write).2.queues = s.queues := by
  have failure := s.takeFailure_queues t va
  unfold State.translateBy
  split
  · split <;> rfl
  · split
    · rfl
    · by_cases granted : (if write then e.w else e.r) = true
      · rw [if_pos granted]
      · rw [if_neg granted]
        split
        next h => rwa [h] at failure
        next h =>
          rw [h] at failure
          split
          · exact failure
          · simpa using failure

@[simp] theorem State.translate_queues (s : State) (t : Translator) (va : Nat) (write : Bool) :
    (s.translate t va write).2.queues = s.queues := by
  unfold State.translate
  split
  · rfl
  · split
    · simp only
      split <;> simp
    · simp only
      split <;> simp

/-! ## Writing home (R85, R93, R277, R362, R367) -/

@[simp] theorem State.modPacket_queues (s : State) (id : Nat) (f : Packet → Packet) :
    (s.modPacket id f).queues = s.queues := rfl

@[simp] theorem State.setMemAt_queues (s : State) (p : Place) (m : Mem) : (s.setMemAt p m).queues = s.queues := by
  cases p <;> rfl

@[simp] theorem State.judge_queues (s : State) (p : Packet) : (s.judge p).queues = s.queues := by
  unfold State.judge
  simp only
  split
  · rfl
  · split
    · rfl
    · split <;> rfl

@[simp] theorem State.wakeWaiters_queues (s : State) (p : Piece) (who : Nat → Bool) :
    (s.wakeWaiters p who).queues = s.queues := by
  unfold State.wakeWaiters
  refine State.foldl_queues (fun s e => ?_) _ _
  split
  · split <;> rfl
  · rfl

@[simp] theorem State.wakeWords_queues (s : State) (p : Piece) : (s.wakeWords p).queues = s.queues := by
  unfold State.wakeWords State.signalWritten
  rw [State.wakeWaiters_queues]
  split
  · exact State.foldl_queues State.judge_queues _ _
  · rfl

@[simp] theorem State.setLine_queues (s : State) (l1 key : Nat) (x : Line) : (s.setLine l1 key x).queues = s.queues := rfl

@[simp] theorem State.dropLine_queues (s : State) (l1 key : Nat) : (s.dropLine l1 key).queues = s.queues := rfl

@[simp] theorem State.logWrite_queues (s : State) (w : Nat) (p : Place) (a : Nat) :
    (s.logWrite w p a).queues = s.queues := by
  unfold State.logWrite
  split
  · simp only
    split <;> rfl
  · split <;> rfl
  · rfl

@[simp] theorem State.logRange_queues (s : State) (w : Nat) (p : Place) (a n : Nat) :
    (s.logRange w p a n).queues = s.queues := by
  unfold State.logRange
  split
  · rfl
  · split
    · exact State.foldl_queues (fun s _ => s.logWrite_queues _ _ _) _ _
    · exact State.foldl_queues (fun s _ => s.logWrite_queues _ _ _) _ _
    · rfl

@[simp] theorem State.homeByte_queues (s : State) (w : Nat) (p : Place) (a : Nat) (v : Byte) (poison : Bool) :
    (s.homeByte w p a v poison).queues = s.queues := by
  simp [State.homeByte]

@[simp] theorem State.homePoison_queues (s : State) (w : Nat) (p : Place) (a : Nat) :
    (s.homePoison w p a).queues = s.queues := by
  simp [State.homePoison]

@[simp] theorem State.raiseVersion_queues (s : State) (p : Place) (a : Nat) : (s.raiseVersion p a).queues = s.queues := by
  unfold State.raiseVersion
  split
  · split <;> rfl
  · rfl

@[simp] theorem State.putHome_queues (s : State) (l1 key : Nat) : (s.putHome l1 key).queues = s.queues := by
  unfold State.putHome
  split
  · rfl
  next x _ =>
    have clean : ∀ (w : Nat) (p : Place) (t : State), (x.bytes.foldl (fun s e =>
        if e.2.dirty then s.homeByte w p (lineBase key + e.1) e.2.val e.2.poison else s) t).queues = t.queues := by
      intro w p t
      refine State.foldl_queues (fun s e => ?_) _ _
      split
      · exact s.homeByte_queues _ _ _ _ _
      · rfl
    simp only
    split <;> simp [clean, State.foldl_queues]

@[simp] theorem State.forgetClean_queues (s : State) (l1 key : Nat) : (s.forgetClean l1 key).queues = s.queues := by
  unfold State.forgetClean
  split <;> rfl

@[simp] theorem State.invalidateOthers_queues (s : State) (keep : List Nat) (key : Nat) :
    (s.invalidateOthers keep key).queues = s.queues := by
  unfold State.invalidateOthers
  simp only
  split <;> simp [State.foldl_queues]

@[simp] theorem State.homeWrite_queues (s : State) (w : Nat) (p : Place) (a : Nat) (bs : List Byte) (poison : Bool) :
    (s.homeWrite w p a bs poison).queues = s.queues := by
  unfold State.homeWrite
  simp only [State.wakeWords_queues, State.raiseVersion_queues, State.setMemAt_queues]
  have coherent : (if p.cached then s.invalidateOthers [] (lineKey p a) else s).queues = s.queues := by
    split
    · exact s.invalidateOthers_queues _ _
    · rfl
  split <;> rw [State.logRange_queues, coherent]

/-! ## The front end's accesses (R394) -/

/-- What the access leaves behind when it goes through has the queues it began with. -/
def Front.KeepsQueues {α : Type} (a : Front α) : Prop := ∀ s x t, a s = .ok (x, t) → t.queues = s.queues

theorem Front.keepsQueues_pure {α : Type} (x : α) : Front.KeepsQueues (pure x) := by
  intro s y t h
  cases h
  rfl

theorem Front.keepsQueues_bind {α β : Type} {a : Front α} {f : α → Front β} (ha : Front.KeepsQueues a)
    (hf : ∀ x, Front.KeepsQueues (f x)) : Front.KeepsQueues (a >>= f) := by
  intro s y t h
  cases hr : a s with
  | error e =>
    have herr : (a >>= f) s = .error e := by simp [bind, StateT.bind, hr, Except.bind]
    rw [herr] at h
    cases h
  | ok r =>
    have hok : (a >>= f) s = f r.1 r.2 := by simp [bind, StateT.bind, hr, Except.bind]
    exact (hf r.1 r.2 y t (hok ▸ h)).trans (ha s r.1 r.2 hr)

theorem Front.keepsQueues_state : Front.KeepsQueues Front.state := by
  intro s x t h
  cases h
  rfl

theorem Front.keepsQueues_modify {f : State → State} (hf : ∀ s, (f s).queues = s.queues) :
    Front.KeepsQueues (Front.modify f) := by
  intro s x t h
  cases h
  exact hf s

theorem frontPlace_keepsQueues (t : Translator) (va : Nat) (write : Bool) : (frontPlace t va write).KeepsQueues := by
  intro s x u h
  have frame := s.translate_queues t va write
  unfold frontPlace at h
  split at h
  next ht => rw [ht] at frame; cases h; exact frame
  next ht => rw [ht] at frame; cases h; exact frame
  · cases h
  · cases h

theorem frontReads_keepsQueues (t : Translator) (ranges : List (Nat × Nat)) : (frontReads t ranges).KeepsQueues := by
  induction ranges with
  | nil => exact Front.keepsQueues_pure _
  | cons r rest ih =>
    exact Front.keepsQueues_bind (frontPlace_keepsQueues _ _ _) fun _ => Front.keepsQueues_bind Front.keepsQueues_state
      fun _ => Front.keepsQueues_bind ih fun _ => Front.keepsQueues_pure _

theorem frontRead_keepsQueues (t : Translator) (va n : Nat) : (frontRead t va n).KeepsQueues :=
  frontReads_keepsQueues t _

theorem frontWrites_keepsQueues (t : Translator) (ranges : List (Nat × Nat)) (bs : List (Byte × Bool)) :
    (frontWrites t ranges bs).KeepsQueues := by
  induction ranges generalizing bs with
  | nil => exact Front.keepsQueues_pure _
  | cons r rest ih =>
    exact Front.keepsQueues_bind (frontPlace_keepsQueues _ _ _) fun _ =>
      Front.keepsQueues_bind (Front.keepsQueues_modify fun s => s.homeWrite_queues _ _ _ _ _) fun _ => ih _

theorem frontWrite_keepsQueues (t : Translator) (va : Nat) (bs : List (Byte × Bool)) : (frontWrite t va bs).KeepsQueues :=
  frontWrites_keepsQueues t _ bs

theorem frontUpdate_keepsQueues (t : Translator) (va : Nat) (f : DWord → DWord) : (frontUpdate t va f).KeepsQueues := by
  refine Front.keepsQueues_bind (frontPlace_keepsQueues _ _ _) fun p => Front.keepsQueues_modify fun s => ?_
  refine (State.homeWrite_queues _ _ _ _ _ _).trans ?_
  split
  · exact s.invalidateOthers_queues _ _
  · rfl

/-! ## Reporting the end of a packet (R340, R345) -/

theorem State.dropBytes_keepsQueues (s : State) (p : Packet) : (s.dropBytes p).KeepsQueues := by
  unfold State.dropBytes
  split
  · exact Front.keepsQueues_pure _
  · exact Front.keepsQueues_bind (frontRead_keepsQueues _ _ _) fun _ => Front.keepsQueues_pure _

theorem recordStep_keepsQueues (p : Packet) (v : EndValues) : (recordStep p v).KeepsQueues := by
  intro s x t h
  unfold recordStep at h
  split at h
  · cases h; rfl
  · split at h
    · cases h; rfl
    · split at h
      next hw => cases h; exact frontWrite_keepsQueues _ _ _ _ _ _ hw
      · cases h; rfl
      · cases h

theorem signalStep_keepsQueues (p : Packet) (v : EndValues) : (signalStep p v).KeepsQueues := by
  intro s x t h
  unfold signalStep at h
  split at h
  · cases h; rfl
  · split at h
    · cases h; rfl
    · split at h
      next hu => cases h; exact frontUpdate_keepsQueues _ _ _ _ _ _ hu
      · cases h
      · cases h; rfl

theorem rewriteStep_keepsQueues (p : Packet) (v : EndValues) : (rewriteStep p v).KeepsQueues := by
  unfold rewriteStep
  split
  · exact Front.keepsQueues_pure _
  · exact Front.keepsQueues_bind (frontWrite_keepsQueues _ _ _) fun _ => frontWrite_keepsQueues _ _ _

@[simp] theorem State.removePacket_queues (s : State) (id : Nat) : (s.removePacket id).queues = s.queues := rfl

@[simp] theorem State.report_queues (s : State) (p : Packet) (v : EndValues) : (s.report p v).2.queues = s.queues := by
  have read : Front.KeepsQueues (if p.dropped && p.bytes.isEmpty then s.dropBytes p else pure p.bytes) := by
    split
    · exact s.dropBytes_keepsQueues p
    · exact Front.keepsQueues_pure _
  unfold State.report
  simp only
  split
  · simp
  · simp
  next bytes s1 h1 =>
    rw [← read _ _ _ h1]
    split
    · simp
    · simp
    next v2 s2 h2 =>
      rw [← recordStep_keepsQueues _ _ _ _ _ h2]
      split
      · simp
      · simp
      next h3 => exact (signalStep_keepsQueues _ _ _ _ _ h3).trans rfl
      next v3 s3 h3 =>
        have signal : s3.queues = s2.queues := (signalStep_keepsQueues _ _ _ _ _ h3).trans rfl
        rw [← signal]
        split
        · simp
        · simp
        next h4 => exact (rewriteStep_keepsQueues _ _ _ _ _ h4).trans rfl

@[simp] theorem State.endOne_queues (s : State) (p : Packet) (v : EndValues) : (s.endOne p v).2.queues = s.queues := by
  unfold State.endOne
  split
  · exact State.report_queues _ p v
  · exact s.report_queues p v

@[simp] theorem State.dropOne_queues (s : State) (q : Nat) (x : Queue) (i : Word) : (s.dropOne q x i).queues = s.queues :=
  State.endOne_queues _ _ _

/-- Dropping what a queue still offers moves its RIDX up to KICK and changes nothing else of it (R345). -/
theorem State.queue_dropRest {s : State} {q : Nat} {x : Queue} (h : s.queue q = some x) :
    (s.dropRest q).queue q = some { x with ridx := x.kick } := by
  unfold State.dropRest
  simp only [h]
  rw [State.queue_of_queues_eq (State.foldl_queues (fun s i => s.dropOne_queues q x _) _ _)]
  exact State.queue_modQueue_same _ h

/-! ## KICK (R334) -/

/-- An index lies this far beyond another, modulo 2^32. -/
theorem Word.toNat_sub_eq (w r : Word) : (w - r).toNat = (w.toNat + 2 ^ 32 - r.toNat) % 2 ^ 32 := by
  have hr := r.isLt
  rw [BitVec.toNat_sub]
  congr 1
  omega

theorem execKick_ignored {s : State} {q : Nat} {x : Queue} {w : Word} (h : s.queue q = some x)
    (hw : ¬ ((x.kick - x.ridx).toNat < (w - x.ridx).toNat ∧ (w - x.ridx).toNat ≤ x.nslot)) : execKick q w s = .next s := by
  have out : (!(decide ((x.kick - x.ridx).toNat < (w - x.ridx).toNat) && decide ((w - x.ridx).toNat ≤ x.nslot))) = true := by
    rw [← Bool.decide_and, decide_eq_false hw, Bool.not_false]
  simp only [execKick, h, out, Bool.or_true, if_true]

/-- An accepted write sets KICK. A queue in its error state drops at once what it was offered, so its RIDX follows. -/
theorem execKick_accepted {s : State} {q : Nat} {x : Queue} {w : Word} (h : s.queue q = some x)
    (hd : x.draining = false) (hx : x.destroying = false) (hw : (x.kick - x.ridx).toNat < (w - x.ridx).toNat)
    (hn : (w - x.ridx).toNat ≤ x.nslot) :
    ∃ t, execKick q w s = .next t ∧ t.queue q = some { x with kick := w, ridx := if x.error then w else x.ridx } := by
  have kicked : (s.modQueue q (fun x => { x with kick := w })).queue q = some { x with kick := w } :=
    State.queue_modQueue_same _ h
  refine ⟨_, rfl, ?_⟩
  simp only [h, hd, hx, hw, hn, decide_true, Bool.and_self, Bool.not_true, Bool.or_self, Bool.false_eq_true, if_false]
  cases he : x.error with
  | false => simpa [he, hd, hx] using kicked
  | true => simpa [he, hd, hx] using State.queue_dropRest kicked

end Sys2Proof.Machine

namespace Sys2Proof.Statements

open Sys2Proof.Machine

/-- Settles O13: the model compares differences of words, which are the statement's differences modulo 2^32; what an accepted
write leaves of the queue is read off its own rule, drops in the error state included. -/
theorem kickWrites : Obligations.KickWrites := by
  unfold Obligations.KickWrites
  intro s q x w h hd hx
  simp only [← Word.toNat_sub_eq]
  refine ⟨fun ⟨hw, hn⟩ => ?_, fun hw => execKick_ignored h hw⟩
  obtain ⟨t, ht, hq⟩ := execKick_accepted h hd hx hw hn
  exact ⟨t, _, ht, hq, rfl⟩

end Sys2Proof.Statements
end

section
/-! SUPPORT. The decoder and the encoder undo each other (R42 to R48): the fields of a word are read back as they were written
and written back as they were read, and a row of the tables of R47 holds the instruction that the encoder gives its major and
function. -/

namespace Sys2Proof

/-- The form of an instruction's parts. -/
def Parts.kind : Parts → FormKind
  | .r _ _ _ => .rForm
  | .i _ _ _ => .iForm
  | .b _ _ => .bForm
  | .m _ _ => .mForm
  | .v _ _ _ => .vForm
  | .t _ _ => .tForm

/-! ## The fields of a word (R43) -/

/-- The field written last is read back. -/
theorem extractLsb'_append_low {v w : Nat} (x : BitVec v) (y : BitVec w) : (x ++ y).extractLsb' 0 w = y := by
  rw [BitVec.extractLsb'_append_eq_of_add_le (by omega), BitVec.extractLsb'_eq_self]

/-- Every field of a word that parts are written to is read back: the fields behind it are passed over one by one. -/
theorem readParts_word (p : Parts) : readParts p.kind p.word = p := by
  have major := p.opOf_word
  cases p
  all_goals
    simp only [Parts.kind, readParts, readR, readI, readB, readM, readV, readT, fieldOf, Parts.word, writeR, writeI,
      writeB, writeM, writeV, writeT]
    congr
  all_goals
    repeat rw [BitVec.extractLsb'_append_eq_of_le (by decide)]
    exact extractLsb'_append_low _ _

theorem reservedZero_word (p : Parts) : reservedZero p.kind p.word = true := by
  cases p
  case m | v => rfl
  all_goals
    simp only [Parts.kind, reservedZero, beq_iff_eq, fieldOf, Parts.word, writeR, writeI, writeB, writeT]
    repeat rw [BitVec.extractLsb'_append_eq_of_le (by decide)]
    exact extractLsb'_append_low _ _

/-- The B-form has one major (R71). -/
theorem opOf_of_formOf_b {w : DWord} (h : formOf (opOf w).toNat = some .bForm) : opOf w = 0x06 := by
  unfold formOf at h
  split at h
  case h_6 heq => exact BitVec.eq_of_toNat_eq heq
  all_goals cases h

/-- A word whose reserved bits are zero is written back from its parts: neighbouring fields join until the word stands. -/
theorem word_readParts {k : FormKind} {w : DWord} (hk : formOf (opOf w).toNat = some k) (h : reservedZero k w = true) :
    (readParts k w).word = w := by
  cases k
  case mForm | vForm =>
    simp only [readParts, readM, readV, Parts.word, writeM, writeV, opOf, fieldOf]
    repeat rw [BitVec.extractLsb'_append_extractLsb'_eq_extractLsb' (by decide)]
    exact BitVec.extractLsb'_eq_self
  all_goals simp only [reservedZero, beq_iff_eq] at h
  case bForm =>
    simp only [readParts, readB, Parts.word, writeB, ← opOf_of_formOf_b hk, ← h, opOf, fieldOf]
    repeat rw [BitVec.extractLsb'_append_extractLsb'_eq_extractLsb' (by decide)]
    exact BitVec.extractLsb'_eq_self
  all_goals
    simp only [readParts, readR, readI, readT, Parts.word, writeR, writeI, writeT, ← h, opOf, fieldOf]
    repeat rw [BitVec.extractLsb'_append_extractLsb'_eq_extractLsb' (by decide)]
    exact BitVec.extractLsb'_eq_self

/-! ## The tables (R47) -/

theorem lookup_eq_some {α : Type} {table : List (Option (α → Instr))} {fn : Nat} {f : α} {i : Instr}
    (h : lookup table fn f = some i) : ∃ mk, table[fn]? = some (some mk) ∧ i = mk f := by
  unfold lookup at h
  split at h
  next mk hmk => cases h; exact ⟨mk, hmk, rfl⟩
  next => cases h

/-- The rows of a table, from function value n on, are the instructions that the encoder gives those parts. -/
def Encodes {α : Type} (parts : Nat → α → Parts) : Nat → List (Option (α → Instr)) → Prop
  | _, [] => True
  | n, none :: rest => Encodes parts (n + 1) rest
  | n, some mk :: rest => (∀ f, partsOf (mk f) = some (parts n f)) ∧ Encodes parts (n + 1) rest

theorem Encodes.row {α : Type} {parts : Nat → α → Parts} {n : Nat} {table : List (Option (α → Instr))}
    (h : Encodes parts n table) {k : Nat} {mk : α → Instr} (hk : table[k]? = some (some mk)) (f : α) :
    partsOf (mk f) = some (parts (n + k) f) := by
  induction table generalizing n k with
  | nil => cases hk
  | cons row rest ih =>
    have tail : Encodes parts (n + 1) rest := by
      cases row with
      | none => exact h
      | some _ => exact h.2
    cases k with
    | zero => cases hk; exact h.1 f
    | succ k => rw [← Nat.add_assoc, Nat.add_right_comm]; exact ih tail hk

theorem Encodes.lookup {α : Type} {parts : Nat → α → Parts} {table : List (Option (α → Instr))} {fn : Nat} {f : α}
    {i : Instr} (ht : Encodes parts 0 table) (h : lookup table fn f = some i) : partsOf i = some (parts fn f) := by
  obtain ⟨mk, hmk, rfl⟩ := lookup_eq_some h
  rw [ht.row hmk f, Nat.zero_add]

theorem partsOf_instrOfR {op fn : Nat} {f : RForm} {i : Instr} (h : instrOfR op fn f = some i) :
    partsOf i = some (.r (BitVec.ofNat 8 op) (BitVec.ofNat 8 fn) f) := by
  unfold instrOfR at h
  split at h
  case h_21 => cases h
  case h_3 =>
    split at h
    · exact Encodes.lookup (parts := fun n f => .r 0x11 (BitVec.ofNat 8 n) f) (by simp [Encodes, rTable11, partsOf]) h
    · have wide := Encodes.lookup (parts := fun n f => .r 0x11 (BitVec.ofNat 8 (n + 0x80)) f)
        (by simp [Encodes, rTable11Wide, partsOf]) h
      rwa [Nat.sub_add_cancel (by omega)] at wide
  case h_4 | h_12 => cases h; rfl
  case h_15 =>
    split at h
    next hfn => subst hfn; split at h <;> (cases h; rfl)
    next =>
      exact Encodes.lookup (parts := fun n f => .r 0x50 (BitVec.ofNat 8 n) f) (by simp [Encodes, rTable50, partsOf]) h
  case h_17 =>
    split at h
    next hfn => subst hfn; cases h; rfl
    next => cases h; rfl
  all_goals
    refine Encodes.lookup (parts := fun n f => .r _ (BitVec.ofNat 8 n) f) ?_ h
    simp [Encodes, partsOf, rTable01, rTable10, rTable20, rTable21, rTable22, rTable23, rTable28, rTable38, rTable39,
      rTable3D, rTable4A, rTable58, rTable5A, rTable61, rTable62]

theorem partsOf_instrOfI {op fn : Nat} {f : IForm} {i : Instr} (h : instrOfI op fn f = some i) :
    partsOf i = some (.i (BitVec.ofNat 8 op) (BitVec.ofNat 7 fn) f) := by
  unfold instrOfI at h
  split at h
  case h_8 => cases h
  all_goals
    refine Encodes.lookup (parts := fun n f => .i _ (BitVec.ofNat 7 n) f) ?_ h
    simp [Encodes, partsOf, iTable02, iTable07, iTable08, iTable09, iTable13, iTable15, iTable60]

theorem partsOf_instrOfV {op fn : Nat} {f : VForm} {i : Instr} (h : instrOfV op fn f = some i) :
    partsOf i = some (.v (BitVec.ofNat 8 op) (BitVec.ofNat 6 fn) f) := by
  unfold instrOfV at h
  split at h
  case h_7 => cases h
  case h_3 => cases h; rfl
  all_goals
    refine Encodes.lookup (parts := fun n f => .v _ (BitVec.ofNat 6 n) f) ?_ h
    simp [Encodes, partsOf, vTable30, vTable31, vTable33, vTable34, vTable35]

theorem partsOf_instrOfM {op : Nat} {f : MForm} {i : Instr} (h : instrOfM op f = some i) :
    partsOf i = some (.m (BitVec.ofNat 8 op) f) := by
  unfold instrOfM at h
  split at h
  case h_15 => cases h
  all_goals cases h; rfl

theorem partsOf_instrOfT {op : Nat} {f : TForm} {i : Instr} (h : instrOfT op f = some i) :
    partsOf i = some (.t (BitVec.ofNat 8 op) f) := by
  unfold instrOfT at h
  split at h
  case h_11 => cases h
  all_goals cases h; rfl

/-- An instruction that the tables give for the parts of a word has those parts. -/
theorem partsOf_of_instrOfParts {p : Parts} {i : Instr} (h : instrOfParts p = some i) : partsOf i = some p := by
  cases p with
  | r op fn f => simpa using partsOf_instrOfR h
  | i op fn f => simpa using partsOf_instrOfI h
  | b fn f =>
    simpa using Encodes.lookup (parts := fun n f => .b (BitVec.ofNat 7 n) f) (by simp [Encodes, bTable, partsOf]) h
  | m op f => simpa using partsOf_instrOfM h
  | v op fn f => simpa using partsOf_instrOfV h
  | t op f => simpa using partsOf_instrOfT h

/-! ## The form of a major (R43, R47) -/

theorem formOf_of_instrOfR {op fn : Nat} {f : RForm} {i : Instr} (h : instrOfR op fn f = some i) :
    formOf op = some .rForm := by
  unfold instrOfR at h
  split at h
  case h_21 => cases h
  all_goals rfl

theorem formOf_of_instrOfI {op fn : Nat} {f : IForm} {i : Instr} (h : instrOfI op fn f = some i) :
    formOf op = some .iForm := by
  unfold instrOfI at h
  split at h
  case h_8 => cases h
  all_goals rfl

theorem formOf_of_instrOfV {op fn : Nat} {f : VForm} {i : Instr} (h : instrOfV op fn f = some i) :
    formOf op = some .vForm := by
  unfold instrOfV at h
  split at h
  case h_7 => cases h
  all_goals rfl

theorem formOf_of_instrOfM {op : Nat} {f : MForm} {i : Instr} (h : instrOfM op f = some i) :
    formOf op = some .mForm := by
  unfold instrOfM at h
  split at h
  case h_15 => cases h
  all_goals rfl

theorem formOf_of_instrOfT {op : Nat} {f : TForm} {i : Instr} (h : instrOfT op f = some i) :
    formOf op = some .tForm := by
  unfold instrOfT at h
  split at h
  case h_11 => cases h
  all_goals rfl

/-- The form of the major that names an instruction is the form of its parts. -/
theorem formOf_major {p : Parts} {i : Instr} (h : instrOfParts p = some i) : formOf p.major.toNat = some p.kind := by
  cases p with
  | r => exact formOf_of_instrOfR h
  | i => exact formOf_of_instrOfI h
  | b => rfl
  | m => exact formOf_of_instrOfM h
  | v => exact formOf_of_instrOfV h
  | t => exact formOf_of_instrOfT h

set_option maxRecDepth 8000 in
/-- The tables name a well-formed instruction by its own parts. -/
theorem instrOfParts_partsOf {i : Instr} {p : Parts} (hp : partsOf i = some p) (hw : i.wf = true) :
    instrOfParts p = some i := by
  cases i
  case fcvt fn f => exact Laws.Table.fcvt fn f p hp hw
  case vset fmt f => exact Laws.Table.vset fmt f p hp hw
  case vcmp rel f => exact Laws.Table.vcmp rel f p hp hw
  case sendChannel ch f => exact Laws.Table.sendChannel ch f p hp hw
  case tgmapView f => exact Laws.Table.tgmapView f p hp hw
  case tgmapDelta f => exact Laws.Table.tgmapDelta f p hp hw
  all_goals
    cases hp <;> rfl

/-! ## Decoding -/

theorem decode_ok_iff {w : DWord} {i : Instr} :
    decode w = .ok i ↔ ∃ k, formOf (opOf w).toNat = some k ∧ instrOfParts (readParts k w) = some i
      ∧ reservedZero k w = true ∧ i.wf = true := by
  unfold decode
  constructor
  · intro h
    split at h
    · cases h
    next k hk =>
      split at h
      · cases h
      next j hj =>
        split at h
        next hr =>
          split at h
          next hw => cases h; exact ⟨k, hk, hj, hr, hw⟩
          · cases h
        · cases h
  · rintro ⟨k, hk, hi, hr, hw⟩
    simp only [hk, hi, hr, hw, if_true]

theorem decode_encode {i : Instr} {w : DWord} (hw : i.wf = true) (h : encode i = some w) : decode w = .ok i := by
  obtain ⟨p, hp, rfl⟩ := Option.map_eq_some_iff.1 h
  have named := instrOfParts_partsOf hp hw
  refine decode_ok_iff.2 ⟨p.kind, ?_, ?_, reservedZero_word p, hw⟩
  · rw [p.opOf_word, formOf_major named]
  · rw [readParts_word, named]

theorem encode_decode {i : Instr} {w : DWord} (h : decode w = .ok i) : i.wf = true ∧ encode i = some w := by
  obtain ⟨k, hk, hi, hr, hw⟩ := decode_ok_iff.1 h
  refine ⟨hw, ?_⟩
  rw [encode, partsOf_of_instrOfParts hi, Option.map_some, word_readParts hk hr]

theorem decode_unassigned {w : DWord} (h : formOf (w.toNat / 2 ^ 56) = none) : decode w = .error .unassignedMajor := by
  rw [decode, opOf_toNat, h]

end Sys2Proof

namespace Sys2Proof.Statements

/-- Settles O1: the word of an instruction holds its parts, and the tables name the instruction by them. -/
theorem decodeInvertsEncode : Obligations.DecodeInvertsEncode := by
  unfold Obligations.DecodeInvertsEncode
  exact fun i w => decode_encode

/-- Settles O2: the tables name an instruction by its own parts only, and the parts of a word without reserved bits make the
word again. -/
theorem encodeInvertsDecode : Obligations.EncodeInvertsDecode := by
  unfold Obligations.EncodeInvertsDecode
  exact ⟨fun w i => encode_decode, fun w h => ⟨_, decode_unassigned h⟩⟩

/-- Settles O3: each word is read by the table of its major. -/
theorem tableWordsDecode : Obligations.TableWordsDecode := by
  unfold Obligations.TableWordsDecode
  refine ⟨rfl, rfl, rfl, rfl, rfl, ⟨_, decode_unassigned rfl⟩⟩

end Sys2Proof.Statements
end

section
/-! SUPPORT. Every step answers a next state (R390): an instruction because it retires, traps or parks, a step of the device
because its meaning is a state; a step of the machine is one of the two, or only moves the cycle on. -/

namespace Sys2Proof.Machine

/-! ## Instructions and steps of the device -/

theorem issueTo_answers (i : Instr) (a : Act Word) (s : State) : ∃ t, issueTo i a s = .next t := by
  rcases issueTo_cases i a s with ⟨_, _, _, _, h⟩ | ⟨_, _, _, h⟩ | ⟨_, h⟩
  · exact ⟨_, h⟩
  · exact ⟨_, h⟩
  · exact ⟨_, h⟩

theorem issueLast_answers (i : Instr) (a : Act Unit) (s : State) : ∃ t, issueLast i a s = .next t := by
  unfold issueLast
  repeat' split
  all_goals exact ⟨_, rfl⟩

theorem execTrev_answers (f : RForm) (s : State) : ∃ t, execTrev f s = .next t := by
  unfold execTrev
  repeat' split
  all_goals exact ⟨_, rfl⟩

theorem exec_word_answers {i : Instr} {p : Parts} (hp : partsOf i = some p) (s : State) : ∃ t, exec i s = .next t := by
  cases i <;> cases hp
  case exit => exact issueLast_answers _ _ _
  case trev f => exact execTrev_answers f s
  case beq | bne | blt | bge | bltb | bgeb | jal | jalr | eret => exact issueTo_answers _ _ _
  case rem | remb | fdivF64 | fsqrtF64 => exact issue_answers _ emulatedWord _
  case brk | nop | yield =>
    simp only [exec, execBrk, execNop, execYield]
    exact issue_answers _ _ _
  all_goals exact issue_answers _ _ _

theorem execLandingFptrap_answers (s : State) : ∃ t, execLandingFptrap s = .next t := by
  unfold execLandingFptrap
  simp only
  split
  · exact ⟨_, rfl⟩
  · exact ⟨_, rfl⟩

theorem execMeterExhausted_answers (s : State) : ∃ t, execMeterExhausted s = .next t := by
  unfold execMeterExhausted
  simp only
  split
  · exact ⟨_, rfl⟩
  · exact ⟨_, rfl⟩

theorem execAtsInvalidation_answers (pasid : Option Nat) (va len : Nat) (s : State) :
    ∃ t, execAtsInvalidation pasid va len s = .next t := by
  unfold execAtsInvalidation
  split
  · exact ⟨_, rfl⟩
  · exact ⟨_, rfl⟩

theorem exec_device_answers {i : Instr} (hp : partsOf i = none) (s : State) : ∃ t, exec i s = .next t := by
  cases i <;> cases hp
  case landingFptrap => exact execLandingFptrap_answers s
  case meterExhausted => exact execMeterExhausted_answers s
  case atsInvalidation pasid va len => exact execAtsInvalidation_answers pasid va len s
  all_goals exact ⟨_, rfl⟩

theorem exec_answers (i : Instr) (s : State) : ∃ t, exec i s = .next t := by
  cases hp : partsOf i with
  | none => exact exec_device_answers hp s
  | some p => exact exec_word_answers hp s

/-! ## Steps of the machine -/

theorem runEmulation_answers (e : Nat × Nat × Nat × Nat) (s : State) : ∃ t, s.runEmulation e = .next t := by
  unfold State.runEmulation
  split
  · exact issueTo_answers _ _ _
  · exact ⟨_, rfl⟩

theorem runSlot_answers (k : Nat) (s : State) : ∃ t, runSlot k s = .next t := by
  unfold runSlot
  simp only
  split
  · exact exec_answers _ _
  split
  · exact ⟨_, rfl⟩
  split
  · exact ⟨_, rfl⟩
  split
  · exact exec_answers _ _
  split
  · exact runEmulation_answers _ _
  split
  · exact exec_answers _ _
  · exact exec_answers _ _

theorem step_answers {s : State} (h : s.frozen = false) : ∃ t, step s = .next t := by
  unfold step
  rw [if_neg (by simp [h])]
  split
  · exact exec_answers _ _
  split
  · split
    · split
      · exact exec_answers _ _
      · exact ⟨_, rfl⟩
    · exact ⟨_, rfl⟩
  · split
    · exact runSlot_answers _ _
    · exact ⟨_, rfl⟩

/-- A frozen package stops exactly while no power-on reset is due. -/
theorem step_frozen_iff {s : State} (h : s.frozen = true) :
    step s = .fault .frozen ↔ s.agenda.all (fun d => !isPowerOn d.step) = true := by
  rw [step, if_pos h, State.thaw, List.all_eq_true, ← List.dropWhile_eq_nil_iff]
  split
  next d rest hd =>
    obtain ⟨t, ht⟩ := exec_answers d.step { s with agenda := rest, subject := d.subject }
    rw [ht, hd]
    exact ⟨fun hf => (by cases hf), fun hf => (by cases hf)⟩
  next hd => exact ⟨fun _ => hd, fun _ => rfl⟩

end Sys2Proof.Machine

namespace Sys2Proof.Statements

open Sys2Proof.Machine

/-- Settles O5: by the shape of each meaning; the freeze is lifted by the first power-on reset of the agenda. -/
theorem everyStepAnswers : Obligations.EveryStepAnswers := by
  unfold Obligations.EveryStepAnswers
  exact ⟨exec_answers, fun s => step_answers, fun s => step_frozen_iff⟩

end Sys2Proof.Statements
end

section
/-! SUPPORT. What a step does for the slot that issues next (R52), one lemma for each of the things that can come first, and the
traps that come before an instruction executes. -/

namespace Sys2Proof.Machine

open Sys2Proof.Statements (traps emulatedPair)

/-! ## Which part of the machine a step runs -/

theorem step_early {s : State} {d : Due} {rest : List Due} (hf : s.frozen = false) (he : s.early = d :: rest) :
    step s = exec d.step { s with early := rest, subject := d.subject } := by
  simp [step, hf, he]

theorem step_issue {s : State} {k n : Nat} (hf : s.frozen = false) (he : s.early = []) (hc : s.closing = false)
    (hn : s.nextIssuer = some (k, n)) : step s = runSlot k { s with cur := k, turn := coreOfSlot k, tried := n } := by
  simp [step, hf, he, hc, hn]

theorem step_close {s : State} (hf : s.frozen = false) (he : s.early = []) (hc : s.closing = false)
    (hn : s.nextIssuer = none) : step s = .next s.close := by
  simp [step, hf, he, hc, hn]

theorem step_due {s : State} {d : Due} {rest : List Due} (hf : s.frozen = false) (he : s.early = []) (hc : s.closing = true)
    (ha : s.agenda = d :: rest) (hd : d.at_ ≤ s.cycle) :
    step s = exec d.step { s with agenda := rest, subject := d.subject } := by
  simp [step, hf, he, hc, ha, hd]

theorem step_tick {s : State} {d : Due} {rest : List Due} (hf : s.frozen = false) (he : s.early = []) (hc : s.closing = true)
    (ha : s.agenda = d :: rest) (hd : s.cycle < d.at_) : step s = .next s.tick := by
  simp [step, hf, he, hc, ha, hd]

/-! ## What comes before the word decides (R40, R42, R292, R312) -/

/-- A landing FPTRAP is to be taken, and the slot runs a task. -/
def Slot.LandingDue (sl : Slot) : Prop := sl.fptrap ≠ 0 ∧ sl.mode = .task

/-- The program counter is aligned and inside the code bound. -/
def Slot.FetchInBounds (sl : Slot) : Prop :=
  sl.pc.toNat % 8 = 0 ∧ sl.cbase.toNat ≤ sl.pc.toNat ∧ sl.pc.toNat < sl.cbound.toNat

theorem Slot.fetchLegal_iff (sl : Slot) : sl.fetchLegal = true ↔ sl.FetchInBounds := by
  simp [Slot.fetchLegal, Slot.FetchInBounds, and_assoc]

theorem Slot.landingDue_iff (sl : Slot) : (sl.fptrap != 0 && decide (sl.mode = .task)) = true ↔ sl.LandingDue := by
  simp [Slot.LandingDue]

theorem runSlot_landing {s : State} (h : s.me.LandingDue) : runSlot s.cur s = exec .landingFptrap s :=
  if_pos ((Slot.landingDue_iff _).2 h)

theorem runSlot_fetchTrap {s : State} (hl : ¬ s.me.LandingDue) (hb : ¬ s.me.FetchInBounds) :
    runSlot s.cur s = s.fetchTrap := by
  have outside : (!s.me.fetchLegal) = true := by
    rw [Bool.not_eq_true', ← Bool.not_eq_true, Slot.fetchLegal_iff]
    exact hb
  exact (if_neg (mt (Slot.landingDue_iff _).1 hl)).trans (if_pos outside)

/-- Neither trap comes before the fetch. -/
def State.MayFetch (s : State) : Prop := ¬ s.me.LandingDue ∧ s.me.FetchInBounds

/-- Where no trap comes before the fetch, the slot's word, its meter and the library decide. -/
theorem runSlot_fetch {s : State} (h : s.MayFetch) :
    runSlot s.cur s =
      if !s.fetched s.cur then .next (s.fetchMiss s.cur)
      else if s.me.xlt && s.me.kmeter == 0 then exec .meterExhausted s
      else
        match s.emulationAt s.cur with
        | some e => s.runEmulation e
        | none =>
          match decode (s.codeWord s.myDie s.me.pc) with
          | .ok i => exec i s
          | .error _ => exec .illegalInstruction { s with subject := [(s.codeWord s.myDie s.me.pc).toNat] } := by
  obtain ⟨hl, hb⟩ := h
  have inside : ¬ (!s.me.fetchLegal) = true := by simp [(Slot.fetchLegal_iff _).2 hb]
  refine (if_neg (mt (Slot.landingDue_iff _).1 hl)).trans ((if_neg inside).trans ?_)
  rfl

theorem runSlot_fetchMiss {s : State} (h : s.MayFetch) (hf : s.fetched s.cur = false) :
    runSlot s.cur s = .next (s.fetchMiss s.cur) := by
  rw [runSlot_fetch h, hf]
  rfl

theorem runSlot_meterExhausted {s : State} (h : s.MayFetch) (hf : s.fetched s.cur = true) (hx : s.me.xlt = true)
    (hk : s.me.kmeter = 0) : runSlot s.cur s = exec .meterExhausted s := by
  rw [runSlot_fetch h, hf, hx, hk]
  rfl

/-- The word has been fetched, and the meter lets it run. -/
def State.HasWord (s : State) : Prop :=
  s.MayFetch ∧ s.fetched s.cur = true ∧ (s.me.xlt = true → s.me.kmeter ≠ 0)

theorem runSlot_hasWord {s : State} (h : s.HasWord) :
    runSlot s.cur s =
      match s.emulationAt s.cur with
      | some e => s.runEmulation e
      | none =>
        match decode (s.codeWord s.myDie s.me.pc) with
        | .ok i => exec i s
        | .error _ => exec .illegalInstruction { s with subject := [(s.codeWord s.myDie s.me.pc).toNat] } := by
  obtain ⟨hm, hf, hk⟩ := h
  have fetched : ¬ (!s.fetched s.cur) = true := by simp [hf]
  have runs : ¬ (s.me.xlt && s.me.kmeter == 0) = true := by
    rw [Bool.and_eq_true, beq_iff_eq]
    exact fun ⟨hx, h0⟩ => hk hx h0
  exact (runSlot_fetch hm).trans ((if_neg fetched).trans (if_neg runs))

theorem runSlot_emulation {s : State} {e : Nat × Nat × Nat × Nat} (h : s.HasWord) (he : s.emulationAt s.cur = some e) :
    runSlot s.cur s = s.runEmulation e := by
  rw [runSlot_hasWord h, he]

theorem runSlot_instruction {s : State} {i : Instr} (h : s.HasWord) (he : s.emulationAt s.cur = none)
    (hd : decode (s.codeWord s.myDie s.me.pc) = .ok i) : runSlot s.cur s = exec i s := by
  rw [runSlot_hasWord h, he]
  simp only [hd]

theorem runSlot_illegal {s : State} {e : Reject} (h : s.HasWord) (he : s.emulationAt s.cur = none)
    (hd : decode (s.codeWord s.myDie s.me.pc) = .error e) :
    runSlot s.cur s = exec .illegalInstruction { s with subject := [(s.codeWord s.myDie s.me.pc).toNat] } := by
  rw [runSlot_hasWord h, he]
  simp only [hd]

/-! ## The traps (R40, R50, R51, R79) -/

theorem exec_emulatedPair {i : Instr} {s : State} (hi : emulatedPair i = true) (hm : modeLegal i s.me.xlt = true) :
    exec i s = traps i s .illegal 0 0 := by
  unfold emulatedPair at hi
  split at hi
  case h_5 => cases hi
  all_goals exact issue_trap (a := emulatedWord) hm rfl

theorem exec_landingFptrap {s : State} (h : s.me.LandingDue) :
    exec .landingFptrap s = .next (((({ s with draws := s.draws + 1 } : State).setMe { s.me with fptrap := 0, landed := 0 }).takeTrap
      s.cur .fptrap (s.me.landed &&& s.me.fenable).toNat 0 (Config.freeWord s.draws)).issued s.cur) :=
  if_pos ((Slot.landingDue_iff _).2 h)

theorem exec_illegalInstruction {s : State} {w : DWord} (h : s.subject = [w.toNat]) :
    exec .illegalInstruction s = .next ((s.takeTrap s.cur .illegal 0 0 w).issued s.cur) := by
  rw [exec, execIllegalInstruction, h, List.headD_cons, BitVec.ofNat_toNat, BitVec.setWidth_eq]

/-! ## The state after reset -/

theorem State.canonical_reset : State.reset.canonical := by
  intro m hm
  have listed : m ∈ [({} : Mem), {}] := hm
  simp only [List.mem_cons, List.not_mem_nil, or_false, or_self] at listed
  rw [listed]
  exact Mem.wf_empty

end Sys2Proof.Machine

namespace Sys2Proof.Statements

open Sys2Proof.Machine

/-- Settles O4: a step runs the slot that issues next, and what it does there is decided in the order of R52. -/
theorem stepRunsTheDecodedInstruction : Obligations.StepRunsTheDecodedInstruction := by
  unfold Obligations.StepRunsTheDecodedInstruction
  refine ⟨fun s k n hf he hc hn => ?_, fun s => step_close,
    fun s d rest hf he hc ha => ⟨step_due hf he hc ha, step_tick hf he hc ha⟩, fun s d rest => step_early⟩
  intro s1 sl pending inBounds word
  have issues : step s = runSlot s1.cur s1 := step_issue hf he hc hn
  rw [issues]
  refine ⟨runSlot_landing, runSlot_fetchTrap, fun hl hb => runSlot_fetchMiss ⟨hl, hb⟩,
    fun hl hb => runSlot_meterExhausted ⟨hl, hb⟩, fun hl hb hw hk => ?_⟩
  have hasWord : s1.HasWord := ⟨⟨hl, hb⟩, hw, hk⟩
  exact ⟨fun e => runSlot_emulation hasWord, fun he => ⟨fun i => runSlot_instruction hasWord he,
    fun e => runSlot_illegal hasWord he⟩⟩

/-- Settles O19: each of these traps before anything executes. -/
theorem trapsBeforeExecution : Obligations.TrapsBeforeExecution := by
  unfold Obligations.TrapsBeforeExecution
  exact ⟨fun i s => exec_emulatedPair, fun s hf hm => exec_landingFptrap ⟨hf, hm⟩, fun s w => exec_illegalInstruction⟩

/-- Settles O7: every part of the state after reset is at its default. -/
theorem resetState : Obligations.ResetState := by
  unfold Obligations.ResetState
  refine ⟨State.canonical_reset, rfl, rfl, rfl, fun k => rfl, rfl, rfl, rfl, fun d => rfl, rfl, fun w hw => ?_⟩
  rw [State.worldAlive, beq_eq_false_iff_ne.2 hw]
  rfl

end Sys2Proof.Statements
end

section
/-! SUPPORT. What the integer instructions compute (R59 to R62): the results of the model, which work on bits, as the arithmetic on
numbers that the statements give; and what running each shape of instruction comes to (R56, R57). -/

namespace Sys2Proof.Machine

open Sys2Proof.Statements

/-! ## Words as numbers -/

theorem shl_eq (a b : Word) : shl a b = BitVec.ofNat 32 (a.toNat * 2 ^ (b.toNat % 32)) := by
  apply BitVec.eq_of_toNat_eq
  simp [shl, Nat.shiftLeft_eq]
theorem sra_eq (a b : Word) : sra a b = BitVec.ofInt 32 (a.toInt / 2 ^ (b.toNat % 32)) := by
  rw [sra, ← BitVec.ofInt_toInt (x := a.sshiftRight _), BitVec.toInt_sshiftRight, Int.shiftRight_eq_div_pow]
  rfl
theorem Word.sub_eq (a b : Word) : a - b = BitVec.ofInt 32 (a.toNat - b.toNat) := by
  have ha := a.isLt
  have hb := b.isLt
  apply BitVec.eq_of_toNat_eq
  rw [BitVec.toNat_sub, BitVec.toNat_ofInt]
  omega
theorem shr_eq (a b : Word) : shr a b = BitVec.ofNat 32 (a.toNat / 2 ^ (b.toNat % 32)) := by
  apply BitVec.eq_of_toNat_eq
  rw [shr, BitVec.toNat_ushiftRight, Nat.shiftRight_eq_div_pow, BitVec.toNat_ofNat]
  exact (Nat.mod_eq_of_lt (Nat.lt_of_le_of_lt (Nat.div_le_self _ _) a.isLt)).symm
theorem minS_eq (a b : Word) : minS a b = if a.toInt < b.toInt then a else b := by
  unfold minS
  simp only [BitVec.slt, decide_eq_true_eq]
  rcases Int.lt_trichotomy a.toInt b.toInt with h | h | h
  · rw [if_neg (Int.not_lt.2 (Int.le_of_lt h)), if_pos h]
  · rw [BitVec.eq_of_toInt_eq h, ite_self]
  · rw [if_pos h, if_neg (Int.not_lt.2 (Int.le_of_lt h))]

/-- The two parts of a rotated word do not overlap: what is shifted out at one end stands below what is shifted in. -/
theorem rotated_or_eq {x n : Nat} (hx : x < 2 ^ 32) (hn : n ≤ 32) :
    (x <<< n % 2 ^ 32 ||| x >>> (32 - n)) = (x * 2 ^ n + x / 2 ^ (32 - n)) % 2 ^ 32 := by
  have split32 : 2 ^ 32 = 2 ^ (32 - n) * 2 ^ n := by rw [← Nat.pow_add, Nat.sub_add_cancel hn]
  have low : x / 2 ^ (32 - n) < 2 ^ n := by
    rw [Nat.div_lt_iff_lt_mul (Nat.two_pow_pos _), Nat.mul_comm, ← split32]
    exact hx
  have high : x <<< n % 2 ^ 32 = (x % 2 ^ (32 - n)) <<< n := by
    rw [Nat.shiftLeft_eq, Nat.shiftLeft_eq, split32, Nat.mul_mod_mul_right]
  have small : (x % 2 ^ (32 - n)) <<< n + x / 2 ^ (32 - n) < 2 ^ 32 := by
    rw [Nat.shiftLeft_eq]
    calc _ < x % 2 ^ (32 - n) * 2 ^ n + 2 ^ n := Nat.add_lt_add_left low _
      _ = (x % 2 ^ (32 - n) + 1) * 2 ^ n := by rw [Nat.add_mul, Nat.one_mul]
      _ ≤ 2 ^ (32 - n) * 2 ^ n := Nat.mul_le_mul_right _ (Nat.mod_lt _ (Nat.two_pow_pos _))
      _ = 2 ^ 32 := split32.symm
  rw [high, Nat.shiftRight_eq_div_pow, ← Nat.shiftLeft_add_eq_or_of_lt low, ← Nat.mod_eq_of_lt small, ← high,
    Nat.mod_add_mod, Nat.shiftLeft_eq]

theorem rotl_eq (a b : Word) : rotl a b = BitVec.ofNat 32 (a.toNat * 2 ^ (b.toNat % 32) + a.toNat / 2 ^ (32 - b.toNat % 32)) := by
  apply BitVec.eq_of_toNat_eq
  rw [rotl, BitVec.toNat_rotateLeft, BitVec.toNat_ofNat, Nat.mod_mod, rotated_or_eq a.isLt (by omega)]
theorem rotr_eq (a b : Word) : rotr a b = BitVec.ofNat 32 (a.toNat / 2 ^ (b.toNat % 32) + a.toNat * 2 ^ (32 - b.toNat % 32)) := by
  apply BitVec.eq_of_toNat_eq
  have h := rotated_or_eq a.isLt (n := 32 - b.toNat % 32) (by omega)
  rw [Nat.sub_sub_self (by omega)] at h
  rw [rotr, BitVec.toNat_rotateRight, BitVec.toNat_ofNat, Nat.mod_mod, Nat.or_comm, h, Nat.add_comm]
theorem fieldMask_eq (b : Word) : fieldMask b = 2 ^ fieldWidth b - 1 := rfl
theorem fieldWidth_le (b : Word) : fieldWidth b ≤ 32 := Nat.min_le_right _ _
theorem fieldMask_lt (b : Word) : fieldMask b < 2 ^ 32 :=
  Nat.lt_of_lt_of_le (Nat.sub_lt (Nat.two_pow_pos _) Nat.one_pos) (Nat.pow_le_pow_right (by decide) (fieldWidth_le b))
theorem bext_eq (a b : Word) : bext a b = BitVec.ofNat 32 (a.toNat / 2 ^ (b.toNat % 32) % 2 ^ fieldWidth b) := by
  apply BitVec.eq_of_toNat_eq
  have small : a.toNat / 2 ^ (b.toNat % 32) % 2 ^ fieldWidth b < 2 ^ 32 :=
    Nat.lt_of_le_of_lt (Nat.mod_le _ _) (Nat.lt_of_le_of_lt (Nat.div_le_self _ _) a.isLt)
  rw [bext, BitVec.toNat_and, BitVec.toNat_ushiftRight, BitVec.toNat_ofNat, Nat.mod_eq_of_lt (fieldMask_lt b), fieldMask_eq,
    Nat.and_two_pow_sub_one_eq_mod, Nat.shiftRight_eq_div_pow, BitVec.toNat_ofNat, Nat.mod_eq_of_lt small]
  rfl

theorem leadingZeros_zero (n : Nat) : leadingZeros 0 n = n := by
  induction n with
  | zero => rfl
  | succ n ih => rw [leadingZeros, if_neg (by simp), ih, Nat.add_comm]

theorem leadingZeros_eq {a : Word} (h0 : a ≠ 0) {n : Nat} (hn : a.toNat < 2 ^ n) :
    leadingZeros a n = n - 1 - Nat.log2 a.toNat := by
  have pos : a.toNat ≠ 0 := fun h => h0 (BitVec.eq_of_toNat_eq h)
  induction n with
  | zero => omega
  | succ n ih =>
    rw [leadingZeros]
    split
    next hb =>
      have : n ≤ Nat.log2 a.toNat := (Nat.le_log2 pos).2 (Nat.ge_two_pow_of_testBit hb)
      omega
    next hb =>
      have lt : a.toNat < 2 ^ n := by
        by_contra hge
        have bit := Nat.testBit_two_pow_add_eq (a.toNat - 2 ^ n) n
        rw [Nat.add_sub_cancel' (Nat.le_of_not_lt hge), Nat.testBit_lt_two_pow (x := a.toNat - 2 ^ n) (by omega)] at bit
        exact hb bit
      have := (Nat.log2_lt pos).2 lt
      rw [ih lt]
      omega
theorem clz_eq (a : Word) : clz a = if a = 0 then 32 else BitVec.ofNat 32 (31 - Nat.log2 a.toNat) := by
  unfold clz
  split
  next h => rw [h, leadingZeros_zero]; rfl
  next h => rw [leadingZeros_eq h a.isLt]

theorem trailingZeros_eq (a : Word) (i n : Nat) :
    i + trailingZeros a i n = ((List.range' i n).filter a.getLsbD).headD (i + n) := by
  induction n generalizing i with
  | zero => rfl
  | succ n ih =>
    rw [trailingZeros, List.range'_succ, List.filter_cons]
    split
    · rfl
    · rw [← Nat.add_assoc, ih, Nat.add_right_comm, Nat.add_assoc]
theorem ctz_eq (a : Word) : ctz a = BitVec.ofNat 32 ((ones a).headD 32) := by
  have h := trailingZeros_eq a 0 32
  rw [Nat.zero_add, ← List.range_eq_range'] at h
  rw [ctz, h]
  rfl
theorem oneBits_eq (a : Word) (n : Nat) : oneBits a n = ((List.range n).filter a.getLsbD).length := by
  induction n with
  | zero => rfl
  | succ n ih =>
    rw [oneBits, List.range_succ, List.filter_append, List.length_append, ih, Nat.add_comm, List.filter_cons]
    split <;> rfl

theorem popc_eq (a : Word) : popc a = BitVec.ofNat 32 (ones a).length := by
  rw [popc, oneBits_eq]
  rfl

/-- The sum of the powers of two at the places below n where a predicate holds. -/
def bitSum (p : Nat → Bool) (n : Nat) : Nat := ((List.range n).map (fun i => if p i then 2 ^ i else 0)).sum

theorem bitSum_succ (p : Nat → Bool) (n : Nat) : bitSum p (n + 1) = bitSum p n + if p n then 2 ^ n else 0 := by
  simp [bitSum, List.range_succ]

theorem bitSum_lt (p : Nat → Bool) (n : Nat) : bitSum p n < 2 ^ n := by
  induction n with
  | zero => exact Nat.one_pos
  | succ n ih =>
    rw [bitSum_succ, Nat.pow_succ]
    split <;> omega

theorem testBit_bitSum (p : Nat → Bool) (n i : Nat) : (bitSum p n).testBit i = (decide (i < n) && p i) := by
  induction n with
  | zero => simp [bitSum]
  | succ n ih =>
    rw [bitSum_succ]
    rcases Nat.lt_trichotomy i n with h | rfl | h
    · split
      · rw [Nat.add_comm, Nat.testBit_two_pow_add_gt h, ih]; simp [h]; omega
      · rw [Nat.add_zero, ih]; simp [h]; omega
    · have clear : (bitSum p i).testBit i = false := Nat.testBit_lt_two_pow (bitSum_lt p i)
      split
      next hp => rw [Nat.add_comm, Nat.testBit_two_pow_add_eq, clear]; simp [hp]
      next hp => rw [Nat.add_zero, clear]; simp [hp]
    · have : bitSum p (n + 1) < 2 ^ i := Nat.lt_of_lt_of_le (bitSum_lt p (n + 1)) (Nat.pow_le_pow_right (by decide) h)
      rw [← bitSum_succ, Nat.testBit_lt_two_pow this, decide_eq_false (by omega), Bool.false_and]

theorem bins_eq (a b c : Word) : bins a b c = binsWord a b c := by
  have mask : ∀ i, (BitVec.ofNat 32 (fieldMask b)).getLsbD i = decide (i < fieldWidth b) := fun i => by
    rw [BitVec.getLsbD_ofNat, fieldMask_eq, Nat.testBit_two_pow_sub_one]
    have := fieldWidth_le b
    by_cases h : i < fieldWidth b
    · simp [h]; omega
    · simp [h]
  apply BitVec.eq_of_getLsbD_eq
  intro i hi
  have fieldPos_le : fieldPos b < 32 := Nat.mod_lt _ (by decide)
  have rhs : (binsWord a b c).getLsbD i =
      if fieldPos b ≤ i ∧ i < fieldPos b + fieldWidth b then c.getLsbD (i - fieldPos b) else a.getLsbD i := by
    have h := testBit_bitSum (fun n =>
      if fieldPos b ≤ n ∧ n < fieldPos b + fieldWidth b then c.getLsbD (n - fieldPos b) else a.getLsbD n) 32 i
    rw [decide_eq_true hi, Bool.true_and] at h
    rw [binsWord, BitVec.getLsbD_ofNat, decide_eq_true hi, Bool.true_and]
    exact h
  rw [rhs, bins]
  simp only [BitVec.getLsbD_or, BitVec.getLsbD_and, BitVec.getLsbD_not, BitVec.getLsbD_shiftLeft, mask, hi, decide_true,
    Bool.true_and]
  by_cases hp : i < fieldPos b
  · simp [hp]
  · by_cases hw : i - fieldPos b < fieldWidth b
    · simp [hp, hw]; omega
    · simp [hp, hw]; omega

/-! ## Results as the statements give them -/

theorem Word.add_eq (a b : Word) : a + b = BitVec.ofNat 32 (a.toNat + b.toNat) := by
  apply BitVec.eq_of_toNat_eq; simp
theorem Word.mul_eq (a b : Word) : a * b = BitVec.ofNat 32 (a.toNat * b.toNat) := by
  apply BitVec.eq_of_toNat_eq; simp
theorem boolWord_eq (b : Bool) : boolWord b = flag (b = true) := rfl
theorem slt_eq (a b : Word) : slt a b = flag (a.toInt < b.toInt) := by
  simp [slt, boolWord, BitVec.slt, flag]
theorem sltb_eq (a b : Word) : sltb a b = flag (a.toNat < b.toNat) := by
  simp [sltb, boolWord, BitVec.ult, flag]
theorem seq_eq (a b : Word) : seq a b = flag (a = b) := by
  simp [seq, boolWord, flag]
theorem maxS_eq (a b : Word) : maxS a b = if a.toInt < b.toInt then b else a := by
  simp [maxS, BitVec.slt]
theorem maxU_eq (a b : Word) : maxU a b = if a.toNat < b.toNat then b else a := by
  simp [maxU, BitVec.ult]
theorem minU_eq (a b : Word) : minU a b = if a.toNat < b.toNat then a else b := by
  simp only [minU, BitVec.ult, decide_eq_true_eq]
  rcases Nat.lt_trichotomy a.toNat b.toNat with h | h | h
  · rw [if_neg (Nat.not_lt.2 (Nat.le_of_lt h)), if_pos h]
  · rw [BitVec.eq_of_toNat_eq h, ite_self]
  · rw [if_pos h, if_neg (Nat.not_lt.2 (Nat.le_of_lt h))]
theorem sel_eq (a b c : Word) : sel a b c = if c = 0 then b else a := by
  simp [sel]

theorem exec_binaryOf {i : Instr} {f : RForm} {op : Word → Word → Word} (h : binaryOf i = some (f, op)) (s : State) :
    exec i s = issue i (binary f op) s := by
  suffices named : ∃ g, exec i s = issue i (binary f g) s ∧ ∀ a b, g a b = op a b by
    obtain ⟨g, hg, he⟩ := named
    rw [hg, funext fun a => funext (he a)]
  unfold binaryOf at h
  split at h <;> cases h
  · exact ⟨_, rfl, Word.add_eq⟩
  · exact ⟨_, rfl, Word.sub_eq⟩
  · exact ⟨_, rfl, fun _ _ => rfl⟩
  · exact ⟨_, rfl, fun _ _ => rfl⟩
  · exact ⟨_, rfl, fun _ _ => rfl⟩
  · exact ⟨_, rfl, shl_eq⟩
  · exact ⟨_, rfl, shr_eq⟩
  · exact ⟨_, rfl, sra_eq⟩
  · exact ⟨_, rfl, slt_eq⟩
  · exact ⟨_, rfl, sltb_eq⟩
  · exact ⟨_, rfl, seq_eq⟩
  · exact ⟨_, rfl, Word.mul_eq⟩
  · exact ⟨_, rfl, fun _ _ => rfl⟩
  · exact ⟨_, rfl, minS_eq⟩
  · exact ⟨_, rfl, maxS_eq⟩
  · exact ⟨_, rfl, minU_eq⟩
  · exact ⟨_, rfl, maxU_eq⟩
  · exact ⟨_, rfl, fun _ _ => rfl⟩
  · exact ⟨_, rfl, rotl_eq⟩
  · exact ⟨_, rfl, rotr_eq⟩
  · exact ⟨_, rfl, bext_eq⟩

theorem exec_unaryOf {i : Instr} {f : RForm} {op : Word → Word} (h : unaryOf i = some (f, op)) (s : State) :
    exec i s = issue i (unary f op) s := by
  suffices named : ∃ g, exec i s = issue i (unary f g) s ∧ ∀ a, g a = op a by
    obtain ⟨g, hg, he⟩ := named
    rw [hg, funext he]
  unfold unaryOf at h
  split at h <;> cases h
  · exact ⟨_, rfl, clz_eq⟩
  · exact ⟨_, rfl, ctz_eq⟩
  · exact ⟨_, rfl, popc_eq⟩

theorem exec_ternaryOf {i : Instr} {f : RForm} {op : Word → Word → Word → Word} (h : ternaryOf i = some (f, op)) (s : State) :
    exec i s = issue i (ternary f op) s := by
  suffices named : ∃ g, exec i s = issue i (ternary f g) s ∧ ∀ a b c, g a b c = op a b c by
    obtain ⟨g, hg, he⟩ := named
    rw [hg, funext fun a => funext fun b => funext (he a b)]
  unfold ternaryOf at h
  split at h <;> cases h
  · exact ⟨_, rfl, bins_eq⟩
  · exact ⟨_, rfl, sel_eq⟩

/-- A well-formed shift has an immediate of at most 31 (R60). -/
theorem shift_imm {f : IForm} {d a : OpClass} {ep : BitVec 1}
    (h : f.fits { d := d, a := a, ep := ep, imm := .shift } = true) : f.imm.toNat % 32 = f.imm.toNat := by
  simp only [IForm.fits, ImmRule.accepts, Bool.and_eq_true, decide_eq_true_eq] at h
  exact Nat.mod_eq_of_lt (Nat.lt_succ_of_le h.2)

theorem exec_immediateOf {i : Instr} {f : IForm} {op : Word → Word → Word} (h : immediateOf i = some (f, op))
    (hw : i.wf = true) (s : State) : exec i s = issue i (immediate f op) s := by
  suffices named : ∃ g, exec i s = issue i (immediate f g) s ∧ ∀ a, g a f.imm = op a f.imm by
    obtain ⟨g, hg, he⟩ := named
    rw [hg, immediate, immediate]
    simp only [he]
  unfold immediateOf at h
  split at h <;> cases h
  · exact ⟨_, rfl, fun a => Word.add_eq a _⟩
  · exact ⟨_, rfl, fun _ => rfl⟩
  · exact ⟨_, rfl, fun _ => rfl⟩
  · exact ⟨_, rfl, fun _ => rfl⟩
  · exact ⟨_, rfl, fun a => by rw [shl_eq, shift_imm hw]⟩
  · exact ⟨_, rfl, fun a => by rw [shr_eq, shift_imm hw]⟩
  · exact ⟨_, rfl, fun a => by rw [sra_eq, shift_imm hw]⟩
  · exact ⟨_, rfl, fun a => slt_eq a _⟩
  · exact ⟨_, rfl, fun a => sltb_eq a _⟩
  · exact ⟨_, rfl, fun a => seq_eq a _⟩
  · exact ⟨_, rfl, fun a => Word.mul_eq a _⟩

/-! ## Results of pairs -/

theorem DWord.add_eq (a b : DWord) : a + b = BitVec.ofNat 64 (a.toNat + b.toNat) := by
  apply BitVec.eq_of_toNat_eq; simp
theorem DWord.sub_eq (a b : DWord) : a - b = BitVec.ofInt 64 (a.toNat - b.toNat) := by
  have ha := a.isLt
  have hb := b.isLt
  apply BitVec.eq_of_toNat_eq
  rw [BitVec.toNat_sub, BitVec.toNat_ofInt]
  omega
theorem DWord.mul_eq (a b : DWord) : a * b = BitVec.ofNat 64 (a.toNat * b.toNat) := by
  apply BitVec.eq_of_toNat_eq; simp
theorem shlw_eq (a : DWord) (b : Word) : shlw a b = BitVec.ofNat 64 (a.toNat * 2 ^ (b.toNat % 64)) := by
  apply BitVec.eq_of_toNat_eq
  simp [shlw, Nat.shiftLeft_eq]
theorem shrw_eq (a : DWord) (b : Word) : shrw a b = BitVec.ofNat 64 (a.toNat / 2 ^ (b.toNat % 64)) := by
  apply BitVec.eq_of_toNat_eq
  rw [shrw, BitVec.toNat_ushiftRight, Nat.shiftRight_eq_div_pow, BitVec.toNat_ofNat]
  exact (Nat.mod_eq_of_lt (Nat.lt_of_le_of_lt (Nat.div_le_self _ _) a.isLt)).symm
theorem sraw_eq (a : DWord) (b : Word) : sraw a b = BitVec.ofInt 64 (a.toInt / 2 ^ (b.toNat % 64)) := by
  rw [sraw, ← BitVec.ofInt_toInt (x := a.sshiftRight _), BitVec.toInt_sshiftRight, Int.shiftRight_eq_div_pow]
  rfl

theorem exec_pairOf {i : Instr} {f : RForm} {op : DWord → DWord → DWord} (h : pairOf i = some (f, op)) (s : State) :
    exec i s = issue i (binaryPair f op) s := by
  suffices named : ∃ g, exec i s = issue i (binaryPair f g) s ∧ ∀ a b, g a b = op a b by
    obtain ⟨g, hg, he⟩ := named
    rw [hg, funext fun a => funext (he a)]
  unfold pairOf at h
  split at h <;> cases h
  · exact ⟨_, rfl, DWord.add_eq⟩
  · exact ⟨_, rfl, DWord.sub_eq⟩
  · exact ⟨_, rfl, DWord.mul_eq⟩
  · exact ⟨_, rfl, fun _ _ => rfl⟩

theorem exec_pairTestOf {i : Instr} {f : RForm} {op : DWord → DWord → Bool} (h : pairTestOf i = some (f, op)) (s : State) :
    exec i s = issue i (comparePair f op) s := by
  unfold pairTestOf at h
  split at h <;> cases h
  all_goals rfl

theorem exec_pairShiftOf {i : Instr} {f : RForm} {op : DWord → Word → DWord} (h : pairShiftOf i = some (f, op)) (s : State) :
    exec i s = issue i (shiftPair f op) s := by
  suffices named : ∃ g, exec i s = issue i (shiftPair f g) s ∧ ∀ a b, g a b = op a b by
    obtain ⟨g, hg, he⟩ := named
    rw [hg, funext fun a => funext (he a)]
  unfold pairShiftOf at h
  split at h <;> cases h
  · exact ⟨_, rfl, shlw_eq⟩
  · exact ⟨_, rfl, shrw_eq⟩
  · exact ⟨_, rfl, sraw_eq⟩

theorem exec_quotientOf {i : Instr} {f : RForm} {op : Word → Word → Word} (h : quotientOf i = some (f, op)) (s : State) :
    exec i s = issue i (divide f op) s := by
  unfold quotientOf at h
  split at h <;> cases h
  all_goals rfl

/-! ## Running a shape to its end -/

/-- The check of a ready instruction goes through. -/
theorem Act.bind_check {β : Type} {srcs : List Src} {dsts : List Dst} {f : Unit → Act β} {i : Instr} {s : State}
    (h : Ready i srcs dsts s) : (check srcs dsts >>= f) s = f () s :=
  Act.bind_run h.2

theorem Act.bind_rd {β : Type} {code : Code} {f : Val → Act β} {s t : State} {v : Val} (h : s.take code = some (v, t)) :
    (rd code >>= f) s = f v t :=
  Act.bind_run (rd_ok.2 h)

theorem Act.bind_rdp {β : Type} {code : Code} {f : Val2 → Act β} {s : State} :
    (rdp code >>= f) s = f (s.me.pair code.toNat) s := rfl

theorem wr_open {s : State} {code : Code} (v : Val) (h : Open s code) : wr code v s = .ok ((), s.put code v) :=
  wr_ok.2 ⟨h.1, h.2, rfl⟩

/-- A register that is full stays full when one is written. -/
theorem Slot.full_setReg {sl : Slot} {c d : Nat} {v : Val} (h : (sl.reg d).full = true) :
    ((sl.setReg c v.toReg).reg d).full = true := by
  rw [Slot.reg, Slot.setReg_mode, Slot.setReg, Slot.regAt_setRegAt]
  split
  · rfl
  · exact h

theorem Code.toNat_add_one {c : Code} (h : c.toNat < 127) : (c + 1).toNat = c.toNat + 1 := by
  rw [BitVec.toNat_add]
  exact Nat.mod_eq_of_lt (Nat.succ_lt_succ h)

theorem Code.isPair_iff {c : Code} : c.isPair = true ↔ c.toNat ≤ 63 ∧ c.toNat % 2 = 0 := by
  simp [Code.isPair]

theorem State.outboxFull_reg {s : State} {code : Code} (h : code.toNat ≤ 63) : s.outboxFull code = false := by
  rw [State.outboxFull, decide_eq_false (by omega), Bool.false_and]

/-- A pair whose registers wait for no value is written, low word first (R55). -/
theorem wrp_pair {s : State} {code : Code} (v : Val2) (hp : code.isPair = true)
    (hd : s.dstWaits { code := code, n := 2 } = false) :
    wrp code v s = .ok ((), (s.put code v.lo).put (code + 1) v.hi) := by
  obtain ⟨hle, heven⟩ := Code.isPair_iff.1 hp
  have hnext := Code.toNat_add_one (c := code) (by omega)
  have hle2 : (code + 1).toNat ≤ 63 := by omega
  simp only [State.dstWaits, hle, if_true, Slot.fullFrom, Bool.and_true, Bool.not_eq_false', Bool.and_eq_true] at hd
  obtain ⟨lo, hi⟩ := hd
  have first : wr code v.lo s = .ok ((), s.put code v.lo) :=
    wr_open _ ⟨by rw [State.dstWaits_reg hle, lo]; rfl, State.outboxFull_reg hle⟩
  have second : Open (s.put code v.lo) (code + 1) := by
    refine ⟨?_, State.outboxFull_reg hle2⟩
    rw [State.dstWaits_reg hle2, State.put_reg _ hle, State.me_setMe, hnext, Slot.full_setReg hi]
    rfl
  exact (Act.bind_run first).trans (wr_open _ second)

theorem ready_dst_free {i : Instr} {srcs : List Src} {d : Dst} {s : State} (h : Ready i srcs [d] s) :
    s.dstWaits d = false :=
  (check_ok h.2).2.2 d (List.mem_singleton_self d)

/-- Taking a source fills and empties no register. -/
theorem State.dstWaits_take {s t : State} {code : Code} {v : Val} (h : s.take code = some (v, t)) {d : Dst}
    (hd : d.code.toNat ≤ 63) : t.dstWaits d = s.dstWaits d := by
  simp only [State.dstWaits, hd, if_true, State.take_me h]

theorem ready_dst_full {i : Instr} {srcs : List Src} {d : Dst} {s : State} (hd : d.code.toNat ≤ 63)
    (h : Ready i srcs [d] s) : s.me.fullFrom d.code.toNat d.n = true := by
  have free := ready_dst_free h
  simpa only [State.dstWaits, hd, if_true, Bool.not_eq_false'] using free

theorem oweRegs_full {s : State} {code : Code} {vals : List Val} {cycles : Nat} {i : Instr}
    (h : s.me.fullFrom code.toNat vals.length = true) :
    oweRegs code vals cycles i s = .ok ((), s.owe code vals cycles i) :=
  if_pos h

@[simp] theorem Slot.land_draining (sl : Slot) (index : Nat) (vs : List Val) : (sl.land index vs).draining = sl.draining := by
  induction vs generalizing sl index with
  | nil => rfl
  | cons v vs ih => rw [Slot.land, ih, Slot.setRegAt_draining]

theorem State.settleSlot_of_not_draining {s : State} {k : Nat} (h : (s.slot k).draining = false) : s.settleSlot k = s := by
  simp [State.settleSlot, h]

theorem exec_divisionLands {s : State} {k : Nat} {o : Owed} (hs : s.subject = [k, o.id])
    (ho : (s.slot k).owed.find? (fun x => x.id == o.id) = some o) (hd : (s.slot k).draining = false) :
    exec .divisionLands s = .next (s.modSlot k (fun sl =>
      { sl.land o.index o.vals with owed := sl.owed.filter (fun x => x.id != o.id) })) := by
  have stays := State.settleSlot_of_not_draining (s := s.modSlot k (fun sl =>
    { sl.land o.index o.vals with owed := sl.owed.filter (fun x => x.id != o.id) })) (k := k) (by simp [hd])
  simp only [exec, execDivisionLands, hs, ho, stays]

/-- ADDWI adds its immediate with the sign extended (R60). -/
theorem addwi_eq (a : DWord) (n : Word) : a + n.signExtend 64 = BitVec.ofInt 64 (a.toNat + n.toInt) := by
  apply BitVec.eq_of_toInt_eq
  rw [BitVec.toInt_add, BitVec.toInt_signExtend_of_le (by decide), BitVec.toInt_ofInt]
  rw [BitVec.toInt_eq_toNat_bmod, Int.bmod_add_bmod]

end Sys2Proof.Machine

namespace Sys2Proof.Statements

open Sys2Proof.Machine

theorem RForm.fits_d {f : RForm} {sh : RShape} (h : f.fits sh = true) : sh.d.accepts f.d = true := by
  simp only [RForm.fits, Bool.and_eq_true] at h
  exact h.1.1.1.1.1

theorem IForm.fits_d {f : IForm} {sh : IShape} (h : f.fits sh = true) : sh.d.accepts f.d = true := by
  simp only [IForm.fits, Bool.and_eq_true] at h
  exact h.1.1.1

/-- The destination of a well-formed pair instruction is a pair. -/
theorem pairOf_wf {i : Instr} {f : RForm} {op : DWord → DWord → DWord} (h : pairOf i = some (f, op)) (hw : i.wf = true) :
    f.d.isPair = true := by
  unfold pairOf at h
  split at h <;> cases h
  all_goals exact RForm.fits_d hw

theorem pairShiftOf_wf {i : Instr} {f : RForm} {op : DWord → Word → DWord} (h : pairShiftOf i = some (f, op))
    (hw : i.wf = true) : f.d.isPair = true := by
  unfold pairShiftOf at h
  split at h <;> cases h
  all_goals exact RForm.fits_d hw

theorem quotientOf_wf {i : Instr} {f : RForm} {op : Word → Word → Word} (h : quotientOf i = some (f, op))
    (hw : i.wf = true) : f.d.toNat ≤ 63 := by
  unfold quotientOf at h
  split at h <;> cases h
  all_goals exact of_decide_eq_true (RForm.fits_d hw)

/-- Settles O14: each instruction is a shape and an operation, and the shape runs to its end. -/
theorem integerResults : Obligations.IntegerResults := by
  unfold Obligations.IntegerResults
  refine ⟨fun i f op s s1 s2 a b h hr ha hb ho => ?_,
    ⟨fun i f op s s1 a h hr ha ho => ?_, fun i f op s s1 s2 s3 a b c h hr ha hb hc ho => ?_⟩,
    fun i f op s s1 a h hw hr ha ho => ?_, fun f s hw hr => ?_, fun f s hr ho => ?_⟩
  · rw [exec_binaryOf h]
    refine issue_ok hr.1 ?_
    rw [binary, Act.bind_check hr, Act.bind_rd ha, Act.bind_rd hb, wr_open _ ho]
  · rw [exec_unaryOf h]
    refine issue_ok hr.1 ?_
    rw [unary, Act.bind_check hr, Act.bind_rd ha, wr_open _ ho]
  · rw [exec_ternaryOf h]
    refine issue_ok hr.1 ?_
    rw [ternary, Act.bind_check hr, Act.bind_rd ha, Act.bind_rd hb, Act.bind_rd hc, wr_open _ ho]
  · rw [exec_immediateOf h hw]
    refine issue_ok hr.1 ?_
    rw [immediate, Act.bind_check hr, Act.bind_rd ha, wr_open _ ho]
  · refine issue_ok hr.1 ?_
    rw [Act.bind_check hr, Act.bind_rdp, addwi_eq, wrp_pair _ (IForm.fits_d hw) (ready_dst_free hr)]
  · refine issue_ok hr.1 ?_
    rw [Act.bind_check hr, wr_open _ ho]

/-- Settles O15: as for single registers, with a pair written low word first. -/
theorem pairResults : Obligations.PairResults := by
  unfold Obligations.PairResults
  refine ⟨fun i f op s h hw hr => ?_, fun i f op s h hr ho => ?_, fun i f op s s1 b h hw hr hb => ?_⟩
  · rw [exec_pairOf h]
    refine issue_ok hr.1 ?_
    rw [binaryPair, Act.bind_check hr, Act.bind_rdp, Act.bind_rdp, wrp_pair _ (pairOf_wf h hw) (ready_dst_free hr)]
  · rw [exec_pairTestOf h]
    refine issue_ok hr.1 ?_
    rw [comparePair, Act.bind_check hr, Act.bind_rdp, Act.bind_rdp, boolWord_eq, wr_open _ ho]
  · rw [exec_pairShiftOf h]
    refine issue_ok hr.1 ?_
    have free : s1.dstWaits (f.dst 2) = false := by
      rw [State.dstWaits_take hb (Code.isPair_iff.1 (pairShiftOf_wf h hw)).1, ready_dst_free hr]
    rw [shiftPair, Act.bind_check hr, Act.bind_rdp, Act.bind_rd hb, wrp_pair _ (pairShiftOf_wf h hw) free]

/-- Settles O16: D waits for nothing when the division issues, so the quotient is owed to it; and a slot that is not draining
keeps what lands. -/
theorem division : Obligations.Division := by
  unfold Obligations.Division
  refine ⟨fun i f op s s1 s2 a b h hw hr ha hb => ?_, fun s k o => exec_divisionLands⟩
  rw [exec_quotientOf h]
  refine issue_ok hr.1 ?_
  rw [divide, Act.bind_check hr, Act.bind_rd ha, Act.bind_rd hb]
  refine oweRegs_full ?_
  rw [State.take_me hb, State.take_me ha]
  exact ready_dst_full (quotientOf_wf h hw) hr

end Sys2Proof.Statements

namespace Sys2Proof.Machine

open Sys2Proof.Statements

/-! ## Empty registers (R27, R52) -/

theorem issue_park {i : Instr} {a : Act Unit} {s : State} {w : Wait} (hm : modeLegal i s.me.xlt = true)
    (ha : a s = .error (.park w)) : issue i a s = parks s w :=
  issue_error hm ha

/-- Registers are no ports. -/
theorem checkPorts_regs {codes : List Code} {s : State} (h : ∀ c ∈ codes, c.toNat < 64) :
    checkPorts codes s = .ok ((), s) := by
  have noPort : codes.find? s.unconnected = none := List.find?_eq_none.2 fun c hc => by
    have := h c hc
    simp [State.unconnected, Code.isPort]
    omega
  have noInbox : codes.find? (fun c => decide (64 ≤ c.toNat) && decide (c.toNat ≤ 69)) = none :=
    List.find?_eq_none.2 fun c hc => by
      have := h c hc
      simp
      omega
  unfold checkPorts
  split
  · rw [noInbox]
  · rw [noPort]

theorem State.srcEmpty_reg {s : State} {prior : List Src} {code : Code} {ep : Bool} (h : code.toNat < 64) :
    s.srcEmpty prior { code := code, ep := ep } = !(s.me.reg code.toNat).full := by
  simp [State.srcEmpty, Nat.le_of_lt_succ h, Slot.fullFrom]

section
variable {s : State} {f : RForm} (ha : f.a.toNat < 64) (hb : f.b.toNat < 64)
include ha hb

/-- Of two register sources those are empty that are not full, in order. -/
theorem State.emptySources_regs :
    s.emptySources [] [f.srcA, f.srcB] =
      (if (s.me.reg f.a.toNat).full then [] else [f.srcA]) ++ (if (s.me.reg f.b.toNat).full then [] else [f.srcB]) := by
  have emptyA : ∀ prior, s.srcEmpty prior f.srcA = !(s.me.reg f.a.toNat).full := fun _ => State.srcEmpty_reg ha
  have emptyB : ∀ prior, s.srcEmpty prior f.srcB = !(s.me.reg f.b.toNat).full := fun _ => State.srcEmpty_reg hb
  simp only [State.emptySources, emptyA, emptyB]
  cases (s.me.reg f.a.toNat).full <;> cases (s.me.reg f.b.toNat).full <;> rfl

/-- Two register sources and a register destination: what the check of R52 comes to. -/
theorem check_regs (hd : f.d.toNat < 64) :
    check [f.srcA, f.srcB] [f.dst] s = (checkSources [f.srcA, f.srcB] >>= fun _ => checkDests [f.dst]) s := by
  refine Act.bind_run (checkPorts_regs ?_)
  simp only [List.map_cons, List.map_nil, List.cons_append, List.nil_append, List.mem_cons, List.not_mem_nil, or_false]
  rintro c (rfl | rfl | rfl)
  · exact ha
  · exact hb
  · exact hd

end

end Sys2Proof.Machine

namespace Sys2Proof.Statements

open Sys2Proof.Machine

/-- Settles O10: what the check of the operands finds, for each of the ways in which they can be empty. -/
theorem emptyOperands : Obligations.EmptyOperands := by
  unfold Obligations.EmptyOperands
  intro i f op s h hm ha hb hd full
  have run : ∀ e, checkSources [f.srcA, f.srcB] s = .error e → binary f op s = .error e := fun e he =>
    Act.bind_error ((check_regs ha hb hd).trans (Act.bind_error he))
  have sources : s.emptySources [] [f.srcA, f.srcB] =
      (if full f.a then [] else [f.srcA]) ++ (if full f.b then [] else [f.srcB]) := State.emptySources_regs ha hb
  have codeA : f.srcA.code = f.a := rfl
  have codeB : f.srcB.code = f.b := rfl
  have epA : f.srcA.ep = f.ep.getLsbD 0 := rfl
  have epB : f.srcB.ep = f.ep.getLsbD 1 := rfl
  rw [exec_binaryOf h]
  refine ⟨fun hfa hep => ?_, fun hfa hfb hep => ?_, fun hfa hep hfb => ?_, fun hfa hfb hep => ?_, fun hfa hfb hfd => ?_⟩
  · refine issue_trap hm (run _ ?_)
    simp only [checkSources, sources, hfa, codeA, epA, hep, Bool.false_eq_true, if_false, List.cons_append, List.find?_cons]
  · refine issue_trap hm (run _ ?_)
    have found : (s.emptySources [] [f.srcA, f.srcB]).find? (fun x => x.ep) = some f.srcB := by
      rw [sources, hfb]
      rw [hep] at epB
      rcases hfa with hfa | hfa
      · simp [hfa, epB]
      · rw [hfa] at epA
        cases full f.a <;> simp [epA, epB]
    simp only [checkSources, found, codeB]
  · refine issue_park hm (run _ ?_)
    have found : (s.emptySources [] [f.srcA, f.srcB]).find? (fun x => x.ep) = none := by
      rw [sources, hfa]
      rw [hep] at epA
      rcases hfb with hfb | hfb
      · simp [hfb, epA]
      · rw [hfb] at epB
        cases full f.b <;> simp [epA, epB]
    simp only [checkSources, found]
    simp only [sources, hfa, codeA, Bool.false_eq_true, if_false, List.cons_append]
  · refine issue_park hm (run _ ?_)
    have found : (s.emptySources [] [f.srcA, f.srcB]).find? (fun x => x.ep) = none := by
      rw [hep] at epB
      simp [sources, hfa, hfb, epB]
    simp only [checkSources, found]
    simp only [sources, hfa, hfb, codeB, Bool.false_eq_true, if_true, if_false, List.nil_append]
  · refine issue_park hm (Act.bind_error ?_)
    have allFull : checkSources [f.srcA, f.srcB] s = .ok ((), s) := by
      simp only [checkSources, sources, hfa, hfb, if_true, List.append_nil, List.find?_nil]
    have waits : s.dstWaits f.dst = true := by
      have : s.dstWaits f.dst = !full f.d := State.dstWaits_reg (Nat.le_of_lt_succ hd)
      rw [this, hfd]
      rfl
    rw [check_regs ha hb hd, Act.bind_run allFull, checkDests, List.find?_cons, waits]
    rfl

end Sys2Proof.Statements
end

section
/-! SUPPORT. Branches, jumps, NOP and YIELD (R71 to R73, R78, R275). -/

namespace Sys2Proof.Machine

open Sys2Proof.Statements

/-- A target is a number of words away, modulo 2^32. -/
theorem branchTarget_eq (pc off : Word) : branchTarget pc off = wordsFrom pc off := by
  apply BitVec.eq_of_toInt_eq
  rw [branchTarget, wordsFrom, BitVec.toInt_add, BitVec.toInt_mul, BitVec.toInt_ofInt]
  rw [BitVec.toInt_eq_toNat_bmod (x := pc), Int.bmod_add_bmod, Int.add_bmod_bmod]
  rfl

theorem bne_eq_decide (a b : Word) : (a != b) = decide (a ≠ b) := by
  simp [bne, beq_eq_decide]

theorem exec_branchOf {i : Instr} {f : BForm} {taken : Word → Word → Bool} (h : branchOf i = some (f, taken)) (s : State) :
    exec i s = issueTo i (branch f taken) s := by
  suffices named : ∃ g, exec i s = issueTo i (branch f g) s ∧ ∀ a b, g a b = taken a b by
    obtain ⟨g, hg, he⟩ := named
    rw [hg, funext fun a => funext (he a)]
  unfold branchOf at h
  split at h <;> cases h
  · exact ⟨_, rfl, fun _ _ => rfl⟩
  · exact ⟨_, rfl, bne_eq_decide⟩
  · exact ⟨_, rfl, fun _ _ => rfl⟩
  · exact ⟨_, rfl, fun a b => by simp only [BitVec.slt, ← decide_not, Int.not_lt]⟩
  · exact ⟨_, rfl, fun _ _ => rfl⟩
  · exact ⟨_, rfl, fun a b => by simp only [BitVec.ult, ← decide_not, Nat.not_lt]⟩

theorem Act.bind_trapIf_false {β : Type} {c : Bool} {cause : Cause} {v v2 : DWord} {f : Unit → Act β} {s : State}
    (h : c = false) : (Act.trapIf c cause v v2 >>= f) s = f () s :=
  Act.bind_run (Act.trapIf_ok.2 ⟨h, rfl⟩)

theorem Act.bind_trapIf_true {β : Type} {c : Bool} {cause : Cause} {v v2 : DWord} {f : Unit → Act β} {s : State}
    (h : c = true) : (Act.trapIf c cause v v2 >>= f) s = .error (.trap cause v v2) :=
  Act.bind_error (Act.trapIf_true h)

/-- A branch after its sources have been read (R71). -/
theorem branch_read {i : Instr} {f : BForm} {taken : Word → Word → Bool} {s s1 s2 : State} {a b : Val}
    (hr : Ready i (branchSources f) [] s) (ha : s.take f.a = some (a, s1)) (hb : s1.take f.b = some (b, s2)) :
    branch f taken s = (do
      Act.trapIf a.poison .poison f.a.toNat 0
      Act.trapIf b.poison .poison f.b.toNat 0
      return if taken a.w b.w then branchTarget s.me.pc f.off else s.me.pc + 8 : Act Word) s2 := by
  have checked : check [{ code := f.a, ep := bitSet f.ep 0 }, { code := f.b, ep := bitSet f.ep 1 }] [] s = .ok ((), s) := hr.2
  rw [branch, Act.bind_run checked, Act.me_bind, Act.bind_rd ha, Act.bind_rd hb]

end Sys2Proof.Machine

namespace Sys2Proof.Statements

open Sys2Proof.Machine

/-- Settles O18: a branch reads its sources and then decides, and a jump writes D before it goes. -/
theorem controlFlow : Obligations.ControlFlow := by
  unfold Obligations.ControlFlow
  refine ⟨⟨fun i f taken s s1 s2 a b h hr ha hb hpa hpb => ?_, fun i f taken s s1 s2 a b h hr ha hb hp => ?_⟩,
    ⟨fun f s hr ho => ?_, fun f s s1 a hr ha hp ho => ?_⟩,
    fun f s hm => issue_ok (i := .nop f) (a := pure ()) hm rfl, fun f s hm => ?_⟩
  · rw [exec_branchOf h]
    refine issueTo_ok hr.1 ?_
    rw [branch_read hr ha hb, Act.bind_trapIf_false hpa, Act.bind_trapIf_false hpb, branchTarget_eq]
    rfl
  · rw [exec_branchOf h]
    refine issueTo_trap hr.1 ?_
    rw [branch_read hr ha hb]
    cases hpa : a.poison with
    | true => exact Act.bind_trapIf_true rfl
    | false =>
      rw [hpa, Bool.false_or] at hp
      rw [Act.bind_trapIf_false rfl, Act.bind_trapIf_true hp]
      rfl
  · refine issueTo_ok hr.1 ?_
    rw [Act.bind_check hr, Act.me_bind, Act.bind_run (wr_open _ ho), branchTarget_eq]
    rfl
  · refine issueTo_ok hr.1 ?_
    rw [Act.bind_check hr, Act.me_bind, Act.bind_rd ha, Act.bind_trapIf_false hp, Act.bind_run (wr_open _ ho)]
    rfl
  · rw [exec, execYield]
    exact issue_ok hm rfl

end Sys2Proof.Statements
end

section
/-! SUPPORT. The scalar floating-point instructions (R64 to R70): each is a shape and an operation; once its sources are read, it
raises its flags and then writes, and an enabled flag stops it before the write (R55). -/

namespace Sys2Proof.Machine

open Sys2Proof.Statements

/-! ## Flags -/

theorem raiseClean_quiet {s t : State} {p : Bool} {fl : FlagBits} (hme : t.me = s.me) (h : Quiet s p fl) :
    raiseClean p fl t = .ok ((), withFlags t p fl) := by
  unfold raiseClean withFlags
  cases p with
  | true => rfl
  | false =>
    have quiet : fl &&& t.me.fenable = 0 := by
      rw [hme]
      exact h.resolve_left Bool.false_ne_true
    simp only [Bool.false_eq_true, if_false, raise, quiet, bne_self_eq_false]

theorem raiseClean_enabled {s t : State} {p : Bool} {fl : FlagBits} (hme : t.me = s.me) (hp : p = false)
    (h : fl &&& s.me.fenable ≠ 0) : raiseClean p fl t = .error (.trap .fptrap (BitVec.ofNat 64 fl.toNat) 0) := by
  rw [hp]
  exact if_pos (by rw [hme]; exact bne_iff_ne.2 h)

theorem Slot.fullFrom_fflags (sl : Slot) (v : FlagBits) (code n : Nat) :
    ({ sl with fflags := v } : Slot).fullFrom code n = sl.fullFrom code n := by
  induction n generalizing code with
  | zero => rfl
  | succ n ih => rw [Slot.fullFrom, ih]; rfl

/-- Flags stop no destination from being written. -/
theorem State.dstWaits_addFlags (s : State) (fl : FlagBits) (d : Dst) : (s.addFlags fl).dstWaits d = s.dstWaits d := by
  have same : (s.addFlags fl).me = { s.me with fflags := s.me.fflags ||| fl } := State.me_setMe _ _
  simp only [State.dstWaits, State.viewOwed, State.viewHeld, same, Slot.fullFrom_fflags]
  rfl

theorem State.dstWaits_withFlags (s : State) (p : Bool) (fl : FlagBits) (d : Dst) :
    (withFlags s p fl).dstWaits d = s.dstWaits d := by
  unfold withFlags
  split
  · rfl
  · exact s.dstWaits_addFlags fl d

theorem open_withFlags {s : State} {code : Code} (p : Bool) (fl : FlagBits) (h : Open s code) :
    Open (withFlags s p fl) code := by
  refine ⟨(s.dstWaits_withFlags p fl _).trans h.1, ?_⟩
  unfold withFlags
  split
  · exact h.2
  · rw [State.outboxFull, State.addFlags, State.me_setMe]
    exact h.2

/-! ## Running a shape up to its flags -/

/-- What follows once a result is known: its flags, then its write. -/
def raiseThen (p : Bool) (fl : FlagBits) (write : Act Unit) : Act Unit := do
  raiseClean p fl
  write

theorem raiseThen_wr {s t : State} {p : Bool} {fl : FlagBits} {code : Code} {v : Val} (hme : t.me = s.me)
    (hq : Quiet s p fl) (ho : Open t code) :
    raiseThen p fl (wr code v) t = .ok ((), (withFlags t p fl).put code v) :=
  (Act.bind_run (raiseClean_quiet hme hq)).trans (wr_open v (open_withFlags p fl ho))

theorem raiseThen_wrp {s t : State} {p : Bool} {fl : FlagBits} {code : Code} {v : Val2} (hme : t.me = s.me)
    (hq : Quiet s p fl) (hp : code.isPair = true) (hd : t.dstWaits { code := code, n := 2 } = false) :
    raiseThen p fl (wrp code v) t = .ok ((), ((withFlags t p fl).put code v.lo).put (code + 1) v.hi) :=
  (Act.bind_run (raiseClean_quiet hme hq)).trans (wrp_pair v hp (by rw [State.dstWaits_withFlags, hd]))

theorem raiseThen_enabled {s t : State} {p : Bool} {fl : FlagBits} {write : Act Unit} (hme : t.me = s.me) (hp : p = false)
    (h : fl &&& s.me.fenable ≠ 0) :
    raiseThen p fl write t = .error (.trap .fptrap (BitVec.ofNat 64 fl.toNat) 0) :=
  Act.bind_error (raiseClean_enabled hme hp h)

section
variable {i : Instr} {f : RForm} {s s1 s2 s3 : State} {a b c : Val}

theorem float1_read {op : Nat → Nat → Nat × FlagBits} (hr : Ready i [f.srcA] [f.dst] s) (ha : s.take f.a = some (a, s1)) :
    float1 f op s =
      let r := op (roundMode s.me f.rnd) a.w.toNat
      raiseThen a.poison r.2 (wr f.d { w := BitVec.ofNat 32 r.1, poison := a.poison }) s1 := by
  rw [float1, Act.bind_check hr, Act.me_bind, Act.bind_rd ha]
  rfl

theorem float2_read {op : Nat → Nat → Nat → Nat × FlagBits} (hr : Ready i [f.srcA, f.srcB] [f.dst] s)
    (ha : s.take f.a = some (a, s1)) (hb : s1.take f.b = some (b, s2)) :
    float2 f op s =
      let r := op (roundMode s.me f.rnd) a.w.toNat b.w.toNat
      raiseThen (a.poison || b.poison) r.2
        (wr f.d { w := BitVec.ofNat 32 r.1, poison := a.poison || b.poison }) s2 := by
  rw [float2, Act.bind_check hr, Act.me_bind, Act.bind_rd ha, Act.bind_rd hb]
  rfl

theorem float3_read {op : Nat → Nat → Nat → Nat → Nat × FlagBits} (hr : Ready i [f.srcA, f.srcB, f.srcC] [f.dst] s)
    (ha : s.take f.a = some (a, s1)) (hb : s1.take f.b = some (b, s2)) (hc : s2.take f.c = some (c, s3)) :
    float3 f op s =
      let r := op (roundMode s.me f.rnd) a.w.toNat b.w.toNat c.w.toNat
      raiseThen (a.poison || b.poison || c.poison) r.2
        (wr f.d { w := BitVec.ofNat 32 r.1, poison := a.poison || b.poison || c.poison }) s3 := by
  rw [float3, Act.bind_check hr, Act.me_bind, Act.bind_rd ha, Act.bind_rd hb, Act.bind_rd hc]
  rfl

end

/-- The result of an FP64 instruction, its flags raised and the pair written. -/
def writeDouble (f : RForm) (p : Bool) (r : Nat × FlagBits) : Act Unit :=
  raiseThen p r.2 (wrp f.d { w := BitVec.ofNat 64 r.1, poison := p })

/-- The same for a compare or a class mask, which is one word. -/
def writeTest (f : RForm) (p : Bool) (r : Nat × FlagBits) : Act Unit :=
  raiseThen p r.2 (wr f.d { w := BitVec.ofNat 32 r.1, poison := p })

section
variable {i : Instr} {f : RForm} {s : State}

theorem double1_read {op : Nat → Nat → Nat × FlagBits} (hr : Ready i [f.srcA 2] [f.dst 2] s) :
    double1 f op s =
      let a := s.me.pair f.a.toNat
      writeDouble f a.poison (op (roundMode s.me f.rnd) a.w.toNat) s := by
  rw [double1, Act.bind_check hr, Act.me_bind, Act.bind_rdp]
  rfl

theorem double2_read {op : Nat → Nat → Nat → Nat × FlagBits} (hr : Ready i [f.srcA 2, f.srcB 2] [f.dst 2] s) :
    double2 f op s =
      let a := s.me.pair f.a.toNat
      let b := s.me.pair f.b.toNat
      writeDouble f (a.poison || b.poison) (op (roundMode s.me f.rnd) a.w.toNat b.w.toNat) s := by
  rw [double2, Act.bind_check hr, Act.me_bind, Act.bind_rdp, Act.bind_rdp]
  rfl

theorem double3_read {op : Nat → Nat → Nat → Nat → Nat × FlagBits} (hr : Ready i [f.srcA 2, f.srcB 2, f.srcC 2] [f.dst 2] s) :
    double3 f op s =
      let a := s.me.pair f.a.toNat
      let b := s.me.pair f.b.toNat
      let c := s.me.pair f.c.toNat
      writeDouble f (a.poison || b.poison || c.poison) (op (roundMode s.me f.rnd) a.w.toNat b.w.toNat c.w.toNat) s := by
  rw [double3, Act.bind_check hr, Act.me_bind, Act.bind_rdp, Act.bind_rdp, Act.bind_rdp]
  rfl

theorem doubleTest2_read {op : Nat → Nat → Nat × FlagBits} (hr : Ready i [f.srcA 2, f.srcB 2] [f.dst] s) :
    doubleTest2 f op s =
      let a := s.me.pair f.a.toNat
      let b := s.me.pair f.b.toNat
      writeTest f (a.poison || b.poison) (op a.w.toNat b.w.toNat) s := by
  rw [doubleTest2, Act.bind_check hr, Act.bind_rdp, Act.bind_rdp]
  rfl

end

/-! ## The operations -/

theorem testBit_eq (r : Bool × FlagBits) : testBit r = (r.1.toNat, r.2) := by
  rcases r with ⟨b, fl⟩
  cases b <;> rfl

theorem exec_fp32_binary {i : Instr} {fn : Nat} {f : RForm} {op : Nat → Nat → Nat → Nat × FlagBits}
    (h : fp32 i = some (fn, f)) (ho : floatBinary f32 fn = some op) (s : State) : exec i s = issue i (float2 f op) s := by
  suffices named : ∃ g, exec i s = issue i (float2 f g) s ∧ ∀ rnd a b, g rnd a b = op rnd a b by
    obtain ⟨g, hg, he⟩ := named
    rw [hg, funext fun rnd => funext fun a => funext (he rnd a)]
  unfold fp32 at h
  split at h <;> cases h <;> cases ho
  case h_11 | h_12 | h_13 => exact ⟨_, rfl, fun _ _ _ => testBit_eq _⟩
  all_goals exact ⟨_, rfl, fun _ _ _ => rfl⟩

theorem exec_fp32_unary {i : Instr} {fn : Nat} {f : RForm} {op : Nat → Nat → Nat × FlagBits}
    (h : fp32 i = some (fn, f)) (ho : floatUnary f32 fn = some op) (s : State) : exec i s = issue i (float1 f op) s := by
  unfold fp32 at h
  split at h <;> cases h <;> cases ho
  all_goals rfl

theorem exec_fp64_binary {i : Instr} {fn : Nat} {f : RForm} {op : Nat → Nat → Nat → Nat × FlagBits} (hw : oneWord fn = false)
    (h : fp64 i = some (fn, f)) (ho : floatBinary f64 fn = some op) (s : State) : exec i s = issue i (double2 f op) s := by
  unfold fp64 at h
  split at h <;> cases h <;> cases ho <;> cases hw
  all_goals rfl

/-- A compare does not round: its mode does not count. -/
theorem exec_fp64_compare {i : Instr} {fn : Nat} {f : RForm} {op : Nat → Nat → Nat → Nat × FlagBits} (hw : oneWord fn = true)
    (h : fp64 i = some (fn, f)) (ho : floatBinary f64 fn = some op) (rnd : Nat) (s : State) :
    exec i s = issue i (doubleTest2 f (op rnd)) s := by
  suffices named : ∃ g, exec i s = issue i (doubleTest2 f g) s ∧ ∀ a b, g a b = op rnd a b by
    obtain ⟨g, hg, he⟩ := named
    rw [hg, funext fun a => funext (he a)]
  unfold fp64 at h
  split at h <;> cases h <;> cases ho <;> cases hw
  all_goals exact ⟨_, rfl, fun _ _ => testBit_eq _⟩

theorem exec_fp64_unary {i : Instr} {fn : Nat} {f : RForm} {op : Nat → Nat → Nat × FlagBits} (hw : oneWord fn = false)
    (h : fp64 i = some (fn, f)) (ho : floatUnary f64 fn = some op) (s : State) : exec i s = issue i (double1 f op) s := by
  unfold fp64 at h
  split at h <;> cases h <;> cases ho <;> cases hw
  all_goals rfl

/-- The one FP64 instruction of one source whose result is a word is the class mask, and it raises no flag. -/
theorem exec_fp64_class {i : Instr} {fn : Nat} {f : RForm} {op : Nat → Nat → Nat × FlagBits} (hw : oneWord fn = true)
    (h : fp64 i = some (fn, f)) (ho : floatUnary f64 fn = some op) :
    (∀ s, exec i s = issue i (doubleTest1 f f64.classMask) s) ∧ ∀ rnd a, op rnd a = (f64.classMask a, 0) := by
  unfold fp64 at h
  split at h <;> cases h <;> cases ho <;> cases hw
  exact ⟨fun _ => rfl, fun _ _ => rfl⟩

theorem fp64_wf {i : Instr} {fn : Nat} {f : RForm} (h : fp64 i = some (fn, f)) (hwf : i.wf = true) (hw : oneWord fn = false) :
    f.d.isPair = true := by
  unfold fp64 at h
  split at h <;> cases h <;> cases hw
  all_goals exact Statements.RForm.fits_d hwf

/-! ## A slot written back as it was -/

theorem Assoc.erase_insert {α : Type} (m : Assoc α) (k : Nat) (v : α) :
    Assoc.erase (Assoc.insert m k v) k = Assoc.erase m k := by
  induction m with
  | nil => simp [Assoc.insert, Assoc.erase]
  | cons e m ih =>
    unfold Assoc.insert
    split
    · simp [Assoc.erase]
    · simp only [Assoc.erase, List.filter_cons] at ih ⊢
      rw [ih]

theorem Assoc.erase_erase {α : Type} (m : Assoc α) (k : Nat) : Assoc.erase (Assoc.erase m k) k = Assoc.erase m k := by
  simp [Assoc.erase]

theorem Assoc.set_set {α : Type} [DecidableEq α] (dflt : Nat → α) (m : Assoc α) (k : Nat) (v w : α) :
    Assoc.set dflt (Assoc.set dflt m k v) k w = Assoc.set dflt m k w := by
  have erased : Assoc.erase (Assoc.set dflt m k v) k = Assoc.erase m k := by
    unfold Assoc.set
    split
    · exact Assoc.erase_erase m k
    · rw [Assoc.erase_insert, Assoc.erase_erase]
  rw [Assoc.set, erased]
  rfl

theorem State.setSlot_setSlot (s : State) (k : Nat) (v w : Slot) : (s.setSlot k v).setSlot k w = s.setSlot k w := by
  simp only [State.setSlot, Assoc.set_set]

theorem State.retireAt_setSlot_self (s : State) (k : Nat) (here next : Word) :
    (s.setSlot k (s.slot k)).retireAt k here next = s.retireAt k here next := by
  rw [State.retireAt, State.retireAt, State.modSlot, State.modSlot, State.setSlot_setSlot, State.slot_setSlot_same]

theorem State.pushPort_setMe (s : State) (v : Slot) (core dir : Nat) (w : Val) :
    (s.setMe v).pushPort core dir w = (s.pushPort core dir w).setMe v := by
  unfold State.pushPort
  split <;> rfl

theorem retired_put_setMe_self (s : State) (code : Code) (v : Val) :
    retired s ((s.setMe s.me).put code v) = retired s (s.put code v) := by
  unfold State.put
  rw [State.me_setMe]
  split
  · exact congrArg (retired s) (s.setSlot_setSlot _ _ _)
  split
  · rw [State.pushPort_setMe]
    have unread : s.me = (s.pushPort s.myCore (code.toNat - 64) v).slot s.cur := by
      unfold State.pushPort
      split <;> rfl
    have here : (s.pushPort s.myCore (code.toNat - 64) v).cur = s.cur := by
      unfold State.pushPort
      split <;> rfl
    rw [retired, retired, show (s.setMe s.me).myCore = s.myCore from rfl, State.setMe, here, unread, State.retireAt_setSlot_self]
  · exact congrArg (retired s) (s.setSlot_setSlot _ _ _)

theorem withFlags_none (s : State) (p : Bool) : withFlags s p 0 = s ∨ withFlags s p 0 = s.setMe s.me := by
  unfold withFlags State.addFlags
  cases p
  · exact .inr (congrArg s.setMe (by rw [show s.me.fflags ||| 0 = s.me.fflags from BitVec.or_zero]))
  · exact .inl rfl

theorem retired_put_noFlags (s : State) (p : Bool) (code : Code) (v : Val) :
    retired s ((withFlags s p 0).put code v) = retired s (s.put code v) := by
  rcases withFlags_none s p with h | h <;> rw [h]
  exact retired_put_setMe_self s code v

/-! ## FCVT -/

/-- FCVT with its two format fields as numbers. -/
def convert (dst src : Nat) (f : RForm) : Act Unit := do
  let n := if fcvtWide dst then 2 else 1
  check [f.srcA (if fcvtWide src then 2 else 1)] [f.dst n]
  let sl ← Act.me
  let a ← if fcvtWide src then rdp f.a else do
    let v ← rd f.a
    pure { w := v.w.zeroExtend 64, poison := v.poison }
  let r := fcvt dst src (roundMode sl f.rnd) a.w
  raiseClean a.poison r.2
  let v : Val2 := { w := r.1, poison := a.poison }
  if fcvtWide dst then wrp f.d v else wr f.d v.lo

theorem fcvt_dst (fn : BitVec 8) : (fn.extractLsb' 4 3).toNat = fn.toNat / 16 % 8 := by
  rw [BitVec.extractLsb'_toNat, Nat.shiftRight_eq_div_pow]

theorem fcvt_src (fn : BitVec 8) : (fn.extractLsb' 0 3).toNat = fn.toNat % 8 := by
  rw [BitVec.extractLsb'_toNat, Nat.shiftRight_zero]

theorem exec_fcvt (fn : BitVec 8) (f : RForm) (s : State) :
    exec (.fcvt fn f) s = issue (.fcvt fn f) (convert (fn.toNat / 16 % 8) (fn.toNat % 8) f) s := by
  rw [← fcvt_dst, ← fcvt_src]
  rfl

theorem fcvt_wf {fn : BitVec 8} {f : RForm} (h : Instr.wf (.fcvt fn f) = true) (hw : fcvtWide (fn.toNat / 16 % 8) = true) :
    f.d.isPair = true := by
  simp only [Instr.wf, RForm.wfFcvt, fcvt_dst, Bool.and_eq_true, hw, if_true] at h
  exact Statements.RForm.fits_d h.2

/-- What FCVT does once its source is read. -/
def writeConverted (f : RForm) (wide p : Bool) (r : DWord × FlagBits) : Act Unit :=
  raiseThen p r.2 (if wide then wrp f.d { w := r.1, poison := p } else wr f.d (Val2.lo { w := r.1, poison := p }))

theorem convert_read {i : Instr} {dst src : Nat} {f : RForm} {s : State}
    (hr : Ready i [f.srcA (if fcvtWide src then 2 else 1)] [f.dst (if fcvtWide dst then 2 else 1)] s) :
    (fcvtWide src = true → convert dst src f s =
      let a := s.me.pair f.a.toNat
      writeConverted f (fcvtWide dst) a.poison (fcvt dst src (roundMode s.me f.rnd) a.w) s)
    ∧ (fcvtWide src = false → ∀ v s1, s.take f.a = some (v, s1) → convert dst src f s =
      writeConverted f (fcvtWide dst) v.poison (fcvt dst src (roundMode s.me f.rnd) (v.w.zeroExtend 64)) s1) := by
  rw [convert, Act.bind_check hr, Act.me_bind]
  refine ⟨fun wide => ?_, fun narrow v s1 hv => ?_⟩
  · rw [if_pos wide, Act.bind_rdp]
    rfl
  · rw [narrow, if_neg Bool.false_ne_true]
    exact Act.bind_rd hv

end Sys2Proof.Machine

namespace Sys2Proof.Statements

open Sys2Proof.Machine

theorem flagsTrap {i : Instr} {s t : State} {p : Bool} {fl : FlagBits} {act write : Act Unit}
    (hm : modeLegal i s.me.xlt = true) (he : exec i s = issue i act s) (ha : act s = raiseThen p fl write t)
    (ht : t.me = s.me) (hp : p = false) : FlagsTrap i s fl :=
  fun enabled => he.trans (issue_trap hm (ha.trans (raiseThen_enabled ht hp enabled)))

theorem State.take_me_two {s s1 s2 : State} {a b : Code} {x y : Val} (h1 : s.take a = some (x, s1)) (h2 : s1.take b = some (y, s2)) :
    s2.me = s.me := (State.take_me h2).trans (State.take_me h1)

/-- The low word of a pair, as a result of one word. -/
theorem lo_ofNat (n : Nat) (p : Bool) :
    Val2.lo { w := BitVec.ofNat 64 n, poison := p } = { w := BitVec.ofNat 32 n, poison := p } := by
  have low : (BitVec.ofNat 64 n).extractLsb' 0 32 = BitVec.ofNat 32 n := by
    apply BitVec.eq_of_toNat_eq
    rw [BitVec.extractLsb'_toNat, Nat.shiftRight_zero, BitVec.toNat_ofNat, BitVec.toNat_ofNat]
    exact Nat.mod_mod_of_dvd _ (by decide)
  rw [Val2.lo, low]

/-- The class mask of FP64 raises no flag, so that its slot is as if it had raised none. -/
theorem exec_class_retired {i : Instr} {f : RForm} {s : State} (hr : Ready i [f.srcA 2] [f.dst] s)
    (he : exec i s = issue i (doubleTest1 f f64.classMask) s) (hd : Open s f.d) :
    let a := s.me.pair f.a.toNat
    exec i s = retired s ((withFlags s a.poison 0).put f.d
      { w := BitVec.ofNat 32 (f64.classMask a.w.toNat), poison := a.poison }) := by
  intro a
  rw [he, retired_put_noFlags]
  refine issue_ok hr.1 ?_
  rw [doubleTest1, Act.bind_check hr, Act.bind_rdp, wr_open _ hd]

theorem writeConverted_ok {f : RForm} {wide p : Bool} {r : DWord × FlagBits} {s t : State} (hme : t.me = s.me)
    (hq : Quiet s p r.2) (hpair : wide = true → f.d.isPair = true)
    (hfree : wide = true → t.dstWaits { code := f.d, n := 2 } = false) (hopen : wide = false → Open t f.d) :
    let d : Val2 := { w := r.1, poison := p }
    writeConverted f wide p r t = .ok ((), if wide then ((withFlags t p r.2).put f.d d.lo).put (f.d + 1) d.hi
      else (withFlags t p r.2).put f.d d.lo) := by
  cases wide with
  | true => exact raiseThen_wrp hme hq (hpair rfl) (hfree rfl)
  | false => exact raiseThen_wr hme hq (hopen rfl)

/-- Settles O17: each instruction is a shape and an operation; its sources read, it raises its flags, and traps there where one
is enabled, and then writes. -/
theorem floatResults : Obligations.FloatResults := by
  unfold Obligations.FloatResults
  refine ⟨⟨?_, ?_, ?_⟩, ⟨?_, ?_, ?_⟩, ?_, ?_, ?_, ?_, ?_, ?_, ?_⟩
  · intro i fn f op s s1 s2 a b h ho hr ha hb hd p r hq
    rw [exec_fp32_binary h ho]
    exact issue_ok hr.1 ((float2_read hr ha hb).trans (raiseThen_wr (State.take_me_two ha hb) hq hd))
  · intro i fn f op s s1 a h ho hr ha hd r hq
    rw [exec_fp32_unary h ho]
    exact issue_ok hr.1 ((float1_read hr ha).trans (raiseThen_wr (State.take_me ha) hq hd))
  · intro f s s1 s2 s3 a b c hr ha hb hc hd p rnd r hq
    exact issue_ok hr.1 ((float3_read hr ha hb hc).trans
      (raiseThen_wr ((State.take_me hc).trans (State.take_me_two ha hb)) hq hd))
  · intro i fn f op s h ho hwf hr hd a b p r d t hq
    cases hw : oneWord fn with
    | true =>
      rw [hw] at hr
      rw [exec_fp64_compare hw h ho (roundMode s.me f.rnd), if_pos rfl, lo_ofNat]
      exact issue_ok hr.1 ((doubleTest2_read hr).trans (raiseThen_wr rfl hq (hd hw)))
    | false =>
      rw [hw] at hr
      rw [exec_fp64_binary hw h ho]
      exact issue_ok hr.1 ((double2_read hr).trans (raiseThen_wrp rfl hq (fp64_wf h hwf hw) (ready_dst_free hr)))
  · intro i fn f op s h ho hwf hr hd a r d t hq
    cases hw : oneWord fn with
    | true =>
      rw [hw] at hr
      obtain ⟨he, hop⟩ := exec_fp64_class hw h ho
      have hv : r = (f64.classMask a.w.toNat, 0) := hop _ _
      simp only [t, d, hv, lo_ofNat]
      exact exec_class_retired hr (he s) (hd hw)
    | false =>
      rw [hw] at hr
      rw [exec_fp64_unary hw h ho]
      exact issue_ok hr.1 ((double1_read hr).trans (raiseThen_wrp rfl hq (fp64_wf h hwf hw) (ready_dst_free hr)))
  · intro f s hwf hr a b c p rnd r d hq
    exact issue_ok hr.1 ((double3_read hr).trans
      (raiseThen_wrp rfl hq (RForm.fits_d hwf) (ready_dst_free hr)))
  · intro fn f s s1 a hwf dst src hr ha hd r d t hq
    rw [exec_fcvt]
    cases hs : fcvtWide src with
    | true =>
      rw [hs, if_pos rfl] at ha
      obtain ⟨rfl, rfl⟩ := ha
      refine issue_ok hr.1 (((convert_read hr).1 hs).trans (writeConverted_ok rfl hq (fcvt_wf hwf) (fun wide => ?_) hd))
      rw [wide, if_pos rfl] at hr
      exact ready_dst_free hr
    | false =>
      rw [hs, if_neg Bool.false_ne_true] at ha
      obtain ⟨v, hv, rfl⟩ := ha
      refine issue_ok hr.1 (((convert_read hr).2 hs v s1 hv).trans
        (writeConverted_ok (State.take_me hv) hq (fcvt_wf hwf) (fun wide => ?_) hd))
      rw [wide, if_pos rfl] at hr
      rw [State.dstWaits_take hv (Code.isPair_iff.1 (fcvt_wf hwf wide)).1]
      exact ready_dst_free hr
  · intro i fn f op s s1 s2 a b h ho hr ha hb pa pb
    exact flagsTrap hr.1 (exec_fp32_binary h ho s) (float2_read hr ha hb) (State.take_me_two ha hb) (by rw [pa, pb]; rfl)
  · intro i fn f op s s1 a h ho hr ha hp
    exact flagsTrap hr.1 (exec_fp32_unary h ho s) (float1_read hr ha) (State.take_me ha) hp
  · intro f s s1 s2 s3 a b c hr ha hb hc hp rnd
    exact flagsTrap hr.1 rfl (float3_read hr ha hb hc) ((State.take_me hc).trans (State.take_me_two ha hb)) hp
  · intro i fn f op s h ho hr a b hp
    cases hw : oneWord fn with
    | true =>
      rw [hw] at hr
      exact flagsTrap hr.1 (exec_fp64_compare hw h ho _ s) (doubleTest2_read hr) rfl hp
    | false =>
      rw [hw] at hr
      exact flagsTrap hr.1 (exec_fp64_binary hw h ho s) (double2_read hr) rfl hp
  · intro f s hr a b c rnd hp
    exact flagsTrap hr.1 rfl (double3_read hr) rfl hp
  · intro fn f s s1 a dst src hr ha hp
    cases hs : fcvtWide src with
    | true =>
      rw [hs, if_pos rfl] at ha
      subst ha
      exact flagsTrap hr.1 (exec_fcvt fn f s) ((convert_read hr).1 hs) rfl hp
    | false =>
      rw [hs, if_neg Bool.false_ne_true] at ha
      obtain ⟨v, hv, rfl⟩ := ha
      exact flagsTrap hr.1 (exec_fcvt fn f s) ((convert_read hr).2 hs v s1 hv) (State.take_me hv) hp

end Sys2Proof.Statements
end

section
/-! SUPPORT. The CSR instructions (R37, R38, R74) up to the reading of their register, and from there on. -/

namespace Sys2Proof.Machine

open Sys2Proof.Statements

theorem Act.bind_parkIf_false {β : Type} {c : Bool} {w : Wait} {f : Unit → Act β} {s : State} (h : c = false) :
    (Act.parkIf c w >>= f) s = f () s :=
  Act.bind_run (Act.parkIf_ok.2 ⟨h, rfl⟩)

theorem Act.bind_parkIf_true {β : Type} {c : Bool} {w : Wait} {f : Unit → Act β} {s : State} (h : c = true) :
    (Act.parkIf c w >>= f) s = .error (.park w) := by
  rw [h]
  rfl

theorem Act.state_bind {β : Type} (f : State → Act β) (s : State) : (Act.state >>= f) s = f s s := rfl

/-- What a CSR instruction does with the value that it has read. -/
def csrRest (f : IForm) (op : Option (Word → Word → Word)) (old : Word) : Act Unit := do
  match op with
  | none => pure ()
  | some g => do
    let a ← rd f.a
    Act.trapIf a.poison .poison f.a.toNat 0
    let new := g old a.w
    Act.trapIf (f.imm.toNat == 0x060 && new.getLsbD 1 != old.getLsbD 1) .illegal 0 0
    Act.trapIf (f.imm.toNat == 0x012 && decide (5 ≤ new.toNat % 8)) .illegal 0 0
    Act.modMe (fun sl => sl.setCsr f.imm.toNat new)
  wr f.d { w := old }

section
variable {i : Instr} {f : IForm} {op : Option (Word → Word → Word)} {s : State}

/-- The mode lets the instruction reach its register. -/
def CsrReached (s : State) (n : Nat) (write : Bool) : Prop :=
  csrAccess s.me.mode n = .write ∨ (write = false ∧ csrAccess s.me.mode n = .read)

theorem csrOp_reached (h : CsrReached s f.imm.toNat op.isSome)
    (hr : Ready i (if op.isSome then [f.srcA] else []) [f.dst] s) :
    csrOp f op s = (do
      Act.parkIf (csrWaits s f.imm.toNat op.isSome) { xval := f.d.toNat, reason := 0x03 }
      let old ← readCsr f.imm.toNat
      csrRest f op old) s := by
  have some_access : (csrAccess s.me.mode f.imm.toNat == .none) = false := by
    rcases h with h | ⟨-, h⟩ <;> rw [h] <;> rfl
  have may_write : (op.isSome && csrAccess s.me.mode f.imm.toNat == .read) = false := by
    rcases h with h | ⟨h, -⟩ <;> rw [h]
    · exact Bool.and_false _
    · rfl
  rw [csrOp, Act.me_bind, Act.bind_trapIf_false some_access, Act.bind_trapIf_false may_write, Act.bind_check hr, Act.state_bind]
  rfl

theorem csrOp_readOnly {g : Word → Word → Word} (h : csrAccess s.me.mode f.imm.toNat = .read) :
    csrOp f (some g) s = .error (.trap .illegal 0 0) := by
  rw [csrOp, Act.me_bind, Act.bind_trapIf_false (by rw [h]; rfl)]
  exact Act.bind_trapIf_true (by rw [h]; rfl)

theorem csrOp_waits (h : CsrReached s f.imm.toNat op.isSome)
    (hr : Ready i (if op.isSome then [f.srcA] else []) [f.dst] s) (hw : csrWaits s f.imm.toNat op.isSome = true) :
    csrOp f op s = .error (.park { xval := f.d.toNat, reason := 0x03 }) := by
  rw [csrOp_reached h hr]
  exact Act.bind_parkIf_true hw

theorem csrOp_reads {s0 : State} {old : Word} (h : CsrReached s f.imm.toNat op.isSome)
    (hr : Ready i (if op.isSome then [f.srcA] else []) [f.dst] s) (hw : csrWaits s f.imm.toNat op.isSome = false)
    (ho : readCsr f.imm.toNat s = .ok (old, s0)) : csrOp f op s = csrRest f op old s0 := by
  rw [csrOp_reached h hr, Act.bind_parkIf_false hw]
  exact Act.bind_run ho

theorem csrReached_of_access (h : csrAccess s.me.mode f.imm.toNat ≠ .none) : CsrReached s f.imm.toNat false := by
  unfold CsrReached
  cases ha : csrAccess s.me.mode f.imm.toNat
  · exact absurd ha h
  · exact .inr ⟨rfl, rfl⟩
  · exact .inl rfl

/-- A CSRR that reads a value writes it to D. -/
theorem exec_csrr_reads {s0 : State} {v : Word} (hr : Ready (.csrr f) [] [f.dst] s)
    (ha : csrAccess s.me.mode f.imm.toNat ≠ .none) (hw : csrWaits s f.imm.toNat false = false)
    (ho : readCsr f.imm.toNat s = .ok (v, s0)) (hopen : Open s0 f.d) :
    exec (.csrr f) s = retired s (s0.put f.d { w := v }) :=
  issue_ok hr.1 ((csrOp_reads (csrReached_of_access ha) hr hw ho).trans (wr_open _ hopen))

theorem exec_csrWriteOf {g : Word → Word → Word} (h : csrWriteOf i = some (f, g)) (s : State) :
    exec i s = issue i (csrOp f (some g)) s := by
  unfold csrWriteOf at h
  split at h <;> cases h
  all_goals rfl

end

/-! ## Reading a CSR -/

section
variable {n : Nat} {s : State}

theorem readCsr_plain (hl : latchLow n = false) (h : s.me.latched.get latchedDefault (n - 1) = none) :
    readCsr n s = .ok (s.csr s.cur n, s) := by
  rw [readCsr, hl, h]
  rfl

theorem readCsr_low (hl : latchLow n = true) :
    readCsr n s = .ok (s.csr s.cur n, s.setMe { s.me with
      latched := s.me.latched.set latchedDefault n (some (s.csr s.cur (n + 1))) }) := by
  rw [readCsr, hl]
  rfl

theorem latchLow_iff : latchLow n = true ↔ n = 0x030 ∨ n = 0x032 ∨ n = 0x061 ∨ n = 0x066 := by
  simp [latchLow, or_assoc]

/-- The four low words are no high words, and neither waits for a span. -/
theorem latchLow_high (h : latchLow (n - 1) = true) : latchLow n = false := by
  rw [← Bool.not_eq_true, latchLow_iff]
  rw [latchLow_iff] at h
  omega

theorem readCsr_latched {v : Word} (hl : latchLow (n - 1) = true)
    (h : s.me.latched.get latchedDefault (n - 1) = some v) :
    readCsr n s = .ok (v, s.setMe { s.me with latched := s.me.latched.set latchedDefault (n - 1) none }) := by
  rw [readCsr, latchLow_high hl, h, hl]
  rfl

theorem csrWaits_counter (h : latchLow n = true ∨ latchLow (n - 1) = true) : csrWaits s n false = false := by
  rw [latchLow_iff, latchLow_iff] at h
  have other : (n == 0x010 || (decide (0x018 ≤ n) && decide (n ≤ 0x01B)) || (false && n == 0x048)) = false := by
    simp only [Bool.or_eq_false_iff, beq_eq_false_iff_ne, Bool.and_eq_false_iff, decide_eq_false_iff_not]
    omega
  rw [csrWaits, other, Bool.false_and]

/-- A latch is no operand: D takes a word whatever has been latched. -/
theorem open_setLatched {code : Code} {m : Assoc (Option Word)} (h : Open s code) :
    Open (s.setMe { s.me with latched := m }) code := by
  have same : (s.setMe { s.me with latched := m }).me = { s.me with latched := m } := State.me_setMe _ _
  refine ⟨Eq.trans ?_ h.1, ?_⟩
  · simp only [State.dstWaits, State.viewOwed, State.viewHeld, same]
    rfl
  · rw [State.outboxFull, same]
    exact h.2

end

end Sys2Proof.Machine

namespace Sys2Proof.Statements

open Sys2Proof.Machine

section
variable {i : Instr} {f : IForm} {g : Word → Word → Word} {s s0 s1 : State} {old : Word} {a : Val}

theorem csrWrite_reads (hr : Ready i [f.srcA] [f.dst] s) (ha : csrAccess s.me.mode f.imm.toNat = .write)
    (hw : csrWaits s f.imm.toNat true = false) (ho : readCsr f.imm.toNat s = .ok (old, s0)) :
    csrOp f (some g) s = csrRest f (some g) old s0 :=
  csrOp_reads (op := some g) (.inl ha) hr hw ho

/-- A write looks at A's poison, at TRC.SUSP and at the rounding mode, in that order. -/
theorem csrRest_poison (hb : s0.take f.a = some (a, s1)) (hp : a.poison = true) :
    csrRest f (some g) old s0 = .error (.trap .poison f.a.toNat 0) := by
  rw [csrRest, Act.bind_rd hb]
  exact Act.bind_trapIf_true hp

theorem csrRest_clean (hb : s0.take f.a = some (a, s1)) (hp : a.poison = false) :
    csrRest f (some g) old s0 = (do
      Act.trapIf (f.imm.toNat == 0x060 && (g old a.w).getLsbD 1 != old.getLsbD 1) .illegal 0 0
      Act.trapIf (f.imm.toNat == 0x012 && decide (5 ≤ (g old a.w).toNat % 8)) .illegal 0 0
      Act.modMe (fun sl => sl.setCsr f.imm.toNat (g old a.w))
      wr f.d { w := old }) s1 := by
  rw [csrRest, Act.bind_rd hb]
  exact Act.bind_trapIf_false hp

theorem csrRest_susp (hb : s0.take f.a = some (a, s1)) (hp : a.poison = false)
    (hs : f.imm.toNat = 0x060 ∧ (g old a.w).getLsbD 1 ≠ old.getLsbD 1) :
    csrRest f (some g) old s0 = .error (.trap .illegal 0 0) := by
  rw [csrRest_clean hb hp]
  exact Act.bind_trapIf_true (by simp only [hs.1, beq_self_eq_true, Bool.true_and, bne_iff_ne]; exact hs.2)

theorem csrRest_round (hb : s0.take f.a = some (a, s1)) (hp : a.poison = false)
    (hs : f.imm.toNat = 0x012 ∧ 5 ≤ (g old a.w).toNat % 8) :
    csrRest f (some g) old s0 = .error (.trap .illegal 0 0) := by
  rw [csrRest_clean hb hp, Act.bind_trapIf_false (by rw [hs.1]; rfl)]
  exact Act.bind_trapIf_true (by rw [hs.1, decide_eq_true hs.2]; rfl)

theorem csrRest_writes (hb : s0.take f.a = some (a, s1)) (hp : a.poison = false)
    (hsusp : f.imm.toNat = 0x060 → (g old a.w).getLsbD 1 = old.getLsbD 1)
    (hround : f.imm.toNat = 0x012 → (g old a.w).toNat % 8 ≤ 4)
    (hopen : Open (s1.setMe (s1.me.setCsr f.imm.toNat (g old a.w))) f.d) :
    csrRest f (some g) old s0 = .ok ((), (s1.setMe (s1.me.setCsr f.imm.toNat (g old a.w))).put f.d { w := old }) := by
  have susp : (f.imm.toNat == 0x060 && (g old a.w).getLsbD 1 != old.getLsbD 1) = false := by
    simpa [-BitVec.getLsbD_eq_getElem] using hsusp
  have round : (f.imm.toNat == 0x012 && decide (5 ≤ (g old a.w).toNat % 8)) = false := by
    simpa [Nat.lt_succ_iff] using hround
  rw [csrRest_clean hb hp, Act.bind_trapIf_false susp, Act.bind_trapIf_false round]
  exact wr_open _ hopen

end

theorem csrOf_cases {i : Instr} {f : IForm} {write : Bool} (h : csrOf i = some (f, write)) :
    (i = .csrr f ∧ write = false) ∨ (∃ g, csrWriteOf i = some (f, g)) ∧ write = true := by
  unfold csrOf at h
  split at h
  · cases h
    exact .inl ⟨rfl, rfl⟩
  · obtain ⟨⟨f', g⟩, hg, hx⟩ := Option.map_eq_some_iff.1 h
    cases hx
    exact .inr ⟨⟨g, hg⟩, rfl⟩

theorem exec_csrOf {i : Instr} {f : IForm} {write : Bool} (h : csrOf i = some (f, write)) :
    ∃ op, op.isSome = write ∧ ∀ s, exec i s = issue i (csrOp f op) s := by
  rcases csrOf_cases h with ⟨rfl, rfl⟩ | ⟨⟨g, hg⟩, rfl⟩
  · exact ⟨none, rfl, fun _ => rfl⟩
  · exact ⟨some g, rfl, exec_csrWriteOf hg⟩

/-- Settles O21: the mode and the waits are looked at first, then the register is read, and a write checks A and the new value
before it writes. -/
theorem csrInstructions : Obligations.CsrInstructions := by
  unfold Obligations.CsrInstructions
  refine ⟨⟨?_, ?_, ?_⟩, ?_, ?_, ?_⟩
  · intro f s hr hd ha hw hl hn
    exact exec_csrr_reads hr ha hw (readCsr_plain hl hn) hd
  · intro f s hr hd ha hl
    exact exec_csrr_reads hr ha (csrWaits_counter (.inl hl)) (readCsr_low hl) (open_setLatched hd)
  · intro f s v hr hd ha hl hv
    exact exec_csrr_reads hr ha (csrWaits_counter (.inr hl)) (readCsr_latched hl hv) (open_setLatched hd)
  · intro i f g s s0 s1 old a h hr ha hw ho hb hp new hsusp hround t hopen
    rw [exec_csrWriteOf h]
    exact issue_ok hr.1 ((csrWrite_reads hr ha hw ho).trans (csrRest_writes hb hp hsusp hround hopen))
  · intro i f write s h hm
    obtain ⟨op, rfl, he⟩ := exec_csrOf h
    refine ⟨fun ha => ?_, fun hw ha => ?_, fun ha hr hw => ?_⟩
    · exact (he s).trans (issue_trap hm (csrOp_priv ha))
    · obtain ⟨g, rfl⟩ := Option.isSome_iff_exists.1 hw
      exact (he s).trans (issue_trap hm (csrOp_readOnly ha))
    · exact (he s).trans (issue_park hm (csrOp_waits ha hr hw))
  · intro i f g s s0 s1 old a h hr ha hw ho hb new
    refine ⟨fun hp => ?_, fun hp hbad => ?_⟩
    · exact (exec_csrWriteOf h s).trans (issue_trap hr.1 ((csrWrite_reads hr ha hw ho).trans (csrRest_poison hb hp)))
    · refine (exec_csrWriteOf h s).trans (issue_trap hr.1 ((csrWrite_reads hr ha hw ho).trans ?_))
      exact hbad.elim (csrRest_susp hb hp) (csrRest_round hb hp)

end Sys2Proof.Statements
end

section
/-! SUPPORT. What the instructions of registers alone leave unchanged (R56): a frame of the state that every step of a meaning
keeps, and that its retirement turns into the frame of the instruction. -/

namespace Sys2Proof.Machine

open Sys2Proof.Statements

/-! ## The frame -/

/-- A slot changed in nothing but the registers named, its flags where floats is set, latches, a YIELD, words of its outbox,
and values owed to it. -/
structure SlotFrame (ds : List Code) (floats : Bool) (a b : Slot) : Prop where
  mine : ∃ regs fflags latched yielded outbox owed, b = { a with
    regs := regs, fflags := fflags, latched := latched, yielded := yielded, outbox := outbox, owed := owed }
  flags : floats = false → b.fflags = a.fflags
  regs : ∀ j, (∀ d ∈ ds, regIndex a.mode d.toNat ≠ j) → b.regAt j = a.regAt j

/-- A state changed in no memory, in no other slot, and in its own slot within the frame. -/
structure RegFrame (ds : List Code) (floats : Bool) (s t : State) : Prop where
  cur : t.cur = s.cur
  mem : ∀ p, t.memAt p = s.memAt p
  others : ∀ k, k ≠ s.cur → t.slot k = s.slot k
  slot : SlotFrame ds floats s.me t.me

section
variable {ds : List Code} {floats : Bool}

theorem SlotFrame.refl (a : Slot) : SlotFrame ds floats a a :=
  ⟨⟨_, _, _, _, _, _, rfl⟩, fun _ => rfl, fun _ _ => rfl⟩

theorem SlotFrame.mode {a b : Slot} (h : SlotFrame ds floats a b) : b.mode = a.mode := by
  obtain ⟨⟨_, _, _, _, _, _, rfl⟩, -, -⟩ := h
  rfl

theorem SlotFrame.trans {a b c : Slot} (h : SlotFrame ds floats a b) (g : SlotFrame ds floats b c) :
    SlotFrame ds floats a c := by
  refine ⟨?_, fun hf => (g.flags hf).trans (h.flags hf), fun j hj => ?_⟩
  · obtain ⟨_, _, _, _, _, _, rfl⟩ := g.mine
    obtain ⟨_, _, _, _, _, _, rfl⟩ := h.mine
    exact ⟨_, _, _, _, _, _, rfl⟩
  · rw [g.regs j (by rw [h.mode]; exact hj), h.regs j hj]

theorem RegFrame.refl (s : State) : RegFrame ds floats s s := ⟨rfl, fun _ => rfl, fun _ _ => rfl, .refl _⟩

theorem RegFrame.trans {s t u : State} (h : RegFrame ds floats s t) (g : RegFrame ds floats t u) : RegFrame ds floats s u :=
  ⟨g.cur.trans h.cur, fun p => (g.mem p).trans (h.mem p),
    fun k hk => (g.others k (by rw [h.cur]; exact hk)).trans (h.others k hk), h.slot.trans g.slot⟩

theorem RegFrame.setMe {s : State} {v : Slot} (h : SlotFrame ds floats s.me v) : RegFrame ds floats s (s.setMe v) := by
  refine ⟨rfl, fun p => by cases p <;> rfl, fun k hk => State.slot_setSlot_ne s v hk, ?_⟩
  rw [State.me_setMe]
  exact h

/-- What changes neither the slots nor a memory keeps every frame. -/
theorem RegFrame.of_sameSlots {s t : State} (h : s.SameSlots t) : RegFrame ds floats s t := by
  obtain ⟨hc, hs, hm⟩ := h
  have slots : ∀ k, t.slot k = s.slot k := fun k => by rw [State.slot, hs]; rfl
  refine ⟨hc, hm, fun k _ => slots k, ?_⟩
  rw [State.me, State.me, slots, hc]
  exact .refl _

theorem SlotFrame.setReg {a : Slot} {d : Code} (r : Reg) (h : d ∈ ds) : SlotFrame ds floats a (a.setReg d.toNat r) := by
  refine ⟨?_, fun _ => ?_, fun j hj => ?_⟩
  · unfold Slot.setReg Slot.setRegAt
    split
    · exact ⟨_, _, _, _, _, _, rfl⟩
    · exact ⟨_, _, _, _, _, _, rfl⟩
  · unfold Slot.setReg Slot.setRegAt
    split <;> rfl
  · rw [Slot.setReg, Slot.regAt_setRegAt, if_neg]
    exact fun hji => hj d h hji.1.symm

theorem SlotFrame.owed {a b : Slot} (o : List Owed) (h : SlotFrame ds floats a b) :
    SlotFrame ds floats a { b with owed := o } :=
  h.trans ⟨⟨_, _, _, _, _, _, rfl⟩, fun _ => rfl, fun _ _ => rfl⟩

theorem RegFrame.take {s t : State} {code : Code} {v : Val} (h : s.take code = some (v, t)) : RegFrame ds floats s t :=
  .of_sameSlots ⟨State.take_cur h, State.take_slots h, State.take_memAt h⟩

theorem RegFrame.pushPort (s : State) (core dir : Nat) (v : Val) : RegFrame ds floats s (s.pushPort core dir v) := by
  refine .of_sameSlots ?_
  unfold State.pushPort
  split
  · exact .refl s
  · exact ⟨rfl, rfl, fun p => by cases p <;> rfl⟩

theorem RegFrame.put {s : State} {code : Code} (v : Val) (h : code ∈ ds) : RegFrame ds floats s (s.put code v) := by
  unfold State.put
  split
  · exact .setMe (.setReg _ h)
  split
  · exact .pushPort _ _ _ _
  · exact .setMe ⟨⟨_, _, _, _, _, _, rfl⟩, fun _ => rfl, fun _ _ => rfl⟩

theorem RegFrame.addFlags (s : State) (fl : FlagBits) : RegFrame ds true s (s.addFlags fl) :=
  .setMe ⟨⟨_, _, _, _, _, _, rfl⟩, fun h => absurd h (by decide), fun _ _ => rfl⟩

/-! ## Meanings within the frame -/

/-- How an instruction of registers alone may stop: with a trap, or with a park that asks for no translation. -/
def RegStop : Stop → Prop
  | .trap _ _ _ => True
  | .park w => w.translate = none
  | .wait _ _ => False

/-- A meaning that ends within the frame, and stops as register instructions do. -/
structure Framed (ds : List Code) (floats : Bool) {α : Type} (a : Act α) : Prop where
  ok : ∀ s x t, a s = .ok (x, t) → RegFrame ds floats s t
  stop : ∀ s e, a s = .error e → RegStop e

theorem Framed.pure {α : Type} (x : α) : Framed ds floats (Pure.pure x : Act α) := by
  refine ⟨fun s y t h => ?_, fun s e h => by cases h⟩
  cases h
  exact .refl s

theorem Framed.bind {α β : Type} {a : Act α} {f : α → Act β} (ha : Framed ds floats a) (hf : ∀ x, Framed ds floats (f x)) :
    Framed ds floats (a >>= f) := by
  refine ⟨fun s y t h => ?_, fun s e h => ?_⟩
  · obtain ⟨x, u, h1, h2⟩ := Act.bind_ok.1 h
    exact (ha.ok s x u h1).trans ((hf x).ok u y t h2)
  · simp only [Bind.bind, StateT.bind, Except.bind] at h
    split at h
    · cases h
      exact ha.stop s _ ‹_›
    · exact (hf _).stop _ e h

/-- A check of the state. -/
theorem Framed.reads {α : Type} {a : Act α} (h : ∀ s x t, a s = .ok (x, t) → t = s) (hs : ∀ s e, a s = .error e → RegStop e) :
    Framed ds floats a :=
  ⟨fun s x t ht => by rw [h s x t ht]; exact .refl s, hs⟩

theorem Framed.me : Framed ds floats Act.me := .reads (fun s x t h => by cases h; rfl) (fun s e h => by cases h)

theorem Framed.state : Framed ds floats Act.state := .reads (fun s x t h => by cases h; rfl) (fun s e h => by cases h)

theorem Framed.trap {α : Type} (c : Cause) (v v2 : DWord) : Framed ds floats (Act.trap c v v2 : Act α) :=
  ⟨fun _ _ _ h => (by cases h), fun _ _ h => (by cases h; trivial)⟩

theorem Framed.trapIf (b : Bool) (c : Cause) (v v2 : DWord) : Framed ds floats (Act.trapIf b c v v2) := by
  unfold Act.trapIf
  split
  · exact .trap c v v2
  · exact .pure ()

theorem Framed.parkIf {b : Bool} {w : Wait} (h : w.translate = none) : Framed ds floats (Act.parkIf b w) := by
  unfold Act.parkIf
  split
  · exact ⟨fun s x t h => (by cases h), fun s e he => (by cases he; exact h)⟩
  · exact .pure ()

theorem Framed.rd (code : Code) : Framed ds floats (rd code) := by
  refine ⟨fun s x t h => .take (rd_ok.1 h), fun s e h => ?_⟩
  unfold Machine.rd at h
  split at h <;> cases h
  rfl

theorem Framed.rdp (code : Code) : Framed ds floats (rdp code) :=
  .reads (fun s x t h => by cases h; rfl) (fun s e h => by cases h)

theorem checkPorts_stop {codes : List Code} {s : State} {e : Stop} (h : checkPorts codes s = .error e) : RegStop e := by
  unfold checkPorts at h
  repeat' split at h
  all_goals cases h
  all_goals trivial

theorem checkSources_stop {srcs : List Src} {s : State} {e : Stop} (h : checkSources srcs s = .error e) : RegStop e := by
  unfold checkSources at h
  simp only at h
  repeat' split at h
  all_goals cases h
  · trivial
  · rfl

theorem checkDests_stop {dsts : List Dst} {s : State} {e : Stop} (h : checkDests dsts s = .error e) : RegStop e := by
  unfold checkDests at h
  split at h <;> cases h
  rfl

theorem Framed.check (srcs : List Src) (dsts : List Dst := []) : Framed ds floats (check srcs dsts) :=
  .bind (.reads (fun _ _ _ h => (checkPorts_ok h).1) fun _ _ => checkPorts_stop) fun _ =>
    .bind (.reads (fun _ _ _ h => (checkSources_ok h).1) fun _ _ => checkSources_stop) fun _ =>
      .reads (fun _ _ _ h => (checkDests_ok h).1) fun _ _ => checkDests_stop

theorem Framed.wr {code : Code} (v : Val) (h : code ∈ ds) : Framed ds floats (wr code v) := by
  refine ⟨fun s x t hw => ?_, fun s e he => ?_⟩
  · obtain ⟨-, -, rfl⟩ := wr_ok.1 hw
    exact .put v h
  · unfold Machine.wr at he
    repeat' split at he
    all_goals cases he
    · rfl
    · trivial

theorem Framed.wrp {code : Code} (v : Val2) (h : code ∈ ds) (h' : code + 1 ∈ ds) : Framed ds floats (wrp code v) :=
  .bind (.wr _ h) fun _ => .wr _ h'

theorem Framed.raiseClean (p : Bool) (fl : FlagBits) : Framed ds true (raiseClean p fl) := by
  unfold Machine.raiseClean
  split
  · exact .pure ()
  · refine ⟨fun s x t h => ?_, fun s e h => ?_⟩ <;> unfold raise at h <;> split at h <;> cases h
    · exact .addFlags s fl
    · trivial

theorem Framed.oweRegs {code : Code} {v : Val} {n : Nat} {i : Instr} (h : code ∈ ds) :
    Framed ds floats (oweRegs code [v] n i) := by
  refine ⟨fun s x t ht => ?_, fun s e he => ?_⟩
  · unfold Machine.oweRegs at ht
    split at ht <;> cases ht
    have marked : SlotFrame ds floats s.me (s.me.markEmpty code.toNat 1) := by
      simp only [Slot.markEmpty]
      split
      · exact .refl _
      · exact .setReg _ h
    exact RegFrame.trans (.setMe (marked.owed _)) (.of_sameSlots ⟨rfl, rfl, fun p => by cases p <;> rfl⟩)
  · unfold Machine.oweRegs at he
    split at he <;> cases he
    rfl

end
section
variable {floats : Bool} {f : RForm}

theorem Framed.unary (op : Word → Word) : Framed [f.d] floats (unary f op) :=
  .bind (.check _ _) fun _ => .bind (.rd _) fun _ => .wr _ (by simp)

theorem Framed.binary (op : Word → Word → Word) : Framed [f.d] floats (binary f op) :=
  .bind (.check _ _) fun _ => .bind (.rd _) fun _ => .bind (.rd _) fun _ => .wr _ (by simp)

theorem Framed.ternary (op : Word → Word → Word → Word) : Framed [f.d] floats (ternary f op) :=
  .bind (.check _ _) fun _ => .bind (.rd _) fun _ => .bind (.rd _) fun _ => .bind (.rd _) fun _ => .wr _ (by simp)

theorem Framed.immediate {f : IForm} (op : Word → Word → Word) : Framed [f.d] floats (immediate f op) :=
  .bind (.check _ _) fun _ => .bind (.rd _) fun _ => .wr _ (by simp)

theorem Framed.binaryPair (op : DWord → DWord → DWord) : Framed [f.d, f.d + 1] floats (binaryPair f op) :=
  .bind (.check _ _) fun _ => .bind (.rdp _) fun _ => .bind (.rdp _) fun _ => .wrp _ (by simp) (by simp)

theorem Framed.comparePair (op : DWord → DWord → Bool) : Framed [f.d] floats (comparePair f op) :=
  .bind (.check _ _) fun _ => .bind (.rdp _) fun _ => .bind (.rdp _) fun _ => .wr _ (by simp)

theorem Framed.shiftPair (op : DWord → Word → DWord) : Framed [f.d, f.d + 1] floats (shiftPair f op) :=
  .bind (.check _ _) fun _ => .bind (.rdp _) fun _ => .bind (.rd _) fun _ => .wrp _ (by simp) (by simp)

theorem Framed.divide (op : Word → Word → Word) : Framed [f.d] floats (divide f op) :=
  .bind (.check _ _) fun _ => .bind (.rd _) fun _ => .bind (.rd _) fun _ => .oweRegs (by simp)

theorem Framed.float1 (op : Nat → Nat → Nat × FlagBits) : Framed [f.d] true (float1 f op) :=
  .bind (.check _ _) fun _ => .bind .me fun _ => .bind (.rd _) fun _ => .bind (.raiseClean _ _) fun _ => .wr _ (by simp)

theorem Framed.float2 (op : Nat → Nat → Nat → Nat × FlagBits) : Framed [f.d] true (float2 f op) :=
  .bind (.check _ _) fun _ => .bind .me fun _ => .bind (.rd _) fun _ => .bind (.rd _) fun _ => .bind (.raiseClean _ _) fun _ =>
    .wr _ (by simp)

theorem Framed.float3 (op : Nat → Nat → Nat → Nat → Nat × FlagBits) : Framed [f.d] true (float3 f op) :=
  .bind (.check _ _) fun _ => .bind .me fun _ => .bind (.rd _) fun _ => .bind (.rd _) fun _ => .bind (.rd _) fun _ =>
    .bind (.raiseClean _ _) fun _ => .wr _ (by simp)

theorem Framed.double1 (op : Nat → Nat → Nat × FlagBits) : Framed [f.d, f.d + 1] true (double1 f op) :=
  .bind (.check _ _) fun _ => .bind .me fun _ => .bind (.rdp _) fun _ => .bind (.raiseClean _ _) fun _ =>
    .wrp _ (by simp) (by simp)

theorem Framed.double2 (op : Nat → Nat → Nat → Nat × FlagBits) : Framed [f.d, f.d + 1] true (double2 f op) :=
  .bind (.check _ _) fun _ => .bind .me fun _ => .bind (.rdp _) fun _ => .bind (.rdp _) fun _ => .bind (.raiseClean _ _) fun _ =>
    .wrp _ (by simp) (by simp)

theorem Framed.double3 (op : Nat → Nat → Nat → Nat → Nat × FlagBits) : Framed [f.d, f.d + 1] true (double3 f op) :=
  .bind (.check _ _) fun _ => .bind .me fun _ => .bind (.rdp _) fun _ => .bind (.rdp _) fun _ => .bind (.rdp _) fun _ =>
    .bind (.raiseClean _ _) fun _ => .wrp _ (by simp) (by simp)

theorem Framed.doubleTest2 (op : Nat → Nat → Nat × FlagBits) : Framed [f.d, f.d + 1] true (doubleTest2 f op) :=
  .bind (.check _ _) fun _ => .bind (.rdp _) fun _ => .bind (.rdp _) fun _ => .bind (.raiseClean _ _) fun _ => .wr _ (by simp)

theorem Framed.doubleTest1 (op : Nat → Nat) : Framed [f.d, f.d + 1] true (doubleTest1 f op) :=
  .bind (.check _ _) fun _ => .bind (.rdp _) fun _ => .wr _ (by simp)

theorem Framed.converted {wide : Bool} (p : Bool) (r : DWord × FlagBits) :
    Framed [f.d, f.d + 1] true (writeConverted f wide p r) := by
  refine .bind (.raiseClean _ _) fun _ => ?_
  split
  · exact .wrp _ (by simp) (by simp)
  · exact .wr _ (by simp)

theorem Framed.convert (dst src : Nat) : Framed [f.d, f.d + 1] true (convert dst src f) := by
  refine .bind (.check _ _) fun _ => .bind .me fun _ => ?_
  extract_lets ending
  have framed : ∀ a, Framed [f.d, f.d + 1] true (ending a) := fun a =>
    .converted a.poison (fcvt dst src (roundMode _ f.rnd) a.w)
  split
  · exact .bind (.rdp _) framed
  · exact .bind (.rd _) fun _ => .bind (.pure _) framed

theorem Framed.readCsr {ds : List Code} (n : Nat) : Framed ds floats (readCsr n) := by
  refine ⟨fun s x t h => ?_, fun s e h => ?_⟩
  · unfold Machine.readCsr at h
    simp only at h
    repeat' split at h
    all_goals cases h
    · exact .setMe ⟨⟨_, _, _, _, _, _, rfl⟩, fun _ => rfl, fun _ _ => rfl⟩
    · exact .setMe ⟨⟨_, _, _, _, _, _, rfl⟩, fun _ => rfl, fun _ _ => rfl⟩
    · exact .refl s
    · exact .refl s
  · unfold Machine.readCsr at h
    simp only at h
    repeat' split at h
    all_goals cases h

theorem Framed.csrr (g : IForm) : Framed [g.d] floats (csrOp g none) := by
  unfold csrOp
  refine .bind .me fun _ => .bind (.trapIf _ _ _ _) fun _ => .bind (.trapIf _ _ _ _) fun _ => .bind (.check _ _) fun _ =>
    .bind .state fun _ => .bind (.parkIf rfl) fun _ => .bind (.readCsr _) fun _ => ?_
  exact .bind (.pure ()) fun _ => .wr _ (List.mem_singleton_self _)

end

/-! ## The instructions -/

/-- The instruction runs a meaning that stays within the frame. -/
def RunsFramed (i : Instr) (ds : List Code) (s : State) : Prop :=
  ∃ a : Act Word, Framed ds (floats i) a ∧ exec i s = issueTo i a s

section
variable {i : Instr} {ds : List Code} {s : State}

theorem runsFramed_of_issue {a : Act Unit} (ha : Framed ds (floats i) a) (h : exec i s = issue i a s) : RunsFramed i ds s :=
  ⟨_, .bind ha fun _ => .pure _, h⟩

theorem floats_fp32 {fn : Nat} {f : RForm} (h : fp32 i = some (fn, f)) : floats i = true := by
  simp only [floats, h, Option.isSome_some, Bool.true_or]

theorem floats_fp64 {fn : Nat} {f : RForm} (h : fp64 i = some (fn, f)) : floats i = true := by
  simp only [floats, h, Option.isSome_some, Bool.true_or, Bool.or_true]

theorem fp32_framed {fn : Nat} {f : RForm} (h : fp32 i = some (fn, f)) (s : State) : RunsFramed i [f.d] s := by
  suffices shape : ∃ a, Framed [f.d] true a ∧ exec i s = issue i a s by
    obtain ⟨a, ha, he⟩ := shape
    exact runsFramed_of_issue (by rw [floats_fp32 h]; exact ha) he
  unfold fp32 at h
  split at h <;> cases h
  case h_4 => exact ⟨_, .float3 _, rfl⟩
  case h_6 | h_9 | h_10 | h_14 => exact ⟨_, .float1 _, rfl⟩
  all_goals exact ⟨_, .float2 _, rfl⟩

theorem fp64_framed {fn : Nat} {f : RForm} (h : fp64 i = some (fn, f)) (s : State) : RunsFramed i [f.d, f.d + 1] s := by
  suffices shape : ∃ a, Framed [f.d, f.d + 1] true a ∧ exec i s = issue i a s by
    obtain ⟨a, ha, he⟩ := shape
    exact runsFramed_of_issue (by rw [floats_fp64 h]; exact ha) he
  unfold fp64 at h
  split at h <;> cases h
  case h_4 => exact ⟨_, .double3 _, rfl⟩
  case h_7 | h_8 => exact ⟨_, .double1 _, rfl⟩
  case h_9 | h_10 | h_11 => exact ⟨_, .doubleTest2 _, rfl⟩
  case h_12 => exact ⟨_, .doubleTest1 _, rfl⟩
  all_goals exact ⟨_, .double2 _, rfl⟩

theorem branchOf_framed {f : BForm} {taken : Word → Word → Bool} (h : branchOf i = some (f, taken)) (s : State) :
    RunsFramed i [] s :=
  ⟨branch f taken, .bind (.check _ _) fun _ => .bind .me fun _ => .bind (.rd _) fun _ => .bind (.rd _) fun _ =>
    .bind (.trapIf _ _ _ _) fun _ => .bind (.trapIf _ _ _ _) fun _ => .pure _, exec_branchOf h s⟩

theorem immediateOf_framed {f : IForm} {op : Word → Word → Word} (h : immediateOf i = some (f, op)) (s : State) :
    RunsFramed i [f.d] s := by
  unfold immediateOf at h
  split at h <;> cases h
  all_goals exact runsFramed_of_issue (.immediate _) rfl

/-- The instructions of registers alone that no table of operations lists. -/
def otherWrites (i : Instr) : Option (List Code) :=
  match i with
  | .addwi f => some [f.d, f.d + 1]
  | .movi f => some [f.d]
  | .fcvt _ f => some [f.d, f.d + 1]
  | .rem f | .remb f => some [f.d]
  | .fdivF64 f | .fsqrtF64 f => some [f.d, f.d + 1]
  | .jal f | .jalr f | .csrr f => some [f.d]
  | .trap _ | .brk _ | .nop _ | .yield _ => some []
  | _ => none

theorem otherWrites_framed (h : otherWrites i = some ds) (s : State) : RunsFramed i ds s := by
  have word (hi : exec i s = issue i emulatedWord s) : RunsFramed i ds s := runsFramed_of_issue (.trap _ _ _) hi
  unfold otherWrites at h
  split at h <;> cases h
  case h_1 f =>
    exact runsFramed_of_issue (.bind (.check _ _) fun _ => .bind (.rdp _) fun _ => .wrp _ (by simp) (by simp)) rfl
  case h_2 f => exact runsFramed_of_issue (.bind (.check _ _) fun _ => .wr _ (by simp)) rfl
  case h_3 fn f => exact runsFramed_of_issue (.convert _ _) (exec_fcvt fn f s)
  case h_4 | h_5 | h_6 | h_7 => exact word rfl
  case h_8 f =>
    exact ⟨_, .bind (.check _ _) fun _ => .bind .me fun _ => .bind (.wr _ (by simp)) fun _ => .pure _, rfl⟩
  case h_9 f =>
    exact ⟨_, .bind (.check _ _) fun _ => .bind .me fun _ => .bind (.rd _) fun _ => .bind (.trapIf _ _ _ _) fun _ =>
      .bind (.wr _ (by simp)) fun _ => .pure _, rfl⟩
  case h_10 f => exact runsFramed_of_issue (.csrr f) rfl
  case h_11 f => exact runsFramed_of_issue (.bind (.check _ _) fun _ => .bind (.rd _) fun _ => .trap _ _ _) rfl
  case h_12 f => exact runsFramed_of_issue (.trap _ _ _) rfl
  case h_13 f => exact runsFramed_of_issue (.pure ()) rfl
  case h_14 f =>
    have yields : Framed [] (floats (.yield f)) (Act.modify (fun s =>
        s.modSlot s.cur (fun sl => { sl with yielded := some (s.othersReady s.cur, s.cycle + 4) }))) := by
      refine ⟨fun s x t h => ?_, fun s e h => by cases h⟩
      cases h
      exact .setMe ⟨⟨_, _, _, _, _, _, rfl⟩, fun _ => rfl, fun _ _ => rfl⟩
    exact runsFramed_of_issue yields rfl

/-- Every instruction of registers alone stays within the frame of the registers that it writes. -/
theorem writesOf_framed (h : writesOf i = some ds) (s : State) : RunsFramed i ds s := by
  unfold writesOf at h
  simp only [Option.orElse_eq_some, Option.map_eq_some_iff] at h
  rcases h with ⟨x, hx, rfl⟩ | ⟨-, ⟨x, hx, rfl⟩ | ⟨-, ⟨x, hx, rfl⟩ | ⟨-, ⟨x, hx, rfl⟩ | ⟨-, ⟨x, hx, rfl⟩ | ⟨-, ⟨x, hx, rfl⟩
    | ⟨-, ⟨x, hx, rfl⟩ | ⟨-, ⟨x, hx, rfl⟩ | ⟨-, ⟨x, hx, rfl⟩ | ⟨-, ⟨x, hx, rfl⟩ | ⟨-, ⟨x, hx, rfl⟩ | ⟨-, h⟩⟩⟩⟩⟩⟩⟩⟩⟩⟩⟩
  · exact runsFramed_of_issue (.binary _) (exec_binaryOf hx s)
  · exact runsFramed_of_issue (.unary _) (exec_unaryOf hx s)
  · exact runsFramed_of_issue (.ternary _) (exec_ternaryOf hx s)
  · exact runsFramed_of_issue (.binaryPair _) (exec_pairOf hx s)
  · exact runsFramed_of_issue (.comparePair _) (exec_pairTestOf hx s)
  · exact runsFramed_of_issue (.shiftPair _) (exec_pairShiftOf hx s)
  · exact immediateOf_framed hx s
  · exact runsFramed_of_issue (.divide _) (exec_quotientOf hx s)
  · exact fp32_framed hx s
  · exact fp64_framed hx s
  · exact branchOf_framed hx s
  · exact otherWrites_framed h s

end

/-! ## From the meaning to the step -/

theorem State.abortLaunch_slot (s : State) (lid : Nat) (v : EndValues) (k : Nat) : (s.abortLaunch lid v).slot k = s.slot k := by
  rw [State.slot, (State.abortLaunch_same s lid v).2.1]
  rfl

theorem Slot.dropHostOp_retired (sl : Slot) : sl.dropHostOp.retired = sl.retired := by
  unfold Slot.dropHostOp
  split <;> rfl

theorem State.leaveFor_retired (s : State) (k : Nat) (c : Cause) : ((s.leaveFor k c).slot k).retired = (s.slot k).retired := by
  rw [State.leaveFor_slot]
  split <;> rfl

/-- A trap retires nothing. -/
theorem State.takeTrap_retired (s : State) (k : Nat) (c : Cause) (v v2 w : DWord) :
    ((s.takeTrap k c v v2 w).slot k).retired = (s.slot k).retired := by
  unfold State.takeTrap
  simp only
  repeat' split
  all_goals
    simp only [State.abortLaunch_slot, State.slot_setSlot_same, Slot.enterHandler, Slot.dropHostOp_retired, Slot.saveTrap,
      State.leaveFor_retired]

theorem State.abortLaunch_cur (s : State) (lid : Nat) (v : EndValues) : (s.abortLaunch lid v).cur = s.cur :=
  (State.abortLaunch_same s lid v).1

theorem State.takeTrap_cur (s : State) (k : Nat) (c : Cause) (v v2 w : DWord) : (s.takeTrap k c v v2 w).cur = s.cur := by
  unfold State.takeTrap
  simp only
  repeat' split
  all_goals simp only [State.abortLaunch_cur, State.setSlot_cur, State.leaveFor_cur]

section
variable (s : State) (k : Nat) {w : Wait} (h : w.translate = none)
include h

/-- A park that asks for no translation changes no memory, and nothing of a slot but its park. -/
theorem State.parkSlot_memAt (p : Place) : (s.parkSlot k w).memAt p = s.memAt p := by
  unfold State.parkSlot
  simp only [h]
  repeat' split
  all_goals cases p <;> rfl

theorem State.parkSlot_slots :
    ∃ p, (s.parkSlot k w).slots = (s.modSlot k (fun sl => { sl with parked := some p, granted := false })).slots := by
  unfold State.parkSlot
  simp only [h]
  repeat' split
  all_goals exact ⟨_, rfl⟩

theorem State.parkSlot_cur : (s.parkSlot k w).cur = s.cur := by
  unfold State.parkSlot
  simp only [h]
  repeat' split
  all_goals rfl

theorem State.parkSlot_retired : ((s.parkSlot k w).slot k).retired = (s.slot k).retired := by
  obtain ⟨p, hp⟩ := s.parkSlot_slots k h
  rw [State.slot, hp]
  exact (congrArg Slot.retired (State.slot_setSlot_same s k _)).trans rfl

theorem State.parkSlot_slot_ne {j : Nat} (hj : j ≠ k) : (s.parkSlot k w).slot j = s.slot j := by
  obtain ⟨p, hp⟩ := s.parkSlot_slots k h
  rw [State.slot, hp]
  exact State.slot_setSlot_ne s _ hj

end

theorem Kept.refl (a : Slot) : Kept a a := by
  unfold Kept
  simp only [and_self]

theorem SlotFrame.kept {ds : List Code} {floats : Bool} {a b : Slot} (h : SlotFrame ds floats a b) : Kept a b := by
  obtain ⟨⟨_, _, _, _, _, _, rfl⟩, -, -⟩ := h
  exact Kept.refl a

end Sys2Proof.Machine

namespace Sys2Proof.Statements

open Sys2Proof.Machine

/-- A step that has not retired changes no memory and no other slot, and no count of retired instructions. -/
def Stopped (s t : State) : Prop :=
  t.cur = s.cur ∧ (∀ p, t.memAt p = s.memAt p) ∧ (∀ k, k ≠ s.cur → t.slot k = s.slot k) ∧ (t.slot s.cur).retired = s.me.retired

theorem stopped_trap (s : State) (c : Cause) (v v2 iw : DWord) : Stopped s ((s.takeTrap s.cur c v v2 iw).issued s.cur) := by
  refine ⟨?_, fun p => ?_, fun k hk => ?_, ?_⟩
  · exact s.takeTrap_cur s.cur c v v2 iw
  · rw [State.issued_memAt, State.takeTrap_memAt]
  · rw [State.issued_slot, State.takeTrap_slot_ne s c v v2 iw hk]
  · rw [State.issued_slot, State.takeTrap_retired]
    rfl

theorem stopped_of_regStop {i : Instr} {s : State} {e : Stop} (h : RegStop e) : Stopped s (s.stop i e) := by
  cases e with
  | trap c v v2 => exact stopped_trap s c v v2 _
  | park w =>
    refine ⟨?_, fun p => ?_, fun k hk => ?_, ?_⟩
    · exact State.parkSlot_cur _ _ h
    · exact (State.parkSlot_memAt _ _ h p).trans (by cases p <;> rfl)
    · exact (State.parkSlot_slot_ne _ _ h hk).trans (State.slot_setSlot_ne s _ hk)
    · exact (State.parkSlot_retired _ _ h).trans ((congrArg Slot.retired (State.me_setMe s _)).trans rfl)
  | wait w s' => exact absurd h id

/-- A meaning within the frame, and then the retirement of its instruction. -/
theorem retired_frame {ds : List Code} {fl : Bool} {s u : State} (here next : Word) (h : RegFrame ds fl s u) :
    let t := u.retireAt s.cur here next
    (∀ p, t.memAt p = s.memAt p) ∧ (∀ k, k ≠ s.cur → t.slot k = s.slot k)
      ∧ Kept s.me t.me ∧ (fl = false → t.me.fflags = s.me.fflags)
      ∧ ∀ j, (∀ d ∈ ds, regIndex s.me.mode d.toNat ≠ j) → t.me.regAt j = s.me.regAt j := by
  obtain ⟨hcur, hmem, hothers, hslot⟩ := h
  have mine : (u.retireAt s.cur here next).me = u.me.retire here next := by
    rw [State.me_eq u, hcur, ← State.retireAt_slot, State.me_eq]
    exact congrArg (State.slot _) hcur
  refine ⟨fun p => ?_, fun k hk => ?_, ?_⟩
  · rw [State.retireAt_memAt, hmem]
  · rw [State.retireAt_slot_ne _ _ _ hk, hothers k hk]
  · rw [mine]
    exact ⟨hslot.kept, hslot.flags, hslot.regs⟩

/-- Settles O8: each instruction's meaning stays within the frame of the registers that it writes, retiring keeps the frame, and
a step that stops retires nothing. -/
theorem registerInstructionFrame : Obligations.RegisterInstructionFrame := by
  unfold Obligations.RegisterInstructionFrame
  intro i ds s t h ht
  obtain ⟨a, ha, he⟩ := writesOf_framed h s
  rw [he] at ht
  have stopped (hs : Stopped s t) : (∀ p, t.memAt p = s.memAt p) ∧ (∀ k, k ≠ s.cur → t.slot k = s.slot k)
      ∧ t.me.retired = s.me.retired := by
    obtain ⟨hcur, hmem, hothers, hretired⟩ := hs
    exact ⟨hmem, hothers, by rw [State.me_eq t, hcur, hretired]⟩
  rcases issueTo_cases i a s with ⟨next, u, -, hu, hi⟩ | ⟨e, -, hu, hi⟩ | ⟨-, hi⟩ <;> rw [hi] at ht <;> cases ht
  · obtain ⟨hmem, hothers, hkept⟩ := retired_frame s.me.pc next (ha.ok s next u hu)
    exact ⟨hmem, hothers, fun _ _ => hkept⟩
  · obtain ⟨hmem, hothers, hretired⟩ := stopped (stopped_of_regStop (ha.stop s e hu))
    exact ⟨hmem, hothers, fun hne => absurd hretired hne⟩
  · obtain ⟨hmem, hothers, hretired⟩ := stopped (stopped_trap s .illegal 0 0 _)
    exact ⟨hmem, hothers, fun hne => absurd hretired hne⟩

end Sys2Proof.Statements
end

section
/-! SUPPORT. Taking a trap (R351): the registers do not all stay as they were. -/

namespace Sys2Proof.Statements

open Sys2Proof.Machine Sys2Proof.Tests

/-- A task at an atomic on host memory that the host has aborted (R90): g5 is the destination, and empty since the request was
sent. -/
def atomicAborted : State :=
  { alone { task with
      regs := [(5, { full := false })]
      hostOp := some { id := 1, va := 0x10000, piece := { place := .host, off := 0x10000, len := 4 }, kind := .swap
                       operand := [1, 0, 0, 0], compare := [], poison := false, ord := 0, scope := 3, index := 5, regs := 1
                       answer := some (.abort, [], false) } } with
    launches := [(0, launch)] }

theorem atomicAborted_handled : Handled atomicAborted .page launch 0x8000 0x100 := by
  unfold Handled
  decide

/-- The trap ends the atomic, and so fills its destination (R90). -/
theorem atomicAborted_trap_fills :
    ((atomicAborted.takeTrap atomicAborted.cur .page 0x10000 0x104 0).me.regAt 5).full = true
      ∧ (atomicAborted.me.regAt 5).full = false := by
  decide

/-- Refutes O20: the registers are not all as they were. A slot whose atomic on host memory has failed traps PAGE with the
atomic still open; taking the trap ends it, and the destination, which was empty, is full in the handler. -/
theorem not_trapEntry : ¬ Obligations.TrapEntry := by
  unfold Obligations.TrapEntry
  rintro ⟨entry, -⟩
  obtain ⟨mode, -, -, -, -, -, -, -, -, -, -, -, regs, -⟩ :=
    entry atomicAborted launch 0x8000 0x100 .page 0x10000 0x104 0 atomicAborted_handled (by decide) (by decide)
  obtain ⟨filled, empty⟩ := atomicAborted_trap_fills
  rw [Slot.regAt, regs, ← Slot.regAt, empty] at filled
  exact Bool.false_ne_true filled

end Sys2Proof.Statements
end

section
/-! SUPPORT. What the translation of an address leaves of the state when it succeeds for the running slot (R99 to R109). -/

namespace Sys2Proof.Machine

open Sys2Proof.Statements

/-- A translation's own traces: the TLB, what it takes, and the free choices drawn. -/
def Walked (s t : State) : Prop := ∃ tlb lag draws, t = { s with tlb := tlb, lag := lag, draws := draws }

theorem Walked.refl (s : State) : Walked s s := ⟨_, _, _, rfl⟩

theorem Walked.trans {s t u : State} (h : Walked s t) (g : Walked t u) : Walked s u := by
  obtain ⟨_, _, _, rfl⟩ := h
  obtain ⟨_, _, _, rfl⟩ := g
  exact ⟨_, _, _, rfl⟩

theorem Walked.addLag (s : State) (t : Translator) (n : Nat) : Walked s (s.addLag t n) := by
  unfold State.addLag
  split
  · exact ⟨_, _, _, rfl⟩
  · exact .refl s

theorem Walked.fillTlb (s : State) (e : TlbEntry) : Walked s (s.fillTlb e) := by
  unfold State.fillTlb
  simp only
  repeat' split
  all_goals exact ⟨_, _, _, rfl⟩

theorem Walked.fillMicro (s : State) (t : Translator) (e : TlbEntry) : Walked s (s.fillMicro t e) := by
  unfold State.fillMicro
  split
  · split
    · exact .refl s
    · exact .fillTlb s _
  · exact .refl s

/-- A translation found for the running slot: its traces, and a failure that was brought for another page is forgotten. -/
def Translated (s t : State) : Prop :=
  ∃ u, Walked s u ∧ (t = u ∨ t = u.setMe { u.me with atsFail := none })

/-- A translation ends with an address. -/
def Translation.found : Translation → Prop
  | .dram _ | .host _ => True
  | _ => False

theorem Walked.translated {s t : State} (h : Walked s t) : Translated s t := ⟨t, h, .inl rfl⟩

theorem Walked.then {s t u : State} (h : Walked s t) (g : Translated t u) : Translated s u := by
  obtain ⟨v, hv, hu⟩ := g
  exact ⟨v, h.trans hv, hu⟩

section
variable {s : State} {t : Translator} {va : Nat} {write : Bool}

theorem translateBy_found {e : TlbEntry} {r : Translation} {s1 : State} (h : s.translateBy e t va write = (r, s1))
    (hr : r.found) : s1 = s := by
  unfold State.translateBy at h
  split at h
  · split at h <;> cases h
    · exact hr.elim
    · rfl
  · split at h
    · cases h
      exact hr.elim
    by_cases permits : (if write then e.w else e.r) = true
    · rw [if_pos permits] at h
      cases h
      rfl
    · rw [if_neg permits] at h
      repeat' split at h
      all_goals cases h
      all_goals exact hr.elim

theorem takeFailure_none {s1 : State} (hu : t.user = .slot s.cur) (h : s.takeFailure t va = (none, s1)) : Translated s s1 := by
  unfold State.takeFailure at h
  simp only [hu] at h
  split at h
  · split at h <;> cases h
    exact ⟨s, .refl s, .inr rfl⟩
  · cases h
    exact (Walked.refl s).translated

theorem takeOnce_slot {k : Nat} {a : Option Nat} {s1 : State} (hu : t.user = .slot k) (h : s.takeOnce t va write = (a, s1)) :
    s1 = s := by
  unfold State.takeOnce at h
  simp only [hu] at h
  cases h
  rfl

theorem hostTranslate_found {r : Translation} {s1 : State} (hu : t.user = .slot s.cur)
    (h : s.hostTranslate t va write = (r, s1)) (hr : r.found) : Translated s s1 := by
  unfold State.hostTranslate at h
  split at h
  · cases h
    exact hr.elim
  split at h
  · cases h
    exact hr.elim
  split at h
  · cases h
    exact hr.elim
  · rename_i u hfail
    split at h <;> cases h
    · rename_i once
      rw [takeOnce_slot hu once]
      exact takeFailure_none hu hfail
    · exact hr.elim

theorem translate_found {r : Translation} {s1 : State} (hu : t.user = .slot s.cur)
    (h : s.translate t va write = (r, s1)) (hr : r.found) : Translated s s1 := by
  unfold State.translate at h
  split at h
  · cases h
    exact hr.elim
  split at h
  · rename_i e _
    rw [translateBy_found h hr]
    split
    · exact (Walked.refl s).translated
    · exact ((Walked.fillMicro s t e).trans (.addLag _ _ _)).translated
  · have lag := Walked.addLag s t (s.walkCycles t va)
    simp only at h
    split at h
    · cases h
      exact hr.elim
    · refine lag.then (hostTranslate_found ?_ h hr)
      rw [hu, State.addLag]
      split <;> rfl
    · rw [translateBy_found h hr]
      exact ((lag.trans (.fillTlb _ _)).trans (.fillMicro _ _ _)).translated

end

/-- An address that the running slot has translated. -/
theorem translateMe_ok {va : Nat} {write : Bool} {s s1 : State} {x : Place × Nat} (h : translateMe va write s = .ok (x, s1)) :
    Translated s s1 := by
  unfold translateMe translateAs at h
  split at h
  · cases h
  · split at h <;> cases h
    · rename_i hf
      exact translate_found rfl hf trivial
    · rename_i hf
      exact translate_found rfl hf trivial

/-! ## What a translation leaves alone -/

section
variable {s t : State}

theorem Walked.me (h : Walked s t) : t.me = s.me := by
  obtain ⟨_, _, _, rfl⟩ := h
  rfl

/-- The slot that translates keeps everything but a failure of another page. -/
theorem Translated.me (h : Translated s t) : ∃ f, t.me = { s.me with atsFail := f } := by
  obtain ⟨u, hu, rfl | rfl⟩ := h
  · exact ⟨_, hu.me⟩
  · exact ⟨none, by rw [State.me_setMe, hu.me]⟩

theorem Translated.refl (s : State) : Translated s s := (Walked.refl s).translated

theorem Translated.cur (h : Translated s t) : t.cur = s.cur := by
  obtain ⟨u, ⟨_, _, _, rfl⟩, rfl | rfl⟩ := h <;> rfl

theorem Translated.regIndex (h : Translated s t) (code : Nat) : regIndex t.me.mode code = regIndex s.me.mode code := by
  obtain ⟨f, hf⟩ := h.me
  rw [hf]

theorem Slot.fullFrom_atsFail (sl : Slot) (f : Option (Nat × Cause × Nat)) (code n : Nat) :
    ({ sl with atsFail := f } : Slot).fullFrom code n = sl.fullFrom code n := by
  induction n generalizing code with
  | zero => rfl
  | succ n ih => rw [Slot.fullFrom, ih]; rfl

theorem Translated.fullFrom (h : Translated s t) (code n : Nat) : t.me.fullFrom code n = s.me.fullFrom code n := by
  obtain ⟨f, hf⟩ := h.me
  rw [hf, Slot.fullFrom_atsFail]

end

theorem windowTarget_ok {addr n : Nat} {write : Bool} {s s1 : State} {ps : List Piece}
    (h : windowTarget addr n write s = .ok (ps, s1)) : s1 = s := by
  unfold windowTarget at h
  repeat' split at h
  all_goals cases h
  rfl

theorem globalTarget_ok {addr n : Nat} {write : Bool} {s s1 : State} {ps : List Piece}
    (h : globalTarget addr n write s = .ok (ps, s1)) : Translated s s1 := by
  rw [globalTarget, Act.state_bind] at h
  split at h
  · rw [windowTarget_ok h]
    exact .refl s
  · obtain ⟨x, u, hx, hu⟩ := Act.bind_ok.1 h
    cases hu
    exact translateMe_ok hx

/-- The place of an access, found for the running slot. -/
theorem target_ok {code : Code} {space addr n : Nat} {write : Bool} {s s1 : State} {ps : List Piece}
    (h : target code space addr n write s = .ok (ps, s1)) : Translated s s1 := by
  rw [target, Act.state_bind] at h
  split at h
  · exact globalTarget_ok h
  all_goals
    obtain ⟨_, u, hx, hu⟩ := Act.bind_ok.1 h
    obtain ⟨-, rfl⟩ := Act.trapIf_ok.1 hx
  · cases hu
    exact .refl _
  · cases hu
    exact .refl _
  · obtain ⟨_, v, hp, hv⟩ := Act.bind_ok.1 hu
    obtain ⟨-, rfl⟩ := Act.parkIf_ok.1 hp
    cases hv
    exact .refl _

end Sys2Proof.Machine
end

section
/-! SUPPORT. LD, LDS and ST up to the access that they leave in flight (R82 to R85). -/

namespace Sys2Proof.Machine

open Sys2Proof.Statements

theorem addressOf_aligned {f : MForm} {s : State} (h : Aligned s f) : addressOf f true s = .ok (addressIn s f, s) := by
  obtain ⟨clean, aligned⟩ := h
  rw [addressOf, Act.bind_rdp, Act.bind_trapIf_false clean]
  have whole : (true && addressIn s f % f.bytes != 0) = false := by rw [aligned]; rfl
  exact Act.bind_trapIf_false whole

theorem markEmpty_full {code : Code} {n : Nat} {s : State} (h : s.me.fullFrom code.toNat n = true) :
    markEmpty code n s = .ok ((), s.setMe (s.me.markEmpty code.toNat n)) :=
  if_pos h

/-- The registers of an access are g registers. -/
theorem dataOk_general {f : MForm} (h : f.dataOk .general = true) : f.d.toNat ≤ 63 := by
  unfold MForm.dataOk at h
  split at h
  · exact of_decide_eq_true h
  split at h
  · exact (Code.isPair_iff.1 h).1
  split at h
  · exact (of_decide_eq_true (Bool.and_eq_true_iff.1 h).1 : f.d.toNat ≤ 60).trans (by decide)
  · simp only [Bool.and_eq_true, decide_eq_true_eq] at h
    omega

theorem waitLoad_target {i : Instr} {f : MForm} {sign : Bool} {s s1 : State} {ps : List Piece} (hd : f.d.toNat ≤ 63)
    (hr : Ready i [f.srcA] [{ code := f.d, n := f.regs }] s) (ha : Aligned s f)
    (ht : target f.d f.space.toNat (addressIn s f) f.bytes false s = .ok (ps, s1)) :
    waitLoad f sign s = .ok ((), (awaiting s1 f.d f.regs).sendLoad {
      id := s1.nextId, kind := .load, ord := f.ord, scope := cappedScope f.space.toNat f.scope.toNat, pieces := ps
      evict := f.evict, rdc := f.rdc, dest := .regs (regIndex s.me.mode f.d.toNat) f.regs f.bytes sign }) := by
  have full : s1.me.fullFrom f.d.toNat f.regs = true := by
    rw [(target_ok ht).fullFrom]
    exact ready_dst_full (d := { code := f.d, n := f.regs }) hd hr
  rw [waitLoad, Act.bind_check hr, Act.bind_run (addressOf_aligned ha), Act.bind_run ht, Act.me_bind,
    Act.bind_run (markEmpty_full full), ← (target_ok ht).regIndex]
  rfl

theorem exec_loadOf {i : Instr} {f : MForm} {sign : Bool} (h : loadOf i = some (f, sign)) (s : State) :
    exec i s = issue i (waitLoad f sign) s := by
  unfold loadOf at h
  split at h <;> cases h
  all_goals rfl

theorem loadOf_wf {i : Instr} {f : MForm} {sign : Bool} (h : loadOf i = some (f, sign)) (hw : i.wf = true) :
    f.d.toNat ≤ 63 := by
  unfold loadOf at h
  have load (f : MForm) (hf : f.wfLd = true) : f.d.toNat ≤ 63 := by
    simp only [MForm.wfLd, Bool.and_eq_true] at hf
    exact dataOk_general hf.1.2
  split at h <;> cases h
  · exact load f hw
  · exact load f (Bool.and_eq_true_iff.1 hw).1

end Sys2Proof.Machine

namespace Sys2Proof.Statements

open Sys2Proof.Machine

/-- Settles O22: once its address is checked and its place found, a load marks D empty and a store takes its bytes, and the
access is sent. -/
theorem loadsAndStoresIssue : Obligations.LoadsAndStoresIssue := by
  unfold Obligations.LoadsAndStoresIssue
  refine ⟨fun i f sign s s1 ps h hw hr ha ht => ?_, fun f s s1 s2 vs ps hr hv ha ht => ?_⟩
  · rw [exec_loadOf h]
    exact issue_ok hr.1 (waitLoad_target (loadOf_wf h hw) hr ha ht)
  · refine issue_ok hr.1 ?_
    rw [Act.bind_check hr, Act.bind_run hv, Act.bind_run (addressOf_aligned ha), Act.bind_run ht]
    rfl

end Sys2Proof.Statements
end

section
/-! SUPPORT. A step that leaves a memory out of canonical form: what a launch's checkpoint holds of its translator windows is
no memory that the state's form speaks of, and comes back with the launch (R361 to R363). -/

namespace Sys2Proof.Statements

open Sys2Proof.Machine Sys2Proof.Tests

/-- A window that lists a byte equal to what an unlisted one reads as. -/
def paddedWindow : Mem := { cells := [(0, 0)] }

/-- A launch that is restored from its checkpoint, which holds the window of a translator run. -/
def restoredLaunch : Launch :=
  { launch with dies := [], saved := true, restoring := true, held := { whole := true, windows := [(0, paddedWindow)] } }

/-- The launch's restore is due. -/
def restoring : State :=
  { State.reset with
    closing := true
    agenda := [{ at_ := 0, step := .contextRestore, subject := [0] }]
    launches := [(0, restoredLaunch)]
    packets := [{ id := 0, queue := 0, idx := 0, wid := 0, pasid := none, prio := 0, bytes := [], type := 2, taken := 0 }] }

theorem restoring_canonical : restoring.canonical := by
  unfold State.canonical
  decide

theorem step_restoring_windows : (match step restoring with
    | .next t => t.windows
    | _ => []) = [(0, paddedWindow)] := by
  rfl

/-- Refutes O6: the restore of a launch from its checkpoint brings back a window that was held out of canonical form. -/
theorem not_stepKeepsMemoryForm : ¬ Obligations.StepKeepsMemoryForm := by
  unfold Obligations.StepKeepsMemoryForm
  intro keeps
  have windows := step_restoring_windows
  cases ht : step restoring with
  | next t =>
    rw [ht] at windows
    have listed : paddedWindow ∈ t.memories := by
      simp [State.memories, show t.windows = [(0, paddedWindow)] from windows]
    exact absurd (keeps restoring t restoring_canonical ht paddedWindow listed) (by decide)
  | fault r =>
    rw [ht] at windows
    cases windows
  | refused r =>
    rw [ht] at windows
    cases windows

end Sys2Proof.Statements
end

section
/-! SUPPORT. What the memory system leaves of the state (R86, R91 to R93, R113): it moves bytes between L1s and memories, logs and
counts what it writes at home, and wakes those who wait for a word, and it changes nothing else. -/

namespace Sys2Proof.Machine

/-! ## The frame -/

/-- A state in which the memory system has moved bytes. -/
structure MemMoves (s t : State) : Prop where
  fields : ∃ cores dram hostMem scratch arena windows versions undo commit agenda draws packets, t = { s with
    cores := cores, dram := dram, hostMem := hostMem, scratch := scratch, arena := arena, windows := windows
    versions := versions, undo := undo, commit := commit, agenda := agenda, draws := draws, packets := packets }
  cores : ∀ c, ∃ lines stored, t.core c = { s.core c with lines := lines, stored := stored }
  packets : ∃ f : Packet → Option (Option Nat), t.packets = s.packets.map (fun p => { p with verdict := f p })
  agenda : ∀ d ∈ s.agenda, d ∈ t.agenda

theorem keepVerdicts (ps : List Packet) : ps.map (fun p => { p with verdict := p.verdict }) = ps := List.map_id ps

theorem MemMoves.refl (s : State) : MemMoves s s :=
  ⟨⟨_, _, _, _, _, _, _, _, _, _, _, _, rfl⟩, fun _ => ⟨_, _, rfl⟩, ⟨Packet.verdict, (keepVerdicts _).symm⟩, fun _ h => h⟩

theorem MemMoves.trans {s t u : State} (h : MemMoves s t) (g : MemMoves t u) : MemMoves s u := by
  refine ⟨?_, fun c => ?_, ?_, fun d hd => g.agenda d (h.agenda d hd)⟩
  · obtain ⟨_, _, _, _, _, _, _, _, _, _, _, _, hu⟩ := g.fields
    obtain ⟨_, _, _, _, _, _, _, _, _, _, _, _, ht⟩ := h.fields
    rw [hu, ht]
    exact ⟨_, _, _, _, _, _, _, _, _, _, _, _, rfl⟩
  · obtain ⟨_, _, hu⟩ := g.cores c
    obtain ⟨_, _, ht⟩ := h.cores c
    rw [hu, ht]
    exact ⟨_, _, rfl⟩
  · obtain ⟨_, hu⟩ := g.packets
    obtain ⟨_, ht⟩ := h.packets
    rw [hu, ht, List.map_map]
    exact ⟨_, rfl⟩

theorem MemMoves.foldl {α : Type} {f : State → α → State} (hf : ∀ s a, MemMoves s (f s a)) (l : List α) (s : State) :
    MemMoves s (l.foldl f s) := by
  induction l generalizing s with
  | nil => exact .refl s
  | cons a l ih => exact (hf s a).trans (ih _)

/-- Nothing but the fields that are no core, packet or event has changed. -/
theorem MemMoves.of_fields {s t : State} (h : ∃ dram hostMem scratch arena windows versions undo commit draws, t = { s with
    dram := dram, hostMem := hostMem, scratch := scratch, arena := arena, windows := windows
    versions := versions, undo := undo, commit := commit, draws := draws }) : MemMoves s t := by
  obtain ⟨_, _, _, _, _, _, _, _, _, rfl⟩ := h
  exact ⟨⟨_, _, _, _, _, _, _, _, _, _, _, _, rfl⟩, fun _ => ⟨_, _, rfl⟩, ⟨Packet.verdict, (keepVerdicts _).symm⟩,
    fun _ h => h⟩

theorem mem_agendaInsert {d e : Due} {l : List Due} : d ∈ agendaInsert e l ↔ d = e ∨ d ∈ l := by
  induction l with
  | nil => simp [agendaInsert]
  | cons x l ih =>
    unfold agendaInsert
    split
    · simp
    · simp only [List.mem_cons, ih]
      exact or_left_comm

theorem MemMoves.schedule (s : State) (due : Nat) (i : Instr) (l : List Nat) : MemMoves s (s.schedule due i l) :=
  ⟨⟨_, _, _, _, _, _, _, _, _, _, _, _, rfl⟩, fun _ => ⟨_, _, rfl⟩, ⟨Packet.verdict, (keepVerdicts _).symm⟩,
    fun _ h => mem_agendaInsert.2 (.inr h)⟩

/-- The lines of an L1, and who has stored to them, change. -/
theorem MemMoves.modCore {s : State} {l1 : Nat} {f : Core → Core}
    (h : ∃ lines stored, f (s.core l1) = { s.core l1 with lines := lines, stored := stored }) : MemMoves s (s.modCore l1 f) := by
  refine ⟨⟨_, _, _, _, _, _, _, _, _, _, _, _, rfl⟩, fun c => ?_, ⟨Packet.verdict, (keepVerdicts _).symm⟩, fun _ h => h⟩
  rw [State.modCore, State.core_setCore]
  split
  · rename_i hc
    rw [hc]
    exact h
  · exact ⟨_, _, rfl⟩

theorem MemMoves.setMemAt (s : State) (p : Place) (m : Mem) : MemMoves s (s.setMemAt p m) := by
  refine .of_fields ?_
  cases p <;> exact ⟨_, _, _, _, _, _, _, _, _, rfl⟩

/-! ## Waking those who wait -/

theorem MemMoves.setVerdict (s : State) (id : Nat) (v : Option (Option Nat)) :
    MemMoves s (s.modPacket id (fun p => { p with verdict := v })) := by
  refine ⟨⟨_, _, _, _, _, _, _, _, _, _, _, _, rfl⟩, fun _ => ⟨_, _, rfl⟩, ⟨fun x => if x.id = id then v else x.verdict, ?_⟩,
    fun _ h => h⟩
  refine List.map_congr_left fun x _ => ?_
  by_cases h : x.id = id
  · simp only [if_pos h]
  · simp only [if_neg h]

theorem MemMoves.judge (s : State) (p : Packet) : MemMoves s (s.judge p) := by
  unfold State.judge
  simp only
  repeat' split
  · exact .refl s
  · exact .schedule _ _ _ _
  · exact .refl s
  · exact (MemMoves.setVerdict _ _ _).trans (.schedule _ _ _ _)

theorem MemMoves.signalWritten (s : State) (p : Piece) : MemMoves s (s.signalWritten p) := by
  unfold State.signalWritten
  split
  · exact .foldl .judge _ s
  · exact .refl s

theorem MemMoves.wakeWaiters (s : State) (p : Piece) (who : Nat → Bool) : MemMoves s (s.wakeWaiters p who) := by
  refine .foldl (fun u e => ?_) _ s
  repeat' split
  · exact .schedule _ _ _ _
  · exact .refl u
  · exact .refl u

theorem MemMoves.wakeWords (s : State) (p : Piece) : MemMoves s (s.wakeWords p) :=
  (MemMoves.signalWritten s p).trans (.wakeWaiters _ _ _)

/-! ## Bytes at home -/

theorem MemMoves.logWrite (s : State) (w : Nat) (p : Place) (a : Nat) : MemMoves s (s.logWrite w p a) := by
  unfold State.logWrite
  split
  · simp only
    split
    · exact .of_fields ⟨_, _, _, _, _, _, _, _, _, rfl⟩
    · exact .refl s
  · split
    · exact .of_fields ⟨_, _, _, _, _, _, _, _, _, rfl⟩
    · exact .refl s
  · exact .refl s

theorem MemMoves.logRange (s : State) (w : Nat) (p : Place) (a n : Nat) : MemMoves s (s.logRange w p a n) := by
  unfold State.logRange
  split
  · exact .refl s
  split
  · exact .foldl (fun _ _ => .logWrite _ _ _ _) _ s
  · exact .foldl (fun _ _ => .logWrite _ _ _ _) _ s
  · exact .refl s

theorem MemMoves.homeByte (s : State) (w : Nat) (p : Place) (a : Nat) (v : Byte) (poison : Bool) :
    MemMoves s (s.homeByte w p a v poison) :=
  (MemMoves.logWrite s w p a).trans (.setMemAt _ _ _)

theorem MemMoves.homePoison (s : State) (w : Nat) (p : Place) (a : Nat) : MemMoves s (s.homePoison w p a) :=
  (MemMoves.logRange s w p _ 64).trans (.setMemAt _ _ _)

theorem MemMoves.raiseVersion (s : State) (p : Place) (a : Nat) : MemMoves s (s.raiseVersion p a) := by
  unfold State.raiseVersion
  repeat' split
  · exact .of_fields ⟨_, _, _, _, _, _, _, _, _, rfl⟩
  · exact .refl s
  · exact .refl s

/-! ## Lines -/

theorem MemMoves.setLine (s : State) (l1 key : Nat) (x : Line) : MemMoves s (s.setLine l1 key x) := .modCore ⟨_, _, rfl⟩

theorem MemMoves.dropLine (s : State) (l1 key : Nat) : MemMoves s (s.dropLine l1 key) := .modCore ⟨_, _, rfl⟩

theorem MemMoves.noteLine (s : State) (k l1 key : Nat) : MemMoves s (s.noteLine k l1 key) := .modCore ⟨_, _, rfl⟩

/-- Sectors poisoned at home, and then bytes written there. -/
theorem MemMoves.putBytes {w base : Nat} {p : Place} (sectors : List Nat) (bytes : Assoc LineByte) (goes : Nat × LineByte → Bool)
    (s : State) : MemMoves s (bytes.foldl (fun u e => if goes e then u.homeByte w p (base + e.1) e.2.val e.2.poison else u)
      (sectors.foldl (fun u i => u.homePoison w p (base + 64 * i)) s)) := by
  refine MemMoves.trans (.foldl (fun _ _ => .homePoison _ _ _ _) _ s) (.foldl (fun u e => ?_) _ _)
  split
  · exact .homeByte _ _ _ _ _ _
  · exact .refl u

theorem MemMoves.putHome (s : State) (l1 key : Nat) : MemMoves s (s.putHome l1 key) := by
  unfold State.putHome
  simp only
  repeat' split
  · exact .refl s
  · exact ((MemMoves.putBytes _ _ _ s).trans (.setLine _ _ _ _)).trans ((MemMoves.raiseVersion _ _ _).trans (.wakeWords _ _))
  · exact (MemMoves.putBytes _ _ _ s).trans (.setLine _ _ _ _)

theorem MemMoves.forgetClean (s : State) (l1 key : Nat) : MemMoves s (s.forgetClean l1 key) := by
  unfold State.forgetClean
  split
  · exact .refl s
  · exact .setLine _ _ _ _

theorem MemMoves.invalidateOthers (s : State) (keep : List Nat) (key : Nat) : MemMoves s (s.invalidateOthers keep key) := by
  have discarded := MemMoves.foldl (fun u c => (MemMoves.putHome u c key).trans (.dropLine _ c key))
    ((s.holders key).filter (fun c => !keep.contains c)) s
  unfold State.invalidateOthers
  simp only
  split
  · exact discarded.trans (.foldl (fun _ _ => .forgetClean _ _ _) _ _)
  · exact discarded

theorem MemMoves.writeBack (s : State) (l1 key : Nat) : MemMoves s (s.writeBack l1 key) := by
  unfold State.writeBack
  repeat' split
  · exact .refl s
  · exact (MemMoves.invalidateOthers _ _ _).trans (.putHome _ _ _)
  · exact .refl s

theorem MemMoves.evictLine (s : State) (l1 key : Nat) : MemMoves s (s.evictLine l1 key) :=
  (MemMoves.writeBack s l1 key).trans (.dropLine _ _ _)

theorem MemMoves.cleanL1 (s : State) (l1 : Nat) : MemMoves s (s.cleanL1 l1) := .foldl (fun _ _ => .writeBack _ _ _) _ s

theorem MemMoves.makeRoom (s : State) (l1 key : Nat) : MemMoves s (s.makeRoom l1 key) := by
  unfold State.makeRoom
  simp only
  repeat' split
  · exact .refl s
  · exact .evictLine _ _ _
  · exact .refl s

theorem MemMoves.ensureLine (s : State) (l1 key : Nat) (evict rdc : BitVec 3) : MemMoves s (s.ensureLine l1 key evict rdc) := by
  unfold State.ensureLine
  split
  · exact .setLine _ _ _ _
  · exact (MemMoves.makeRoom _ _ _).trans (.setLine _ _ _ _)

theorem MemMoves.draw (s : State) : MemMoves s { s with draws := s.draws + 1 } := .of_fields ⟨_, _, _, _, _, _, _, _, _, rfl⟩

theorem MemMoves.fillLine (s : State) (l1 key : Nat) : MemMoves s (s.fillLine l1 key) := by
  have snoop : ∀ (u : State) (c : Nat), MemMoves u (if Config.snoop u.draws then
      (({ u with draws := u.draws + 1 } : State).invalidateOthers [l1, c] key).putHome c key
      else { u with draws := u.draws + 1 }) := by
    intro u c
    split
    · exact (MemMoves.draw u).trans ((MemMoves.invalidateOthers _ _ _).trans (.putHome _ _ _))
    · exact .draw u
  have snooped := MemMoves.foldl snoop
    ((s.holders key).filter (fun c => c != l1 && (s.line c key).any (fun x => x.isDirty && x.rdc == 0))) s
  unfold State.fillLine
  simp only
  split
  · exact snooped
  · exact snooped.trans (.setLine _ _ _ _)

theorem MemMoves.countRead (s : State) (l1 key : Nat) : MemMoves s (s.countRead l1 key) := by
  unfold State.countRead
  repeat' split
  · exact .refl s
  · exact .refl s
  · exact .dropLine _ _ _
  · exact .setLine _ _ _ _

theorem MemMoves.markLine (s : State) (k l1 key : Nat) : MemMoves s (s.markLine k l1 key) := by
  unfold State.markLine
  split
  · exact .refl s
  · exact (MemMoves.setLine _ _ _ _).trans (.noteLine _ _ _ _)

theorem MemMoves.passOn (s : State) (k l1 key : Nat) : MemMoves s (s.passOn k l1 key) :=
  .foldl (fun _ _ => .foldl (fun _ _ => .markLine _ _ _ _) _ _) _ s

theorem MemMoves.observe (s : State) (k : Nat) (acquire : Bool) (p : Piece) : MemMoves s (s.observe k acquire p) := by
  unfold State.observe
  simp only
  repeat' split
  · exact (MemMoves.markLine _ _ _ _).trans (.passOn _ _ _ _)
  · exact .passOn _ _ _ _
  · exact .markLine _ _ _ _
  · exact .refl s

theorem MemMoves.cleanFor (s : State) (k : Nat) : MemMoves s (s.cleanFor k) :=
  .foldl (fun _ _ => .foldl (fun _ _ => .writeBack _ _ _) _ _) _ s

/-! ## Reading and writing -/

theorem MemMoves.l1Read (s : State) (core : Nat) (p : Place) (a n : Nat) (evict rdc : BitVec 3) :
    MemMoves s (s.l1Read core p a n evict rdc).2 := by
  unfold State.l1Read
  simp only
  have line := MemMoves.ensureLine s (s.l1Of core a) (lineKey p a) evict rdc
  repeat' split
  · exact line
  · exact line.trans (.fillLine _ _ _)
  · exact line

theorem MemMoves.l1Write (s : State) (core : Nat) (p : Place) (a : Nat) (bs : List Byte) (poison : Bool) (evict rdc : BitVec 3) :
    MemMoves s (s.l1Write core p a bs poison evict rdc) := by
  unfold State.l1Write
  simp only
  have line := MemMoves.ensureLine s (s.l1Of core a) (lineKey p a) evict rdc
  repeat' split
  · exact line
  · exact line.trans (.setLine _ _ _ _)
  · exact line.trans (.setLine _ _ _ _)

theorem MemMoves.readPiece (s : State) (core : Nat) (x : Piece) (evict rdc : BitVec 3) :
    MemMoves s (s.readPiece core x evict rdc).2 := by
  unfold State.readPiece
  split
  · exact .l1Read _ _ _ _ _ _ _
  · exact .refl s

theorem MemMoves.readPieces (s : State) (core : Nat) (evict rdc : BitVec 3) (ps : List Piece) :
    MemMoves s (s.readPieces core evict rdc ps).2 := by
  induction ps generalizing s with
  | nil => exact .refl s
  | cons p ps ih => exact (MemMoves.readPiece s core p evict rdc).trans (ih _)

theorem MemMoves.homeWrite (s : State) (w : Nat) (p : Place) (a : Nat) (bs : List Byte) (poison : Bool) :
    MemMoves s (s.homeWrite w p a bs poison) := by
  unfold State.homeWrite
  simp only
  have discarded : MemMoves s (if p.cached then s.invalidateOthers [] (lineKey p a) else s) := by
    split
    · exact .invalidateOthers _ _ _
    · exact .refl s
  have written := fun (u : State) (m : Mem) => (MemMoves.setMemAt u p m).trans
    ((MemMoves.raiseVersion _ p a).trans (.wakeWords _ { place := p, off := a, len := bs.length }))
  cases poison with
  | true => exact discarded.trans ((MemMoves.logRange _ _ _ _ _).trans (written _ _))
  | false => exact discarded.trans ((MemMoves.logRange _ _ _ _ _).trans (written _ _))

theorem MemMoves.writePiece (s : State) (core : Nat) (x : Piece) (bs : List Byte) (poison : Bool) (evict rdc : BitVec 3) :
    MemMoves s (s.writePiece core x bs poison evict rdc) := by
  unfold State.writePiece
  split
  · exact .l1Write _ _ _ _ _ _ _ _
  · exact (MemMoves.setMemAt _ _ _).trans (.raiseVersion _ _ _)

theorem MemMoves.writePieces (core : Nat) (poison : Bool) (evict rdc : BitVec 3) (ps : List Piece) (s : State) (bs : List Byte) :
    MemMoves s (s.writePieces core poison evict rdc ps bs) := by
  induction ps generalizing s bs with
  | nil => exact .refl s
  | cons p ps ih => exact (MemMoves.writePiece s core p _ poison evict rdc).trans (ih _ _)

theorem MemMoves.performNibble (s : State) (w : Nat) (p : Piece) (data : List Byte) (poison : Bool) :
    MemMoves s (s.performNibble w p data poison) := by
  unfold State.performNibble
  simp only
  refine MemMoves.trans ?_ (.homeWrite _ _ _ _ _ _)
  split
  · exact .invalidateOthers _ _ _
  · exact .refl s

theorem MemMoves.pieceHome (s : State) (core : Nat) (p : Piece) : MemMoves s (s.pieceHome core p) := by
  have others := MemMoves.invalidateOthers s [s.l1Of core p.off] (lineKey p.place p.off)
  unfold State.pieceHome
  simp only
  repeat' split
  · exact .refl s
  · exact others
  · exact (others.trans ((MemMoves.putBytes _ _ _ _).trans (.setLine _ _ _ _))).trans
      ((MemMoves.raiseVersion _ _ _).trans (.wakeWords _ _))
  · exact others.trans ((MemMoves.putBytes _ _ _ _).trans (.setLine _ _ _ _))

theorem MemMoves.atomAt (s : State) (w : Nat) (p : Piece) (k : AtomKind) (operand compare : List Byte) (poison : Bool) :
    MemMoves s (s.atomAt w p k operand compare poison).2 := by
  unfold State.atomAt
  simp only
  have discarded : MemMoves s (if p.place.cached then s.invalidateOthers [] (lineKey p.place p.off) else s) := by
    split
    · exact .invalidateOthers _ _ _
    · exact .refl s
  split
  · exact discarded.trans (.homeWrite _ _ _ _ _ _)
  · exact discarded

theorem MemMoves.synchronise (s : State) (k : Nat) (acquire wrote : Bool) (p : Piece) :
    MemMoves s (s.synchronise k acquire wrote p) := by
  unfold State.synchronise
  simp only
  repeat' split
  · exact (MemMoves.passOn _ _ _ _).trans (.noteLine _ _ _ _)
  · exact .noteLine _ _ _ _
  · exact .passOn _ _ _ _
  · exact .refl s
  · exact .refl s

end Sys2Proof.Machine
end

section
/-! SUPPORT. What it leaves of the state to perform accesses of a slot (R86, R115): bytes move, and accesses of the slot are
marked performed or removed, by their identities; the order of the others stays. -/

namespace Sys2Proof.Machine

/-! ## The frame -/

def idsOf (accs : List Acc) : List Nat := accs.map Acc.id

/-- What stands before the first entry of an identity. -/
def idsBefore (ids : List Nat) (i : Nat) : List Nat := ids.takeWhile (fun j => j != i)

def accOf (accs : List Acc) (i : Nat) : Option Acc := accs.find? (fun x => x.id == i)

/-- Accesses of which those with some identities have been changed or removed. -/
structure AccsMove (P : Nat → Prop) (a b : List Acc) : Prop where
  ids : ∃ r : Nat → Bool, idsOf b = (idsOf a).filter r
  kept : ∀ i, ¬ P i → accOf b i = accOf a i

/-- A state in which accesses of a slot with some identities have been performed. -/
structure Performs (k : Nat) (P : Nat → Prop) (s t : State) : Prop where
  fields : ∃ slots cores dram hostMem scratch arena windows versions undo commit agenda draws packets, t = { s with
    slots := slots, cores := cores, dram := dram, hostMem := hostMem, scratch := scratch, arena := arena, windows := windows
    versions := versions, undo := undo, commit := commit, agenda := agenda, draws := draws, packets := packets }
  cores : ∀ c, ∃ lines stored, t.core c = { s.core c with lines := lines, stored := stored }
  packets : ∃ f : Packet → Option (Option Nat), t.packets = s.packets.map (fun p => { p with verdict := f p })
  agenda : ∀ d ∈ s.agenda, d ∈ t.agenda
  others : ∀ j, j ≠ k → t.slot j = s.slot j
  mine : ∃ a, t.slot k = { s.slot k with accs := a } ∧ AccsMove P (s.slot k).accs a

section
variable {k : Nat} {P Q : Nat → Prop}

theorem AccsMove.refl (a : List Acc) : AccsMove P a a := ⟨⟨fun _ => true, by simp⟩, fun _ _ => rfl⟩

theorem AccsMove.trans {a b c : List Acc} (h : AccsMove P a b) (g : AccsMove P b c) : AccsMove P a c := by
  refine ⟨?_, fun i hi => (g.kept i hi).trans (h.kept i hi)⟩
  obtain ⟨r, hr⟩ := h.ids
  obtain ⟨q, hq⟩ := g.ids
  rw [hq, hr, List.filter_filter]
  exact ⟨_, rfl⟩

theorem AccsMove.mono {a b : List Acc} (h : AccsMove P a b) (hPQ : ∀ i, P i → Q i) : AccsMove Q a b :=
  ⟨h.ids, fun i hi => h.kept i (fun hp => hi (hPQ i hp))⟩

theorem Performs.trans {s t u : State} (h : Performs k P s t) (g : Performs k P t u) : Performs k P s u := by
  refine ⟨?_, fun c => ?_, ?_, fun d hd => g.agenda d (h.agenda d hd), fun j hj => (g.others j hj).trans (h.others j hj), ?_⟩
  · obtain ⟨_, _, _, _, _, _, _, _, _, _, _, _, _, hu⟩ := g.fields
    obtain ⟨_, _, _, _, _, _, _, _, _, _, _, _, _, ht⟩ := h.fields
    rw [hu, ht]
    exact ⟨_, _, _, _, _, _, _, _, _, _, _, _, _, rfl⟩
  · obtain ⟨_, _, hu⟩ := g.cores c
    obtain ⟨_, _, ht⟩ := h.cores c
    rw [hu, ht]
    exact ⟨_, _, rfl⟩
  · obtain ⟨_, hu⟩ := g.packets
    obtain ⟨_, ht⟩ := h.packets
    rw [hu, ht, List.map_map]
    exact ⟨_, rfl⟩
  · obtain ⟨b, hb, mb⟩ := g.mine
    obtain ⟨a, ha, ma⟩ := h.mine
    rw [ha] at hb mb
    exact ⟨b, hb, ma.trans mb⟩

theorem Performs.mono {s t : State} (h : Performs k P s t) (hPQ : ∀ i, P i → Q i) : Performs k Q s t := by
  obtain ⟨fields, cores, packets, agenda, others, a, ha, ma⟩ := h
  exact ⟨fields, cores, packets, agenda, others, a, ha, ma.mono hPQ⟩

theorem MemMoves.performs {s t : State} (h : MemMoves s t) : Performs k P s t := by
  obtain ⟨⟨_, _, _, _, _, _, _, _, _, _, _, _, ht⟩, cores, packets, agenda⟩ := h
  have slots : ∀ j, t.slot j = s.slot j := fun j => by
    rw [ht]
    rfl
  exact ⟨⟨_, _, _, _, _, _, _, _, _, _, _, _, _, ht⟩, cores, packets, agenda, fun j _ => slots j,
    _, slots k, .refl _⟩

theorem Performs.refl (s : State) : Performs k P s s := (MemMoves.refl s).performs

theorem Performs.foldl {α : Type} {f : State → α → State} (hf : ∀ s a, Performs k P s (f s a)) (l : List α) (s : State) :
    Performs k P s (l.foldl f s) := by
  induction l generalizing s with
  | nil => exact .refl s
  | cons a l ih => exact (hf s a).trans (ih _)

theorem Performs.setAccs {s : State} {a : List Acc} (h : AccsMove P (s.slot k).accs a) :
    Performs k P s (s.setSlot k { s.slot k with accs := a }) :=
  ⟨⟨_, _, _, _, _, _, _, _, _, _, _, _, _, rfl⟩, fun _ => ⟨_, _, rfl⟩, ⟨Packet.verdict, (keepVerdicts _).symm⟩,
    fun _ h => h, fun _ hj => State.slot_setSlot_ne s _ hj, a, State.slot_setSlot_same s k _, h⟩

theorem Performs.modAcc {s : State} {id : Nat} {f : Acc → Acc} (hf : ∀ x, (f x).id = x.id) :
    Performs k (· = id) s (s.modAcc k id f) := by
  refine .setAccs ⟨⟨fun _ => true, ?_⟩, fun i hi => ?_⟩
  · rw [List.filter_true, idsOf, List.map_map]
    refine List.map_congr_left fun x _ => ?_
    simp only [Function.comp]
    split
    · exact hf x
    · rfl
  · unfold accOf
    induction (s.slot k).accs with
    | nil => rfl
    | cons x l ih =>
      simp only [List.map_cons, List.find?_cons]
      by_cases hx : x.id = id
      · have other : ¬ (x.id == i) = true := by simpa [hx] using Ne.symm hi
        simp only [if_pos hx, hf, other, ih]
      · simp only [if_neg hx, ih]

theorem Performs.removeAcc (s : State) (id : Nat) : Performs k (· = id) s (s.removeAcc k id) := by
  refine .setAccs ⟨⟨fun j => j != id, ?_⟩, fun i hi => ?_⟩
  · rw [idsOf, idsOf, List.filter_map]
    rfl
  · unfold accOf
    rw [List.find?_filter]
    refine congrArg (fun p => (s.slot k).accs.find? p) (funext fun x => ?_)
    by_cases hx : x.id = i
    · simp [hx, hi]
    · simp [hx]

/-! ## Performing one access -/

theorem Performs.performLoad (s : State) (x : Acc) : Performs k (· = x.id) s (s.performLoad k x) := by
  unfold State.performLoad
  simp only
  have got : Performs k (· = x.id) _ ((s.readPieces (coreOfSlot k) x.evict x.rdc x.pieces).2.modAcc k x.id
      (fun y => { y with got := some (s.readPieces (coreOfSlot k) x.evict x.rdc x.pieces).1 })) := .modAcc fun _ => rfl
  have marked : Performs k (· = x.id) s ((x.pieces.filter (fun p => p.place.cached)).foldl
      (fun u p => u.observe k (acquires x.ord) p)
      ((s.readPieces (coreOfSlot k) x.evict x.rdc x.pieces).2.modAcc k x.id
        (fun y => { y with got := some (s.readPieces (coreOfSlot k) x.evict x.rdc x.pieces).1 }))) :=
    ((MemMoves.readPieces s _ _ _ _).performs.trans got).trans
      (MemMoves.foldl (fun _ _ => .observe _ _ _ _) _ _).performs
  repeat' split
  · exact .refl s
  · exact marked
  · exact marked.trans (MemMoves.countRead _ _ _).performs
  · exact marked

theorem Performs.performLocal (s : State) (x : Acc) : Performs k (· = x.id) s (s.performLocal k x) := by
  unfold State.performLocal
  simp only
  have entered := (MemMoves.writePieces (coreOfSlot k) x.poison x.evict x.rdc x.pieces s x.data).trans
    (.foldl (f := fun u p => (u.markLine k (u.l1Of (coreOfSlot k) p.off) (lineKey p.place p.off)).wakeWaiters p
      (fun c => (u.sharedL1s (coreOfSlot k)).contains c)) (fun _ _ => (MemMoves.markLine _ _ _ _).trans (.wakeWaiters _ _ _))
      (x.pieces.filter (fun p => p.place.cached)) _)
  repeat' split
  · exact .refl s
  · exact (MemMoves.foldl (fun _ _ => .performNibble _ _ _ _ _) _ s).performs.trans (.removeAcc _ _)
  · exact entered.performs.trans (.modAcc fun _ => rfl)
  · exact entered.performs.trans (.removeAcc _ _)

theorem Performs.performHome (s : State) (x : Acc) : Performs k (· = x.id) s (s.performHome k x) := by
  unfold State.performHome
  simp only
  split
  · exact (Performs.performLocal s x).trans ((MemMoves.foldl (fun _ _ => .pieceHome _ _ _) _ _).performs.trans (.removeAcc _ _))
  · exact .performLocal s x

theorem Performs.performAtomic (s : State) (x : Acc) : Performs k (· = x.id) s (s.performAtomic k x) := by
  unfold State.performAtomic
  split
  · exact ((MemMoves.atomAt _ _ _ _ _ _ _).trans (.synchronise _ _ _ _ _)).performs.trans (.modAcc fun _ => rfl)
  · exact .refl s

theorem Performs.perform (s : State) (x : Acc) : Performs k (· = x.id) s (s.perform k x) := by
  unfold State.perform
  split
  · exact .performLoad s x
  · exact .performAtomic s x
  · exact .refl s
  · exact .performLocal s x

/-! ## Performing what must come first -/

/-- A store that stands among some accesses, sent home as it now stands. -/
theorem Performs.sendHome (s : State) (xs : List Acc) : Performs k (· ∈ idsOf xs) s (s.sendHome k xs) := by
  induction xs generalizing s with
  | nil => exact .refl s
  | cons x xs ih =>
    refine Performs.trans ?_ ((ih _).mono fun i hi => List.mem_cons_of_mem _ hi)
    beta_reduce
    split
    · rename_i y hy
      have same : y.id = x.id := by simpa using List.find?_some hy
      split
      · refine (Performs.performHome s y).mono fun i hi => ?_
        rw [hi, same]
        exact List.mem_cons_self
      · exact .refl s
    · exact .refl s

theorem idsBefore_filter {ids : List Nat} {r : Nat → Bool} {j : Nat} (hr : r j = true) :
    idsBefore (ids.filter r) j = (idsBefore ids j).filter r := by
  induction ids with
  | nil => rfl
  | cons i ids ih =>
    unfold idsBefore at ih ⊢
    by_cases hij : i = j
    · subst hij
      simp [hr]
    · cases hi : r i <;> simp [hi, hij, ih]

/-- What stands before one that stands before another stands before that other. -/
theorem idsBefore_subset {ids : List Nat} {i j m : Nat} (hj : j ∈ idsBefore ids i) (hm : m ∈ idsBefore ids j) :
    m ∈ idsBefore ids i := by
  induction ids with
  | nil => exact hm
  | cons a ids ih =>
    unfold idsBefore at ih hj hm ⊢
    by_cases hai : a = i
    · simp [hai] at hj
    · by_cases haj : a = j
      · simp [haj] at hm
      · simp only [List.takeWhile_cons, bne_iff_ne, ne_eq, hai, haj, not_false_eq_true, if_true, List.mem_cons] at hj hm ⊢
        rcases hm with rfl | hm
        · exact .inl rfl
        · refine .inr (ih ?_ hm)
          exact hj.resolve_left (fun h => haj h.symm)

theorem takeWhile_ids (accs : List Acc) (i : Nat) : idsOf (accs.takeWhile (fun y => y.id != i)) = idsBefore (idsOf accs) i := by
  rw [idsOf, idsBefore, idsOf, List.takeWhile_map]
  rfl

theorem accOf_mem {accs : List Acc} {i : Nat} {x : Acc} (h : accOf accs i = some x) : x.id = i ∧ i ∈ idsOf accs := by
  have same : x.id = i := by simpa using List.find?_some h
  exact ⟨same, List.mem_map.2 ⟨x, List.mem_of_find?_eq_some h, same⟩⟩

/-- Before an access stand only those that stood before it: performing keeps the order. -/
theorem Performs.before {s t : State} (h : Performs k P s t) {j m : Nat} (hj : j ∈ idsOf (t.slot k).accs)
    (hm : m ∈ idsBefore (idsOf (t.slot k).accs) j) : m ∈ idsBefore (idsOf (s.slot k).accs) j := by
  obtain ⟨a, ha, ⟨r, hr⟩, -⟩ := h.mine
  rw [ha] at hj hm
  simp only [hr] at hj hm
  rw [idsBefore_filter (List.mem_filter.1 hj).2] at hm
  exact (List.mem_filter.1 hm).1

theorem Acc.failed_id (x : Acc) : x.failed.id = x.id := by
  unfold Acc.failed
  split <;> rfl

theorem not_mem_idsBefore (ids : List Nat) (i : Nat) : i ∉ idsBefore ids i := by
  intro h
  have := List.mem_takeWhile_imp h
  simp at this

/-- Performing one earlier access, once those before it have been. -/
def State.performAfter (k n : Nat) (s : State) (y : Acc) : State :=
  match (s.slot k).accs.find? (fun z => z.id == y.id) with
  | none => s
  | some y =>
    if y.done then s
    else
      let s := State.prepare k n y.failed s
      let s := if y.failed.ord == y.ord || s.casFails y then s else State.prepare k n y s
      s.perform k y

theorem prepare_succ (n : Nat) (x : Acc) (s : State) : State.prepare k (n + 1) x s =
    (let earlier := ((s.slot k).accs.takeWhile (fun y => y.id != x.id)).filter (fun y => y.before x)
    let t := earlier.foldl (State.performAfter k n) s
    if x.reaches then (t.sendHome k earlier).cleanFor k else t) := rfl

/-- What must come before an access is performed; it and those after it stay as they are. -/
def PreparesBefore (k n : Nat) : Prop :=
  ∀ (x : Acc) (s : State), Performs k (· ∈ idsBefore (idsOf (s.slot k).accs) x.id) s (State.prepare k n x s)

/-- The two preparations of an access that may fail touch nothing but what stands before it. -/
theorem PreparesBefore.twice {n : Nat} (ih : PreparesBefore k n) {s : State} {y : Acc} (c : State → Bool)
    (hy : accOf (s.slot k).accs y.id = some y) :
    Performs k (· ∈ idsBefore (idsOf (s.slot k).accs) y.id) s
      (if c (State.prepare k n y.failed s) then State.prepare k n y.failed s
        else State.prepare k n y (State.prepare k n y.failed s)) := by
  have first := ih y.failed s
  rw [Acc.failed_id] at first
  split
  · exact first
  · refine first.trans ((ih y _).mono fun m hm => first.before ?_ hm)
    obtain ⟨a, ha, -, kept⟩ := first.mine
    have still : accOf a y.id = some y := (kept y.id (not_mem_idsBefore _ _)).trans hy
    rw [ha]
    exact (accOf_mem still).2

theorem PreparesBefore.performAfter {n : Nat} (ih : PreparesBefore k n) {B : List Nat} {s0 s : State} {y : Acc} {i : Nat}
    (hB : B = idsBefore (idsOf (s0.slot k).accs) i) (h : Performs k (· ∈ B) s0 s) (hy : y.id ∈ B) :
    Performs k (· ∈ B) s (s.performAfter k n y) := by
  unfold State.performAfter
  split
  · exact .refl s
  · rename_i z hz
    obtain ⟨same, present⟩ := accOf_mem hz
    have found : accOf (s.slot k).accs z.id = some z := by rw [same]; exact hz
    split
    · exact .refl s
    · have prepared := ih.twice (fun u => z.failed.ord == z.ord || u.casFails z) found
      refine (prepared.mono fun m hm => ?_).trans ((Performs.perform _ z).mono fun m hm => ?_)
      · rw [same] at hm
        rw [hB] at hy ⊢
        exact idsBefore_subset hy (h.before present hm)
      · rw [hm, same]
        exact hy

theorem preparesBefore (n : Nat) : PreparesBefore k n := by
  induction n with
  | zero => exact fun x s => .refl s
  | succ n ih =>
    intro x s
    rw [prepare_succ]
    simp only
    generalize he : ((s.slot k).accs.takeWhile (fun y => y.id != x.id)).filter (fun y => y.before x) = earlier
    have within : ∀ y ∈ earlier, y.id ∈ idsBefore (idsOf (s.slot k).accs) x.id := fun y hy => by
      rw [← takeWhile_ids]
      rw [← he] at hy
      exact List.mem_map_of_mem (List.mem_filter.1 hy).1
    have performed : ∀ (ys : List Acc) (u : State), (∀ y ∈ ys, y.id ∈ idsBefore (idsOf (s.slot k).accs) x.id) →
        Performs k (· ∈ idsBefore (idsOf (s.slot k).accs) x.id) s u →
        Performs k (· ∈ idsBefore (idsOf (s.slot k).accs) x.id) s (ys.foldl (State.performAfter k n) u) := by
      intro ys
      induction ys with
      | nil => exact fun _ _ h => h
      | cons y ys ih' =>
        intro u hys h
        exact ih' _ (fun z hz => hys z (List.mem_cons_of_mem _ hz))
          (h.trans (ih.performAfter rfl h (hys y List.mem_cons_self)))
    have all := performed earlier s within (.refl s)
    split
    · refine all.trans (((Performs.sendHome _ earlier).mono fun m hm => ?_).trans (MemMoves.cleanFor _ _).performs)
      obtain ⟨y, hy, rfl⟩ := List.mem_map.1 hm
      exact within y hy
    · exact all

theorem Performs.forceBefore {s : State} {x : Acc} (hx : accOf (s.slot k).accs x.id = some x) :
    Performs k (· ∈ idsBefore (idsOf (s.slot k).accs) x.id) s (s.forceBefore k x) :=
  (preparesBefore _).twice (fun u => x.failed.ord == x.ord || u.casFails x) hx

/-- The access for whose sake others are performed is as it was. -/
theorem forceBefore_keeps {s : State} {x : Acc} (hx : accOf (s.slot k).accs x.id = some x) :
    ∃ a, (s.forceBefore k x).slot k = { s.slot k with accs := a } ∧ accOf a x.id = some x := by
  obtain ⟨a, ha, -, kept⟩ := (Performs.forceBefore hx).mine
  exact ⟨a, ha, (kept _ (not_mem_idsBefore _ _)).trans hx⟩

end

end Sys2Proof.Machine
end

section
/-! SUPPORT. Loads and atomics that land (R26, R84, R88): what was read goes to the registers, and the access is in flight no
more. -/

namespace Sys2Proof.Machine

open Sys2Proof.Statements

/-! ## Values landing in registers -/

theorem Slot.land_accs (sl : Slot) (index : Nat) (vs : List Val) : (sl.land index vs).accs = sl.accs := by
  induction vs generalizing sl index with
  | nil => rfl
  | cons v vs ih => rw [Slot.land, ih, Slot.setRegAt_accs]

/-- Registers below those written stay. -/
theorem Slot.land_regAt_lt (sl : Slot) {index j : Nat} (vs : List Val) (h : j < index) :
    (sl.land index vs).regAt j = sl.regAt j := by
  induction vs generalizing sl index with
  | nil => rfl
  | cons v vs ih => rw [Slot.land, ih _ (by omega), Slot.regAt_setRegAt, if_neg (by omega)]

/-- Each register takes its value; g0 takes none (R25). -/
theorem Slot.land_regAt (sl : Slot) {index j : Nat} (vs : List Val) (hj : j < vs.length) (h0 : index + j ≠ 0) :
    (sl.land index vs).regAt (index + j) = (vs.getD j {}).toReg := by
  induction vs generalizing sl index j with
  | nil => exact absurd hj (Nat.not_lt_zero _)
  | cons v vs ih =>
    rw [Slot.land]
    cases j with
    | zero =>
      simp only [Nat.add_zero] at h0 ⊢
      rw [Slot.land_regAt_lt _ _ (Nat.lt_succ_self _), Slot.regAt_setRegAt, if_pos ⟨rfl, h0⟩, List.getD_cons_zero]
    | succ j =>
      rw [show index + (j + 1) = index + 1 + j by omega, ih _ (Nat.lt_of_succ_lt_succ hj) (by omega), List.getD_cons_succ]

/-! ## An access that lands -/

section
variable {k : Nat} {s : State} {x : Acc}

theorem accOf_map_self {accs : List Acc} {i : Nat} {f : Acc → Acc} (hf : ∀ y, (f y).id = y.id) (h : accOf accs i = some x) :
    accOf (accs.map (fun y => if y.id = i then f y else y)) i = some (f x) := by
  unfold accOf at h ⊢
  induction accs with
  | nil => cases h
  | cons y accs ih =>
    simp only [List.map_cons, List.find?_cons] at h ⊢
    by_cases hy : y.id = i
    · have this_one : (y.id == i) = true := by simpa using hy
      have mapped : ((f y).id == i) = true := by rw [hf, this_one]
      simp only [if_pos hy, mapped]
      rw [this_one] at h
      rw [Option.some.inj h]
    · have other : (y.id == i) = false := by simpa using hy
      simp only [if_neg hy, other] at h ⊢
      exact ih h

theorem MemMoves.slot {t : State} (h : MemMoves s t) (j : Nat) : t.slot j = s.slot j := by
  obtain ⟨_, _, _, _, _, _, _, _, _, _, _, _, rfl⟩ := h.fields
  rfl

/-- A load that has been performed holds what it has read, now or before. -/
theorem performLoad_got (hx : accOf (s.slot k).accs x.id = some x) :
    let read := (s.readPieces (coreOfSlot k) x.evict x.rdc x.pieces).1
    ∃ a y, (s.performLoad k x).slot k = { s.slot k with accs := a } ∧ accOf a x.id = some y
      ∧ y.got = some (x.got.getD read) ∧ y.dest = x.dest := by
  intro read
  unfold State.performLoad
  split
  · rename_i hg
    obtain ⟨g, hg⟩ := Option.isSome_iff_exists.1 hg
    exact ⟨_, x, rfl, hx, by rw [hg]; rfl, rfl⟩
  · rename_i hg
    have none_yet : x.got = none := by simpa using hg
    let u := (s.readPieces (coreOfSlot k) x.evict x.rdc x.pieces).2
    have hu : u.slot k = s.slot k := (MemMoves.readPieces s _ _ _ _).slot k
    have slot : (u.modAcc k x.id (fun y => { y with got := some read })).slot k = { s.slot k with
        accs := (s.slot k).accs.map (fun y => if y.id = x.id then { y with got := some read } else y) } := by
      rw [State.modAcc, State.modSlot_eq, State.slot_setSlot_same, hu]
    have seen := MemMoves.foldl (fun v p => MemMoves.observe v k (acquires x.ord) p) (x.pieces.filter (fun p => p.place.cached))
      (u.modAcc k x.id (fun y => { y with got := some read }))
    refine ⟨_, { x with got := some read }, Eq.trans ?_ slot,
      accOf_map_self (f := fun y => { y with got := some read }) (fun _ => rfl) hx, by rw [none_yet]; rfl, rfl⟩
    simp only
    repeat' split
    · exact seen.slot k
    · exact (seen.trans (.countRead _ _ _)).slot k
    · exact seen.slot k

/-- What has been performed lands in the registers of its destination. -/
theorem landAcc_regs {id index n nb : Nat} {sign : Bool} {r : List Byte × Bool} (hx : accOf (s.slot k).accs id = some x)
    (hg : x.got = some r) (hd : x.dest = .regs index n nb sign) (hdrain : (s.slot k).draining = false) :
    (s.landAcc k id).slot k =
      ({ s.slot k with accs := (s.slot k).accs.filter (fun y => y.id != id) } : Slot).land index (loadedValues n nb sign r) := by
  have hf : (s.slot k).accs.find? (fun y => y.id == id) = some x := hx
  unfold State.landAcc
  simp only [hf, hg, hd, Dest.result]
  rw [State.settleSlot_of_not_draining]
  · rw [State.modSlot_eq, State.slot_setSlot_same, State.removeAcc, State.modSlot_eq, State.slot_setSlot_same]
    rfl
  · rw [State.modSlot_eq, State.slot_setSlot_same, State.removeAcc, State.modSlot_eq, State.slot_setSlot_same]
    exact (Slot.land_draining _ _ _).trans hdrain

theorem accs_all_of_filter (accs : List Acc) (id : Nat) :
    (accs.filter (fun y => y.id != id)).all (fun y => y.id != id) = true := by
  rw [List.all_filter]
  simp

end

end Sys2Proof.Machine

namespace Sys2Proof.Statements

open Sys2Proof.Machine

/-- Settles O23: what must come before the load leaves it as it was; it is performed, and what it holds lands. -/
theorem loadsLand : Obligations.LoadsLand := by
  unfold Obligations.LoadsLand
  intro s k x index n nb sign hs hx _ hd hdrain read vs
  obtain ⟨a, ha, hxa⟩ := forceBefore_keeps (k := k) (s := s) (x := x) hx
  obtain ⟨b, y, hb, hyb, hgot, hdest⟩ := performLoad_got (k := k) (s := s.forceBefore k x) (x := x) (by rw [ha]; exact hxa)
  rw [ha] at hb
  refine ⟨((s.forceBefore k x).performLoad k x).landAcc k x.id, ?_, ?_⟩
  · simp only [exec, execLoadValueLands, hs, hx]
  · have landed := landAcc_regs (s := (s.forceBefore k x).performLoad k x) (k := k) (id := x.id) (by rw [hb]; exact hyb) hgot
      (hdest.trans hd) (by rw [hb]; exact hdrain)
    rw [landed]
    refine ⟨?_, fun j hj h0 => Slot.land_regAt _ _ hj h0⟩
    rw [Slot.land_accs]
    exact accs_all_of_filter _ _

end Sys2Proof.Statements
end

section
/-! SUPPORT. Stores that are performed (R85, R86, R93, R113): a clean store to a place with no L1 before it, and one that enters a
line of an L1. -/

namespace Sys2Proof.Machine

open Sys2Proof.Statements

/-! ## Tables in which every listed key exists -/

theorem Assoc.find_erase_ne {α : Type} (m : Assoc α) {k j : Nat} (h : j ≠ k) : (m.erase k).find j = m.find j := by
  induction m with
  | nil => rfl
  | cons e m ih =>
    unfold Assoc.erase at ih ⊢
    rw [List.filter_cons]
    by_cases he : e.1 = k
    · have skipped : e.1 ≠ j := fun hj => h (hj.symm.trans he)
      simp only [he, bne_self_eq_false, Bool.false_eq_true, if_false, ih]
      rw [Assoc.find, if_neg skipped]
    · simp only [bne_iff_ne, ne_eq, he, not_false_eq_true, if_true]
      rw [Assoc.find, Assoc.find, ih]

theorem Assoc.find_insert_ne {α : Type} (m : Assoc α) {k j : Nat} (v : α) (h : j ≠ k) : (m.insert k v).find j = m.find j := by
  induction m with
  | nil => simp [Assoc.insert, Assoc.find, Ne.symm h]
  | cons e m ih =>
    unfold Assoc.insert
    split
    · simp [Assoc.find, Ne.symm h]
    · rw [Assoc.find, Assoc.find, ih]

theorem Assoc.find_put_ne {α : Type} (m : Assoc α) {k j : Nat} (v : α) (h : j ≠ k) : (m.put k v).find j = m.find j :=
  (Assoc.find_insert_ne _ v h).trans (Assoc.find_erase_ne m h)

/-- Values put at consecutive keys. -/
theorem Assoc.find_foldl_put {α : Type} (m : Assoc α) (off : Nat) (v : Nat → α) (n j : Nat) :
    ((List.range n).foldl (fun m i => Assoc.put m (off + i) (v i)) m).find (off + j) =
      if j < n then some (v j) else m.find (off + j) := by
  induction n with
  | zero => rfl
  | succ n ih =>
    rw [List.range_succ, List.foldl_append, List.foldl_cons, List.foldl_nil]
    by_cases hj : j = n
    · rw [hj, Assoc.find_put_same, if_pos (Nat.lt_succ_self n)]
    · rw [Assoc.find_put_ne _ _ (by omega), ih]
      simp only [show j < n + 1 ↔ j < n by omega]

/-! ## Lines of an L1 -/

@[simp] theorem State.line_setLine_same (s : State) (l1 key : Nat) (x : Line) : (s.setLine l1 key x).line l1 key = some x := by
  rw [State.line, State.setLine, State.modCore, State.core_setCore_same, Assoc.find_put_same]

theorem State.ensureLine_line (s : State) (l1 key : Nat) (evict rdc : BitVec 3) :
    ∃ x, (s.ensureLine l1 key evict rdc).line l1 key = some x := by
  unfold State.ensureLine
  split
  · exact ⟨_, State.line_setLine_same _ _ _ _⟩
  · exact ⟨_, State.line_setLine_same _ _ _ _⟩

/-- What changes no core changes no line. -/
theorem State.line_of_cores {s t : State} (h : t.cores = s.cores) (l1 key : Nat) : t.line l1 key = s.line l1 key := by
  rw [State.line, State.line, State.core, State.core, h]

theorem State.wakeWaiters_cores (s : State) (p : Piece) (who : Nat → Bool) : (s.wakeWaiters p who).cores = s.cores := by
  unfold State.wakeWaiters
  generalize hf : (fun (s : State) (e : Nat × Slot) => _) = f
  have step : ∀ (u : State) (e : Nat × Slot), (f u e).cores = u.cores := by
    intro u e
    rw [← hf]
    simp only
    repeat' split
    all_goals rfl
  clear hf
  generalize s.slots = l
  induction l generalizing s with
  | nil => rfl
  | cons e l ih => exact (ih (f s e)).trans (step s e)

theorem State.line_modAcc (s : State) (k id : Nat) (f : Acc → Acc) (l1 key : Nat) :
    (s.modAcc k id f).line l1 key = s.line l1 key := rfl

theorem State.memAt_removeAcc (s : State) (k id : Nat) (p : Place) : (s.removeAcc k id).memAt p = s.memAt p := by
  cases p <;> rfl

theorem State.memAt_drawn (s : State) (n : Nat) (p : Place) : ({ s with draws := n } : State).memAt p = s.memAt p := by
  cases p <;> rfl

theorem State.noteLine_line (s : State) (k l1 key : Nat) : (s.noteLine k l1 key).line l1 key = s.line l1 key := by
  rw [State.line, State.noteLine, State.modCore, State.core_setCore_same]
  rfl

/-- A mark leaves the bytes of its line. -/
theorem State.markLine_line {s : State} {k l1 key : Nat} {x : Line} (h : s.line l1 key = some x) :
    (s.markLine k l1 key).line l1 key = some { x with marks := addOnce k x.marks } := by
  unfold State.markLine
  rw [h]
  simp only
  rw [State.noteLine_line, State.line_setLine_same]

/-- The bytes of a clean write stand in the line of the L1 that holds their address. -/
theorem State.l1Write_line (s : State) (core : Nat) (p : Place) (a : Nat) (bs : List Byte) (evict rdc : BitVec 3) :
    ∃ x, (s.l1Write core p a bs false evict rdc).line (s.l1Of core a) (lineKey p a) = some x
      ∧ ∀ j, j < bs.length → x.bytes.find (a % 256 + j) = some { val := bs.getD j 0, dirty := true, poison := false } := by
  obtain ⟨x, hx⟩ := s.ensureLine_line (s.l1Of core a) (lineKey p a) evict rdc
  unfold State.l1Write
  simp only [hx, Bool.false_eq_true, if_false]
  refine ⟨_, State.line_setLine_same _ _ _ _, fun j hj => ?_⟩
  have put := Assoc.find_foldl_put x.bytes (a % 256) (fun i => LineByte.mk (bs.getD i 0) true false) bs.length j
  exact put.trans (if_pos hj)

theorem MemMoves.l1Of {s t : State} (h : MemMoves s t) (core a : Nat) : t.l1Of core a = s.l1Of core a := by
  obtain ⟨_, _, _, _, _, _, _, _, _, _, _, _, rfl⟩ := h.fields
  rfl

/-! ## A store that becomes visible -/

theorem writePieces_single {p : Piece} {bs : List Byte} (h : bs.length = p.len) (u : State) (core : Nat) (poison : Bool)
    (evict rdc : BitVec 3) : u.writePieces core poison evict rdc [p] bs = u.writePiece core p bs poison evict rdc := by
  rw [State.writePieces, State.writePieces, ← h, List.take_length]

/-- A clean store of one piece. -/
structure CleanStore (x : Acc) (p : Piece) : Prop where
  kind : x.kind = .store
  pieces : x.pieces = [p]
  length : x.data.length = p.len
  clean : x.poison = false
  waiting : x.localDone = false

section
variable {x : Acc} {p : Piece} (hx : CleanStore x p) (u : State) (k : Nat)
include hx

theorem performLocal_uncached (hc : p.place.cached = false) :
    u.performLocal k x = ((u.setMemAt p.place ((u.memAt p.place).write p.off x.data false)).raiseVersion p.place p.off).removeAcc
      k x.id := by
  obtain ⟨hk, hps, hlen, hp, hl⟩ := hx
  rw [State.performLocal, hl, hk, hps, writePieces_single hlen, State.writePiece, hc, hp]
  simp only [List.filter_cons, hc, List.all_cons, Bool.false_and]
  rfl

theorem performLocal_cached (hc : p.place.cached = true) :
    ∃ y, (u.performLocal k x).line (u.l1Of (coreOfSlot k) p.off) (lineKey p.place p.off) = some y
      ∧ ∀ j, j < p.len → y.bytes.find (p.off % 256 + j) = some { val := x.data.getD j 0, dirty := true, poison := false } := by
  obtain ⟨hk, hps, hlen, hp, hl⟩ := hx
  obtain ⟨y, hy, bytes⟩ := u.l1Write_line (coreOfSlot k) p.place p.off x.data x.evict x.rdc
  have sameL1 := (MemMoves.l1Write u (coreOfSlot k) p.place p.off x.data false x.evict x.rdc).l1Of (coreOfSlot k) p.off
  refine ⟨{ y with marks := addOnce k y.marks }, ?_, fun j hj => bytes j (by rw [hlen]; exact hj)⟩
  rw [State.performLocal, hl, hk, hps, writePieces_single hlen, State.writePiece, hc, hp]
  simp only [List.filter_cons, hc, List.all_cons, Bool.true_and, if_true, List.filter_nil, List.foldl_cons, List.foldl_nil,
    List.all_nil, Bool.false_eq_true, if_false, reduceCtorEq]
  rw [State.line_modAcc, State.line_of_cores (State.wakeWaiters_cores _ _ _), sameL1]
  exact State.markLine_line hy

end

/-- What the step of a store does once the store stands where its slot sees it: no memory and no line of it changes. -/
theorem storePerformed_after {s : State} {k : Nat} {x : Acc} (hs : s.subject = [k, x.id])
    (hx : (s.slot k).accs.find? (fun y => y.id == x.id) = some x) (hl : x.localDone = false)
    (hu : Unordered { s with draws := s.draws + 1 } k x) :
    ∃ t, exec .storePerformed s = .next t
      ∧ (∀ q, t.memAt q = (State.performLocal { s with draws := s.draws + 1 } k x).memAt q)
      ∧ t.cores = (State.performLocal { s with draws := s.draws + 1 } k x).cores := by
  unfold Unordered at hu
  simp only [exec, execStorePerformed]
  generalize ({ s with draws := s.draws + 1 } : State) = u at hu ⊢
  simp only [hs, hx, hl, hu, Bool.false_eq_true, if_false, Bool.not_false, if_true]
  refine ⟨_, rfl, ?_⟩
  split
  · exact ⟨fun q => by cases q <;> rfl, rfl⟩
  · exact ⟨fun q => by cases q <;> rfl, rfl⟩

end Sys2Proof.Machine

namespace Sys2Proof.Statements

open Sys2Proof.Machine

/-- Settles O24: a store of one piece that is clean writes its place, or its line, and what follows in its step changes
neither. -/
theorem storesPerformed : Obligations.StoresPerformed := by
  unfold Obligations.StoresPerformed
  refine ⟨fun s k x p hs hx hk hps hlen hpoison hl hc hu => ?_, fun s k x p hs hx hk hps hlen hpoison hl hc hfit hu => ?_⟩
  · obtain ⟨t, ht, hmem, -⟩ := storePerformed_after hs hx hl hu
    have at_ : ∀ q, t.memAt q = (State.setMemAt { s with draws := s.draws + 1 } p.place
        ((s.memAt p.place).write p.off x.data false)).memAt q := fun q => by
      rw [hmem, performLocal_uncached ⟨hk, hps, hlen, hpoison, hl⟩ _ _ hc, State.memAt_removeAcc, State.memAt_raiseVersion,
        State.memAt_drawn s]
    refine ⟨t, ht, fun q hq => ?_, fun a => ?_⟩
    · rw [at_, State.memAt_setMemAt_ne _ _ hq]
      cases q <;> rfl
    · simp only [byteOf, poisonOf, at_, State.memAt_setMemAt_same, Mem.byte_write, Mem.poisonAt_write_clean, hlen]
      refine ⟨fun lo hi => ?_, fun out => ?_⟩
      · rw [if_pos ⟨lo, hi⟩, if_pos ⟨lo, hi⟩]
        exact ⟨rfl, rfl⟩
      · rw [if_neg (by omega), if_neg (by omega)]
        exact ⟨rfl, rfl⟩
  · obtain ⟨t, ht, -, hcores⟩ := storePerformed_after hs hx hl hu
    obtain ⟨y, hy, bytes⟩ := performLocal_cached ⟨hk, hps, hlen, hpoison, hl⟩ { s with draws := s.draws + 1 } k hc
    exact ⟨t, y, ht, (State.line_of_cores hcores _ _).trans hy, bytes⟩

end Sys2Proof.Statements
end

section
/-! SUPPORT. An atomic on host memory whose D is no g register (R88, R90). -/

namespace Sys2Proof.Statements

open Sys2Proof.Machine Sys2Proof.Tests

/-- An ASWP on 8 bytes of a host page, with a view code in its D field. -/
def swapAtView : MForm := { d := 80, a := 2, size := 3 }

/-- The base stands in g2; where D's code would lead among the registers, one waits for a value. -/
def atView : State :=
  { paged [] with slots := [(0, { task with regs := [(2, { val := 0x1010 }), (80, { full := false })] })] }

def swapped : Atomic :=
  { f := swapAtView, kind := .swap, n := 2, srcs := 2, operand := dataBytes 8, compare := fun _ => [], written := id }

theorem atView_ready : Ready (.aswp swapAtView) [swapAtView.srcA, swapAtView.srcD 2] [{ code := 80, n := 2 }] atView
    ∧ readData 80 2 atView = .ok ([{ w := 0 }, { w := 0 }], atView) ∧ Aligned atView swapAtView ∧ OutsideWindows atView swapAtView
    ∧ target 80 0 (addressIn atView swapAtView) 8 true atView = .ok ([{ place := .host, off := 0x5010, len := 8 }], atView) := by
  unfold Ready Aligned OutsideWindows
  decide

theorem exec_atView : ((after (exec (.aswp swapAtView) atView)).slot 0).hostOp = none
    ∧ (after (exec (.aswp swapAtView) atView)).cur = 0 := by
  decide

/-- Refutes O25: nothing says that D of an atomic on host memory is a g register. Where D is a view code, the check of R52 looks
at the view, and marking D empty finds a register that waits: the slot parks on D, and no request is sent. -/
theorem not_atomics : ¬ Obligations.Atomics := by
  unfold Obligations.Atomics
  rintro ⟨⟨-, -, host⟩, -⟩
  obtain ⟨ready, read, aligned, outside, found⟩ := atView_ready
  obtain ⟨op, t, ht, hop, -⟩ := host (.aswp swapAtView) swapped atView atView atView _ _ rfl rfl ready read aligned outside found
    rfl rfl rfl
  obtain ⟨none_sent, here⟩ := exec_atView
  rw [ht] at none_sent here
  have plain : (waitHostOp (addressIn atView swapped.f)).translate = none := rfl
  have cur : t.cur = 0 := (State.parkSlot_cur t 0 plain).symm.trans here
  obtain ⟨p, slots⟩ := State.parkSlot_slots t 0 plain
  have kept : ((t.parkSlot 0 (waitHostOp (addressIn atView swapped.f))).slot 0).hostOp = (t.slot 0).hostOp := by
    rw [State.slot, slots]
    exact (congrArg Slot.hostOp (State.slot_setSlot_same t 0 _)).trans rfl
  rw [State.me_eq, cur, ← kept] at hop
  exact Option.some_ne_none op (hop.symm.trans none_sent)

end Sys2Proof.Statements
end

section
/-! SUPPORT. Reductions (R98, R385): an ATOM in a reduction window up to its contribution, and the contribution on its way. -/

namespace Sys2Proof.Machine

open Sys2Proof.Statements

theorem readData_frame {code : Code} {n : Nat} {s t : State} {vs : List Val} (h : readData code n s = .ok (vs, t)) :
    t.cur = s.cur ∧ t.me = s.me := by
  unfold readData at h
  split at h
  · obtain ⟨v, u, hv, hu⟩ := Act.bind_ok.1 h
    cases hu
    exact ⟨State.take_cur (rd_ok.1 hv), State.take_me (rd_ok.1 hv)⟩
  · cases h
    exact ⟨rfl, rfl⟩

/-- An ATOM at system scope in a reduction window is a reduction. -/
theorem atomic_reduction {i : Instr} {f : MForm} {n srcs : Nat} {type fn : BitVec 3} {operand compare : List Val → List Byte}
    {s s1 : State} {vs : List Val} {w : Nat × Nat × Nat} (hop : s.me.hostOp = none)
    (hr : Ready i [f.srcA, f.srcD srcs] [{ code := f.d, n := n }] s) (hv : readData f.d srcs s = .ok (vs, s1))
    (ha : Aligned s1 f) (hscope : f.scope = 5) (hspace : f.space = 0)
    (hw : s1.redWindow (s1.die s1.myDie).wid (addressIn s1 f) = some w) :
    atomic f (.op type fn) n operand compare srcs s =
      startReduction f (addressIn s1 f) w (operand vs) (anyPoison vs) s1 := by
  rw [atomic, Act.me_bind, hop]
  simp only
  rw [Act.bind_check hr, Act.bind_run hv, Act.bind_run (addressOf_aligned ha), Act.state_bind]
  simp only [hspace, hscope, hw, if_true, beq_self_eq_true]

theorem State.retireAt_me {s u : State} (here next : Word) (h : u.cur = s.cur) :
    (u.retireAt s.cur here next).me = u.me.retire here next := by
  rw [State.me_eq u, h, ← State.retireAt_slot, State.me_eq]
  exact congrArg (State.slot _) h

theorem State.contributions_retireAt (s : State) (k : Nat) (here next : Word) :
    (s.retireAt k here next).contributions = s.contributions := rfl

theorem Translated.pkgid {s t : State} (h : Translated s t) : t.pkgid = s.pkgid := by
  obtain ⟨u, ⟨_, _, _, rfl⟩, rfl | rfl⟩ := h <;> rfl

/-- An access in flight leaves the registers. -/
theorem added_regs {s t : State} {k : Nat} {x : Acc}
    (h : t.slots = (s.setSlot k { s.slot k with accs := (s.slot k).accs ++ [x] }).slots) :
    (t.slot k).regs = (s.slot k).regs := by
  rw [State.slot, h]
  exact congrArg Slot.regs (State.slot_setSlot_same s k _) |>.trans rfl

/-- What a reduction leaves in flight. -/
theorem startReduction_ok {f : MForm} {addr : Nat} {w : Nat × Nat × Nat} {operand : List Byte} {poison : Bool} {s s1 : State}
    {at_ : Place × Nat} (hreach : s.unreachable.contains w.2.2 = false) (ht : translateMe addr true s = .ok (at_, s1))
    (hhost : at_.1 = .host → hostAtomic (.op f.evict f.rdc) = true) (hfull : s1.me.fullFrom f.d.toNat f.regs = true) :
    ∃ t, startReduction f addr w operand poison s = .ok ((), t)
      ∧ t.contributions = s1.contributions ++ [
          { id := s1.nextId + 1, world := (s.die s.myDie).wid, va := addr
            piece := if w.2.2 = s.pkgid.toNat then some { place := at_.1, off := at_.2, len := f.bytes } else none, home := w.2.2
            len := f.bytes, type := f.evict, fn := f.rdc, operand := operand, poison := poison
            parts := [(s.cur, s1.nextId)], held := false }]
      ∧ t.cur = s1.cur ∧ (t.slot s1.cur).regs = (s1.me.markEmpty f.d.toNat f.regs).regs := by
  have may : (at_.1 == .host && !hostAtomic (.op f.evict f.rdc)) = false := by
    cases hp : at_.1 == .host with
    | false => rfl
    | true => rw [hhost (eq_of_beq hp)]; rfl
  rw [startReduction, Act.state_bind, Act.bind_trapIf_false hreach, Act.bind_run ht, Act.bind_trapIf_false may, Act.me_bind,
    Act.bind_run (markEmpty_full hfull)]
  exact ⟨_, rfl, rfl, rfl, (added_regs rfl).trans (congrArg Slot.regs (State.slot_setSlot_same s1 s1.cur _))⟩

/-! ## Contributions on their way -/

theorem agenda_schedule (s : State) (due : Nat) (i : Instr) (l : List Nat) :
    ({ at_ := due, step := i, subject := l } : Due) ∈ (s.schedule due i l).agenda :=
  mem_agendaInsert.2 (.inl rfl)

/-- A contribution that is forwarded leaves the combine buffer, and comes to its home. -/
theorem forward_leaves (s : State) (cid : Nat) :
    (∀ y ∈ (s.forward cid).contributions, y.id = cid → y.held = false ∧ y.sent = true)
      ∧ ∃ d ∈ (s.forward cid).agenda, d.step = .reductionPerformed ∧ d.subject = [cid] ∧ s.cycle < d.at_ := by
  refine ⟨fun y hy hid => ?_, _, agenda_schedule _ _ _ _, rfl, rfl, by show s.cycle < s.cycle + 1 + _; omega⟩
  obtain ⟨z, -, rfl⟩ := List.mem_map.1 hy
  split at hid
  · rw [if_pos ‹_›]
    exact ⟨rfl, rfl⟩
  · exact absurd hid ‹_›

theorem State.settleSlot_cases (s : State) (k : Nat) : s.settleSlot k = s ∨ ∃ v, s.settleSlot k = s.setSlot k v := by
  unfold State.settleSlot
  simp only
  split
  · exact .inr ⟨_, rfl⟩
  · exact .inl rfl

theorem State.memAt_settleSlot (s : State) (k : Nat) (p : Place) : (s.settleSlot k).memAt p = s.memAt p := by
  rcases s.settleSlot_cases k with h | ⟨v, h⟩ <;> rw [h]
  cases p <;> rfl

theorem State.contributions_settleSlot (s : State) (k : Nat) : (s.settleSlot k).contributions = s.contributions := by
  rcases s.settleSlot_cases k with h | ⟨v, h⟩ <;> rw [h]
  rfl

/-- Those whose reductions were merged have nothing in flight any more; no memory and no contribution changes. -/
theorem endParts (parts : List (Nat × Nat)) (s : State) :
    (∀ p, (parts.foldl (fun s e => (s.removeAcc e.1 e.2).settleSlot e.1) s).memAt p = s.memAt p)
      ∧ (parts.foldl (fun s e => (s.removeAcc e.1 e.2).settleSlot e.1) s).contributions = s.contributions := by
  induction parts generalizing s with
  | nil => exact ⟨fun _ => rfl, rfl⟩
  | cons e parts ih =>
    obtain ⟨mem, contributions⟩ := ih ((s.removeAcc e.1 e.2).settleSlot e.1)
    refine ⟨fun p => ?_, ?_⟩
    · exact (mem p).trans ((State.memAt_settleSlot _ _ p).trans (State.memAt_removeAcc _ _ _ p))
    · exact contributions.trans (State.contributions_settleSlot _ _)

/-- What the router's answer makes of the slot: its D takes 0. -/
def State.answered (s : State) (k id : Nat) : State :=
  (s.modSlot k (fun sl =>
    match sl.accs.find? (fun x => x.id == id) with
    | some x =>
      let sl := sl.landDest x.dest (bytesOfWord 8 0, false)
      { sl with accs := sl.accs.map (fun y => if y.id = id then { y with dest := .none } else y) }
    | none => sl)).settleSlot k

theorem State.answered_fields (s : State) (k id : Nat) : ∃ slots, s.answered k id = { s with slots := slots } := by
  unfold State.answered
  rcases State.settleSlot_cases (s.modSlot k (fun sl =>
    match sl.accs.find? (fun x => x.id == id) with
    | some x =>
      let sl := sl.landDest x.dest (bytesOfWord 8 0, false)
      { sl with accs := sl.accs.map (fun y => if y.id = id then { y with dest := .none } else y) }
    | none => sl)) k with h | ⟨v, h⟩ <;> rw [h]
  · exact ⟨_, rfl⟩
  · exact ⟨_, rfl⟩

theorem State.answered_regAt {s : State} {k id index n nb : Nat} {x : Acc} (j : Nat)
    (hx : (s.slot k).accs.find? (fun y => y.id == id) = some x)
    (hd : x.dest = .regs index n nb false) (hdrain : (s.slot k).draining = false) :
    ((s.answered k id).slot k).regAt j = ((s.slot k).land index (loadedValues n nb false (bytesOfWord 8 0, false))).regAt j := by
  have landed : (s.slot k).landDest x.dest (bytesOfWord 8 0, false)
      = (s.slot k).land index (loadedValues n nb false (bytesOfWord 8 0, false)) := by
    rw [hd]
    rfl
  unfold State.answered
  rw [State.settleSlot_of_not_draining]
  · rw [State.modSlot_eq, State.slot_setSlot_same, hx]
    have same := congrArg (fun sl : Slot => sl.regAt j) landed
    exact same
  · rw [State.modSlot_eq, State.slot_setSlot_same, hx]
    have same := congrArg Slot.draining landed
    exact same.trans ((Slot.land_draining _ _ _).trans hdrain)

/-- What the router does with a contribution that it accepts, whose home can be reached. -/
def State.acceptContribution (s : State) (cid : Nat) (c : Contribution) : State :=
  let here := fun (f : Contribution → Contribution) => { s with
    contributions := s.contributions.map (fun (y : Contribution) => if y.id = cid then f { y with accepted := true } else y) }
  let others := s.contributions.filter (fun x => x.held)
  if 4096 ≤ others.length then
    if s.pathsDown.has c.home then here (fun y => y) else (here (fun y => y)).forward cid
  else
    match others.find? (fun x => x.matches c && x.open_ s.cycle) with
    | some x =>
      { s with contributions := (s.contributions.filter (fun y => y.id != cid)).map (fun y =>
          if y.id = x.id then x.merge c else y) }
    | none =>
      let s' : State := { here (fun y => { y with held := true, since := s.cycle }) with draws := s.draws + 1 }
      s'.schedule (s.cycle + Config.delay s.draws % 129) .combineBufferForward [cid]

theorem exec_reductionAccepted {s : State} {k id cid : Nat} {c : Contribution} (hs : s.subject = [k, id, cid])
    (hc : s.contributions.find? (fun c => c.id == cid) = some c) (hu : s.unreachable.contains c.home = false) :
    exec .reductionAccepted s = .next ((s.answered k id).acceptContribution cid c) := by
  obtain ⟨slots, fields⟩ := s.answered_fields k id
  have found : (s.answered k id).contributions.find? (fun c => c.id == cid) = some c := by rw [fields]; exact hc
  have reach : (s.answered k id).unreachable.contains c.home = false := by rw [fields]; exact hu
  simp only [exec, execReductionAccepted, hs]
  change Host.Outcome.next (match (s.answered k id).contributions.find? (fun c => c.id == cid) with
    | none => s.answered k id
    | some c => if (s.answered k id).unreachable.contains c.home then (s.answered k id).loseContribution c
      else (s.answered k id).acceptContribution cid c) = _
  rw [found]
  simp only [reach, Bool.false_eq_true, if_false]

section
variable {s t : State} {cid : Nat} {c : Contribution} {slots : Assoc Slot}
  (fields : t = { s with slots := slots })
include fields

theorem accept_merge {x : Contribution} (hn : (s.contributions.filter (fun x => x.held)).length < 4096)
    (hx : (s.contributions.filter (fun x => x.held)).find? (fun x => x.matches c && x.open_ s.cycle) = some x) :
    (t.acceptContribution cid c).contributions
      = (s.contributions.filter (fun y => y.id != cid)).map (fun y => if y.id = x.id then x.merge c else y) := by
  subst fields
  simp only [State.acceptContribution, if_neg (Nat.not_le.2 hn), hx]

theorem accept_hold (hn : (s.contributions.filter (fun x => x.held)).length < 4096)
    (hx : (s.contributions.filter (fun x => x.held)).find? (fun x => x.matches c && x.open_ s.cycle) = none) :
    (∀ y ∈ (t.acceptContribution cid c).contributions, y.id = cid → y.held = true ∧ y.accepted = true ∧ y.since = s.cycle)
      ∧ ∃ d ∈ (t.acceptContribution cid c).agenda,
          d.step = .combineBufferForward ∧ d.subject = [cid] ∧ d.at_ ≤ s.cycle + 128 := by
  subst fields
  simp only [State.acceptContribution, if_neg (Nat.not_le.2 hn), hx]
  refine ⟨fun y hy hid => ?_, _, agenda_schedule _ _ _ _, rfl, rfl, ?_⟩
  · obtain ⟨z, -, rfl⟩ := List.mem_map.1 hy
    split at hid
    · rw [if_pos ‹_›]
      exact ⟨rfl, rfl, rfl⟩
    · exact absurd hid ‹_›
  · have := Nat.mod_lt (Config.delay s.draws) (by decide : 0 < 129)
    show s.cycle + Config.delay s.draws % 129 ≤ _
    omega

/-- Where 4,096 are held, an accepted contribution leaves at once. -/
theorem accept_full (hn : 4096 ≤ (s.contributions.filter (fun x => x.held)).length) (hp : s.pathsDown.has c.home = false) :
    (∀ y ∈ (t.acceptContribution cid c).contributions, y.id = cid → y.held = false ∧ y.accepted = true ∧ y.sent = true)
      ∧ ∃ d ∈ (t.acceptContribution cid c).agenda,
          d.step = .reductionPerformed ∧ d.subject = [cid] ∧ s.cycle < d.at_ := by
  subst fields
  simp only [State.acceptContribution, if_pos hn, hp, Bool.false_eq_true, if_false]
  obtain ⟨left, arrives⟩ := forward_leaves { s with
    slots := slots
    contributions := s.contributions.map fun y => if y.id = cid then { y with accepted := true } else y } cid
  refine ⟨fun y hy hid => ⟨(left y hy hid).1, ?_, (left y hy hid).2⟩, arrives⟩
  obtain ⟨z, hz, rfl⟩ := List.mem_map.1 hy
  obtain ⟨w, -, rfl⟩ := List.mem_map.1 hz
  have hw : w.id = cid := by
    by_contra hne
    simp [hne] at hid
  simp [hw]

end

theorem acceptContribution_slot (s : State) (cid : Nat) (c : Contribution) (k : Nat) :
    (s.acceptContribution cid c).slot k = s.slot k := by
  unfold State.acceptContribution
  simp only
  repeat' split
  all_goals rfl

end Sys2Proof.Machine

namespace Sys2Proof.Statements

open Sys2Proof.Machine

theorem reductions : Obligations.Reductions := by
  unfold Obligations.Reductions
  refine ⟨?_, ?_, ?_, ?_⟩
  · intro f s s1 s2 vs w at_ hop hr hv ha hscope hspace hw hu ht hhost hfull
    obtain ⟨u, hrun, hcon, hcur, hregs⟩ := startReduction_ok (operand := dataBytes f.bytes vs) (poison := vs.any Val.poison)
      hu ht hhost hfull
    have cur : u.cur = s.cur := hcur.trans ((translateMe_ok ht).cur.trans (readData_frame hv).1)
    have mine := State.retireAt_me s.me.pc (s.me.pc + 8) cur
    refine ⟨_, issue_ok hr.1 ((atomic_reduction hop hr hv ha hscope hspace hw).trans hrun), ?_, ?_, ?_⟩
    · rw [State.contributions_retireAt, hcon, (readData_frame hv).1, (translateMe_ok ht).pkgid]
    · rw [mine]
      rfl
    · rw [mine, ← hregs]
      exact congrArg (fun k => (u.slot k).regs) hcur
  · intro s k id cid c hs hc hh hu held merges
    have run := exec_reductionAccepted hs hc hu
    obtain ⟨slots, fields⟩ := s.answered_fields k id
    refine ⟨fun x hn hx => ⟨_, run, ?_⟩, fun hx hn => ⟨_, run, ?_, ?_⟩, fun hn hp => ⟨_, run, ?_, ?_⟩,
      fun x index n nb hx hd hdest => ⟨_, run, fun j hj h0 => ?_⟩⟩
    · exact accept_merge fields hn hx
    · exact (accept_hold fields hn hx).1
    · exact (accept_hold fields hn hx).2
    · exact (accept_full fields hn hp).1
    · exact (accept_full fields hn hp).2
    · rw [acceptContribution_slot, State.answered_regAt _ hx hdest hd]
      exact Slot.land_regAt _ _ hj h0
  · intro s cid c hs hc hp
    obtain ⟨left, arrives⟩ := forward_leaves s cid
    refine ⟨s.forward cid, ?_, fun y hy hid => (left y hy hid).1, arrives⟩
    simp only [exec, execCombineBufferForward, hs, hc, hp]
    rfl
  · intro s cid c p hs hc hpiece hp
    have arrived : exec .reductionPerformed s = .next (c.parts.foldl (fun s e => (s.removeAcc e.1 e.2).settleSlot e.1)
        { (s.atomAt c.world p (.op c.type c.fn) c.operand [] c.poison).2 with
          contributions := (s.atomAt c.world p (.op c.type c.fn) c.operand [] c.poison).2.contributions.filter
            (fun x => x.id != cid) }) := by
      simp only [exec, execReductionPerformed, hs, hc, hpiece, hp]
      rfl
    refine ⟨_, arrived, fun q => ?_, fun y hy hid => ?_⟩
    · rw [(endParts _ _).1]
      rfl
    · rw [(endParts _ _).2] at hy
      simp [hid] at hy

end Sys2Proof.Statements
end

section
/-! SUPPORT. VSET and MSET (R179, R180), and the instructions that set up recording (R198, R254 to R260). -/

namespace Sys2Proof.Machine

open Sys2Proof.Statements

theorem tformatIf_eq (c : Bool) (code : Code) (why : Nat) :
    tformatIf c code why = Act.trapIf c .tformat code.toNat (BitVec.ofNat 64 why) := rfl

theorem Act.bind_tformatIf_false {β : Type} {c : Bool} {code : Code} {why : Nat} {f : Unit → Act β} {s : State}
    (h : c = false) : (tformatIf c code why >>= f) s = f () s :=
  Act.bind_trapIf_false h

theorem Act.bind_tformatIf_true {β : Type} {c : Bool} {code : Code} {why : Nat} {f : Unit → Act β} {s : State}
    (h : c = true) : (tformatIf c code why >>= f) s = .error (.trap .tformat code.toNat (BitVec.ofNat 64 why)) :=
  Act.bind_trapIf_true h

/-- What VSET does with the two words that it has read. -/
def vsetRest (fmt : BitVec 8) (d : Code) (a b : Word) : Act Unit := do
  let rows := b.toNat % 256
  let cols := b.toNat / 256 % 256
  let off := a.toNat % 65536
  let stride := a.toNat / 65536
  let al := fmtAlign fmt.toNat
  let rb := rowBytes fmt.toNat cols
  tformatIf (decide (rows < 1) || decide (64 < rows) || decide (cols < 1) || decide (64 < cols) || b.toNat / 65536 != 0) d 0x0110
  tformatIf (off % al != 0 || stride % al != 0) d 0x0112
  tformatIf (decide (1 < rows) && decide (stride < rb)) d 0x0113
  tformatIf (decide (0x10000 < off + (rows - 1) * stride + rb)) d 0x0111
  Act.modMe (fun sl => sl.setView d
    { fmt := fmt.extractLsb' 0 4, cols1 := BitVec.ofNat 6 (cols - 1), rows1 := BitVec.ofNat 6 (rows - 1),
      stride := BitVec.ofNat 16 stride, off := BitVec.ofNat 16 off })

/-- Which field a view's words do not fit, if any, in the order of the tests of R180. -/
theorem vsetRest_cases (fmt : BitVec 8) (d : Code) (a b : Word) (s : State) :
    ((shapeOf a b).Fits fmt.toNat
      ∧ vsetRest fmt d a b s = .ok ((), s.setMe (s.me.setView d ((shapeOf a b).view fmt))))
    ∨ (¬ (shapeOf a b).Fits fmt.toNat
      ∧ ∃ why ∈ [0x110, 0x111, 0x112, 0x113], vsetRest fmt d a b s = .error (.trap .tformat d.toNat why)) := by
  unfold vsetRest Shape.Fits shapeOf
  simp only
  rcases Bool.eq_false_or_eq_true (decide (b.toNat % 256 < 1) || decide (64 < b.toNat % 256)
    || decide (b.toNat / 256 % 256 < 1) || decide (64 < b.toNat / 256 % 256) || b.toNat / 65536 != 0) with h1 | h1
  · refine .inr ⟨fun fits => ?_, _, ?_, Act.bind_tformatIf_true h1⟩
    · simp at h1
      omega
    · decide
  rw [Act.bind_tformatIf_false h1]
  have cols : b.toNat / 256 % 256 = b.toNat / 256 := by
    simp at h1
    omega
  rw [cols] at h1 ⊢
  rcases Bool.eq_false_or_eq_true (a.toNat % 65536 % fmtAlign fmt.toNat != 0
    || a.toNat / 65536 % fmtAlign fmt.toNat != 0) with h2 | h2
  · refine .inr ⟨fun ⟨_, _, _, _, hoff, hstride, _⟩ => ?_, _, ?_, Act.bind_tformatIf_true h2⟩
    · simp [hoff, hstride] at h2
    · decide
  rw [Act.bind_tformatIf_false h2]
  rcases Bool.eq_false_or_eq_true (decide (1 < b.toNat % 256)
    && decide (a.toNat / 65536 < rowBytes fmt.toNat (b.toNat / 256))) with h3 | h3
  · refine .inr ⟨fun ⟨_, _, _, _, _, _, hrow, _⟩ => ?_, _, ?_, Act.bind_tformatIf_true h3⟩
    · simp at h3
      have := hrow h3.1
      omega
    · decide
  rw [Act.bind_tformatIf_false h3]
  rcases Bool.eq_false_or_eq_true (decide (0x10000 < a.toNat % 65536 + (b.toNat % 256 - 1) * (a.toNat / 65536)
    + rowBytes fmt.toNat (b.toNat / 256))) with h4 | h4
  · refine .inr ⟨fun ⟨_, _, _, _, _, _, _, hend⟩ => ?_, _, ?_, Act.bind_tformatIf_true h4⟩
    · simp at h4
      omega
    · decide
  rw [Act.bind_tformatIf_false h4]
  refine .inl ⟨?_, rfl⟩
  simp at h1 h2 h3 h4
  refine ⟨by omega, by omega, by omega, by omega, h2.1, h2.2, h3, h4⟩

theorem issue_congr {i : Instr} {a b : Act Unit} {s : State} (h : a s = b s) : issue i a s = issue i b s := by
  simp only [issue, issueTo, bind, StateT.bind, Except.bind, h]

end Sys2Proof.Machine

namespace Sys2Proof.Statements

open Sys2Proof.Machine

theorem exec_vset {fmt : BitVec 8} {f : RForm} {s s1 s2 : State} {a b : Val}
    (hr : Ready (.vset fmt f) [f.srcA, f.srcB] [] s) (ha : s.take f.a = some (a, s1))
    (hb : s1.take f.b = some (b, s2)) (pa : a.poison = false) (pb : b.poison = false) (ho : s2.viewOwed f.d = false) :
    exec (.vset fmt f) s = issue (.vset fmt f) (fun _ => vsetRest fmt f.d a.w b.w s2) s := by
  refine issue_congr ?_
  rw [Act.bind_check hr, Act.bind_rd ha, Act.bind_rd hb, Act.bind_trapIf_false pa, Act.bind_trapIf_false pb,
    Act.state_bind, Act.bind_parkIf_false ho]
  rfl

/-- Settles O36: VSET's tests are the conditions of a shape that fits, one by one. -/
theorem viewsAndMasks : Obligations.ViewsAndMasks := by
  unfold Obligations.ViewsAndMasks
  refine ⟨?_, ?_, ?_⟩
  · intro fmt f s s1 s2 a b hr ha hb pa pb ho fits
    rw [exec_vset hr ha hb pa pb ho]
    rcases vsetRest_cases fmt f.d a.w b.w s2 with ⟨-, run⟩ | ⟨not, -⟩
    · exact issue_ok hr.1 run
    · exact absurd fits not
  · intro fmt f s s1 s2 a b hr ha hb pa pb ho fits
    rw [exec_vset hr ha hb pa pb ho]
    rcases vsetRest_cases fmt f.d a.w b.w s2 with ⟨does, -⟩ | ⟨-, why, hwhy, run⟩
    · exact absurd does fits
    · exact ⟨why, issue_trap hr.1 run, hwhy⟩
  · intro f s hr hm pa pb
    refine issue_ok hr.1 ?_
    rw [Act.bind_check hr, Act.state_bind, Act.bind_parkIf_false hm, Act.bind_rdp, Act.bind_rdp,
      Act.bind_trapIf_false pa, Act.bind_trapIf_false pb]
    rfl

theorem contextWord_iff (a : Word) :
    ContextWord a ↔ (a.extractLsb' 13 19 != 0 || decide (0xD ≤ (a.extractLsb' 0 4).toNat)
      || decide (0xD ≤ (a.extractLsb' 4 4).toNat) || decide (0xD ≤ (a.extractLsb' 8 4).toNat)) = false := by
  have := a.isLt
  unfold ContextWord
  simp [BitVec.extractLsb'_toNat, ← BitVec.toNat_inj, Nat.shiftRight_eq_div_pow]
  omega

theorem odd_eq (a : Word) : a.getLsbD 0 = decide (a.toNat % 2 = 1) := by
  simp [BitVec.getLsbD, Nat.testBit_zero]

/-- A multiple of a power of two has its low bits 0. -/
theorem low_bits_zero {w : Nat} {a : BitVec w} (k : Nat) (h : a.toNat % 2 ^ k = 0) : a.extractLsb' 0 k = 0 := by
  apply BitVec.eq_of_toNat_eq
  simpa using h

theorem high_bits_zero {a : Word} (h : a.toNat < 2 ^ 16) : a.extractLsb' 16 16 = 0 := by
  apply BitVec.eq_of_toNat_eq
  simp [Nat.shiftRight_eq_div_pow]
  omega

theorem low_half (a : Word) : a.extractLsb' 0 16 = BitVec.ofNat 16 a.toNat := by
  apply BitVec.eq_of_toNat_eq
  simp

theorem lo_append (hi lo : Word) : Val2.lo { w := hi ++ lo } = { w := lo } := by
  have low : (hi ++ lo).extractLsb' 0 32 = lo := by
    ext i h
    have bit := BitVec.getLsbD_append (x := hi) (y := lo) (i := i)
    rw [if_pos h, BitVec.getLsbD_eq_getElem h] at bit
    rw [BitVec.getElem_extractLsb', Nat.zero_add]
    exact bit
  rw [Val2.lo, low]

theorem hi_append (hi lo : Word) : Val2.hi { w := hi ++ lo } = { w := hi } := by
  have high : (hi ++ lo).extractLsb' 32 32 = hi := by
    ext i h
    have bit := BitVec.getLsbD_append (x := hi) (y := lo) (i := 32 + i)
    rw [if_neg (by omega), Nat.add_sub_cancel_left, BitVec.getLsbD_eq_getElem h] at bit
    rw [BitVec.getElem_extractLsb']
    exact bit
  rw [Val2.hi, high]

/-- Settles O40: each instruction reads its sources, passes its tests, and writes one field. -/
theorem tileControl : Obligations.TileControl := by
  unfold Obligations.TileControl
  refine ⟨?_, ?_, ?_, ?_, ?_, ?_, ?_, ?_⟩
  · intro f s s1 a hr ha pa hw t ho
    refine issue_ok hr.1 ?_
    rw [Act.bind_check hr, Act.bind_rd ha, Act.bind_trapIf_false pa, Act.bind_tformatIf_false ((contextWord_iff a.w).1 hw),
      Act.me_bind, State.take_me ha]
    exact wr_open _ ho
  · intro f s s1 a hr ha pa hw
    refine issue_trap hr.1 ?_
    rw [Act.bind_check hr, Act.bind_rd ha, Act.bind_trapIf_false pa]
    exact Act.bind_tformatIf_true (eq_true_of_ne_false (mt (contextWord_iff a.w).2 hw))
  · intro f s s1 a hr ha pa
    refine issue_ok hr.1 ?_
    rw [Act.bind_check hr, Act.bind_rd ha, Act.bind_trapIf_false pa, ← odd_eq]
    rfl
  · intro f s s1 n hr hn pn b pb hb hlen hend
    refine issue_ok hr.1 ?_
    rw [Act.bind_check hr, Act.bind_rdp, Act.bind_rd hn, Act.bind_trapIf_false pb, Act.bind_trapIf_false pn,
      Act.bind_trapIf_false, Act.bind_trapIf_false]
    · rfl
    · have := hend
      simp
      omega
    · rw [low_bits_zero 6 hb, low_bits_zero 6 hlen]
      rfl
  · intro f s hr ho
    refine issue_ok hr.1 ?_
    rw [Act.bind_check hr, Act.me_bind]
    exact wr_open _ ho
  · intro f s hwf hr
    refine issue_ok hr.1 ?_
    rw [Act.bind_check hr, Act.me_bind, wrp_pair _ (RForm.fits_d hwf) (ready_dst_free hr), lo_append, hi_append]
  · intro f s s1 a hr ha pa hlt hmod
    refine issue_ok hr.1 ?_
    rw [Act.bind_check hr, Act.bind_rd ha, Act.bind_trapIf_false pa, Act.bind_tformatIf_false]
    · rw [low_half]
      rfl
    · simp [low_bits_zero 2 hmod, high_bits_zero hlt]
  · intro f s hr pa
    refine issue_ok hr.1 ?_
    rw [Act.bind_check hr, Act.bind_rdp, Act.bind_trapIf_false pa]
    rfl

end Sys2Proof.Statements
end

section
/-! SUPPORT. A signal on a die that two launches claim (R278, R280). -/

namespace Sys2Proof.Statements

open Sys2Proof.Machine Sys2Proof.Tests

/-- A signal of launch 2 for line 0 of cluster 0. -/
def signal2 : FlyingEvent := { id := 7, cl := 0, line := 0, src := 1152, lid := 2, counted := true }

/-- Die 0 stands in the partitions of two launches, of which the one listed first, launch 2, has the signal on its way. -/
def claimedTwice : State :=
  { State.reset with
    subject := [7]
    flyingEvents := [signal2]
    launches := [(2, { launch with lid := 2 }), (1, { launch with lid := 1 })] }

/-- Refutes O46: counting the message as received puts its launch back behind the other one in the table, the die's launch is then
the other, and the line's count stays 0. -/
theorem not_eventLines : ¬ Obligations.EventLines := by
  unfold Obligations.EventLines
  rintro ⟨-, -, -, arrives⟩
  obtain ⟨t, run, raised⟩ := arrives claimedTwice signal2 rfl rfl rfl rfl
  have stays : ((after (exec .eventMessageArrives claimedTwice)).cluster 0).count 0 = 0 := by decide
  rw [run] at stays
  have count : ((t.cluster 0).count 0).toNat = 1 := raised
  rw [show (t.cluster 0).count 0 = 0 from stays] at count
  exact absurd count (by decide)

end Sys2Proof.Statements
end

section
/-! SUPPORT. A translator's slot with a landing FPTRAP to take at its KEND (R40, R293). -/

namespace Sys2Proof.Statements

open Sys2Proof.Machine Sys2Proof.Tests

/-- Slot 0 in a translator run, in task mode, with a landing FPTRAP to take. -/
def trappedRun : State := alone { task with xlt := true, kmeter := 5, fptrap := 1 }

/-- What retiring leaves of a slot decides whether it is due for its landing FPTRAP. -/
theorem retireAt_fptrapDue (t : State) (k : Nat) (here next : Word) :
    ((t.retireAt k here next).slot k).fptrapDue = (t.slot k).fptrapDue
      ∧ ((t.retireAt k here next).slot k).occupied = (t.slot k).occupied
      ∧ ((t.retireAt k here next).slot k).draining = (t.slot k).draining
      ∧ (t.retireAt k here next).launches = t.launches := by
  rw [State.retireAt_slot]
  exact ⟨rfl, rfl, rfl, rfl⟩

/-- A slot with a landing FPTRAP to take may issue, whatever else it waits for. -/
theorem mayIssue_of_fptrapDue {t : State} {k : Nat} (ho : (t.slot k).occupied = true) (hd : (t.slot k).draining = false)
    (hf : (t.slot k).fptrapDue = true) (hl : t.launches = []) : t.mayIssue k = true := by
  have running : t.stopped k = false := by
    simp [State.stopped, State.launchOn, hl]
  simp [State.mayIssue, ho, hd, hf, running]

/-- Refutes O48: a slot that has a landing FPTRAP to take still issues after its KEND, to take the trap. -/
theorem not_translatorRuns : ¬ Obligations.TranslatorRuns := by
  unfold Obligations.TranslatorRuns
  rintro ⟨kend, -⟩
  obtain ⟨t, run, -, waits⟩ := kend {} trappedRun rfl rfl
  have left : let u := after (exec (.kend {}) trappedRun)
      (u.slot 0).fptrapDue = true ∧ (u.slot 0).occupied = true ∧ (u.slot 0).draining = false ∧ u.launches = [] := by decide
  rw [run] at left
  obtain ⟨due, occupied, draining, launches⟩ := retireAt_fptrapDue t 0 trappedRun.me.pc (trappedRun.me.pc + 8)
  obtain ⟨hdue, hocc, hdrain, hlaunches⟩ := left
  have may := mayIssue_of_fptrapDue (occupied.symm.trans hocc) (draining.symm.trans hdrain) (due.symm.trans hdue)
    (launches.symm.trans hlaunches)
  exact absurd (waits (by decide)) (by rw [show trappedRun.cur = 0 from rfl, may]; decide)

end Sys2Proof.Statements
end

section
/-! SUPPORT. What a release leaves of the state, and the handle instructions (R130 to R142). -/

namespace Sys2Proof.Machine

open Sys2Proof.Statements

/-! ## A release of a slot (R121) -/

section
variable {k : Nat} {P : Nat → Prop}

theorem Performs.performEach (xs : List Acc) (s : State) : Performs k (fun _ => True) s (s.performEach k xs) := by
  induction xs generalizing s with
  | nil => exact .refl s
  | cons x xs ih =>
    unfold State.performEach
    split
    · rename_i y hy
      split
      · exact ih s
      · obtain ⟨same, -⟩ := accOf_mem hy
        have found : accOf (s.slot k).accs y.id = some y := by rw [same]; exact hy
        exact ((Performs.forceBefore found).mono fun _ _ => trivial).trans
          (((Performs.perform _ y).mono fun _ _ => trivial).trans (ih _))
    · exact ih s

/-- A release performs accesses of its slot and cleans lines. -/
theorem Performs.releaseSlot (s : State) (scope : Nat) : Performs k (fun _ => True) s (s.releaseSlot k scope) := by
  unfold State.releaseSlot State.performAll
  simp only
  split
  · exact (Performs.performEach _ s).trans
      (((Performs.sendHome _ _).mono fun _ _ => trivial).trans (MemMoves.cleanFor _ _).performs)
  · exact .performEach _ s

/-- What performing accesses leaves of the parts of a state that no memory access touches. -/
theorem Performs.rest {s t : State} (h : Performs k P s t) : t.cur = s.cur ∧ t.cycle = s.cycle ∧ t.dies = s.dies ∧ t.pkgid = s.pkgid
    ∧ t.launches = s.launches ∧ t.clusters = s.clusters ∧ t.nextId = s.nextId := by
  obtain ⟨_, _, _, _, _, _, _, _, _, _, _, _, _, rfl⟩ := h.fields
  exact ⟨rfl, rfl, rfl, rfl, rfl, rfl, rfl⟩

end

/-! ## Handle registers -/

theorem Act.bind_freeHandle {β : Type} {code : Code} {f : Unit → Act β} {s : State} (h : FreeHandle s code) :
    (freeHandle code >>= f) s = f () s :=
  Act.bind_run (Act.trapIf_ok.2 ⟨by rw [h]; rfl, rfl⟩)

theorem setHandleAt_ok (code : Code) (w : DWord) (s : State) : setHandleAt code w s = .ok ((), withHandle s code w) := rfl

theorem hget_live {code : Code} {want : Want} {s t : State} {w : DWord} (h : hget code want s = .ok (w, t)) :
    t = s ∧ w = s.me.handleAt code ∧ handleKind w ≠ 0 ∧ s.stale (s.die s.myDie).wid w = false := by
  unfold hget at h
  simp only at h
  split at h
  · cases h
  · split at h
    · cases h
    · split at h
      · cases h
      · cases h
        exact ⟨rfl, rfl, ‹_›, eq_false_of_ne_true ‹_›⟩

/-- A live word of this package names a tile of its own world. -/
theorem stale_home {s : State} {world : Nat} {w : DWord} (h : s.stale world w = false) (ha : s.away w = false) :
    (s.die (handleDie w)).wid = world := by
  simp [State.stale, ha] at h
  exact h.2.1.2

/-- Dropping a live word. -/
theorem dropWord_live {s : State} {world : Nat} {w : DWord} (hk : handleKind w ≠ 0) (h : s.stale world w = false) :
    s.dropWord w true = if s.away w then s
      else if handleKind w = kindSee then s.dropSee (handleEntry w) else s.settleFill (handleEntry w) .published := by
  unfold State.dropWord
  cases ha : s.away w with
  | true => simp
  | false => simp [hk, stale_home h ha, h]

theorem stale_congr {s t : State} (hd : t.dies = s.dies) (hp : t.pkgid = s.pkgid) (world : Nat) (w : DWord) :
    t.stale world w = s.stale world w ∧ t.away w = s.away w := by
  unfold State.stale State.away State.entry State.die
  rw [hd, hp]
  exact ⟨rfl, rfl⟩

end Sys2Proof.Machine

namespace Sys2Proof.Statements

open Sys2Proof.Machine

theorem seeAccess_published {code : Code} {ep : Bool} {w : DWord} {s : State} (hx : (s.wordEntry w).state = .published)
    (hs : (s.wordEntry w).settled ≠ some s.cycle) : seeAccess code ep w s = .ok ((), s) := by
  rw [seeAccess, Act.state_bind]
  simp only [if_neg hs, hx]
  rfl

theorem seeAccess_abandoned {code : Code} {ep : Bool} {w : DWord} {s : State} (hx : (s.wordEntry w).state = .abandoned)
    (hs : (s.wordEntry w).settled ≠ some s.cycle) : seeAccess code ep w s
      = .error (.trap .abandon code.toNat (BitVec.ofNat 64 (handleIndex w + (s.wordEntry w).gen.toNat * 65536))) := by
  rw [seeAccess, Act.state_bind]
  simp only [if_neg hs, hx]
  rfl

theorem seeAccess_open {code : Code} {ep : Bool} {w : DWord} {s : State}
    (h : (s.wordEntry w).state = .open ∨ (s.wordEntry w).settled = some s.cycle) :
    seeAccess code ep w s
      = .error (if ep = true then .trap .empty code.toNat 0 else .park { xval := code.toNat, reason := 0x04 }) := by
  have seen : (if (s.wordEntry w).settled = some s.cycle then TileState.open else (s.wordEntry w).state) = .open := by
    split
    · rfl
    · exact h.resolve_right ‹_›
  rw [seeAccess, Act.state_bind]
  simp only [seen]
  cases ep <;> rfl

/-- Settles O30: a word that hget gives is live, so dropping it does what its kind asks for, and a release leaves it live. -/
theorem handleRegisters : Obligations.HandleRegisters := by
  unfold Obligations.HandleRegisters
  refine ⟨⟨?_, ?_, ?_, ?_, ?_⟩, ?_⟩
  · intro f s w hm hw hk hfree
    refine issue_ok hm ?_
    rw [Act.bind_run hw, Act.bind_trapIf_false (by rw [hk]; rfl), Act.bind_freeHandle hfree]
    rfl
  · intro f s w hm hw hk
    refine issue_trap hm ?_
    rw [Act.bind_run hw, Act.bind_trapIf_true (by simpa using hk)]
  · intro f s w hm hw hfree
    refine issue_ok hm ?_
    rw [Act.bind_run hw, Act.bind_freeHandle hfree]
    rfl
  · intro f s w hm hw
    obtain ⟨-, -, kind, live⟩ := hget_live hw
    refine issue_ok hm ?_
    rw [Act.bind_run hw, Act.state_bind]
    by_cases hsee : handleKind w = kindSee
    · have drop := dropWord_live kind live
      rw [if_pos hsee] at drop
      rw [if_neg (by simp [hsee]), if_pos hsee, if_pos hsee]
      exact congrArg (fun u => Except.ok ((), withHandle u f.a 0)) drop
    · obtain ⟨-, -, dies, pkgid, -⟩ := (Performs.releaseSlot s (s.dropScope w) (k := s.cur)).rest
      obtain ⟨stale, away⟩ := stale_congr dies pkgid (s.die s.myDie).wid w
      have drop := dropWord_live (s := s.releaseSlot s.cur (s.dropScope w)) kind (stale.trans live)
      rw [if_pos (by simpa using hsee), if_neg hsee, if_neg hsee]
      rw [away, if_neg hsee] at drop
      refine congrArg (fun u => Except.ok ((), withHandle u f.a 0)) (drop.trans ?_)
      unfold State.dropScope
      split <;> rfl
  · intro f s hwf hr hs r
    refine issue_ok hr.1 ?_
    rw [Act.bind_check hr, Act.state_bind, Act.bind_trapIf_false, wrp_pair _ (RForm.fits_d hwf) (ready_dst_free hr)]
    by_cases hk : handleKind (s.me.handleAt f.a) = 0
    · simp [hk]
    · simp [hs hk]
  · intro f s w hm hw x
    refine ⟨fun hx hs => issue_ok hm ?_, fun hx hs => issue_trap hm ?_, fun hx hep => issue_trap hm ?_,
      fun hx hep => issue_park hm ?_⟩
    · rw [Act.bind_run hw, seeAccess_published hx hs]
    · rw [Act.bind_run hw, seeAccess_abandoned hx hs]
    · rw [Act.bind_run hw, seeAccess_open hx, if_pos (show bitSet f.ep 0 = true from hep)]
    · rw [Act.bind_run hw, seeAccess_open hx, if_neg (show ¬ bitSet f.ep 0 = true from by rw [bitSet, hep]; decide)]

end Sys2Proof.Statements
end

section
/-! SUPPORT. Messages that carry handles (R141, R142), and the creation of tiles (R137). -/

namespace Sys2Proof.Machine

theorem State.take_myWorld {s t : State} {c : Code} {v : Val} (h : s.take c = some (v, t)) :
    (t.die t.myDie).wid = (s.die s.myDie).wid := by
  rcases State.take_cases h with rfl | ⟨c, rfl⟩
  · rfl
  · rfl

theorem State.take_myDie {s t : State} {c : Code} {v : Val} (h : s.take c = some (v, t)) : t.myDie = s.myDie := by
  unfold State.myDie
  rw [State.take_cur h]

theorem State.take_lidOf {s t : State} {c : Code} {v : Val} (h : s.take c = some (v, t)) : t.lidOf t.cur = s.lidOf s.cur := by
  rcases State.take_cases h with rfl | ⟨c, rfl⟩
  · rfl
  · rfl

end Sys2Proof.Machine

namespace Sys2Proof.Statements

open Sys2Proof.Machine

/-- A message leaves its slot. -/
theorem sendMessage_ok (m : Msg) (d : Dest2) (s : State) : sendMessage m d s = .ok ((), messageSent s m d) := rfl

theorem coordSlot_eq (b : Word) : coordSlot b = b.toNat % 4 := by
  simp [coordSlot]

theorem destWellFormed_checks {b c : Word} (h : DestWellFormed b c) :
    (b.extractLsb' 2 6 != 0 || c.extractLsb' 9 23 != 0 || (!c.getLsbD 8 && (c.extractLsb' 0 8).toNat != 0)) = false := by
  obtain ⟨hb, hc, hp⟩ := h
  have b0 : b.extractLsb' 2 6 = 0 := BitVec.eq_of_toNat_eq (by simpa [Nat.shiftRight_eq_div_pow] using hb)
  have c0 : c.extractLsb' 9 23 = 0 := BitVec.eq_of_toNat_eq (by
    have := c.isLt
    simp [Nat.shiftRight_eq_div_pow]
    omega)
  rw [b0, c0]
  cases hbit : c.getLsbD 8 with
  | true => rfl
  | false =>
    have := hp hbit
    simp
    omega

theorem boundedWait_state (w : Wait) (limit : Word) (s t : State) : boundedWait w limit s = boundedWait w limit t := by
  unfold boundedWait
  split
  · rfl
  · rfl

theorem boundedWait_parks {w : Wait} {limit : Word} {s : State} (h : limit ≠ 0) :
    boundedWait w limit s = .error (.park { w with limit := some limit }) := by
  rw [boundedWait, if_neg h]
  rfl

theorem FreeHandle.take {s t : State} {code c : Code} {v : Val} (h : FreeHandle s code) (ht : s.take c = some (v, t)) :
    FreeHandle t code := by
  unfold FreeHandle
  rw [State.take_me ht]
  exact h

theorem bne_decide (a b : Nat) : (a != b) = decide (a ≠ b) := by
  by_cases h : a = b
  · simp [h]
  · simp [h]

/-- Settles O31: each test of R141 and R142 goes through, and the state is what the last steps make of it. -/
theorem handleMessages : Obligations.HandleMessages := by
  unfold Obligations.HandleMessages
  refine ⟨?_, ?_, ?_⟩
  · intro f s s1 s2 b c w hr hb hc pb pc hw wf d hreach hlive hfull
    have low : (c.w.extractLsb' 0 8).toNat = c.w.toNat % 256 := by simp
    have cur : s2.cur = s.cur := (State.take_cur hc).trans (State.take_cur hb)
    refine issue_ok hr.1 ?_
    rw [Act.bind_check hr, Act.bind_rd hb, Act.bind_rd hc, Act.bind_trapIf_false pb, Act.bind_trapIf_false pc,
      Act.bind_run hw, Act.state_bind, Act.bind_trapIf_false, Act.bind_trapIf_false, Act.bind_parkIf_false hfull]
    · rw [Act.bind_run (sendMessage_ok _ _ _), setHandleAt_ok, low, coordSlot_eq, cur, bne_decide]
      rfl
    · have checks := destWellFormed_checks wf
      rw [low] at checks ⊢
      have live : s2.destLive (s2.die s2.myDie).wid d = true := by
        rw [State.take_myWorld hc, State.take_myWorld hb]
        exact hlive
      rw [checks]
      exact congrArg (fun x => !x) live
    · rw [low]
      cases hbit : c.w.getLsbD 8 with
      | false => rfl
      | true => exact hreach hbit
  · intro f s s1 lim i k m w hr ha pa hfree hsel hm hk
    refine issue_ok hr.1 ?_
    rw [Act.bind_check hr, Act.bind_rd ha, Act.bind_trapIf_false pa, Act.bind_freeHandle (hfree.take ha), Act.state_bind]
    have core : (s1.core s1.myCore).handleMsg (slotNumber s1.cur) = some i := by
      rw [State.take_myCore ha, State.take_cur ha]
      exact hsel
    have got : ((s1.core s1.myCore).inbox.getD i {}) = m := by
      rw [State.take_myCore ha, List.getD_eq_getElem?_getD, hm]
      rfl
    simp only [core, got, hk]
    rw [Act.bind_run (setHandleAt_ok _ _ _), ← State.take_myCore ha]
    rfl
  · intro f s s1 lim hr ha pa hfree hsel
    have run : execHrecv f s = issue (.hrecv f) (boundedWait (waitInbox lim.w) lim.w) s := by
      refine issue_congr ?_
      rw [Act.bind_check hr, Act.bind_rd ha, Act.bind_trapIf_false pa, Act.bind_freeHandle (hfree.take ha), Act.state_bind]
      have core : (s1.core s1.myCore).handleMsg (slotNumber s1.cur) = none := by
        rw [State.take_myCore ha, State.take_cur ha]
        exact hsel
      simp only [core]
      exact boundedWait_state _ _ _ _
    show execHrecv f s = _
    rw [run]
    split
    · rename_i h0
      rw [h0]
      exact issue_trap hr.1 rfl
    · rename_i h0
      exact issue_park hr.1 (boundedWait_parks h0)

/-! ## A free entry of a table -/

/-- The search for a free entry goes round the table, and ends on one that is not in use where there is one. -/
theorem freeEntryFrom_free {s : State} {die index n m : Nat} (hm : m < n)
    (hfree : (s.entry (die * 65536 + (index + m) % 65536)).used = false) (hi : index < 65536) :
    s.freeEntryFrom die index n < 65536 ∧ (s.entry (die * 65536 + s.freeEntryFrom die index n)).used = false := by
  induction n generalizing index m with
  | zero => omega
  | succ n ih =>
    unfold State.freeEntryFrom
    split
    · rename_i used
      cases m with
      | zero =>
        rw [Nat.add_zero, Nat.mod_eq_of_lt hi, used] at hfree
        cases hfree
      | succ m =>
        refine ih (m := m) (by omega) ?_ (Nat.mod_lt _ (by decide))
        rw [show ((index + 1) % 65536 + m) % 65536 = (index + (m + 1)) % 65536 by omega]
        exact hfree
    · exact ⟨hi, eq_false_of_ne_true ‹_›⟩

/-- A value that is not the one of an unlisted key is listed. -/
theorem mem_of_get {α : Type} {d : Nat → α} {m : Assoc α} {k : Nat} {P : α → Prop} (hd : ¬ P (d k)) (h : P (m.get d k)) :
    ∃ v, (k, v) ∈ m ∧ P v := by
  induction m with
  | nil => exact absurd h hd
  | cons e m ih =>
    unfold Assoc.get at h
    split at h
    · rename_i same
      exact ⟨_, List.mem_cons.2 (.inl (by rw [← same])), h⟩
    · obtain ⟨v, hv, hp⟩ := ih h
      exact ⟨v, List.mem_cons_of_mem _ hv, hp⟩

/-- A table with fewer than 65,536 entries in use has one that is not. -/
theorem exists_unused {s : State} {die : Nat} (h : s.entriesFree die 1 = true) :
    ∃ j < 65536, (s.entry (die * 65536 + j)).used = false := by
  by_contra hall
  push Not at hall
  have listed : ∀ j ∈ List.range 65536, j ∈ (((s.die die).handles.filter (fun e => e.2.used)).map Prod.fst) := by
    intro j hj
    have used := hall j (List.mem_range.1 hj)
    obtain ⟨v, hv⟩ := mem_of_get (d := entryDefault) (m := (s.die die).handles) (k := j) (P := fun x => x.used = true) Bool.false_ne_true (by
      rw [State.entry, show (die * 65536 + j) / 65536 = die by have := List.mem_range.1 hj; omega,
        show (die * 65536 + j) % 65536 = j by have := List.mem_range.1 hj; omega] at used
      simpa using used)
    exact List.mem_map.2 ⟨(j, v), List.mem_filter.2 ⟨hv.1, hv.2⟩, rfl⟩
  have := (List.nodup_range.subperm listed).length_le
  simp [State.entriesFree, State.usedEntries] at h this
  omega

theorem newEntry_ok {s : State} {die : Nat} (h : s.entriesFree die 1 = true) :
    ∃ e, newEntry die s = .ok (e, { s with draws := s.draws + 1 }) ∧ e / 65536 = die ∧ (s.entry e).used = false := by
  obtain ⟨j, hj, free⟩ := exists_unused h
  have start := Nat.mod_lt (Config.entryChoice s.draws) (by decide : 0 < 65536)
  obtain ⟨lt, unused⟩ := freeEntryFrom_free (s := { s with draws := s.draws + 1 }) (die := die) (n := 65536)
    (m := (j + 65536 - Config.entryChoice s.draws % 65536) % 65536) (index := Config.entryChoice s.draws % 65536)
    (Nat.mod_lt _ (by decide)) (by
      rw [show (Config.entryChoice s.draws % 65536 + (j + 65536 - Config.entryChoice s.draws % 65536) % 65536) % 65536 = j by omega]
      exact free) start
  exact ⟨_, rfl, by omega, unused⟩


/-- Settles O29: an entry is free, the search finds one, and every test of R137 goes through. -/
theorem tilesAreCreated : Obligations.TilesAreCreated := by
  unfold Obligations.TilesAreCreated
  intro i f scratch s s1 len hi hr ha b pb pl hf1 hf2 hfits hfree
  have named : exec i s = issue i (newTile f scratch) s := by
    unfold newTileOf at hi
    split at hi <;> cases hi
    · rfl
    · rfl
  obtain ⟨e, run, die, unused⟩ := newEntry_ok hfree
  refine ⟨e, _, die, unused, rfl, ?_⟩
  rw [named]
  obtain ⟨base, pos, mult, hend⟩ := hfits
  refine issue_ok hr.1 ?_
  rw [newTile, Act.bind_check hr, Act.bind_rdp, Act.bind_rd ha, Act.bind_trapIf_false pb, Act.bind_trapIf_false pl,
    Act.bind_freeHandle (hf1.take ha), Act.bind_freeHandle (hf2.take ha), Act.bind_trapIf_false, Act.bind_trapIf_false, Act.bind_trapIf_false, Act.state_bind, Act.bind_trapIf_false,
    Act.bind_run (State.take_myDie ha ▸ run)]
  · rw [← State.take_myWorld ha, ← State.take_myCore ha, ← State.take_lidOf ha]
    rfl
  · rw [State.take_myDie ha, hfree]
    rfl
  · cases scratch with
    | false => rfl
    | true => simpa using hend
  · cases scratch with
    | false => simpa using hend
    | true => rfl
  · rw [show (s.me.pair f.a.toNat).w.toNat % 64 = 0 from base, mult]
    simp
    omega

end Sys2Proof.Statements
end

section
/-! SUPPORT. The ring instructions (R144 to R150). -/

namespace Sys2Proof.Machine

open Sys2Proof.Statements

/-! ## What the table of tiles leaves of the running slot -/

theorem State.cur_modLaunch (s : State) (lid : Nat) (f : Launch → Launch) : (s.modLaunch lid f).cur = s.cur := by
  unfold State.modLaunch
  split
  · rfl
  · rfl

theorem State.cur_retireEntry (s : State) (e : Nat) : (s.retireEntry e).cur = s.cur := by
  unfold State.retireEntry
  simp only
  split
  · split
    · rfl
    · split
      · exact State.cur_modLaunch _ _ _
      · split
        · rfl
        · rfl
  · rfl

theorem State.cur_dropSee (s : State) (e : Nat) : (s.dropSee e).cur = s.cur := State.cur_retireEntry _ _

theorem State.cur_deconfigure (s : State) (k q : Nat) : (s.deconfigure k q).cur = s.cur := by
  have each : ∀ (l : Assoc RingSlot) (u : State), (l.foldl (fun s e =>
      let x := e.2
      let s := s.modEntry x.entry (fun y => { y with ring := none })
      if x.held && !x.broken then s.dropSee x.entry
      else if !(s.entry x.entry).fill && (s.entry x.entry).sees == 0 then
        s.modEntry x.entry (fun y => { gen := y.gen })
      else s) u).cur = u.cur := by
    intro l
    induction l with
    | nil => exact fun _ => rfl
    | cons e l ih =>
      intro u
      rw [List.foldl_cons, ih]
      simp only
      split
      · exact State.cur_dropSee _ _
      · split
        · rfl
        · rfl
  exact each _ _

theorem firstPoison_none {vs : List Val} (code : Nat) (h : vs.all (fun v => !v.poison) = true) : firstPoison code vs = none := by
  induction vs generalizing code with
  | nil => rfl
  | cons v vs ih =>
    simp only [List.all_cons, Bool.and_eq_true, Bool.not_eq_true'] at h
    rw [firstPoison, h.1]
    exact ih _ h.2

end Sys2Proof.Machine

namespace Sys2Proof.Statements

open Sys2Proof.Machine

theorem modify_ok (f : State → State) (s : State) : Act.modify f s = .ok ((), f s) := rfl

/-- What QCFG does once its eight words are clean and the ring that it replaces is empty. -/
def qcfgRest (f : RForm) (vs : List Val) : Act Unit := do
  let q := ringNumber f.d
  let s ← Act.state
  if vs.all (fun v => v.w == 0) then Act.modify (fun s => s.deconfigure s.cur q)
  else
    match parseRing (fun i => (vs.getD i {}).w) with
    | none => Act.trap .handle f.d.toNat 0x07
    | some r => do
      Act.trapIf (!r.link && s.ringClash s.cur q r) .handle f.d.toNat 0x07
      Act.modify (fun s => s.deconfigure s.cur q)
      let s ← Act.state
      Act.trapIf (!s.entriesFree s.myDie r.nslot) .handle f.d.toNat 0x05
      let slots ← ringEntries s.cur q r 0 r.nslot
      Act.modMe (fun sl => { sl with rings := sl.rings.set ringDefault q { r with slots := slots } })

theorem exec_qcfg {f : RForm} {s : State} (hr : Ready (.qcfg f) (f.srcA 8).each [] s)
    (hp : (s.me.regsFrom f.a.toNat 8).all (fun v => !v.poison) = true)
    (he : s.ringEmpty (s.me.ring (ringNumber f.d)) = true) :
    exec (.qcfg f) s = issue (.qcfg f) (qcfgRest f (s.me.regsFrom f.a.toNat 8)) s := by
  refine issue_congr ?_
  rw [Act.bind_check hr, Act.me_bind]
  simp only [firstPoison_none _ hp]
  rw [Act.state_bind, Act.bind_trapIf_false (by rw [he]; rfl)]
  rfl

/-- What QRSV does once the tail slot of every ring is free. -/
def qrsvRest (f : RForm) (link : Bool) (ts : List (Nat × Nat)) (es : List Nat) (die : Nat) : Act Unit := do
  Act.modify (fun s => reserveAll s ts)
  if 1 < ts.length then
    let j ← newEntry die
    Act.modify (fun s => s.modEntry j (fun y =>
      { used := true, fill := true, gen := y.gen, members := es, len := (s.entry (es.headD 0)).len, scratch := true,
        world := (s.die s.myDie).wid, lid := s.lidOf s.cur }))
    let s ← Act.state
    setHandleAt f.d (s.handleTo kindJoint j)
  else
    let s ← Act.state
    setHandleAt f.d (s.handleTo (if link then kindJoint else kindFill) (es.headD 0))

/-- Rings whose tail slots are all free hold no reservation up, and none of them is a link. -/
theorem tailsFree {s : State} {ts : List (Nat × Nat)} (h : ∀ t ∈ ts, TailFree s t) :
    (ts.map (fun t => (s.slot t.1).ring t.2)).any (fun m => m.configured && m.link) = false
      ∧ (ts.map (fun t => (s.slot t.1).ring t.2)).any
        (fun m => !m.configured || s.ringState m m.t != .free || (m.slotAt m.t).freed == some s.cycle) = false := by
  refine ⟨?_, ?_⟩
  · rw [List.any_eq_false]
    intro m hm
    obtain ⟨t, ht, rfl⟩ := List.mem_map.1 hm
    obtain ⟨-, hlink, -⟩ := h t ht
    simp [hlink]
  · rw [List.any_eq_false]
    intro m hm
    obtain ⟨t, ht, rfl⟩ := List.mem_map.1 hm
    obtain ⟨hconf, -, hstate, hfreed⟩ := h t ht
    simp [hconf, hstate, hfreed]

theorem exec_qrsv {f : RForm} {s s1 : State} {lim : Val} {r : Ring} {ts : List (Nat × Nat)} (hr : Ready (.qrsv f) [f.srcB] [] s)
    (hb : s.take f.b = some (lim, s1)) (pb : lim.poison = false) (hfree : FreeHandle s f.d)
    (hring : s.me.ring (ringNumber f.a) = r) (hts : r.targets s.cur (ringNumber f.a) = ts) (hc : r.configured = true)
    (htail : ∀ t ∈ ts, TailFree s1 t) (hent : (decide (1 < ts.length) && !s1.entriesFree s.myDie 1) = false) :
    exec (.qrsv f) s = issue (.qrsv f) (fun _ => qrsvRest f r.link ts (ts.map s1.tailEntry) s.myDie s1) s := by
  obtain ⟨nolink, free⟩ := tailsFree htail
  refine issue_congr ?_
  rw [Act.bind_check hr, Act.bind_rd hb, Act.bind_trapIf_false pb, Act.state_bind, State.take_me hb, State.take_cur hb,
    State.take_myDie hb, hring, hts, Act.bind_trapIf_false (by rw [hc]; rfl), Act.bind_freeHandle (hfree.take hb),
    Act.bind_trapIf_false (by rw [nolink, Bool.and_false]), if_neg (by rw [free]; decide)]
  exact Act.bind_trapIf_false hent

/-- Settles O33: once the tests of R146 to R150 have gone through, each instruction is a few steps on the ring and its entries. -/
theorem rings : Obligations.Rings := by
  unfold Obligations.Rings
  refine ⟨?_, ?_, ?_, ?_, ?_, ?_⟩
  · intro f s hr vs hp he hz
    rw [exec_qcfg hr hp he]
    refine issue_ok hr.1 ?_
    rw [qcfgRest, Act.state_bind, if_pos hz]
    rfl
  · intro f s s2 r slots hr q vs hp he hz hparse hclash hfree hentries
    rw [exec_qcfg hr hp he]
    refine issue_ok hr.1 ?_
    rw [qcfgRest, Act.state_bind, if_neg (by rw [hz]; decide), hparse]
    simp only
    have here := State.cur_deconfigure s s.cur q
    have entries : ringEntries (s.deconfigure s.cur q).cur q r 0 r.nslot (s.deconfigure s.cur q) = .ok (slots, s2) := by
      rw [here]
      exact hentries
    have room : (!(s.deconfigure s.cur q).entriesFree (s.deconfigure s.cur q).myDie r.nslot) = false := by
      rw [State.myDie, here]
      exact congrArg (fun x => !x) hfree
    rw [Act.bind_trapIf_false, Act.bind_run (modify_ok _ _), Act.state_bind, Act.bind_trapIf_false room, Act.bind_run entries]
    · rfl
    · cases hl : r.link with
      | true => rfl
      | false => exact hclash hl
  · intro f s s1 lim hr hb pb hfree q r ts hc hlen htail t
    rw [exec_qrsv hr hb pb hfree rfl rfl hc htail (Bool.and_eq_false_imp.2 fun h => absurd (of_decide_eq_true h) (Nat.not_lt.2 hlen))]
    refine issue_ok hr.1 ?_
    rw [qrsvRest, Act.bind_run (modify_ok _ _), if_neg (Nat.not_lt.2 hlen), Act.state_bind]
    rfl
  · intro f s s1 s2 lim j hr hb pb hfree q ts hc hlen htail hent hnew t
    rw [exec_qrsv hr hb pb hfree rfl rfl hc htail (by simp [hent])]
    refine issue_ok hr.1 ?_
    rw [qrsvRest, Act.bind_run (modify_ok _ _), if_pos hlen, Act.bind_run hnew, Act.bind_run (modify_ok _ _), Act.state_bind]
    rfl
  · intro f s hm q r hc hl hres hbroken hfree t
    refine issue_ok hm ?_
    rw [Act.state_bind, Act.bind_trapIf_false, Act.bind_trapIf_false, Act.bind_trapIf_false]
    · by_cases hd : f.d = 0
      · rw [if_neg (by rw [hd]; decide), if_pos hd]
        exact congrFun (if_pos hd) t
      · rw [if_pos (by simpa using hd), Act.bind_freeHandle (hfree hd), if_neg hd]
        exact congrFun (if_neg hd) t
    · exact hbroken
    · exact beq_false_of_ne (Nat.ne_of_gt hres)
    · rw [show s.me.ring q = r from rfl, hc, hl]
      rfl
  · intro f s hwf hr hc r
    refine issue_ok hr.1 ?_
    rw [Act.bind_check hr, Act.state_bind, Act.bind_trapIf_false (by rw [hc]; rfl), wrp_pair _ (RForm.fits_d hwf) (ready_dst_free hr)]

end Sys2Proof.Statements
end

section
/-! SUPPORT. Loads and stores through handles (R133, R143, R383). -/

namespace Sys2Proof.Machine

open Sys2Proof.Statements

section
variable {s s1 : State}

theorem translateAs_ok {t : Translator} {va : Nat} {write : Bool} {x : Place × Nat} (hu : t.user = .slot s.cur)
    (h : translateAs t va write s = .ok (x, s1)) : Translated s s1 := by
  unfold translateAs at h
  split at h
  · cases h
  · split at h <;> cases h
    · rename_i hf
      exact translate_found hu hf trivial
    · rename_i hf
      exact translate_found hu hf trivial

theorem tileTarget_ok {e off n : Nat} {write : Bool} {ps : List Piece} (h : tileTarget e off n write s = .ok (ps, s1)) :
    Translated s s1 := by
  unfold tileTarget at h
  rw [Act.state_bind] at h
  split at h
  · cases h
    exact .refl s
  · obtain ⟨x, u, hx, hu⟩ := Act.bind_ok.1 h
    cases hu
    exact translateAs_ok rfl hx

end

/-- An access inside its tile and aligned passes. -/
theorem checkTileOffset_ok {off : Int} {n len : Nat} (h0 : 0 ≤ off) (hend : off + n ≤ len) (hal : off % n = 0) (s : State) :
    checkTileOffset off n len s = .ok ((), s) := by
  rw [checkTileOffset, Act.bind_trapIf_false, Act.trapIf_ok]
  · exact ⟨by rw [hal]; rfl, rfl⟩
  · simp only [Bool.or_eq_false_iff, decide_eq_false_iff_not]
    omega

theorem checkTileOffset_prot {off : Int} {n len : Nat} (h : off < 0 ∨ (len : Int) < off + n) (s : State) :
    checkTileOffset off n len s = .error (.trap .prot (BitVec.ofInt 64 off) 0x130) := by
  rw [checkTileOffset, Act.bind_trapIf_true]
  simpa using h

theorem checkTileOffset_align {off : Int} {n len : Nat} (h0 : 0 ≤ off) (hend : off + n ≤ len) (hal : off % n ≠ 0) (s : State) :
    checkTileOffset off n len s = .error (.trap .align (BitVec.ofInt 64 off) (BitVec.ofNat 64 n)) := by
  rw [checkTileOffset, Act.bind_trapIf_false]
  · exact Act.trapIf_true (by simpa using hal)
  · simp only [Bool.or_eq_false_iff, decide_eq_false_iff_not]
    omega

end Sys2Proof.Machine

namespace Sys2Proof.Statements

open Sys2Proof.Machine

/-- What HLD leaves in flight for a tile of another package. -/
def hldAway (f : MForm) (see : Bool) (dest : Dest) : Act Unit := do
  markEmpty f.d f.regs
  startAway f.bytes dest (if see then 1 else 0) (if see then 5 else 0)

/-- A load from a tile of another package leaves the registers. -/
theorem startAway_ok (n : Nat) (dest : Dest) (ord : BitVec 2) (scope : Nat) (s : State) :
    ∃ t, startAway n dest ord scope s = .ok ((), t) ∧ t.cur = s.cur ∧ (t.slot s.cur).regs = s.me.regs :=
  ⟨_, rfl, rfl, added_regs (s := s) rfl⟩

theorem hldAway_ok {f : MForm} {see : Bool} {dest : Dest} {s : State} (hfull : s.me.fullFrom f.d.toNat f.regs = true) :
    ∃ t, hldAway f see dest s = .ok ((), t) ∧ t.cur = s.cur ∧ (t.slot s.cur).regs = (s.me.markEmpty f.d.toNat f.regs).regs := by
  obtain ⟨t, run, cur, regs⟩ := startAway_ok f.bytes dest (if see then 1 else 0) (if see then 5 else 0)
    (s.setMe (s.me.markEmpty f.d.toNat f.regs))
  refine ⟨t, (Act.bind_run (markEmpty_full hfull)).trans run, cur, regs.trans ?_⟩
  rw [State.me_setMe]

/-- What HLD does once its tile is seen. -/
def hldRest (f : MForm) (w : DWord) : Act Unit := do
  let s ← Act.state
  let off := f.off.toInt
  let see := handleKind w == kindSee
  let dest : Dest := .regs (regIndex s.me.mode f.d.toNat) f.regs f.bytes false
  if s.away w then do
    checkTileOffset off f.bytes (Config.remoteLength w)
    awayAccess w
    hldAway f see dest
  else do
    let e := (s.membersOf (handleEntry w)).headD 0
    checkTileOffset off f.bytes (s.entry e).len.toNat
    let ps ← tileTarget e off.toNat f.bytes false
    markEmpty f.d f.regs
    let id ← Act.fresh
    startLoad { id := id, kind := .load, ord := if see then 1 else 0, scope := if see then 4 else 0, pieces := ps,
                evict := f.evict, rdc := f.rdc, dest := dest }

/-- What HST does once its data has been read. -/
def hstRest (f : MForm) (vs : List Val) (w : DWord) : Act Unit := do
  let s ← Act.state
  let off := f.off.toInt
  if s.away w then do
    checkTileOffset off f.bytes (Config.remoteLength w)
    awayAccess w
  else do
    let members := s.membersOf (handleEntry w)
    checkTileOffset off f.bytes (sharedLength s members)
    let ps ← tileTargets off.toNat f.bytes true members
    let id ← Act.fresh
    startStore { id := id, kind := .store, pieces := ps,
                 data := (members.map (fun _ => dataBytes f.bytes vs)).flatten, poison := anyPoison vs,
                 evict := f.evict, rdc := f.rdc }

section
variable {f : MForm} {s s1 : State} {w : DWord}

theorem exec_hld (hr : Ready (.hld f) [] [{ code := f.d, n := f.regs }] s) (hw : hget f.a .live s = .ok (w, s))
    (hsee : handleKind w = kindSee → (s.wordEntry w).state = .published ∧ (s.wordEntry w).settled ≠ some s.cycle) :
    exec (.hld f) s = issue (.hld f) (hldRest f w) s := by
  refine issue_congr ?_
  rw [Act.bind_check hr, Act.bind_run hw]
  by_cases hk : handleKind w = kindSee
  · simp only [hk, beq_self_eq_true, if_true]
    rw [Act.bind_run (seeAccess_published (hsee hk).1 (hsee hk).2), hldRest]
    simp only [hk, beq_self_eq_true, if_true]
    rfl
  · have other : (handleKind w == kindSee) = false := beq_false_of_ne hk
    rw [hldRest]
    simp only [other, Bool.false_eq_true, if_false]
    rfl

theorem exec_hst {vs : List Val} (hr : Ready (.hst f) [f.srcD f.regs] [] s) (hv : readData f.d f.regs s = .ok (vs, s1))
    (hw : hget f.a .fill s1 = .ok (w, s1)) : exec (.hst f) s = issue (.hst f) (fun _ => hstRest f vs w s1) s := by
  refine issue_congr ?_
  rw [Act.bind_check hr, Act.bind_run hv]
  exact Act.bind_run hw

end

/-- How an access to a tile of another package ends, whatever follows it. -/
theorem away_ends {i : Instr} {s0 s : State} {w : DWord} {off : Int} {n : Nat} {rest : Act Unit} {goes : State → Prop}
    (hm : modeLegal i s0.me.xlt = true)
    (run : exec i s0 = issue i (fun _ => (do
      checkTileOffset off n (Config.remoteLength w)
      awayAccess w
      rest) s) s0)
    (hgoes : exec i s0 = issue i (fun _ => rest { s with draws := s.draws + 1 }) s0 → goes { s with draws := s.draws + 1 }) :
    awayEnds i s0 s w off n goes := by
  unfold awayEnds
  rw [run] at hgoes ⊢
  split
  · rename_i h
    exact issue_trap hm (Act.bind_error (checkTileOffset_prot h s))
  rename_i inside
  split
  · exact issue_trap hm (Act.bind_error (checkTileOffset_align (by omega) (by omega) ‹_› s))
  rename_i aligned
  have passes : checkTileOffset off n (Config.remoteLength w) s = .ok ((), s) :=
    checkTileOffset_ok (by omega) (by omega) (by omega) s
  have ends : ∀ e, awayAccess w s = .error e → (do
      checkTileOffset off n (Config.remoteLength w)
      awayAccess w
      rest) s = .error e := fun e he => by rw [Act.bind_run passes, Act.bind_error he]
  split
  · rename_i lost
    refine issue_trap hm (ends _ ?_)
    simp only [awayAccess, State.awayOutcome, State.awayLost, lost, if_true]
    rfl
  rename_i near
  split
  · rename_i down
    refine issue_park hm (ends _ ?_)
    simp only [awayAccess, State.awayOutcome, State.awayLost, if_neg near, down, if_true]
  rename_i up
  split
  · rename_i page code fault
    refine issue_trap hm (ends _ ?_)
    simp only [awayAccess, State.awayOutcome, State.awayLost, if_neg near, if_neg up, fault]
  · rename_i fault
    refine hgoes (issue_congr ?_)
    rw [Act.bind_run passes]
    refine Act.bind_run (x := ()) ?_
    simp only [awayAccess, State.awayOutcome, State.awayLost, if_neg near, if_neg up, fault]

/-- The tests of an access to a tile of this package (R143). -/
theorem tile_tests {i : Instr} {a : Act Unit} {s s1 : State} {off : Int} {n len : Nat} (hm : modeLegal i s.me.xlt = true)
    (h : ∃ rest, a s = (checkTileOffset off n len >>= rest) s1) :
    (off < 0 ∨ (len : Int) < off + n → issue i a s = traps i s .prot (BitVec.ofInt 64 off) 0x130)
      ∧ (0 ≤ off ∧ off + n ≤ len → off % n ≠ 0 → issue i a s = traps i s .align (BitVec.ofInt 64 off) (BitVec.ofNat 64 n)) := by
  obtain ⟨rest, run⟩ := h
  exact ⟨fun hout => issue_trap hm (run.trans (Act.bind_error (checkTileOffset_prot hout s1))),
    fun ⟨h0, hend⟩ hal => issue_trap hm (run.trans (Act.bind_error (checkTileOffset_align h0 hend hal s1)))⟩

/-- Settles O32: the tests of R143 come first, then the access, at home or away. -/
theorem handleAccesses : Obligations.HandleAccesses := by
  unfold Obligations.HandleAccesses
  refine ⟨?_, ?_, ?_, ?_, ?_⟩
  · intro f s s1 w ps hr hw ha hsee e hin htarget hfull
    obtain ⟨h0, hend, hal⟩ := hin
    rw [exec_hld hr hw (fun hk => by rw [State.wordEntry, if_neg (by rw [ha]; decide)]; exact hsee hk)]
    refine issue_ok hr.1 ?_
    rw [hldRest, Act.state_bind]
    simp only [ha, Bool.false_eq_true, if_false]
    rw [Act.bind_run (checkTileOffset_ok h0 hend hal s), Act.bind_run htarget, Act.bind_run (markEmpty_full hfull),
      ← (tileTarget_ok htarget).regIndex]
    exact congrArg (fun x => Except.ok ((), (awaiting s1 f.d f.regs).sendLoad x)) (by simp)
  · intro f s s1 s2 w vs ps hr hv hw ha ms hin htarget
    obtain ⟨h0, hend, hal⟩ := hin
    rw [exec_hst hr hv hw]
    refine issue_ok hr.1 ?_
    rw [hstRest, Act.state_bind]
    simp only [ha, Bool.false_eq_true, if_false]
    rw [Act.bind_run (checkTileOffset_ok h0 hend hal s1), Act.bind_run htarget]
    rfl
  · intro i f s s1 w len h ha off
    rcases h with ⟨rfl, hr, rfl, hw, hsee, rfl⟩ | ⟨rfl, hr, ⟨vs, hv⟩, hw, rfl⟩
    · rw [exec_hld hr hw (fun hk => by rw [State.wordEntry, if_neg (by rw [ha]; decide)]; exact hsee hk)]
      refine tile_tests (s1 := s1) hr.1 ⟨?rest, ?tests⟩
      case tests => rw [hldRest, Act.state_bind, if_neg (by rw [ha]; decide)]
    · rw [exec_hst hr hv hw]
      refine tile_tests (s1 := s1) hr.1 ⟨?rest2, ?tests2⟩
      case tests2 => rw [hstRest, Act.state_bind, if_neg (by rw [ha]; decide)]
  · intro f s w hr hw ha hsee hfull
    have run := exec_hld hr hw (fun hk => ⟨hsee hk, by rw [State.wordEntry, if_pos ha]; exact nofun⟩)
    refine away_ends (rest := hldAway f (handleKind w == kindSee) (.regs (regIndex s.me.mode f.d.toNat) f.regs f.bytes false)) hr.1
      (run.trans (issue_congr ?_)) fun goes => ?_
    · rw [hldRest, Act.state_bind, if_pos ha]
    · obtain ⟨u, does, cur, regs⟩ := hldAway_ok (s := { s with draws := s.draws + 1 }) hfull
      refine ⟨_, goes.trans (issue_ok hr.1 does), ?_, ?_⟩
      · rw [State.retireAt_me _ _ cur, ← regs]
        exact congrArg (fun k => (u.slot k).regs) cur
      · rw [State.retireAt_me _ _ cur]
        rfl
  · intro f s s1 w vs hr hv hw ha
    refine away_ends (rest := pure ()) hr.1 ((exec_hst hr hv hw).trans (issue_congr ?_)) fun goes => ?_
    · rw [hstRest, Act.state_bind, if_pos ha]
      simp only [bind_pure_unit]
    · rw [goes]
      exact issue_ok hr.1 rfl

end Sys2Proof.Statements
end

section
/-! SUPPORT. Messages: SEND, RECV, and what arrives (R229 to R236, R366, R383). -/

namespace Sys2Proof.Machine

open Sys2Proof.Statements

/-! ## What sending leaves of an inbox -/

/-- Two states agree on an inbox. -/
def SameInbox (core : Nat) (s t : State) : Prop := (t.core core).inbox = (s.core core).inbox

theorem SameInbox.pumpQueue (core c n : Nat) (s : State) : SameInbox core s (State.pumpQueue c n s) := by
  induction n generalizing s with
  | zero => rfl
  | succ n ih =>
    unfold State.pumpQueue
    split
    · rfl
    · split
      · rfl
      · refine (ih _).trans ?_
        by_cases h : core = c
        · subst h
          exact (congrArg Core.inbox (State.core_setCore_same s core _)).trans rfl
        · exact congrArg Core.inbox (State.core_setCore_ne s _ h)

theorem State.cores_modLaunch (s : State) (lid : Nat) (f : Launch → Launch) : (s.modLaunch lid f).cores = s.cores := by
  unfold State.modLaunch
  split
  · rfl
  · rfl

theorem SameInbox.modLaunch (core : Nat) (s : State) (lid : Nat) (f : Launch → Launch) : SameInbox core s (s.modLaunch lid f) := by
  unfold SameInbox State.core
  rw [State.cores_modLaunch]

/-- The inbox of a core whose launch is not saved stands with the core. -/
theorem inboxCore_unsaved {s : State} {lid : Nat} (h : (s.launches.find lid).all (fun l => !l.saved) = true) (core : Nat) :
    s.inboxCore lid core = s.core core := by
  unfold State.inboxCore
  split
  · rename_i l hl
    rw [hl] at h
    rw [if_neg (by simpa using h)]
  · rfl

theorem modInboxCore_unsaved {s : State} {lid : Nat} (h : (s.launches.find lid).all (fun l => !l.saved) = true) (core : Nat)
    (f : Core → Core) : s.modInboxCore lid core f = s.modCore core f := by
  unfold State.modInboxCore
  split
  · rename_i l hl
    rw [hl] at h
    rw [if_neg (by simpa using h)]
  · rfl

end Sys2Proof.Machine

namespace Sys2Proof.Statements

open Sys2Proof.Machine

/-- A message of the slot's outbox, sent. -/
def staged (s : State) (d : Dest2) (tag : Byte) : State :=
  messageSent (s.releaseSlot s.cur (if d.remote.isSome then 5 else 4))
    { kind := .data, header := headerOf s.cur (d.remote.any (fun p => p != s.pkgid.toNat)) false tag, words := s.me.outbox } d

/-- What SEND does once its destination is known. -/
theorem sendStaged_ok {d : Dest2} {tag : Byte} {s : State} (ho : s.me.outbox ≠ [])
    (hl : s.destLive (s.die s.myDie).wid d = true) (hq : s.sendQueueFull = false) :
    sendStaged d tag s = .ok ((), (staged s d tag).setMe { (staged s d tag).me with outbox := [] }) := by
  rw [sendStaged, Act.state_bind, Act.me_bind, Act.bind_trapIf_false, Act.bind_trapIf_false, Act.bind_parkIf_false hq]
  · rfl
  · rw [hl]
    rfl
  · simpa using ho

theorem sendWords {a b : Word} (ha : a.toNat / 4 % 64 = 0) (hb : b.toNat < 256) :
    (a.extractLsb' 2 6 != 0 || b.extractLsb' 8 24 != 0) = false ∧ b.extractLsb' 0 8 = BitVec.ofNat 8 b.toNat := by
  have a0 : a.extractLsb' 2 6 = 0 := BitVec.eq_of_toNat_eq (by simpa [Nat.shiftRight_eq_div_pow] using ha)
  have b0 : b.extractLsb' 8 24 = 0 := BitVec.eq_of_toNat_eq (by
    simp [Nat.shiftRight_eq_div_pow]
    omega)
  refine ⟨by rw [a0, b0]; rfl, BitVec.eq_of_toNat_eq (by simp)⟩

/-- A message whose turn has come and whose inbox has a place. -/
theorem exec_entersInbox {s : State} {m : FlyingMsg} (hs : s.subject = [m.id])
    (hm : s.flying.find? (fun x => x.id == m.id) = some m)
    (hfirst : s.flying.all (fun x => decide (m.id ≤ x.id) || x.src != m.src || x.dst != m.dst || x.remote != m.remote) = true)
    (hremote : m.remote = none) (hsaved : (s.launches.find m.lid).all (fun l => !l.saved) = true)
    (hroom : (s.core m.dst).inbox.length < 64) :
    exec .messageEntersInbox s = .next (((({ s with flying := s.flying.filter (fun x => x.id != m.id) } : State).modCore m.dst
      (fun c => { c with inbox := c.inbox ++ [m.msg] })).countReceived m.lid).pump (coreOfSlot m.src)) := by
  have first : s.flying.any (fun x =>
      decide (x.id < m.id) && x.src == m.src && x.dst == m.dst && x.remote == m.remote) = false := by
    rw [List.any_eq_false]
    intro x hx
    have later := List.all_eq_true.1 hfirst x hx
    simp only [Bool.or_eq_true, decide_eq_true_eq, bne_iff_ne, ne_eq] at later
    simp only [Bool.and_eq_true, decide_eq_true_eq, beq_iff_eq, not_and]
    intro ⟨⟨lt, src⟩, dst⟩ remote
    exact ((later.resolve_right (not_not.2 remote)).resolve_right (not_not.2 dst)).elim (fun h => absurd lt (Nat.not_lt.2 h))
      (fun h => h src)
  have gone : ({ s with flying := s.flying.filter (fun x => x.id != m.id) } : State).modInboxCore m.lid m.dst
      (fun c => { c with inbox := c.inbox ++ [m.msg] })
      = ({ s with flying := s.flying.filter (fun x => x.id != m.id) } : State).modCore m.dst
        (fun c => { c with inbox := c.inbox ++ [m.msg] }) :=
    modInboxCore_unsaved (s := { s with flying := s.flying.filter (fun x => x.id != m.id) }) hsaved _ _
  rw [hremote] at first
  simp only [exec, execMessageEntersInbox, hs, hm, hremote, inboxCore_unsaved hsaved, hroom, first, decide_true, Bool.not_false,
    Bool.and_self, if_true, Option.isSome_none, Bool.false_eq_true, if_false]
  rw [← hs]
  exact congrArg (fun u : State => Host.Outcome.next ((u.countReceived m.lid).pump (coreOfSlot m.src))) gone

/-- Settles O43: each send is a few steps after its tests; what arrives enters the inbox, and what follows leaves that alone. -/
theorem messages : Obligations.Messages := by
  unfold Obligations.Messages
  refine ⟨⟨?_, ?_, ?_⟩, ?_, ?_, ?_, ?_⟩
  · intro f s s1 s2 a b hr ha hb pa pb wa wb ho d hl hq t
    obtain ⟨checks, tag⟩ := sendWords wa wb
    have me := State.take_me_two ha hb
    refine issue_ok hr.1 ?_
    rw [Act.bind_check hr, Act.bind_rd ha, Act.bind_rd hb, Act.bind_trapIf_false pa, Act.bind_trapIf_false pb,
      Act.bind_trapIf_false checks, sendStaged_ok, tag, staged, me, State.take_cur hb, State.take_cur ha]
    · rfl
    · rw [me]
      exact ho
    · rw [State.take_myWorld hb, State.take_myWorld ha]
      exact hl
    · exact hq
  · intro ch f s hm e d he ho hl hq t
    refine issue_ok hm ?_
    rw [Act.state_bind, Act.bind_trapIf_false (by rw [show (s.route s.cur ch.toNat).getLsbD 63 = true from he]; rfl)]
    exact sendStaged_ok ho hl hq
  · intro f s s1 s2 a lim i m hwf hr ha hb pa pl wa hsel
    have here : s2.myCore = s.myCore := (State.take_myCore hb).trans (State.take_myCore ha)
    rw [← here] at hsel ⊢
    obtain ⟨hi, hcase⟩ := hsel
    have got : (s2.core s2.myCore).inbox.getD i {} = m := by
      rw [List.getD_eq_getElem?_getD, hi]
      rfl
    have full : (s2.modCore s2.myCore (fun c => { c with current := some i })).me.fullFrom f.d.toNat 1 = true := by
      show s2.me.fullFrom f.d.toNat 1 = true
      rw [State.take_me_two ha hb]
      exact ready_dst_full (of_decide_eq_true (p := f.d.toNat ≤ 63) (RForm.fits_d hwf)) hr
    refine issue_ok hr.1 ?_
    rw [Act.bind_check hr, Act.bind_rd ha, Act.bind_rd hb, Act.bind_trapIf_false pa, Act.bind_trapIf_false pl,
      Act.bind_trapIf_false, Act.state_bind]
    · rcases hcase with ⟨hcur, htag⟩ | ⟨hcur, hselect⟩
      · simp only [hcur]
        rw [Act.bind_trapIf_false (by rw [hi]; simp [htag])]
        simp only [Option.orElse_some, Option.getD_some, got]
        exact oweRegs_full full
      · simp only [hcur, hselect, Option.isNone_some, Bool.false_eq_true, if_false, Option.orElse_none, Option.getD_some, got]
        exact oweRegs_full full
    · simp [high_bits_zero wa]
  · intro s m hs hm hfirst hremote hsaved hroom
    refine ⟨_, exec_entersInbox hs hm hfirst hremote hsaved hroom, ?_⟩
    refine (SameInbox.pumpQueue m.dst _ 4 _).trans ((SameInbox.modLaunch m.dst _ _ _).trans ?_)
    rw [State.modCore_eq, State.core_setCore_same]
    rfl
  · intro s wid dst header words hs
    refine ⟨fun hport => ?_, fun lid hport hlid hsaved hroom => ?_⟩
    · simp [exec, execMessageEntersInbox, hs, State.arrive, State.messageFrom, State.fromPackage, hport]
    · have inbox := inboxCore_unsaved hsaved dst
      refine ⟨((s.modCore dst (fun c => { c with inbox := c.inbox ++ [
          { kind := .data, header := BitVec.ofNat 32 header
            words := words.map (fun x => ({ w := BitVec.ofNat 32 x } : Val)) }] })).countSent lid).countReceived lid, ?_, ?_⟩
      · simp only [exec, execMessageEntersInbox, hs, State.arrive, State.messageFrom, State.fromPackage, hport, if_true, hlid, inbox,
          if_neg (Nat.not_le.2 hroom), modInboxCore_unsaved hsaved]
      · refine (SameInbox.modLaunch dst _ _ _).trans ((SameInbox.modLaunch dst _ _ _).trans ?_)
        rw [State.modCore_eq, State.core_setCore_same]
  · intro s wid w hs hport ha hst hk
    simp [exec, execMessageEntersInbox, hs, State.arrive, State.fromPackage, hport, ha, hst, State.handleFrom, dropWord_live hk hst]
  · intro s core dir n w hs hn hw
    simp only [exec, execPortWordDelivery, hs]
    refine ⟨_, rfl, ?_⟩
    have got : ((s.core core).port dir).getD n { val := {}, arrived := true } = w := by
      rw [List.getD_eq_getElem?_getD, hw]
      rfl
    rw [State.modCore_eq, State.core_setCore_same, hn]
    simp only [got]
    exact Assoc.get_set_same _ _ _ _

end Sys2Proof.Statements
end

section
/-! SUPPORT. What a translation may touch, whatever it ends with (R99 to R109). -/

namespace Sys2Proof.Machine

/-- A translation's traces: the TLB, what it takes, free choices, requests to the host, and failures and grants given out. -/
def Walks (s t : State) : Prop := ∃ slots tlb lag draws ats hostFails hostOnce nextId, t = { s with
  slots := slots, tlb := tlb, lag := lag, draws := draws, ats := ats, hostFails := hostFails, hostOnce := hostOnce, nextId := nextId }

theorem Walks.refl (s : State) : Walks s s := ⟨_, _, _, _, _, _, _, _, rfl⟩

theorem Walks.trans {s t u : State} (h : Walks s t) (g : Walks t u) : Walks s u := by
  obtain ⟨_, _, _, _, _, _, _, _, rfl⟩ := h
  obtain ⟨_, _, _, _, _, _, _, _, rfl⟩ := g
  exact ⟨_, _, _, _, _, _, _, _, rfl⟩

theorem Walked.walks {s t : State} (h : Walked s t) : Walks s t := by
  obtain ⟨_, _, _, rfl⟩ := h
  exact ⟨_, _, _, _, _, _, _, _, rfl⟩

section
variable (s : State) (t : Translator) (va : Nat) (write : Bool)

theorem Walks.foldl {α : Type} {f : State → α → State} (hf : ∀ s a, Walks s (f s a)) (l : List α) (s : State) :
    Walks s (l.foldl f s) := by
  induction l generalizing s with
  | nil => exact .refl s
  | cons a l ih => exact (hf s a).trans (ih _)

theorem Walks.failUsers (us : List AtsUser) (c : Cause) (code : Nat) : Walks s (s.failUsers us va c code) := by
  refine .foldl (fun s u => ?_) us s
  split
  · exact ⟨_, _, _, _, _, _, _, _, rfl⟩
  · exact .refl s
  · exact ⟨_, _, _, _, _, _, _, _, rfl⟩

theorem Walks.requestAts (pasid : Nat) : Walks s (s.requestAts t pasid va write) := by
  unfold State.requestAts
  split
  · exact ⟨_, _, _, _, _, _, _, _, rfl⟩
  · exact ⟨_, _, _, _, _, _, _, _, rfl⟩

theorem Walks.sendPri (r : AtsReq) : Walks s (s.sendPri r) := by
  unfold State.sendPri
  split
  · exact Walks.trans ⟨_, _, _, _, _, _, _, _, rfl⟩ (.failUsers _ _ _ _ _)
  · split
    · exact ⟨_, _, _, _, _, _, _, _, rfl⟩
    · exact ⟨_, _, _, _, _, _, _, _, rfl⟩

theorem Walks.requestPri (pasid : Nat) : Walks s (s.requestPri t pasid va write) := by
  unfold State.requestPri
  simp only
  split
  · exact (Walks.requestAts s t va write pasid).trans (Walks.trans ⟨_, _, _, _, _, _, _, _, rfl⟩ (.sendPri _ _))
  · exact .requestAts s t va write pasid

theorem Walks.takeFailure : Walks s (s.takeFailure t va).2 := by
  unfold State.takeFailure
  split
  · split
    · simp only
      split
      · exact ⟨_, _, _, _, _, _, _, _, rfl⟩
      · exact ⟨_, _, _, _, _, _, _, _, rfl⟩
    · exact .refl s
  · split
    · exact ⟨_, _, _, _, _, _, _, _, rfl⟩
    · exact .refl s

theorem Walks.takeOnce : Walks s (s.takeOnce t va write).2 := by
  unfold State.takeOnce
  split
  · exact .refl s
  · split
    · exact ⟨_, _, _, _, _, _, _, _, rfl⟩
    · exact .refl s

theorem Walks.hostTranslate : Walks s (s.hostTranslate t va write).2 := by
  unfold State.hostTranslate
  split
  · exact .refl s
  · split
    · exact .refl s
    · have failed := Walks.takeFailure s t va
      split
      · rename_i h
        rw [h] at failed
        exact failed
      · rename_i u h
        rw [h] at failed
        have once := Walks.takeOnce u t va write
        split
        · rename_i g
          rw [g] at once
          exact failed.trans once
        · rename_i g
          rw [g] at once
          exact failed.trans (once.trans (.requestAts _ _ _ _ _))

theorem Walks.translateBy (e : TlbEntry) : Walks s (s.translateBy e t va write).2 := by
  unfold State.translateBy
  split
  · split
    · exact .refl s
    · exact .refl s
  · generalize (if write = true then e.w else e.r) = permitted
    split
    · exact .refl s
    · split
      · exact .refl s
      · have failed := Walks.takeFailure s t va
        split
        · rename_i h
          rw [h] at failed
          exact failed
        · rename_i u h
          rw [h] at failed
          split
          · exact failed
          · exact failed.trans (.requestPri _ _ _ _ _)

theorem Walks.translate : Walks s (s.translate t va write).2 := by
  unfold State.translate
  split
  · exact .refl s
  · split
    · refine Walks.trans ?_ (.translateBy _ _ _ _ _)
      split
      · exact .refl s
      · exact ((Walked.fillMicro s t _).trans (Walked.addLag _ t 6)).walks
    · have walked := (Walked.addLag s t (s.walkCycles t va)).walks
      simp only
      split
      · exact walked
      · exact walked.trans (.hostTranslate _ _ _ _)
      · exact (walked.trans ((Walked.fillTlb _ _).trans (Walked.fillMicro _ t _)).walks).trans (.translateBy _ _ _ _ _)

end

end Sys2Proof.Machine
end

section
/-! SUPPORT. Tasks: starts, spills, steals, and waits for a word (R268 to R277). -/

namespace Sys2Proof.Machine

open Sys2Proof.Statements

theorem takeEntry_fields (s : State) (core i : Nat) : ∃ agenda, s.takeEntry core i =
    { s.modCore core (fun c => { c with deque := c.deque.eraseIdx i }) with agenda := agenda } := by
  unfold State.takeEntry
  simp only
  split
  · exact ⟨_, rfl⟩
  · exact ⟨_, rfl⟩

theorem takeEntry_deque (s : State) (core i : Nat) :
    ((s.takeEntry core i).core core).deque = (s.core core).deque.eraseIdx i := by
  obtain ⟨agenda, h⟩ := takeEntry_fields s core i
  rw [h]
  exact (congrArg Core.deque (State.core_setCore_same s core _)).trans rfl

theorem deque_modCore {f : Core → Core} (hf : ∀ c, (f c).deque = c.deque) (s : State) (k j : Nat) :
    ((s.modCore k f).core j).deque = (s.core j).deque := by
  rw [State.modCore_eq, State.core_setCore]
  split
  · rename_i same
    subst same
    exact hf _
  · rfl

/-- Free choices and cores stand beside the slots. -/
theorem slot_beside (s : State) (n a b k : Nat) (f g : Core → Core) :
    ((({ s with draws := n } : State).modCore a f).modCore b g).slot k = s.slot k := rfl

/-- A task that starts takes its slot, and no other. -/
theorem startTask_eq {s : State} {k ready : Nat} {d : TaskDesc} {l : Launch} (h : s.launchOn (dieOfCore (coreOfSlot k)) = some l) :
    s.startTask k d ready
      = s.setSlot k (d.slot k (BitVec.ofNat 32 l.codeBase) (BitVec.ofNat 32 (l.codeBase + l.codeLen)) ready (s.slot k)) := by
  unfold State.startTask
  rw [h]
  exact State.modSlot_eq _ _ _

/-- The arguments of a task, as registers. -/
def argRegs (args : List Word) : Assoc Reg := (List.range 4).map (fun i => (i + 8, { val := args.getD i 0 }))

/-- Putting the handles in their registers leaves the rest of a new slot. -/
theorem taskSlot_eq (d : TaskDesc) (k : Nat) (base bound : Word) (ready : Nat) (old : Slot) : ∃ handles,
    d.slot k base bound ready old = { slotDefault k with
      occupied := true, pc := d.entry, lastPc := d.entry, cbase := base, cbound := bound
      regs := (argRegs d.args).filter (fun e => e.2.val != 0)
      tilec := (0 : BitVec 16) ++ d.ctrl.extractLsb' 16 16 ++ d.tile
      ctrl := d.ctrl, jaddr := d.jaddr, ready := ready, accs := old.accs, xsave := old.xsave, handles := handles } := by
  have put : ∀ (l : List Nat) (sl : Slot), ∃ handles,
      l.foldl (fun sl i => sl.setHandle i (d.handles.getD i 0)) sl = { sl with handles := handles } := by
    intro l
    induction l with
    | nil => exact fun sl => ⟨_, rfl⟩
    | cons i l ih =>
      intro sl
      obtain ⟨handles, h⟩ := ih (sl.setHandle i (d.handles.getD i 0))
      exact ⟨handles, h⟩
  obtain ⟨handles, h⟩ := put (List.range d.handles.length) _
  exact ⟨handles, h⟩

theorem Assoc.get_cons {α : Type} (d : Nat → α) (e : Nat × α) (m : Assoc α) (k : Nat) :
    Assoc.get d (e :: m) k = if e.1 = k then e.2 else Assoc.get d m k := rfl

/-- Entries that read as an unlisted key does may be left out. -/
theorem get_filter {α : Type} {d : Nat → α} {p : Nat × α → Bool} {m : Assoc α} {k : Nat} (hn : (m.map Prod.fst).Nodup)
    (hp : ∀ e ∈ m, p e = false → e.2 = d e.1) : Assoc.get d (m.filter p) k = Assoc.get d m k := by
  induction m with
  | nil => rfl
  | cons e m ih =>
    obtain ⟨fresh, nodup⟩ := List.nodup_cons.1 hn
    have rest := ih nodup (fun x hx => hp x (List.mem_cons_of_mem _ hx))
    cases he : p e with
    | true =>
      rw [List.filter_cons_of_pos he, Assoc.get_cons, rest, Assoc.get_cons]
    | false =>
      rw [List.filter_cons_of_neg (by rw [he]; decide), rest]
      rw [Assoc.get_cons]
      split
      · rename_i same
        rw [hp e List.mem_cons_self he, same]
        by_contra hne
        obtain ⟨v, hv, -⟩ := mem_of_get (P := fun x => x ≠ d k) (not_not.2 rfl) hne
        exact fresh (List.mem_map.2 ⟨_, hv, same.symm⟩)
      · rfl

/-- The four arguments of a task stand in g8 to g11. -/
theorem argRegs_get (args : List Word) {n : Nat} (hn : n < 4) :
    (Assoc.get regDefault ((argRegs args).filter (fun e => e.2.val != 0)) (8 + n)).val = args.getD n 0 := by
  have keys : ((argRegs args).map Prod.fst).Nodup := by
    show ([8, 9, 10, 11] : List Nat).Nodup
    decide
  rw [get_filter keys]
  · interval_cases n <;> rfl
  · intro e he hz
    obtain ⟨i, -, rfl⟩ := List.mem_map.1 he
    have zero : args.getD i 0 = 0 := by simpa using hz
    show ({ val := args.getD i 0 } : Reg) = {}
    rw [zero]

/-! ## Spilled entries come back -/

/-- The deques and spill areas are as they were. -/
def KeepsDeques (s t : State) : Prop := ∀ c, (t.core c).deque = (s.core c).deque ∧ (t.core c).spilled = (s.core c).spilled

theorem KeepsDeques.refl (s : State) : KeepsDeques s s := fun _ => ⟨rfl, rfl⟩

theorem KeepsDeques.trans {s t u : State} (h : KeepsDeques s t) (g : KeepsDeques t u) : KeepsDeques s u :=
  fun c => ⟨(g c).1.trans (h c).1, (g c).2.trans (h c).2⟩

theorem MemMoves.keepsDeques {s t : State} (h : MemMoves s t) : KeepsDeques s t := fun c => by
  obtain ⟨_, _, hc⟩ := h.cores c
  rw [hc]
  exact ⟨rfl, rfl⟩

theorem Walks.keepsDeques {s t : State} (h : Walks s t) : KeepsDeques s t := by
  obtain ⟨_, _, _, _, _, _, _, _, rfl⟩ := h
  exact fun _ => ⟨rfl, rfl⟩

theorem unspill_keeps (s : State) (core : Nat) (x : Spilled) : KeepsDeques s (s.unspill core x).2 := by
  unfold State.unspill
  split
  · rename_i va l _ _
    have walks := Walks.translate s (l.spiller core) va false
    simp only
    split
    · rename_i u h
      rw [h] at walks
      split
      · exact walks.keepsDeques.trans (MemMoves.invalidateOthers _ _ _).keepsDeques
      · exact walks.keepsDeques.trans (MemMoves.invalidateOthers u _ _).keepsDeques
    · rename_i u h
      rw [h] at walks
      split
      · exact walks.keepsDeques.trans (MemMoves.invalidateOthers _ _ _).keepsDeques
      · exact walks.keepsDeques.trans (MemMoves.invalidateOthers u _ _).keepsDeques
    · rename_i u h
      rw [h] at walks
      exact walks.keepsDeques
    · rename_i u h
      rw [h] at walks
      exact walks.keepsDeques
  · exact .refl s

theorem unspillAll_some {core : Nat} {xs : List Spilled} {s : State} {ds : List TaskDesc} (h : (s.unspillAll core xs).1 = some ds) :
    ds.length = xs.length ∧ KeepsDeques s (s.unspillAll core xs).2 := by
  induction xs generalizing s ds with
  | nil =>
    cases h
    exact ⟨rfl, .refl s⟩
  | cons x xs ih =>
    have first := unspill_keeps s core x
    unfold State.unspillAll at h ⊢
    split at h
    · cases h
    · rename_i d u hu
      rw [hu] at first
      split at h
      · cases h
      · rename_i es v hv
        cases h
        obtain ⟨count, keeps⟩ := ih (s := u) (congrArg Prod.fst hv)
        rw [hv] at keeps
        exact ⟨congrArg (· + 1) count, first.trans keeps⟩

/-! ## The word that a slot waits for -/

theorem Performs.forceBefore_any {k : Nat} (s : State) (x : Acc) : Performs k (fun _ => True) s (s.forceBefore k x) := by
  unfold State.forceBefore
  simp only
  have prepared := fun y u => (preparesBefore (k := k) ((s.slot k).accs.length + 1) y u).mono (Q := fun _ => True) fun _ _ => trivial
  split
  · exact prepared _ _
  · exact (prepared _ _).trans (prepared _ _)

theorem Performs.readWord (s : State) (k : Nat) (p : Place) (a : Nat) : Performs k (fun _ => True) s (s.readWord k p a).2 := by
  unfold State.readWord
  simp only
  split
  · exact (Performs.forceBefore_any s _).trans (MemMoves.pieceHome _ _ _).performs
  · exact .forceBefore_any s _

/-- What a task that starts finds in its slot. -/
theorem taskSlot_start (d : TaskDesc) (k : Nat) (base bound : Word) (ready : Nat) (old : Slot) :
    let sl := d.slot k base bound ready old
    sl.occupied = true ∧ sl.mode = .task ∧ sl.pc = d.entry ∧ sl.ready = ready ∧ sl.cbase = base ∧ sl.ctrl = d.ctrl
      ∧ ∀ n < 4, (sl.reg (8 + n)).val = d.args.getD n 0 := by
  obtain ⟨handles, h⟩ := taskSlot_eq d k base bound ready old
  rw [h]
  refine ⟨rfl, rfl, rfl, rfl, rfl, rfl, fun n hn => ?_⟩
  rw [← argRegs_get d.args hn]
  show ((if 8 + n = 0 then ({} : Reg) else _) : Reg).val = _
  rw [if_neg (by omega)]
  rfl

end Sys2Proof.Machine

namespace Sys2Proof.Statements

open Sys2Proof.Machine

theorem ofNat_toNat (w : DWord) : BitVec.ofNat 64 w.toNat = w := by simp

section
variable {s u : State} {t : Place × Nat} {va : Nat} {go : Word → Bool} {limit : Word}

/-- A slot that does not wait for a word yet waits, and has the word read. -/
theorem waitWord_first (h : s.me.parked.filter (fun p => p.wait.word.isSome) = none) :
    ∃ s1, waitWord s t va go limit u
        = .error (.wait { xval := BitVec.ofNat 64 va, reason := 0x09, hostWake := t.1 == .host, word := some t } s1)
      ∧ s1.slots = s.slots
      ∧ ∃ d ∈ s1.agenda, d.step = .waitWordReread ∧ d.subject = [s.cur, s.me.retired.toNat] ∧ s.cycle ≤ d.at_ := by
  rw [waitWord, h]
  exact ⟨_, rfl, rfl, _, agenda_schedule _ _ _ _, rfl, rfl, Nat.le_trans (Nat.le_add_right _ _) (Nat.le_add_right _ _)⟩

/-- A slot that has waited for a word looks at what was read last. -/
theorem waitWord_again {p : Parked} {v : Word} (h : s.me.parked.filter (fun p => p.wait.word.isSome) = some p)
    (hv : p.last = some v) : waitWord s t va go limit u
      = (if go v = true then pure () else boundedWait
          { xval := BitVec.ofNat 64 va, reason := 0x09, hostWake := t.1 == .host, word := some t, xval2 := v.zeroExtend 64 }
          limit : Act Unit) u := by
  rw [waitWord, h]
  simp only [hv]

end

/-- JOIN and WAITQ once their operands have been taken. -/
theorem exec_wordWait {i : Instr} {x : WordWait} {s u : State} {b limit : Word} {t : Place × Nat} (hx : wordWaitOf i = some x)
    (h : WaitsAt i x s b limit t u) :
    exec i s = issue i (fun _ => waitWord s t (s.me.pair x.f.a.toNat).w.toNat (x.go b) limit u) s := by
  obtain ⟨s1, s2, vb, vl, hr, hb, hl, rfl, rfl, pl, pa, aligned, away, ht⟩ := h
  unfold wordWaitOf at hx
  split at hx <;> cases hx
  · obtain ⟨rfl, rfl⟩ := hl
    refine issue_congr ?_
    rw [Act.state_bind, Act.bind_check hr, Act.bind_rdp, Act.bind_rd hb, Act.bind_trapIf_false pa, Act.bind_trapIf_false pl,
      Act.bind_trapIf_false, Act.state_bind, Act.bind_trapIf_false, Act.bind_run ht]
    · rw [State.take_cur hb]
      exact away rfl
    · rw [aligned]
      rfl
  · refine issue_congr ?_
    rw [Act.state_bind, Act.bind_check hr, Act.bind_rdp, Act.bind_rd hb, Act.bind_rd hl, Act.bind_trapIf_false pa,
      Act.bind_trapIf_false pl, Act.bind_trapIf_false, Act.bind_run ht]
    · refine congrFun (congrArg (fun g => waitWord s t (s.me.pair _).w.toNat g vl.w) (funext fun v => ?_)) u
      by_cases hv : v = vb.w
      · simp [hv]
      · simp [hv]
    · rw [aligned]
      rfl

/-- Settles O45: what starts, comes back, is stolen or waits changes the deques and the slot that it names, and the rest stays. -/
theorem tasksStartAndWait : Obligations.TasksStartAndWait := by
  unfold Obligations.TasksStartAndWait
  refine ⟨⟨?_, ?_, ?_, ?_, ?_, ?_, ?_⟩, ?_⟩
  · intro s core k i d l hs hfree hentry hl
    obtain ⟨agenda, taken⟩ := takeEntry_fields s core i
    have run : exec .taskStart s = .next ((s.takeEntry core i).startTask k d (s.cycle + 5)) := by
      simp only [exec, execTaskStart, hs, hfree, hentry]
    have launch : (s.takeEntry core i).launchOn (dieOfCore (coreOfSlot k)) = some l := by
      rw [taken]
      exact hl
    rw [startTask_eq launch] at run
    refine ⟨_, run, takeEntry_deque s core i, ?_⟩
    rw [State.slot_setSlot_same]
    obtain ⟨occupied, mode, pc, ready, base, ctrl, args⟩ := taskSlot_start d k (BitVec.ofNat 32 l.codeBase)
      (BitVec.ofNat 32 (l.codeBase + l.codeLen)) (s.cycle + 5) ((s.takeEntry core i).slot k)
    refine ⟨occupied, mode, pc, ready, base, ctrl, args, fun j hj => ?_⟩
    rw [State.slot_setSlot_ne _ _ hj, taken]
    rfl
  · intro s core hs hspilled hfew hback
    obtain ⟨ds, hds⟩ := Option.isSome_iff_exists.1 hback
    obtain ⟨count, kept⟩ := unspillAll_some hds
    generalize hback : s.unspillAll core ((s.core core).spilled.drop ((s.core core).spilled.length - 32)) = r at hds kept
    obtain ⟨r1, u⟩ := r
    cases hds
    have run : exec .dequeRefill s = .next (u.modCore core (fun c => { c with
        spilled := c.spilled.take ((s.core core).spilled.length - 32), deque := ds ++ c.deque })) := by
      simp [exec, execDequeRefill, hs, hspilled, hfew, hback]
    refine ⟨_, run, ?_, ?_⟩
    · rw [State.modCore_eq, State.core_setCore_same]
      exact congrArg (List.take _) (kept core).2
    · rw [State.modCore_eq, State.core_setCore_same]
      show (ds ++ (u.core core).deque).length = _
      rw [List.length_append, count, (kept core).1, List.length_drop]
      omega
  · intro s core hs hwants
    refine ⟨(s.modCore core (fun c => { c with steal := some { candidates := s.stealOrder core, asked := s.cycle } })).schedule
      (s.cycle + 4) .stealAnswer [core], ?_, ?_, _, agenda_schedule _ _ _ _, rfl, rfl, rfl⟩
    · simp only [exec, execStealAttempt, hs, hwants, if_true]
    · exact congrArg Core.steal (State.core_setCore_same s core _)
  · intro s core v i k vs x d l hs hx hout hcand hgave hgives hfree hl
    obtain ⟨agenda, taken⟩ := takeEntry_fields s v i
    have launch : (s.takeEntry v i).launchOn (dieOfCore (coreOfSlot k)) = some l := by
      rw [taken]
      exact hl
    have run : exec .stealAnswer s = .next ((({ (s.takeEntry v i).startTask k d (s.cycle + 1 + Config.delay s.draws % 12) with
        draws := s.draws + 1 } : State).modCore v
        (fun c => { c with gave := some x.asked })).modCore core (fun c => { c with steal := none, stealNone := false })) := by
      simp only [exec, execStealAnswer, hs, hx, hout, hcand, Bool.false_eq_true, if_false, List.head?_cons, Option.bind_some,
        if_neg hgave, hgives, Option.map_some, hfree]
    rw [startTask_eq launch] at run
    have least := Nat.mod_lt (Config.delay s.draws) (by decide : 0 < 12)
    obtain ⟨occupied, -, pc, ready, -⟩ := taskSlot_start d k (BitVec.ofNat 32 l.codeBase)
      (BitVec.ofNat 32 (l.codeBase + l.codeLen)) (s.cycle + 1 + Config.delay s.draws % 12) ((s.takeEntry v i).slot k)
    refine ⟨_, run, ?_, ?_, ?_⟩
    · exact congrArg Core.steal (State.core_setCore_same _ core _)
    · rw [deque_modCore, deque_modCore]
      · exact takeEntry_deque s v i
      · exact fun _ => rfl
      · exact fun _ => rfl
    · rw [slot_beside, State.slot_setSlot_same]
      exact ⟨occupied, pc, by rw [ready]; omega, by rw [ready]; omega⟩
  · intro s core v x hs hx hout hcand hgives
    refine ⟨s.modCore core (fun c => { c with steal := none, stealEnd := some s.cycle, stealNone := true }), ?_, ?_, ?_, rfl⟩
    · simp [exec, execStealAnswer, hs, hx, hout, hcand, hgives]
    · exact congrArg Core.steal (State.core_setCore_same s core _)
    · exact congrArg Core.stealEnd (State.core_setCore_same s core _)
  · intro s k a p pl hs hp hw
    refine ⟨(((s.readWord k pl a).2.modSlot k (fun sl => { sl with parked := some { p with last := some (s.readWord k pl a).1 } })).schedule
      (s.cycle + 256) .waitWordReread s.subject), ?_, ?_, ?_⟩
    · have cycle := (Performs.readWord s k pl a).rest.2.1
      have subject : (s.readWord k pl a).2.subject = s.subject := by
        obtain ⟨_, _, _, _, _, _, _, _, _, _, _, _, _, h⟩ := (Performs.readWord s k pl a).fields
        rw [h]
      rw [← cycle, ← subject]
      simp only [exec, execWaitWordReread, hs, hp, hw, Option.bind_some, Option.map_some, bne_self_eq_false,
        List.any_cons, List.any_nil, Bool.or_false, Bool.false_eq_true, if_false, List.isEmpty_cons]
      rfl
    · exact (congrArg Slot.parked (State.slot_setSlot_same (s.readWord k pl a).2 k _))
    · exact ⟨_, agenda_schedule _ _ _ _, rfl, rfl, rfl⟩
  · intro s k since p hs hp hsince hlimit
    refine ⟨fun hstop => ?_, fun hstop => ?_⟩
    · simp only [exec, execBoundedWaitExpiry, hs, hp, hsince, hlimit, hstop, decide_true, Bool.not_false, Bool.and_self, if_true]
      cases p.last <;> rfl
    · simp [exec, execBoundedWaitExpiry, hs, hp, hstop]
  · intro i x s u b limit t hx hwaits
    have run := exec_wordWait hx hwaits
    obtain ⟨s1, s2, vb, vl, hr, -⟩ := hwaits
    rw [run]
    refine ⟨fun hfirst => ?_, fun p v hp hv => ⟨fun hgo => ?_, fun hgo h0 => ?_, fun hgo h0 => ?_⟩⟩
    · obtain ⟨u1, hwait, hslots, hagenda⟩ := waitWord_first (t := t) (va := (s.me.pair x.f.a.toNat).w.toNat) (go := x.go b)
        (limit := limit) (u := u) hfirst
      rw [ofNat_toNat] at hwait
      have stops := issue_error (i := i) (a := fun _ => waitWord s t (s.me.pair x.f.a.toNat).w.toNat (x.go b) limit u) hr.1 hwait
      exact ⟨s.unpop u1, stops, hslots, hagenda⟩
    · exact issue_ok hr.1 (by rw [waitWord_again hp hv, if_pos hgo]; rfl)
    · exact issue_trap hr.1 (by
        rw [waitWord_again hp hv, if_neg (by rw [hgo]; decide), boundedWait, if_pos h0, ofNat_toNat]
        rfl)
    · exact issue_park hr.1 (by
        rw [waitWord_again hp hv, if_neg (by rw [hgo]; decide), boundedWait_parks h0, ofNat_toNat, waitFor])

end Sys2Proof.Statements
end

section
/-! SUPPORT. FORK and EXIT (R262 to R267, R273). -/

namespace Sys2Proof.Machine

open Sys2Proof.Statements

theorem Walks.cur {s t : State} (h : Walks s t) : t.cur = s.cur := by
  obtain ⟨_, _, _, _, _, _, _, _, rfl⟩ := h
  rfl

theorem MemMoves.cur {s t : State} (h : MemMoves s t) : t.cur = s.cur := (MemMoves.performs (k := 0) (P := fun _ => True) h).rest.1

theorem State.cur_spillOne (s : State) (core i : Nat) (d : TaskDesc) : (s.spillOne core i d).2.cur = s.cur := by
  unfold State.spillOne
  simp only
  split
  · rfl
  · rename_i l _
    split
    · rename_i h
      have walks := Walks.translate s (l.spiller core) ((l.spill.toNat + (288 * l.dies.idxOf (dieOfCore core) + numberOfCore core) * 0x10000
        + 64 * i) % 2 ^ 64) true
      rw [h] at walks
      exact (MemMoves.homeWrite _ _ _ _ _ _).cur.trans walks.cur
    · rename_i h
      have walks := Walks.translate s (l.spiller core) ((l.spill.toNat + (288 * l.dies.idxOf (dieOfCore core) + numberOfCore core) * 0x10000
        + 64 * i) % 2 ^ 64) true
      rw [h] at walks
      exact (MemMoves.homeWrite _ _ _ _ _ _).cur.trans walks.cur
    · rfl

theorem State.cur_spill (s : State) (core : Nat) : (s.spill core).cur = s.cur := by
  have each : ∀ (l : List TaskDesc) (r : List Spilled × State), (l.foldl (fun (r : List Spilled × State) d =>
      let x := r.2.spillOne core ((s.core core).spilled.length + r.1.length) d
      (r.1 ++ [x.1], x.2)) r).2.cur = r.2.cur := by
    intro l
    induction l with
    | nil => exact fun _ => rfl
    | cons d l ih => exact fun r => (ih _).trans (State.cur_spillOne _ _ _ _)
  exact each _ ([], s)

theorem State.issued_cur (s : State) (k : Nat) : (s.issued k).cur = s.cur := rfl

theorem cur_foldl {α : Type} {f : State → α → State} (hf : ∀ s a, (f s a).cur = s.cur) (l : List α) (s : State) :
    (l.foldl f s).cur = s.cur := by
  induction l generalizing s with
  | nil => rfl
  | cons a l ih => rw [List.foldl_cons, ih, hf]

theorem State.cur_settleFill (s : State) (e : Nat) (st : TileState) : (s.settleFill e st).cur = s.cur := by
  unfold State.settleFill
  simp only
  have members := fun l => cur_foldl (f := fun s m =>
    (s.modEntry m (fun y => { y with state := st, fill := false, settled := some s.cycle })).retireEntry m)
    (fun s m => State.cur_retireEntry _ _) l s
  split
  · rfl
  · split
    · exact members _
    · exact (State.cur_retireEntry _ _).trans (members _)

theorem State.cur_poisonHome (s : State) (w : Nat) (p : Place) (a n : Nat) : (s.poisonHome w p a n).cur = s.cur := by
  have moves : ∀ (keys : List Nat), MemMoves s (((keys.foldl (fun s key => s.invalidateOthers [] key) s).logRange w p (sectorBase a)
      (sectorSpan a n))) := fun keys => (MemMoves.foldl (fun s _ => .invalidateOthers s _ _) keys s).trans (.logRange _ _ _ _ _)
  unfold State.poisonHome
  simp only
  exact ((MemMoves.setMemAt _ _ _).trans (.wakeWords _ _)).cur.trans (moves _).cur

theorem State.cur_poisonTile (s : State) (e : Nat) : (s.poisonTile e).cur = s.cur := by
  unfold State.poisonTile
  simp only
  generalize (if (s.entry e).scratch = true then s.savedScratch (s.entry e).lid (s.entry e).core (s.entry e).base.toNat else none) = saved
  split
  · exact State.cur_poisonHome _ _ _ _ _
  · rfl

theorem State.cur_dropWord (s : State) (w : DWord) (publish : Bool) : (s.dropWord w publish).cur = s.cur := by
  unfold State.dropWord
  split
  · rfl
  · split
    · exact State.cur_dropSee _ _
    · split
      · exact State.cur_settleFill _ _ _
      · exact (State.cur_settleFill _ _ _).trans (cur_foldl (fun s e => State.cur_poisonTile s e) _ s)

theorem State.cur_dropHandles (s : State) (k : Nat) (publish : Bool) : (s.dropHandles k publish).cur = s.cur := by
  unfold State.dropHandles
  simp only
  rw [cur_foldl (fun s q => State.cur_deconfigure s k q), State.modSlot_eq, State.setSlot_cur]
  refine cur_foldl (fun s e => ?_) _ s
  split
  · rfl
  · exact State.cur_dropWord _ _ _

theorem hgetAll_state {first n : Nat} {s t : State} {ws : List DWord} (h : hgetAll first n s = .ok (ws, t)) : t = s := by
  induction n generalizing first ws with
  | zero =>
    cases h
    rfl
  | succ n ih =>
    obtain ⟨w, u, hw, hu⟩ := Act.bind_ok.1 h
    obtain ⟨rest, v, hv, ht⟩ := Act.bind_ok.1 hu
    obtain ⟨rfl, -⟩ := hget_live hw
    cases ht
    exact ih hv

end Sys2Proof.Machine

namespace Sys2Proof.Statements

open Sys2Proof.Machine

/-- A descriptor stands last in the deque of the running slot's core, from which the oldest entries are spilled where it is full. -/
def forkQueue (full : Bool) (d : TaskDesc) (s : State) : State :=
  let s := if full then s.spill s.myCore else s
  s.modCore s.myCore (fun c => { c with deque := c.deque ++ [d] })

/-- The descriptor stands last in the deque of the slot's core, after a release at die scope. -/
def forkedState (s : State) (d : TaskDesc) : State :=
  let u := s.releaseSlot s.cur 3
  (if decide (64 ≤ (s.core s.myCore).deque.length) then u.spill s.myCore else u).modCore s.myCore
    (fun c => { c with deque := c.deque ++ [d] })

/-- What FORK does once its descriptor and the handles it names are known. -/
def forkRest (f : IForm) (hf nh : Nat) (d : TaskDesc) : Act Unit := do
  let s ← Act.state
  let core := s.core s.myCore
  let full := decide (64 ≤ core.deque.length)
  Act.trapIf (full && decide (1024 ≤ core.spilled.length)) .prot f.a.toNat 0x171
  releaseAt 3
  Act.modify (forkQueue full d)
  Act.modMe (fun sl => (List.range nh).foldl (fun sl i => sl.setHandle (hf + i) 0) sl)

theorem forkFits_checks {s : State} {v : Nat → Word} {entry : Word} (h : ForkFits s v entry) :
    ((v 4).extractLsb' 8 8 != 0 || decide (16 < ((v 4).extractLsb' 0 4).toNat + ((v 4).extractLsb' 4 2).toNat)
        || entry.ult s.me.cbase || !entry.ult s.me.cbound) = false
      ∧ (!(v 4).getLsbD 7 && (v 6 != 0 || v 7 != 0)) = false := by
  obtain ⟨reserved, handles, low, high, joins⟩ := h
  have r0 : (v 4).extractLsb' 8 8 = 0 := BitVec.eq_of_toNat_eq (by simpa [Nat.shiftRight_eq_div_pow] using reserved)
  refine ⟨?_, ?_⟩
  · rw [r0]
    simp [BitVec.ult, Nat.shiftRight_eq_div_pow]
    omega
  · cases hj : (v 4).getLsbD 7 with
    | true => rfl
    | false =>
      obtain ⟨h6, h7⟩ := joins hj
      rw [h6, h7]
      rfl

theorem exec_fork {f : IForm} {s s1 : State} {ws : List DWord} {v : Nat → Word} {entry : Word}
    (hr : Ready (.fork f) (f.srcA 8).each [] s) (hv : (fun i => ((s.me.regsFrom f.a.toNat 8).getD i {}).w) = v)
    (he : wordsFrom s.me.pc f.imm = entry)
    (hp : (s.me.regsFrom f.a.toNat 8).all (fun x => !x.poison) = true) (hfits : ForkFits s v entry)
    (hj : JoinPlace s s1 ((v 4).getLsbD 7) (v 7 ++ v 6))
    (hw : hgetAll ((v 4).toNat % 16) ((v 4).toNat / 16 % 4) s1 = .ok (ws, s1)) :
    exec (.fork f) s = issue (.fork f) (fun _ => forkRest f ((v 4).toNat % 16) ((v 4).toNat / 16 % 4) (forked v entry ws) s1) s := by
  obtain ⟨fits, joins⟩ := forkFits_checks hfits
  have hf : ((v 4).extractLsb' 0 4).toNat = (v 4).toNat % 16 := by simp
  have nh : ((v 4).extractLsb' 4 2).toNat = (v 4).toNat / 16 % 4 := by simp [Nat.shiftRight_eq_div_pow]
  refine issue_congr ?_
  rw [Act.bind_check hr, Act.me_bind]
  simp only [firstPoison_none _ hp]
  rw [← branchTarget_eq] at he
  subst he hv
  refine (Act.bind_trapIf_false fits).trans ((Act.bind_trapIf_false joins).trans ?_)
  simp only [hf, nh]
  beta_reduce at hw
  unfold JoinPlace at hj
  cases hjoin : ((s.me.regsFrom f.a.toNat 8).getD 4 {}).w.getLsbD 7 with
  | false =>
    rw [hjoin] at hj
    simp only [Bool.false_eq_true, if_false] at hj ⊢
    subst hj
    rw [Act.bind_run hw]
    simp only [forkRest, forked, hjoin, Bool.false_eq_true, if_false]
    rfl
  | true =>
    rw [hjoin] at hj
    simp only [if_true] at hj ⊢
    obtain ⟨t, aligned, ht, dev⟩ := hj
    rw [Act.bind_trapIf_false (by rw [aligned]; rfl), Act.bind_run ht, Act.bind_trapIf_false (beq_false_of_ne dev), Act.bind_run hw]
    simp only [forkRest, forked, hjoin, if_true]
    rfl

theorem forkQueue_release (s : State) (d : TaskDesc) :
    forkQueue (decide (64 ≤ (s.core s.myCore).deque.length)) d (s.releaseSlot s.cur 3) = forkedState s d := by
  have here : (s.releaseSlot s.cur 3).myCore = s.myCore := congrArg coreOfSlot (Performs.releaseSlot s 3).rest.1
  unfold forkQueue forkedState
  simp only [here]
  split
  · rw [show ((s.releaseSlot s.cur 3).spill s.myCore).myCore = s.myCore from
      (congrArg coreOfSlot (State.cur_spill _ _)).trans here]
  · rw [here]

theorem forkRest_ok {f : IForm} {hf nh : Nat} {d : TaskDesc} {s : State} 
    (hroom : 64 ≤ (s.core s.myCore).deque.length → (s.core s.myCore).spilled.length < 1024) :
    forkRest f hf nh d s = .ok ((),
      (forkedState s d).setMe ((List.range nh).foldl (fun sl n => sl.setHandle (hf + n) 0) (forkedState s d).me)) := by
  rw [forkRest, Act.state_bind, Act.bind_trapIf_false, releaseAt, Act.bind_run (modify_ok _ _), Act.bind_run (modify_ok _ _),
    forkQueue_release]
  · rfl
  · cases hfull : decide (64 ≤ (s.core s.myCore).deque.length) with
    | false => rfl
    | true => simpa using hroom (of_decide_eq_true hfull)

/-! ## EXIT -/

/-- What EXIT drops before it ends its task: after a release where a fill is among it. -/
def exitDrops (s : State) : State :=
  let u := if s.me.mode = .task ∧ s.me.handles.any (fun e => decide (1 < handleKind e.2)) = true then
      s.releaseSlot s.cur (if s.me.handles.any (fun e => decide (1 < handleKind e.2) && s.away e.2) = true then 5 else 4)
    else s
  u.dropHandles s.cur (decide (s.me.mode = .task))

/-- The release that EXIT makes of its fills, what it drops then, and what comes after. -/
def exitFills (mode : Mode) (fills : List DWord) (rest : Act Unit) : Act Unit := do
  let s ← Act.state
  if mode = .task && !fills.isEmpty then releaseAt ((fills.map s.dropScope).foldl max 4)
  Act.modify (fun s => s.dropHandles s.cur (decide (mode = .task)))
  rest

/-- The widest scope of some drops. -/
theorem foldl_dropScope (s : State) (ws : List DWord) :
    (ws.map s.dropScope).foldl max 4 = if ws.any (fun w => s.away w) = true then 5 else 4 := by
  have from5 : ∀ ws : List DWord, (ws.map s.dropScope).foldl max 5 = 5 := by
    intro ws
    induction ws with
    | nil => rfl
    | cons w ws ih =>
      rw [List.map_cons, List.foldl_cons, State.dropScope]
      split
      · exact ih
      · exact ih
  induction ws with
  | nil => rfl
  | cons w ws ih =>
    rw [List.map_cons, List.foldl_cons, State.dropScope, List.any_cons]
    cases hw : s.away w with
    | true => exact from5 ws
    | false => simpa using ih

theorem not_isEmpty_filter {α : Type} (p : α → Bool) (l : List α) : (!(l.filter p).isEmpty) = l.any p := by
  induction l with
  | nil => rfl
  | cons a l ih =>
    rw [List.any_cons]
    cases h : p a with
    | true => rw [List.filter_cons_of_pos h]; rfl
    | false => rw [List.filter_cons_of_neg (by rw [h]; decide), ih]; rfl

theorem exitFills_ok (s : State) (rest : Act Unit) :
    exitFills s.me.mode ((s.me.handles.map Prod.snd).filter (fun w => decide (1 < handleKind w))) rest s = rest (exitDrops s) := by
  have some_fill : (!((s.me.handles.map Prod.snd).filter (fun w => decide (1 < handleKind w))).isEmpty)
      = s.me.handles.any (fun e => decide (1 < handleKind e.2)) := by
    rw [not_isEmpty_filter, List.any_map]
    rfl
  have some_away : ((s.me.handles.map Prod.snd).filter (fun w => decide (1 < handleKind w))).any (fun w => s.away w)
      = s.me.handles.any (fun e => decide (1 < handleKind e.2) && s.away e.2) := by
    rw [List.any_filter, List.any_map]
    rfl
  unfold exitFills exitDrops
  rw [Act.state_bind, foldl_dropScope, some_fill, some_away]
  generalize (if s.me.handles.any (fun e => decide (1 < handleKind e.2) && s.away e.2) = true then 5 else 4) = scope
  have here : (s.releaseSlot s.cur scope).cur = s.cur := (Performs.releaseSlot s scope).rest.1
  by_cases hfill : s.me.mode = .task ∧ s.me.handles.any (fun e => decide (1 < handleKind e.2)) = true
  · rw [if_pos (by simpa using hfill), if_pos hfill, releaseAt, Act.bind_run (modify_ok _ _)]
    refine (Act.bind_run (modify_ok _ _)).trans ?_
    rw [here]
  · rw [if_neg (by simpa using hfill), if_neg hfill]
    exact Act.bind_run (modify_ok _ _)

theorem issueLast_ok {i : Instr} {a : Act Unit} {s t : State} (hm : modeLegal i s.me.xlt = true) (ha : a s = .ok ((), t)) :
    issueLast i a s = .next ((t.vacate s.cur).issued s.cur) := by
  rw [issueLast, hm, ha]
  rfl

/-- The access that takes 1 from a join counter. -/
def joinAcc (id : Nat) (p : Place) (a : Nat) : Acc :=
  { id := id, kind := .atomic (.op 0 0) (bytesOfWord 4 0xFFFFFFFF) [] false, ord := 2, scope := 3
    pieces := [{ place := p, off := a, len := 4 }] }

/-- The join counter of a task that has one falls by 1 (R273). -/
def exitJoin (p : Place) (a : Nat) : Act Unit := do
  let id ← Act.fresh
  let piece : Piece := { place := p, off := a, len := 4 }
  pushAcc (joinAcc id p a)
  let s ← Act.state
  let d ← drawDelay
  Act.schedule (s.cycle + s.lag + State.atomCycles s.myCore s.draws piece + d) .atomicPerformed [s.cur, id]

theorem exitJoin_ok {p : Place} {a : Nat} {s t : State} (h : exitJoin p a s = .ok ((), t)) :
    t.cur = s.cur ∧ ∃ x, x ∈ (t.slot t.cur).accs ∧ x.kind = .atomic (.op 0 0) (bytesOfWord 4 0xFFFFFFFF) [] false
      ∧ x.pieces = [{ place := p, off := a, len := 4 }] := by
  cases h
  refine ⟨rfl, joinAcc s.nextId p a, ?_, rfl, rfl⟩
  have added := congrArg Slot.accs (State.slot_setSlot_same s s.cur { s.me with accs := s.me.accs ++ [joinAcc s.nextId p a] })
  exact added ▸ List.mem_append_right _ (List.mem_singleton.2 rfl)

theorem vacate_slot (s : State) (k : Nat) :
    ((s.vacate k).slot k).occupied = false ∧ ((s.vacate k).slot k).accs = (s.slot k).accs := by
  have left : (((s.leaveQueues k).freeMutexes k).slot k).accs = (s.slot k).accs := by
    show ((s.leaveQueues k).slot k).accs = _
    rw [State.leaveQueues, State.leaveWaits_slot, State.withdrawArrival_slot]
  unfold State.vacate
  simp only
  generalize (s.leaveQueues k).freeMutexes k = u at left ⊢
  generalize hv : ({ slotDefault k with draining := true, accs := (u.slot k).accs, owed := (u.slot k).owed, xsave := (u.slot k).xsave } : Slot) = v
  have accs : v.accs = (s.slot k).accs := by rw [← hv]; exact left
  have free : v.occupied = false := by rw [← hv]; rfl
  unfold State.settleSlot
  simp only
  split
  · rw [State.slot_setSlot_same, State.slot_setSlot_same]
    exact ⟨rfl, accs⟩
  · rw [State.slot_setSlot_same]
    exact ⟨free, accs⟩

theorem cur_settleSlot (s : State) (k : Nat) : (s.settleSlot k).cur = s.cur := by
  rcases s.settleSlot_cases k with h | ⟨v, h⟩
  · rw [h]
  · rw [h]
    rfl

theorem cur_vacate (s : State) (k : Nat) : (s.vacate k).cur = s.cur := by
  rw [State.vacate, cur_settleSlot, State.setSlot_cur, State.freeMutexes, (State.modCluster_same _ _ _).1, State.leaveQueues,
    State.leaveWaits_cur, State.withdrawArrival_cur]

theorem cur_exitDrops (s : State) : (exitDrops s).cur = s.cur := by
  unfold exitDrops
  simp only
  rw [State.cur_dropHandles]
  split
  · exact (Performs.releaseSlot s _).rest.1
  · rfl

/-- Settles O44: FORK's tests are its descriptor's conditions; EXIT drops what it holds, then leaves its slot. -/
theorem tasksForkAndExit : Obligations.TasksForkAndExit := by
  unfold Obligations.TasksForkAndExit
  refine ⟨?_, ?_, ?_⟩
  · intro f s s1 ws hr vs v entry hf nh hp hfits hj hw full hroom u t
    have cur : s1.cur = s.cur := by
      unfold JoinPlace at hj
      split at hj
      · obtain ⟨_, -, ht, -⟩ := hj
        exact (translateMe_ok ht).cur
      · rw [hj]
    have core : s1.myCore = s.myCore := congrArg coreOfSlot cur
    rw [exec_fork hr rfl rfl hp hfits hj hw]
    have run := forkRest_ok (f := f) (hf := hf) (nh := nh) (d := forked v entry ws) (s := s1) (by
      rw [core]
      exact fun h => hroom (decide_eq_true h))
    rw [forkedState, cur, core] at run
    exact issue_ok hr.1 run
  · intro f s hm hctrl u
    refine issueLast_ok hm ?_
    rw [Act.me_bind]
    simp only [hctrl, Bool.false_eq_true, if_false]
    exact exitFills_ok s (pure ())
  · intro f s s1 p a hm hctrl hdev ht
    have run : ∃ t, exec (.exit f) s = .next ((t.vacate s.cur).issued s.cur) ∧ exitJoin p a (exitDrops s1) = .ok ((), t) := by
      refine ⟨_, issueLast_ok hm ?_, rfl⟩
      rw [Act.me_bind]
      simp only [hctrl, if_true]
      rw [Act.state_bind, Act.bind_trapIf_false hdev, Act.bind_run ht]
      refine Eq.trans (b := exitFills s1.me.mode ((s1.me.handles.map Prod.snd).filter (fun w => decide (1 < handleKind w)))
        (exitJoin p a) s1) ?_ ((exitFills_ok s1 _).trans rfl)
      obtain ⟨failure, me⟩ := (translateMe_ok ht).me
      rw [show s1.me.mode = s.me.mode by rw [me], show s1.me.handles = s.me.handles by rw [me]]
      rw [pure_bind, exitFills, Act.state_bind, Act.state_bind]
      split
      · rfl
      · rfl
    obtain ⟨t, does, joined⟩ := run
    obtain ⟨cur, x, accs, kind, pieces⟩ := exitJoin_ok joined
    have here : t.cur = s.cur := cur.trans ((cur_exitDrops s1).trans (translateMe_ok ht).cur)
    obtain ⟨occupied, kept⟩ := vacate_slot t s.cur
    have mine : ((t.vacate s.cur).issued s.cur).me = (t.vacate s.cur).slot s.cur := by
      rw [State.me_eq, State.issued_slot, State.issued_cur, cur_vacate, here]
    refine ⟨_, does, ?_, x, ?_, kind, pieces⟩
    · rw [mine, occupied]
    · rw [mine, kept, ← here]
      exact accs

end Sys2Proof.Statements
end

section
/-! SUPPORT. Barriers and mutexes of the event unit (R279, R282 to R284). -/

namespace Sys2Proof.Machine

open Sys2Proof.Statements

/-- A number below a power of two has no bit outside a mask of its low bits. -/
theorem small_and_not {a m : Word} {k : Nat} (ha : a.toNat < 2 ^ k) (hm : ∀ i < k, m.getLsbD i = true) : a &&& ~~~m = 0 := by
  ext i hi
  have high : k ≤ i → a.getLsbD i = false := fun h => by
    rw [BitVec.getLsbD, Nat.testBit_lt_two_pow (Nat.lt_of_lt_of_le ha (Nat.pow_le_pow_right (by decide) h))]
  simp only [BitVec.getElem_and, BitVec.getElem_not]
  rw [← BitVec.getLsbD_eq_getElem, ← BitVec.getLsbD_eq_getElem]
  by_cases h : i < k
  · rw [hm i h]
    simp
  · rw [high (Nat.le_of_not_lt h)]
    simp

theorem small_bit {a : Word} {k i : Nat} (ha : a.toNat < 2 ^ k) (hi : k ≤ i) : a.getLsbD i = false := by
  rw [BitVec.getLsbD, Nat.testBit_lt_two_pow (Nat.lt_of_lt_of_le ha (Nat.pow_le_pow_right (by decide) hi))]

/-- Both words of an event instruction. -/
theorem eventSources_two {i : Instr} {f : RForm} {s s2 : State} {a b : Word} (h : EventWords i f s s2 a b) :
    eventSources f true s = .ok ((a, b), s2) ∧ modeLegal i s.me.xlt = true ∧ s2.me = s.me ∧ s2.cur = s.cur ∧ s2.cycle = s.cycle := by
  obtain ⟨s1, va, vb, hr, ha, hb, pa, pb, rfl, rfl⟩ := h
  refine ⟨?_, hr.1, State.take_me_two ha hb, (State.take_cur hb).trans (State.take_cur ha), ?_⟩
  · rw [eventSources, if_pos rfl, Act.bind_check hr, Act.bind_rd ha, if_pos rfl, Act.bind_rd hb]
    exact (Act.bind_trapIf_false pa).trans (Act.bind_trapIf_false pb)
  · rcases State.take_cases ha with rfl | ⟨c, rfl⟩
    · rcases State.take_cases hb with rfl | ⟨c, rfl⟩
      · rfl
      · rfl
    · rcases State.take_cases hb with h | ⟨c, h⟩
      · rw [h]
        rfl
      · rw [h]
        rfl

/-- The members of a barrier that is released leave in the next cycle. -/
theorem departs (members : List Nat) (code : Byte) (s : State) :
    (∀ c, (members.foldl (fun s k => s.modSlot k (fun sl => { sl with depart := some code })) s).cluster c = s.cluster c)
      ∧ ∀ k, (k ∈ members ∨ (s.slot k).depart = some code) →
        ((members.foldl (fun s k => s.modSlot k (fun sl => { sl with depart := some code })) s).slot k).depart = some code := by
  induction members generalizing s with
  | nil => exact ⟨fun _ => rfl, fun k hk => hk.resolve_left (by simp)⟩
  | cons m members ih =>
    obtain ⟨clusters, departs⟩ := ih (s.modSlot m (fun sl => { sl with depart := some code }))
    refine ⟨clusters, fun k hk => departs k ?_⟩
    by_cases same : k = m
    · subst same
      exact .inr (congrArg Slot.depart (State.slot_setSlot_same s k _))
    · refine hk.imp (fun h => (List.mem_cons.1 h).resolve_left same) (fun h => ?_)
      rw [State.modSlot_eq, State.slot_setSlot_ne _ _ same]
      exact h

theorem barrier_modBarrier (s : State) (cl n : Nat) (f : Barrier → Barrier) :
    ((s.modBarrier cl n f).cluster cl).barrier n = f ((s.cluster cl).barrier n) := by
  rw [State.modBarrier, State.modCluster_eq, State.cluster_setCluster_same]
  exact Assoc.get_set_same _ _ _ _

/-- A message that is counted as received changes a launch alone. -/
theorem countReceived_rest (s : State) (lid : Nat) :
    (s.countReceived lid).dies = s.dies ∧ (s.countReceived lid).clusters = s.clusters := by
  unfold State.countReceived State.modLaunch
  split
  · exact ⟨rfl, rfl⟩
  · exact ⟨rfl, rfl⟩

end Sys2Proof.Machine

namespace Sys2Proof.Statements

open Sys2Proof.Machine

/-- A die barrier after an arrival that is not its last. -/
def nextArrival (db : DieBarrier) (cl : Nat) (a : Word) : DieBarrier :=
  { arrived := db.arrived ++ [cl], cl := some (a.extractLsb' 16 7).toNat
    world := if db.cl.isNone then a.getLsbD 4 else db.world, sent := db.sent }

/-- The arrival of the running slot at a barrier of its cluster, which the last one completes. -/
def recordArrival (s : State) (cl n : Nat) (a b : Word) (arrived : List Nat) : State :=
  let u := (s.modSlot s.cur (fun sl => { sl with arrived := some n })).modBarrier cl n
    (fun _ => { arrived := arrived, first := some (a, b), sent := false })
  if memberCount b ≤ arrived.length then u.schedule u.cycle .barrierDeparture [cl, n] else u

theorem recordArrival_keeps (s : State) (cl n : Nat) (a b : Word) (arrived : List Nat) :
    (recordArrival s cl n a b arrived).me = (s.modSlot s.cur (fun sl => { sl with arrived := some n })).me
      ∧ (recordArrival s cl n a b arrived).cluster cl
        = ((s.modSlot s.cur (fun sl => { sl with arrived := some n })).modBarrier cl n
          (fun _ => { arrived := arrived, first := some (a, b), sent := false })).cluster cl := by
  unfold recordArrival
  simp only
  split
  · exact ⟨rfl, rfl⟩
  · exact ⟨rfl, rfl⟩

/-- An arrival at a barrier of the cluster alone. -/
theorem arrive_ok {f : RForm} {s s2 : State} {a b : Word} (hw : EventWords (.evbar f) f s s2 a b) (ha : a.toNat < 8)
    (hb : b.toNat < 2 ^ 16) (hin : b.getLsbD (4 * coreInCluster s.myCore + slotNumber s.cur) = true)
    (hfirst : ((s2.cluster (myCluster s)).barrier a.toNat).first.all (fun x => x == (a, b)) = true) :
    ∃ t, arrive f s = .ok ((), t) ∧ (s.unpop t).me.arrived = some a.toNat
      ∧ (((s.unpop t).cluster (myCluster s)).barrier a.toNat).arrived
        = ((s2.cluster (myCluster s)).barrier a.toNat).arrived ++ [s.cur]
      ∧ (memberCount b ≤ ((s2.cluster (myCluster s)).barrier a.toNat).arrived.length + 1 →
        { at_ := s.cycle, step := .barrierDeparture, subject := [myCluster s, a.toNat] } ∈ (s.unpop t).agenda) := by
  obtain ⟨sources, legal, me, cur, cycle⟩ := eventSources_two hw
  have here : s2.myCore = s.myCore := congrArg coreOfSlot cur
  have number : (a.extractLsb' 0 3).toNat = a.toNat := by simp; omega
  have level : a.getLsbD 3 = false := small_bit (k := 3) ha (by decide)
  have world : a.getLsbD 4 = false := small_bit (k := 3) ha (by decide)
  have same : ((s2.cluster (clusterOfCore s.myCore)).barrier a.toNat).first.any (fun x => x != (a, b)) = false := by
    have given : ((s2.cluster (clusterOfCore s.myCore)).barrier a.toNat).first.all (fun x => x == (a, b)) = true := hfirst
    revert given
    cases ((s2.cluster (clusterOfCore s.myCore)).barrier a.toNat).first with
    | none => exact fun _ => rfl
    | some x => simp [bne]
  have scope : barrierScope a = 2 := by rw [barrierScope, world, level]; rfl
  obtain ⟨relCur, relCycle, -, -, -, relClusters, -⟩ := (Performs.releaseSlot (k := s2.cur) s2 2).rest
  rw [cur] at relCur relCycle
  refine ⟨recordArrival (s2.releaseSlot s.cur 2) (clusterOfCore s.myCore) a.toNat a b
    (((s2.cluster (clusterOfCore s.myCore)).barrier a.toNat).arrived ++ [s.cur]), ?does, ?arrived, ?joined, ?completes⟩
  case does =>
    rw [arrive, Act.bind_run sources]
    refine (Act.bind_trapIf_false (by rw [small_and_not (k := 3) ha (m := 0x7F001F) (by decide)]; rfl)).trans ?_
    refine (Act.bind_trapIf_false (by rw [high_bits_zero hb]; rfl)).trans ?_
    rw [Act.state_bind]
    simp only [number, here, cur]
    rw [Act.bind_trapIf_false (by rw [hin]; rfl), Act.bind_trapIf_false same,
      Act.bind_trapIf_false (by rw [level, world]; rfl), scope, releaseAt, Act.bind_run (modify_ok _ _), modify_ok]
    simp only [level, recordArrival, cur, Bool.and_false, Bool.false_eq_true, if_false, relCur]
    by_cases full : memberCount b ≤ (((s2.cluster (clusterOfCore s.myCore)).barrier a.toNat).arrived ++ [s.cur]).length
    · rw [if_pos full, if_neg (by rw [decide_eq_true full]; decide)]
    · rw [if_neg full, if_pos (by rw [decide_eq_false full]; decide)]
  case arrived =>
    change (recordArrival _ _ _ _ _ _).me.arrived = _
    rw [(recordArrival_keeps _ _ _ _ _ _).1]
    exact congrArg Slot.arrived (State.slot_setSlot_same _ _ _)
  case joined =>
    change (((recordArrival _ _ _ _ _ _).cluster (clusterOfCore s.myCore)).barrier a.toNat).arrived = _
    rw [(recordArrival_keeps _ _ _ _ _ _).2, barrier_modBarrier]
    rfl
  case completes =>
    intro full
    change _ ∈ (recordArrival _ _ _ _ _ _).agenda
    rw [recordArrival, if_pos (by rw [List.length_append]; exact full), ← cycle, ← relCycle]
    exact agenda_schedule _ _ _ _

/-- Settles O47. -/
theorem barriersAndMutexes : Obligations.BarriersAndMutexes := by
  unfold Obligations.BarriersAndMutexes
  refine ⟨?_, ?_, ?_, ?_, ?_, ?_⟩
  · intro f s s2 a b hw harr ha hb hin n bar hfirst
    have legal := (eventSources_two hw).2.1
    obtain ⟨t, does, arrived, joined, completes⟩ := arrive_ok hw ha hb hin hfirst
    have stops := issue_error (i := .evbar f) legal (a := do
      arrive f
      Act.wait (waitBarrier f.a)) (e := .wait (waitBarrier f.a) t) (by rw [Act.bind_run does]; rfl)
    refine ⟨s.unpop t, ?_, arrived, joined, completes⟩
    refine (issue_congr ?_).trans stops
    rw [Act.me_bind]
    simp only [harr]
  · intro f s s2 a b n hw harr hdep
    obtain ⟨sources, legal, me, -⟩ := eventSources_two hw
    refine issue_ok legal ?_
    rw [Act.me_bind]
    simp only [harr, hdep, if_true]
    rw [Act.bind_run sources]
    rfl
  · intro s cl n hs
    obtain ⟨clusters, out⟩ := departs ((s.cluster cl).barrier n).arrived 0 (s.modBarrier cl n (fun _ => {}))
    refine ⟨s.releaseBarrier cl n 0, by simp only [exec, execBarrierDeparture, hs], ?_, fun k hk => out k (.inl hk)⟩
    unfold State.releaseBarrier
    rw [clusters, barrier_modBarrier]
  · intro s die n cl lid a b hs hdie hlid hfirst hsent db hcl hfew
    obtain ⟨dies, clusters⟩ := countReceived_rest s lid
    have same : db.cl.any (fun c => c != (a.extractLsb' 16 7).toNat) = false := by
      rcases hcl with h | h
      · rw [h]; rfl
      · rw [h]; simp
    have kept : ((s.countReceived lid).die (dieOfCluster cl)).barriers.get dieBarrierDefault n = db := by
      rw [State.die, dies, ← hdie]
      rfl
    have here : ((s.countReceived lid).cluster cl).barrier n = (s.cluster cl).barrier n := by rw [State.cluster, clusters]; rfl
    refine ⟨(s.countReceived lid).modDie (dieOfCluster cl) (fun d => { d with
      barriers := d.barriers.set dieBarrierDefault n (nextArrival db cl a) }), ?_, ?_⟩
    · simp only [exec, execDieBarrierArrival, hs, State.barrierMessageAt, hlid, if_true, here, hfirst, hsent, kept, same, Bool.not_true, Bool.false_eq_true, if_false]
      rw [if_pos (by rw [List.length_append]; exact hfew)]
      rfl
    · rw [hdie, State.modDie_eq, State.die_setDie_same]
      exact congrArg DieBarrier.arrived (Assoc.get_set_same _ _ _ _)
  · intro f s s2 a b hw ha cl m q ho hf hq
    obtain ⟨sources, legal, me, cur, cycle⟩ := eventSources_two hw
    have here : s2.myCore = s.myCore := congrArg coreOfSlot cur
    have free : (s2.cluster (clusterOfCore s.myCore)).mutex a.toNat = m := rfl
    have number : (a.extractLsb' 0 3).toNat = a.toNat := by simp; omega
    refine issue_ok legal ?_
    rw [Act.bind_run sources]
    refine (Act.bind_trapIf_false (by rw [small_and_not (k := 3) ha (m := 0x7) (by decide)]; rfl)).trans ?_
    rw [Act.state_bind]
    simp only [number, here, cur, cycle, free]
    rw [Act.bind_trapIf_false (by rw [ho]; rfl), if_pos]
    · exact (modify_ok _ _).trans (by rw [cur]; rfl)
    · rw [ho, bne_iff_ne.2 hf, show ahead (((s2.cluster (clusterOfCore s.myCore)).mutexWaiters).get queueDefault a.toNat) s.cur = 0 from hq]
      rfl
  · intro f s s1 a hr hta pa ha ho u
    have cur := State.take_cur hta
    have here : s1.myCore = s.myCore := congrArg coreOfSlot cur
    have number : (a.w.extractLsb' 0 3).toNat = a.w.toNat := by simp; omega
    have sources : eventSources f false s = .ok ((a.w, 0), s1) := by
      rw [eventSources, if_neg (by decide), Act.bind_check hr, Act.bind_rd hta]
      rw [if_neg (by decide)]
      exact (Act.bind_trapIf_false (β := Word × Word) (f := fun _ => do
        Act.trapIf ({} : Val).poison .poison f.b.toNat 0
        pure (a.w, 0)) pa)
    refine issue_ok hr.1 ?_
    rw [Act.bind_run sources]
    refine (Act.bind_trapIf_false (by rw [small_and_not (k := 3) ha (m := 0x7) (by decide)]; rfl)).trans ?_
    rw [Act.state_bind]
    simp only [number, here, cur]
    rw [Act.bind_trapIf_false (by rw [show ((s1.cluster (clusterOfCore s.myCore)).mutex a.w.toNat).owner = some s.cur from ho]; simp),
      releaseAt, Act.bind_run (modify_ok _ _), cur]
    rfl

end Sys2Proof.Statements
end

section
/-! SUPPORT. The front end: what its accesses do, and how a packet is decided (R326 to R345). -/

namespace Sys2Proof.Machine

/-! ## Sequences -/

theorem Front.bind_ok {α β : Type} {a : Front α} {f : α → Front β} {s t : State} {x : α} (h : a s = .ok (x, t)) :
    (a >>= f) s = f x t := by simp [bind, StateT.bind, h, Except.bind]

theorem Front.bind_error {α β : Type} {a : Front α} {f : α → Front β} {s : State} {e : FrontStop} (h : a s = .error e) :
    (a >>= f) s = .error e := by simp [bind, StateT.bind, h, Except.bind]

theorem Front.modify_ok (f : State → State) (s : State) : Front.modify f s = .ok ((), f s) := rfl

/-! ## Memory at home -/

theorem Mem.bytes_congr {m m' : Mem} {a n : Nat} (h : ∀ x, a ≤ x → x < a + n → m.byte x = m'.byte x) :
    m.bytes a n = m'.bytes a n := by
  induction n generalizing a with
  | zero => rfl
  | succ n ih =>
    rw [Mem.bytes, Mem.bytes, h a (Nat.le_refl a) (by omega), ih fun x _ _ => h x (by omega) (by omega)]

/-- A run of bytes that has been written is read again. -/
theorem Mem.bytes_write (m : Mem) (a : Nat) (bs : List Byte) (poison : Bool) :
    (m.write a bs poison).bytes a bs.length = bs := by
  induction bs generalizing m a with
  | nil => rfl
  | cons b bs ih =>
    rw [List.length_cons, Mem.bytes, Mem.byte_write, if_pos (by simp), Nat.sub_self, List.getD_cons_zero]
    refine congrArg (b :: ·) ((Mem.bytes_congr (m' := m.write (a + 1) bs poison) fun x hx hb => ?_).trans (ih m (a + 1)))
    rw [Mem.byte_write, Mem.byte_write, if_pos (by simp; omega), if_pos (by omega)]
    obtain ⟨k, rfl⟩ := Nat.exists_eq_add_of_le hx
    rw [show a + 1 + k - a = k + 1 by omega, show a + 1 + k - (a + 1) = k by omega, List.getD_cons_succ]

theorem State.judge_memAt (s : State) (p : Packet) (q : Place) : (s.judge p).memAt q = s.memAt q := by
  unfold State.judge
  simp only
  split
  · rfl
  · split
    · rfl
    · split
      · rfl
      · rfl

theorem memAt_foldl {α : Type} {f : State → α → State} {q : Place} (hf : ∀ s a, (f s a).memAt q = s.memAt q) (l : List α)
    (s : State) : (l.foldl f s).memAt q = s.memAt q := by
  induction l generalizing s with
  | nil => rfl
  | cons a l ih => exact (ih _).trans (hf s a)

/-- Those who wait for a word do not write. -/
theorem State.wakeWords_memAt (s : State) (p : Piece) (q : Place) : (s.wakeWords p).memAt q = s.memAt q := by
  refine (memAt_foldl (fun u e => ?_) _ _).trans ?_
  · split
    · split
      · rfl
      · rfl
    · rfl
  · unfold State.signalWritten
    split
    · exact memAt_foldl (fun u e => u.judge_memAt e q) _ _
    · rfl

/-- A write of an agent without an L1 goes into memory as it stands once the L1s have given up their copies. -/
theorem State.homeWrite_memAt (s : State) (w : Nat) (p : Place) (a : Nat) (bs : List Byte) (poison : Bool) :
    (s.homeWrite w p a bs poison).memAt p
      = ((if p.cached then s.invalidateOthers [] (lineKey p a) else s).memAt p).write a bs poison := by
  unfold State.homeWrite
  simp only
  rw [State.wakeWords_memAt, State.memAt_raiseVersion, State.memAt_setMemAt_same]
  split
  · rw [State.memAt_logRange]
  · rw [State.memAt_logRange]

theorem State.homeWrite_bytes (s : State) (w : Nat) (p : Place) (a : Nat) (bs : List Byte) (poison : Bool) :
    ((s.homeWrite w p a bs poison).memAt p).bytes a bs.length = bs := by
  rw [State.homeWrite_memAt, Mem.bytes_write]

/-! ## Packets -/

/-- A packet whose fields change keeps its place, where its number stays. -/
theorem State.packet_modPacket {s : State} {id : Nat} {f : Packet → Packet} (hf : ∀ p, (f p).id = p.id) :
    (s.modPacket id f).packet id = (s.packet id).map f := by
  unfold State.packet State.modPacket
  rw [List.find?_map]
  have same : ((fun p : Packet => p.id == id) ∘ fun p => if p.id = id then f p else p) = fun p => p.id == id := by
    funext p
    by_cases h : p.id = id
    · simp only [Function.comp, if_pos h, hf]
    · simp only [Function.comp, if_neg h]
  rw [same]
  cases found : s.packets.find? (fun p => p.id == id) with
  | none => rfl
  | some p =>
    have number : p.id = id := by simpa using List.find?_some found
    simp only [Option.map_some, if_pos number]

theorem State.packet_modPacket_ne {s : State} {id j : Nat} {f : Packet → Packet} (hf : ∀ p, (f p).id = p.id) (h : j ≠ id) :
    (s.modPacket id f).packet j = s.packet j := by
  unfold State.packet State.modPacket
  rw [List.find?_map]
  have same : ((fun p : Packet => p.id == j) ∘ fun p => if p.id = id then f p else p) = fun p => p.id == j := by
    funext p
    by_cases h : p.id = id
    · simp only [Function.comp, if_pos h, hf]
    · simp only [Function.comp, if_neg h]
  rw [same]
  cases found : s.packets.find? (fun p => p.id == j) with
  | none => rfl
  | some p =>
    have number : p.id = j := by simpa using List.find?_some found
    simp only [Option.map_some, if_neg (number ▸ h)]

/-- An access to memory changes only what a packet's signals have told. -/
theorem MemMoves.packet {s t : State} (h : MemMoves s t) {id : Nat} {p : Packet} (hp : s.packet id = some p) :
    ∃ v, t.packet id = some { p with verdict := v } := by
  obtain ⟨f, ht⟩ := h.packets
  refine ⟨f p, ?_⟩
  unfold State.packet at hp ⊢
  rw [ht, List.find?_map]
  exact congrArg (Option.map (fun p => ({ p with verdict := f p } : Packet))) hp

theorem State.packet_startWork {s : State} {id : Nat} {p : Packet} (h : s.packet id = some p) :
    (s.startWork id).packet id = some (if p.tstart = 0 then { p with tstart := s.now } else p) := by
  unfold State.startWork
  rw [State.packet_modPacket fun p => by by_cases h : p.tstart = 0 <;> simp only [h, if_true, if_false], h]
  rfl

theorem State.decidePacket_eq {s : State} {id : Nat} {p : Packet} {v : EndValues} (h : s.packet id = some p) (open_ : p.result = none) :
    s.decidePacket id v
      = (s.modPacket id (fun p => { p with result := some v, waiting := false })).schedule s.cycle .packetEnd [id] := by
  simp only [State.decidePacket, h, open_]
  rfl

/-- A packet whose end is open is decided. -/
theorem State.packet_decidePacket {s : State} {id : Nat} {p : Packet} {v : EndValues} (h : s.packet id = some p)
    (open_ : p.result = none) :
    (s.decidePacket id v).packet id = some { p with result := some v, waiting := false } := by
  rw [State.decidePacket_eq h open_]
  refine (State.packet_modPacket (f := fun p => { p with result := some v, waiting := false }) fun _ => rfl).trans ?_
  rw [h]
  rfl

theorem State.decidePacket_memAt (s : State) (id : Nat) (v : EndValues) (q : Place) : (s.decidePacket id v).memAt q = s.memAt q := by
  unfold State.decidePacket
  split
  · rfl
  · split
    · rfl
    · rfl

/-- The state after front-end work that has gone through. -/
def wentThrough (s : State) (id : Nat) : State :=
  { s.modPacket id (fun p => { p with waiting := false }) with hostOnce := s.hostOnce.filter (fun f => f.1 != .packet id) }

theorem packet_wentThrough {s : State} {id : Nat} {p : Packet} (h : s.packet id = some p) :
    (wentThrough s id).packet id = some { p with waiting := false } := by
  refine (State.packet_modPacket (s := s) (f := fun p => { p with waiting := false }) fun _ => rfl).trans ?_
  rw [h]
  rfl

theorem State.runFront_ok {s t : State} {p : Packet} {a : Front Unit} (h : a s = .ok ((), t)) :
    s.runFront p a = wentThrough t p.id := by
  simp only [State.runFront, h]
  rfl

theorem State.runFront_fail {s : State} {p : Packet} {a : Front Unit} {v : EndValues} (h : a s = .error (.fail v)) :
    s.runFront p a = s.decidePacket p.id v := by
  simp only [State.runFront, h]

theorem State.workFront_ok {s t : State} {p : Packet} {a : Front Unit} (h : a (s.startWork p.id) = .ok ((), t)) :
    s.workFront p a = wentThrough (t.decidePacket p.id {}) p.id :=
  State.runFront_ok ((Front.bind_ok h).trans (Front.modify_ok _ _))

theorem State.workFront_fail {s : State} {p : Packet} {a : Front Unit} {v : EndValues} (h : a (s.startWork p.id) = .error (.fail v)) :
    s.workFront p a = (s.startWork p.id).decidePacket p.id v :=
  State.runFront_fail (Front.bind_error h)

end Sys2Proof.Machine

namespace Sys2Proof.Statements

open Sys2Proof.Machine

theorem Working.subjectPacket {s : State} {p : Packet} (h : Working s p) : s.subjectPacket = some p := by
  obtain ⟨subject, here, open_⟩ := h
  simp only [State.subjectPacket, subject, here, Option.filter, open_]
  rfl

/-- Work that goes through decides its packet, and writes nothing more. -/
theorem workFront_completes {s u : State} {p q : Packet} {work : Front Unit} (h : work (s.startWork p.id) = .ok ((), u))
    (hq : u.packet p.id = some q) (open_ : q.result = none) :
    Decided (s.workFront p work) p.id {} ∧ ∀ pl, (s.workFront p work).memAt pl = u.memAt pl := by
  rw [State.workFront_ok h]
  refine ⟨⟨_, packet_wentThrough (State.packet_decidePacket hq open_), rfl⟩, fun pl => ?_⟩
  exact (by cases pl <;> rfl : _ = (u.decidePacket p.id {}).memAt pl).trans (State.decidePacket_memAt _ _ _ _)

/-- A packet that is being worked on fails. -/
theorem started_fails {s : State} {p : Packet} (h : Working s p) (v : EndValues) :
    Decided ((s.startWork p.id).decidePacket p.id v) p.id v
      ∧ ∀ pl, ((s.startWork p.id).decidePacket p.id v).memAt pl = s.memAt pl := by
  obtain ⟨-, here, open_⟩ := h
  refine ⟨⟨_, State.packet_decidePacket (State.packet_startWork here) ?_, rfl⟩, fun pl => ?_⟩
  · split
    · exact open_
    · exact open_
  · exact (State.decidePacket_memAt _ _ _ _).trans (by cases pl <;> rfl)

end Sys2Proof.Statements
end

section
/-! SUPPORT. The short packets (R327, R342, R343). -/

namespace Sys2Proof.Statements

open Sys2Proof.Machine

/-- A packet of these kinds does its work and completes. -/
theorem exec_shortPacket {i : Instr} {p : Packet} {work : Front Unit} {s : State} (h : shortPacket i p = some work)
    (hp : Working s p) : exec i s = .next (s.workFront p work) := by
  unfold shortPacket at h
  split at h
  · cases h
    simp only [exec, execNopPacket, hp.subjectPacket]
  · cases h
    simp only [exec, execTimestampPacket, hp.subjectPacket]
  · cases h
    simp only [exec, execSignalPacket, hp.subjectPacket]
  · cases h

/-- The machine's sum of two signed words is the statement's. -/
theorem signalValue_eq (op : Nat) (old v : DWord) : signalValue op old v = signalled op old v := by
  unfold signalValue signalled
  by_cases h : op = 1
  · rw [if_pos h, if_pos h]
  · rw [if_neg h, if_neg h]
    by_cases fits : -(2 ^ 63) ≤ old.toInt + v.toInt ∧ old.toInt + v.toInt < 2 ^ 63
    · rw [if_pos fits, if_neg (by simp; omega), BitVec.ofInt_add, BitVec.ofInt_toInt, BitVec.ofInt_toInt]
    · rw [if_neg fits, if_pos (by simp; omega)]
      rfl

/-- An aligned range of 8 bytes lies in one sector. -/
theorem cutRange_eight {va : Nat} (h : va % 8 = 0) : cutRange 64 va 8 = [(va, 8)] := by
  have units : (va + 8 - 1) / 64 - va / 64 + 1 = 1 := by omega
  simp only [cutRange, units]
  simp
  omega

/-- An update of a word that is found writes it home once no L1 holds it. -/
theorem frontUpdate_ok {t : Translator} {va : Nat} {f : DWord → DWord} {s s1 : State} {pl : Place} {a : Nat}
    (h : frontPlace t va true s = .ok ((pl, a), s1)) :
    let s2 := if pl.cached then s1.invalidateOthers [] (lineKey pl a) else s1
    frontUpdate t va f s = .ok ((), s2.homeWrite t.world pl a
      (bytesOfWord 8 (f (BitVec.ofNat 64 (leNat ((s2.memAt pl).bytes a 8)))).toNat) false) :=
  (Front.bind_ok h).trans (Front.modify_ok _ _)

theorem frontWrite_eight {t : Translator} {va : Nat} {n : Nat} {s s1 : State} {pl : Place} {a : Nat} (hva : va % 8 = 0)
    (h : frontPlace t va true s = .ok ((pl, a), s1)) :
    frontWrite t va (noPoison (bytesOfWord 8 n)) s = .ok ((), s1.homeWrite t.world pl a (bytesOfWord 8 n) false) := by
  have length : (noPoison (bytesOfWord 8 n)).length = 8 := by rfl
  rw [frontWrite, length, cutRange_eight hva]
  exact (Front.bind_ok h).trans ((Front.bind_ok (Front.modify_ok _ _)).trans rfl)

/-- A record that is not held, or does not fit. -/
theorem provenance_none {p : Packet} {s : State} (hp : Working s p)
    (h : p.field 40 4 < 0xF00 ∨ (∀ r ∈ s.provs, r.queue = p.queue → r.idx.toNat ≠ p.field 44 4)
      ∨ ∃ x ∈ s.packets, x.queue = p.queue ∧ x.idx.toNat = p.field 44 4) :
    exec .provenancePacket s = .next ((s.startWork p.id).decidePacket p.id { status := 0x46 }) := by
  have short : ∀ o : Option ProvRecord, (o = none ∨ p.field 40 4 < 0xF00) → (match o with
      | none => (s.startWork p.id).decidePacket p.id { status := statusNoprov }
      | some r =>
        if p.field 40 4 < 0xF00 then (s.startWork p.id).decidePacket p.id { status := statusNoprov }
        else s.workFront p (frontWrite p.translator (p.field 32 8) (noPoison r.bytes)))
      = (s.startWork p.id).decidePacket p.id { status := 0x46 } := by
    rintro (_ | r) ho
    · rfl
    · exact if_pos (ho.resolve_left (by simp))
  simp only [exec, execProvenancePacket, hp.subjectPacket]
  refine congrArg Host.Outcome.next (short _ ?_)
  rcases h with few | missing | ⟨x, hx, queue, index⟩
  · exact .inr few
  · refine .inl (List.find?_eq_none.2 fun r hr => ?_)
    have := missing r hr
    simp only [Bool.and_eq_true, beq_iff_eq, not_and]
    exact fun h => this h.2
  · refine .inl (List.find?_eq_none.2 fun r _ => ?_)
    have running : (s.packets.any (fun x => x.queue == p.queue && x.idx.toNat == p.field 44 4)) = true :=
      List.any_eq_true.2 ⟨x, hx, by simp [queue, index]⟩
    simp [running]

/-- A record that is held is copied. -/
theorem provenance_held {p : Packet} {s : State} {r : ProvRecord} (hp : Working s p) (room : 0xF00 ≤ p.field 40 4)
    (ended : ∀ x ∈ s.packets, x.queue = p.queue → x.idx.toNat ≠ p.field 44 4)
    (held : s.provs.find? (fun r => r.queue == p.queue && r.idx.toNat == p.field 44 4) = some r) :
    exec .provenancePacket s = .next (s.workFront p (frontWrite p.translator (p.field 32 8) (noPoison r.bytes))) := by
  have done : (s.packets.any (fun x => x.queue == p.queue && x.idx.toNat == p.field 44 4)) = false :=
    List.any_eq_false.2 fun x hx => by simpa using ended x hx
  simp only [exec, execProvenancePacket, hp.subjectPacket, done, Bool.not_false, Bool.true_and, held]
  rw [if_neg (Nat.not_lt.2 room)]

/-- Settles O51. -/
theorem shortPackets : Obligations.ShortPackets := by
  unfold Obligations.ShortPackets
  refine ⟨?_, ?_, ?_, ?_, ?_, ?_⟩
  · intro i p q work s u hi hp hw hq ho
    exact ⟨_, exec_shortPacket hi hp, workFront_completes hw hq ho⟩
  · intro i p work s v hi hp hw
    refine ⟨_, (exec_shortPacket hi hp).trans (by rw [State.workFront_fail hw]), started_fails hp v⟩
  · intro p s s1 pl a hp hpl s2 old
    refine ⟨_, exec_shortPacket rfl hp, ?_⟩
    rw [State.workFront_ok (frontUpdate_ok hpl), ← signalValue_eq]
    have place : ∀ (u : State), (wentThrough (u.decidePacket p.id {}) p.id).memAt pl = u.memAt pl := fun u =>
      (by cases pl <;> rfl : _ = (u.decidePacket p.id {}).memAt pl).trans (State.decidePacket_memAt _ _ _ _)
    rw [place]
    refine (congrArg (Mem.bytes _ a) (rfl : (8 : Nat) = (bytesOfWord 8 _).length)).trans (State.homeWrite_bytes _ _ _ _ _ _)
  · intro p q s s1 pl a hp hva hpl hq ho
    obtain ⟨v, here⟩ := (MemMoves.homeWrite s1 p.translator.world pl a (bytesOfWord 8 p.taken) false).packet hq
    obtain ⟨decided, place⟩ := workFront_completes (frontWrite_eight (n := p.taken) hva hpl) here ho
    refine ⟨_, exec_shortPacket rfl hp, decided, ?_⟩
    rw [place]
    exact (congrArg (Mem.bytes _ a) (rfl : (8 : Nat) = (bytesOfWord 8 _).length)).trans (State.homeWrite_bytes _ _ _ _ _ _)
  · intro p q s u r hp hroom hended hheld hw hq ho
    exact ⟨_, provenance_held hp hroom hended hheld, workFront_completes hw hq ho⟩
  · intro p s hp h
    exact ⟨_, provenance_none hp h, (started_fails hp _).1⟩

end Sys2Proof.Statements
end

section
/-! SUPPORT. Taking packets, KICK, and the reset of a queue (R329, R333 to R337, R344). -/

namespace Sys2Proof.Machine

theorem State.queue_modQueue_ne (s : State) {q r : Nat} (f : Queue → Queue) (h : r ≠ q) : (s.modQueue q f).queue r = s.queue r := by
  unfold State.modQueue
  split
  · rfl
  · exact Assoc.find_put_ne _ _ h

/-- A queue that changes leaves the rest of the front end. -/
theorem State.modQueue_rest (s : State) (q : Nat) (f : Queue → Queue) : (s.modQueue q f).packets = s.packets
    ∧ (s.modQueue q f).nextTake = s.nextTake ∧ (s.modQueue q f).agenda = s.agenda ∧ (s.modQueue q f).cycle = s.cycle := by
  unfold State.modQueue
  split
  · exact ⟨rfl, rfl, rfl, rfl⟩
  · exact ⟨rfl, rfl, rfl, rfl⟩

theorem State.decidePacket_rest (s : State) (id : Nat) (v : EndValues) :
    (s.decidePacket id v).queues = s.queues ∧ (s.decidePacket id v).nextTake = s.nextTake := by
  unfold State.decidePacket
  split
  · exact ⟨rfl, rfl⟩
  · split
    · exact ⟨rfl, rfl⟩
    · exact ⟨rfl, rfl⟩

/-- What the front end notes of a packet as it takes it. -/
def Noted (p p' : Packet) (bs : List (Byte × Bool)) : Prop :=
  p'.queue = p.queue ∧ p'.idx = p.idx ∧ p'.wid = p.wid ∧ p'.taken = p.taken ∧ (bs.any Prod.snd = false → p'.bytes = p.bytes)

theorem State.begin_packet {s : State} {p : Packet} (bs : List (Byte × Bool)) (h : s.packet p.id = some p) (ho : p.result = none) :
    ∃ p', (s.begin p bs).packet p.id = some p' ∧ Noted p p' bs := by
  have decided := fun v => State.packet_decidePacket (v := v) h ho
  have same : Noted p p bs := ⟨rfl, rfl, rfl, rfl, fun _ => rfl⟩
  have emptied : (s.modPacket p.id (fun p => { p with bytes := [] })).packet p.id = some { p with bytes := [] } := by
    rw [State.packet_modPacket (f := fun p => { p with bytes := [] }) fun _ => rfl, h]
    rfl
  unfold State.begin
  split
  next early =>
    refine ⟨_, State.packet_decidePacket emptied ho, rfl, rfl, rfl, rfl, fun clean => ?_⟩
    obtain ⟨x, hx, poison⟩ := List.any_eq_true.1 early
    exact absurd poison (List.any_eq_false.1 clean x (List.mem_of_mem_take hx))
  · split
    · exact ⟨_, decided _, rfl, rfl, rfl, rfl, fun _ => rfl⟩
    · split
      · exact ⟨_, decided _, rfl, rfl, rfl, rfl, fun _ => rfl⟩
      · split <;> exact ⟨p, h, same⟩

theorem State.begin_rest (s : State) (p : Packet) (bs : List (Byte × Bool)) :
    (s.begin p bs).queues = s.queues ∧ (s.begin p bs).nextTake = s.nextTake := by
  unfold State.begin
  split
  · exact (State.decidePacket_rest _ _ _)
  · split
    · exact State.decidePacket_rest _ _ _
    · split
      · exact State.decidePacket_rest _ _ _
      · split <;> exact ⟨rfl, rfl⟩

/-- A queue that begins to drain is done where no packet of it is left. -/
theorem State.checkDrain_done {s : State} {q : Nat} {x : Queue} (h : s.queue q = some x) (hd : x.draining = true)
    (hn : s.unended q = []) : s.checkDrain q = s.schedule s.cycle .queueDrainComplete [q] := by
  simp only [State.checkDrain, h, hd, hn]
  rfl

theorem State.checkDrain_queues (s : State) (q : Nat) : (s.checkDrain q).queues = s.queues := by
  unfold State.checkDrain
  split
  · split
    · rfl
    · rfl
  · rfl

end Sys2Proof.Machine

namespace Sys2Proof.Statements

open Sys2Proof.Machine

/-- The packet that is taken from the queue that is served. -/
def takenPacket (s : State) (q : Nat) (x : Queue) (bs : List (Byte × Bool)) : Packet :=
  { id := s.nextId, queue := q, idx := x.ridx, wid := x.wid, pasid := x.pasid, prio := x.prio, bytes := bs.map Prod.fst
    type := ((bs.map Prod.fst).getD 0 0).toNat, taken := s.now }

/-- The front end with that packet, and the queue behind it. -/
def withTaken (s : State) (q : Nat) (x : Queue) (bs : List (Byte × Bool)) : State :=
  ({ s with
    nextId := s.nextId + 1, packets := s.packets ++ [takenPacket s q x bs], nextTake := s.time + 17136
    served := s.served.put x.prio q
    hostOnce := s.hostOnce.filter (fun f => f.1 != AtsUser.packet (2 ^ 40 + q)) } : State).modQueue q
      (fun x => { x with ridx := x.ridx + 1 })

theorem exec_packetTake {s s1 : State} {q : Nat} {x : Queue} {bs : List (Byte × Bool)} (ht : s.nextTake ≤ s.time)
    (hu : s.updating = false) (hp : s.pick s.serveOrder = (some (q, bs), s1)) (hq : s1.queue q = some x) :
    exec .packetTake s = .next ((withTaken s1 q x bs).begin (takenPacket s1 q x bs) bs) := by
  have now : (decide (s.time < s.nextTake) || s.updating) = false := by simp [hu, ht]
  simp only [exec, execPacketTake, now, hp, hq]
  rfl

theorem packet_withTaken {s : State} {q : Nat} {x : Queue} {bs : List (Byte × Bool)} (h : s.packet s.nextId = none) :
    (withTaken s q x bs).packet s.nextId = some (takenPacket s q x bs) := by
  have appended : (s.packets ++ [takenPacket s q x bs]).find? (fun p => p.id == s.nextId) = some (takenPacket s q x bs) := by
    rw [List.find?_append, show s.packets.find? (fun p => p.id == s.nextId) = none from h]
    simp [takenPacket]
  unfold withTaken State.packet
  rw [(State.modQueue_rest _ _ _).1]
  exact appended

/-- Settles O53. -/
theorem queues : Obligations.Queues := by
  unfold Obligations.Queues
  refine ⟨?_, ?_, ?_, ?_⟩
  · intro s s1 q x bs ht hu hp hq hn
    obtain ⟨p, here, queue, idx, wid, taken, bytes⟩ := State.begin_packet (p := takenPacket s1 q x bs) bs (packet_withTaken hn) rfl
    obtain ⟨queues, next⟩ := State.begin_rest (withTaken s1 q x bs) (takenPacket s1 q x bs) bs
    refine ⟨_, p, exec_packetTake ht hu hp hq, here, queue, idx, wid, taken, bytes, ?_, ?_⟩
    · rw [State.queue_of_queues_eq queues]
      exact State.queue_modQueue_same _ hq
    · rw [next]
      exact (State.modQueue_rest _ _ _).2.1
  · intro s q x w hq hd hx behind ahead
    refine ⟨fun more room clean => ?_, fun h => execKick_ignored hq fun ⟨more, room⟩ => ?_⟩
    · refine ⟨s.modQueue q (fun x => { x with kick := w }), ?_, State.queue_modQueue_same _ hq,
        fun r hr => State.queue_modQueue_ne s _ hr, (State.modQueue_rest _ _ _).1⟩
      simp only [exec, execKick, hq, hd, hx, clean]
      rw [decide_eq_true (p := (x.kick - x.ridx).toNat < (w - x.ridx).toNat) more,
        decide_eq_true (p := (w - x.ridx).toNat ≤ x.nslot) room]
      rfl
    · omega
  · intro s q x hq
    have draining : (s.modQueue q (fun x => { x with draining := true })).queue q = some { x with draining := true } :=
      State.queue_modQueue_same _ hq
    obtain ⟨packets, -, -, cycle⟩ := State.modQueue_rest s q (fun x => { x with draining := true })
    refine ⟨_, rfl, (State.queue_of_queues_eq (State.checkDrain_queues _ _) q).trans draining, fun none => ?_⟩
    rw [State.checkDrain_done draining rfl (by rw [State.unended, packets]; exact none), cycle]
    exact ⟨_, agenda_schedule _ _ _ _, rfl, rfl, rfl⟩
  · intro s q x hs hq hd hn
    cases gone : x.destroying with
    | true =>
      refine ⟨s.removeQueue q x, ?_, fun _ => Assoc.find_erase_same _ _, nofun⟩
      simp only [exec, execQueueDrainComplete, hs, hq, hd, hn, gone]
      rfl
    | false =>
      refine ⟨s.modQueue q (fun x => { x with
          draining := false, error := false, errStat := 0, errIdx := 0, errSig := 0, ridx := x.kick, oldest := none }), ?_,
        nofun, fun _ => ⟨_, State.queue_modQueue_same _ hq, rfl, rfl, rfl, rfl, rfl, ?_⟩⟩
      · simp only [exec, execQueueDrainComplete, hs, hq, hd, hn, gone]
        rfl
      · have none : (s.modQueue q (fun x => { x with
            draining := false, error := false, errStat := 0, errIdx := 0, errSig := 0, ridx := x.kick, oldest := none })).unended q
            = [] := by
          rw [State.unended, (State.modQueue_rest _ _ _).1]
          exact hn
        simp only [State.queueMode, none]
        rfl

end Sys2Proof.Statements
end

section
/-! SUPPORT. COPY and BARRIER packets (R226, R326, R328, R342, R344). -/

namespace Sys2Proof.Machine

open Sys2Proof.Statements

theorem State.modPacket_memAt (s : State) (id : Nat) (f : Packet → Packet) (q : Place) :
    (s.modPacket id f).memAt q = s.memAt q := by
  cases q <;> rfl

theorem wentThrough_memAt (s : State) (id : Nat) (q : Place) : (wentThrough s id).memAt q = s.memAt q := by
  cases q <;> rfl

/-! ## What a BARRIER finds -/

theorem Cond.holds_iff (c : Cond) (v : DWord) : c.holds v = true ↔ condHolds c v := by
  obtain ⟨va, place, off, cmp, thr⟩ := c
  match cmp with
  | 0 => exact beq_iff_eq (a := v) (b := thr)
  | 1 => exact bne_iff_ne (a := v) (b := thr)
  | 2 => exact BitVec.slt_iff_toInt_lt (x := v) (y := thr)
  | 3 => exact BitVec.sle_iff_toInt_le (x := v) (y := thr)
  | 4 => exact BitVec.slt_iff_toInt_lt (x := thr) (y := v)
  | _ + 5 => exact BitVec.sle_iff_toInt_le (x := thr) (y := v)

theorem negative_iff (v : DWord) : v.slt 0 = decide (v.toInt < 0) := by simp [BitVec.slt_eq_decide]

theorem State.evaluate_aborted {s : State} {conds : List Cond} {c : Cond}
    (h : conds.find? (fun c => decide ((s.signal c).toInt < 0)) = some c) : s.evaluate conds = some (some c.va) := by
  simp only [State.evaluate, negative_iff, h]

theorem State.evaluate_open {s : State} {conds : List Cond} (h : ∀ c ∈ conds, 0 ≤ (s.signal c).toInt) :
    s.evaluate conds = if conds.all (fun c => c.holds (s.signal c)) then some none else none := by
  have none : conds.find? (fun c => decide ((s.signal c).toInt < 0)) = none :=
    List.find?_eq_none.2 fun c hc => by simpa using h c hc
  simp only [State.evaluate, negative_iff, none]

theorem State.evaluate_complete {s : State} {conds : List Cond} (h : ∀ c ∈ conds, 0 ≤ (s.signal c).toInt)
    (all : ∀ c ∈ conds, condHolds c (s.signal c)) : s.evaluate conds = some none := by
  rw [State.evaluate_open h, if_pos (List.all_eq_true.2 fun c hc => (c.holds_iff _).2 (all c hc))]

theorem State.evaluate_waits {s : State} {conds : List Cond} (h : ∀ c ∈ conds, 0 ≤ (s.signal c).toInt)
    (some_ : ∃ c ∈ conds, ¬ condHolds c (s.signal c)) : s.evaluate conds = none := by
  obtain ⟨c, hc, fails⟩ := some_
  rw [State.evaluate_open h, if_neg fun all => fails ((c.holds_iff _).1 (List.all_eq_true.1 all c hc))]

/-! ## Its evaluation -/

/-- What an evaluation of a BARRIER has decided is noted, and acts in the same cycle. -/
def withVerdict (s : State) (id : Nat) : Option (Option Nat) → State
  | none => s
  | some v => (s.modPacket id (fun p => { p with verdict := some v })).schedule s.cycle .barrierEvaluate [id]

section
variable {s : State} {p q : Packet} {conds : List Cond} (some_ : conds ≠ []) (open_ : p.verdict = none) (runs : p.result = none)
  (stands : conds.filterMap (s.placeCond p.translator) = conds)
include some_ open_ runs stands

theorem State.judge_standing : s.judge { p with conds := conds } = withVerdict s p.id (s.evaluate conds) := by
  have waits : (conds.isEmpty || p.verdict.isSome || p.result.isSome) = false := by
    rw [open_, runs]
    cases conds with
    | nil => exact absurd rfl some_
    | cons c cs => rfl
  have found : conds.filterMap (s.placeCond ({ p with conds := conds } : Packet).translator) = conds := stands
  simp only [State.judge, waits, found]
  rw [if_neg (by decide), if_neg (Nat.lt_irrefl _)]
  cases s.evaluate conds with
  | none => rfl
  | some v => rfl

/-- The verdict of a BARRIER is what its signals tell. -/
theorem State.judge_packet (here : s.packet p.id = some q) (fresh : q.verdict = none) :
    (s.judge { p with conds := conds }).packet p.id = some { q with verdict := s.evaluate conds }
      ∧ (s.judge { p with conds := conds }).cycle = s.cycle ∧ (s.judge { p with conds := conds }).cyclesFor = s.cyclesFor := by
  rw [State.judge_standing some_ open_ runs stands]
  cases s.evaluate conds with
  | none => exact ⟨here.trans (by rw [← fresh]), rfl, rfl⟩
  | some v =>
    refine ⟨(State.packet_modPacket (f := fun p => { p with verdict := some v }) fun _ => rfl).trans ?_, rfl, rfl⟩
    rw [here]
    rfl

end

theorem State.pollLater_packet {s : State} {id : Nat} {q : Packet} (conds : List Cond) (h : s.packet id = some q) :
    ∃ n, (s.pollLater id conds).packet id = some { q with poll := n } := by
  unfold State.pollLater
  simp only
  split
  · refine ⟨s.cycle + s.cyclesFor 1000,
      (State.packet_modPacket (s := s) (f := fun p => { p with poll := s.cycle + s.cyclesFor 1000 }) fun _ => rfl).trans ?_⟩
    rw [h]
    rfl
  · exact ⟨q.poll, h⟩

theorem State.pollLater_due {s : State} {id : Nat} {q : Packet} {conds : List Cond} (h : s.packet id = some q)
    (host : conds.any (fun c => c.place == .host) = true) (due : q.poll ≤ s.cycle) :
    { at_ := s.cycle + s.cyclesFor 1000, step := .hostSignalPoll, subject := [id] } ∈ (s.pollLater id conds).agenda := by
  have now : (conds.any (fun c => c.place == .host) && (s.packet id).any (fun p => decide (p.poll ≤ s.cycle))) = true := by
    rw [host, h]
    simp [due]
  simp only [State.pollLater, now, if_true]
  exact agenda_schedule _ _ _ _

/-- A BARRIER with conditions, once it has found their places. -/
def weigh (s : State) (p : Packet) (conds : List Cond) : State :=
  ((s.modPacket p.id (fun p => { p with conds := conds })).judge { p with conds := conds }).pollLater p.id conds

theorem weigh_packet {u : State} {p q : Packet} {conds : List Cond} (some_ : conds ≠ []) (open_ : p.verdict = none)
    (runs : p.result = none) (stands : Standing u p conds) (here : u.packet p.id = some q) (fresh : q.verdict = none) :
    (∃ n, (weigh u p conds).packet p.id = some { q with conds := conds, verdict := u.evaluate conds, poll := n })
      ∧ (conds.any (fun c => c.place == .host) = true → q.poll ≤ u.cycle →
        { at_ := u.cycle + u.cyclesFor 1000, step := .hostSignalPoll, subject := [p.id] } ∈ (weigh u p conds).agenda) := by
  have noted : (u.modPacket p.id (fun p => { p with conds := conds })).packet p.id = some { q with conds := conds } := by
    rw [State.packet_modPacket (f := fun p => { p with conds := conds }) fun _ => rfl, here]
    rfl
  obtain ⟨judged, cycle, cycles⟩ := State.judge_packet some_ open_ runs stands noted fresh
  refine ⟨State.pollLater_packet conds judged, fun host due => ?_⟩
  have next := State.pollLater_due judged host (by rw [cycle]; exact due)
  rw [cycle, cycles] at next
  exact next

end Sys2Proof.Machine

namespace Sys2Proof.Statements

open Sys2Proof.Machine

/-- A COPY after the block that it has moved. -/
def copied (u : State) (p : Packet) (n : Nat) : State :=
  let s := u.modPacket p.id (fun p => { p with done := p.done + 1 })
  if n ≤ p.done + 1 then s.decidePacket p.id {}
  else ({ s with draws := s.draws + 1 } : State).schedule (s.cycle + 1 + Config.delay s.draws) .copyPacket [p.id]

theorem copied_memAt (u : State) (p : Packet) (n : Nat) (pl : Place) : (copied u p n).memAt pl = u.memAt pl := by
  unfold copied
  simp only
  split
  · exact (State.decidePacket_memAt _ _ _ _).trans (State.modPacket_memAt _ _ _ _)
  · exact (by cases pl <;> rfl : _ = (u.modPacket p.id (fun p => { p with done := p.done + 1 })).memAt pl).trans
      (State.modPacket_memAt _ _ _ _)

theorem exec_copyPacket {p : Packet} {s u : State} (hp : Working s p) (began : p.tstart ≠ 0)
    (h : copyBlock p p.done (s.startWork p.id) = .ok ((), u)) :
    exec .copyPacket s = .next (wentThrough (copied u p (cutRange 64 (p.field 40 8) (p.field 48 8)).length) p.id) := by
  have later : ¬ (p.done = 0 ∧ p.tstart = 0) := fun h => began h.2
  simp only [exec, execCopyPacket, hp.subjectPacket, Bool.and_eq_true, decide_eq_true_eq]
  rw [if_neg later, hp.2.1]
  exact congrArg Host.Outcome.next (State.runFront_ok ((Front.bind_ok h).trans (Front.modify_ok _ _)))

theorem exec_barrierPacket {p : Packet} {s u : State} {conds : List Cond} (hp : Working s p)
    (h : condsFrom p 4 (s.startWork p.id) = .ok (conds, u)) :
    exec .barrierPacket s
      = .next (wentThrough (if conds = [] then u.decidePacket p.id {} else weigh u p conds) p.id) := by
  simp only [exec, execBarrierPacket, hp.subjectPacket]
  refine congrArg Host.Outcome.next (State.runFront_ok ((Front.bind_ok h).trans ((Front.modify_ok _ _).trans ?_)))
  cases conds with
  | nil => rfl
  | cons c cs => rfl

theorem exec_hostSignalPoll {p : Packet} {s u : State} {conds : List Cond} (hp : Working s p) (some_ : p.conds ≠ [])
    (h : condsFrom p 4 s = .ok (conds, u)) : exec .hostSignalPoll s = .next (wentThrough (weigh u p conds) p.id) := by
  simp only [exec, execHostSignalPoll, hp.subjectPacket, List.isEmpty_iff, some_, if_false]
  exact congrArg Host.Outcome.next (State.runFront_ok ((Front.bind_ok h).trans (Front.modify_ok _ _)))

/-- Settles O52. -/
theorem copyAndBarrierPackets : Obligations.CopyAndBarrierPackets := by
  unfold Obligations.CopyAndBarrierPackets
  refine ⟨?_, ?_, ?_, ?_⟩
  · intro p q s u hp began h here open_ done n
    have moved : (u.modPacket p.id (fun p => { p with done := p.done + 1 })).packet p.id = some { q with done := q.done + 1 } := by
      rw [State.packet_modPacket (f := fun p => { p with done := p.done + 1 }) fun _ => rfl, here]
      rfl
    refine ⟨_, exec_copyPacket hp began h, fun pl => ?_, fun last => ?_, fun more => ?_⟩
    · exact (wentThrough_memAt _ _ _).trans (copied_memAt _ _ _ _)
    · rw [copied, if_pos last]
      exact ⟨_, packet_wentThrough (State.packet_decidePacket moved open_), rfl⟩
    · rw [copied, if_neg (Nat.not_le.2 more)]
      refine ⟨⟨_, packet_wentThrough moved, congrArg (· + 1) done, open_⟩, ⟨_, agenda_schedule _ _ _ _, rfl, rfl, ?_⟩⟩
      exact Nat.lt_of_lt_of_le (Nat.lt_succ_self u.cycle) (Nat.le_add_right _ _)
  · intro p s u conds hp fresh h ⟨q, here, open_, unjudged⟩ stands
    refine ⟨_, exec_barrierPacket hp h, fun none => ?_, fun some_ => ?_⟩
    · rw [if_pos none]
      exact ⟨_, packet_wentThrough (State.packet_decidePacket here open_), rfl⟩
    · obtain ⟨⟨n, weighed⟩, -⟩ := weigh_packet some_ fresh hp.2.2 stands here unjudged
      rw [if_neg some_]
      exact ⟨_, packet_wentThrough weighed, rfl, open_, fun c hc => State.evaluate_aborted hc, State.evaluate_complete,
        State.evaluate_waits⟩
  · intro p s u conds hp had fresh h some_ ⟨q, here, open_, unjudged⟩ stands
    obtain ⟨⟨n, weighed⟩, polled⟩ := weigh_packet some_ fresh hp.2.2 stands here unjudged
    refine ⟨_, _, exec_hostSignalPoll hp had h, packet_wentThrough weighed, rfl, State.evaluate_complete, fun host due => ?_⟩
    have number : q.id = p.id := by simpa using List.find?_some here
    exact ⟨_, polled host (due q (List.mem_of_find?_eq_some here) number), rfl, rfl, rfl⟩
  · intro p s hp
    refine ⟨fun h => ?_, fun va h => ?_⟩
    · refine ⟨s.decidePacket p.id {}, ?_, _, State.packet_decidePacket hp.2.1 hp.2.2, rfl⟩
      simp only [exec, execBarrierEvaluate, hp.subjectPacket, h]
    · refine ⟨s.decidePacket p.id { status := Cause.abort.code.toNat }, ?_, _, State.packet_decidePacket hp.2.1 hp.2.2, rfl⟩
      simp only [exec, execBarrierEvaluate, hp.subjectPacket, h]

end Sys2Proof.Statements
end

section
/-! SUPPORT. The answers of the host: grants, failures, page responses, invalidations and host atomics (R16, R17, R90, R105
to R107). -/

namespace Sys2Proof.Machine

/-! ## What an answer touches -/

/-- Only slots have changed. -/
def OnlySlots (s t : State) : Prop := ∃ slots, t = { s with slots := slots }

theorem OnlySlots.trans {s t u : State} (h : OnlySlots s t) (g : OnlySlots t u) : OnlySlots s u := by
  obtain ⟨_, rfl⟩ := h
  obtain ⟨_, rfl⟩ := g
  exact ⟨_, rfl⟩

theorem OnlySlots.foldl {α : Type} {f : State → α → State} (hf : ∀ s a, OnlySlots s (f s a)) (l : List α) (s : State) :
    OnlySlots s (l.foldl f s) := by
  induction l generalizing s with
  | nil => exact ⟨_, rfl⟩
  | cons a l ih => exact (hf s a).trans (ih _)

/-- Only slots and the failures kept for others have changed. -/
def OnlyFailures (s t : State) : Prop := ∃ slots hostFails, t = { s with slots := slots, hostFails := hostFails }

theorem OnlyFailures.failUsers (us : List AtsUser) (va : Nat) (c : Cause) (code : Nat) (s : State) :
    OnlyFailures s (s.failUsers us va c code) := by
  induction us generalizing s with
  | nil => exact ⟨_, _, rfl⟩
  | cons u us ih =>
    cases u with
    | slot k =>
      obtain ⟨slots, fails, h⟩ := ih (s.modSlot k (fun sl => { sl with atsFail := some (va, c, code) }))
      exact ⟨slots, fails, h⟩
    | saved k => exact ih s
    | packet id =>
      obtain ⟨slots, fails, h⟩ := ih { s with hostFails := (.packet id, va, c, code) :: s.hostFails }
      exact ⟨slots, fails, h⟩
    | _ =>
      obtain ⟨slots, fails, h⟩ := ih { s with hostFails := (_, va, c, code) :: s.hostFails }
      exact ⟨slots, fails, h⟩

/-- Every slot among the users of a request that fails takes the failure. -/
theorem State.failUsers_slot {us : List AtsUser} {va : Nat} {c : Cause} {code k : Nat} {s : State}
    (h : AtsUser.slot k ∈ us ∨ (s.slot k).atsFail = some (va, c, code)) :
    ((s.failUsers us va c code).slot k).atsFail = some (va, c, code) := by
  induction us generalizing s with
  | nil => exact h.resolve_left (by simp)
  | cons u us ih =>
    refine ih ?_
    by_cases mine : u = .slot k
    · subst mine
      exact .inr (congrArg Slot.atsFail (State.slot_setSlot_same s k _))
    · refine h.imp (fun h => (List.mem_cons.1 h).resolve_left fun h => mine h.symm) (fun had => ?_)
      cases u with
      | slot j => exact (congrArg Slot.atsFail (State.slot_setSlot_ne s _ fun same : k = j => mine (same ▸ rfl))).trans had
      | _ => exact had

theorem State.giveOnce_slot {us : List AtsUser} {g : OnceGrant} {k : Nat} {s : State}
    (h : AtsUser.slot k ∈ us ∨ g ∈ (s.slot k).atsOnce) :
    g ∈ ((us.foldl (fun s u => s.giveOnce g u) s).slot k).atsOnce := by
  induction us generalizing s with
  | nil => exact h.resolve_left (by simp)
  | cons u us ih =>
    refine ih ?_
    by_cases mine : u = .slot k
    · subst mine
      refine .inr ?_
      change g ∈ ((s.setSlot k _).slot k).atsOnce
      rw [State.slot_setSlot_same]
      exact List.mem_append_right _ (List.mem_singleton_self g)
    · refine h.imp (fun h => (List.mem_cons.1 h).resolve_left fun h => mine h.symm) (fun had => ?_)
      cases u with
      | slot j =>
        change g ∈ ((s.setSlot j _).slot k).atsOnce
        rw [State.slot_setSlot_ne s _ fun same : k = j => mine (same ▸ rfl)]
        exact had
      | _ => exact had

theorem State.giveOnce_tlb (us : List AtsUser) (g : OnceGrant) (s : State) :
    (us.foldl (fun s u => s.giveOnce g u) s).tlb = s.tlb := by
  induction us generalizing s with
  | nil => rfl
  | cons u us ih => exact (ih _).trans (by cases u <;> rfl)

/-! ## Grants -/

theorem mem_fillTlb (s : State) (e : TlbEntry) : e ∈ (s.fillTlb e).tlb := by
  unfold State.fillTlb
  simp only
  generalize (if e.core.isSome = true then 64 else 4096) = room
  split
  · exact List.mem_append_right _ (List.mem_singleton_self e)
  · exact List.mem_append_right _ (List.mem_singleton_self e)

/-- A grant that lets the host's pages be read and written permits every user what it wants. -/
theorem AtsReq.permits_all (r : AtsReq) (u : AtsUser) : r.permits true true u = true := by
  unfold AtsReq.permits
  split
  · rfl
  · rfl

/-- The TLB entry of a grant of everything, and what it gives for one access. -/
def grantEntry (r : AtsReq) (addr bytes : Nat) : TlbEntry :=
  let size := max bytes 0x1000
  let held := heldSize size
  let va := r.va / held * held
  { die := r.die, world := r.world, pasid := some r.pasid, va := va, size := held
    base := addr + (va - r.va / size * size), r := true, w := true }

def grantOnce (r : AtsReq) (addr bytes : Nat) : OnceGrant :=
  let size := max bytes 0x1000
  { page := r.va, base := addr + (r.va - r.va / size * size), r := true, w := true }

/-- The request of a grant is over. -/
def State.endAts (s : State) (id : Nat) : State := { s with ats := s.ats.filter (fun x => x.id != id) }

theorem State.atsGranted_kept (s : State) (r : AtsReq) (addr bytes : Nat) :
    s.atsGranted r addr bytes true true false = ((s.supplant (grantEntry r addr bytes)).fillTlb (grantEntry r addr bytes)).endAts r.id := by
  have left : r.users.filter (fun x => !r.permits true true x) = [] := by simp [AtsReq.permits_all]
  simp only [State.atsGranted, left]
  rfl

theorem State.atsGranted_once (s : State) (r : AtsReq) (addr bytes : Nat) : s.atsGranted r addr bytes true true true
    = (r.users.foldl (fun s u => s.giveOnce (grantOnce r addr bytes) u) s).endAts r.id := by
  have left : r.users.filter (fun x => !r.permits true true x) = [] := by simp [AtsReq.permits_all]
  have fit : r.users.filter (r.permits true true) = r.users := by simp [AtsReq.permits_all]
  simp only [State.atsGranted, left, fit]
  rfl

theorem State.ended (s : State) (id : Nat) : ∀ x ∈ (s.endAts id).ats, x.id ≠ id := by
  intro x hx
  simpa using (List.mem_filter.1 hx).2

/-! ## Page requests -/

theorem mem_modAts {s : State} {id : Nat} {f : AtsReq → AtsReq} {x : AtsReq} (h : x ∈ (s.modAts id f).ats) :
    ∃ y ∈ s.ats, x = if y.id = id then f y else y := by
  obtain ⟨y, hy, hx⟩ := List.mem_map.1 h
  exact ⟨y, hy, hx.symm⟩

/-- While no request waits for a place, none is sent on. -/
theorem State.nextPri_none {s : State} (h : ∀ x ∈ s.ats, x.queued = false) : s.nextPri = s := by
  unfold State.nextPri
  cases s.ats.length with
  | zero => rfl
  | succ n =>
    have none : s.ats.find? (fun r => r.queued) = none := List.find?_eq_none.2 fun x hx => by simp [h x hx]
    simp only [State.sendQueued, none]

/-- A page request that may go out goes out. -/
theorem State.sendPri_room {s : State} {r : AtsReq} (up : s.priFailed.contains (s.functionOf r.world) = false)
    (room : (s.ats.filter (fun x => x.pri)).length < 1024) : s.sendPri r = s.modAts r.id (fun r => { r with pri := true }) := by
  rw [State.sendPri, up, if_neg (by decide), if_neg (Nat.not_le.2 room)]

/-- The requests with a number are out, and wait for no place. -/
def Out (id : Nat) (s : State) : Prop := ∀ x ∈ s.ats, x.id = id → x.pri = true ∧ x.queued = false

/-- Changes of other requests, and the ends of requests, keep those of one number out. -/
theorem Out.sendPri {id : Nat} {s : State} {r : AtsReq} (h : Out id s) (other : r.id ≠ id) : Out id (s.sendPri r) := by
  have changed : ∀ f : AtsReq → AtsReq, (∀ x, (f x).id = x.id) → Out id (s.modAts r.id f) := by
    intro f keeps x hx number
    obtain ⟨y, hy, rfl⟩ := mem_modAts hx
    by_cases mine : y.id = r.id
    · rw [if_pos mine, keeps] at number
      exact absurd (mine.symm.trans number) other
    · rw [if_neg mine] at number ⊢
      exact h y hy number
  unfold State.sendPri
  split
  · obtain ⟨slots, fails, ended⟩ := OnlyFailures.failUsers r.users r.va .page 0x00F
      { s with ats := s.ats.filter (fun x => x.id != r.id) }
    rw [State.failAts, ended]
    exact fun x hx => h x (List.mem_of_mem_filter hx)
  · split
    · exact changed _ fun _ => rfl
    · exact changed _ fun _ => rfl

theorem Out.sendQueued {id : Nat} (n : Nat) {s : State} (h : Out id s) : Out id (State.sendQueued n s) := by
  induction n generalizing s with
  | zero => exact h
  | succ n ih =>
    unfold State.sendQueued
    split
    next r found =>
      split
      · exact h
      · have other : r.id ≠ id := fun number => by
          have := (h r (List.mem_of_find?_eq_some found) number).2
          rw [List.find?_some (p := fun r : AtsReq => r.queued) found] at this
          cases this
        refine ih (Out.sendPri ?_ other)
        intro x hx number
        obtain ⟨y, hy, rfl⟩ := mem_modAts hx
        by_cases mine : y.id = r.id
        · rw [if_pos mine] at number
          exact absurd (mine.symm.trans number) other
        · rw [if_neg mine] at number ⊢
          exact h y hy number
    · exact h

/-- The first request that waits for a place goes out where there is one. -/
theorem Out.nextPri {s : State} {q : AtsReq} (first : s.ats.find? (fun x => x.queued) = some q)
    (up : s.priFailed.contains (s.functionOf q.world) = false) (room : (s.ats.filter (fun x => x.pri)).length < 1024) :
    Out q.id s.nextPri := by
  have here := List.mem_of_find?_eq_some first
  obtain ⟨n, some_⟩ : ∃ n, s.ats.length = n + 1 := ⟨s.ats.length - 1, by
    have := List.length_pos_of_mem here
    omega⟩
  have count : ((s.modAts q.id (fun r => { r with queued := false })).ats.filter (fun x => x.pri)).length
      = (s.ats.filter (fun x => x.pri)).length := by
    rw [State.modAts, List.filter_map, List.length_map]
    refine congrArg List.length (List.filter_congr fun x _ => ?_)
    simp only [Function.comp]
    split
    · rfl
    · rfl
  unfold State.nextPri
  rw [some_, State.sendQueued]
  simp only [first]
  rw [if_neg (Nat.not_le.2 room),
    State.sendPri_room (s := s.modAts q.id (fun r => { r with queued := false })) up (count.trans_lt room)]
  refine Out.sendQueued n fun x hx number => ?_
  obtain ⟨y, hy, rfl⟩ := mem_modAts hx
  obtain ⟨z, -, rfl⟩ := mem_modAts hy
  by_cases mine : z.id = q.id
  · simp [mine]
  · simp [mine] at number

end Sys2Proof.Machine
end

section
/-! SUPPORT. What the steps of the host's answers leave. -/

namespace Sys2Proof.Machine

/-- An acquire or a store that is noted for later releases moves no byte at home. -/
theorem State.synchronise_memAt (s : State) (k : Nat) (acquire wrote : Bool) (p : Piece) (q : Place) :
    (s.synchronise k acquire wrote p).memAt q = s.memAt q := by
  have marked : ∀ (u : State) (l1 key : Nat), (u.markLine k l1 key).memAt q = u.memAt q := by
    intro u l1 key
    unfold State.markLine
    split
    · rfl
    · cases q <;> rfl
  have passed : ∀ (u : State) (l1 key : Nat), (u.passOn k l1 key).memAt q = u.memAt q := fun u l1 key =>
    memAt_foldl (fun _ _ => memAt_foldl (fun _ _ => marked _ _ _) _ _) _ _
  have noted : ∀ (u : State) (l1 key : Nat), (u.noteLine k l1 key).memAt q = u.memAt q := fun u l1 key => by cases q <;> rfl
  unfold State.synchronise
  simp only
  split
  · split
    · split
      · exact (noted _ _ _).trans (passed _ _ _)
      · exact noted _ _ _
    · split
      · exact passed _ _ _
      · rfl
  · rfl

/-- An answer to an atomic of the slot whose request is out. -/
theorem hostAtomic_ok {s : State} {k id : Nat} {op : HostOp} (h : (s.slot k).hostOp = some op) (hid : op.id = id)
    (ho : op.answer = none) :
    let x : Acc := { id := id, kind := .atomic op.kind op.operand op.compare op.poison, ord := op.ord
                     scope := op.scope, pieces := [op.piece] }
    let r := (s.forceBefore k x).atomAt ((s.forceBefore k x).worldOf (coreOfSlot k)) op.piece op.kind op.operand op.compare op.poison
    exec (.hostAtomicopCompletion k id .ok) s = .next ((r.2.synchronise k (acquires op.ord)
      (atomWrites op.kind op.operand op.compare op.poison r.1).isSome op.piece).modSlot k
        (fun sl => { sl with hostOp := some { op with answer := some (.ok, r.1) } })) := by
  have mine : (op.id != id || op.answer.isSome) = false := by simp [hid, ho]
  simp only [exec, execHostAtomicopCompletion, h, mine]
  rfl

theorem hostAtomic_error {s : State} {k id : Nat} {op : HostOp} {st : HostStatus} (h : (s.slot k).hostOp = some op)
    (hid : op.id = id) (ho : op.answer = none) (hst : st ≠ .ok) :
    exec (.hostAtomicopCompletion k id st) s
      = .next (s.modSlot k (fun sl => { sl with hostOp := some { op with answer := some (st, [], false) } })) := by
  have mine : (op.id != id || op.answer.isSome) = false := by simp [hid, ho]
  simp only [exec, execHostAtomicopCompletion, h, mine]
  cases st with
  | ok => exact absurd rfl hst
  | _ => rfl

/-- An answer to a request that is out, and not overtaken. -/
theorem atsCompletion_ok {s : State} {id : Nat} {r : AtsReq} (found : s.ats.find? (fun x => x.id == id) = some r)
    (hp : r.pri = false) (hq : r.queued = false) (hs : r.sent = true) (ht : r.stale = false) (hd : r.dropped = false) (reply : AtsReply) :
    exec (.atsCompletion id reply) s = .next (match reply with
      | .granted addr size rd wr u => s.atsGranted r addr size rd wr u
      | .notResident => s.sendPri r
      | .unsupported => s.failAts r .page 0x201
      | .abort => s.failAts r .page 0x204) := by
  simp only [exec, execAtsCompletion, found, State.atsAnswer, hp, hq, hs, ht, hd]
  cases reply <;> rfl

/-- The request as a page response leaves it: gone where nobody waits for it, else to be made again. -/
def responded (s : State) (r : AtsReq) : State :=
  if r.dropped then s.endAts r.id else s.modAts r.id (fun r => { r with pri := false })

theorem priResponse_success {s : State} {id : Nat} {r : AtsReq} (found : s.ats.find? (fun x => x.id == id && x.pri) = some r) :
    exec (.priResponse id 0) s = .next (responded s r).nextPri := by
  simp only [exec, execPriResponse, found]
  rfl

theorem mem_responded {s : State} {r x : AtsReq} (h : x ∈ (responded s r).ats) :
    (x ∈ s.ats ∧ x.id ≠ r.id) ∨ ∃ y ∈ s.ats, y.id = r.id ∧ x = { y with pri := false } := by
  unfold responded at h
  split at h
  · exact .inl ⟨List.mem_of_mem_filter h, s.ended r.id x h⟩
  · obtain ⟨y, hy, rfl⟩ := mem_modAts h
    by_cases mine : y.id = r.id
    · rw [if_pos mine]
      exact .inr ⟨y, hy, mine, rfl⟩
    · rw [if_neg mine]
      exact .inl ⟨hy, mine⟩

theorem responded_slots (s : State) (r : AtsReq) : (responded s r).slots = s.slots ∧ (responded s r).worlds = s.worlds
    ∧ (responded s r).priFailed = s.priFailed := by
  unfold responded
  split
  · exact ⟨rfl, rfl, rfl⟩
  · exact ⟨rfl, rfl, rfl⟩

/-- The first request that waits for a place is still the first once another one has been answered. -/
theorem responded_first {s : State} {r q : AtsReq} (first : s.ats.find? (fun x => x.queued) = some q) (other : q.id ≠ r.id)
    (idle : ∀ x ∈ s.ats, x.id = r.id → x.queued = false) : (responded s r).ats.find? (fun x => x.queued) = some q := by
  unfold responded
  split
  · change (s.ats.filter (fun x => x.id != r.id)).find? (fun x => x.queued) = some q
    rw [List.find?_filter, ← first]
    refine List.find?_congr fun x hx => ?_
    by_cases mine : x.id = r.id
    · simp [mine, idle x hx mine]
    · simp [mine]
  · change (s.ats.map (fun x => if x.id = r.id then { x with pri := false } else x)).find? (fun x => x.queued) = some q
    have same : ((fun x : AtsReq => x.queued) ∘ fun x => if x.id = r.id then { x with pri := false } else x) = fun x => x.queued :=
      funext fun x => by
        by_cases mine : x.id = r.id
        · simp only [Function.comp, if_pos mine]
        · simp only [Function.comp, if_neg mine]
    rw [List.find?_map, same, first]
    simp [other]

theorem responded_room (s : State) (r : AtsReq) :
    ((responded s r).ats.filter (fun x => x.pri)).length = (s.ats.filter (fun x => x.pri && x.id != r.id)).length := by
  unfold responded
  split
  · change ((s.ats.filter (fun x => x.id != r.id)).filter (fun x => x.pri)).length = _
    rw [List.filter_filter]
  · change ((s.ats.map (fun x => if x.id = r.id then { x with pri := false } else x)).filter (fun x => x.pri)).length = _
    rw [List.filter_map, List.length_map]
    refine congrArg List.length (List.filter_congr fun x _ => ?_)
    by_cases mine : x.id = r.id
    · simp [mine]
    · simp [mine]

/-- A page response that is a failure fails the request, and with code 0xF the function's later ones. -/
theorem priResponse_failure {s : State} {id : Nat} {r : AtsReq} {code : BitVec 4}
    (found : s.ats.find? (fun x => x.id == id && x.pri) = some r) (bad : code ≠ 0) (idle : ∀ x ∈ s.ats, x.queued = false) :
    ∃ failed, exec (.priResponse id code) s = .next (({ s with priFailed := failed } : State).failAts r .page code.toNat)
      ∧ (code = 0xF → s.functionOf r.world ∈ failed) := by
  have number : ¬ code.toNat = 0 := fun h => bad (BitVec.eq_of_toNat_eq h)
  have closed : ∀ failed, (({ s with priFailed := failed } : State).failAts r .page code.toNat).nextPri
      = ({ s with priFailed := failed } : State).failAts r .page code.toNat := by
    intro failed
    obtain ⟨slots, fails, ended⟩ := OnlyFailures.failUsers r.users r.va .page code.toNat (({ s with priFailed := failed } : State).endAts r.id)
    refine State.nextPri_none fun x hx => idle x ?_
    have here : x ∈ ((({ s with priFailed := failed } : State).endAts r.id).failUsers r.users r.va .page code.toNat).ats := hx
    rw [ended] at here
    exact List.mem_of_mem_filter here
  simp only [exec, execPriResponse, found, State.priAnswer, if_neg number]
  by_cases all : code = 0xF
  · refine ⟨s.functionOf r.world :: s.priFailed, ?_, fun _ => List.mem_cons_self⟩
    rw [if_pos (by rw [all]; rfl), closed]
  · refine ⟨s.priFailed, ?_, fun h => absurd h all⟩
    have other : ¬ code.toNat = 15 := fun h => all (BitVec.eq_of_toNat_eq h)
    rw [if_neg other]
    exact congrArg Host.Outcome.next (closed s.priFailed)

theorem OnlySlots.forgetWords (s : State) (frames : List (Nat × Nat)) : OnlySlots s (s.forgetWords frames) :=
  .foldl (fun _ _ => ⟨_, rfl⟩) _ s

/-- An invalidation whose conditions hold completes: lines of its frames go home, and what it has held back is sent. -/
def State.completeInvalidation (s : State) (x : Invalidation) : State :=
  let s := s.flushFrames x.frames
  let left := s.invalidations.filter (fun y => y.id != x.id)
  { s with
    invalidations := left
    ats := s.ats.map (fun r => if !r.sent && !(left.any (fun y => y.covers r.pasid r.va)) then { r with sent := true } else r) }

/-- An invalidation takes the entries of its range out of the TLBs. -/
theorem atsInvalidation_taken {s : State} (pasid : Option Nat) (va len : Nat) (few : s.invalidations.length < 32) :
    ∃ slots ats hostOnce waits frames, exec (.atsInvalidation pasid va len) s = .next (({ s with
      slots := slots, ats := ats, hostOnce := hostOnce, nextId := s.nextId + 1
      tlb := s.tlb.filter (fun e => !(e.pasid.isSome && (pasid.isNone || e.pasid == pasid) && rangesMeet e.va e.size va len))
      invalidations := s.invalidations ++ [{ id := s.nextId, pasid := pasid, va := va, len := len, waits := waits, frames := frames }] }
      : State).schedule s.cycle .atsInvalidationComplete [s.nextId]) := by
  simp only [exec, execAtsInvalidation]
  rw [if_neg (Nat.not_le.2 few)]
  generalize hu : State.forgetWords _ _ = u
  have frame : OnlySlots _ u := hu ▸ (OnlySlots.foldl (fun _ _ => ⟨_, rfl⟩) _ _).trans (.forgetWords _ _)
  obtain ⟨slots, taken⟩ := frame
  rw [taken]
  exact ⟨_, _, _, _, _, rfl⟩

end Sys2Proof.Machine

namespace Sys2Proof.Statements

open Sys2Proof.Machine

/-- Settles O49. -/
theorem hostAnswers : Obligations.HostAnswers := by
  unfold Obligations.HostAnswers
  refine ⟨?_, ?_, ?_, ?_, ?_, ?_, ?_, ?_⟩
  · intro s k id op h hid ho x r
    refine ⟨_, hostAtomic_ok h hid ho, ?_, fun p => ?_⟩
    · exact congrArg Slot.hostOp (State.slot_setSlot_same _ k _)
    · exact (by cases p <;> rfl : _ = (r.2.synchronise k (acquires op.ord)
        (atomWrites op.kind op.operand op.compare op.poison r.1).isSome op.piece).memAt p).trans (State.synchronise_memAt _ _ _ _ _ _)
  · intro s k id op st h hid ho hst
    exact ⟨_, hostAtomic_error h hid ho hst, congrArg Slot.hostOp (State.slot_setSlot_same _ k _), fun p => by cases p <;> rfl⟩
  · intro s id r found hp hq hs ht hd
    have answered := atsCompletion_ok found hp hq hs ht hd
    refine ⟨fun addr size => ?_, fun addr size k hk => ?_, fun up room => ?_, fun k hk => ?_⟩
    · refine ⟨_, answered _, ?_⟩
      simp only
      rw [State.atsGranted_kept]
      exact ⟨State.ended _ _, _, mem_fillTlb _ _, rfl, rfl, rfl, Nat.div_mul_le_self _ _, rfl, rfl⟩
    · refine ⟨_, grantOnce r addr size, answered _, ?_⟩
      simp only
      rw [State.atsGranted_once]
      exact ⟨State.giveOnce_tlb _ _ _, State.giveOnce_slot (.inl hk), rfl⟩
    · refine ⟨_, answered _, ?_⟩
      simp only
      rw [State.sendPri_room up room]
      refine ⟨fun x hx number => ?_, rfl, rfl⟩
      obtain ⟨y, hy, rfl⟩ := mem_modAts hx
      by_cases mine : y.id = r.id
      · rw [if_pos mine]
      · rw [if_neg mine] at number
        exact absurd number mine
    · refine ⟨_, answered _, State.failUsers_slot (.inl hk), fun x hx => ?_⟩
      obtain ⟨slots, fails, ended⟩ := OnlyFailures.failUsers r.users r.va .page 0x201 (s.endAts r.id)
      exact State.ended s r.id x (by have : x ∈ ((s.endAts r.id).failUsers r.users r.va .page 0x201).ats := hx; rwa [ended] at this)
  · intro s id r found idle
    refine ⟨?_, fun code k hc hk => ?_⟩
    · have still : ∀ x ∈ (responded s r).ats, x.queued = false := fun x hx => by
        rcases mem_responded hx with ⟨here, -⟩ | ⟨y, here, -, rfl⟩
        · exact idle x here
        · exact idle y here
      refine ⟨_, (priResponse_success found).trans (by rw [State.nextPri_none still]), fun x hx number => ?_, (responded_slots s r).1⟩
      rcases mem_responded hx with ⟨-, other⟩ | ⟨y, -, -, rfl⟩
      · exact absurd number other
      · rfl
    · obtain ⟨failed, answered, all⟩ := priResponse_failure found hc idle
      refine ⟨_, answered, State.failUsers_slot (.inl hk), fun h => ?_⟩
      obtain ⟨slots, fails, ended⟩ := OnlyFailures.failUsers r.users r.va .page code.toNat (({ s with priFailed := failed } : State).endAts r.id)
      change _ ∈ ((({ s with priFailed := failed } : State).endAts r.id).failUsers r.users r.va .page code.toNat).priFailed
      rw [ended]
      exact all h
  · intro s id r q found other first hr one up room
    have number : r.id = id := by simpa using (Bool.and_eq_true_iff.1 (List.find?_some (p := fun x : AtsReq => x.id == id && x.pri) found)).1
    subst number
    refine ⟨_, priResponse_success found, Out.nextPri (responded_first first other fun x hx mine => one x hx mine ▸ hr) ?_ ?_⟩
    · obtain ⟨-, worlds, failed⟩ := responded_slots s r
      rw [failed, State.functionOf, State.world, worlds]
      exact up
    · rw [responded_room]
      exact room
  · intro s fn
    exact ⟨_, rfl, by simp, rfl⟩
  · intro s pasid va len few
    obtain ⟨slots, ats, once, waits, frames, taken⟩ := atsInvalidation_taken pasid va len few
    refine ⟨_, _, taken, fun e he host mine => ?_, fun e he => List.mem_of_mem_filter he, rfl, agenda_schedule _ _ _ _⟩
    have missed := (List.mem_filter.1 he).2
    have ours : (pasid.isNone || e.pasid == pasid) = true := by
      rcases mine with rfl | h
      · rfl
      · simp [h]
    rw [host, ours] at missed
    simp only [rangesMeet, Bool.true_and, Bool.not_and, Bool.or_eq_true, Bool.not_eq_true', decide_eq_false_iff_not, Nat.not_lt] at missed
    omega
  · intro s id x hs found waits
    have number : x.id = id := by simpa using List.find?_some found
    refine ⟨fun none => ⟨s.completeInvalidation x, ?_, fun y hy => by simpa [number] using (List.mem_filter.1 hy).2⟩,
      fun some_ => ⟨s.schedule (s.cycle + 1) .atsInvalidationComplete [id], ?_, rfl, rfl⟩⟩
    · rw [← number] at hs found
      simp only [exec, execAtsInvalidationComplete, hs, found]
      rw [show (x.waits.any s.unperformed || s.copiesInto x.frames || s.reversesInto x.frames) = false from none]
      rfl
    · simp only [exec, execAtsInvalidationComplete, hs, found]
      rw [show (x.waits.any s.unperformed || s.copiesInto x.frames || s.reversesInto x.frames) = true from some_]
      rfl

end Sys2Proof.Statements
end

section
/-! SUPPORT. How a packet ends: what its report touches, and what a failure does to its queue (R345, R349, R394). -/

namespace Sys2Proof.Machine

open Sys2Proof.Statements

/-! ## What the front end's accesses leave -/

/-- Nothing changes but what the end of packets and their reports may change. -/
def OnlyReports (s t : State) : Prop :=
  ∃ slots tlb lag draws ats hostFails hostOnce nextId cores dram hostMem scratch arena windows versions undo commit agenda
      packets queues, t = { s with
    slots := slots, tlb := tlb, lag := lag, draws := draws, ats := ats, hostFails := hostFails, hostOnce := hostOnce
    nextId := nextId, cores := cores, dram := dram, hostMem := hostMem, scratch := scratch, arena := arena
    windows := windows, versions := versions, undo := undo, commit := commit, agenda := agenda, packets := packets
    queues := queues }

theorem OnlyReports.refl (s : State) : OnlyReports s s := ⟨_, _, _, _, _, _, _, _, _, _, _, _, _, _, _, _, _, _, _, _, rfl⟩

theorem OnlyReports.trans {s t u : State} (h : OnlyReports s t) (g : OnlyReports t u) : OnlyReports s u := by
  obtain ⟨_, _, _, _, _, _, _, _, _, _, _, _, _, _, _, _, _, _, _, _, rfl⟩ := h
  obtain ⟨_, _, _, _, _, _, _, _, _, _, _, _, _, _, _, _, _, _, _, _, rfl⟩ := g
  exact ⟨_, _, _, _, _, _, _, _, _, _, _, _, _, _, _, _, _, _, _, _, rfl⟩

theorem OnlyReports.provs {s t : State} (h : OnlyReports s t) : t.provs = s.provs := by
  obtain ⟨_, _, _, _, _, _, _, _, _, _, _, _, _, _, _, _, _, _, _, _, rfl⟩ := h
  rfl

theorem Walks.onlyReports {s t : State} (h : Walks s t) : OnlyReports s t := by
  obtain ⟨_, _, _, _, _, _, _, _, rfl⟩ := h
  exact ⟨_, _, _, _, _, _, _, _, _, _, _, _, _, _, _, _, _, _, _, _, rfl⟩

theorem MemMoves.onlyReports {s t : State} (h : MemMoves s t) : OnlyReports s t := by
  obtain ⟨_, _, _, _, _, _, _, _, _, _, _, _, rfl⟩ := h.fields
  exact ⟨_, _, _, _, _, _, _, _, _, _, _, _, _, _, _, _, _, _, _, _, rfl⟩

theorem MemMoves.provs {s t : State} (h : MemMoves s t) : t.provs = s.provs := h.onlyReports.provs

/-- Packets, queues and what is kept of the host's answers may change in a report. -/
theorem OnlyReports.of_packets {s t : State} (h : ∃ packets queues hostFails hostOnce nextId agenda, t = { s with
    packets := packets, queues := queues, hostFails := hostFails, hostOnce := hostOnce, nextId := nextId, agenda := agenda }) :
    OnlyReports s t := by
  obtain ⟨_, _, _, _, _, _, rfl⟩ := h
  exact ⟨_, _, _, _, _, _, _, _, _, _, _, _, _, _, _, _, _, _, _, _, rfl⟩

theorem OnlyReports.modPacket (s : State) (id : Nat) (f : Packet → Packet) : OnlyReports s (s.modPacket id f) :=
  .of_packets ⟨_, _, _, _, _, _, rfl⟩

theorem OnlyReports.removePacket (s : State) (id : Nat) : OnlyReports s (s.removePacket id) :=
  .of_packets ⟨_, _, _, _, _, _, rfl⟩

theorem OnlyReports.modQueue (s : State) (q : Nat) (f : Queue → Queue) : OnlyReports s (s.modQueue q f) := by
  unfold State.modQueue
  split
  · exact .refl s
  · exact .of_packets ⟨_, _, _, _, _, _, rfl⟩

/-- Front-end work changes no more than a report does. -/
def Front.OnlyReports {α : Type} (a : Front α) : Prop := ∀ s x t, a s = .ok (x, t) → Machine.OnlyReports s t

theorem Front.onlyReports_pure {α : Type} (x : α) : Front.OnlyReports (pure x) := by
  intro s y t h
  cases h
  exact .refl s

theorem Front.onlyReports_bind {α β : Type} {a : Front α} {f : α → Front β} (ha : Front.OnlyReports a)
    (hf : ∀ x, Front.OnlyReports (f x)) : Front.OnlyReports (a >>= f) := by
  intro s y t h
  cases hr : a s with
  | error e =>
    rw [Front.bind_error hr] at h
    cases h
  | ok r =>
    rw [Front.bind_ok (x := r.1) (t := r.2) hr] at h
    exact (ha s r.1 r.2 hr).trans (hf r.1 r.2 y t h)

theorem State.dropFrontTlb_onlyReports (s : State) : OnlyReports s s.dropFrontTlb :=
  ⟨_, _, _, _, _, _, _, _, _, _, _, _, _, _, _, _, _, _, _, _, rfl⟩

theorem frontPlace_onlyReports (t : Translator) (va : Nat) (write : Bool) : (frontPlace t va write).OnlyReports := by
  intro s x u h
  have frame := (Walks.translate s t va write).onlyReports
  unfold frontPlace at h
  split at h
  next ht => rw [ht] at frame; cases h; exact frame.trans (State.dropFrontTlb_onlyReports _)
  next ht => rw [ht] at frame; cases h; exact frame
  · cases h
  · cases h

theorem frontRead_onlyReports (t : Translator) (va n : Nat) : (frontRead t va n).OnlyReports := by
  unfold frontRead
  induction cutRange 0x1000 va n with
  | nil => exact Front.onlyReports_pure _
  | cons r rest ih =>
    exact Front.onlyReports_bind (frontPlace_onlyReports _ _ _) fun _ =>
      Front.onlyReports_bind (fun _ _ _ h => by cases h; exact .refl _)
        fun _ => Front.onlyReports_bind ih fun _ => Front.onlyReports_pure _

theorem frontWrite_onlyReports (t : Translator) (va : Nat) (bs : List (Byte × Bool)) : (frontWrite t va bs).OnlyReports := by
  unfold frontWrite
  generalize cutRange 64 va bs.length = ranges
  induction ranges generalizing bs with
  | nil => exact Front.onlyReports_pure _
  | cons r rest ih =>
    exact Front.onlyReports_bind (frontPlace_onlyReports _ _ _) fun _ =>
      Front.onlyReports_bind (fun _ _ _ h => by cases h; exact (MemMoves.homeWrite _ _ _ _ _ _).onlyReports) fun _ => ih _

theorem frontUpdate_onlyReports (t : Translator) (va : Nat) (f : DWord → DWord) : (frontUpdate t va f).OnlyReports := by
  refine Front.onlyReports_bind (frontPlace_onlyReports _ _ _) fun p => fun s x t h => ?_
  cases h
  refine MemMoves.onlyReports (.trans ?_ (.homeWrite _ _ _ _ _ _))
  split
  · exact .invalidateOthers _ _ _
  · exact .refl _

theorem recordStep_onlyReports (p : Packet) (v : EndValues) : (recordStep p v).OnlyReports := by
  intro s x t h
  unfold recordStep at h
  split at h
  · cases h; exact .refl s
  · split at h
    · cases h; exact .refl s
    · split at h
      next hw => cases h; exact frontWrite_onlyReports _ _ _ _ _ _ hw
      · cases h; exact .refl s
      · cases h

theorem signalStep_onlyReports (p : Packet) (v : EndValues) : (signalStep p v).OnlyReports := by
  intro s x t h
  unfold signalStep at h
  split at h
  · cases h; exact .refl s
  · split at h
    · cases h; exact .refl s
    · split at h
      next hu => cases h; exact frontUpdate_onlyReports _ _ _ _ _ _ hu
      · cases h
      · cases h; exact .refl s

theorem rewriteStep_onlyReports (p : Packet) (v : EndValues) : (rewriteStep p v).OnlyReports := by
  unfold rewriteStep
  split
  · exact Front.onlyReports_pure _
  · exact Front.onlyReports_bind (frontWrite_onlyReports _ _ _) fun _ => frontWrite_onlyReports _ _ _

theorem OnlyReports.report (s : State) (p : Packet) (v : EndValues) : OnlyReports s (s.report p v).2 := by
  have waits : ∀ (u : State) (va : Nat) (w : Bool), OnlyReports u ((u.translate p.translator va w).2.modPacket p.id
      (fun p => { p with waiting := true })) := fun u va w => (Walks.translate u _ va w).onlyReports.trans (.modPacket _ _ _)
  have read : Front.OnlyReports (if p.dropped && p.bytes.isEmpty then s.dropBytes p else pure p.bytes) := by
    split
    · unfold State.dropBytes
      split
      · exact Front.onlyReports_pure _
      · exact Front.onlyReports_bind (frontRead_onlyReports _ _ _) fun _ => Front.onlyReports_pure _
    · exact Front.onlyReports_pure _
  unfold State.report
  simp only
  split
  · exact waits _ _ _
  · exact .removePacket _ _
  next bytes s1 h1 =>
    refine (read _ _ _ h1).trans ?_
    split
    · exact waits _ _ _
    · exact .removePacket _ _
    next v2 s2 h2 =>
      refine (recordStep_onlyReports _ _ _ _ _ h2).trans ((OnlyReports.modPacket s2 p.id (fun p =>
        { p with bytes := bytes, recorded := true, result := some v2 })).trans ?_)
      split
      · exact waits _ _ _
      · exact .removePacket _ _
      next h3 => exact (signalStep_onlyReports _ _ _ _ _ h3).trans (.removePacket _ _)
      next v3 s3 h3 =>
        refine (signalStep_onlyReports _ _ _ _ _ h3).trans ((OnlyReports.modPacket s3 p.id (fun p =>
          { p with result := some v3, faulted := true })).trans ?_)
        split
        · exact waits _ _ _
        · exact .removePacket _ _
        next h4 => exact (rewriteStep_onlyReports _ _ _ _ _ h4).trans (.removePacket _ _)

theorem OnlyReports.endOne (s : State) (p : Packet) (v : EndValues) : OnlyReports s (s.endOne p v).2 := by
  unfold State.endOne
  split
  · obtain ⟨_, _, _, _, _, _, _, _, _, _, _, _, _, _, _, _, _, _, _, _, h⟩ :=
      OnlyReports.report { s with intervalWorlds := s.intervalWorlds.filter (fun w => w != p.wid) } p v
    simp only [h]
    exact ⟨_, _, _, _, _, _, _, _, _, _, _, _, _, _, _, _, _, _, _, _, rfl⟩
  · exact .report s p v

theorem OnlyReports.queueError (s : State) (q : Nat) (i : Word) (status : Nat) (sig : DWord) :
    OnlyReports s (s.queueError q i status sig) := by
  have dropped : ∀ (u : State) (x : Queue) (l : List Nat),
      OnlyReports u (l.foldl (fun s i => s.dropOne q x (x.ridx + BitVec.ofNat 32 i)) u) := by
    intro u x l
    induction l generalizing u with
    | nil => exact .refl u
    | cons i l ih => exact .trans ((OnlyReports.of_packets ⟨_, _, _, _, _, _, rfl⟩).trans (.endOne _ _ _)) (ih _)
  unfold State.queueError State.dropRest
  split
  · exact .refl s
  · split
    · exact .refl s
    · split
      · exact .modQueue _ _ _
      · exact ((OnlyReports.modQueue _ _ _).trans (.modQueue _ _ _)).trans (dropped _ _ _)

theorem OnlyReports.checkDrain (s : State) (q : Nat) : OnlyReports s (s.checkDrain q) := by
  unfold State.checkDrain
  split
  · split
    · exact (MemMoves.schedule _ _ _ _).onlyReports
    · exact .refl s
  · exact .refl s

theorem State.endOne_provs (s : State) (p : Packet) (v : EndValues) : (s.endOne p v).2.provs = s.provs := (OnlyReports.endOne s p v).provs

theorem State.queueError_provs (s : State) (q : Nat) (i : Word) (status : Nat) (sig : DWord) :
    (s.queueError q i status sig).provs = s.provs := (OnlyReports.queueError s q i status sig).provs

theorem State.checkDrain_provs (s : State) (q : Nat) : (s.checkDrain q).provs = s.provs := (OnlyReports.checkDrain s q).provs

/-- The end of a packet keeps the provenance records. -/
theorem State.endPacket_provs (s : State) (p : Packet) : (s.endPacket p).provs = s.provs := by
  unfold State.endPacket
  split
  · rfl
  next v _ =>
    have ended := s.endOne_provs p v
    split
    next h => rw [h] at ended; exact ended
    next h =>
      rw [h] at ended
      refine (State.checkDrain_provs _ _).trans ?_
      split
      · exact ended
      · exact (State.queueError_provs _ _ _ _ _).trans ended

/-! ## The error state of a queue -/

/-- Only queues have changed. -/
def OnlyQueues (s t : State) : Prop := ∃ queues, t = { s with queues := queues }

theorem OnlyQueues.trans {s t u : State} (h : OnlyQueues s t) (g : OnlyQueues t u) : OnlyQueues s u := by
  obtain ⟨_, rfl⟩ := h
  obtain ⟨_, rfl⟩ := g
  exact ⟨_, rfl⟩

theorem OnlyQueues.modQueue (s : State) (q : Nat) (f : Queue → Queue) : OnlyQueues s (s.modQueue q f) := by
  unfold State.modQueue
  split
  · exact ⟨_, rfl⟩
  · exact ⟨_, rfl⟩

/-- A queue that offers nothing more has nothing to drop when it enters its error state. -/
theorem State.queueError_first {s : State} {q : Nat} {x : Queue} (i : Word) (status : Nat) (sig : DWord)
    (h : s.queue q = some x) (fresh : x.error = false) (offers : x.ridx = x.kick) :
    OnlyQueues s (s.queueError q i status sig) ∧ (s.queueError q i status sig).queue q = some { x with
      error := true, errIdx := i, errStat := status, errSig := sig } := by
  have marked := State.queue_modQueue_same (fun x => { x with error := true, errIdx := i, errStat := status, errSig := sig }) h
  have done : s.queueError q i status sig = ((s.modQueue q (fun x => { x with
      error := true, errIdx := i, errStat := status, errSig := sig })).modQueue q (fun x => { x with ridx := x.kick })) := by
    simp only [State.queueError, h, fresh, Bool.false_eq_true, if_false, State.dropRest, marked, offers]
    rw [BitVec.sub_self]
    rfl
  rw [done]
  refine ⟨(OnlyQueues.modQueue _ _ _).trans (.modQueue _ _ _), ?_⟩
  rw [State.queue_modQueue_same _ marked, ← offers]

theorem State.queueError_again {s : State} {q : Nat} (i : Word) (status : Nat) (sig : DWord)
    (h : ∀ x, s.queue q = some x → x.error = true) : s.queueError q i status sig = s := by
  unfold State.queueError
  split
  · rfl
  next x here => rw [if_pos (h x here)]

theorem State.packet_of_packets {s t : State} (h : t.packets = s.packets) (id : Nat) : t.packet id = s.packet id :=
  congrArg (List.find? (fun p : Packet => p.id == id)) h

theorem State.checkDrain_rest (s : State) (q : Nat) : (s.checkDrain q).packets = s.packets
    ∧ ∀ pl, (s.checkDrain q).memAt pl = s.memAt pl := by
  unfold State.checkDrain
  split
  · split
    · exact ⟨rfl, fun pl => by cases pl <;> rfl⟩
    · exact ⟨rfl, fun _ => rfl⟩
  · exact ⟨rfl, fun _ => rfl⟩

theorem State.packet_removePacket (s : State) (id : Nat) : (s.removePacket id).packet id = none := by
  refine List.find?_eq_none.2 fun p hp => ?_
  have := (List.mem_filter.1 hp).2
  simpa using this

theorem State.removePacket_memAt (s : State) (id : Nat) (pl : Place) : (s.removePacket id).memAt pl = s.memAt pl := by
  cases pl <;> rfl

/-! ## Reports that go through -/

/-- A packet's report as far as its record. -/
def recorded (s : State) (p : Packet) (v : EndValues) : State :=
  s.modPacket p.id (fun q => { q with bytes := p.bytes, recorded := true, result := some v })

theorem State.report_ok {s s1 s2 : State} {p : Packet} {v v1 v2 : EndValues} (kept : p.dropped = false)
    (h1 : recordStep p v s = .ok (v1, s1))
    (h2 : signalStep { p with result := some v1 } v1 (recorded s1 p v1) = .ok ((v2, false), s2)) :
    s.report p v = (some v2, s2.removePacket p.id) := by
  have bytes : (if p.dropped && p.bytes.isEmpty then s.dropBytes p else pure p.bytes : Front (List Byte)) s = .ok (p.bytes, s) := by
    rw [kept]
    rfl
  have signalled : signalStep { p with bytes := p.bytes, result := some v1 } v1 (s1.modPacket p.id
      (fun q => { q with bytes := p.bytes, recorded := true, result := some v1 })) = .ok ((v2, false), s2) := h2
  simp only [State.report, bytes, h1, signalled]

theorem recordStep_none {p : Packet} (v : EndValues) (s : State) (h : p.res = none) : recordStep p v s = .ok (v, s) := by
  simp only [recordStep, h]

theorem signalStep_none {p : Packet} (v : EndValues) (s : State) (h : p.csig = none) : signalStep p v s = .ok ((v, false), s) := by
  simp only [signalStep, h]

theorem recordStep_ok {p : Packet} {v : EndValues} {s u : State} {a : Nat} (record : p.res = some a) (fresh : p.recorded = false)
    (kept : p.dropped = false) (h : frontWrite p.translator a (noPoison (p.record v s.now)) s = .ok ((), u)) :
    recordStep p v s = .ok (v, u) := by
  simp only [recordStep, record, fresh, kept, Bool.false_eq_true, if_false, h]

theorem signalStep_ok {p : Packet} {v : EndValues} {s u : State} {a : Nat} (signal : p.csig = some a) (fresh : p.faulted = false)
    (h : frontUpdate p.translator a (fun x => if v.status = 0 then x - 1 else x - 2) s = .ok ((), u)) :
    signalStep p v s = .ok ((v, false), u) := by
  simp only [signalStep, signal, fresh, Bool.false_eq_true, if_false, h]

/-- A report that lets the boundary pass, or needs none, leaves the interval worlds as they are. -/
theorem State.endOne_ok {s u : State} {p : Packet} {v v' : EndValues} (released : p.released = false)
    (h : s.report p v = (some v', u)) : s.endOne p v = (some v', u) := by
  rw [State.endOne, released, if_neg (by decide), h]

/-- A packet that ends without a failure that its queue has not met. -/
theorem State.endPacket_quiet {s u : State} {p : Packet} {v v' : EndValues} (hp : p.result = some v)
    (h : s.endOne p v = (some v', u))
    (quiet : v'.status = 0 ∨ ∀ x, u.queue p.queue = some x → x.error = true) : s.endPacket p = u.checkDrain p.queue := by
  simp only [State.endPacket, hp, h]
  by_cases zero : v'.status = 0
  · rw [if_pos (by simp [zero])]
  · have error := quiet.resolve_left zero
    split
    · rfl
    · rw [State.queueError_again _ _ _ error]

end Sys2Proof.Machine

namespace Sys2Proof.Statements

open Sys2Proof.Machine

/-- The packet as its end finds it. -/
def leaving (p : Packet) : Packet := { p with proved := true, working := false }

/-- A packet whose work has not told its dies has used those of its world. -/
def placed (s : State) (p : Packet) : Packet := if p.dies.isEmpty then { p with dies := s.partition p.wid } else p

/-- PACKET_END for a packet whose end is decided: its provenance record where it has used a partition, and its report. -/
def endOf (s : State) (p : Packet) (v : EndValues) : State :=
  let work := p.usesPartition && !p.dropped
  let s := if work && !p.proved then
      (s.keepRecord (placed s p) v).modPacket p.id
        (fun p => { p with proved := true, working := false })
    else s
  let s := s.endPacket (leaving p)
  if work && (s.packet p.id).isNone then s.holdRecord p.queue p.idx else s

theorem exec_packetEnd {s : State} {p : Packet} {v : EndValues} (h : Ending s p v) : exec .packetEnd s = .next (endOf s p v) := by
  obtain ⟨subject, here, result, -⟩ := h
  simp only [exec, execPacketEnd, subject, here, result]
  rw [← result]
  rfl

/-- The end of a packet that has used no partition is its report. -/
theorem endOf_plain {s : State} {p : Packet} {v : EndValues} (plain : p.usesPartition = false) :
    endOf s p v = s.endPacket (leaving p) := by
  simp only [endOf, plain]
  rfl

/-- A packet whose end is decided is not a dropped one: its status is another. -/
theorem Ending.status {s : State} {p : Packet} {v : EndValues} (h : Ending s p v) : (v.status == statusDropped) = false := by
  obtain ⟨-, -, result, kept⟩ := h
  rw [Packet.dropped, result] at kept
  exact kept

theorem Ending.kept {s : State} {p : Packet} {v : EndValues} (h : Ending s p v) : (leaving p).dropped = false := h.2.2.2

theorem keepRecord_keeps (s : State) (p : Packet) (v : EndValues) :
    ∃ r ∈ (s.keepRecord p v).provs, r.queue = p.queue ∧ r.idx = p.idx := by
  unfold State.keepRecord State.modWorld
  exact ⟨_, List.mem_append_right _ (List.mem_singleton_self _), rfl, rfl⟩

/-- The records of the packet itself are kept as it leaves. -/
theorem mem_holdRecord {s : State} {queue : Nat} {idx : Word} {r : ProvRecord} (h : r ∈ s.provs) (hq : r.queue = queue)
    (hi : r.idx = idx) : r ∈ (s.holdRecord queue idx).provs := by
  unfold State.holdRecord
  exact List.mem_append_right _ (List.mem_filter.2 ⟨h, by simp [hq, hi]⟩)

/-- The record of an ending packet that has used a partition is among those held. -/
theorem endOf_record {s : State} {p : Packet} {v : EndValues} (h : Ending s p v) (uses : p.usesPartition = true)
    (fresh : p.proved = false) : ∃ r ∈ (endOf s p v).provs, r.queue = p.queue ∧ r.idx = p.idx := by
  obtain ⟨-, -, -, kept⟩ := h
  have here := keepRecord_keeps s (placed s p) v
  obtain ⟨r, held, queue, idx⟩ := here
  have same : (placed s p).queue = p.queue ∧ (placed s p).idx = p.idx := by
    unfold placed
    split
    · exact ⟨rfl, rfl⟩
    · exact ⟨rfl, rfl⟩
  rw [same.1] at queue
  rw [same.2] at idx
  refine ⟨r, ?_, queue, idx⟩
  simp only [endOf, uses, kept, fresh, Bool.not_false, Bool.and_true, Bool.true_and, if_true]
  split
  · refine mem_holdRecord ?_ queue idx
    rw [State.endPacket_provs]
    exact held
  · rw [State.endPacket_provs]
    exact held

/-- A page request that is sent on, or fails for want of room, keeps the TLB, and brings no new request. -/
theorem sendQueued_keeps (n : Nat) (s : State) :
    (State.sendQueued n s).tlb = s.tlb ∧ ∀ x ∈ (State.sendQueued n s).ats, ∃ y ∈ s.ats, x.id = y.id := by
  have changed : ∀ (u : State) (id : Nat) (f : AtsReq → AtsReq), (∀ x, (f x).id = x.id) →
      ∀ x ∈ (u.modAts id f).ats, ∃ y ∈ u.ats, x.id = y.id := by
    intro u id f keeps x hx
    obtain ⟨y, hy, rfl⟩ := mem_modAts hx
    refine ⟨y, hy, ?_⟩
    split
    · exact keeps y
    · rfl
  have sent : ∀ (u : State) (r : AtsReq), (u.sendPri r).tlb = u.tlb ∧ ∀ x ∈ (u.sendPri r).ats, ∃ y ∈ u.ats, x.id = y.id := by
    intro u r
    unfold State.sendPri
    split
    · obtain ⟨slots, fails, ended⟩ := OnlyFailures.failUsers r.users r.va .page 0x00F (u.endAts r.id)
      rw [State.failAts, ← State.endAts, ended]
      exact ⟨rfl, fun x hx => ⟨x, List.mem_of_mem_filter hx, rfl⟩⟩
    · split
      · exact ⟨rfl, changed _ _ _ fun _ => rfl⟩
      · exact ⟨rfl, changed _ _ _ fun _ => rfl⟩
  induction n generalizing s with
  | zero => exact ⟨rfl, fun x hx => ⟨x, hx, rfl⟩⟩
  | succ n ih =>
    unfold State.sendQueued
    split
    next r _ =>
      split
      · exact ⟨rfl, fun x hx => ⟨x, hx, rfl⟩⟩
      · obtain ⟨tlb, ats⟩ := ih ((s.modAts r.id (fun r => { r with queued := false })).sendPri r)
        obtain ⟨tlb', ats'⟩ := sent (s.modAts r.id (fun r => { r with queued := false })) r
        refine ⟨tlb.trans tlb', fun x hx => ?_⟩
        obtain ⟨y, hy, xy⟩ := ats x hx
        obtain ⟨z, hz, yz⟩ := ats' y hy
        obtain ⟨w, hw, zw⟩ := changed s r.id (fun r => { r with queued := false }) (fun _ => rfl) z hz
        exact ⟨w, hw, xy.trans (yz.trans zw)⟩
    · exact ⟨rfl, fun x hx => ⟨x, hx, rfl⟩⟩

theorem frontEndPageWait_one {s : State} {r : AtsReq} {pk : Nat} (addr size : Nat)
    (one : s.ats.filter (fun r => r.pri && r.users.contains (.packet pk)) = [r]) (ht : r.stale = false) (hq : r.queued = false)
    (hs : r.sent = true) (hd : r.dropped = false) :
    exec (.frontEndPageWait pk (.granted addr size true true false)) s
      = .next ((s.modAts r.id (fun r => { r with pri := false })).atsGranted { r with pri := false } addr size true true false).nextPri := by
  simp only [exec, execFrontEndPageWait, one, List.foldl_cons, List.foldl_nil, State.atsAnswer, ht, hq, hs, hd]
  rfl

/-- The watchdog of a queue of one packet. -/
theorem exec_watchdogExpiry {s : State} {q : Nat} {x : Queue} {p : Packet} (hs : s.subject = [q]) (hq : s.queue q = some x)
    (one : s.unended q = [p]) : exec .watchdogExpiry s
      = .next (((s.modQueue q (fun x => { x with oldest := none })).queueError q p.idx Cause.watchdog.code.toNat 0).failPacket p .watchdog) := by
  simp only [exec, execWatchdogExpiry, hs, hq, one, List.foldl_cons, List.foldl_nil]

theorem failPacket_alone {s : State} {p : Packet} (c : Cause) (idle : s.launches.all (fun e => e.2.pk != p.id) = true) :
    s.failPacket p c = if p.result.isNone then s.decidePacket p.id { status := c.code.toNat }
      else if p.waiting then
        ((s.failWaits p.id c).modPacket p.id (fun p => { p with waiting := false })).schedule s.cycle .packetEnd [p.id]
      else s.modPacket p.id (fun p => { p with result := some { status := c.code.toNat }, recorded := false }) := by
  have none : s.launches.find? (fun e => e.2.pk == p.id) = none :=
    List.find?_eq_none.2 fun e he => by simpa using List.all_eq_true.1 idle e he
  simp only [State.failPacket, none]

/-- Nothing waits for a user any more that has been withdrawn. -/
theorem not_mem_withdrawUsers {s : State} {u : AtsUser} : ∀ r ∈ (s.withdrawUsers (fun x => x == u)).ats, u ∉ r.users := by
  intro r hr
  obtain ⟨y, -, rfl⟩ := List.mem_map.1 hr
  simp

/-- A packet without a signal and a record leaves at once. -/
theorem endOne_silent (s : State) {p : Packet} {v : EndValues} (kept : p.dropped = false) (record : p.res = none) (signal : p.csig = none) :
    s.endOne p v = (some v, (recorded s p v).removePacket p.id) := by
  have reports : ∀ u : State, u.report p v = (some v, (recorded u p v).removePacket p.id) := fun u =>
    State.report_ok kept (recordStep_none v u record) (signalStep_none v _ (p := { p with result := some v }) signal)
  unfold State.endOne
  split
  · simp only [reports]
    rfl
  · exact reports s

/-- A packet that fails puts its queue into its error state. -/
theorem endPacket_failing {s u : State} {p : Packet} {v v' : EndValues} (hp : p.result = some v)
    (h : s.endOne p v = (some v', u)) (bad : v'.status ≠ 0) (kept : (v'.status == statusDropped) = false) :
    s.endPacket p = (u.queueError p.queue p.idx v'.status (abortedBy p v')).checkDrain p.queue := by
  have failing : ¬ (decide (v'.status = 0) || decide (v'.status = statusDropped)) = true := by simp_all
  simp only [State.endPacket, hp, h, abortedBy]
  exact congrArg (fun w : State => w.checkDrain p.queue) (if_neg failing)

/-- A packet that fails leaves, and is the first failure of its queue. -/
theorem endPacket_first {s : State} {p : Packet} {v : EndValues} {x : Queue} (hp : p.result = some v) (kept : p.dropped = false)
    (record : p.res = none) (signal : p.csig = none) (bad : v.status ≠ 0) (status : (v.status == statusDropped) = false)
    (hq : s.queue p.queue = some x) (fresh : x.error = false) (offers : x.ridx = x.kick) :
    (s.endPacket p).packet p.id = none ∧ (s.endPacket p).queue p.queue = some { x with
      error := true, errIdx := p.idx, errStat := v.status, errSig := abortedBy p v } := by
  rw [endPacket_failing hp (endOne_silent s kept record signal) bad status]
  have gone := State.packet_removePacket (recorded s p v) p.id
  have here : ((recorded s p v).removePacket p.id).queue p.queue = some x := hq
  generalize (recorded s p v).removePacket p.id = u at gone here ⊢
  obtain ⟨⟨queues, only⟩, failed⟩ := State.queueError_first p.idx v.status (abortedBy p v) here fresh offers
  refine ⟨?_, (State.queue_of_queues_eq (State.checkDrain_queues _ _) _).trans failed⟩
  rw [State.packet_of_packets (State.checkDrain_rest _ _).1 p.id, only]
  exact gone

/-- Settles O54. -/
theorem packetsEnd : Obligations.PacketsEnd := by
  unfold Obligations.PacketsEnd
  refine ⟨?_, ?_, ?_, ?_, ?_, ?_, ?_⟩
  · intro s r pk addr size one hst hq hs hd
    refine ⟨_, frontEndPageWait_one addr size one hst hq hs hd, ?_⟩
    rw [State.atsGranted_kept]
    generalize hu : s.modAts r.id (fun r => { r with pri := false }) = u
    generalize he : grantEntry { r with pri := false } addr size = e
    have granted : e.die = r.die ∧ e.world = r.world ∧ e.pasid = some r.pasid ∧ e.r = true ∧ e.w = true := by
      rw [← he]
      exact ⟨rfl, rfl, rfl, rfl, rfl⟩
    have kept := mem_fillTlb (u.supplant e) e
    generalize (u.supplant e).fillTlb e = w at kept ⊢
    obtain ⟨tlb, ats⟩ := sendQueued_keeps (w.endAts r.id).ats.length (w.endAts r.id)
    refine ⟨fun x hx => ?_, e, tlb.symm ▸ kept, granted⟩
    obtain ⟨y, hy, xy⟩ := ats x hx
    rw [xy]
    exact State.ended _ _ y hy
  · intro s q x p hs hq he ho hn hp hr hl
    have timed := OnlyQueues.modQueue s q (fun x => { x with oldest := none })
    obtain ⟨errs, failed⟩ := State.queueError_first p.idx Cause.watchdog.code.toNat 0
      (State.queue_modQueue_same (fun x => { x with oldest := none }) hq) he ho
    refine ⟨_, exec_watchdogExpiry hs hq hn, ?_⟩
    generalize State.queueError _ _ _ _ _ = u at errs failed ⊢
    obtain ⟨queues, rest⟩ := timed.trans errs
    rw [failPacket_alone .watchdog (by rw [rest]; exact hl), hr, if_pos (Option.isNone_none)]
    refine ⟨⟨_, State.packet_decidePacket (p := p) ?_ hr, rfl⟩, ?_⟩
    · rw [rest]
      exact hp
    · rw [State.queue_of_queues_eq (State.decidePacket_rest _ _ _).1, failed]
      rfl
  · intro s q x p v hs hq he hn hp hr hw hl
    have marked := State.queue_modQueue_same (fun x => { x with oldest := none }) hq
    obtain ⟨queues, timed⟩ := OnlyQueues.modQueue s q (fun x => { x with oldest := none })
    refine ⟨_, { p with waiting := false }, exec_watchdogExpiry hs hq hn, ?_⟩
    rw [State.queueError_again _ _ _ (fun y hy => by rw [marked] at hy; cases hy; exact he),
      failPacket_alone .watchdog (by rw [timed]; exact hl), if_neg (by rw [hr]; exact Bool.false_ne_true), if_pos hw]
    refine ⟨?_, rfl, hr, not_mem_withdrawUsers, ?_⟩
    · refine (State.packet_modPacket (s := (s.modQueue q (fun x => { x with oldest := none })).failWaits p.id .watchdog)
        (f := fun p => { p with waiting := false }) fun _ => rfl).trans ?_
      rw [timed, show (({ s with queues := queues } : State).failWaits p.id .watchdog).packet p.id = some p from hp]
      rfl
    · rw [timed]
      exact agenda_schedule _ _ _ _
  · intro s p v h uses fresh
    exact ⟨_, exec_packetEnd h, endOf_record h uses fresh⟩
  · intro s u p v a h plain zero signal record fresh released written
    have kept := h.kept
    have wrote := recordStep_ok (p := leaving p) (v := v) record fresh kept written
    have ended := State.endOne_ok (p := leaving p) released (State.report_ok kept wrote
      (signalStep_none v (recorded u (leaving p) v) (p := { leaving p with result := some v }) signal))
    obtain ⟨packets, memory⟩ := State.checkDrain_rest ((recorded u (leaving p) v).removePacket p.id) p.queue
    refine ⟨_, (exec_packetEnd h).trans (by rw [endOf_plain plain, State.endPacket_quiet (p := leaving p) (h := ended) h.2.2.1 (.inl zero)]),
      ?_, fun pl => ?_⟩
    · exact (State.packet_of_packets packets p.id).trans (State.packet_removePacket _ _)
    · exact (memory pl).trans ((State.removePacket_memAt _ _ _).trans (State.modPacket_memAt _ _ _ _))
  · intro s p v x h plain bad signal record hq he ho
    exact ⟨_, (exec_packetEnd h).trans (by rw [endOf_plain plain]),
      endPacket_first (p := leaving p) h.2.2.1 h.kept record signal bad h.status hq he ho⟩
  · intro s s1 p v pl a o h plain quiet record signal released faulted found s2 old
    obtain ⟨u, updated, wrote⟩ : ∃ u, frontUpdate p.translator a (fun x => if v.status = 0 then x - 1 else x - 2)
          (recorded s (leaving p) v) = .ok ((), u)
        ∧ (u.memAt pl).bytes o 8 = bytesOfWord 8 (old - (if v.status = 0 then 1 else 2)).toNat := by
      refine ⟨_, frontUpdate_ok found, (State.homeWrite_bytes s2 p.translator.world pl o
        (bytesOfWord 8 (if v.status = 0 then old - 1 else old - 2).toNat) false).trans ?_⟩
      split
      · rfl
      · rfl
    have queues := frontUpdate_keepsQueues _ _ _ _ _ _ updated
    have lowered := signalStep_ok (p := { leaving p with result := some v }) (v := v) (s := recorded s (leaving p) v) signal faulted updated
    have ended := State.endOne_ok (p := leaving p) released (State.report_ok h.kept (recordStep_none v s record) lowered)
    obtain ⟨packets, memory⟩ := State.checkDrain_rest (u.removePacket p.id) p.queue
    refine ⟨_, (exec_packetEnd h).trans (by rw [endOf_plain plain, State.endPacket_quiet (p := leaving p) (h := ended) h.2.2.1
      (quiet.imp id fun h x hx => h x (by rw [← hx]; exact (State.queue_of_queues_eq queues _).symm))]), ?_, ?_⟩
    · exact (State.packet_of_packets packets p.id).trans (State.packet_removePacket _ _)
    · have place : ((u.removePacket p.id).checkDrain p.queue).memAt pl = u.memAt pl :=
        (memory pl).trans (State.removePacket_memAt _ _ _)
      exact (congrArg (fun m : Mem => m.bytes o 8) place).trans wrote

end Sys2Proof.Statements
end

section
/-! SUPPORT. The arbiter of the matrix unit, and what of its instructions lands (R145, R195, R196, R206). -/

namespace Sys2Proof.Machine

open Sys2Proof.Statements

/-! ## Four in turn -/

/-- The i-th after the last, in turn, has the rank i. -/
theorem rank_turn (last : Nat) {i : Nat} (h : i < 4) : rank last ((last + 1 + i) % 4) = i := by
  unfold rank
  omega

theorem turn_rank (last : Nat) {m : Nat} (h : m < 4) : (last + 1 + rank last m) % 4 = m := by
  unfold rank
  omega

theorem rank_lt (last m : Nat) : rank last m < 4 := Nat.mod_lt _ (by decide)

theorem rank_injective {last m n : Nat} (hm : m < 4) (hn : n < 4) (h : rank last m = rank last n) : m = n := by
  rw [← turn_rank last hm, ← turn_rank last hn, h]

/-- What a search in turn finds is of the least rank. -/
theorem round_findSome {α : Type} {g : Nat → Option α} (last : Nat) (h : ∃ n < 4, (g n).isSome) :
    ∃ n b, n < 4 ∧ (roundFrom last).findSome? g = some b ∧ g n = some b ∧ ∀ m < 4, (g m).isSome → rank last n ≤ rank last m := by
  have order : roundFrom last = [(last + 1 + 0) % 4, (last + 1 + 1) % 4, (last + 1 + 2) % 4, (last + 1 + 3) % 4] := rfl
  have least : ∀ i < 4, ∀ b, g ((last + 1 + i) % 4) = some b → (∀ j < i, g ((last + 1 + j) % 4) = none) →
      (roundFrom last).findSome? g = some b → ∃ n b, n < 4 ∧ (roundFrom last).findSome? g = some b ∧ g n = some b
        ∧ ∀ m < 4, (g m).isSome → rank last n ≤ rank last m := by
    intro i hi b here before found
    refine ⟨_, b, Nat.mod_lt _ (by decide), found, here, fun m hm some_ => ?_⟩
    rw [rank_turn last hi]
    refine Nat.le_of_not_lt fun earlier => ?_
    have none := before _ earlier
    rw [turn_rank last hm] at none
    rw [none] at some_
    cases some_
  cases h0 : g ((last + 1 + 0) % 4) with
  | some b => exact least 0 (by decide) b h0 (fun j hj => by omega) (by simp [order, h0])
  | none =>
    cases h1 : g ((last + 1 + 1) % 4) with
    | some b =>
      refine least 1 (by decide) b h1 (fun j hj => ?_) (by simp only [order, List.findSome?_cons, h0, h1])
      rwa [show j = 0 by omega]
    | none =>
      cases h2 : g ((last + 1 + 2) % 4) with
      | some b =>
        refine least 2 (by decide) b h2 (fun j hj => ?_) (by simp only [order, List.findSome?_cons, h0, h1, h2])
        rcases (by omega : j = 0 ∨ j = 1) with rfl | rfl
        · exact h0
        · exact h1
      | none =>
        obtain ⟨n, hn, some_⟩ := h
        have last_one : g ((last + 1 + 3) % 4) = g n := by
          refine congrArg g ((congrArg (fun i => (last + 1 + i) % 4) ?_).trans (turn_rank last hn))
          have small := rank_lt last n
          have not : ∀ j, g ((last + 1 + j) % 4) = none → rank last n ≠ j := fun j hj h => by
            rw [← h, turn_rank last hn] at hj
            rw [hj] at some_
            cases some_
          have := not 0 h0
          have := not 1 h1
          have := not 2 h2
          omega
        obtain ⟨b, hb⟩ := Option.isSome_iff_exists.1 some_
        have h3 := last_one.trans hb
        refine least 3 (by decide) b h3 (fun j hj => ?_) (by simp only [order, List.findSome?_cons, h0, h1, h2, h3])
        rcases (by omega : j = 0 ∨ j = 1 ∨ j = 2) with rfl | rfl | rfl
        · exact h0
        · exact h1
        · exact h2

/-! ## The slots of a cluster -/

theorem coreInCluster_coreOfCluster (cl : Nat) {c : Nat} (h : c < 4) : coreInCluster (coreOfCluster cl c) = c := by
  unfold coreInCluster yOfCore xOfCore coreOfCluster coreAt
  omega

theorem coreOfSlot_slotOfCluster (cl c : Nat) {i : Nat} (h : i < 4) : coreOfSlot (slotOfCluster cl c i) = coreOfCluster cl c := by
  unfold coreOfSlot slotOfCluster
  omega

theorem slotNumber_slotOfCluster (cl c : Nat) {i : Nat} (h : i < 4) : slotNumber (slotOfCluster cl c i) = i := by
  unfold slotNumber slotOfCluster
  omega

/-! ## The grant -/

/-- The slot of a core that is next in turn among those that ask. -/
def State.coreGrantee (s : State) (cl k : Nat) : Option Nat :=
  ((roundFrom (lastSlot s cl k)).map (fun i => slotOfCluster cl k i)).find? s.requests

theorem State.grantee_eq (s : State) (cl : Nat) :
    s.grantee cl = (roundFrom (s.cluster cl).matrixCore).findSome? (s.coreGrantee cl) := rfl

theorem State.coreGrantee_isSome {s : State} {cl k : Nat} :
    (s.coreGrantee cl k).isSome ↔ ∃ i < 4, s.requests (slotOfCluster cl k i) = true := by
  rw [State.coreGrantee, List.find?_isSome]
  constructor
  · rintro ⟨x, hx, asks⟩
    obtain ⟨i, hi, rfl⟩ := List.mem_map.1 hx
    obtain ⟨j, -, rfl⟩ := List.mem_map.1 hi
    exact ⟨_, Nat.mod_lt _ (by decide), asks⟩
  · rintro ⟨i, hi, asks⟩
    refine ⟨_, List.mem_map.2 ⟨i, List.mem_map.2 ⟨rank (lastSlot s cl k) i, List.mem_range.2 (rank_lt _ _), turn_rank _ hi⟩, rfl⟩, asks⟩

theorem State.coreGrantee_first {s : State} {cl k b : Nat} (h : s.coreGrantee cl k = some b) :
    ∃ i < 4, b = slotOfCluster cl k i ∧ s.requests b = true
      ∧ ∀ j < 4, s.requests (slotOfCluster cl k j) = true → rank (lastSlot s cl k) i ≤ rank (lastSlot s cl k) j := by
  have asks : ∃ n < 4, ((if s.requests (slotOfCluster cl k n) then some (slotOfCluster cl k n) else none) : Option Nat).isSome := by
    obtain ⟨i, hi, asks⟩ := State.coreGrantee_isSome.1 (by rw [h]; rfl)
    exact ⟨i, hi, by rw [if_pos asks]; rfl⟩
  obtain ⟨n, b', hn, found, here, least⟩ := round_findSome (lastSlot s cl k) asks
  have same : s.coreGrantee cl k = some b' := by
    rw [← found, State.coreGrantee, List.find?_eq_findSome?_guard, List.findSome?_map]
    rfl
  have value : b' = b := Option.some.inj (same.symm.trans h)
  subst value
  by_cases asking : s.requests (slotOfCluster cl k n) = true
  · rw [if_pos asking] at here
    have hb := Option.some.inj here
    refine ⟨n, hn, hb.symm, hb ▸ asking, fun j hj asks => least j hj (by rw [if_pos asks]; rfl)⟩
  · rw [if_neg asking] at here
    cases here

/-- The slot that a cluster's unit grants, where one asks. -/
theorem State.grantee_some {s : State} {cl : Nat} (h : ∃ c i, c < 4 ∧ i < 4 ∧ s.requests (slotOfCluster cl c i) = true) :
    ∃ c i, c < 4 ∧ i < 4 ∧ s.grantee cl = some (slotOfCluster cl c i) ∧ s.requests (slotOfCluster cl c i) = true
      ∧ ∀ d j, d < 4 → j < 4 → s.requests (slotOfCluster cl d j) = true →
        rank (s.cluster cl).matrixCore c < rank (s.cluster cl).matrixCore d
          ∨ c = d ∧ rank (lastSlot s cl c) i ≤ rank (lastSlot s cl c) j := by
  obtain ⟨c0, i0, hc0, hi0, asks0⟩ := h
  obtain ⟨c, b, hc, found, here, least⟩ :=
    round_findSome (g := s.coreGrantee cl) (s.cluster cl).matrixCore ⟨c0, hc0, State.coreGrantee_isSome.2 ⟨i0, hi0, asks0⟩⟩
  obtain ⟨i, hi, rfl, asks, first⟩ := State.coreGrantee_first here
  refine ⟨c, i, hc, hi, found, asks, fun d j hd hj asksd => ?_⟩
  rcases Nat.lt_or_eq_of_le (least d hd (State.coreGrantee_isSome.2 ⟨j, hj, asksd⟩)) with lt | eq
  · exact .inl lt
  · have same := rank_injective hc hd eq
    subst same
    exact .inr ⟨rfl, first j hj asksd⟩

theorem State.grantee_none {s : State} {cl : Nat} (h : ∀ c i, c < 4 → i < 4 → s.requests (slotOfCluster cl c i) = false) :
    s.grantee cl = none := by
  rw [State.grantee_eq, List.findSome?_eq_none_iff]
  intro c hc
  obtain ⟨k, -, rfl⟩ := List.mem_map.1 hc
  refine Option.not_isSome_iff_eq_none.1 fun some_ => ?_
  obtain ⟨i, hi, asks⟩ := State.coreGrantee_isSome.1 some_
  rw [h _ i (Nat.mod_lt _ (by decide)) hi] at asks
  cases asks

end Sys2Proof.Machine
end

section
/-! SUPPORT. The matrix unit's steps: the grant, the slot it lets issue, and landings. -/

namespace Sys2Proof.Machine

open Sys2Proof.Statements

/-- The state after a grant to a slot. -/
def State.grantTo (s : State) (cl k : Nat) : State :=
  (s.modCluster cl (fun c => { c with
    matrixCore := coreInCluster (coreOfSlot k)
    matrixSlot := c.matrixSlot.set (fun _ => 3) (coreInCluster (coreOfSlot k)) (slotNumber k) })).modSlot k
      (fun sl => { sl with granted := true })

theorem exec_matrixGrant {s : State} {cl k : Nat} (hs : s.subject = [cl]) (free : (s.cluster cl).matrixBusy ≤ s.cycle)
    (h : s.grantee cl = some k) : exec .matrixGrant s = .next (s.grantTo cl k) := by
  simp only [exec, execMatrixGrant, hs, free, if_true, h]
  rfl

theorem grantTo_slotOfCluster (s : State) (cl : Nat) {c i : Nat} (hc : c < 4) (hi : i < 4) :
    ((s.grantTo cl (slotOfCluster cl c i)).slot (slotOfCluster cl c i)).granted = true
      ∧ (∀ k, k ≠ slotOfCluster cl c i → (s.grantTo cl (slotOfCluster cl c i)).slot k = s.slot k)
      ∧ ((s.grantTo cl (slotOfCluster cl c i)).cluster cl).matrixCore = c
      ∧ lastSlot (s.grantTo cl (slotOfCluster cl c i)) cl c = i
      ∧ ∀ d, d ≠ c → lastSlot (s.grantTo cl (slotOfCluster cl c i)) cl d = lastSlot s cl d := by
  have core : coreInCluster (coreOfSlot (slotOfCluster cl c i)) = c := by
    rw [coreOfSlot_slotOfCluster cl c hi, coreInCluster_coreOfCluster cl hc]
  have cluster : (s.grantTo cl (slotOfCluster cl c i)).cluster cl = { s.cluster cl with
      matrixCore := c, matrixSlot := (s.cluster cl).matrixSlot.set (fun _ => 3) c i } := by
    unfold State.grantTo
    rw [core, slotNumber_slotOfCluster cl c hi]
    exact State.cluster_setCluster_same _ _ _
  refine ⟨congrArg Slot.granted (State.slot_setSlot_same _ _ _), fun k hk => State.slot_setSlot_ne _ _ hk, by rw [cluster], ?_, fun d hd => ?_⟩
  · rw [lastSlot, cluster]
    exact Assoc.get_set_same _ _ _ _
  · rw [lastSlot, cluster]
    exact Assoc.get_set_ne _ _ _ hd

/-! ## Who issues -/

theorem examined_core {s : State} {core i : Nat} {e : Nat × Nat} (h : e ∈ s.examined core i) : coreOfSlot e.1 = core := by
  have order : ∀ e ∈ (List.range 4).map (fun j => (core * 4 + ((s.core core).last + 1 + j) % 4, j)), coreOfSlot e.1 = core := by
    intro e he
    obtain ⟨j, -, rfl⟩ := List.mem_map.1 he
    unfold coreOfSlot
    simp only
    omega
  unfold State.examined at h
  simp only at h
  split at h
  next g found =>
    rcases List.mem_cons.1 h with rfl | h
    · split at found
      · exact order g (List.mem_of_find?_eq_some found)
      · cases found
    · exact order e h
  · exact order e (List.mem_of_mem_drop h)

/-- A core looks first at its only slot with a grant. -/
theorem examined_granted {s : State} {k : Nat} (granted : (s.slot k).granted = true)
    (only : ∀ i, coreOfSlot i = coreOfSlot k → (s.slot i).granted = true → i = k) :
    ∃ rest, s.examined (coreOfSlot k) 0 = (k, 0) :: rest := by
  have found : ∃ j, ((List.range 4).map (fun j => (coreOfSlot k * 4 + ((s.core (coreOfSlot k)).last + 1 + j) % 4, j))).find?
      (fun e => (s.slot e.1).granted) = some (k, j) := by
    have some_ : (((List.range 4).map (fun j => (coreOfSlot k * 4 + ((s.core (coreOfSlot k)).last + 1 + j) % 4, j))).find?
        (fun e => (s.slot e.1).granted)).isSome := by
      refine List.find?_isSome.2 ⟨(k, rank (s.core (coreOfSlot k)).last (k % 4)), List.mem_map.2
        ⟨rank (s.core (coreOfSlot k)).last (k % 4), List.mem_range.2 (rank_lt _ _), ?_⟩, granted⟩
      rw [turn_rank _ (Nat.mod_lt k (by decide))]
      exact congrArg (·, _) (Nat.div_add_mod' k 4)
    obtain ⟨⟨i, j⟩, he⟩ := Option.isSome_iff_exists.1 some_
    have core : coreOfSlot i = coreOfSlot k := by
      obtain ⟨n, -, hn⟩ := List.mem_map.1 (List.mem_of_find?_eq_some he)
      have := congrArg Prod.fst hn
      unfold coreOfSlot at this ⊢
      simp only at this
      omega
    have same := only i core (List.find?_some (p := fun e : Nat × Nat => (s.slot e.1).granted) he)
    exact ⟨j, same ▸ he⟩
  obtain ⟨j, found⟩ := found
  exact ⟨(List.range 4).map (fun j => (coreOfSlot k * 4 + ((s.core (coreOfSlot k)).last + 1 + j) % 4, j)), by
    simp only [State.examined, if_true, found]⟩

/-- The slot that issues is the first of its core that may. -/
theorem nextIssuer_first {s : State} {j n : Nat} (h : s.nextIssuer = some (j, n)) :
    (s.examined (coreOfSlot j) (if coreOfSlot j = s.turn then s.tried else 0)).find? (fun e => s.mayIssue e.1) = some (j, n) := by
  obtain ⟨c, -, hc⟩ := List.exists_of_findSome?_eq_some h
  rwa [examined_core (List.mem_of_find?_eq_some hc)]

/-! ## Landings -/

/-- A slot that does not drain is not settled. -/
theorem settleSlot_running {s : State} {k : Nat} (h : (s.slot k).draining = false) : s.settleSlot k = s := by
  simp only [State.settleSlot, h, Bool.false_and, Bool.false_eq_true, if_false]

/-- What a result brings its slot. -/
def Slot.takeResult (sl : Slot) (r : Result) : Slot :=
  let sl := r.regs.foldl (fun sl e => sl.setRegAt e.1 e.2.toReg) sl
  let sl := match r.mask with
    | some m => sl.setMask m.1 m.2
    | none => sl
  (sl.landFlags r.flags).addCounts r.counts

theorem Slot.takeResult_flags (sl : Slot) (r : Result) :
    (sl.takeResult r).fflags = sl.fflags ||| r.flags ∧ (sl.takeResult r).draining = sl.draining := by
  have regs : ∀ (l : List (Nat × Val)) (u : Slot), (l.foldl (fun sl e => sl.setRegAt e.1 e.2.toReg) u).fflags = u.fflags
      ∧ (l.foldl (fun sl e => sl.setRegAt e.1 e.2.toReg) u).draining = u.draining := by
    intro l u
    induction l generalizing u with
    | nil => exact ⟨rfl, rfl⟩
    | cons e l ih =>
      have one : (u.setRegAt e.1 e.2.toReg).fflags = u.fflags ∧ (u.setRegAt e.1 e.2.toReg).draining = u.draining := by
        unfold Slot.setRegAt
        split
        · exact ⟨rfl, rfl⟩
        · exact ⟨rfl, rfl⟩
      exact ⟨(ih _).1.trans one.1, (ih _).2.trans one.2⟩
  have counts : ∀ (l : Assoc Nat) (u : Slot), (u.addCounts l).fflags = u.fflags ∧ (u.addCounts l).draining = u.draining := by
    intro l u
    unfold Slot.addCounts
    induction l generalizing u with
    | nil => exact ⟨rfl, rfl⟩
    | cons e l ih => exact ⟨(ih _).1.trans rfl, (ih _).2.trans rfl⟩
  obtain ⟨flags, drains⟩ := regs r.regs sl
  unfold Slot.takeResult
  refine ⟨(counts _ _).1.trans ?_, (counts _ _).2.trans ?_⟩
  · cases r.mask with
    | none => exact congrArg (· ||| r.flags) flags
    | some m => exact congrArg (· ||| r.flags) flags
  · cases r.mask with
    | none => exact drains
    | some m => exact drains

/-- The memory, the slot and the units once a result has landed. -/
def State.withResult (s : State) (k : Nat) (r : Result) : State :=
  let place : Place := .arena r.core
  let s := if r.writes.isEmpty && r.poisoned.isEmpty then s else s.setMemAt place ((s.memAt place).land r.writes r.poisoned)
  let s := s.modSlot k (fun sl => sl.takeResult r)
  { s with results := s.results.filter (fun x => x.id != r.id), spans := s.spans.filter (fun x => x.id != r.id || x.held) }

theorem landResult_eq {s : State} {k : Nat} {r : Result} (h : s.results.find? (fun x => x.id == r.id) = some r)
    (running : (s.slot k).draining = false) : s.landResult k r.id = s.withResult k r := by
  have still : ∀ u : State, u.slot k = s.slot k → ((u.modSlot k (fun sl => sl.takeResult r)).slot k).draining = false := by
    intro u hu
    rw [State.modSlot_eq, State.slot_setSlot_same, (Slot.takeResult_flags _ _).2, hu]
    exact running
  simp only [State.landResult, h]
  refine settleSlot_running ?_
  split
  · exact still s rfl
  · exact still _ rfl

theorem withResult_landed (s : State) (k : Nat) (r : Result) :
    (s.withResult k r).memAt (.arena r.core) = (if r.writes.isEmpty && r.poisoned.isEmpty then s.memAt (.arena r.core)
        else (s.memAt (.arena r.core)).land r.writes r.poisoned)
      ∧ (∀ p, p ≠ .arena r.core → (s.withResult k r).memAt p = s.memAt p)
      ∧ (∀ j, j ≠ k → (s.withResult k r).slot j = s.slot j)
      ∧ ((s.withResult k r).slot k) = (s.slot k).takeResult r := by
  unfold State.withResult
  simp only
  split
  · exact ⟨rfl, fun p _ => by cases p <;> rfl, fun j hj => State.slot_setSlot_ne _ _ hj, State.slot_setSlot_same _ _ _⟩
  · refine ⟨?_, fun p hp => ?_, fun j hj => (State.slot_setSlot_ne _ _ hj).trans rfl, (State.slot_setSlot_same _ _ _).trans rfl⟩
    · exact State.memAt_setMemAt_same s (.arena r.core) _
    · exact (by cases p <;> rfl : _ = (s.setMemAt (.arena r.core) ((s.memAt (.arena r.core)).land r.writes r.poisoned)).memAt p).trans
        (State.memAt_setMemAt_ne s _ hp)

end Sys2Proof.Machine

namespace Sys2Proof.Statements

open Sys2Proof.Machine

/-- A ring slot that changes. -/
theorem slotAt_modRingSlot {s : State} {k q i : Nat} {x : RingSlot} (f : RingSlot → RingSlot)
    (h : ((s.slot k).ring q).slots.find i = some x) :
    (((s.modRingSlot k q i f).slot k).ring q).slots.find i = some (f x) := by
  have here : ((s.slot k).rings.get ringDefault q).slots.find i = some x := h
  rw [State.modRingSlot, State.modRing, State.modSlot_eq, State.slot_setSlot_same, Slot.ring]
  simp only [Assoc.get_set_same, here]
  exact Assoc.find_put_same _ _ _

/-- Settles O39. -/
theorem matrixUnit : Obligations.MatrixUnit := by
  unfold Obligations.MatrixUnit
  refine ⟨⟨?_, ?_, ?_⟩, ?_, ?_, ?_⟩
  · intro s cl hs free some_
    obtain ⟨c, i, hc, hi, found, asks, first⟩ := State.grantee_some some_
    exact ⟨_, c, i, exec_matrixGrant hs free found, hc, hi, asks, first, grantTo_slotOfCluster s cl hc hi⟩
  · intro s cl hs h
    simp only [exec, execMatrixGrant, hs]
    rcases h with busy | none
    · rw [if_neg (Nat.not_le.2 busy)]
    · simp only [State.grantee_none none, ite_self]
  · intro s k j n granted may only turn issuer core
    have first := nextIssuer_first issuer
    rw [core, show (if coreOfSlot k = s.turn then s.tried else 0) = 0 by
      split
      next h => exact turn h.symm
      · rfl] at first
    obtain ⟨rest, examined⟩ := examined_granted granted only
    rw [examined, List.find?_cons, may] at first
    cases first
    exact ⟨rfl, rfl⟩
  · intro s k r hs found running
    obtain ⟨place, others, slots, mine⟩ := withResult_landed s k r
    refine ⟨_, ?_, place, others, slots, ?_, fun x hx number => ?_, fun x hx => by simpa using (List.mem_filter.1 hx).2⟩
    · simp only [exec, execTileResultsLand, hs, landResult_eq found running]
    · rw [mine, (Slot.takeResult_flags _ _).1]
    · have := (List.mem_filter.1 hx).2
      simpa [number] using this
  · intro s k id hs
    refine ⟨{ s with spans := s.spans.filter (fun x => !(x.held && x.id == id)) }, ?_, fun x hx held number => ?_, fun x hx out => ?_, rfl⟩
    · simp only [exec, execHeldSpanRelease, hs]
    · have := (List.mem_filter.1 hx).2
      simp [held, number] at this
    · refine List.mem_filter.2 ⟨hx, ?_⟩
      rcases out with h | h
      · simp [h]
      · simp [h]
  · intro s k q i x hs found readers drain fill sees
    have read := slotAt_modRingSlot (fun x => { x with readers := x.readers - 1 }) found
    refine ⟨(s.modRingSlot k q i (fun x => { x with readers := x.readers - 1 })).settleRingSlot k q i, by
      simp only [exec, execRingSlotFrees, hs], ?_⟩
    have settled := slotAt_modRingSlot (fun r => r.settle (s.modRingSlot k q i (fun x => { x with readers := x.readers - 1 }))) read
    have frees : ({ x with readers := x.readers - 1 } : RingSlot).settle
        (s.modRingSlot k q i (fun x => { x with readers := x.readers - 1 })) = { x with readers := 0, drain := false, freed := some s.cycle } := by
      have entry : ∀ e, (s.modRingSlot k q i (fun x => { x with readers := x.readers - 1 })).entry e = s.entry e := fun _ => rfl
      simp only [RingSlot.settle, entry, readers, drain, fill, sees]
      rfl
    rw [frees] at settled
    exact congrArg (fun o : Option RingSlot => o.getD {}) settled

end Sys2Proof.Statements
end

section
/-! SUPPORT. The copy engine: CPY, CPYH and CPYM, the start, the fault and the completion of a copy (R221 to R228). -/

namespace Sys2Proof.Machine

open Sys2Proof.Statements

/-! ## Data read at issue -/

/-- The running slot and the cycle stay. -/
def SameTurn (s t : State) : Prop := t.cur = s.cur ∧ t.cycle = s.cycle

theorem SameTurn.trans {s t u : State} (h : SameTurn s t) (g : SameTurn t u) : SameTurn s u :=
  ⟨g.1.trans h.1, g.2.trans h.2⟩

theorem Translated.sameTurn {s t : State} (h : Translated s t) : SameTurn s t := by
  obtain ⟨u, ⟨_, _, _, rfl⟩, rfl | rfl⟩ := h
  · exact ⟨rfl, rfl⟩
  · exact ⟨rfl, rfl⟩

theorem Performs.sameTurn {k : Nat} {P : Nat → Prop} {s t : State} (h : Performs k P s t) : SameTurn s t := ⟨h.rest.1, h.rest.2.1⟩

theorem lineTargets_sameTurn {addr : Nat} (n : Nat) {s t : State} {ps : List Piece} (h : lineTargets addr n s = .ok (ps, t)) :
    SameTurn s t := by
  induction n generalizing addr s ps with
  | zero =>
    cases h
    exact ⟨rfl, rfl⟩
  | succ n ih =>
    obtain ⟨qs, u, found, h⟩ := Act.bind_ok.1 h
    obtain ⟨rs, v, rest, h⟩ := Act.bind_ok.1 h
    cases h
    exact (globalTarget_ok found).sameTurn.trans (ih rest)

/-- Lines that have arrived are read, and the slot still runs in the same cycle. -/
theorem readAtIssue_sameTurn {s0 s t : State} {code : Code} {addr n : Nat} {r : List Byte × Bool}
    (h : readAtIssue s0 code addr n s = .ok (r, t)) : SameTurn s t := by
  obtain ⟨ps, u, found, h⟩ := Act.bind_ok.1 h
  refine (lineTargets_sameTurn n found).trans ?_
  cases due : s0.me.arrival with
  | none =>
    simp only [due] at h
    obtain ⟨_, _, h1, h2⟩ := Act.bind_ok.1 h
    cases h1
    cases h2
  | some n =>
    simp only [due] at h
    split at h
    · cases h
    · cases h
      exact ((Performs.forceBefore_any (k := u.cur) u _).trans (MemMoves.readPieces _ _ _ _ _).performs).sameTurn

theorem le_foldl_max (ps : List Piece) (f : Piece → Nat) (n : Nat) : n ≤ ps.foldl (fun m p => max m (f p)) n := by
  induction ps generalizing n with
  | nil => exact Nat.le_refl n
  | cons p ps ih => exact (Nat.le_max_left n (f p)).trans (ih _)

/-- A first read leaves the slot waiting for its lines, four cycles at least. -/
theorem readAtIssue_first {s0 s t : State} {code : Code} {addr n : Nat} {ps : List Piece} (h : lineTargets addr n s = .ok (ps, t))
    (first : s0.me.arrival = none) : ∃ due, s0.cycle + 4 ≤ due ∧ readAtIssue s0 code addr n s
      = .error (.wait (waitArrival code) { s0.setMe { s0.me with arrival := some due } with draws := s0.draws + 1 }) := by
  rw [readAtIssue, Act.bind_run h]
  refine ⟨s0.cycle + (t.lag + ps.foldl (fun m p => max m (s0.loadCycles s0.myCore p)) 4) + s0.contentionFor s0.cur none, ?_, ?_⟩
  · have := le_foldl_max ps (s0.loadCycles s0.myCore) 4
    omega
  · simp only [first]
    rfl

/-! ## A copy instruction -/

section
variable {i : Instr} {f : RForm} {handle single : Bool} {s s1 : State} {o : Val} {w : DWord} {len : Option Nat}

/-- The command that a copy instruction queues. -/
def copyCommand (f : RForm) (s : State) (o : Val) (w : DWord) (bs : List Byte) : CopyCmd :=
  { id := s.nextId, slot := s.cur, desc := parseDesc bs, extra := o.w.toNat, tag := f.c.zeroExtend 8, word := w
    seq := (s.core s.myCore).copySeq, lid := s.lidOf s.cur, pasid := (s.launchOn s.myDie).bind Launch.pasid, accepted := s.cycle }

/-- The state with that command last in the queue of its cluster. -/
def queueCopy (s : State) (c : CopyCmd) : State :=
  let u : State := { s with nextId := s.nextId + 1 }
  (u.modCore u.myCore (fun x => { x with copySeq := x.copySeq + 1, copies := x.copies ++ [c.id] })).modCluster
    (clusterOfCore s.myCore) (fun x => { x with copyQueue := x.copyQueue ++ [c] })

/-- CPYH takes no fill of more than one tile. -/
theorem single_tile (fill : FillOf handle single f s1 w len) (one : single = true → handle = true) :
    (single && handleKind w == kindJoint && decide (1 < (if handle && s1.away w then Config.remoteMembers w
      else (if handle && !s1.away w then s1.membersOf (handleEntry w) else []).length))) = false := by
  cases single with
  | false => rfl
  | true =>
    have takes := one rfl
    subst takes
    by_cases joint : handleKind w = kindJoint
    · have few := fill.2.1 rfl joint
      cases away : s1.away w with
      | true => rw [away] at few; simpa [joint] using few
      | false => rw [away] at few; simpa [joint] using few
    · simp [joint]

theorem fill_length (fill : FillOf handle single f s1 w len) :
    (if handle && s1.away w then some (Config.remoteLength w) else if handle then
      some ((if handle && !s1.away w then s1.membersOf (handleEntry w) else []).foldl (fun n e => min n (s1.entry e).len.toNat)
        (s1.entry ((if handle && !s1.away w then s1.membersOf (handleEntry w) else []).headD 0)).len.toNat)
      else none) = len := by
  cases handle with
  | false => exact fill.2.symm
  | true =>
    rw [fill.2.2]
    cases away : s1.away w with
    | true => rfl
    | false => rfl

/-- A copy instruction whose operands pass reads its descriptor; one that is accepted is queued. -/
theorem copyOp_reads (hr : Ready i [f.srcA 2, f.srcB] [] s) (ht : s.take f.b = some (o, s1)) (pb : (s.me.pair f.a.toNat).poison = false)
    (po : o.poison = false) (fill : FillOf handle single f s1 w len) (one : single = true → handle = true)
    (aligned : (s.me.pair f.a.toNat).w.toNat % 64 = 0) :
    ∃ rest, copyOp f handle single s = (readAtIssue s f.a (s.me.pair f.a.toNat).w.toNat 2 >>= rest) s1
      ∧ ∀ bs s2, CopyFits handle len bs o.w.toNat → ((s2.cluster (clusterOfCore s2.myCore)).copyQueue).length < 16 →
        let u := queueCopy s2 (copyCommand f s2 o w bs)
        let v := if handle then withHandle u f.d 0 else u
        rest (bs, false) s2 = .ok ((), ({ v with draws := v.draws + 1 } : State).schedule (s2.cycle + 8 + Config.delay v.draws)
          .copyStart [clusterOfCore s2.myCore, s2.nextId]) := by
  refine ⟨?rest, ?reads, ?queues⟩
  case reads =>
    rw [copyOp, Act.state_bind, Act.bind_check hr, Act.bind_rdp, Act.bind_rd ht]
    refine (Act.bind_trapIf_false pb).trans ((Act.bind_trapIf_false po).trans ?_)
    have word : ∀ k : DWord → Act Unit,
        (if handle = true then (do let w ← hget f.d .fill; k w) else (do let w ← pure 0; k w)) s1 = k w s1 := by
      intro k
      cases handle with
      | true => exact Act.bind_run fill.1
      | false => exact congrArg (fun w => k w s1) fill.1.symm
    refine (word _).trans ?_
    rw [Act.state_bind]
    refine (Act.bind_trapIf_false ?_).trans ((Act.bind_trapIf_false ?_).trans ?_)
    · exact single_tile fill one
    · simp [aligned]
    · rfl
  case queues =>
    intro bs s2 fits room u v
    obtain ⟨formed, al, fp, plain⟩ := fits
    have global : (handle && ((parseDesc bs).dst != 0 || (parseDesc bs).dstSpace != 0)) = false := by
      cases handle with
      | true => simp [plain rfl]
      | false => rfl
    refine (Act.bind_trapIf_false rfl).trans ((Act.bind_trapIf_false (by rw [formed]; rfl)).trans
      ((Act.bind_trapIf_false (by rw [al]; rfl)).trans ((Act.bind_trapIf_false ?_).trans ((Act.bind_trapIf_false global).trans ?_))))
    · rw [fill_length fill, fp]
      rfl
    · rw [Act.state_bind]
      refine (Act.bind_parkIf_false (decide_eq_false (Nat.not_le.2 room))).trans ?_
      cases handle with
      | true => rfl
      | false => rfl

end

end Sys2Proof.Machine

namespace Sys2Proof.Statements

open Sys2Proof.Machine

/-- The copy instructions. -/
theorem exec_copy {i : Instr} {f : RForm} {handle single : Bool} (h : copyOf i = some (f, handle, single)) (s : State) :
    exec i s = issue i (copyOp f handle single) s ∧ (single = true → handle = true) := by
  unfold copyOf at h
  split at h
  · cases h
    exact ⟨rfl, fun h => h⟩
  · cases h
    exact ⟨rfl, fun _ => rfl⟩
  · cases h
    exact ⟨rfl, nofun⟩
  · cases h

theorem queueCopy_cluster (s : State) (c : CopyCmd) :
    ((queueCopy s c).cluster (clusterOfCore s.myCore)).copyQueue = (s.cluster (clusterOfCore s.myCore)).copyQueue ++ [c] := by
  unfold queueCopy
  rw [State.modCluster_eq, State.cluster_setCluster_same]
  rfl

theorem handleAt_withHandle (s : State) (code : Code) (w : DWord) : (withHandle s code w).me.handleAt code = w := by
  rw [withHandle, State.me_setMe]
  exact Assoc.get_set_same _ _ _ _

theorem toNat_append_add {m n : Nat} (x : BitVec m) (y : BitVec n) : (x ++ y).toNat = x.toNat * 2 ^ n + y.toNat := by
  rw [BitVec.toNat_append, ← Nat.shiftLeft_add_eq_or_of_lt y.isLt, Nat.shiftLeft_eq]

/-- The word of a completion message: its sequence number, and above it its failure. -/
theorem completionWord_none {r : CopyRun} (h : r.fault = none) : (completionWord r).toNat = r.cmd.seq.toNat := by
  simp only [completionWord, h, toNat_append_add]
  simp

theorem completionWord_some {r : CopyRun} {c : Cause} {code : Nat} (h : r.fault = some (c, code)) :
    (completionWord r).toNat = (2 ^ 15 + c.code.toNat % 2 ^ 7 * 2 ^ 8 + code % 2 ^ 8) * 2 ^ 16 + r.cmd.seq.toNat := by
  simp only [completionWord, h, toNat_append_add, BitVec.extractLsb'_toNat, BitVec.toNat_ofNat, Nat.shiftRight_zero]
  rw [show (1 : BitVec 1).toNat = 1 from rfl]
  omega

theorem completionWord_seq (r : CopyRun) : (completionWord r).toNat % 2 ^ 16 = r.cmd.seq.toNat := by
  have small := r.cmd.seq.isLt
  cases h : r.fault with
  | none =>
    rw [completionWord_none h]
    omega
  | some x =>
    rw [completionWord_some (c := x.1) (code := x.2) h]
    omega

/-- The oldest command of a cluster starts. -/
def startCopy (s : State) (cl : Nat) (c : CopyCmd) (rest : List CopyCmd) : State :=
  ((s.performAll c.slot true ((s.slot c.slot).accs.filter (fun a => decide (a.id < c.id)))).cleanFor c.slot).modCluster cl (fun y => { y with
    copyQueue := rest
    copyRuns := y.copyRuns ++ [{ cmd := c, remaining := [(0, c.desc.pieceCount)] }] })

theorem startCopy_cluster (s : State) (cl : Nat) (c : CopyCmd) (rest : List CopyCmd) :
    (startCopy s cl c rest).cluster cl = { s.cluster cl with
      copyQueue := rest
      copyRuns := (s.cluster cl).copyRuns ++ [{ cmd := c, remaining := [(0, c.desc.pieceCount)] }] } := by
  have performed : Performs c.slot (fun _ => True) s
      ((s.performAll c.slot true ((s.slot c.slot).accs.filter (fun a => decide (a.id < c.id)))).cleanFor c.slot) :=
    (Performs.performEach _ s).trans (((Performs.sendHome _ _).mono fun _ _ => trivial).trans (MemMoves.cleanFor _ c.slot).performs)
  have clusters : ((s.performAll c.slot true ((s.slot c.slot).accs.filter (fun a => decide (a.id < c.id)))).cleanFor c.slot).cluster cl
      = s.cluster cl := congrArg (fun m => Assoc.get clusterDefault m cl) performed.rest.2.2.2.2.2.1
  rw [startCopy, State.modCluster_eq, State.cluster_setCluster_same, clusters]

/-- A copy that ends without a fill ends in its cluster. -/
theorem endCopy_plain (s : State) (cl : Nat) {r : CopyRun} (publish : Bool) (h : r.cmd.word = 0) :
    s.endCopy cl r publish = ({ s.modRun cl r.cmd.id (fun r => { r with ended := true, dropped := true, remaining := [], pending := [] }) with
      draws := s.draws + 1 } : State).schedule (s.cycle + 4 + (s.modRun cl r.cmd.id (fun r => { r with
        ended := true, dropped := true, remaining := [], pending := [] })).contentionFor r.cmd.slot (some r.cmd.id))
      .copyCompletion [cl, r.cmd.id] := by
  simp only [State.endCopy, h, if_true]
  rfl

theorem mem_modRun {s : State} {cl id : Nat} {f : CopyRun → CopyRun} {x : CopyRun} (h : x ∈ ((s.modRun cl id f).cluster cl).copyRuns) :
    ∃ y ∈ (s.cluster cl).copyRuns, x = if y.cmd.id = id then f y else y := by
  rw [State.modRun, State.modCluster_eq, State.cluster_setCluster_same] at h
  obtain ⟨y, hy, hx⟩ := List.mem_map.1 h
  exact ⟨y, hy, hx.symm⟩

/-- The completion of a copy, where its core takes it. -/
def completeCopy (s : State) (cl : Nat) (r : CopyRun) : State :=
  let m : Msg := { kind := .completion, header := headerOf r.cmd.slot false true r.cmd.tag, words := [{ w := completionWord r }] }
  ((((s.modRun cl r.cmd.id (fun r => { r with dropped := true })).modCore (coreOfSlot r.cmd.slot) (fun c => { c with
    inbox := c.inbox ++ [m], copies := c.copies.drop 1 })).modCluster cl (fun x => { x with
      copyRuns := x.copyRuns.filter (fun y => y.cmd.id != r.cmd.id) })).countSent r.cmd.lid).countReceived r.cmd.lid

theorem exec_copyCompletion {s : State} {cl : Nat} {r : CopyRun} (hs : s.subject = [cl, r.cmd.id])
    (found : (s.cluster cl).copyRuns.find? (fun x => x.cmd.id == r.cmd.id) = some r) (given : r.dropped = true ∨ r.cmd.word = 0)
    (unsaved : (s.launches.find r.cmd.lid).all (fun l => !l.saved) = true)
    (first : (s.core (coreOfSlot r.cmd.slot)).copies.head? = some r.cmd.id) (room : (s.core (coreOfSlot r.cmd.slot)).inbox.length < 64) :
    exec .copyCompletion s = .next (completeCopy s cl r) := by
  have done : (r.dropped || decide (r.cmd.word = 0)) = true := by
    rcases given with h | h
    · simp [h]
    · simp [h]
  have kept : ((s.modRun cl r.cmd.id (fun r => { r with dropped := true })).launches.find r.cmd.lid).all (fun l => !l.saved) = true := unsaved
  have core : (s.modRun cl r.cmd.id (fun r => { r with dropped := true })).inboxCore r.cmd.lid (coreOfSlot r.cmd.slot)
      = s.core (coreOfSlot r.cmd.slot) := inboxCore_unsaved kept _
  simp only [exec, execCopyCompletion, hs, found, done, if_true, core, modInboxCore_unsaved kept]
  rw [if_neg (by rw [first]; simp), if_neg (Nat.not_le.2 room)]
  rfl

/-- What a count of messages leaves of the cores and clusters. -/
theorem counted_rest (s : State) (lid : Nat) : ((s.countSent lid).countReceived lid).cores = s.cores
    ∧ ((s.countSent lid).countReceived lid).clusters = s.clusters := by
  refine ⟨(State.cores_modLaunch _ _ _).trans (State.cores_modLaunch _ _ _), (countReceived_rest _ _).2.trans ?_⟩
  unfold State.countSent State.modLaunch
  split
  · rfl
  · rfl

/-- Settles O42. -/
theorem copies : Obligations.Copies := by
  unfold Obligations.Copies
  refine ⟨⟨?_, ?_⟩, ?_, ?_, ?_⟩
  · intro i f handle single s s1 s2 o w len bs hi hr ht b pb po fill al reads fits room
    obtain ⟨runs, one⟩ := exec_copy hi s
    obtain ⟨rest, front, queues⟩ := copyOp_reads hr ht pb po fill one al
    have cur : s2.cur = s.cur := (readAtIssue_sameTurn reads).1.trans (State.take_cur ht)
    have cycle : s2.cycle = s.cycle := (readAtIssue_sameTurn reads).2.trans (by rcases State.take_cases ht with rfl | ⟨c, rfl⟩ <;> rfl)
    have here : s2.myCore = s.myCore := congrArg coreOfSlot cur
    have queued := queues bs s2 fits (by rw [here]; exact room)
    refine ⟨_, copyCommand f s2 o w bs, runs.trans (issue_ok hr.1 (front.trans ((Act.bind_run reads).trans queued))), ?_, rfl, rfl, rfl,
      cur, rfl, fun takes => ?_, ?_⟩
    · have last := queueCopy_cluster s2 (copyCommand f s2 o w bs)
      rw [here] at last
      cases handle with
      | true => exact last
      | false => exact last
    · subst takes
      exact handleAt_withHandle _ _ _
    · refine ⟨_, agenda_schedule _ _ _ _, rfl, by rw [here]; rfl, ?_⟩
      rw [cycle]
      exact Nat.le_add_right _ _
  · intro i f handle single s s1 s2 o w len ps hi hr ht b pb po fill al found first
    obtain ⟨runs, one⟩ := exec_copy hi s
    obtain ⟨rest, front, -⟩ := copyOp_reads hr ht pb po fill one al
    obtain ⟨due, later, waits⟩ := readAtIssue_first (code := f.a) found first
    refine ⟨_, runs.trans (issue_error hr.1 (front.trans (Act.bind_error waits))), ?_, due, ?_, later⟩
    · exact (congrArg Slot.pc (State.me_setMe s { s.me with arrival := some due })).trans rfl
    · exact congrArg Slot.arrival (State.me_setMe s { s.me with arrival := some due })
  · intro s cl c rest hs hq few free
    refine ⟨startCopy s cl c rest, ?_, by rw [startCopy_cluster], by rw [startCopy_cluster]⟩
    have here : (c :: rest).any (fun y => y.id == c.id) = true := by simp
    have may : (c.id != c.id || decide (4 ≤ (s.cluster cl).copyRuns.length) || (s.cluster cl).copyRuns.any CopyRun.blocked) = false := by
      simp [free, few]
    simp only [exec, execCopyStart, hs, hq, here, may]
    rfl
  · intro s cl id r hs found running plain
    have number : r.cmd.id = id := by simpa using List.find?_some found
    subst number
    refine ⟨s.endCopy cl r false, ?_, ?_⟩
    · simp only [exec, execCopyFault, hs, found, running]
      rfl
    · rw [endCopy_plain s cl false plain]
      refine ⟨fun x hx same => ?_, fun p => by cases p <;> rfl, _, agenda_schedule _ _ _ _, rfl, rfl, Nat.le_add_right _ _⟩
      obtain ⟨y, -, rfl⟩ := mem_modRun hx
      by_cases mine : y.cmd.id = r.cmd.id
      · rw [if_pos mine]
        exact ⟨rfl, rfl⟩
      · rw [if_neg mine] at same
        exact absurd same mine
  · intro s cl id r hs found given unsaved core first room
    have number : r.cmd.id = id := by simpa using List.find?_some found
    subst number
    obtain ⟨cores, clusters⟩ := counted_rest (((s.modRun cl r.cmd.id (fun r => { r with dropped := true })).modCore
      (coreOfSlot r.cmd.slot) (fun c => { c with
        inbox := c.inbox ++ [{ kind := .completion, header := headerOf r.cmd.slot false true r.cmd.tag, words := [{ w := completionWord r }] }]
        copies := c.copies.drop 1 })).modCluster cl (fun x => { x with
      copyRuns := x.copyRuns.filter (fun y => y.cmd.id != r.cmd.id) })) r.cmd.lid
    have taken : (completeCopy s cl r).core core = { s.core core with
        inbox := (s.core core).inbox ++ [{ kind := .completion, header := headerOf r.cmd.slot false true r.cmd.tag, words := [{ w := completionWord r }] }]
        copies := (s.core core).copies.drop 1 } :=
      (congrArg (fun m => Assoc.get coreDefault m core) cores).trans (State.core_setCore_same _ _ _)
    refine ⟨completeCopy s cl r, _, completionWord r, exec_copyCompletion hs found given unsaved first room, by rw [taken], rfl, rfl,
      completionWord_seq r, fun h => ?_, fun c code h => ?_, by rw [taken], fun x hx => ?_⟩
    · have small := r.cmd.seq.isLt
      rw [completionWord_none h]
      omega
    · have small := r.cmd.seq.isLt
      rw [completionWord_some h]
      omega
    · have runs : ((completeCopy s cl r).cluster cl).copyRuns
          = ((s.modRun cl r.cmd.id (fun r => { r with dropped := true })).cluster cl).copyRuns.filter (fun y => y.cmd.id != r.cmd.id) :=
        (congrArg (fun m => (Assoc.get clusterDefault m cl).copyRuns) clusters).trans
          (congrArg Cluster.copyRuns (State.cluster_setCluster_same _ _ _))
      rw [runs] at hx
      simpa using (List.mem_filter.1 hx).2

end Sys2Proof.Statements
end

section
/-! SUPPORT. Errors of the hardware: poison that is kept, errors that are not contained, and refusals of die ports (R359, R360,
R363, R365, R366, R368). -/

namespace Sys2Proof.Machine

/-! ## Poisoned sectors -/

theorem Mem.poisonAt_poisonSectors (m : Mem) (a n x : Nat) : (m.poisonSectors a n).poisonAt x = true
    ↔ (sectorBase a ≤ x ∧ x < sectorBase a + sectorSpan a n) ∨ m.poisonAt x = true := by
  rw [Mem.poisonSectors, Mem.poisonAt_setPoison]
  by_cases h : sectorBase a ≤ x ∧ x < sectorBase a + sectorSpan a n
  · simp [h]
  · rw [if_neg h]
    exact (or_iff_right h).symm

/-- The sector of one address, and the four of a line. -/
theorem sector_one (a x : Nat) : (sectorBase a ≤ x ∧ x < sectorBase a + sectorSpan a 1) ↔ x / 64 = a / 64 := by
  unfold sectorSpan sectorBase
  omega

theorem sector_line {a : Nat} (h : a % 256 = 0) (x : Nat) :
    (sectorBase a ≤ x ∧ x < sectorBase a + sectorSpan a 256) ↔ x / 256 = a / 256 := by
  unfold sectorSpan sectorBase
  omega

theorem Mem.poisonSectors_one (m : Mem) (a x : Nat) :
    (m.poisonSectors a 1).poisonAt x = true ↔ x / 64 = a / 64 ∨ m.poisonAt x = true := by
  rw [Mem.poisonAt_poisonSectors, sector_one]

theorem Mem.poisonSectors_line (m : Mem) {a : Nat} (h : a % 256 = 0) (x : Nat) :
    (m.poisonSectors a 256).poisonAt x = true ↔ x / 256 = a / 256 ∨ m.poisonAt x = true := by
  rw [Mem.poisonAt_poisonSectors, sector_line h]

theorem Mem.byte_poisonSectors (m : Mem) (a n x : Nat) : (m.poisonSectors a n).byte x = m.byte x := Mem.byte_setPoison _ _ _ _ _

theorem windowAt_line {s : State} {pa k o : Nat} (h : s.windowAt (pa / 256 * 256) = some (k, o)) : o % 256 = 0 := by
  unfold State.windowAt at h
  simp only at h
  split at h
  · obtain ⟨e, -, he⟩ := Option.map_eq_some_iff.1 h
    cases he
    omega
  · cases h

/-! ## Counting -/

/-- Events are counted in the health record and at the launch: nothing else changes. -/
def OnlyCounts (s t : State) : Prop := ∃ health launches, t = { s with health := health, launches := launches }

theorem OnlyCounts.trans {s t u : State} (h : OnlyCounts s t) (g : OnlyCounts t u) : OnlyCounts s u := by
  obtain ⟨_, _, rfl⟩ := h
  obtain ⟨_, _, rfl⟩ := g
  exact ⟨_, _, rfl⟩

theorem OnlyCounts.countPoison (s : State) (die : Nat) : OnlyCounts s (s.countPoison die) := by
  unfold State.countPoison
  split
  · unfold State.modLaunch
    split
    · exact ⟨_, _, rfl⟩
    · exact ⟨_, _, rfl⟩
  · exact ⟨_, _, rfl⟩

theorem OnlyCounts.countEvent (s : State) (core : Nat) : OnlyCounts s (s.countEvent core) := ⟨_, _, rfl⟩

theorem OnlyCounts.both (s : State) (core die : Nat) : OnlyCounts s ((s.countEvent core).countPoison die) :=
  (OnlyCounts.countEvent s core).trans (.countPoison _ die)

theorem OnlyCounts.slots {s t : State} (h : OnlyCounts s t) : t.slots = s.slots := by
  obtain ⟨_, _, rfl⟩ := h
  rfl

theorem OnlyCounts.cores {s t : State} (h : OnlyCounts s t) : t.cores = s.cores := by
  obtain ⟨_, _, rfl⟩ := h
  rfl

theorem OnlyCounts.memAt {s t : State} (h : OnlyCounts s t) (p : Place) : t.memAt p = s.memAt p := by
  obtain ⟨_, _, rfl⟩ := h
  cases p <;> rfl

theorem State.countPoison_launch {s : State} {die : Nat} {l : Launch} (on : s.launchOn die = some l)
    (found : s.launches.find l.lid = some l) :
    (s.countPoison die).launches.find l.lid = some { l with npoison := l.npoison + 1 } := by
  simp only [State.countPoison, on, State.modLaunch, found]
  exact Assoc.find_put_same _ _ _

/-! ## Poison of device memory -/

theorem poisonDram_none {s : State} {pa : Nat} (n : Nat) (h : s.windowAt pa = none) :
    s.poisonDram pa n = { s with dram := s.dram.poisonSectors pa n } := by
  simp only [State.poisonDram, h]

theorem poisonDram_window {s : State} {pa k o : Nat} (n : Nat) (h : s.windowAt pa = some (k, o)) :
    s.poisonDram pa n = s.setMemAt (.window k) ((s.memAt (.window k)).poisonSectors o n) := by
  simp only [State.poisonDram, h]

theorem countPoison_dram {s : State} {pa : Nat} (n die : Nat) (h : s.windowAt pa = none) : ∃ health launches,
    (s.poisonDram pa n).countPoison die = { s with dram := s.dram.poisonSectors pa n, health := health, launches := launches } := by
  rw [poisonDram_none n h]
  exact OnlyCounts.countPoison _ die

/-- The window of a translator's run takes the poison, and device memory stays. -/
theorem countPoison_window {s : State} {pa k o : Nat} (n die : Nat) (h : s.windowAt pa = some (k, o)) :
    ((s.poisonDram pa n).countPoison die).memAt (.window k) = (s.memAt (.window k)).poisonSectors o n
      ∧ ((s.poisonDram pa n).countPoison die).dram = s.dram ∧ ((s.poisonDram pa n).countPoison die).slots = s.slots := by
  have counts := OnlyCounts.countPoison (s.setMemAt (.window k) ((s.memAt (.window k)).poisonSectors o n)) die
  rw [poisonDram_window n h]
  exact ⟨(counts.memAt _).trans (State.memAt_setMemAt_same _ _ _), counts.memAt .dram, counts.slots⟩

/-- A memory whose poison only has changed. -/
theorem countBoth_memory (s : State) (p : Place) (o core die : Nat) (a : Nat) :
    let t := ((s.setMemAt p ((s.memAt p).poisonSectors o 1)).countEvent core).countPoison die
    (t.memAt p).poisonAt a = true ↔ a / 64 = o / 64 ∨ (s.memAt p).poisonAt a = true := by
  intro t
  rw [(OnlyCounts.both _ _ _).memAt, State.memAt_setMemAt_same]
  exact Mem.poisonSectors_one _ _ _

theorem countBoth_bytes (s : State) (p : Place) (o core die : Nat) (q : Place) (a : Nat) :
    ((((s.setMemAt p ((s.memAt p).poisonSectors o 1)).countEvent core).countPoison die).memAt q).byte a = (s.memAt q).byte a := by
  rw [(OnlyCounts.both _ _ _).memAt]
  by_cases h : q = p
  · subst h
    rw [State.memAt_setMemAt_same]
    exact Mem.byte_poisonSectors _ _ _ _
  · rw [State.memAt_setMemAt_ne _ _ h]

/-- A line of a sealed die is poisoned whole; a die of world 0 has no sealed line. -/
theorem exec_macError (s : State) (pa : Nat) : exec (.poisonError (.mac pa)) s = .next (if (s.die (dieOfAddress pa)).wid = 0 then s
    else (s.poisonDram (pa / 256 * 256) 256).countPoison (dieOfAddress pa)) := rfl

/-- A line that the L1 holds is marked in one of its sectors. -/
theorem poisonLine_some {s : State} {core sector : Nat} {host : Bool} {x : Line}
    (h : s.line core (sector / 4 * 2 + if host then 1 else 0) = some x) : s.poisonLine core host sector
      = s.setLine core (sector / 4 * 2 + if host then 1 else 0) { x with bytes := x.bytes.map (fun e =>
        (e.1, if e.1 / 64 = sector % 4 then { e.2 with poison := true } else e.2)) } := by
  simp only [State.poisonLine, h]

theorem poisonLine_none {s : State} {core sector : Nat} {host : Bool}
    (h : s.line core (sector / 4 * 2 + if host then 1 else 0) = none) : s.poisonLine core host sector = s := by
  simp only [State.poisonLine, h]

/-! ## What an error strikes -/

/-- An error at one of the sites is counted, and strikes the launches of its die. -/
theorem exec_uncontainedError (s : State) {site : Nat} (at_ : Nat) (low : 1 ≤ site) (high : site ≤ 8) : ∃ health,
    exec (.uncontainedError site at_) s = .next (({ s with health := health } : State).strike
      ((s.launches.map Prod.snd).filter (fun l => l.dies.contains (errorDie site at_))) site) := by
  have known : ¬ (site = 0 ∨ 8 < site) := by omega
  simp only [exec, execUncontainedError, Bool.or_eq_true, decide_eq_true_eq]
  rw [if_neg known]
  exact ⟨_, rfl⟩

section
variable {s : State} {lid : Nat} {l : Launch} (one : s.launches = [(lid, l)]) (runs : l.ending = none)
include one runs

/-- The only launch of the package is aborted. -/
theorem abort_only (v : EndValues) : ∃ l', (s.abortLaunch lid v).launches.find lid = some l' ∧ l'.ending = some v := by
  have found : s.launches.find lid = some l := by
    rw [one]
    simp [Assoc.find]
  simp only [State.abortLaunch, found, runs, State.modLaunch]
  exact ⟨{ l with ending := some v }, Assoc.find_put_same _ _ _, rfl⟩

/-- An error that touches it ends it, or takes its world back. -/
theorem strike_only (number : l.lid = lid) (site : Nat) :
    (s.intervalWorlds.contains l.world = false → ∃ l', (s.strike [l] site).launches.find lid = some l'
        ∧ l'.ending = some { status := Cause.abort.code.toNat, xval2 := BitVec.ofNat 64 (0x200 + site) })
      ∧ (s.intervalWorlds.contains l.world = true → (s.strike [l] site).launches = s.launches
        ∧ { at_ := s.cycle, step := .rollback, subject := [l.world, site] } ∈ (s.strike [l] site).agenda) := by
  refine ⟨fun plain => ?_, fun interval => ?_⟩
  · have struck : s.strike [l] site
        = s.abortLaunch l.lid { status := Cause.abort.code.toNat, xval2 := BitVec.ofNat 64 (0x200 + site) } := by
      simp only [State.strike, List.map_cons, List.map_nil, List.filter_cons, plain]
      rfl
    rw [struck, number]
    exact abort_only one runs _
  · have struck : s.strike [l] site = s.schedule s.cycle .rollback [l.world, site] := by
      simp only [State.strike, List.map_cons, List.map_nil, List.filter_cons, interval]
      simp [List.eraseDups, List.eraseDupsBy, List.eraseDupsBy.loop]
    rw [struck]
    exact ⟨rfl, agenda_schedule _ _ _ _⟩

end

end Sys2Proof.Machine

namespace Sys2Proof.Statements

open Sys2Proof.Machine

/-- Settles O50. -/
theorem hardwareErrors : Obligations.HardwareErrors := by
  unfold Obligations.HardwareErrors
  refine ⟨?_, ?_, ?_, ?_, ?_, ?_, ?_, ?_, ?_, ?_, fun _ _ => rfl⟩
  · intro s pa h
    obtain ⟨health, launches, counted⟩ := countPoison_dram 1 (dieOfAddress pa) h
    refine ⟨(s.poisonDram pa 1).countPoison (dieOfAddress pa), rfl, ?_⟩
    rw [counted]
    exact ⟨Mem.poisonSectors_one _ _, Mem.byte_poisonSectors _ _ _, rfl⟩
  · intro s pa k o h
    obtain ⟨window, dram, slots⟩ := countPoison_window 1 (dieOfAddress pa) h
    refine ⟨(s.poisonDram pa 1).countPoison (dieOfAddress pa), rfl, ?_, ?_, dram, slots⟩
    · rw [window]
      exact Mem.poisonSectors_one _ _
    · rw [window]
      exact Mem.byte_poisonSectors _ _ _
  · intro s pa
    have start : pa / 256 * 256 % 256 = 0 := Nat.mul_mod_left _ _
    refine ⟨fun sealed h => ?_, fun k o sealed h => ?_, fun plain => by rw [exec_macError, if_pos plain]⟩
    · obtain ⟨health, launches, counted⟩ := countPoison_dram 256 (dieOfAddress pa) h
      refine ⟨(s.poisonDram (pa / 256 * 256) 256).countPoison (dieOfAddress pa), by rw [exec_macError, if_neg sealed], ?_, ?_, ?_,
        fun l on found => ?_⟩
      · rw [counted]
        intro a
        exact (Mem.poisonSectors_line _ start a).trans (by rw [Nat.mul_div_cancel _ (by decide)])
      · rw [counted]
        exact Mem.byte_poisonSectors _ _ _
      · rw [counted]
      · rw [poisonDram_none 256 h]
        exact State.countPoison_launch on found
    · obtain ⟨window, dram, slots⟩ := countPoison_window 256 (dieOfAddress pa) h
      refine ⟨(s.poisonDram (pa / 256 * 256) 256).countPoison (dieOfAddress pa), by rw [exec_macError, if_neg sealed], ?_, ?_, dram, slots⟩
      · rw [window]
        exact Mem.poisonSectors_line _ (windowAt_line h)
      · rw [window]
        exact Mem.byte_poisonSectors _ _ _
  · intro s core sector host key
    have counts := OnlyCounts.both (s.poisonLine core host sector) core (dieOfCore core)
    refine ⟨fun x hx => ⟨_, rfl, ?_, counts.slots.trans ?_, fun p => (counts.memAt p).trans ?_⟩,
      fun none => ⟨_, rfl, counts.cores.trans ?_, counts.slots.trans ?_, fun p => (counts.memAt p).trans ?_⟩⟩
    · refine (congrArg (fun m => (Assoc.get coreDefault m core).lines.find key) counts.cores).trans ?_
      rw [poisonLine_some hx]
      exact (congrArg (fun c : Core => c.lines.find key) (State.core_setCore_same _ _ _)).trans (Assoc.find_put_same _ _ _)
    · rw [poisonLine_some hx]
      rfl
    · rw [poisonLine_some hx]
      cases p <;> rfl
    · rw [poisonLine_none none]
    · rw [poisonLine_none none]
    · rw [poisonLine_none none]
  · intro s core off
    exact ⟨⟨_, rfl, countBoth_memory s (.scratchpad core) off core (dieOfCore core), countBoth_bytes s (.scratchpad core) off core (dieOfCore core)⟩,
      ⟨_, rfl, countBoth_memory s (.arena core) off core (dieOfCore core), countBoth_bytes s (.arena core) off core (dieOfCore core)⟩⟩
  · intro s k code hc
    have slots := (OnlyCounts.both (s.modSlot k (fun sl => sl.setRegAt code { sl.regAt code with poison := true })) (coreOfSlot k)
      (dieOfCore (coreOfSlot k))).slots
    have slot : ∀ j, _ = (s.modSlot k (fun sl => sl.setRegAt code { sl.regAt code with poison := true })).slot j :=
      fun j => congrArg (fun m => Assoc.get slotDefault m j) slots
    refine ⟨_, rfl, ?_, fun j hj => (slot j).trans (State.slot_setSlot_ne _ _ hj)⟩
    refine (congrArg (fun sl : Slot => sl.regAt code) ((slot k).trans (State.slot_setSlot_same _ _ _))).trans ?_
    simp only [Slot.setRegAt, Slot.regAt, if_neg hc]
    exact Assoc.get_set_same _ _ _ _
  · intro s lid site at_ l one number runs low high on
    have struck : (s.launches.map Prod.snd).filter (fun l => l.dies.contains (errorDie site at_)) = [l] := by
      rw [one, List.map_cons, List.map_nil, List.filter_cons, on]
      rfl
    obtain ⟨health, runs_⟩ := exec_uncontainedError s at_ low high
    obtain ⟨aborted, back⟩ := strike_only (s := { s with health := health }) one runs number site
    exact ⟨_, runs_, by rw [struck]; exact aborted, by rw [struck]; exact back⟩
  · intro s lid wid die l one number runs world refused plain
    have struck : (s.launches.map Prod.snd).filter (fun l => l.world == wid) = [l] := by simp [one, world]
    obtain ⟨l', found, ending⟩ := (strike_only one runs number 9).1 (by rw [world]; exact plain)
    refine ⟨s.strike [l] 9, l', ?_, found, ending⟩
    simp only [exec, execDiePortRefusal, refused, struck]
    rfl
  · intro s wid die h
    simp only [exec, execDiePortRefusal, h, if_true]
  · intro s core
    refine ⟨s.countEvent core, rfl, ?_, rfl, rfl, fun p => by cases p <;> rfl⟩
    exact Assoc.get_set_same queueDefault s.health.contained core (s.now :: s.health.contained.get queueDefault core)

end Sys2Proof.Statements
end

section
/-! SUPPORT. The mailbox (R391): what an answer leaves at its record. -/

namespace Sys2Proof.Machine

open Sys2Proof.Statements

/-! ## Blocks written over others -/

theorem Assoc.get_unlisted {α : Type} (d : Nat → α) {m : Assoc α} {k : Nat} (h : ∀ e ∈ m, e.1 ≠ k) : m.get d k = d k := by
  induction m with
  | nil => rfl
  | cons e m ih =>
    rw [Assoc.get_cons, if_neg (h e List.mem_cons_self)]
    exact ih fun x hx => h x (List.mem_cons_of_mem _ hx)

theorem Assoc.get_append_right {α : Type} (d : Nat → α) {m n : Assoc α} {k : Nat} (h : ∀ e ∈ m, e.1 ≠ k) :
    Assoc.get d (m ++ n) k = n.get d k := by
  induction m with
  | nil => rfl
  | cons e m ih =>
    rw [List.cons_append, Assoc.get_cons, if_neg (h e List.mem_cons_self)]
    exact ih fun x hx => h x (List.mem_cons_of_mem _ hx)

theorem Assoc.get_append_left {α : Type} (d : Nat → α) {m n : Assoc α} {k : Nat} (h : ∀ e ∈ n, e.1 ≠ k) :
    Assoc.get d (m ++ n) k = m.get d k := by
  induction m with
  | nil => exact Assoc.get_unlisted d h
  | cons e m ih => rw [List.cons_append, Assoc.get_cons, Assoc.get_cons, ih]

theorem Assoc.get_filter {α : Type} (d : Nat → α) {p : Nat × α → Bool} {k : Nat} (h : ∀ v, p (k, v) = true) (m : Assoc α) :
    Assoc.get d (m.filter p) k = m.get d k := by
  induction m with
  | nil => rfl
  | cons e m ih =>
    obtain ⟨j, v⟩ := e
    rw [List.filter_cons, Assoc.get_cons]
    split
    · rw [Assoc.get_cons, ih]
    · rename_i hp
      rw [if_neg (by rintro rfl; exact hp (h v)), ih]

theorem Assoc.get_moved {α : Type} (v : α) (m : Assoc α) (a j : Nat) :
    Assoc.get (fun _ => v) (m.map fun e => (e.1 - 0 + a, e.2)) (a + j) = m.get (fun _ => v) j := by
  induction m with
  | nil => rfl
  | cons e m ih =>
    rw [List.map_cons, Assoc.get_cons, Assoc.get_cons, ih]
    exact if_congr (by simp only; omega) rfl rfl

theorem get_listed (b j : Nat) (bs : List Byte) : (listed b bs).get byteDefault (b + j) = bs.getD j 0 := by
  induction bs generalizing b j with
  | nil => rfl
  | cons x bs ih =>
    have low : ∀ c : Nat, b < c → ∀ e ∈ listed c bs, e.1 ≠ b := fun c hc e he h => by
      have := listed_ge c bs e he
      omega
    unfold listed
    cases j with
    | zero =>
      split
      · rename_i hx
        exact (Assoc.get_unlisted _ (low _ (Nat.lt_succ_self b))).trans hx.symm
      · exact if_pos rfl
    | succ j =>
      have later : (listed (b + 1) bs).get byteDefault (b + (j + 1)) = bs.getD j 0 := by
        rw [← ih (b + 1) j]
        congr 1
        omega
      rw [List.getD_cons_succ]
      split
      · exact later
      · rw [Assoc.get_cons, if_neg (by simp only; omega), later]

theorem Mem.byte_overwrite (m : Mem) (a : Nat) (bs : List Byte) (x : Nat) :
    (m.overwrite a bs).byte x = if a ≤ x ∧ x < a + bs.length then bs.getD (x - a) 0 else m.byte x := by
  have inside : ∀ e ∈ Assoc.shifted (listed 0 bs) 0 bs.length a, a ≤ e.1 ∧ e.1 < a + bs.length := by
    intro e he
    obtain ⟨y, hy, rfl⟩ := List.mem_map.1 he
    have := (List.mem_filter.1 hy).2
    simp only [Bool.and_eq_true, decide_eq_true_eq] at this
    exact ⟨by simp only; omega, by simp only; omega⟩
  have outside : ∀ (p : Nat → Bool), p x = false → ∀ e ∈ m.cells.filter (fun e => p e.1), e.1 ≠ x := by
    rintro p hp e he rfl
    simp [hp] at he
  change Assoc.get byteDefault (Assoc.splice m.cells a bs.length (listed 0 bs) 0) x = _
  unfold Assoc.splice
  split
  · rename_i hx
    obtain ⟨j, rfl⟩ := Nat.exists_eq_add_of_le hx.1
    rw [Assoc.get_append_left _ (outside (fun k => decide (a + bs.length ≤ k)) (by simp; omega)),
      Assoc.get_append_right _ (outside (fun k => decide (k < a)) (by simp))]
    refine (Assoc.get_moved 0 _ a j).trans ?_
    rw [Assoc.get_filter _ (by intro v; simp; omega), Nat.add_sub_cancel_left, ← get_listed 0 j bs, Nat.zero_add]
    rfl
  · rename_i hx
    rcases Nat.lt_or_ge x a with low | high
    · rw [Assoc.get_append_left _ (outside (fun k => decide (a + bs.length ≤ k)) (by simp; omega)),
        Assoc.get_append_left _ (fun e he => by have := inside e he; omega)]
      exact Assoc.get_filter _ (fun v => by simpa using low) _
    · rw [Assoc.get_append_right _ fun e he => ?_]
      · exact Assoc.get_filter _ (fun v => by simp; omega) _
      · rcases List.mem_append.1 he with he | he
        · exact outside (fun k => decide (k < a)) (by simp; omega) e he
        · have := inside e he
          omega

theorem Mem.bytes_overwrite (m : Mem) (a : Nat) (bs : List Byte) : (m.overwrite a bs).bytes a bs.length = bs := by
  induction bs generalizing m a with
  | nil => rfl
  | cons b bs ih =>
    rw [List.length_cons, Mem.bytes, Mem.byte_overwrite, if_pos (by simp), Nat.sub_self, List.getD_cons_zero]
    refine congrArg (b :: ·) ((Mem.bytes_congr (m' := m.overwrite (a + 1) bs) fun x hx hb => ?_).trans (ih m (a + 1)))
    rw [Mem.byte_overwrite, Mem.byte_overwrite, if_pos (by simp; omega), if_pos (by omega)]
    obtain ⟨k, rfl⟩ := Nat.exists_eq_add_of_le hx
    rw [show a + 1 + k - a = k + 1 by omega, show a + 1 + k - (a + 1) = k by omega, List.getD_cons_succ]

/-! ## Answers -/

theorem MemMoves.hostStore (s : State) (a : Nat) (bs : List Byte) : MemMoves s (s.hostStore a bs) := by
  unfold State.hostStore
  split
  · exact .refl s
  · simp only
    have given := MemMoves.foldl (fun u (r : Nat × Nat) => MemMoves.invalidateOthers u [] (lineKey .host r.1))
      (cutRange 256 a bs.length) s
    revert given
    generalize List.foldl _ s _ = u
    intro given
    exact given.trans <| (MemMoves.of_fields (t := { u with hostMem := u.hostMem.overwrite a bs }) ⟨_, _, _, _, _, _, _, _, _, rfl⟩).trans
      (.wakeWords _ _)

theorem State.hostStore_bytes {s : State} (up : s.hostDown = false) (a : Nat) (bs : List Byte) :
    (s.hostStore a bs).hostBytes a bs.length = bs := by
  unfold State.hostStore
  rw [if_neg (by simp [up])]
  simp only
  generalize List.foldl _ s _ = u
  refine (congrArg (fun m : Mem => m.bytes a bs.length) (State.wakeWords_memAt _ _ .host)).trans ?_
  exact Mem.bytes_overwrite _ _ _

theorem MemMoves.mailbox {s t : State} (h : MemMoves s t) : t.mailbox = s.mailbox := by
  obtain ⟨_, _, _, _, _, _, _, _, _, _, _, _, rfl⟩ := h.fields
  rfl

theorem MemMoves.hostDown {s t : State} (h : MemMoves s t) : t.hostDown = s.hostDown := by
  obtain ⟨_, _, _, _, _, _, _, _, _, _, _, _, rfl⟩ := h.fields
  rfl

theorem MemMoves.worlds {s t : State} (h : MemMoves s t) : t.worlds = s.worlds := by
  obtain ⟨_, _, _, _, _, _, _, _, _, _, _, _, rfl⟩ := h.fields
  rfl

/-- An answer writes its code to the record and frees the mailbox; but for memory, nothing else changes. -/
theorem State.answer_busy {s : State} {a : Nat} (busy : s.mailbox.busy = some a) (code : Nat) : ∃ u, MemMoves s u
    ∧ s.answer code = { u with mailbox := { s.mailbox with busy := none, done := true } } ∧ Answered (s.answer code) a code := by
  have eq : s.answer code = { s.hostStore (a + 32) (le32 code) with mailbox := { s.mailbox with busy := none, done := true } } := by
    unfold State.answer
    rw [busy]
  have moves := MemMoves.hostStore s (a + 32) (le32 code)
  refine ⟨_, moves, eq, ?_⟩
  rw [eq]
  refine ⟨rfl, rfl, fun up => ?_⟩
  have length : (le32 code).length = 4 := Tests.bytesOfWord_length 4 code
  exact (congrArg _ length.symm).trans (State.hostStore_bytes (moves.hostDown.symm.trans up) _ _)

theorem State.answer_answered {s : State} {a : Nat} (busy : s.mailbox.busy = some a) (code : Nat) : Answered (s.answer code) a code :=
  let ⟨_, _, _, h⟩ := State.answer_busy busy code
  h

theorem State.answer_worlds (s : State) (code : Nat) : (s.answer code).worlds = s.worlds := by
  unfold State.answer
  split
  · rfl
  · exact (MemMoves.hostStore _ _ _).worlds

theorem State.serving_requested {s : State} {op a : Nat} (h : Requested s op a) (f : State → State) : s.serving op f = f s := by
  unfold State.serving
  simp [h.1, h.2]

end Sys2Proof.Machine
end

section
/-! SUPPORT. What giving up handles changes of the state (R131): slots, tiles, launches and what memory does. -/

namespace Sys2Proof.Machine

open Sys2Proof.Statements

/-- Nothing changes but what a handle that is given up may change. -/
def OnlyHandles (s t : State) : Prop :=
  ∃ slots dies launches poisonings nextId cores dram hostMem scratch arena windows versions undo commit agenda draws packets,
    t = { s with
      slots := slots, dies := dies, launches := launches, poisonings := poisonings, nextId := nextId
      cores := cores, dram := dram, hostMem := hostMem, scratch := scratch, arena := arena, windows := windows
      versions := versions, undo := undo, commit := commit, agenda := agenda, draws := draws, packets := packets }

theorem OnlyHandles.trans {s t u : State} (h : OnlyHandles s t) (g : OnlyHandles t u) : OnlyHandles s u := by
  obtain ⟨_, _, _, _, _, _, _, _, _, _, _, _, _, _, _, _, _, rfl⟩ := h
  obtain ⟨_, _, _, _, _, _, _, _, _, _, _, _, _, _, _, _, _, rfl⟩ := g
  exact ⟨_, _, _, _, _, _, _, _, _, _, _, _, _, _, _, _, _, rfl⟩

theorem OnlyHandles.refl (s : State) : OnlyHandles s s := ⟨_, _, _, _, _, _, _, _, _, _, _, _, _, _, _, _, _, rfl⟩

theorem OnlyHandles.foldl {α : Type} {f : State → α → State} (hf : ∀ s a, OnlyHandles s (f s a)) (l : List α) (s : State) :
    OnlyHandles s (l.foldl f s) := by
  induction l generalizing s with
  | nil => exact .refl s
  | cons a l ih => exact (hf s a).trans (ih _)

theorem MemMoves.onlyHandles {s t : State} (h : MemMoves s t) : OnlyHandles s t := by
  obtain ⟨_, _, _, _, _, _, _, _, _, _, _, _, rfl⟩ := h.fields
  exact ⟨_, _, _, _, _, _, _, _, _, _, _, _, _, _, _, _, _, rfl⟩

theorem OnlyHandles.modSlot (s : State) (k : Nat) (f : Slot → Slot) : OnlyHandles s (s.modSlot k f) :=
  ⟨_, _, _, _, _, _, _, _, _, _, _, _, _, _, _, _, _, rfl⟩

theorem OnlyHandles.settleRingSlot (s : State) (k q i : Nat) : OnlyHandles s (s.settleRingSlot k q i) :=
  ⟨_, _, _, _, _, _, _, _, _, _, _, _, _, _, _, _, _, rfl⟩

theorem OnlyHandles.setEntry (s : State) (e : Nat) (x : Entry) : OnlyHandles s (s.setEntry e x) :=
  ⟨_, _, _, _, _, _, _, _, _, _, _, _, _, _, _, _, _, rfl⟩

theorem OnlyHandles.modLaunch (s : State) (lid : Nat) (f : Launch → Launch) : OnlyHandles s (s.modLaunch lid f) := by
  unfold State.modLaunch
  split
  · exact .refl s
  · exact ⟨_, _, _, _, _, _, _, _, _, _, _, _, _, _, _, _, _, rfl⟩

theorem OnlyHandles.retireEntry (s : State) (e : Nat) : OnlyHandles s (s.retireEntry e) := by
  unfold State.retireEntry
  simp only
  split
  · split
    · exact .setEntry _ _ _
    · split
      · exact (OnlyHandles.setEntry _ _ _).trans (.modLaunch _ _ _)
      · split
        · exact (OnlyHandles.setEntry _ _ _).trans (.settleRingSlot _ _ _ _)
        · exact .setEntry _ _ _
  · exact .refl s

theorem OnlyHandles.dropSee (s : State) (e : Nat) : OnlyHandles s (s.dropSee e) :=
  (OnlyHandles.setEntry s e _).trans (.retireEntry _ e)

theorem OnlyHandles.settleFill (s : State) (e : Nat) (st : TileState) : OnlyHandles s (s.settleFill e st) := by
  have settle : ∀ (u : State) (m : Nat), OnlyHandles u ((u.modEntry m (fun y =>
      { y with state := st, fill := false, settled := some u.cycle })).retireEntry m) :=
    fun u m => (OnlyHandles.setEntry u m _).trans (.retireEntry _ m)
  unfold State.settleFill
  simp only
  split
  · exact .refl s
  · split
    · exact .foldl settle _ s
    · exact (OnlyHandles.foldl settle _ s).trans ((OnlyHandles.setEntry _ e _).trans (.retireEntry _ e))

theorem MemMoves.poisonHome (s : State) (w : Nat) (p : Place) (a n : Nat) : MemMoves s (s.poisonHome w p a n) := by
  have given : ∀ keys : List Nat, MemMoves s ((keys.foldl (fun s key => s.invalidateOthers [] key) s).logRange w p (sectorBase a)
      (sectorSpan a n)) := fun keys => (MemMoves.foldl (fun s _ => .invalidateOthers s _ _) keys s).trans (.logRange _ _ _ _ _)
  exact (given _).trans ((MemMoves.setMemAt _ _ _).trans (.wakeWords _ _))

theorem OnlyHandles.poisonTile (s : State) (e : Nat) : OnlyHandles s (s.poisonTile e) := by
  unfold State.poisonTile
  simp only
  generalize (if (s.entry e).scratch = true then s.savedScratch (s.entry e).lid (s.entry e).core (s.entry e).base.toNat else none) = saved
  split
  · exact (MemMoves.poisonHome _ _ _ _ _).onlyHandles
  · exact ⟨_, _, _, _, _, _, _, _, _, _, _, _, _, _, _, _, _, rfl⟩

theorem OnlyHandles.dropWord (s : State) (w : DWord) (publish : Bool) : OnlyHandles s (s.dropWord w publish) := by
  unfold State.dropWord
  split
  · exact .refl s
  · split
    · exact .dropSee _ _
    · split
      · exact .settleFill _ _ _
      · exact (OnlyHandles.foldl OnlyHandles.poisonTile _ s).trans (.settleFill _ _ _)

theorem OnlyHandles.deconfigure (s : State) (k q : Nat) : OnlyHandles s (s.deconfigure k q) := by
  refine (OnlyHandles.modSlot s k _).trans (OnlyHandles.foldl (fun u e => ?_) _ _)
  simp only
  have unring := OnlyHandles.setEntry u e.2.entry { u.entry e.2.entry with ring := none }
  refine unring.trans ?_
  change OnlyHandles (u.modEntry e.2.entry (fun y => { y with ring := none })) _
  generalize u.modEntry e.2.entry (fun y => { y with ring := none }) = v
  split
  · exact .dropSee _ _
  · split
    · exact .setEntry _ _ _
    · exact .refl v

theorem OnlyHandles.dropHandles (s : State) (k : Nat) (publish : Bool) : OnlyHandles s (s.dropHandles k publish) := by
  unfold State.dropHandles
  simp only
  refine ((OnlyHandles.foldl (fun u e => ?_) _ s).trans (.modSlot _ _ _)).trans (.foldl (fun u q => .deconfigure u k q) _ _)
  split
  · exact .refl u
  · exact .dropWord _ _ _

end Sys2Proof.Machine
end

section
/-! SUPPORT. The host link and the paths of the fabric (R107, R378, R382, R383, R392). -/

namespace Sys2Proof.Machine

open Sys2Proof.Statements

/-! ## Worlds -/

theorem State.world_modWorld (s : State) (w v : Nat) (f : World → World) :
    (s.modWorld w f).world v = if v = w then f (s.world w) else s.world v := Assoc.get_set worldDefault s.worlds w v _

theorem State.world_modWorld_same (s : State) (w : Nat) (f : World → World) : (s.modWorld w f).world w = f (s.world w) :=
  Assoc.get_set_same worldDefault s.worlds w _

/-- Worlds that lose their bindings one after the other have lost them in the end. -/
theorem unbound_world {ws : List Nat} {w : Nat} {s : State}
    (h : w ∈ ws ∨ (s.world w).tdispError = true ∧ (s.world w).tdisp = .error) :
    ((ws.foldl (fun s w => s.modWorld w World.loseBinding) s).world w).tdispError = true
      ∧ ((ws.foldl (fun s w => s.modWorld w World.loseBinding) s).world w).tdisp = .error := by
  induction ws generalizing s with
  | nil => exact h.resolve_left (by simp)
  | cons v ws ih =>
    refine ih ?_
    rw [State.world_modWorld]
    split
    · exact .inr ⟨rfl, rfl⟩
    · rename_i other
      exact h.imp_left fun h => (List.mem_cons.1 h).resolve_left other

theorem unbound_fields (ws : List Nat) (s : State) :
    ∃ worlds, ws.foldl (fun s w => s.modWorld w World.loseBinding) s = { s with worlds := worlds } := by
  induction ws generalizing s with
  | nil => exact ⟨_, rfl⟩
  | cons w ws ih =>
    obtain ⟨_, h⟩ := ih (s.modWorld w World.loseBinding)
    exact ⟨_, h⟩

/-! ## A link that goes down -/

theorem OnlyFailures.trans {s t u : State} (h : OnlyFailures s t) (g : OnlyFailures t u) : OnlyFailures s u := by
  obtain ⟨_, _, rfl⟩ := h
  obtain ⟨_, _, rfl⟩ := g
  exact ⟨_, _, rfl⟩

theorem OnlyFailures.foldl {α : Type} {f : State → α → State} (hf : ∀ s a, OnlyFailures s (f s a)) (l : List α) (s : State) :
    OnlyFailures s (l.foldl f s) := by
  induction l generalizing s with
  | nil => exact ⟨_, _, rfl⟩
  | cons a l ih => exact (hf s a).trans (ih _)

/-- With the link down no request of the worlds is left; slots and the failures kept for others are all that changes
besides. -/
theorem State.failHost_down {s : State} (down : s.hostDown = true) (which : Nat → Bool) : ∃ slots hostFails,
    s.failHost which = { s with
      slots := slots, hostFails := hostFails, ats := s.ats.filter (fun r => !which r.world) } := by
  unfold State.failHost
  simp only
  have told := OnlyFailures.foldl (fun u (r : AtsReq) => OnlyFailures.failUsers r.users r.va .page 0x400 u)
    (s.ats.filter fun r => which r.world) s
  revert told
  generalize List.foldl _ s _ = u
  rintro ⟨slots, fails, rfl⟩
  rw [if_pos down]
  obtain ⟨_, h⟩ := OnlySlots.foldl (f := fun s (e : Nat × Slot) => s.modSlot e.1 (fun sl => { sl with
    atsFail := sl.hostOp.map (fun o => (pageOf o.va, .page, 0x400)) })) (fun _ _ => ⟨_, rfl⟩) _ _
  exact ⟨_, _, h⟩

theorem exec_linkDown (s : State) : ∃ worlds slots hostFails, (∀ w ∈ s.confidential,
      (Assoc.get worldDefault worlds w).tdispError = true ∧ (Assoc.get worldDefault worlds w).tdisp = .error)
    ∧ exec .linkDown s = .next { s with
        hostDown := true, worlds := worlds, slots := slots, hostFails := hostFails, ats := [] } := by
  have lost := fun w (h : w ∈ s.confidential) => unbound_world (s := { s with hostDown := true }) (.inl h)
  obtain ⟨worlds, unbound⟩ := unbound_fields s.confidential { s with hostDown := true }
  rw [unbound] at lost
  obtain ⟨slots, fails, failed⟩ := State.failHost_down (s := { s with hostDown := true, worlds := worlds }) rfl fun _ => true
  refine ⟨worlds, slots, fails, lost, congrArg Host.Outcome.next ?_⟩
  refine ((congrArg (fun u => State.failHost u fun _ => true) unbound).trans failed).trans ?_
  rw [List.filter_eq_nil_iff.2 (by simp)]

/-! ## Packages that can no longer be reached -/

/-- A contribution that is lost leaves the router; but for slots, nothing else changes. -/
theorem State.loseContribution_only (s : State) (c : Contribution) : ∃ slots, s.loseContribution c
    = { s with contributions := s.contributions.filter (fun x => x.id != c.id), slots := slots } := by
  obtain ⟨_, h⟩ := OnlySlots.foldl (f := fun u (e : Nat × Nat) => (u.removeAcc e.1 e.2).settleSlot e.1) (fun u e => by
    rcases State.settleSlot_cases (u.removeAcc e.1 e.2) e.1 with h | ⟨_, h⟩
    · exact ⟨_, h⟩
    · exact ⟨_, h⟩) c.parts { s with contributions := s.contributions.filter (fun x => x.id != c.id) }
  exact ⟨_, h⟩

theorem lost_only (cs : List Contribution) (s : State) : ∃ slots, cs.foldl State.loseContribution s
    = { s with contributions := s.contributions.filter (fun x => cs.all (fun c => x.id != c.id)), slots := slots } := by
  induction cs generalizing s with
  | nil => exact ⟨s.slots, by simp⟩
  | cons c cs ih =>
    obtain ⟨_, first⟩ := s.loseContribution_only c
    obtain ⟨slots, rest⟩ := ih (s.loseContribution c)
    refine ⟨slots, rest.trans ?_⟩
    rw [first, List.filter_filter]
    simp only [List.all_cons, Bool.and_comm]

/-- Messages leave send queues for the network. -/
def OnlySends (s t : State) : Prop := ∃ cores sent draws agenda,
  t = { s with cores := cores, flying := s.flying ++ sent, draws := draws, agenda := agenda }

theorem OnlySends.trans {s t u : State} (h : OnlySends s t) (g : OnlySends t u) : OnlySends s u := by
  obtain ⟨_, _, _, _, rfl⟩ := h
  obtain ⟨_, _, _, _, rfl⟩ := g
  simp only [List.append_assoc]
  exact ⟨_, _, _, _, rfl⟩

theorem OnlySends.refl (s : State) : OnlySends s s := ⟨s.cores, [], s.draws, s.agenda, by rw [List.append_nil]⟩

theorem OnlySends.pumpQueue (core n : Nat) (s : State) : OnlySends s (State.pumpQueue core n s) := by
  induction n generalizing s with
  | zero => exact .refl s
  | succ n ih =>
    unfold State.pumpQueue
    split
    · exact .refl s
    · simp only
      split
      · exact .refl s
      · exact OnlySends.trans ⟨_, [_], _, _, rfl⟩ (ih _)

theorem OnlySends.foldl {α : Type} {f : State → α → State} (hf : ∀ s a, OnlySends s (f s a)) (l : List α) (s : State) :
    OnlySends s (l.foldl f s) := by
  induction l generalizing s with
  | nil => exact .refl s
  | cons a l ih => exact (hf s a).trans (ih _)

theorem lost_messages (lost : List FlyingMsg) (senders : List Nat) (s : State) :
    let t := senders.foldl State.pump (lost.foldl (fun s m => match m.msg.kind with
      | .handle w _ => s.dropWord w false
      | _ => s) s)
    t.unreachable = s.unreachable ∧ t.contributions = s.contributions ∧ ∀ m ∈ s.flying, m ∈ t.flying := by
  obtain ⟨_, _, _, _, _, _, _, _, _, _, _, _, _, _, _, _, _, dropped⟩ := OnlyHandles.foldl (f := fun s (m : FlyingMsg) =>
    match m.msg.kind with
    | .handle w _ => s.dropWord w false
    | _ => s) (fun u m => by
      split
      · exact .dropWord _ _ _
      · exact .refl u) lost s
  simp only [dropped]
  obtain ⟨_, _, _, _, pumped⟩ := OnlySends.foldl (fun u c => OnlySends.pumpQueue c 4 u) senders _
  refine ⟨(congrArg State.unreachable pumped).trans rfl, (congrArg State.contributions pumped).trans rfl, fun m hm => ?_⟩
  refine (congrArg (m ∈ ·) (congrArg State.flying pumped)).mpr ?_
  exact List.mem_append_left _ hm

theorem State.losePackage_rest (s : State) (pkg : Nat) : (s.losePackage pkg).unreachable = s.unreachable
    ∧ (s.losePackage pkg).contributions = s.contributions.filter (fun x =>
        (s.contributions.filter (fun c => c.home == pkg && c.accepted)).all (fun c => x.id != c.id))
    ∧ ∀ m ∈ s.flying, m.remote ≠ some pkg → m ∈ (s.losePackage pkg).flying := by
  obtain ⟨_, lost⟩ := lost_only (s.contributions.filter (fun c => c.home == pkg && c.accepted)) s
  unfold State.losePackage
  simp only [lost]
  obtain ⟨reach, left, stay⟩ := lost_messages (s.flying.filter fun m => m.remote == some pkg)
    (((s.flying.filter fun m => m.remote == some pkg).map fun m => coreOfSlot m.src).eraseDups) _
  exact ⟨reach, left, fun m hm other => stay m (List.mem_filter.2 ⟨hm, by simpa using other⟩)⟩

/-! ## A path that comes back -/

/-- A contribution that leaves the router. -/
def Contribution.leave (c : Contribution) : Contribution := { c with held := false, sent := true }

theorem forwarded (cs : List Contribution) (s : State) : ∃ draws agenda, cs.foldl (fun s c => s.forward c.id) s = { s with
    draws := draws, agenda := agenda
    contributions := s.contributions.map (fun c => if cs.any (fun x => x.id == c.id) then c.leave else c) } := by
  induction cs generalizing s with
  | nil => exact ⟨s.draws, s.agenda, by simp⟩
  | cons x cs ih =>
    obtain ⟨draws, agenda, h⟩ := ih (s.forward x.id)
    refine ⟨draws, agenda, h.trans ?_⟩
    have once : ∀ c : Contribution, (if cs.any (fun y => y.id == (if c.id = x.id then c.leave else c).id) then
        (if c.id = x.id then c.leave else c).leave else if c.id = x.id then c.leave else c)
        = if (x :: cs).any (fun y => y.id == c.id) then c.leave else c := by
      intro c
      rw [List.any_cons]
      by_cases mine : c.id = x.id
      · simp [mine, Contribution.leave]
      · simp [mine, Ne.symm mine]
    simp only [State.forward, State.schedule, List.map_map]
    congr 1
    exact List.map_congr_left fun c _ => once c

end Sys2Proof.Machine

namespace Sys2Proof.Statements

open Sys2Proof.Machine

/-! ## The obligation -/

/-- The reductions that a path carries on when it comes back are those that the router has accepted. -/
theorem recovered {s : State} {pkg : Nat} (port : s.pkgid ≠ 0xFF) :
    ∃ t, exec (.fabricPathRecovery pkg) s = .next t ∧ t.pathsDown.has pkg = false ∧ pkg ∉ t.unreachable
      ∧ ∀ c ∈ t.contributions, c.home = pkg → c.accepted = true → c.sent = true := by
  obtain ⟨_, _, sent⟩ := forwarded (s.contributions.filter (fun c => c.accepted && !c.sent && c.home == pkg))
    { s with pathsDown := s.pathsDown.erase pkg, unreachable := s.unreachable.filter (fun p => p != pkg) }
  refine ⟨_, (congrArg Host.Outcome.next (if_neg port)).trans (congrArg Host.Outcome.next sent), ?_, ?_, ?_⟩
  · simp [Assoc.has, Assoc.erase]
  · simp
  · intro c hc home accepted
    obtain ⟨x, hx, rfl⟩ := List.mem_map.1 hc
    split
    · rfl
    · rename_i stays
      rw [if_neg stays] at home accepted
      by_contra waits
      refine stays (List.any_eq_true.2 ⟨x, List.mem_filter.2 ⟨hx, ?_⟩, by simp⟩)
      simpa [home, accepted] using waits

/-- Settles O59: the mailbox and the responder over a link that is up and one that is down, and the paths of the
fabric. -/
theorem hostLinkAndFabric : Obligations.HostLinkAndFabric := by
  unfold Obligations.HostLinkAndFabric
  refine ⟨⟨fun s v up => ⟨?_, ?_, ?_⟩, ?_, ?_, ?_, ?_, fun _ => rfl⟩, ?_, ?_, fun s pkg => recovered⟩
  · exact ⟨{ s with mailbox := { s.mailbox with addr := v } }, congrArg Host.Outcome.next (if_neg (by simp [up])), rfl⟩
  · intro clear
    refine ⟨{ s with mailbox := { s.mailbox with done := false } }, congrArg Host.Outcome.next ((if_neg (by simp [up])).trans ?_), rfl⟩
    exact if_pos clear
  · intro ring free a r good
    have submits : exec (.registerWrite 0x08 v) s = .next s.submit := by
      refine congrArg Host.Outcome.next ((if_neg (by simp [up])).trans (if_pos ?_))
      simp [ring, free]
    have serve : s.submit = match (if zeroBytes r 3 5 && zeroBytes r 36 28 then requestStep (leNat (r.take 2)) else none) with
      | some i => ({ s with mailbox := { s.mailbox with busy := some a } } : State).schedule s.cycle i
      | none => ({ s with mailbox := { s.mailbox with busy := some a } } : State).answer 3 := rfl
    refine ⟨fun i wf op => ⟨_, submits.trans (congrArg Host.Outcome.next serve), ?_⟩, fun bad => ⟨_, submits, ?_⟩⟩
    · rw [if_pos (by simp [wf.1, wf.2]), op]
      exact ⟨rfl, agenda_schedule _ _ _ _⟩
    · rw [serve]
      have none_ : (if zeroBytes r 3 5 && zeroBytes r 36 28 then requestStep (leNat (r.take 2)) else none) = none := by
        split
        · rename_i wf
          exact bad.resolve_left fun h => h (by simpa using wf)
        · rfl
      rw [none_]
      exact State.answer_answered rfl 3
  · intro s vf nonce up
    exact ⟨s.attest vf nonce, _, congrArg Host.Outcome.next (if_neg (by simp [up])), rfl, rfl, rfl, rfl⟩
  · intro s vf up bound w
    have converses : ∀ m, (∀ nonce, m ≠ .attest nonce) → m ≠ .lost → exec (.spdmRequest vf m) s
        = .next (s.modWorld w (fun x => x.converse m)) := by
      intro m ordinary kept
      refine congrArg Host.Outcome.next ((if_neg (by simp [up])).trans ?_)
      cases m with
      | attest nonce => exact absurd rfl (ordinary nonce)
      | lost => exact absurd rfl kept
      | _ => exact if_neg bound
    refine ⟨⟨_, converses .session (by simp) (by simp), ?_⟩, ⟨_, converses .ideKm (by simp) (by simp), ?_⟩,
      fun ide idle => ⟨_, converses .lockInterface (by simp) (by simp), ?_⟩,
      fun locked => ⟨_, converses .startInterface (by simp) (by simp), ?_⟩⟩
    · rw [State.world_modWorld_same]
      rfl
    · rw [State.world_modWorld_same]
      rfl
    · rw [State.world_modWorld_same]
      exact congrArg World.tdisp (if_pos (by simp [ide, idle]))
    · rw [State.world_modWorld_same]
      simp [World.converse, locked]
  · intro s
    obtain ⟨worlds, _, _, lost, down⟩ := exec_linkDown s
    exact ⟨_, down, rfl, rfl, lost, fun p => by cases p <;> rfl⟩
  · intro s off vf v m down
    exact ⟨congrArg Host.Outcome.next (if_pos down), congrArg Host.Outcome.next (if_pos down)⟩
  · intro s pkg other up
    refine ⟨({ s with pathsDown := s.pathsDown.put pkg s.time } : State).schedule (s.cycle + 1) .fabricPathDown [pkg, s.time],
      congrArg Host.Outcome.next (if_neg (by simp [other, up])), Assoc.find_put_same _ _ _, agenda_schedule _ _ _ _⟩
  · intro s pkg since subject down
    have runs : exec .fabricPathDown s = .next (if s.time - since ≤ 4284000000 then
          s.schedule (s.cycle + 1) .fabricPathDown [pkg, since]
        else if s.unreachable.contains pkg then s
        else ({ s with unreachable := s.unreachable ++ [pkg] } : State).losePackage pkg) := by
      simp only [exec, execFabricPathDown, subject, down]
      simp
    refine ⟨fun long new => ?_, fun short => ?_⟩
    · rw [if_neg (by omega), if_neg (by simpa using new)] at runs
      obtain ⟨reach, left, stay⟩ := State.losePackage_rest { s with unreachable := s.unreachable ++ [pkg] } pkg
      refine ⟨_, runs, by rw [reach]; simp, fun c hc home => ?_, fun c hc open_ => ?_, stay⟩
      · rw [left] at hc
        obtain ⟨hc, gone⟩ := List.mem_filter.1 hc
        by_contra accepted
        have := List.all_eq_true.1 gone c (List.mem_filter.2 ⟨hc, by simp [home, accepted]⟩)
        simp at this
      · rw [left]
        refine List.mem_filter.2 ⟨hc, List.all_eq_true.2 fun y hy => ?_⟩
        obtain ⟨hy, accepted⟩ := List.mem_filter.1 hy
        by_contra same
        have := open_ y hy (by simpa using Eq.symm (by simpa using same))
        simp [this] at accepted
    · rw [if_pos (by omega)] at runs
      exact ⟨_, runs, rfl, agenda_schedule _ _ _ _⟩

end Sys2Proof.Statements
end

section
/-! SUPPORT. The destruction of a world (R377): what it leaves of the package, and what is gone with the world. -/

namespace Sys2Proof.Machine

open Sys2Proof.Statements

/-! ## What stays of the package -/

/-- What the package is, its mailbox included, stays; no world comes to life, and no message is sent. -/
structure SamePackage (s t : State) : Prop where
  mailbox : t.mailbox = s.mailbox
  firmware : t.firmware = s.firmware
  deadCores : t.deadCores = s.deadCores
  retiredCores : t.retiredCores = s.retiredCores
  deadDies : t.deadDies = s.deadDies
  retiredDies : t.retiredDies = s.retiredDies
  health : t.health = s.health
  dead : ∀ w, (s.world w).alive = false → (t.world w).alive = false
  cycle : t.cycle = s.cycle
  flying : ∀ m ∈ t.flying, m ∈ s.flying

theorem SamePackage.refl (s : State) : SamePackage s s := ⟨rfl, rfl, rfl, rfl, rfl, rfl, rfl, fun _ h => h, rfl, fun _ h => h⟩

theorem SamePackage.trans {s t u : State} (h : SamePackage s t) (g : SamePackage t u) : SamePackage s u :=
  ⟨g.mailbox.trans h.mailbox, g.firmware.trans h.firmware, g.deadCores.trans h.deadCores, g.retiredCores.trans h.retiredCores,
    g.deadDies.trans h.deadDies, g.retiredDies.trans h.retiredDies, g.health.trans h.health, fun w hw => g.dead w (h.dead w hw),
    g.cycle.trans h.cycle, fun m hm => h.flying m (g.flying m hm)⟩

theorem SamePackage.foldl {α : Type} {f : State → α → State} (hf : ∀ s a, SamePackage s (f s a)) (l : List α) (s : State) :
    SamePackage s (l.foldl f s) := by
  induction l generalizing s with
  | nil => exact .refl s
  | cons a l ih => exact (hf s a).trans (ih _)

theorem OnlyReports.samePackage {s t : State} (h : OnlyReports s t) : SamePackage s t := by
  obtain ⟨_, _, _, _, _, _, _, _, _, _, _, _, _, _, _, _, _, _, _, _, rfl⟩ := h
  exact ⟨rfl, rfl, rfl, rfl, rfl, rfl, rfl, fun _ h => h, rfl, fun _ h => h⟩

theorem OnlyHandles.samePackage {s t : State} (h : OnlyHandles s t) : SamePackage s t := by
  obtain ⟨_, _, _, _, _, _, _, _, _, _, _, _, _, _, _, _, _, rfl⟩ := h
  exact ⟨rfl, rfl, rfl, rfl, rfl, rfl, rfl, fun _ h => h, rfl, fun _ h => h⟩

theorem Performs.samePackage {k : Nat} {P : Nat → Prop} {s t : State} (h : Performs k P s t) : SamePackage s t := by
  obtain ⟨_, _, _, _, _, _, _, _, _, _, _, _, _, rfl⟩ := h.fields
  exact ⟨rfl, rfl, rfl, rfl, rfl, rfl, rfl, fun _ h => h, rfl, fun _ h => h⟩

/-- Units that are emptied, and what waits in them. -/
theorem SamePackage.of_units {s t : State} (h : ∃ slots cores clusters dies flyingEvents ats agenda launches spans results,
    t = { s with
      slots := slots, cores := cores, clusters := clusters, dies := dies, flyingEvents := flyingEvents
      ats := ats, agenda := agenda, launches := launches, spans := spans, results := results }) : SamePackage s t := by
  obtain ⟨_, _, _, _, _, _, _, _, _, _, rfl⟩ := h
  exact ⟨rfl, rfl, rfl, rfl, rfl, rfl, rfl, fun _ h => h, rfl, fun _ h => h⟩

theorem SamePackage.performAll (s : State) (k : Nat) (beyond : Bool) (xs : List Acc) : SamePackage s (s.performAll k beyond xs) := by
  unfold State.performAll
  simp only
  split
  · exact (Performs.performEach (k := k) xs s).samePackage.trans (Performs.sendHome _ _).samePackage
  · exact (Performs.performEach (k := k) xs s).samePackage

theorem SamePackage.withdrawCluster (s : State) (k : Nat) : SamePackage s (s.withdrawCluster k) := by
  refine .foldl (fun u n => ?_) _ s
  simp only
  split
  · split
    · refine SamePackage.trans ?_ (OnlyHandles.modLaunch _ _ _).samePackage
      exact .of_units ⟨_, _, _, _, _, _, _, _, _, _, rfl⟩
    · exact .of_units ⟨_, _, _, _, _, _, _, _, _, _, rfl⟩
  · exact .of_units ⟨_, _, _, _, _, _, _, _, _, _, rfl⟩

theorem SamePackage.modCluster (s : State) (cl : Nat) (f : Cluster → Cluster) : SamePackage s (s.modCluster cl f) :=
  .of_units ⟨_, _, _, _, _, _, _, _, _, _, rfl⟩

theorem SamePackage.modSlot (s : State) (k : Nat) (f : Slot → Slot) : SamePackage s (s.modSlot k f) :=
  .of_units ⟨_, _, _, _, _, _, _, _, _, _, rfl⟩

theorem SamePackage.withdrawArrival (s : State) (k : Nat) : SamePackage s (s.withdrawArrival k) := by
  unfold State.withdrawArrival
  refine SamePackage.trans ?_ (SamePackage.modSlot _ k _)
  exact (SamePackage.withdrawCluster s k).trans (.modCluster _ _ _)

theorem SamePackage.leaveQueues (s : State) (k : Nat) : SamePackage s (s.leaveQueues k) := by
  unfold State.leaveQueues State.leaveWaits
  refine SamePackage.trans ?_ (SamePackage.modSlot _ k _)
  exact (SamePackage.withdrawArrival s k).trans (.modCluster _ _ _)

theorem SamePackage.freeMutexes (s : State) (k : Nat) : SamePackage s (s.freeMutexes k) := .modCluster _ _ _

theorem SamePackage.setSlot (s : State) (k : Nat) (v : Slot) : SamePackage s (s.setSlot k v) :=
  .of_units ⟨_, _, _, _, _, _, _, _, _, _, rfl⟩

theorem SamePackage.killSlot (s : State) (k : Nat) : SamePackage s (s.killSlot k) :=
  ((((SamePackage.performAll s k true (s.slot k).accs).trans (.leaveQueues _ k)).trans (.freeMutexes _ k)).trans
    (OnlyHandles.dropHandles _ k false).samePackage).trans (.setSlot _ k _)

theorem SamePackage.dropWords (f : DWord → State → Bool) (ws : List DWord) (s : State) :
    SamePackage s (ws.foldl (fun s w => if f w s then s else s.dropWord w false) s) := by
  refine .foldl (fun u w => ?_) ws s
  split
  · exact .refl u
  · exact (OnlyHandles.dropWord _ _ _).samePackage

theorem SamePackage.dropCopies (s : State) (lid cl : Nat) : SamePackage s (s.dropCopies lid cl) := by
  refine SamePackage.trans ?_ (SamePackage.foldl (fun u w => ?_) _ _)
  · exact .of_units ⟨_, _, _, _, _, _, _, _, _, _, rfl⟩
  split
  · exact .refl u
  · exact (OnlyHandles.dropWord _ _ _).samePackage

theorem SamePackage.dropMessages (s : State) (lid : Nat) : SamePackage s (s.dropMessages lid) := by
  refine SamePackage.trans (SamePackage.trans ?_ (SamePackage.foldl (fun u c => .of_units ⟨_, _, _, _, _, _, _, _, _, _, rfl⟩) _ _))
    (SamePackage.foldl (fun u m => ?_) _ _)
  · exact ⟨rfl, rfl, rfl, rfl, rfl, rfl, rfl, fun _ h => h, rfl, fun m hm => (List.mem_filter.1 hm).1⟩
  split
  · exact (OnlyHandles.dropWord _ _ _).samePackage
  · exact .refl u

theorem SamePackage.dropPending (s : State) (lid : Nat) : SamePackage s (s.dropPending lid).2 := by
  unfold State.dropPending
  split
  · exact .refl s
  · rename_i l _
    simp only
    generalize l.dies.flatMap _ = cores
    have each : ∀ (n : Nat) (u : State), SamePackage s u → SamePackage s (cores.foldl (fun (r : Nat × State) c =>
      let core := r.2.core c
      let held := (core.deque ++ core.spilled.map Spilled.desc).flatMap TaskDesc.handles
      let sent := core.inbox.filterMap (fun m => match m.kind with
        | .handle w _ => some w
        | _ => none)
      let wid := (r.2.die (dieOfCore c)).wid
      let s := (held ++ sent).foldl (fun s w =>
        if handleKind w = 0 || s.stale wid w then s else s.dropWord w false) r.2
      let s := s.modCore c (fun x => { x with deque := [], spilled := [], inbox := [], current := none, ports := [] })
      (r.1 + (core.deque.length + core.spilled.length), s)) (n, u)).2 := by
      induction cores with
      | nil => exact fun _ _ h => h
      | cons c cores ih =>
        intro n u h
        refine ih _ _ (h.trans (SamePackage.trans ?_ (.of_units ⟨_, _, _, _, _, _, _, _, _, _, rfl⟩)))
        exact .dropWords (fun w s => handleKind w = 0 || s.stale (u.die (dieOfCore c)).wid w) _ u
    exact each 0 s (.refl s)

theorem SamePackage.drainPartition (s : State) (l : Launch) : SamePackage s (s.drainPartition l) := by
  unfold State.drainPartition
  simp only
  refine SamePackage.trans ?_ (.of_units ⟨_, _, _, _, _, _, _, _, _, _, rfl⟩)
  refine SamePackage.trans ?_ (.of_units ⟨_, _, _, _, _, _, _, _, _, _, rfl⟩)
  exact (((SamePackage.foldl SamePackage.killSlot _ s).trans (.foldl (fun u cl => .dropCopies u l.lid cl) _ _)).trans
    (.dropMessages _ l.lid)).trans (.dropPending _ l.lid)

theorem SamePackage.dropHeld (s : State) (l : Launch) : SamePackage s (s.dropHeld l) := by
  unfold State.dropHeld State.withHeld
  simp only
  refine SamePackage.trans (t := s.withdrawUsers (fun u => u == .saved l.lid)) (.of_units ⟨_, _, _, _, _, _, _, _, _, _, rfl⟩) ?_
  refine SamePackage.trans ?_ (.of_units ⟨_, _, _, _, _, _, _, _, _, _, rfl⟩)
  refine SamePackage.trans ?_
    (((SamePackage.foldl (fun u k => ?_) _ _).trans (SamePackage.dropMessages _ l.lid)).trans
      ((SamePackage.dropPending _ l.lid).trans (SamePackage.foldl (fun u cl => SamePackage.dropCopies u l.lid cl) _ _)))
  · exact .of_units ⟨_, _, _, _, _, _, _, _, _, _, rfl⟩
  exact (OnlyHandles.dropHandles u k false).samePackage.trans (.of_units ⟨_, _, _, _, _, _, _, _, _, _, rfl⟩)

/-! ## The packets of a world end -/

theorem SamePackage.keepRecord (s : State) (p : Packet) (v : EndValues) : SamePackage s (s.keepRecord p v) := by
  refine ⟨rfl, rfl, rfl, rfl, rfl, rfl, rfl, fun w hw => ?_, rfl, fun _ h => h⟩
  refine (congrArg World.alive (State.world_modWorld _ p.wid w (fun w => { w with provSeq := w.provSeq + 1 }))).trans ?_
  split
  · rename_i same
    subst same
    exact hw
  · exact hw

theorem SamePackage.endPackets (s : State) (w status : Nat) (special : Nat → Option Nat) :
    SamePackage s (s.endPackets w status special) := by
  refine .foldl (fun u p => ?_) _ s
  simp only
  refine SamePackage.trans ?_ (OnlyReports.queueError _ _ _ _ _).samePackage
  refine SamePackage.trans ?_ (OnlyReports.removePacket _ _).samePackage
  refine SamePackage.trans ?_ (OnlyReports.endOne _ _ _).samePackage
  refine SamePackage.trans ?_ (OnlyReports.modPacket _ _ _).samePackage
  split
  · exact .keepRecord _ _ _
  · exact .refl u

/-! ## Dies that are emptied -/

/-- Dies are emptied: queues, notices and worlds stay, and so do packets, but for the verdicts of barriers. -/
structure OnlyEmpties (s t : State) : Prop where
  fields : ∃ slots cores clusters dies tlb ats runs dram hostMem scratch arena windows versions undo commit agenda draws packets,
    t = { s with
      slots := slots, cores := cores, clusters := clusters, dies := dies, tlb := tlb, ats := ats, runs := runs, dram := dram
      hostMem := hostMem, scratch := scratch, arena := arena, windows := windows, versions := versions, undo := undo
      commit := commit, agenda := agenda, draws := draws, packets := packets }
  packets : ∃ f : Packet → Option (Option Nat), t.packets = s.packets.map (fun p => { p with verdict := f p })

theorem OnlyEmpties.trans {s t u : State} (h : OnlyEmpties s t) (g : OnlyEmpties t u) : OnlyEmpties s u := by
  constructor
  · obtain ⟨_, _, _, _, _, _, _, _, _, _, _, _, _, _, _, _, _, _, hu⟩ := g.fields
    obtain ⟨_, _, _, _, _, _, _, _, _, _, _, _, _, _, _, _, _, _, ht⟩ := h.fields
    rw [hu, ht]
    exact ⟨_, _, _, _, _, _, _, _, _, _, _, _, _, _, _, _, _, _, rfl⟩
  · obtain ⟨_, hu⟩ := g.packets
    obtain ⟨_, ht⟩ := h.packets
    rw [hu, ht, List.map_map]
    exact ⟨_, rfl⟩

theorem OnlyEmpties.of_units {s t : State} (h : ∃ slots cores clusters dies tlb ats runs scratch arena windows agenda draws,
    t = { s with
      slots := slots, cores := cores, clusters := clusters, dies := dies, tlb := tlb, ats := ats, runs := runs
      scratch := scratch, arena := arena, windows := windows, agenda := agenda, draws := draws }) : OnlyEmpties s t := by
  obtain ⟨_, _, _, _, _, _, _, _, _, _, _, _, rfl⟩ := h
  exact ⟨⟨_, _, _, _, _, _, _, _, _, _, _, _, _, _, _, _, _, _, rfl⟩, Packet.verdict, (keepVerdicts _).symm⟩

theorem OnlyEmpties.refl (s : State) : OnlyEmpties s s := .of_units ⟨_, _, _, _, _, _, _, _, _, _, _, _, rfl⟩

theorem OnlyEmpties.foldl {α : Type} {f : State → α → State} (hf : ∀ s a, OnlyEmpties s (f s a)) (l : List α) (s : State) :
    OnlyEmpties s (l.foldl f s) := by
  induction l generalizing s with
  | nil => exact .refl s
  | cons a l ih => exact (hf s a).trans (ih _)

theorem MemMoves.onlyEmpties {s t : State} (h : MemMoves s t) : OnlyEmpties s t := by
  refine ⟨?_, h.packets⟩
  obtain ⟨_, _, _, _, _, _, _, _, _, _, _, _, rfl⟩ := h.fields
  exact ⟨_, _, _, _, _, _, _, _, _, _, _, _, _, _, _, _, _, _, rfl⟩

theorem MemMoves.flushL1 (s : State) (l1 : Nat) : MemMoves s (s.flushL1 l1) := .foldl (fun _ _ => .evictLine _ _ _) _ s

theorem OnlyEmpties.preparePartition (s : State) (dies : List Nat) (fuse : Nat → Bool) :
    OnlyEmpties s (s.preparePartition dies fuse) := by
  unfold State.preparePartition
  simp only
  have flushed := MemMoves.foldl MemMoves.flushL1 ((s.cores.map Prod.fst).filter fun c => dies.contains (dieOfCore c)) s
  revert flushed
  generalize List.foldl State.flushL1 s _ = u
  intro flushed
  exact flushed.onlyEmpties.trans (.of_units ⟨_, _, _, _, _, _, _, _, _, _, _, _, rfl⟩)

theorem OnlyEmpties.emptyDie (s : State) (d : Nat) : OnlyEmpties s (s.emptyDie d) := by
  unfold State.emptyDie
  simp only
  have prepared := OnlyEmpties.preparePartition s [d] (fun _ => false)
  revert prepared
  generalize s.preparePartition [d] (fun _ => false) = u
  intro prepared
  exact prepared.trans (.of_units ⟨_, _, _, _, _, _, _, _, _, _, _, _, rfl⟩)

theorem MemMoves.scrub (s : State) (pa n : Nat) : MemMoves s (s.scrub pa n) := by
  unfold State.scrub
  simp only
  generalize ((s.cores.flatMap (fun e => e.2.lines.map Prod.fst)).eraseDups).filter _ = keys
  have dropped := MemMoves.foldl (fun u c => MemMoves.foldl (fun u key => MemMoves.dropLine u c key) keys u) (s.cores.map Prod.fst) s
  revert dropped
  generalize List.foldl _ s (s.cores.map Prod.fst) = u
  intro dropped
  exact dropped.trans ((MemMoves.setMemAt u .dram (u.dram.clear pa n)).trans (.wakeWords _ _))

theorem OnlyEmpties.modDie (s : State) (d : Nat) (f : Die → Die) : OnlyEmpties s (s.modDie d f) :=
  .of_units ⟨_, _, _, _, _, _, _, _, _, _, _, _, rfl⟩

theorem OnlyEmpties.reachClass (s : State) (w : Nat) : OnlyEmpties s (s.reachClass w) := by
  unfold State.reachClass
  split
  · exact .refl s
  · exact .of_units ⟨_, _, _, _, _, _, _, _, _, _, _, _, rfl⟩

theorem OnlyEmpties.joinClass (s : State) (dies : List Nat) : OnlyEmpties s (s.joinClass dies) := by
  unfold State.joinClass
  split
  · exact .refl s
  · exact (OnlyEmpties.foldl (fun u d => .modDie u d _) dies s).trans (.reachClass _ _)

theorem OnlyEmpties.samePackage {s t : State} (h : OnlyEmpties s t) : SamePackage s t := by
  obtain ⟨_, _, _, _, _, _, _, _, _, _, _, _, _, _, _, _, _, _, rfl⟩ := h.fields
  exact ⟨rfl, rfl, rfl, rfl, rfl, rfl, rfl, fun _ h => h, rfl, fun _ h => h⟩

theorem OnlyEmpties.rest {s t : State} (h : OnlyEmpties s t) :
    t.worlds = s.worlds ∧ t.queues = s.queues ∧ t.notices = s.notices := by
  obtain ⟨_, _, _, _, _, _, _, _, _, _, _, _, _, _, _, _, _, _, rfl⟩ := h.fields
  exact ⟨rfl, rfl, rfl⟩

/-- A world has no queue and no packet, and its end has been told. -/
def WithoutTrace (s : State) (w : Nat) : Prop :=
  (∀ e ∈ s.queues, e.2.wid ≠ w) ∧ (∀ p ∈ s.packets, p.wid ≠ w) ∧ ∃ n ∈ s.notices, n.wid = w

theorem OnlyEmpties.withoutTrace {s t : State} (h : OnlyEmpties s t) {w : Nat} (g : WithoutTrace s w) : WithoutTrace t w := by
  obtain ⟨-, queues, notices⟩ := h.rest
  obtain ⟨noQueue, noPacket, told⟩ := g
  refine ⟨queues ▸ noQueue, fun p hp => ?_, notices ▸ told⟩
  obtain ⟨_, packets⟩ := h.packets
  rw [packets] at hp
  obtain ⟨q, hq, rfl⟩ := List.mem_map.1 hp
  exact noPacket q hq

/-- Where a world is gone it stays so. -/
theorem OnlyEmpties.gone {s t : State} (h : OnlyEmpties s t) {w : Nat} (g : Gone s w) : Gone t w :=
  ⟨(congrArg (fun m => (Assoc.get worldDefault m w).alive) h.rest.1).trans g.1, h.withoutTrace g.2⟩

/-! ## A world is destroyed -/

/-- The world is no more. -/
def State.bury (s : State) (w : Nat) : State := { s with worlds := s.worlds.set worldDefault w { tdisp := .error } }

theorem State.bury_world (s : State) (w v : Nat) :
    ((s.bury w).world v).alive = if v = w then false else (s.world v).alive := by
  refine (congrArg World.alive (Assoc.get_set worldDefault s.worlds w v { tdisp := .error })).trans ?_
  split
  · rfl
  · rfl

theorem SamePackage.bury (s : State) (w : Nat) : SamePackage s (s.bury w) := by
  refine ⟨rfl, rfl, rfl, rfl, rfl, rfl, rfl, fun v hv => ?_, rfl, fun _ h => h⟩
  rw [State.bury_world]
  split
  · rfl
  · exact hv

/-- The lists of the package lose what is a world's, and the end of the world is told. -/
def State.strikeOff (s : State) (w : Nat) (n : HostNotice) : State :=
  { s with
    notices := s.notices ++ [n]
    images := s.images.filter (fun i => i.wid != w)
    queues := s.queues.filter (fun e => e.2.wid != w)
    packets := s.packets.filter (fun p => p.wid != w)
    provs := s.provs.filter (fun r => s.queues.any (fun e => e.1 == r.queue && e.2.wid != w))
    intervalWorlds := s.intervalWorlds.filter (fun v => v != w)
    undo := s.undo.filter (fun e => e.1 != w), commit := s.commit.filter (fun e => e.1 != w)
    tlb := s.tlb.filter (fun e => e.world != w) }

theorem SamePackage.strikeOff (s : State) (w : Nat) (n : HostNotice) : SamePackage s (s.strikeOff w n) :=
  ⟨rfl, rfl, rfl, rfl, rfl, rfl, rfl, fun _ h => h, rfl, fun _ h => h⟩

theorem State.strikeOff_withoutTrace (s : State) {w : Nat} {n : HostNotice} (h : n.wid = w) : WithoutTrace (s.strikeOff w n) w :=
  ⟨fun _ he => by simpa using (List.mem_filter.1 he).2, fun _ hp => by simpa using (List.mem_filter.1 hp).2,
    n, List.mem_append_right _ (List.mem_singleton_self n), h⟩

/-- What a destroyed world's dies go through on their way to world 0. -/
theorem OnlyEmpties.returned (s : State) (dies : List Nat) (taken : List (Nat × Nat)) :
    OnlyEmpties s (dies.foldl (fun s d => s.modDie d (fun y => { y with wid := 0, valid := !s.deadDies.contains d }))
      (taken.foldl (fun s r => s.scrub r.1 r.2) (dies.foldl State.emptyDie s))) := by
  refine (OnlyEmpties.foldl OnlyEmpties.emptyDie dies s).trans ?_
  refine (OnlyEmpties.foldl (fun u (r : Nat × Nat) => (MemMoves.scrub u r.1 r.2).onlyEmpties) taken _).trans ?_
  exact OnlyEmpties.foldl (fun u d => OnlyEmpties.modDie u d _) dies _

/-- The state after a world has been destroyed, but for the answer to a RECLAIM of one of its frames. -/
theorem State.destroyWorld_alive {s : State} {w : Nat} (confidential : w ≠ 0) (alive : (s.world w).alive = true)
    (reason running : Nat) : ∃ u, SamePackage s u ∧ Gone u w ∧ s.destroyWorld w reason running
      = if (s.world w).frames.any (fun f => f.asked && s.reclaiming w f.pa) then u.answer 0 else u := by
  have killed : ∀ (u : State) (l : Launch), SamePackage u
      (let s := if l.saved then u.dropHeld l else u.drainPartition l;
        { s with launches := s.launches.erase l.lid }) := by
    intro u l
    refine SamePackage.trans ?_ (.of_units ⟨_, _, _, _, _, _, _, _, _, _, rfl⟩)
    split
    · exact .dropHeld u l
    · exact .drainPartition u l
  unfold State.destroyWorld
  rw [if_neg (by simp [confidential, alive])]
  refine ⟨_, ?_, ?_, rfl⟩
  · refine SamePackage.trans ?_ (OnlyEmpties.joinClass _ _).samePackage
    refine SamePackage.trans ?_ (SamePackage.bury _ w)
    refine SamePackage.trans ?_ (OnlyEmpties.returned _ _ _).samePackage
    refine SamePackage.trans ?_ (SamePackage.strikeOff _ w _)
    refine SamePackage.trans ?_ (SamePackage.endPackets _ w statusWorld _)
    refine SamePackage.trans (SamePackage.foldl killed _ s) ⟨rfl, rfl, rfl, rfl, rfl, rfl, rfl, fun _ h => h, rfl, fun _ h => h⟩
  · refine OnlyEmpties.gone (OnlyEmpties.joinClass _ _) ⟨(State.bury_world _ w w).trans (if_pos rfl), ?_⟩
    exact (OnlyEmpties.returned _ _ _).withoutTrace (State.strikeOff_withoutTrace _ rfl)

theorem State.answer_kept (s : State) (code : Nat) : ∃ u, MemMoves s u ∧ (s.answer code = u ∨ ∃ m, s.answer code = { u with mailbox := m }) := by
  unfold State.answer
  split
  · exact ⟨s, .refl s, .inl rfl⟩
  · exact ⟨_, .hostStore _ _ _, .inr ⟨_, rfl⟩⟩

theorem State.answer_gone {s : State} {w : Nat} (h : Gone s w) (code : Nat) : Gone (s.answer code) w := by
  obtain ⟨u, moves, same | ⟨_, same⟩⟩ := s.answer_kept code
  · rw [same]
    exact moves.onlyEmpties.gone h
  · rw [same]
    exact moves.onlyEmpties.gone h

/-- A world that is destroyed is gone. -/
theorem State.destroyWorld_gone {s : State} {w : Nat} (confidential : w ≠ 0) (alive : (s.world w).alive = true)
    (reason running : Nat) : Gone (s.destroyWorld w reason running) w := by
  obtain ⟨u, -, gone, eq⟩ := State.destroyWorld_alive confidential alive reason running
  rw [eq]
  split
  · exact State.answer_gone gone 0
  · exact gone

/-- Where no RECLAIM is open the mailbox stays too. -/
theorem State.destroyWorld_open {s : State} {w op : Nat} (request : s.request 0 2 = op) (other : op ≠ 0x04)
    (reason running : Nat) : SamePackage s (s.destroyWorld w reason running) := by
  by_cases h : w = 0 ∨ (s.world w).alive = false
  · unfold State.destroyWorld
    rw [if_pos (by simpa using h)]
    exact .refl s
  · simp only [not_or, Bool.not_eq_false] at h
    obtain ⟨u, same, -, eq⟩ := State.destroyWorld_alive h.1 h.2 reason running
    have quiet : (s.world w).frames.any (fun f => f.asked && s.reclaiming w f.pa) = false := by
      simp [State.reclaiming, request, other]
    rw [eq, quiet]
    exact same

end Sys2Proof.Machine
end

section
/-! SUPPORT. Lines of the L1s that have nothing left to write home (R91, R93). -/

namespace Sys2Proof.Machine

/-- A line of an L1 has bytes or poison that are not at home yet. -/
def State.Dirty (s : State) (l1 key : Nat) : Prop := ∃ x, s.line l1 key = some x ∧ x.isDirty = true

/-- No line has become dirty. -/
def NoNewDirt (s t : State) : Prop := ∀ l1 key, t.Dirty l1 key → s.Dirty l1 key

theorem NoNewDirt.refl (s : State) : NoNewDirt s s := fun _ _ h => h

theorem NoNewDirt.trans {s t u : State} (h : NoNewDirt s t) (g : NoNewDirt t u) : NoNewDirt s u :=
  fun l1 key d => h l1 key (g l1 key d)

theorem NoNewDirt.foldl {α : Type} {f : State → α → State} (hf : ∀ s a, NoNewDirt s (f s a)) (l : List α) (s : State) :
    NoNewDirt s (l.foldl f s) := by
  induction l generalizing s with
  | nil => exact .refl s
  | cons a l ih => exact (hf s a).trans (ih _)

theorem NoNewDirt.of_cores {s t : State} (h : t.cores = s.cores) : NoNewDirt s t := fun l1 key ⟨x, hx, d⟩ =>
  ⟨x, (State.line_of_cores h l1 key).symm.trans hx, d⟩

/-! ## What leaves the cores as they are -/

theorem cores_foldl {α : Type} {f : State → α → State} (hf : ∀ s a, (f s a).cores = s.cores) (l : List α) (s : State) :
    (l.foldl f s).cores = s.cores := by
  induction l generalizing s with
  | nil => rfl
  | cons a l ih => exact (ih _).trans (hf s a)

theorem State.logWrite_cores (s : State) (w : Nat) (p : Place) (a : Nat) : (s.logWrite w p a).cores = s.cores := by
  unfold State.logWrite
  split
  · simp only
    split
    · rfl
    · rfl
  · split
    · rfl
    · rfl
  · rfl

theorem State.logRange_cores (s : State) (w : Nat) (p : Place) (a n : Nat) : (s.logRange w p a n).cores = s.cores := by
  unfold State.logRange
  split
  · rfl
  · split
    · exact cores_foldl (fun u i => u.logWrite_cores w .dram _) _ s
    · exact cores_foldl (fun u i => u.logWrite_cores w .host _) _ s
    · rfl

theorem State.homeByte_cores (s : State) (w : Nat) (p : Place) (a : Nat) (v : Byte) (poison : Bool) :
    (s.homeByte w p a v poison).cores = s.cores := (State.setMemAt_cores _ _ _).trans (s.logWrite_cores w p a)

theorem State.homePoison_cores (s : State) (w : Nat) (p : Place) (a : Nat) : (s.homePoison w p a).cores = s.cores :=
  (State.setMemAt_cores _ _ _).trans (s.logRange_cores w p _ _)

theorem State.raiseVersion_cores (s : State) (p : Place) (a : Nat) : (s.raiseVersion p a).cores = s.cores := by
  unfold State.raiseVersion
  split
  · split
    · rfl
    · rfl
  · rfl

theorem State.wakeWords_cores (s : State) (p : Piece) : (s.wakeWords p).cores = s.cores := by
  refine (State.wakeWaiters_cores _ _ _).trans ?_
  unfold State.signalWritten
  split
  · refine cores_foldl (fun u e => ?_) _ s
    unfold State.judge
    simp only
    split
    · rfl
    · split
      · rfl
      · split
        · rfl
        · rfl
  · rfl

/-! ## One line -/

theorem State.line_setLine_ne (s : State) {l1 key c k : Nat} (x : Line) (h : ¬(c = l1 ∧ k = key)) :
    (s.setLine l1 key x).line c k = s.line c k := by
  unfold State.line State.setLine State.modCore
  by_cases same : c = l1
  · subst same
    rw [State.core_setCore_same]
    exact Assoc.find_put_ne _ _ fun hk => h ⟨rfl, hk⟩
  · rw [State.core_setCore_ne _ _ same]

theorem State.line_dropLine (s : State) (l1 key c k : Nat) :
    (s.dropLine l1 key).line c k = if c = l1 ∧ k = key then none else s.line c k := by
  unfold State.line State.dropLine State.modCore
  by_cases same : c = l1
  · subst same
    rw [State.core_setCore_same]
    split
    · rename_i h
      rw [h.2]
      exact Assoc.find_erase_same _ _
    · rename_i h
      exact Assoc.find_erase_ne _ fun hk => h ⟨rfl, hk⟩
  · rw [State.core_setCore_ne _ _ same, if_neg fun h => same h.1]

theorem NoNewDirt.dropLine (s : State) (l1 key : Nat) : NoNewDirt s (s.dropLine l1 key) := by
  rintro c k ⟨x, hx, d⟩
  rw [State.line_dropLine] at hx
  split at hx
  · cases hx
  · exact ⟨x, hx, d⟩

/-- A line that takes the place of another and is dirty only where that was. -/
theorem NoNewDirt.setLine {s : State} {l1 key : Nat} {x : Line} (h : x.isDirty = true → s.Dirty l1 key) :
    NoNewDirt s (s.setLine l1 key x) := by
  rintro c k ⟨y, hy, d⟩
  by_cases here : c = l1 ∧ k = key
  · obtain ⟨rfl, rfl⟩ := here
    rw [State.line_setLine_same] at hy
    cases hy
    exact h d
  · rw [State.line_setLine_ne _ _ here] at hy
    exact ⟨y, hy, d⟩

/-- A line once its bytes have gone home. -/
def Line.cleaned (x : Line) : Line :=
  { x with poisoned := [], bytes := x.bytes.map (fun e => (e.1, { e.2 with dirty := false })) }

theorem Line.isDirty_cleaned (x : Line) : x.cleaned.isDirty = false := by simp [Line.isDirty, Line.cleaned]

/-- A line that is written home is clean; every other line stays. -/
theorem State.line_putHome (s : State) (l1 key c k : Nat) : (s.putHome l1 key).line c k
    = if c = l1 ∧ k = key then (s.line l1 key).map Line.cleaned else s.line c k := by
  unfold State.putHome
  split
  next missing =>
    split
    · rename_i h
      obtain ⟨rfl, rfl⟩ := h
      rw [missing]
      rfl
    · rfl
  next x found =>
    simp only
    have sent : (x.bytes.foldl (fun u e => if e.2.dirty then u.homeByte (s.worldOf l1) (linePlace key) (lineBase key + e.1) e.2.val e.2.poison
        else u) (x.poisoned.foldl (fun u i => u.homePoison (s.worldOf l1) (linePlace key) (lineBase key + 64 * i)) s)).cores
        = s.cores := by
      refine (cores_foldl (fun u e => ?_) _ _).trans (cores_foldl (fun u i => u.homePoison_cores _ _ _) _ s)
      split
      · exact u.homeByte_cores _ _ _ _ _
      · rfl
    revert sent
    generalize List.foldl _ (List.foldl _ s x.poisoned) x.bytes = u
    intro sent
    have line : (u.setLine l1 key x.cleaned).line c k
        = if c = l1 ∧ k = key then (some x).map Line.cleaned else s.line c k := by
      split
      · rename_i h
        rw [h.1, h.2]
        exact State.line_setLine_same _ _ _ _
      · rename_i h
        rw [State.line_setLine_ne _ _ h]
        exact State.line_of_cores sent c k
    rw [found, ← line]
    split
    · exact State.line_of_cores ((State.wakeWords_cores _ _).trans (State.raiseVersion_cores _ _ _)) c k
    · rfl

theorem NoNewDirt.putHome (s : State) (l1 key : Nat) : NoNewDirt s (s.putHome l1 key) := by
  rintro c k ⟨x, hx, d⟩
  rw [State.line_putHome] at hx
  split at hx
  · obtain ⟨y, -, rfl⟩ := Option.map_eq_some_iff.1 hx
    rw [Line.isDirty_cleaned] at d
    cases d
  · exact ⟨x, hx, d⟩

theorem NoNewDirt.forgetClean (s : State) (l1 key : Nat) : NoNewDirt s (s.forgetClean l1 key) := by
  unfold State.forgetClean
  split
  · exact .refl s
  next x found =>
    refine .setLine fun d => ⟨x, found, ?_⟩
    simp only [Line.isDirty, Bool.or_eq_true, List.any_eq_true, List.mem_filter] at d ⊢
    exact d.imp_left fun ⟨e, he, de⟩ => ⟨e, he.1, de⟩

theorem NoNewDirt.invalidateOthers (s : State) (keep : List Nat) (key : Nat) : NoNewDirt s (s.invalidateOthers keep key) := by
  have discarded := NoNewDirt.foldl (fun u c => (NoNewDirt.putHome u c key).trans (.dropLine _ c key))
    ((s.holders key).filter (fun c => !keep.contains c)) s
  unfold State.invalidateOthers
  simp only
  split
  · exact discarded.trans (.foldl (fun u c => .forgetClean u c key) _ _)
  · exact discarded

/-! ## Whole L1s -/

theorem State.writeBack_dirt (s : State) (l1 key : Nat) :
    NoNewDirt s (s.writeBack l1 key) ∧ ¬(s.writeBack l1 key).Dirty l1 key := by
  unfold State.writeBack
  split
  next missing =>
    refine ⟨.refl s, fun ⟨x, hx, _⟩ => ?_⟩
    rw [missing] at hx
    cases hx
  next x found =>
    split
    · refine ⟨(NoNewDirt.invalidateOthers s [l1] key).trans (.putHome _ _ _), fun ⟨y, hy, d⟩ => ?_⟩
      rw [State.line_putHome, if_pos ⟨rfl, rfl⟩] at hy
      obtain ⟨z, -, rfl⟩ := Option.map_eq_some_iff.1 hy
      rw [Line.isDirty_cleaned] at d
      cases d
    · rename_i clean
      refine ⟨.refl s, fun ⟨y, hy, d⟩ => clean ?_⟩
      rw [found] at hy
      cases hy
      exact d

theorem NoNewDirt.cleanL1 (s : State) (l1 : Nat) : NoNewDirt s (s.cleanL1 l1) := .foldl (fun u key => (u.writeBack_dirt l1 key).1) _ s

theorem writtenBack_clean (keys : List Nat) {l1 key : Nat} (s : State) (h : key ∈ keys ∨ ¬s.Dirty l1 key) :
    ¬(keys.foldl (fun s key => s.writeBack l1 key) s).Dirty l1 key := by
  induction keys generalizing s with
  | nil => exact h.resolve_left (by simp)
  | cons k keys ih =>
    refine ih _ ?_
    by_cases mine : key = k
    · exact .inr (mine ▸ (s.writeBack_dirt l1 key).2)
    · exact h.imp (fun h => (List.mem_cons.1 h).resolve_left mine) fun h d => h ((s.writeBack_dirt l1 k).1 l1 key d)

theorem Assoc.mem_of_find {α : Type} {m : Assoc α} {k : Nat} {v : α} (h : m.find k = some v) : k ∈ m.map Prod.fst := by
  induction m with
  | nil => cases h
  | cons e m ih =>
    obtain ⟨j, x⟩ := e
    rw [Assoc.find] at h
    split at h
    · rename_i same
      exact List.mem_cons.2 (.inl same.symm)
    · exact List.mem_cons_of_mem _ (ih h)

theorem State.cleanL1_clean (s : State) (l1 key : Nat) : ¬(s.cleanL1 l1).Dirty l1 key := by
  refine writtenBack_clean _ s ?_
  by_cases h : key ∈ (s.core l1).lines.map Prod.fst
  · exact .inl h
  · exact .inr fun ⟨_, hx, _⟩ => h (Assoc.mem_of_find hx)

/-- No line is dirty. -/
def State.Clean (s : State) : Prop := ∀ l1 key, ¬s.Dirty l1 key

theorem NoNewDirt.clean {s t : State} (h : NoNewDirt s t) (c : s.Clean) : t.Clean := fun l1 key d => c l1 key (h l1 key d)

theorem cleaned_clean (cores : List Nat) {l1 : Nat} (s : State) (h : l1 ∈ cores ∨ ∀ key, ¬s.Dirty l1 key) (key : Nat) :
    ¬(cores.foldl State.cleanL1 s).Dirty l1 key := by
  induction cores generalizing s with
  | nil => exact h.resolve_left (by simp) key
  | cons c cores ih =>
    refine ih _ ?_
    by_cases mine : l1 = c
    · exact .inr fun key => mine ▸ s.cleanL1_clean l1 key
    · exact h.imp (fun h => (List.mem_cons.1 h).resolve_left mine) fun h key d => h key (NoNewDirt.cleanL1 s c l1 key d)

/-- Once every L1 has been cleaned no line is dirty. -/
theorem State.cleanAll_clean (s : State) : ((s.cores.map Prod.fst).foldl State.cleanL1 s).Clean := fun l1 key => by
  refine cleaned_clean _ s ?_ key
  by_cases h : l1 ∈ s.cores.map Prod.fst
  · exact .inl h
  · refine .inr fun k ⟨x, hx, _⟩ => ?_
    have none_ : s.core l1 = {} := Assoc.get_unlisted _ fun e he same => h (List.mem_map.2 ⟨e, he, same⟩)
    rw [State.line, none_] at hx
    cases hx

/-! ## Memory behind L1s that are clean -/

theorem State.putHome_clean {s : State} (c : s.Clean) (l1 key : Nat) (q : Place) : (s.putHome l1 key).memAt q = s.memAt q := by
  unfold State.putHome
  split
  · rfl
  next x found =>
    have clean : x.isDirty = false := by
      by_contra d
      exact c l1 key ⟨x, found, by simpa using d⟩
    obtain ⟨bytes, poisoned⟩ : x.bytes.any (fun e => e.2.dirty) = false ∧ x.poisoned = [] := by
      simpa [Line.isDirty] using clean
    simp only [clean, poisoned, List.foldl_nil, Bool.false_eq_true, if_false]
    have stays : ∀ (l : Assoc LineByte), l.any (fun e => e.2.dirty) = false → l.foldl (fun u e =>
        if e.2.dirty then u.homeByte (s.worldOf l1) (linePlace key) (lineBase key + e.1) e.2.val e.2.poison else u) s = s := by
      intro l
      induction l with
      | nil => exact fun _ => rfl
      | cons e l ih =>
        intro h
        rw [List.any_cons, Bool.or_eq_false_iff] at h
        rw [List.foldl_cons, h.1]
        exact ih h.2
    rw [stays _ bytes]
    cases q <;> rfl

theorem State.dropLine_memAt (s : State) (l1 key : Nat) (q : Place) : (s.dropLine l1 key).memAt q = s.memAt q := by
  cases q <;> rfl

/-- Copies of a line that are given up write nothing where all are clean. -/
theorem State.invalidateOthers_clean {s : State} (c : s.Clean) (key : Nat) (q : Place) :
    (s.invalidateOthers [] key).memAt q = s.memAt q := by
  have each : ∀ (l : List Nat) (u : State), u.Clean →
      (l.foldl (fun s c => (s.putHome c key).dropLine c key) u).memAt q = u.memAt q := by
    intro l
    induction l with
    | nil => exact fun _ _ => rfl
    | cons d l ih =>
      intro u hu
      refine (ih _ (((NoNewDirt.putHome u d key).trans (.dropLine _ d key)).clean hu)).trans ?_
      exact (State.dropLine_memAt _ _ _ _).trans (State.putHome_clean hu d key q)
  unfold State.invalidateOthers
  simp only [List.foldl_nil]
  split
  · exact each _ s c
  · exact each _ s c

end Sys2Proof.Machine
end

section
/-! SUPPORT. The Curator's requests about worlds and frames (R370 to R377). -/

namespace Sys2Proof.Machine

open Sys2Proof.Statements

/-! ## Stores of the Curator -/

theorem Mem.bytes_overwrite_ne (m : Mem) {a b n : Nat} {bs : List Byte} (h : b + n ≤ a ∨ a + bs.length ≤ b) :
    (m.overwrite a bs).bytes b n = m.bytes b n := by
  refine Mem.bytes_congr fun x hx hn => ?_
  rw [Mem.byte_overwrite, if_neg (by omega)]

/-- A store to host memory writes its bytes, and nothing else where all lines are clean. -/
theorem State.hostStore_clean {s : State} (up : s.hostDown = false) (c : s.Clean) (a : Nat) (bs : List Byte) :
    (s.hostStore a bs).Clean ∧ (s.hostStore a bs).hostMem = s.hostMem.overwrite a bs ∧ (s.hostStore a bs).dram = s.dram := by
  unfold State.hostStore
  rw [if_neg (by simp [up])]
  simp only
  have given : ∀ (l : List (Nat × Nat)) (u : State), u.Clean →
      (l.foldl (fun s r => s.invalidateOthers [] (lineKey .host r.1)) u).Clean
        ∧ ∀ q, (l.foldl (fun s r => s.invalidateOthers [] (lineKey .host r.1)) u).memAt q = u.memAt q := by
    intro l
    induction l with
    | nil => exact fun u hu => ⟨hu, fun _ => rfl⟩
    | cons r l ih =>
      intro u hu
      obtain ⟨clean, mem⟩ := ih _ ((NoNewDirt.invalidateOthers u [] (lineKey .host r.1)).clean hu)
      exact ⟨clean, fun q => (mem q).trans (State.invalidateOthers_clean hu _ q)⟩
  obtain ⟨clean, mem⟩ := given (cutRange 256 a bs.length) s c
  revert clean mem
  generalize List.foldl _ s _ = u
  intro clean mem
  refine ⟨(NoNewDirt.of_cores (State.wakeWords_cores _ _)).clean clean, ?_, ?_⟩
  · refine (State.wakeWords_memAt _ _ .host).trans ?_
    exact congrArg (fun m : Mem => m.overwrite a bs) (mem .host)
  · exact (State.wakeWords_memAt _ _ .dram).trans (mem .dram)

theorem State.homeWrite_clean {s : State} (c : s.Clean) (w : Nat) (a : Nat) (bs : List Byte) (poison : Bool) :
    (s.homeWrite w .dram a bs poison).Clean ∧ (s.homeWrite w .dram a bs poison).hostMem = s.hostMem := by
  unfold State.homeWrite
  simp only
  have given : ((if Place.dram.cached then s.invalidateOthers [] (lineKey .dram a) else s).Clean)
      ∧ ((if Place.dram.cached then s.invalidateOthers [] (lineKey .dram a) else s).memAt .host) = s.hostMem := by
    split
    · exact ⟨(NoNewDirt.invalidateOthers s [] _).clean c, State.invalidateOthers_clean c _ .host⟩
    · exact ⟨c, rfl⟩
  revert given
  generalize (if Place.dram.cached then s.invalidateOthers [] (lineKey .dram a) else s) = u
  rintro ⟨clean, mem⟩
  constructor
  · refine (NoNewDirt.of_cores ?_).clean clean
    rw [State.wakeWords_cores, State.raiseVersion_cores, State.setMemAt_cores]
    split
    · exact State.logRange_cores _ _ _ _ _
    · exact State.logRange_cores _ _ _ _ _
  · refine (State.wakeWords_memAt _ _ .host).trans ?_
    rw [State.memAt_raiseVersion, State.memAt_setMemAt_ne _ _ (by simp)]
    split
    · exact (State.memAt_logRange _ _ _ _ _ _).trans mem
    · exact (State.memAt_logRange _ _ _ _ _ _).trans mem

theorem MemMoves.curatorWrite (s : State) (pa : Nat) (bs : List Byte) : MemMoves s (s.curatorWrite pa bs) :=
  .foldl (fun _ _ => .homeWrite _ _ _ _ _ _) _ s

theorem State.curatorWrite_clean {s : State} (c : s.Clean) (pa : Nat) (bs : List Byte) :
    (s.curatorWrite pa bs).Clean ∧ (s.curatorWrite pa bs).hostMem = s.hostMem := by
  unfold State.curatorWrite
  generalize cutRange 64 pa bs.length = l
  have each : ∀ (u : State), u.Clean → (l.foldl (fun u r =>
      u.systemWrite (u.die (dieOfAddress pa)).wid .dram r.1 ((bs.drop (r.1 - pa)).take r.2) false) u).Clean
      ∧ (l.foldl (fun u r => u.systemWrite (u.die (dieOfAddress pa)).wid .dram r.1 ((bs.drop (r.1 - pa)).take r.2) false) u).hostMem
        = u.hostMem := by
    induction l with
    | nil => exact fun u hu => ⟨hu, rfl⟩
    | cons r l ih =>
      intro u hu
      obtain ⟨clean, mem⟩ := State.homeWrite_clean hu (u.die (dieOfAddress pa)).wid r.1 ((bs.drop (r.1 - pa)).take r.2) false
      obtain ⟨after, same⟩ := ih _ clean
      exact ⟨after, same.trans mem⟩
  exact each s c

theorem State.scrub_clean {s : State} (c : s.Clean) (pa n : Nat) :
    (s.scrub pa n).Clean ∧ (s.scrub pa n).hostMem = s.hostMem := by
  unfold State.scrub
  simp only
  generalize ((s.cores.flatMap (fun e => e.2.lines.map Prod.fst)).eraseDups).filter _ = keys
  have clean := (NoNewDirt.foldl (fun u c => NoNewDirt.foldl (fun u key => NoNewDirt.dropLine u c key) keys u)
    (s.cores.map Prod.fst) s).clean c
  have mem := memAt_foldl (q := .host) (fun u c => memAt_foldl (fun u key => State.dropLine_memAt u c key .host) keys u)
    (s.cores.map Prod.fst) s
  revert clean mem
  generalize List.foldl _ s (s.cores.map Prod.fst) = u
  intro clean mem
  exact ⟨(NoNewDirt.of_cores (State.wakeWords_cores _ _)).clean clean, (State.wakeWords_memAt _ _ .host).trans mem⟩

/-! ## Notices -/

/-- A notice counts itself in its world, and is written where there is room. -/
theorem State.notice_moves (s : State) (w op res pa arg : Nat) :
    s.notice w op res pa arg = s ∨ ∃ u, MemMoves s u ∧ (s.Clean → u.Clean ∧ u.hostMem = s.hostMem)
      ∧ s.notice w op res pa arg = u.modWorld w (fun x => { x with noticeSeq := x.noticeSeq + 1 }) := by
  unfold State.notice
  simp only
  split
  · exact .inl rfl
  · refine .inr ⟨_, (MemMoves.curatorWrite _ _ _).trans (.curatorWrite _ _ _), fun c => ?_, rfl⟩
    obtain ⟨clean, mem⟩ := State.curatorWrite_clean c _ _
    obtain ⟨after, same⟩ := State.curatorWrite_clean clean _ _
    exact ⟨after, same.trans mem⟩

theorem MemMoves.world {s t : State} (h : MemMoves s t) (w : Nat) : t.world w = s.world w :=
  congrArg (fun m => Assoc.get worldDefault m w) h.worlds

/-- But for the number of its notices, a notice leaves a world as it is. -/
theorem State.notice_world (s : State) (w op res pa arg v : Nat) :
    ∃ n, (s.notice w op res pa arg).world v = { s.world v with noticeSeq := n } := by
  rcases s.notice_moves w op res pa arg with h | ⟨u, moves, -, h⟩
  · rw [h]
    exact ⟨_, rfl⟩
  · rw [h, State.world_modWorld, moves.world w, moves.world v]
    split
    · rename_i same
      subst same
      exact ⟨_, rfl⟩
    · exact ⟨_, rfl⟩

theorem State.notice_mailbox (s : State) (w op res pa arg : Nat) : (s.notice w op res pa arg).mailbox = s.mailbox := by
  rcases s.notice_moves w op res pa arg with h | ⟨u, moves, -, h⟩
  · rw [h]
  · rw [h]
    exact moves.mailbox

theorem State.notice_hostMem {s : State} (c : s.Clean) (w op res pa arg : Nat) :
    (s.notice w op res pa arg).hostMem = s.hostMem := by
  rcases s.notice_moves w op res pa arg with h | ⟨u, -, clean, h⟩
  · rw [h]
  · rw [h]
    exact (clean c).2

/-! ## Frames -/

theorem State.answer_world (s : State) (code w : Nat) : (s.answer code).world w = s.world w :=
  congrArg (fun m => Assoc.get worldDefault m w) (State.answer_worlds s code)

theorem State.releaseFrame_eq (s : State) (w : Nat) (f : Frame) : ∃ u tlb, MemMoves { s with tlb := tlb } u
    ∧ (s.Clean → u.Clean ∧ u.hostMem = s.hostMem)
    ∧ s.releaseFrame w f = u.modWorld w (fun x => { x with frames := x.frames.filter (fun g => g.pa != f.pa) }) :=
  let tlb := s.tlb.filter (fun e => !(e.world == w && e.pasid.isNone && decide (e.base < f.pa + pageBytes f.size)
    && decide (f.pa < e.base + e.size)))
  ⟨({ s with tlb := tlb } : State).scrub f.pa (pageBytes f.size), tlb, .scrub _ _ _,
    fun c => State.scrub_clean (s := { s with tlb := tlb }) c _ _, rfl⟩

theorem State.releaseFrame_world (s : State) (w : Nat) (f : Frame) :
    (s.releaseFrame w f).world w = { s.world w with frames := (s.world w).frames.filter (fun g => g.pa != f.pa) } := by
  obtain ⟨u, _, moves, -, h⟩ := s.releaseFrame_eq w f
  rw [h, State.world_modWorld_same, moves.world w]
  rfl

theorem State.releaseFrame_mailbox (s : State) (w : Nat) (f : Frame) : (s.releaseFrame w f).mailbox = s.mailbox := by
  obtain ⟨u, _, moves, -, h⟩ := s.releaseFrame_eq w f
  rw [h]
  exact moves.mailbox

/-- A frame is named by its address. -/
theorem World.frame_pa {x : World} {pa : Nat} {f : Frame} (h : x.frame pa = some f) : f.pa = pa := by
  simpa using List.find?_some h

/-! ## The request ring -/

theorem State.headTo_eq (s : State) (w n : Nat) : ∃ u, MemMoves (s.modWorld w (fun x => { x with served := n })) u
    ∧ s.headTo w n = u := ⟨_, .curatorWrite _ _ _, rfl⟩

theorem State.passRequest_mailbox (s : State) (w : Nat) : (s.passRequest w).mailbox = s.mailbox := by
  unfold State.passRequest
  simp only
  split
  · exact (MemMoves.curatorWrite _ _ _).mailbox
  · exact (MemMoves.curatorWrite _ _ _).mailbox

theorem State.passRequest_hostDown (s : State) (w : Nat) : (s.passRequest w).hostDown = s.hostDown := by
  unfold State.passRequest
  simp only
  split
  · exact (MemMoves.curatorWrite _ _ _).hostDown
  · exact (MemMoves.curatorWrite _ _ _).hostDown

theorem State.takeRequest_took {s s1 : State} {w op res pa arg : Nat} (h : Took s s1 w op res pa arg)
    (f : Nat → Nat → Nat → Nat → State → State) : s.takeRequest op f = f w res pa arg s1 := by
  obtain ⟨subject, next, rfl⟩ := h
  unfold State.takeRequest
  simp only [subject, next, if_true]

/-! ## A frame sealed into host memory -/

theorem sealEntry_length (key eid ver size e : Nat) (plain : List Byte) : (sealEntry key eid ver size e plain).length = 264 := by
  simp only [sealEntry, List.length_append, Tests.bytesOfWord_length, List.length_cons, List.length_nil]

theorem exportHeader_length (w size eid ver : Nat) : (exportHeader w size eid ver).length = 64 := by
  simp only [exportHeader, le32, le64, zeros, List.length_append, Tests.bytesOfWord_length, List.length_cons, List.length_nil,
    List.length_replicate]

/-- Entries stored one after the other stand in host memory; device memory stays. -/
theorem storedEntries {s : State} (up : s.hostDown = false) (c : s.Clean) (ha : Nat) (entry : Mem → Nat → List Byte)
    (length : ∀ m e, (entry m e).length = 264) (n : Nat) :
    let t := (List.range n).foldl (fun u e => u.hostStore (ha + 264 * e) (entry u.dram e)) s
    t.Clean ∧ t.dram = s.dram ∧ t.hostDown = false ∧ ∀ e < n, t.hostMem.bytes (ha + 264 * e) 264 = entry s.dram e := by
  induction n with
  | zero => exact ⟨c, rfl, up, fun e he => absurd he (Nat.not_lt_zero e)⟩
  | succ n ih =>
    simp only [List.range_succ, List.foldl_append, List.foldl_cons, List.foldl_nil]
    revert ih
    generalize (List.range n).foldl (fun u e => u.hostStore (ha + 264 * e) (entry u.dram e)) s = u
    rintro ⟨clean, dram, hup, entries⟩
    obtain ⟨after, host, same⟩ := State.hostStore_clean hup clean (ha + 264 * n) (entry u.dram n)
    refine ⟨after, same.trans dram, (MemMoves.hostStore u _ _).hostDown.trans hup, fun e he => ?_⟩
    rw [host]
    rcases Nat.lt_succ_iff_lt_or_eq.1 he with before | rfl
    · rw [Mem.bytes_overwrite_ne _ (.inl (by omega))]
      exact entries e before
    · have written := Mem.bytes_overwrite u.hostMem (ha + 264 * e) (entry u.dram e)
      rw [length] at written
      rw [written, dram]

end Sys2Proof.Machine
end

section
/-! SUPPORT. The obligation about worlds and frames (R371 to R377). -/

namespace Sys2Proof.Machine

open Sys2Proof.Statements

/-! ## A world is made -/

theorem die_assigned {dies : List Nat} {w d : Nat} {s : State} (h : d ∈ dies ∨ (s.die d).wid = w) :
    ((dies.foldl (fun s d => s.modDie d (fun x => { x with wid := w, valid := true })) s).die d).wid = w := by
  induction dies generalizing s with
  | nil => exact h.resolve_left (by simp)
  | cons e dies ih =>
    refine ih ?_
    by_cases mine : d = e
    · subst mine
      exact .inr (congrArg Die.wid (State.die_setDie_same s d _))
    · exact h.imp (fun h => (List.mem_cons.1 h).resolve_left mine) fun h =>
        (congrArg Die.wid (State.die_setDie_ne s _ mine)).trans h

theorem State.reachClass_fields (s : State) (w : Nat) : ∃ agenda draws, s.reachClass w = { s with agenda := agenda, draws := draws } := by
  unfold State.reachClass
  split
  · exact ⟨s.agenda, s.draws, rfl⟩
  · exact ⟨_, _, rfl⟩

/-- The dies that a world record names. -/
def recordDies (r : List Byte) : List Nat := (List.range 8).filter (fun d => recField r 0 1 / 2 ^ d % 2 = 1)

/-- Dies that are emptied, scrubbed at their seed region and assigned to a world. -/
def State.claim (s : State) (dies : List Nat) (seed w : Nat) : State :=
  dies.foldl (fun s d => s.modDie d (fun x => { x with wid := w, valid := true })) ((dies.foldl State.emptyDie s).scrub seed 0x10000)

theorem OnlyEmpties.claim (s : State) (dies : List Nat) (seed w : Nat) : OnlyEmpties s (s.claim dies seed w) := by
  have emptied := OnlyEmpties.foldl OnlyEmpties.emptyDie dies s
  refine (emptied.trans (MemMoves.scrub _ seed 0x10000).onlyEmpties).trans ?_
  exact OnlyEmpties.foldl (fun u d => OnlyEmpties.modDie u d _) dies _

theorem State.claim_die (s : State) {dies : List Nat} (seed w : Nat) {d : Nat} (h : d ∈ dies) : ((s.claim dies seed w).die d).wid = w :=
  die_assigned (.inl h)

/-- A world that is made takes its dies; the world itself is as its record says. -/
theorem State.makeWorld_eq (s : State) (w : Nat) (r handler : List Byte) : ∃ x dram nextId draws intervalWorlds,
    let u := s.claim (recordDies r) (recField r 8 8) w
    s.makeWorld w r handler = State.reachClass { u with
        nextId := nextId, draws := draws, dram := dram, worlds := u.worlds.set worldDefault w x
        intervalWorlds := intervalWorlds } w
      ∧ x.alive = true ∧ x.record = r ∧ x.handler = handler ∧ x.ptroot = some (recField r 8 8) ∧ x.frames = [] :=
  ⟨_, _, _, _, _, rfl, rfl, rfl, rfl, rfl, rfl⟩

theorem State.makeWorld_facts (s : State) (w : Nat) (r handler : List Byte) :
    (s.makeWorld w r handler).mailbox = s.mailbox
    ∧ ((s.makeWorld w r handler).world w).alive = true ∧ ((s.makeWorld w r handler).world w).record = r
    ∧ ((s.makeWorld w r handler).world w).handler = handler
    ∧ ((s.makeWorld w r handler).world w).ptroot = some (recField r 8 8) ∧ ((s.makeWorld w r handler).world w).frames = []
    ∧ ∀ d < 8, recField r 0 1 / 2 ^ d % 2 = 1 → ((s.makeWorld w r handler).die d).wid = w := by
  obtain ⟨x, _, _, _, _, eq, alive, record, handled, root, frames⟩ := s.makeWorld_eq w r handler
  have mailbox := (OnlyEmpties.claim s (recordDies r) (recField r 8 8) w).samePackage.mailbox
  have dies := fun d h => s.claim_die (dies := recordDies r) (recField r 8 8) w (d := d) h
  revert eq mailbox dies
  generalize s.claim (recordDies r) (recField r 8 8) w = u
  intro eq mailbox dies
  obtain ⟨_, _, reached⟩ := State.reachClass_fields _ w
  rw [reached] at eq
  have world : (s.makeWorld w r handler).world w = x := by
    rw [eq]
    exact Assoc.get_set_same worldDefault u.worlds w x
  rw [world]
  refine ⟨by rw [eq]; exact mailbox, alive, record, handled, root, frames, fun d hd bit => ?_⟩
  rw [eq]
  exact dies d (List.mem_filter.2 ⟨by simpa using hd, by simpa using bit⟩)

theorem State.answer_die (s : State) (code d : Nat) : (s.answer code).die d = s.die d := by
  obtain ⟨u, moves, same⟩ := s.answer_kept code
  obtain ⟨_, _, _, _, _, _, _, _, _, _, _, _, rfl⟩ := moves.fields
  rcases same with same | ⟨_, same⟩
  · rw [same]
    rfl
  · rw [same]
    rfl

/-- A page that a world takes back: its frame is scrubbed, and its entries are written there. -/
def State.takeBack (s : State) (w pa eid ver size : Nat) (bs : List (List Byte)) : State :=
  (((numbered bs).foldl (fun (s : State) b => { s with dram := s.dram.overwrite (pa + 256 * b.1) b.2 })
    (s.scrub pa (pageBytes size))).wakeWords { place := .dram, off := pa, len := pageBytes size }).modWorld w (fun x => { x with
      frames := x.frames ++ [{ pa := pa, size := size }]
      exports := x.exports.filter (fun e => !(e.1 == eid && e.2.1 == ver)) })

theorem State.takeBack_eq (s : State) (w pa eid ver size : Nat) (bs : List (List Byte)) : ∃ u, MemMoves s u
    ∧ State.takeBack s w pa eid ver size bs = u.modWorld w (fun x => { x with
      frames := x.frames ++ [{ pa := pa, size := size }]
      exports := x.exports.filter (fun e => !(e.1 == eid && e.2.1 == ver)) }) := by
  have written := fun u : State => MemMoves.foldl (f := fun (s : State) (b : Nat × List Byte) =>
    ({ s with dram := s.dram.overwrite (pa + 256 * b.1) b.2 } : State))
    (fun s b => .of_fields ⟨_, _, _, _, _, _, _, _, _, rfl⟩) (numbered bs) u
  exact ⟨_, ((MemMoves.scrub s pa (pageBytes size)).trans (written _)).trans (.wakeWords _ _), rfl⟩

theorem State.releaseFrame_clean {s : State} (c : s.Clean) (w : Nat) (f : Frame) :
    (s.releaseFrame w f).Clean ∧ (s.releaseFrame w f).hostMem = s.hostMem := by
  obtain ⟨u, _, -, released, eq⟩ := s.releaseFrame_eq w f
  obtain ⟨after, same⟩ := released c
  rw [eq]
  exact ⟨(NoNewDirt.of_cores rfl).clean after, same⟩

theorem State.modWorld_clean {s : State} (c : s.Clean) (w : Nat) (g : World → World) :
    (s.modWorld w g).Clean ∧ (s.modWorld w g).hostMem = s.hostMem := ⟨(NoNewDirt.of_cores rfl).clean c, rfl⟩

/-- A frame that has been sealed into host memory: its entries stand there, and its header. -/
def State.sealFrame (s : State) (x : World) (w pa ha : Nat) (f : Frame) : State :=
  ((List.range (pageBytes f.size / 256)).foldl (fun s e =>
    s.hostStore (ha + 64 + 264 * e) (sealEntry x.keys pa (x.exportCount + 1) f.size e (s.frameBlock pa e)))
    ((s.cores.map Prod.fst).foldl State.cleanL1 s)).hostStore ha (exportHeader w f.size pa (x.exportCount + 1))

theorem MemMoves.sealFrame (s : State) (x : World) (w pa ha : Nat) (f : Frame) : MemMoves s (s.sealFrame x w pa ha f) := by
  have cleaned := MemMoves.foldl MemMoves.cleanL1 (s.cores.map Prod.fst) s
  refine (cleaned.trans (.foldl (fun u e => .hostStore _ _ _) (List.range (pageBytes f.size / 256)) _)).trans (.hostStore _ _ _)

theorem State.sealFrame_bytes {s : State} (up : s.hostDown = false) (x : World) (w pa ha : Nat) (f : Frame) :
    (s.sealFrame x w pa ha f).Clean
    ∧ (s.sealFrame x w pa ha f).hostMem.bytes ha 64 = exportHeader w f.size pa (x.exportCount + 1)
    ∧ ∀ e < pageBytes f.size / 256, (s.sealFrame x w pa ha f).hostMem.bytes (ha + 64 + 264 * e) 264
      = sealEntry x.keys pa (x.exportCount + 1) f.size e (State.frameBlock ((s.cores.map Prod.fst).foldl State.cleanL1 s) pa e) := by
  have cleaned := MemMoves.foldl MemMoves.cleanL1 (s.cores.map Prod.fst) s
  obtain ⟨clean, -, hup, entries⟩ := storedEntries (cleaned.hostDown.trans up) s.cleanAll_clean (ha + 64)
    (fun m e => sealEntry x.keys pa (x.exportCount + 1) f.size e (m.bytes (pa + 256 * e) 256))
    (fun m e => sealEntry_length _ _ _ _ _ _) (pageBytes f.size / 256)
  obtain ⟨after, host, -⟩ := State.hostStore_clean hup clean ha (exportHeader w f.size pa (x.exportCount + 1))
  have header := exportHeader_length w f.size pa (x.exportCount + 1)
  refine ⟨after, ?_, fun e he => ?_⟩
  · refine (congrArg (fun m : Mem => m.bytes ha 64) host).trans ?_
    have written := fun m : Mem => m.bytes_overwrite ha (exportHeader w f.size pa (x.exportCount + 1))
    rw [header] at written
    exact written _
  · refine (congrArg (fun m : Mem => m.bytes (ha + 64 + 264 * e) 264) host).trans ?_
    rw [Mem.bytes_overwrite_ne _ (.inr (by omega))]
    exact entries e he

end Sys2Proof.Machine

namespace Sys2Proof.Statements

open Sys2Proof.Machine

/-! ## The obligation -/

theorem Requested.answer_kept {s : State} {op a : Nat} (h : Requested s op a) (code : Nat) :
    Answered (s.answer code) a code ∧ (s.answer code).worlds = s.worlds :=
  ⟨State.answer_answered h.1 code, State.answer_worlds s code⟩

/-- A request whose work leaves the mailbox as it is, is answered after it. -/
theorem Requested.answered_after {s t : State} {op a : Nat} (h : Requested s op a) (same : t.mailbox = s.mailbox) (code : Nat) :
    Answered (t.answer code) a code := State.answer_answered ((congrArg Mailbox.busy same).trans h.1) code

/-- A world that a request destroys is gone, and the request is answered after it. -/
theorem Requested.destroys {s : State} {op a w : Nat} (h : Requested s op a) (other : op ≠ 0x04) (confidential : w ≠ 0)
    (alive : s.worldAlive w = true) (running code : Nat) :
    Answered ((s.someReason.2.destroyWorld w s.someReason.1 running).answer code) a code
      ∧ Gone ((s.someReason.2.destroyWorld w s.someReason.1 running).answer code) w := by
  have living : (s.someReason.2.world w).alive = true := by
    simpa [State.worldAlive, State.someReason, State.world, confidential] using alive
  have request : s.someReason.2.request 0 2 = op := by simpa only [State.request, State.hostBytes, State.someReason] using h.2
  have same := State.destroyWorld_open (w := w) request other s.someReason.1 running
  exact ⟨h.answered_after same.mailbox code, State.answer_gone (State.destroyWorld_gone confidential living _ _) code⟩

/-- CREATE_WORLD answers the code of the first check that fails. -/
theorem created {s : State} {a : Nat} (asked : Requested s 0x01 a) :
    let w := s.requestWid
    let r := s.hostBytes (s.arg 0) 64
    let h := s.hostBytes (recField r 16 8) (recField r 24 4)
    let good := w ≠ 0 ∧ s.worldRecordLegal r = true ∧ handlerLegal h = true
    (good → s.health.debug = false → s.worldAlive w = false →
      s.freeOfWork ((List.range 8).filter (fun d => recField r 0 1 / 2 ^ d % 2 = 1)) = true →
      (∀ d < 8, recField r 0 1 / 2 ^ d % 2 = 1 → d ∈ s.partition 0) →
      ∃ t, exec .createWorld s = .next t ∧ Answered t a 0 ∧ (t.world w).alive = true ∧ (t.world w).record = r
        ∧ (t.world w).handler = h ∧ (t.world w).ptroot = some (recField r 8 8) ∧ (t.world w).frames = []
        ∧ ∀ d < 8, recField r 0 1 / 2 ^ d % 2 = 1 → (t.die d).wid = w)
    ∧ (¬ good → ∃ t, exec .createWorld s = .next t ∧ Answered t a 3 ∧ t.worlds = s.worlds)
    ∧ (good → s.health.debug = true → ∃ t, exec .createWorld s = .next t ∧ Answered t a 8 ∧ t.worlds = s.worlds) := by
  intro w r h good
  have runs : exec .createWorld s = .next (if (w = 0 || !s.worldRecordLegal r || !handlerLegal h) = true then s.answer 3
      else if s.health.debug then s.answer 8
      else if s.worldAlive w then s.answer 1
      else if (!s.freeOfWork ((List.range 8).filter (fun d => recField r 0 1 / 2 ^ d % 2 = 1))
          || !((List.range 8).all (fun d => recField r 0 1 / 2 ^ d % 2 != 1 || (s.partition 0).contains d))) = true then s.answer 2
      else (s.makeWorld w r h).answer 0) := congrArg Host.Outcome.next (State.serving_requested asked _)
  have passes : good → (w = 0 || !s.worldRecordLegal r || !handlerLegal h) = false := by
    rintro ⟨h1, h2, h3⟩
    simp [h1, h2, h3]
  refine ⟨fun ok locked new free here => ⟨_, runs, ?_⟩, fun bad => ⟨_, runs, ?_⟩, fun ok debug => ⟨_, runs, ?_⟩⟩
  · have idle : ((List.range 8).all (fun d => recField r 0 1 / 2 ^ d % 2 != 1 || (s.partition 0).contains d)) = true := by
      refine List.all_eq_true.2 fun d hd => ?_
      rw [Bool.or_eq_true, bne_iff_ne, List.contains_iff_mem]
      by_cases bit : recField r 0 1 / 2 ^ d % 2 = 1
      · exact .inr (here d (by simpa using hd) bit)
      · exact .inl bit
    simp only [passes ok, locked, new, free, idle, Bool.false_eq_true, if_false, Bool.not_true, Bool.or_self]
    obtain ⟨mailbox, made⟩ := s.makeWorld_facts w r h
    refine ⟨asked.answered_after mailbox 0, ?_⟩
    rw [State.answer_world]
    simp only [State.answer_die]
    exact made
  · rw [if_pos]
    · exact asked.answer_kept 3
    · by_contra passed
      exact bad (by simpa [not_or, and_assoc] using passed)
  · rw [if_neg (by simp [passes ok]), if_pos debug]
    exact asked.answer_kept 8

/-- DESTROY_WORLD of a world that is alive leaves it destroyed. -/
theorem destroyed {s : State} {a : Nat} (asked : Requested s 0x02 a) (confidential : s.requestWid ≠ 0) :
    (s.worldAlive s.requestWid = true → ∃ t, exec .destroyWorld s = .next t ∧ Answered t a 0 ∧ Gone t s.requestWid)
    ∧ (s.worldAlive s.requestWid = false → ∃ t, exec .destroyWorld s = .next t ∧ Answered t a 3 ∧ t.worlds = s.worlds) := by
  have runs : exec .destroyWorld s = .next (if (s.requestWid = 0 || !s.worldAlive s.requestWid) = true then s.answer 3
      else (s.someReason.2.destroyWorld s.requestWid s.someReason.1 statusWorld).answer 0) :=
    congrArg Host.Outcome.next (State.serving_requested asked _)
  refine ⟨fun alive => ⟨_, runs, ?_⟩, fun dead => ⟨_, runs, ?_⟩⟩
  · rw [if_neg (by simp [confidential, alive])]
    exact asked.destroys (by simp) confidential alive statusWorld 0
  · rw [if_pos (by simp [dead])]
    exact asked.answer_kept 3

/-- OFFER adds a frame to a world. -/
theorem offered {s : State} {a : Nat} (asked : Requested s 0x03 a) (confidential : s.requestWid ≠ 0)
    (alive : s.worldAlive s.requestWid = true) (small : s.arg 1 ≤ 11) (aligned : s.arg 0 % pageBytes (s.arg 1) = 0)
    (pool : s.inPool s.requestWid (s.arg 0) (pageBytes (s.arg 1)) = true) :
    ∃ t, exec .offer s = .next t ∧ Answered t a 0
      ∧ (t.world s.requestWid).frames = (s.world s.requestWid).frames ++ [{ pa := s.arg 0, size := s.arg 1 }] := by
  let w := s.requestWid
  let x := (s.scrub (s.arg 0) (pageBytes (s.arg 1))).modWorld w (fun x => { x with frames := x.frames ++ [{ pa := s.arg 0, size := s.arg 1 }] })
  have runs : exec .offer s = .next ((x.notice w 1 0 (s.arg 0) (s.arg 1)).answer 0) := by
    refine congrArg Host.Outcome.next ((State.serving_requested asked _).trans (if_neg ?_))
    simp [confidential, alive, aligned, pool, Nat.not_lt.2 small]
  have scrubbed := MemMoves.scrub s (s.arg 0) (pageBytes (s.arg 1))
  refine ⟨_, runs, asked.answered_after ((State.notice_mailbox x _ _ _ _ _).trans scrubbed.mailbox) 0, ?_⟩
  obtain ⟨_, told⟩ := State.notice_world x w 1 0 (s.arg 0) (s.arg 1) w
  rw [State.answer_world, told, State.world_modWorld_same, scrubbed.world]

/-- RECLAIM asks a world for a frame, once. -/
theorem reclaimed {s : State} {a : Nat} {f : Frame} (asked : Requested s 0x04 a)
    (frame : (s.world s.requestWid).frame (s.arg 0) = some f) :
    (f.asked = false → ∃ t, exec .reclaim s = .next t ∧ t.mailbox = s.mailbox
      ∧ ∀ g ∈ (t.world s.requestWid).frames, g.pa = s.arg 0 → g.asked = true)
    ∧ (f.asked = true → ∃ t, exec .reclaim s = .next t ∧ Answered t a 3 ∧ t.worlds = s.worlds) := by
  let w := s.requestWid
  let x := s.modWorld w (fun x => { x with frames := x.frames.map (fun g => if g.pa = f.pa then { g with asked := true } else g) })
  have runs : exec .reclaim s = .next (if f.asked then s.answer 3 else x.notice w 2 0 f.pa 0) := by
    refine congrArg Host.Outcome.next ((State.serving_requested asked _).trans ?_)
    simp only [frame]
    rfl
  refine ⟨fun fresh => ⟨_, runs, ?_⟩, fun open_ => ⟨_, runs, ?_⟩⟩
  · simp only [fresh, Bool.false_eq_true, if_false]
    refine ⟨State.notice_mailbox x _ _ _ _ _, ?_⟩
    obtain ⟨_, told⟩ := State.notice_world x w 2 0 f.pa 0 w
    rw [told, State.world_modWorld_same]
    intro g hg pa
    obtain ⟨h, -, rfl⟩ := List.mem_map.1 hg
    split
    · rfl
    · rename_i other
      rw [if_neg other] at pa
      exact absurd (pa.trans (World.frame_pa frame).symm) other
  · rw [if_pos open_]
    exact asked.answer_kept 3

/-- FORCE destroys the world that holds the frame. -/
theorem forced {s : State} {a : Nat} (asked : Requested s 0x05 a) (confidential : s.requestWid ≠ 0) :
    (s.worldAlive s.requestWid = true → ((s.world s.requestWid).frame (s.arg 0)).isSome = true →
      ∃ t, exec .force s = .next t ∧ Answered t a 0 ∧ Gone t s.requestWid)
    ∧ ((s.world s.requestWid).frame (s.arg 0) = none → ∃ t, exec .force s = .next t ∧ Answered t a 3 ∧ t.worlds = s.worlds) := by
  have runs : exec .force s = .next (if (((s.world s.requestWid).frame (s.arg 0)).isSome && s.requestWid != 0) = true then
      (s.someReason.2.destroyWorld s.requestWid s.someReason.1 statusWorld).answer 0 else s.answer 3) :=
    congrArg Host.Outcome.next (State.serving_requested asked _)
  refine ⟨fun alive held => ⟨_, runs, ?_⟩, fun none_ => ⟨_, runs, ?_⟩⟩
  · rw [if_pos (by simp [held, confidential])]
    exact asked.destroys (by simp) confidential alive statusWorld 0
  · rw [if_neg (by simp [none_])]
    exact asked.answer_kept 3

/-- ACCEPT gives an asked frame back to the host. -/
theorem accepted {s s1 : State} {w res pa arg : Nat} {f : Frame} (took : Took s s1 w 1 res pa arg)
    (frame : (s1.world w).frame pa = some f) (asked : f.asked = true) :
    ∃ t, exec .accept s = .next t ∧ (∀ g ∈ (t.world w).frames, g.pa ≠ pa)
      ∧ (∀ a, s.mailbox.busy = some a → s1.reclaiming w pa = true → Answered t a 0) := by
  have runs : exec .accept s = .next (if s1.reclaiming w pa then (s1.releaseFrame w f).answer 0 else s1.releaseFrame w f) := by
    refine congrArg Host.Outcome.next ((State.takeRequest_took took _).trans ?_)
    simp only [frame, asked, if_true]
  have left : ∀ g ∈ ((s1.releaseFrame w f).world w).frames, g.pa ≠ pa := by
    rw [State.releaseFrame_world]
    intro g hg
    have := (List.mem_filter.1 hg).2
    rw [World.frame_pa frame] at this
    simpa using this
  have mailbox : (s1.releaseFrame w f).mailbox = s.mailbox := by
    rw [State.releaseFrame_mailbox, took.2.2, State.passRequest_mailbox]
  refine ⟨_, runs, ?_, fun a busy waits => ?_⟩
  · split
    · rw [State.answer_world]
      exact left
    · exact left
  · rw [if_pos waits]
    exact State.answer_answered ((congrArg Mailbox.busy mailbox).trans busy) 0

/-- REFUSE keeps an asked frame, which is asked for no longer. -/
theorem refused {s s1 : State} {w res pa arg : Nat} {f : Frame} (took : Took s s1 w 2 res pa arg)
    (frame : (s1.world w).frame pa = some f) (asked : f.asked = true) :
    ∃ t, exec .refuse s = .next t ∧ (∀ g ∈ (t.world w).frames, g.pa = pa → g.asked = false)
      ∧ (t.world w).frames.length = (s1.world w).frames.length
      ∧ (∀ a, s.mailbox.busy = some a → s1.reclaiming w pa = true → Answered t a 4) := by
  let x := s1.modWorld w (fun x => { x with frames := x.frames.map (fun g => if g.pa = pa then { g with asked := false } else g) })
  have runs : exec .refuse s = .next (if s1.reclaiming w pa then x.answer 4 else x) := by
    refine congrArg Host.Outcome.next ((State.takeRequest_took took _).trans ?_)
    simp only [frame, asked, if_true]
    rfl
  have world : (if s1.reclaiming w pa then x.answer 4 else x).world w = { s1.world w with
      frames := (s1.world w).frames.map (fun g => if g.pa = pa then { g with asked := false } else g) } := by
    split
    · rw [State.answer_world, State.world_modWorld_same]
    · rw [State.world_modWorld_same]
  refine ⟨_, runs, ?_, ?_, fun a busy waits => ?_⟩
  · rw [world]
    intro g hg here
    obtain ⟨h, -, rfl⟩ := List.mem_map.1 hg
    split
    · rfl
    · rename_i other
      rw [if_neg other] at here
      exact absurd here other
  · rw [world]
    exact List.length_map _
  · rw [if_pos waits]
    refine State.answer_answered (Eq.trans ?_ busy) 4
    change s1.mailbox.busy = _
    rw [took.2.2, State.passRequest_mailbox]

/-- IMPORT_PAGE takes back what the world has exported, or destroys the world. -/
theorem imported {s : State} {a : Nat} (asked : Requested s 0x06 a) (confidential : s.requestWid ≠ 0)
    (alive : s.worldAlive s.requestWid = true) :
    let w := s.requestWid
    let h := s.hostBytes (s.arg 0) 64
    let eid := recField h 8 8
    let ver := recField h 16 8
    let size := recField h 5 1
    let known := decide (recField h 0 4 = exportMagic) && recField h 4 1 == w && zeroBytes h 6 2 && zeroBytes h 24 40
      && (s.world w).exports.any (fun e => e.1 == eid && e.2.1 == ver && e.2.2 == size)
    let plain := s.openRecord (s.world w).keys eid ver size (s.arg 0) (pageBytes size / 256) 0
    size ≤ 11 → s.arg 1 % pageBytes size = 0 → s.inPool w (s.arg 1) (pageBytes size) = true →
    (known = true → plain ≠ none → ∃ t, exec .importPage s = .next t ∧ Answered t a 0
      ∧ (t.world w).frames = (s.world w).frames ++ [{ pa := s.arg 1, size := size }]
      ∧ (∀ e ∈ (t.world w).exports, e.1 = eid → e.2.1 ≠ ver))
    ∧ (known = false ∨ plain = none → ∃ t, exec .importPage s = .next t ∧ Answered t a 5 ∧ Gone t w) := by
  intro w h eid ver size known plain small aligned pool
  have good : (w = 0 || !s.worldAlive w || decide (11 < size) || s.arg 1 % pageBytes size != 0
      || !s.inPool w (s.arg 1) (pageBytes size)) = false := by
    have set : decide (w = 0) = false := by simpa using confidential
    rw [set, show s.worldAlive w = true from alive, pool, aligned]
    simpa using small
  have runs : exec .importPage s = .next (match (if known then plain else none) with
      | none => (s.someReason.2.destroyWorld w s.someReason.1 Cause.integrity.code.toNat).answer 5
      | some bs => ((s.takeBack w (s.arg 1) eid ver size bs).notice w 4 0 (s.arg 1) eid).answer 0) := by
    refine congrArg Host.Outcome.next ((State.serving_requested asked _).trans ((if_neg (by simpa using good)).trans ?_))
    have same : (decide (recField h 0 4 = exportMagic) && recField h 4 1 == w
        && (s.world w).exports.any (fun e => e.1 == eid && e.2.1 == ver && e.2.2 == size) && zeroBytes h 6 2 && zeroBytes h 24 40)
        = known := by
      simp only [known, Bool.and_assoc, Bool.and_comm, Bool.and_left_comm]
    rw [← same]
    rfl
  refine ⟨fun yes opens => ?_, fun no => ?_⟩
  · obtain ⟨bs, open_⟩ := Option.ne_none_iff_exists'.1 opens
    rw [if_pos yes, open_] at runs
    obtain ⟨u, moves, eq⟩ := s.takeBack_eq w (s.arg 1) eid ver size bs
    have mailbox : (s.takeBack w (s.arg 1) eid ver size bs).mailbox = s.mailbox := by
      rw [eq]
      exact moves.mailbox
    obtain ⟨_, told⟩ := State.notice_world (s.takeBack w (s.arg 1) eid ver size bs) w 4 0 (s.arg 1) eid w
    refine ⟨_, runs, asked.answered_after ((State.notice_mailbox _ _ _ _ _ _).trans mailbox) 0, ?_, ?_⟩
    · rw [State.answer_world, told, eq, State.world_modWorld_same, moves.world]
    · rw [State.answer_world, told, eq, State.world_modWorld_same]
      intro e he is
      have := (List.mem_filter.1 he).2
      simpa [is] using this
  · have none_ : (if known then plain else none) = none := by
      split
      · rename_i yes
        exact no.resolve_left (by simp [yes])
      · rfl
    rw [none_] at runs
    exact ⟨_, runs, asked.destroys (by simp) confidential alive _ 5⟩

/-- EXPORT_PAGE gives a frame up for a sealed record of it. -/
theorem exported {s s1 : State} {w res pa ha : Nat} {f : Frame} (took : Took s s1 w 3 res pa ha)
    (frame : (s1.world w).frame pa = some f) (kept : f.asked = false) (room : (s1.world w).exports.length < 2 ^ 20) :
    ∃ t, exec .exportPage s = .next t ∧ (∀ g ∈ (t.world w).frames, g.pa ≠ pa)
      ∧ (t.world w).exportCount = (s1.world w).exportCount + 1
      ∧ (t.world w).exports = (s1.world w).exports ++ [(pa, (s1.world w).exportCount + 1, f.size)]
      ∧ (s.hostDown = false →
        let u := (s1.cores.map Prod.fst).foldl State.cleanL1 s1
        let ver := (s1.world w).exportCount + 1
        t.hostBytes ha 64 = exportHeader w f.size pa ver
          ∧ ∀ e < pageBytes f.size / 256, t.hostBytes (ha + 64 + 264 * e) 264
            = sealEntry (s1.world w).keys pa ver f.size e (u.frameBlock pa e)) := by
  let u := s1.sealFrame (s1.world w) w pa ha f
  let ver := (s1.world w).exportCount + 1
  let v := (u.releaseFrame w f).modWorld w (fun x => { x with exports := x.exports ++ [(pa, ver, f.size)], exportCount := ver })
  have runs : exec .exportPage s = .next (v.notice w 3 0 pa ver) := by
    refine congrArg Host.Outcome.next ((State.takeRequest_took took _).trans ?_)
    simp only [frame, kept, Bool.false_eq_true, if_false, if_neg (Nat.not_le.2 room)]
    rfl
  obtain ⟨_, told⟩ := State.notice_world v w 3 0 pa ver w
  have world : v.world w = { s1.world w with
      frames := (s1.world w).frames.filter (fun g => g.pa != pa)
      exports := (s1.world w).exports ++ [(pa, ver, f.size)], exportCount := ver } := by
    have frames := (State.releaseFrame_world u w f).trans (by rw [(MemMoves.sealFrame s1 (s1.world w) w pa ha f).world])
    rw [World.frame_pa frame] at frames
    exact (State.world_modWorld_same _ w _).trans (by rw [frames])
  refine ⟨_, runs, ?_, ?_, ?_, fun up => ?_⟩
  · rw [told, world]
    intro g hg
    simpa using (List.mem_filter.1 hg).2
  · rw [told, world]
  · rw [told, world]
  · have hup : s1.hostDown = false := by rw [took.2.2, State.passRequest_hostDown, up]
    obtain ⟨clean, header, entries⟩ := State.sealFrame_bytes hup (s1.world w) w pa ha f
    obtain ⟨after, same⟩ := State.releaseFrame_clean clean w f
    obtain ⟨settled, kept⟩ := State.modWorld_clean after w (fun x => { x with exports := x.exports ++ [(pa, ver, f.size)], exportCount := ver })
    have host := ((State.notice_hostMem settled w 3 0 pa ver).trans kept).trans same
    exact ⟨(congrArg (fun m : Mem => m.bytes ha 64) host).trans header,
      fun e he => (congrArg (fun m : Mem => m.bytes (ha + 64 + 264 * e) 264) host).trans (entries e he)⟩

/-- Settles O57: the checks of each request in order, the world that is made or destroyed, and the frames and exports
that change hands. -/
theorem worldsAndFrames : Obligations.WorldsAndFrames := by
  unfold Obligations.WorldsAndFrames
  refine ⟨⟨fun s a asked => created asked, fun s a asked confidential => destroyed asked confidential,
      fun s a asked confidential alive small aligned pool => offered asked confidential alive small aligned pool,
      fun s a f asked frame => (reclaimed asked frame).1, fun s a f asked frame => (reclaimed asked frame).2,
      fun s a asked confidential => forced asked confidential⟩,
    fun s s1 w res pa arg f took frame asked => accepted took frame asked,
    fun s s1 w res pa arg f took frame asked => refused took frame asked,
    fun s s1 w res pa ha f took frame kept room => exported took frame kept room,
    fun s a asked confidential alive => imported asked confidential alive⟩

end Sys2Proof.Statements
end

section
/-! SUPPORT. Resets, frequency classes, retirement and the debug freeze (R386 to R390). -/

namespace Sys2Proof.Machine

open Sys2Proof.Statements

/-! ## Worlds that are destroyed -/

/-- The device stays what it is; its mailbox may have answered. -/
def SameDevice (s t : State) : Prop := SamePackage s { t with mailbox := s.mailbox }

theorem SameDevice.trans {s t u : State} (h : SameDevice s t) (g : SameDevice t u) : SameDevice s u :=
  ⟨rfl, g.firmware.trans h.firmware, g.deadCores.trans h.deadCores, g.retiredCores.trans h.retiredCores,
    g.deadDies.trans h.deadDies, g.retiredDies.trans h.retiredDies, g.health.trans h.health, fun w hw => g.dead w (h.dead w hw),
    g.cycle.trans h.cycle, fun m hm => h.flying m (g.flying m hm)⟩

theorem SamePackage.sameDevice {s t : State} (h : SamePackage s t) : SameDevice s t :=
  ⟨rfl, h.firmware, h.deadCores, h.retiredCores, h.deadDies, h.retiredDies, h.health, h.dead, h.cycle, h.flying⟩

theorem SameDevice.foldl {α : Type} {f : State → α → State} (hf : ∀ s a, SameDevice s (f s a)) (l : List α) (s : State) :
    SameDevice s (l.foldl f s) := by
  induction l generalizing s with
  | nil => exact (SamePackage.refl s).sameDevice
  | cons a l ih => exact (hf s a).trans (ih _)

theorem SameDevice.answer (s : State) (code : Nat) : SameDevice s (s.answer code) := by
  obtain ⟨u, moves, same | ⟨_, same⟩⟩ := s.answer_kept code
  · rw [same]
    exact moves.onlyEmpties.samePackage.sameDevice
  · rw [same]
    exact moves.onlyEmpties.samePackage.sameDevice

theorem SameDevice.destroyWorld (s : State) (w reason running : Nat) : SameDevice s (s.destroyWorld w reason running) := by
  by_cases h : w = 0 ∨ (s.world w).alive = false
  · unfold State.destroyWorld
    rw [if_pos (by simpa using h)]
    exact (SamePackage.refl s).sameDevice
  · simp only [not_or, Bool.not_eq_false] at h
    obtain ⟨u, same, -, eq⟩ := State.destroyWorld_alive h.1 h.2 reason running
    rw [eq]
    split
    · exact same.sameDevice.trans (.answer u 0)
    · exact same.sameDevice

/-- Whether it was alive or not, a confidential world that is destroyed is dead. -/
theorem State.destroyWorld_dead {s : State} {w : Nat} (confidential : w ≠ 0) (reason running : Nat) :
    ((s.destroyWorld w reason running).world w).alive = false := by
  cases alive : (s.world w).alive with
  | true => exact (State.destroyWorld_gone confidential alive reason running).1
  | false => exact (SameDevice.destroyWorld s w reason running).dead w alive

theorem destroyed_dead {ws : List Nat} (confidential : ∀ w ∈ ws, w ≠ 0) (reason running : Nat) {w : Nat} {s : State}
    (h : w ∈ ws ∨ (s.world w).alive = false) :
    ((ws.foldl (fun s w => s.destroyWorld w reason running) s).world w).alive = false := by
  induction ws generalizing s with
  | nil => exact h.resolve_left (by simp)
  | cons v ws ih =>
    refine ih (fun w hw => confidential w (List.mem_cons_of_mem _ hw)) ?_
    by_cases mine : w = v
    · subst mine
      exact .inr (State.destroyWorld_dead (confidential w List.mem_cons_self) _ _)
    · exact h.imp (fun h => (List.mem_cons.1 h).resolve_left mine) fun h => (SameDevice.destroyWorld s v reason running).dead w h

theorem State.mem_confidential_ne {s : State} {w : Nat} (h : w ∈ s.confidential) : w ≠ 0 := by
  obtain ⟨e, he, rfl⟩ := List.mem_map.1 h
  have := (List.mem_filter.1 he).2
  simp only [Bool.and_eq_true, bne_iff_ne] at this
  exact this.1

/-! ## The dies of a list -/

/-- Each die of a list is changed once. -/
theorem State.die_foldl_modDie (f : Die → Die) {l : List Nat} (once : l.Nodup) (s : State) (d : Nat) :
    (l.foldl (fun s d => s.modDie d f) s).die d = if d ∈ l then f (s.die d) else s.die d := by
  induction l generalizing s with
  | nil => rfl
  | cons e l ih =>
    obtain ⟨new, once⟩ := List.nodup_cons.1 once
    rw [List.foldl_cons, ih once]
    by_cases mine : d = e
    · subst mine
      rw [if_neg new, if_pos List.mem_cons_self]
      exact State.die_setDie_same s d _
    · have other : (s.modDie e f).die d = s.die d := State.die_setDie_ne s _ mine
      rw [other]
      simp only [List.mem_cons, mine, false_or]

theorem modDies_fields (f : Die → Die) (l : List Nat) (s : State) :
    ∃ dies, l.foldl (fun s d => s.modDie d f) s = { s with dies := dies } := by
  induction l generalizing s with
  | nil => exact ⟨s.dies, rfl⟩
  | cons d l ih =>
    obtain ⟨_, h⟩ := ih (s.modDie d f)
    exact ⟨_, h⟩

/-- Only steps to come, and the free choices that date them, have changed. -/
def OnlyPlans (s t : State) : Prop := ∃ agenda draws, t = { s with agenda := agenda, draws := draws }

theorem OnlyPlans.trans {s t u : State} (h : OnlyPlans s t) (g : OnlyPlans t u) : OnlyPlans s u := by
  obtain ⟨_, _, rfl⟩ := h
  obtain ⟨_, _, rfl⟩ := g
  exact ⟨_, _, rfl⟩

theorem OnlyPlans.foldl {α : Type} {f : State → α → State} (hf : ∀ s a, OnlyPlans s (f s a)) (l : List α) (s : State) :
    OnlyPlans s (l.foldl f s) := by
  induction l generalizing s with
  | nil => exact ⟨_, _, rfl⟩
  | cons a l ih => exact (hf s a).trans (ih _)

theorem OnlyPlans.changeClasses (s : State) : OnlyPlans s s.changeClasses := by
  refine .foldl (fun u w => ?_) _ s
  split
  · exact ⟨_, _, rfl⟩
  · exact ⟨_, _, rfl⟩

/-! ## Resets -/

/-- Only queues, packets and steps to come have changed. -/
def OnlyQueueing (s t : State) : Prop := ∃ queues packets agenda, t = { s with queues := queues, packets := packets, agenda := agenda }

theorem OnlyQueueing.refl (s : State) : OnlyQueueing s s := ⟨_, _, _, rfl⟩

theorem OnlyQueueing.trans {s t u : State} (h : OnlyQueueing s t) (g : OnlyQueueing t u) : OnlyQueueing s u := by
  obtain ⟨_, _, _, rfl⟩ := h
  obtain ⟨_, _, _, rfl⟩ := g
  exact ⟨_, _, _, rfl⟩

theorem OnlyQueueing.foldl {α : Type} {f : State → α → State} (hf : ∀ s a, OnlyQueueing s (f s a)) (l : List α) (s : State) :
    OnlyQueueing s (l.foldl f s) := by
  induction l generalizing s with
  | nil => exact .refl s
  | cons a l ih => exact (hf s a).trans (ih _)

theorem OnlyQueueing.checkDrain (s : State) (q : Nat) : OnlyQueueing s (s.checkDrain q) := by
  unfold State.checkDrain
  split
  · split
    · exact ⟨_, _, _, rfl⟩
    · exact .refl s
  · exact .refl s

/-- Queues that are saved are restored with their packets; nothing else changes, but for steps to come. -/
theorem OnlyQueueing.restoreQueues (s : State) : OnlyQueueing { s with savedQueues := [] } s.restoreQueues := by
  refine .foldl (fun u x => ?_) _ _
  refine OnlyQueueing.trans ?_ (.checkDrain _ _)
  exact OnlyQueueing.trans ⟨_, _, _, rfl⟩ (.foldl (fun v p => ⟨_, _, _, rfl⟩) _ _)

theorem State.restoreQueues_none {s : State} (h : s.savedQueues = []) : s.restoreQueues = { s with savedQueues := [] } := by
  unfold State.restoreQueues
  rw [h]
  rfl

/-- The ports of the fabric are trained again. -/
def State.retrain (r : State) (pkgid : Byte) (others : List Nat) : State :=
  if pkgid = 0xFF then { r with unreachable := others }
  else others.foldl (fun r p => r.schedule r.cycle .fabricPathDown [p, 0]) r

theorem State.retrain_fields (r : State) (pkgid : Byte) (others : List Nat) :
    ∃ unreachable agenda, r.retrain pkgid others = { r with unreachable := unreachable, agenda := agenda } := by
  have each : ∀ (l : List Nat) (u : State), ∃ agenda, l.foldl (fun r p => r.schedule r.cycle .fabricPathDown [p, 0]) u
      = { u with agenda := agenda } := by
    intro l
    induction l with
    | nil => exact fun u => ⟨u.agenda, rfl⟩
    | cons p l ih =>
      intro u
      obtain ⟨_, h⟩ := ih (u.schedule u.cycle .fabricPathDown [p, 0])
      exact ⟨_, h⟩
  unfold State.retrain
  split
  · exact ⟨_, r.agenda, rfl⟩
  · obtain ⟨_, h⟩ := each others r
    exact ⟨r.unreachable, _, h⟩

/-- A device reset restarts the package; of its queues those that are saved come back. -/
theorem State.resetDevice_facts (s : State) : (s.resetDevice).pkgid = s.pkgid ∧ (s.resetDevice).slots = []
    ∧ (s.resetDevice).launches = [] ∧ (s.resetDevice).worlds = [] ∧ (s.resetDevice).dram = {} ∧ (s.resetDevice).time = 0
    ∧ (s.resetDevice).retiredCores = s.retiredCores ∧ (s.resetDevice).notices = s.notices
    ∧ (s.resetDevice).firmware = s.firmware ∧ (s.resetDevice).updating = false
    ∧ (s.savedQueues = [] → (s.resetDevice).queues = [] ∧ (s.resetDevice).packets = []) := by
  let r : State := { s.restart with
    pkgid := s.pkgid, savedQueues := s.savedQueues
    health := { s.restart.health with dreq := s.health.dreq, debug := s.health.debug }
    pathsDown := s.otherPackages.map (fun p => (p, 0)) }
  have eq : s.resetDevice = (r.retrain s.pkgid s.otherPackages).restoreQueues := rfl
  obtain ⟨_, _, trained⟩ := r.retrain_fields s.pkgid s.otherPackages
  obtain ⟨_, _, _, restored⟩ := OnlyQueueing.restoreQueues (r.retrain s.pkgid s.otherPackages)
  have h := eq.trans restored
  rw [trained] at h
  refine ⟨(congrArg State.pkgid h).trans rfl, (congrArg State.slots h).trans rfl, (congrArg State.launches h).trans rfl,
    (congrArg State.worlds h).trans rfl, (congrArg State.dram h).trans rfl, (congrArg State.time h).trans rfl,
    (congrArg State.retiredCores h).trans rfl, (congrArg State.notices h).trans rfl, (congrArg State.firmware h).trans rfl,
    (congrArg State.updating h).trans rfl, fun none_ => ?_⟩
  have empty : (r.retrain s.pkgid s.otherPackages).savedQueues = [] := by
    rw [trained]
    exact none_
  rw [eq, State.restoreQueues_none empty, trained]
  exact ⟨rfl, rfl⟩

/-! ## Firmware updates -/

theorem SameDevice.destroyConfidential (s : State) (reason : Nat) : SameDevice s (s.destroyConfidential reason) :=
  .foldl (fun u w => .destroyWorld u w reason statusWorld) _ s

/-! ## Retirement -/

theorem State.destroyRetired_same (s : State) : SameDevice s s.destroyRetired :=
  .foldl (fun u w => .destroyWorld u w 3 statusWorld) _ s

/-- The live map takes in the cores that it is given, and keeps those it had. -/
theorem State.mem_retireCores {s : State} {cores : List Nat} {c : Nat} (hc : c < dieCount * coresPerDie)
    (h : c ∈ cores ∨ c ∈ s.retiredCores) : c ∈ (s.retireCores cores).deadCores := by
  unfold State.retireCores
  rw [List.mem_filter, List.mem_range]
  refine ⟨hc, ?_⟩
  rcases h with h | h
  · simp [h]
  · simp [h]

theorem State.dropStaleImages_deadCores (s : State) : s.dropStaleImages.deadCores = s.deadCores := rfl

theorem abortLaunch_worlds (s : State) (lid : Nat) (v : EndValues) : (s.abortLaunch lid v).worlds = s.worlds := by
  unfold State.abortLaunch
  split
  · rfl
  · split
    · rfl
    · unfold State.modLaunch
      split
      · rfl
      · rfl

end Sys2Proof.Machine

namespace Sys2Proof.Statements

open Sys2Proof.Machine

/-! ## The obligation -/

theorem hotReset_dead (s : State) : ∃ t, exec .hotReset s = .next t ∧ ∀ w ∈ s.confidential, (t.world w).alive = false := by
  refine ⟨_, rfl, fun w hw => ?_⟩
  have dead := destroyed_dead (s := s.someReason.2) (fun w hw => State.mem_confidential_ne hw) s.someReason.1 statusWorld (.inl hw)
  have kept : ∀ (l : List Launch) (u : State), (l.foldl (fun s l =>
      s.abortLaunch l.lid { status := Cause.abort.code.toNat }) u).worlds = u.worlds := by
    intro l
    induction l with
    | nil => exact fun _ => rfl
    | cons x l ih => exact fun u => (ih _).trans (abortLaunch_worlds u x.lid _)
  exact (congrArg (fun m => (Assoc.get worldDefault m w).alive) (kept _ _)).trans dead

theorem firmwareUpdated (s : State) :
    (s.packets.all Packet.waits = true → ∃ t, exec .firmwareUpdate s = .next t ∧ t.firmware = s.firmware + 1
      ∧ t.slots = [] ∧ t.worlds = [] ∧ t.updating = false)
    ∧ (s.packets.all Packet.waits = false → exec .firmwareUpdate s = .next { s with updating := true }) := by
  have runs : exec .firmwareUpdate s = .next (if (s.packets.all Packet.waits) = true then
      ({ ((({ s with updating := true } : State).destroyConfidential 2).saveQueues) with
        firmware := (({ s with updating := true } : State).destroyConfidential 2).firmware + 1 } : State).resetDevice
      else { s with updating := true }) := rfl
  refine ⟨fun ready => ⟨_, runs, ?_⟩, fun busy => runs.trans (by rw [busy]; rfl)⟩
  rw [if_pos ready]
  obtain ⟨-, slots, -, worlds, -, -, -, -, firmware, updating, -⟩ := State.resetDevice_facts
    { ((({ s with updating := true } : State).destroyConfidential 2).saveQueues) with
        firmware := (({ s with updating := true } : State).destroyConfidential 2).firmware + 1 }
  refine ⟨firmware.trans (congrArg (· + 1) ?_), slots, worlds, updating⟩
  exact (SameDevice.destroyConfidential { s with updating := true } 2).firmware

/-- Every die's ceiling is changed, and classes are to follow. -/
theorem ceilings (f : Die → Die) (throt : Bool) (s : State) :
    let u := (List.range dieCount).foldl (fun s d => s.modDie d f) s
    let t := ({ u with health := { u.health with throt := throt } } : State).changeClasses
    t.health.throt = throt ∧ ∀ d < 8, t.die d = f (s.die d) := by
  intro u t
  have die := fun d => State.die_foldl_modDie f (l := List.range dieCount) List.nodup_range s d
  change ∀ d, u.die d = _ at die
  obtain ⟨_, _, plans⟩ := OnlyPlans.changeClasses { u with health := { u.health with throt := throt } }
  change t = _ at plans
  clear_value t u
  subst plans
  exact ⟨rfl, fun d hd => (die d).trans (if_pos (List.mem_range.2 hd))⟩

theorem throttled (s : State) : ∃ t, exec .throttle s = .next t ∧ t.health.throt = true
    ∧ ∀ d < 8, (t.die d).ceiling = some (lowerClass (s.die d).target) ∧ (t.die d).fclass = (s.die d).fclass := by
  obtain ⟨throt, dies⟩ := ceilings (fun x => { x with ceiling := some (lowerClass x.target) }) true s
  exact ⟨_, rfl, throt, fun d hd => ⟨(congrArg Die.ceiling (dies d hd)).trans rfl, (congrArg Die.fclass (dies d hd)).trans rfl⟩⟩

theorem unthrottled (s : State) : ∃ t, exec .unthrottle s = .next t ∧ t.health.throt = false ∧ ∀ d < 8, (t.die d).ceiling = none := by
  obtain ⟨throt, dies⟩ := ceilings (fun x => { x with ceiling := none }) false s
  exact ⟨_, rfl, throt, fun d hd => congrArg Die.ceiling (dies d hd)⟩

theorem classChanged {s : State} {w : Nat} (subject : s.subject = [w]) :
    ∃ t, exec .frequencyClassChange s = .next t ∧ ∀ d ∈ s.partition w, (t.die d).fclass = (s.die d).target := by
  let f : Die → Die := fun x => { x with fclass := x.target }
  let u := (s.partition w).foldl (fun s d => s.modDie d f) s
  have runs : exec .frequencyClassChange s = .next
      ((u.classWaiters w).foldl (fun s p => s.schedule s.cycle .launchLoad [p.id]) u) := by
    simp only [exec, execFrequencyClassChange, subject]
    rfl
  obtain ⟨_, _, plans⟩ := OnlyPlans.foldl (f := fun (s : State) (p : Packet) => s.schedule s.cycle .launchLoad [p.id])
    (fun _ _ => ⟨_, _, rfl⟩) (u.classWaiters w) u
  refine ⟨_, runs, fun d hd => ?_⟩
  have die := State.die_foldl_modDie f (List.nodup_range.filter _) s d (l := s.partition w)
  rw [if_pos hd] at die
  exact ((congrArg (fun t : State => (t.die d).fclass) plans).trans (congrArg Die.fclass die)).trans rfl

theorem poweredOn (s : State) (pkgid : Byte) : ∃ t, exec (.powerOnReset pkgid) s = .next t ∧ t.pkgid = pkgid ∧ t.slots = []
    ∧ t.launches = [] ∧ t.queues = [] ∧ t.worlds = [] ∧ t.dram = {} ∧ t.frozen = false ∧ t.time = 0
    ∧ t.retiredCores = s.retiredCores ∧ t.deadCores = s.retiredCores ∧ t.notices = s.notices := by
  have restarted : ∃ unreachable, exec (.powerOnReset pkgid) s = .next { s.restart with pkgid := pkgid, unreachable := unreachable } := by
    simp only [exec, execPowerOnReset]
    split
    · exact ⟨_, rfl⟩
    · exact ⟨_, rfl⟩
  obtain ⟨_, runs⟩ := restarted
  exact ⟨_, runs, rfl, rfl, rfl, rfl, rfl, rfl, rfl, rfl, rfl, rfl, rfl⟩

/-- What is due for retirement is due. -/
theorem wearDue_of {s : State} (due : s.dueCores ≠ [] ∨ s.dueDies ≠ []) : s.wearDue = true := by
  unfold State.wearDue
  rcases due with h | h
  · simp [h]
  · simp [h]

theorem mapChanged {s : State} (due : s.dueCores ≠ [] ∨ s.dueDies ≠ []) (moment : s.mapMoment = true) :
    ∃ t, exec .liveMapChange s = .next t
      ∧ (∀ d < 8, d ∈ s.dueDies → d ∈ t.deadDies ∧ d ∈ t.retiredDies)
      ∧ (∀ c < 8 * 288, c ∈ s.dueCores ∨ c ∈ s.retiredCores → c ∈ t.deadCores) ∧ t.deadCores = t.retiredCores
      ∧ (∀ d ∈ t.deadDies, (t.die d).valid = false) ∧ t.health.dreq = true := by
  let u := (s.retireCores s.dueCores).dropStaleImages
  let f : Die → Die := fun x => { x with valid := false }
  have runs : exec .liveMapChange s = .next u.destroyRetired.freeDead := by
    refine congrArg Host.Outcome.next ((if_neg (by simp [wearDue_of due])).trans (if_pos moment))
  have same := State.destroyRetired_same u
  obtain ⟨_, freed⟩ := modDies_fields f u.destroyRetired.deadDies u.destroyRetired
  have dead : u.destroyRetired.freeDead.deadDies = u.deadDies := (congrArg State.deadDies freed).trans same.deadDies
  have gone : u.destroyRetired.freeDead.retiredDies = u.deadDies := (congrArg State.retiredDies freed).trans same.retiredDies
  refine ⟨_, runs, fun d hd due => ?_, fun c hc due => ?_, ?_, fun d hd => ?_, ?_⟩
  · have mem : d ∈ u.deadDies := by
      refine List.mem_filter.2 ⟨List.mem_range.2 hd, ?_⟩
      have := (List.mem_filter.1 due).1
      simp [this]
    exact ⟨dead.symm ▸ mem, gone.symm ▸ mem⟩
  · have cores := ((congrArg State.deadCores freed).trans same.deadCores).trans (State.dropStaleImages_deadCores _)
    exact cores.symm ▸ State.mem_retireCores hc due
  · exact ((congrArg State.deadCores freed).trans same.deadCores).trans ((congrArg State.retiredCores freed).trans same.retiredCores).symm
  · have once : u.destroyRetired.deadDies.Nodup := by
      rw [same.deadDies.trans rfl]
      exact List.nodup_range.filter _
    refine (congrArg Die.valid (State.die_foldl_modDie f once u.destroyRetired d)).trans ?_
    rw [if_pos (by rw [dead] at hd; rw [same.deadDies.trans rfl]; exact hd)]
  · exact (congrArg (fun t : State => t.health.dreq) freed).trans (congrArg Health.dreq same.health)

/-- Settles O60: what each reset leaves, how classes change, what is retired, and the freeze. -/
theorem resetsClassesAndWear : Obligations.ResetsClassesAndWear := by
  unfold Obligations.ResetsClassesAndWear
  refine ⟨fun s vf bound alive => ⟨_, congrArg Host.Outcome.next (if_neg bound), ?_⟩, hotReset_dead, poweredOn, fun s => ?_,
    firmwareUpdated, fun s w => classChanged, throttled, unthrottled, fun s due open_ => ?_,
    fun s due moment => mapChanged due moment, fun s => ⟨fun debug => ?_, fun locked => congrArg Host.Outcome.next (if_neg (by simp [locked]))⟩⟩
  · exact State.destroyWorld_gone (s := s.someReason.2) bound alive _ _
  · obtain ⟨pkgid, slots, launches, worlds, dram, time, cores, notices, -, -, queues⟩ := s.resetDevice_facts
    exact ⟨_, rfl, pkgid, slots, launches, worlds, dram, time, cores, notices, queues⟩
  · refine ⟨_, congrArg Host.Outcome.next (if_neg ?_), agenda_schedule _ _ _ _⟩
    simp [wearDue_of due, open_]
  · exact ⟨{ s with frozen := true }, congrArg Host.Outcome.next (if_pos debug), rfl, step_frozen_iff rfl⟩

end Sys2Proof.Statements
end

section
/-! SUPPORT. The loading of launches (R347). -/

namespace Sys2Proof.Machine

open Sys2Proof.Statements

/-! ## Front-end work that only reads -/

/-- Front-end work that changes no more than walks of page tables do. -/
def Front.OnlyWalks {α : Type} (a : Front α) : Prop := ∀ s x t, a s = .ok (x, t) → Walks s t

theorem Front.bind_inv {α β : Type} {a : Front α} {f : α → Front β} {s : State} {y : β} {t : State} (h : (a >>= f) s = .ok (y, t)) :
    ∃ x u, a s = .ok (x, u) ∧ f x u = .ok (y, t) := by
  cases hr : a s with
  | error e =>
    rw [Front.bind_error hr] at h
    cases h
  | ok r => exact ⟨r.1, r.2, rfl, by rwa [Front.bind_ok (x := r.1) (t := r.2) hr] at h⟩

theorem Front.onlyWalks_pure {α : Type} (x : α) : Front.OnlyWalks (pure x) := by
  intro s y t h
  cases h
  exact .refl s

theorem Front.onlyWalks_fail {α : Type} (status code : Nat) : Front.OnlyWalks (Front.fail status code : Front α) := by
  intro s y t h
  cases h

theorem Front.onlyWalks_failIf (c : Bool) (status : Nat) : Front.OnlyWalks (Front.failIf c status) := by
  unfold Front.failIf
  split
  · exact Front.onlyWalks_fail _ _
  · exact Front.onlyWalks_pure _

theorem Front.onlyWalks_state : Front.OnlyWalks Front.state := by
  intro s y t h
  cases h
  exact .refl s

theorem Front.onlyWalks_bind {α β : Type} {a : Front α} {f : α → Front β} (ha : Front.OnlyWalks a)
    (hf : ∀ x, Front.OnlyWalks (f x)) : Front.OnlyWalks (a >>= f) := by
  intro s y t h
  obtain ⟨x, u, first, rest⟩ := Front.bind_inv h
  exact (ha s x u first).trans (hf x u y t rest)

theorem frontPlace_onlyWalks (t : Translator) (va : Nat) (write : Bool) : (frontPlace t va write).OnlyWalks := by
  intro s x u h
  have frame := Walks.translate s t va write
  unfold frontPlace at h
  split at h
  next ht =>
    rw [ht] at frame
    cases h
    exact frame.trans ⟨_, _, _, _, _, _, _, _, rfl⟩
  next ht =>
    rw [ht] at frame
    cases h
    exact frame
  · cases h
  · cases h

theorem frontRead_onlyWalks (t : Translator) (va n : Nat) : (frontRead t va n).OnlyWalks := by
  unfold frontRead
  induction cutRange 0x1000 va n with
  | nil => exact Front.onlyWalks_pure _
  | cons r rest ih =>
    exact Front.onlyWalks_bind (frontPlace_onlyWalks _ _ _) fun _ => Front.onlyWalks_bind Front.onlyWalks_state fun _ =>
      Front.onlyWalks_bind ih fun _ => Front.onlyWalks_pure _

theorem frontClean_onlyWalks (t : Translator) (va n : Nat) : (frontClean t va n).OnlyWalks :=
  Front.onlyWalks_bind (frontRead_onlyWalks _ _ _) fun _ => Front.onlyWalks_bind (Front.onlyWalks_failIf _ _) fun _ =>
    Front.onlyWalks_pure _

theorem itemBytes_onlyWalks (t : Translator) (items : List (Nat × Nat × Nat × Nat)) : (itemBytes t items).OnlyWalks := by
  induction items with
  | nil => exact Front.onlyWalks_pure _
  | cons r rest ih =>
    exact Front.onlyWalks_bind (frontRead_onlyWalks _ _ _) fun _ => Front.onlyWalks_bind ih fun _ => Front.onlyWalks_pure _

theorem namedCore_onlyWalks (s : State) (dies : List Nat) (p x y : Nat) : (namedCore s dies p x y).OnlyWalks := by
  unfold namedCore
  split
  · exact Front.onlyWalks_fail _ _
  · exact Front.onlyWalks_bind (Front.onlyWalks_failIf _ _) fun _ => Front.onlyWalks_pure _

theorem placements_onlyWalks (s : State) (dies : List Nat) (es : List DWord) : (placements s dies es).OnlyWalks := by
  induction es with
  | nil => exact Front.onlyWalks_pure _
  | cons e rest ih =>
    exact Front.onlyWalks_bind (namedCore_onlyWalks _ _ _ _ _) fun _ => Front.onlyWalks_bind ih fun _ => Front.onlyWalks_pure _

theorem entryTask_onlyWalks (s : State) (dies : List Nat) (cores : List (Nat × Nat)) (codeLen : Nat) (r : List Byte) :
    (entryTask s dies cores codeLen r).OnlyWalks := by
  refine Front.onlyWalks_bind (Front.onlyWalks_failIf _ _) fun _ => ?_
  dsimp only
  split
  · split
    · exact Front.onlyWalks_bind (Front.onlyWalks_fail _ _) fun _ => Front.onlyWalks_pure _
    · exact Front.onlyWalks_bind (Front.onlyWalks_pure _) fun _ => Front.onlyWalks_pure _
  · exact Front.onlyWalks_bind (namedCore_onlyWalks _ _ _ _ _) fun _ => Front.onlyWalks_pure _

theorem entryTasks_onlyWalks (s : State) (dies : List Nat) (cores : List (Nat × Nat)) (codeLen n : Nat) (table : List Byte) :
    (entryTasks s dies cores codeLen table n).OnlyWalks := by
  induction n generalizing table with
  | zero => exact Front.onlyWalks_pure _
  | succ n ih =>
    exact Front.onlyWalks_bind (entryTask_onlyWalks _ _ _ _ _) fun _ => Front.onlyWalks_bind (ih _) fun _ =>
      Front.onlyWalks_bind (Front.onlyWalks_failIf _ _) fun _ => Front.onlyWalks_pure _

theorem scratchItems_onlyWalks (s : State) (dies : List Nat) (n : Nat) (table : List Byte) :
    (scratchItems s dies table n).OnlyWalks := by
  induction n generalizing table with
  | zero => exact Front.onlyWalks_pure _
  | succ n ih =>
    exact Front.onlyWalks_bind (Front.onlyWalks_failIf _ _) fun _ => Front.onlyWalks_bind (namedCore_onlyWalks _ _ _ _ _) fun _ =>
      Front.onlyWalks_bind (ih _) fun _ => Front.onlyWalks_pure _

theorem planLaunch_onlyWalks (p : Packet) : (planLaunch p).OnlyWalks := by
  unfold planLaunch
  refine Front.onlyWalks_bind Front.onlyWalks_state fun s => Front.onlyWalks_bind (Front.onlyWalks_failIf _ _) fun _ =>
    Front.onlyWalks_bind (frontClean_onlyWalks _ _ _) fun r => Front.onlyWalks_bind (Front.onlyWalks_failIf _ _) fun _ =>
    Front.onlyWalks_bind (Front.onlyWalks_failIf _ _) fun _ => ?_
  dsimp only
  generalize hk : (fun img : Image => _) = rest
  have walks : ∀ img, (rest img).OnlyWalks := by
    intro img
    rw [← hk]
    exact Front.onlyWalks_bind (placements_onlyWalks _ _ _) fun _ => Front.onlyWalks_bind (frontClean_onlyWalks _ _ _) fun _ =>
      Front.onlyWalks_bind (entryTasks_onlyWalks _ _ _ _ _ _) fun _ => Front.onlyWalks_bind (frontClean_onlyWalks _ _ _) fun _ =>
      Front.onlyWalks_bind (scratchItems_onlyWalks _ _ _ _) fun _ => Front.onlyWalks_pure _
  split
  · exact Front.onlyWalks_bind (Front.onlyWalks_fail _ _) walks
  · exact Front.onlyWalks_bind (Front.onlyWalks_pure _) walks

/-- A plan is for the dies that the world has. -/
theorem planLaunch_dies {p : Packet} {s u : State} {x : LoadPlan} (h : planLaunch p s = .ok (x, u)) : x.dies = s.partition p.wid := by
  unfold planLaunch at h
  obtain ⟨s0, _, first, h⟩ := Front.bind_inv h
  cases first
  obtain ⟨_, _, -, h⟩ := Front.bind_inv h
  obtain ⟨_, _, -, h⟩ := Front.bind_inv h
  obtain ⟨_, _, -, h⟩ := Front.bind_inv h
  obtain ⟨_, _, -, h⟩ := Front.bind_inv h
  dsimp only at h
  generalize State.image _ _ _ = found at h
  cases found with
  | none =>
    obtain ⟨_, _, failed, -⟩ := Front.bind_inv h
    cases failed
  | some img =>
    obtain ⟨_, _, -, h⟩ := Front.bind_inv h
    obtain ⟨_, _, -, h⟩ := Front.bind_inv h
    obtain ⟨_, _, -, h⟩ := Front.bind_inv h
    obtain ⟨_, _, -, h⟩ := Front.bind_inv h
    obtain ⟨_, _, -, h⟩ := Front.bind_inv h
    obtain ⟨_, _, -, h⟩ := Front.bind_inv h
    cases h
    rfl

/-! ## Classes asked for -/

/-- A class that is asked for keeps the partitions. -/
theorem State.requestClass_fields (s : State) (w c : Nat) : ∃ dies agenda draws,
    s.requestClass w c = { s with dies := dies, agenda := agenda, draws := draws }
      ∧ ∀ v, (s.requestClass w c).partition v = s.partition v := by
  unfold State.requestClass
  simp only
  generalize hg : (if c = 7 && !Config.powerLow s.draws then 0 else c) = granted
  let f : Die → Die := fun x => { x with wanted := granted }
  have once : (State.partition { s with draws := s.draws + 1 } w).Nodup := List.nodup_range.filter _
  have die := State.die_foldl_modDie f once { s with draws := s.draws + 1 }
  obtain ⟨dies, moved⟩ := modDies_fields f (State.partition { s with draws := s.draws + 1 } w) { s with draws := s.draws + 1 }
  rw [moved] at die
  obtain ⟨_, _, reached⟩ := State.reachClass_fields { s with draws := s.draws + 1, dies := dies } w
  refine ⟨dies, _, _, (congrArg (fun u => State.reachClass u w) moved).trans reached, fun v => ?_⟩
  refine (congrArg (fun u : State => u.partition v) ((congrArg (fun u => State.reachClass u w) moved).trans reached)).trans ?_
  refine List.filter_congr fun d _ => ?_
  have same := die d
  have parts : (Assoc.get dieDefault dies d).valid = (s.die d).valid ∧ (Assoc.get dieDefault dies d).wid = (s.die d).wid := by
    refine ⟨(congrArg Die.valid same).trans ?_, (congrArg Die.wid same).trans ?_⟩
    · split
      · rfl
      · rfl
    · split
      · rfl
      · rfl
  exact congrArg₂ (fun a b => a && b == v && !s.deadDies.contains d) parts.1 parts.2

end Sys2Proof.Machine
end

section
/-! SUPPORT. A LAUNCH is placed, and what LAUNCH_LOAD makes of it (R347). -/

namespace Sys2Proof.Machine

open Sys2Proof.Statements

/-! ## A partition that takes a launch -/

/-- The partition emptied, with the code of an image and of the handler in place. -/
def State.readied (s : State) (p : Packet) (x : LoadPlan) (base : Nat) : State :=
  let u := s.preparePartition x.dies (fun i => recField x.record (128 + i / 8) 1 / 2 ^ (i % 8) % 2 = 1)
  let u := { u with draws := u.draws + 1, nextLid := u.nextLid + 1, nextIdent := u.freeIdent + 1, clusters := u.clusters.sorted }
  (u.placeCode x.dies base x.image.code).placeCode x.dies (base + upPage x.image.code.length) (s.world p.wid).handler

/-- The launch that a readied partition is given. -/
def State.launchFor (u : State) (p : Packet) (x : LoadPlan) (base : Nat) (handler : List Byte) : Launch :=
  { lid := u.nextLid, pk := p.id, world := p.wid, prio := p.prio, dies := x.dies, key := x.image.key
    ident := identOf (u.nextIdent - 1)
    codeBase := base, codeLen := x.image.code.length
    codeEnd := if x.image.emulates then x.image.codeLen else x.image.code.length
    libBase := x.image.lib, libLen := if x.image.emulates then 0x1000 else 0
    backMap := x.image.backMap, ht := x.image.ht, hcode := x.image.hcode
    handler := if handler.isEmpty then none else some (base + upPage x.image.code.length, handler.length)
    routes := (x.image.routes.map (resolveEntry x.cores)).foldl (fun m e => Assoc.set routeDefault m e.1 e.2) []
    spill := BitVec.ofNat 64 (recField x.record 64 8), ctx := BitVec.ofNat 64 (recField x.record 72 8)
    preemptable := recField x.record 97 1 = 1
    pasid := p.pasid, entries := x.entries.map Prod.fst, nroll := p.nroll }

/-- The launch stands, and every core knows its stage. -/
def State.enlist (u : State) (x : LoadPlan) (l : Launch) : State :=
  x.cores.foldl (fun s c => s.modCore c.1 (fun y => { y with stage := BitVec.ofNat 16 c.2 }))
    { u with launches := u.launches.put l.lid l }

/-- The items are written and the entry tasks placed. -/
def State.placeTasks (s : State) (x : LoadPlan) (base : Nat) (items : List (Nat × Nat × List (Byte × Bool))) : State :=
  x.entries.foldl (fun s e => s.startTask e.1 { e.2 with entry := e.2.entry + BitVec.ofNat 32 base } (2 ^ 64))
    (items.foldl State.writeItem s)

/-- The start event is to come. -/
def State.planStart (s : State) (x : LoadPlan) : State :=
  ({ s with images := s.images.map (fun (i : Image) => if i.key == x.image.key then { i with used := s.time } else i) } : State).scheduleWithin
    (launchBound x.dies.length x.image.code.length ((x.items.map (fun i => i.2.2.2)).foldl (· + ·) 0) - 20) .startEvent [s.nextLid]

theorem placeLaunch_eq {p : Packet} {x : LoadPlan} {s : State} {base : Nat}
    (h : s.choosePlace x.dies (upPage x.image.code.length + (s.world p.wid).handler.length) = some base) :
    placeLaunch p x s = (itemBytes p.translator x.items >>= fun items =>
        Front.modify (fun s => (s.placeTasks x base items).planStart x))
      ((s.readied p x base).enlist x ((s.readied p x base).launchFor p x base (s.world p.wid).handler)) := by
  refine (Front.bind_ok (x := s) (t := s) rfl).trans ?_
  simp only [h]
  exact (Front.bind_ok rfl).trans rfl

theorem placeLaunch_full {p : Packet} {x : LoadPlan} {s : State}
    (h : s.choosePlace x.dies (upPage x.image.code.length + (s.world p.wid).handler.length) = none) :
    placeLaunch p x s = .error (.fail { status := statusPlace }) := by
  refine (Front.bind_ok (x := s) (t := s) rfl).trans ?_
  simp only [h]
  rfl

theorem placeCode_fields (s : State) (dies : List Nat) (a : Nat) (bs : List Byte) :
    ∃ dram, s.placeCode dies a bs = { s with dram := dram } := by
  unfold State.placeCode
  induction dies generalizing s with
  | nil => exact ⟨s.dram, rfl⟩
  | cons d dies ih =>
    obtain ⟨_, h⟩ := ih { s with dram := s.dram.overwrite (codeAddress d a) bs }
    exact ⟨_, h⟩

theorem State.readied_rest (s : State) (p : Packet) (x : LoadPlan) (base : Nat) :
    (s.readied p x base).launches = s.launches ∧ (s.readied p x base).cycle = s.cycle := by
  unfold State.readied
  simp only
  obtain ⟨_, _, _, _, _, _, _, _, _, _, _, _, _, _, _, _, _, _, emptied⟩ := (OnlyEmpties.preparePartition s x.dies
    (fun i => recField x.record (128 + i / 8) 1 / 2 ^ (i % 8) % 2 = 1)).fields
  rw [emptied]
  obtain ⟨_, first⟩ := placeCode_fields _ x.dies base x.image.code
  rw [first]
  obtain ⟨_, second⟩ := placeCode_fields _ x.dies (base + upPage x.image.code.length) (s.world p.wid).handler
  rw [second]
  exact ⟨rfl, rfl⟩

theorem foldl_stages (cores : List (Nat × Nat)) (v : State) :
    ∃ cs, cores.foldl (fun s c => s.modCore c.1 (fun y => { y with stage := BitVec.ofNat 16 c.2 })) v = { v with cores := cs } := by
  induction cores generalizing v with
  | nil => exact ⟨_, rfl⟩
  | cons c cores ih =>
    obtain ⟨_, h⟩ := ih (v.modCore c.1 (fun y => { y with stage := BitVec.ofNat 16 c.2 }))
    exact ⟨_, h⟩

theorem State.enlist_fields (u : State) (x : LoadPlan) (l : Launch) :
    ∃ cores, u.enlist x l = { u with launches := u.launches.put l.lid l, cores := cores } := foldl_stages _ _

theorem State.writeItem_fields (s : State) (x : Nat × Nat × List (Byte × Bool)) : ∃ scratch, s.writeItem x = { s with scratch := scratch } := by
  unfold State.writeItem
  induction cutRange 64 x.2.1 x.2.2.length generalizing s with
  | nil => exact ⟨_, rfl⟩
  | cons r rest ih =>
    obtain ⟨_, h⟩ := ih { s with scratch := s.scratch.set memDefault x.1 ((s.memAt (.scratchpad x.1)).write r.1
      (((x.2.2.drop (r.1 - x.2.1)).take r.2).map Prod.fst) (((x.2.2.drop (r.1 - x.2.1)).take r.2).any Prod.snd)) }
    exact ⟨_, h⟩

theorem foldl_writeItem (items : List (Nat × Nat × List (Byte × Bool))) (s : State) :
    ∃ scratch, items.foldl State.writeItem s = { s with scratch := scratch } := by
  induction items generalizing s with
  | nil => exact ⟨_, rfl⟩
  | cons i items ih =>
    obtain ⟨_, first⟩ := s.writeItem_fields i
    obtain ⟨_, rest⟩ := ih (s.writeItem i)
    rw [first] at rest
    exact ⟨_, (congrArg (items.foldl State.writeItem) first).trans rest⟩

theorem State.startTask_fields (s : State) (k : Nat) (d : TaskDesc) (ready : Nat) :
    ∃ slots, s.startTask k d ready = { s with slots := slots } := by
  unfold State.startTask
  split
  · exact ⟨_, rfl⟩
  · exact ⟨_, rfl⟩

/-- The entry tasks placed at a base. -/
def State.placeEntries (s : State) (entries : List (Nat × TaskDesc)) (base : Nat) : State :=
  entries.foldl (fun s e => s.startTask e.1 { e.2 with entry := e.2.entry + BitVec.ofNat 32 base } (2 ^ 64)) s

theorem State.placeEntries_fields (s : State) (entries : List (Nat × TaskDesc)) (base : Nat) :
    ∃ slots, s.placeEntries entries base = { s with slots := slots } := by
  unfold State.placeEntries
  induction entries generalizing s with
  | nil => exact ⟨_, rfl⟩
  | cons e entries ih =>
    obtain ⟨_, first⟩ := s.startTask_fields e.1 { e.2 with entry := e.2.entry + BitVec.ofNat 32 base } (2 ^ 64)
    obtain ⟨_, rest⟩ := ih (s.startTask e.1 { e.2 with entry := e.2.entry + BitVec.ofNat 32 base } (2 ^ 64))
    rw [List.foldl_cons, rest]
    exact ⟨_, by rw [first]⟩

theorem State.placeTasks_fields (s : State) (x : LoadPlan) (base : Nat) (items : List (Nat × Nat × List (Byte × Bool))) :
    ∃ scratch slots, s.placeTasks x base items = { s with scratch := scratch, slots := slots } := by
  obtain ⟨scratch, written⟩ := foldl_writeItem items s
  obtain ⟨slots, placed⟩ := State.placeEntries_fields { s with scratch := scratch } x.entries base
  exact ⟨scratch, slots, (congrArg (fun u => u.placeEntries x.entries base) written).trans placed⟩

/-! ## Entry tasks -/

theorem foldl_handles (handles : List DWord) (is : List Nat) (sl : Slot) :
    (is.foldl (fun sl i => sl.setHandle i (handles.getD i 0)) sl).occupied = sl.occupied := by
  induction is generalizing sl with
  | nil => rfl
  | cons i is ih => exact ih _

/-- The slot that a task starts in is occupied. -/
theorem TaskDesc.slot_occupied (d : TaskDesc) (k : Nat) (base bound : Word) (ready : Nat) (old : Slot) :
    (d.slot k base bound ready old).occupied = true := foldl_handles _ _ _

theorem State.launchOn_slots (s : State) (slots : Assoc Slot) (d : Nat) :
    ({ s with slots := slots } : State).launchOn d = s.launchOn d := rfl

theorem State.startTask_keeps {s : State} {j k ready : Nat} {d : TaskDesc} (h : (s.slot k).occupied = true) :
    ((s.startTask j d ready).slot k).occupied = true := by
  unfold State.startTask
  split
  · exact h
  · rw [State.modSlot_eq]
    by_cases same : k = j
    · rw [same, State.slot_setSlot_same]
      exact TaskDesc.slot_occupied _ _ _ _ _ _
    · rwa [State.slot_setSlot_ne _ _ same]

/-- A slot stays occupied while entry tasks are placed. -/
theorem State.placeEntries_keeps {s : State} {entries : List (Nat × TaskDesc)} {base k : Nat} (h : (s.slot k).occupied = true) :
    ((s.placeEntries entries base).slot k).occupied = true := by
  unfold State.placeEntries
  induction entries generalizing s with
  | nil => exact h
  | cons e entries ih => exact ih (State.startTask_keeps h)

/-- Every entry task on a die with a launch has its slot. -/
theorem State.placeEntries_occupied {s : State} {entries : List (Nat × TaskDesc)} {base : Nat} {e : Nat × TaskDesc}
    (he : e ∈ entries) (runs : (s.launchOn (dieOfCore (coreOfSlot e.1))).isSome = true) :
    ((s.placeEntries entries base).slot e.1).occupied = true := by
  induction entries generalizing s with
  | nil => cases he
  | cons f entries ih =>
    rcases List.mem_cons.mp he with rfl | he
    · obtain ⟨l, found⟩ := Option.isSome_iff_exists.mp runs
      refine State.placeEntries_keeps (s := s.startTask e.1 _ _) ?_
      rw [startTask_eq found, State.slot_setSlot_same]
      exact TaskDesc.slot_occupied _ _ _ _ _ _
    · refine ih (s := s.startTask f.1 _ _) he ?_
      obtain ⟨_, first⟩ := s.startTask_fields f.1 { f.2 with entry := f.2.entry + BitVec.ofNat 32 base } (2 ^ 64)
      rw [first]
      exact runs

/-! ## What a placed launch leaves -/

theorem Assoc.mem_of_find_some {α : Type} {m : Assoc α} {k : Nat} {v : α} (h : m.find k = some v) : (k, v) ∈ m := by
  induction m with
  | nil => cases h
  | cons e m ih =>
    unfold Assoc.find at h
    split at h
    next same =>
      cases h
      exact List.mem_cons.mpr (Or.inl (Prod.ext same.symm rfl))
    · exact List.mem_cons_of_mem _ (ih h)

theorem Assoc.mem_put {α : Type} {m : Assoc α} {k : Nat} {v : α} {e : Nat × α} (h : e ∈ m.put k v) : e = (k, v) ∨ e ∈ m := by
  rcases Assoc.mem_insert h with h | h
  · exact Or.inl h
  · exact Or.inr (List.mem_filter.mp h).1

/-- A launch that stands where its packet had none is the launch of that packet. -/
theorem State.launchOf_put {s : State} {l : Launch} (h : s.launchOf l.pk = none) :
    ((s.launches.put l.lid l).map Prod.snd).find? (fun x => x.pk == l.pk) = some l := by
  have listed : l ∈ (s.launches.put l.lid l).map Prod.snd :=
    List.mem_map.mpr ⟨_, Assoc.mem_of_find_some (Assoc.find_put_same _ _ _), rfl⟩
  cases found : ((s.launches.put l.lid l).map Prod.snd).find? (fun x => x.pk == l.pk) with
  | none => exact absurd (List.find?_eq_none.mp found l listed) (by simp)
  | some y =>
    obtain ⟨e, he, rfl⟩ := List.mem_map.mp (List.mem_of_find?_eq_some found)
    rcases Assoc.mem_put he with rfl | he
    · rfl
    · exact absurd (List.find?_some found) (List.find?_eq_none.mp h _ (List.mem_map.mpr ⟨e, he, rfl⟩))

end Sys2Proof.Machine
end

section
/-! SUPPORT. LAUNCH_LOAD, step by step (R347). -/

namespace Sys2Proof.Statements

open Sys2Proof.Machine

/-- What LAUNCH_LOAD does once its packet has a plan, or has none. -/
def loadPlanned (s : State) (id : Nat) : State :=
  match s.packet id with
  | some q => if q.plan.isSome && q.result.isNone && !q.waiting then s.runFront q (loadLaunch q) else s
  | none => s

theorem exec_launchLoad {s : State} {p : Packet} (subject : s.subjectPacket = some p) (new : s.launchOf p.id = none) :
    exec .launchLoad s = .next (loadPlanned
      (if p.plan.any (fun x => x.dies == s.partition p.wid) then s else s.runFront p (planLoad p)) p.id) := by
  refine (show exec .launchLoad s = execLaunchLoad s from rfl).trans ?_
  unfold execLaunchLoad
  rw [subject]
  simp only [new]
  rfl

theorem Planned.any {s : State} {p : Packet} {x : LoadPlan} (h : Planned s p x) :
    p.plan.any (fun x => x.dies == s.partition p.wid) = true := by
  obtain ⟨planned, dies⟩ := h
  rw [planned]
  simpa using dies

theorem Unplanned.not_any {s : State} {p : Packet} (h : Unplanned s p) :
    p.plan.any (fun x => x.dies == s.partition p.wid) = false := by
  cases planned : p.plan with
  | none => rfl
  | some x => simpa using h x planned

/-- A packet whose plan holds is loaded. -/
theorem exec_launchLoad_planned {s : State} {p : Packet} {x : LoadPlan} (h : Working s p) (new : s.launchOf p.id = none)
    (planned : Planned s p x) (ready : p.waiting = false) : exec .launchLoad s = .next (s.runFront p (loadLaunch p)) := by
  rw [exec_launchLoad h.subjectPacket new, planned.any, if_pos rfl]
  obtain ⟨-, here, open_⟩ := h
  unfold loadPlanned
  rw [here]
  simp only [planned.1, open_, ready]
  rfl

theorem loadLaunch_held {s : State} {p : Packet} {x : LoadPlan} (planned : Planned s p x) (hold : p.hold = true)
    (far : s.classReached p.wid = false) : loadLaunch p s = .ok ((), s) := by
  refine (Front.bind_ok (x := s) (t := s) rfl).trans ?_
  simp only [planned.1, hold, far]
  rfl

theorem loadLaunch_places {s : State} {p : Packet} {x : LoadPlan} (planned : Planned s p x)
    (reached : p.hold = true → s.classReached p.wid = true) : loadLaunch p s = placeLaunch p x s := by
  refine (Front.bind_ok (x := s) (t := s) rfl).trans ?_
  cases hold : p.hold with
  | false =>
    simp only [planned.1]
    rfl
  | true =>
    simp only [planned.1, reached hold]
    rfl

/-! ## The plan -/

theorem planLoad_ok {s u : State} {p : Packet} {x : LoadPlan} (h : planLaunch p s = .ok (x, u)) :
    planLoad p s = .ok ((), (u.requestClass p.wid (if p.fcset then p.fclass else recField x.record 96 1)).modPacket p.id
      (fun p => { p with plan := some x })) := (Front.bind_ok h).trans rfl

/-- The state in which a packet has its plan. -/
def withPlan (asked : State) (id : Nat) (x : LoadPlan) : State :=
  { asked.modPacket id (fun r => { r with plan := some x, waiting := false }) with
    hostOnce := asked.hostOnce.filter (fun f => f.1 != .packet id) }

theorem modPacket_modPacket (s : State) (id : Nat) {f g : Packet → Packet} (hf : ∀ p, (f p).id = p.id) :
    (s.modPacket id f).modPacket id g = s.modPacket id (fun p => g (f p)) := by
  refine congrArg (fun ps => ({ s with packets := ps } : State)) ?_
  rw [State.modPacket, List.map_map]
  refine List.map_congr_left fun p _ => ?_
  by_cases h : p.id = id
  · simp only [Function.comp, if_pos h, hf]
  · simp only [Function.comp, if_neg h]

theorem wentThrough_planned (asked : State) (id : Nat) (x : LoadPlan) :
    wentThrough (asked.modPacket id (fun p => { p with plan := some x })) id = withPlan asked id x :=
  congrArg (fun u : State => { u with hostOnce := asked.hostOnce.filter (fun f => f.1 != AtsUser.packet id) })
    (modPacket_modPacket asked id (f := fun p => { p with plan := some x }) (g := fun p => { p with waiting := false })
      fun _ => rfl)

theorem withPlan_packet {asked : State} {id : Nat} {x : LoadPlan} {q : Packet} (h : asked.packet id = some q) :
    (withPlan asked id x).packet id = some { q with plan := some x, waiting := false } := by
  refine (State.packet_modPacket (f := fun r => { r with plan := some x, waiting := false }) fun _ => rfl).trans ?_
  rw [h]
  rfl

/-- Where a packet has been given a plan for the dies that its world has, LAUNCH_LOAD goes on from there. -/
theorem exec_withPlan {asked : State} {q : Packet} {x : LoadPlan} (subject : asked.subject = [q.id])
    (packet : asked.packet q.id = some q) (open_ : q.result = none) (new : asked.launchOf q.id = none)
    (dies : x.dies = asked.partition q.wid) :
    exec .launchLoad (withPlan asked q.id x) = .next (loadPlanned (withPlan asked q.id x) q.id) := by
  have working : Working (withPlan asked q.id x) { q with plan := some x, waiting := false } :=
    ⟨subject, withPlan_packet packet, open_⟩
  have planned : Planned (withPlan asked q.id x) { q with plan := some x, waiting := false } x := ⟨rfl, dies⟩
  have h := exec_launchLoad working.subjectPacket new
  rwa [planned.any, if_pos rfl] at h

theorem exec_unplanned {s u : State} {p : Packet} {x : LoadPlan} (h : Working s p) (new : s.launchOf p.id = none)
    (unplanned : Unplanned s p) (found : planLaunch p s = .ok (x, u)) :
    exec .launchLoad s = .next (loadPlanned
      (withPlan (u.requestClass p.wid (if p.fcset then p.fclass else recField x.record 96 1)) p.id x) p.id) := by
  rw [exec_launchLoad h.subjectPacket new, unplanned.not_any, State.runFront_ok (planLoad_ok found), wentThrough_planned]
  rfl

theorem requestClass_kept (u : State) (w c : Nat) :
    (u.requestClass w c).subject = u.subject ∧ (u.requestClass w c).packets = u.packets
      ∧ (u.requestClass w c).launches = u.launches := by
  obtain ⟨_, _, _, asked, -⟩ := u.requestClass_fields w c
  rw [asked]
  exact ⟨rfl, rfl, rfl⟩

theorem walked_kept {s u : State} (h : Walks s u) : u.subject = s.subject ∧ u.packets = s.packets
    ∧ ∀ w, u.partition w = s.partition w := by
  obtain ⟨_, _, _, _, _, _, _, _, rfl⟩ := h
  exact ⟨rfl, rfl, fun _ => rfl⟩

theorem planned_steps {s u : State} {p q : Packet} {x : LoadPlan} (h : Working s p) (new : s.launchOf p.id = none)
    (unplanned : Unplanned s p) (found : planLaunch p s = .ok (x, u)) (hq : u.packet p.id = some q) (open_ : q.result = none)
    (still : u.launchOf p.id = none) :
    exec .launchLoad s
      = exec .launchLoad (withPlan (u.requestClass p.wid (if p.fcset then p.fclass else recField x.record 96 1)) p.id x) := by
  rw [exec_unplanned h new unplanned found]
  obtain ⟨here, there, -⟩ := h
  obtain ⟨subject, packets, partitions⟩ := walked_kept (planLaunch_onlyWalks p s x u found)
  have same : q = p := by
    unfold State.packet at hq there
    rw [packets, there] at hq
    exact (Option.some.inj hq).symm
  subst same
  obtain ⟨_, _, _, -, asked⟩ := u.requestClass_fields q.wid (if q.fcset then q.fclass else recField x.record 96 1)
  obtain ⟨subject', packets', launches'⟩ :=
    requestClass_kept u q.wid (if q.fcset then q.fclass else recField x.record 96 1)
  have dies := (planLaunch_dies found).trans ((partitions q.wid).symm.trans (asked q.wid).symm)
  revert dies subject' packets' launches'
  generalize u.requestClass q.wid (if q.fcset then q.fclass else recField x.record 96 1) = v
  intro subject' packets' launches' dies
  refine (exec_withPlan (subject'.trans (subject.trans here)) ?_ open_ ?_ dies).symm
  · unfold State.packet at hq ⊢
    rw [packets', hq]
  · unfold State.launchOf at still ⊢
    rw [launches', still]

/-! ## The place -/

/-- What a launch that is placed leaves. -/
theorem placeLaunch_ok {p : Packet} {x : LoadPlan} {s u : State} (h : placeLaunch p x s = .ok ((), u)) :
    ∃ base items v, s.choosePlace x.dies (upPage x.image.code.length + (s.world p.wid).handler.length) = some base
      ∧ itemBytes p.translator x.items
          ((s.readied p x base).enlist x ((s.readied p x base).launchFor p x base (s.world p.wid).handler)) = .ok (items, v)
      ∧ u = (v.placeTasks x base items).planStart x := by
  cases place : s.choosePlace x.dies (upPage x.image.code.length + (s.world p.wid).handler.length) with
  | none =>
    rw [placeLaunch_full place] at h
    cases h
  | some base =>
    rw [placeLaunch_eq place] at h
    obtain ⟨items, v, read, rest⟩ := Front.bind_inv h
    cases rest
    exact ⟨base, items, v, rfl, read, rfl⟩

theorem planStart_fields (s : State) (x : LoadPlan) : ∃ images draws at_, s.planStart x
    = ({ s with images := images, draws := draws } : State).schedule at_ .startEvent [s.nextLid] ∧ s.cycle < at_ :=
  ⟨_, _, _, rfl, Nat.lt_of_lt_of_le (Nat.lt_succ_self _) (Nat.le_add_right _ _)⟩

theorem walked_launches {s u : State} (h : Walks s u) :
    u.launches = s.launches ∧ u.nextLid = s.nextLid ∧ u.cycle = s.cycle := by
  obtain ⟨_, _, _, _, _, _, _, _, rfl⟩ := h
  exact ⟨rfl, rfl, rfl⟩

theorem planStart_launches {v : State} {x : LoadPlan} {base : Nat} {items : List (Nat × Nat × List (Byte × Bool))} :
    ((v.placeTasks x base items).planStart x).launches = v.launches
      ∧ ∃ d ∈ ((v.placeTasks x base items).planStart x).agenda, d.step = .startEvent ∧ d.subject = [v.nextLid] ∧ v.cycle < d.at_ := by
  obtain ⟨_, _, placed⟩ := v.placeTasks_fields x base items
  obtain ⟨_, _, _, scheduled, later⟩ := planStart_fields (v.placeTasks x base items) x
  rw [placed] at scheduled later ⊢
  rw [scheduled]
  exact ⟨rfl, _, agenda_schedule _ _ _ _, rfl, rfl, later⟩

/-- The launch stands in the loaded state, and its start event is to come. -/
theorem placed_launch {p : Packet} {x : LoadPlan} {s v : State} {base : Nat} {items : List (Nat × Nat × List (Byte × Bool))}
    {l : Launch} (hl : (s.readied p x base).launchFor p x base (s.world p.wid).handler = l)
    (new : s.launchOf p.id = none) (walked : Walks ((s.readied p x base).enlist x l) v) :
    v.launches = (s.readied p x base).launches.put l.lid l
      ∧ ((v.placeTasks x base items).planStart x).launchOf p.id = some l
      ∧ ∃ d ∈ ((v.placeTasks x base items).planStart x).agenda, d.step = .startEvent ∧ d.subject = [l.lid] ∧ s.cycle < d.at_ := by
  obtain ⟨kept, cycle⟩ := s.readied_rest p x base
  have pk : l.pk = p.id := hl ▸ rfl
  have lid : l.lid = (s.readied p x base).nextLid := hl ▸ rfl
  revert kept cycle pk lid walked
  generalize s.readied p x base = r
  intro walked kept cycle pk lid
  obtain ⟨_, enlisted⟩ := r.enlist_fields x l
  rw [enlisted] at walked
  obtain ⟨launches, next, now⟩ := walked_launches walked
  obtain ⟨final, d, listed, step, subject, later⟩ := planStart_launches (v := v) (x := x) (base := base) (items := items)
  have fresh : r.launchOf l.pk = none := by
    unfold State.launchOf at new ⊢
    rw [kept, pk, new]
  refine ⟨launches, ?_, d, listed, step, ?_, ?_⟩
  · unfold State.launchOf
    rw [final, launches, ← pk]
    exact State.launchOf_put fresh
  · rw [subject, next, lid]
  · rw [← cycle]
    exact now ▸ later

end Sys2Proof.Statements
end

section
/-! SUPPORT. The outcomes of LAUNCH_LOAD (R347, R348). -/

namespace Sys2Proof.Statements

open Sys2Proof.Machine

theorem load_waits {s : State} {p : Packet} {x : LoadPlan} (h : Working s p) (new : s.launchOf p.id = none) (planned : Planned s p x)
    (ready : p.waiting = false) (hold : p.hold = true) (far : s.classReached p.wid = false) :
    ∃ t, exec .launchLoad s = .next t ∧ t.launches = s.launches ∧ t.slots = s.slots ∧ t.packet p.id = some p := by
  refine ⟨wentThrough s p.id, ?_, rfl, rfl, ?_⟩
  · rw [exec_launchLoad_planned h new planned ready, State.runFront_ok (loadLaunch_held planned hold far)]
  · obtain ⟨-, here, -⟩ := h
    rw [packet_wentThrough here, ← ready]

theorem exec_placed {s u : State} {p : Packet} {x : LoadPlan} (h : Working s p) (new : s.launchOf p.id = none)
    (planned : Planned s p x) (ready : p.waiting = false) (reached : p.hold = true → s.classReached p.wid = true)
    (placed : placeLaunch p x s = .ok ((), u)) : exec .launchLoad s = .next (wentThrough u p.id) := by
  rw [exec_launchLoad_planned h new planned ready, State.runFront_ok ((loadLaunch_places planned reached).trans placed)]

theorem load_places {s u : State} {p : Packet} {x : LoadPlan} (h : Working s p) (new : s.launchOf p.id = none)
    (planned : Planned s p x) (ready : p.waiting = false) (reached : p.hold = true → s.classReached p.wid = true)
    (placed : placeLaunch p x s = .ok ((), u)) :
    ∃ t l, exec .launchLoad s = .next t ∧ t.launches = u.launches ∧ t.slots = u.slots ∧ t.agenda = u.agenda
      ∧ (∀ pl, t.memAt pl = u.memAt pl)
      ∧ t.launchOf p.id = some l ∧ l.started = false ∧ l.dies = x.dies ∧ l.world = p.wid
      ∧ ∃ d ∈ t.agenda, d.step = .startEvent ∧ d.subject = [l.lid] ∧ s.cycle < d.at_ := by
  have runs := exec_placed h new planned ready reached placed
  obtain ⟨base, items, v, -, read, made⟩ := placeLaunch_ok placed
  obtain ⟨-, stands, starts⟩ := placed_launch (items := items) rfl new (itemBytes_onlyWalks _ _ _ _ _ read)
  rw [← made] at stands starts
  exact ⟨_, _, runs, rfl, rfl, rfl, wentThrough_memAt u p.id, stands, rfl, rfl, rfl, starts⟩

theorem launchOn_put {v : State} {m : Assoc Launch} {l : Launch} {d : Nat} (h : v.launches = m.put l.lid l)
    (covers : l.dies.contains d = true) (live : l.saved = false) : (v.launchOn d).isSome = true := by
  unfold State.launchOn
  rw [Option.isSome_map, List.find?_isSome, h]
  exact ⟨_, Assoc.mem_of_find_some (Assoc.find_put_same _ _ _), by simpa [live] using covers⟩

theorem load_places_all {s : State} {p : Packet} {x : LoadPlan} {base : Nat} (h : Working s p) (new : s.launchOf p.id = none)
    (planned : Planned s p x) (ready : p.waiting = false) (reached : p.hold = true → s.classReached p.wid = true)
    (bare : x.items = [])
    (place : s.choosePlace x.dies (upPage x.image.code.length + (s.world p.wid).handler.length) = some base) :
    ∃ t l, exec .launchLoad s = .next t ∧ t.launchOf p.id = some l ∧ l.started = false ∧ l.dies = x.dies ∧ l.world = p.wid
      ∧ l.codeBase = base ∧ l.codeLen = x.image.code.length ∧ l.entries = x.entries.map Prod.fst
      ∧ (∀ e ∈ x.entries, x.dies.contains (dieOfCore (coreOfSlot e.1)) = true → (t.slot e.1).occupied = true)
      ∧ ∃ d ∈ t.agenda, d.step = .startEvent ∧ d.subject = [l.lid] ∧ s.cycle < d.at_ := by
  have placed := placeLaunch_eq (p := p) place
  rw [bare] at placed
  obtain ⟨launches, stands, starts⟩ := placed_launch (items := []) rfl new (.refl _)
  refine ⟨_, _, exec_placed h new planned ready reached placed, stands, rfl, rfl, rfl, rfl, rfl, rfl, fun e he covers => ?_, starts⟩
  exact State.placeEntries_occupied he (launchOn_put launches covers rfl)

theorem load_fails {s : State} {p : Packet} {v : EndValues} (h : Working s p) (new : s.launchOf p.id = none)
    (fails : Unplanned s p ∧ planLaunch p s = .error (.fail v)
      ∨ ∃ x, Planned s p x ∧ p.waiting = false ∧ (p.hold = true → s.classReached p.wid = true)
        ∧ placeLaunch p x s = .error (.fail v)) :
    ∃ t, exec .launchLoad s = .next t ∧ Decided t p.id v ∧ t.launches = s.launches := by
  have decided : exec .launchLoad s = .next (s.decidePacket p.id v) := by
    rcases fails with ⟨unplanned, fails⟩ | ⟨x, planned, ready, reached, fails⟩
    · have subject := h.subjectPacket
      obtain ⟨-, here, open_⟩ := h
      have stays : loadPlanned (s.decidePacket p.id v) p.id = s.decidePacket p.id v := by
        unfold loadPlanned
        rw [State.packet_decidePacket here open_]
        simp
      rw [exec_launchLoad subject new, unplanned.not_any, if_neg Bool.false_ne_true,
        State.runFront_fail (show planLoad p s = _ from Front.bind_error fails), stays]
    · rw [exec_launchLoad_planned h new planned ready]
      rw [State.runFront_fail ((loadLaunch_places planned reached).trans fails)]
  obtain ⟨-, here, open_⟩ := h
  refine ⟨_, decided, ⟨_, State.packet_decidePacket here open_, rfl⟩, ?_⟩
  rw [State.decidePacket_eq here open_]
  rfl

end Sys2Proof.Statements
end

section
/-! SUPPORT. TRANSLATE packets, the loader's check, and how launches end (R293, R298, R299, R310, R364). -/

namespace Sys2Proof.Statements

open Sys2Proof.Machine

/-! ## TRANSLATE -/

/-- The key of the image that a TRANSLATE asks for. -/
def imageKey (s : State) (p : Packet) (code input : List (Byte × Bool)) : List Byte :=
  sha512 (sha512 (code.map Prod.fst) ++ sha512 (input.map Prod.fst) ++ sha512 s.catalogue
    ++ le32 (p.field 60 4) ++ le32 (p.field 64 4) ++ bytesOfWord 1 p.wid)

theorem exec_translatePacket {s : State} {p : Packet} (h : Working s p) (new : s.launchOf p.id = none) :
    exec .translatePacket s = .next (s.runFront p (translatePacket p)) := by
  refine (show exec .translatePacket s = execTranslatePacket s from rfl).trans ?_
  unfold execTranslatePacket
  rw [h.subjectPacket]
  simp only [new]
  rfl

/-- The packet with the key and the hash of its translator. -/
def withKey (s : State) (p : Packet) (code input : List (Byte × Bool)) (t : State) : State :=
  t.modPacket p.id (fun q => { q with key := imageKey s p code input, ht := sha512 (code.map Prod.fst) })

theorem withKey_packet {s t : State} {p q : Packet} {code input : List (Byte × Bool)} (h : t.packet p.id = some q) :
    (withKey s p code input t).packet p.id
      = some { q with key := imageKey s p code input, ht := sha512 (code.map Prod.fst) } := by
  refine (State.packet_modPacket (f := fun q => { q with key := imageKey s p code input, ht := sha512 (code.map Prod.fst) })
    fun _ => rfl).trans ?_
  rw [h]
  rfl

/-- The packet ends with the image that the cache holds. -/
def withImage (t : State) (id : Nat) (key : List Byte) (i : Image) : State :=
  (({ t with images := t.images.map (fun (x : Image) => if x.key == key then { x with used := t.time } else x) } : State).modPacket id
    (fun p => { p with cost := i.cost, hcode := i.hcode })).decidePacket id {}

theorem translatePacket_hit {s s1 s2 : State} {p : Packet} {code input : List (Byte × Bool)} {i : Image}
    (hc : frontRead p.translator (p.field 32 8) (p.field 40 4) s = .ok (code, s1))
    (hi : frontRead p.translator (p.field 48 8) (p.field 56 4) s1 = .ok (input, s2))
    (found : s.image (imageKey s p code input) p.wid = some i) (cheap : i.cost ≤ p.field 44 4) :
    translatePacket p s = .ok ((), withImage (withKey s p code input s2) p.id (imageKey s p code input) i) := by
  have hit : (s.image (imageKey s p code input) p.wid).filter (fun i => decide (i.cost ≤ p.field 44 4)) = some i := by
    rw [found]
    simp [Option.filter, cheap]
  unfold translatePacket
  refine (Front.bind_ok (x := s) (t := s) rfl).trans ((Front.bind_ok hc).trans ((Front.bind_ok hi).trans ?_))
  refine (Front.bind_ok (x := ()) (t := withKey s p code input s2) rfl).trans ?_
  unfold imageKey at hit
  simp only [hit]
  rfl

theorem withImage_decided {t : State} {id : Nat} {q : Packet} {key : List Byte} {i : Image} (h : t.packet id = some q)
    (open_ : q.result = none) : Decided (wentThrough (withImage t id key i) id) id {} := by
  have charged : (({ t with images := t.images.map (fun (x : Image) => if x.key == key then { x with used := t.time } else x) } :
      State).modPacket id (fun p => { p with cost := i.cost, hcode := i.hcode })).packet id
      = some { q with cost := i.cost, hcode := i.hcode } := by
    refine (State.packet_modPacket (f := fun p => { p with cost := i.cost, hcode := i.hcode }) fun _ => rfl).trans ?_
    exact congrArg (Option.map (fun p : Packet => { p with cost := i.cost, hcode := i.hcode })) h
  exact ⟨_, packet_wentThrough (State.packet_decidePacket charged open_), rfl⟩

/-- The core on which a run is prepared. -/
def runCore (s : State) (p : Packet) : Nat :=
  let cores := (s.partition p.wid).flatMap s.liveCores
  cores.getD (Config.coreChoice s.draws % cores.length) 0

/-- The run that a TRANSLATE asks for. -/
def runFor (p : Packet) : Run :=
  { pk := p.id, world := p.wid, catalogue := 0x800, input := p.field 56 4, output := p.field 60 4
    scratch := p.field 64 4, meter := p.field 44 4 }

/-- The launch entry of a run. -/
def runLaunch (s : State) (p : Packet) (code : List (Byte × Bool)) (lid : Nat) : Launch :=
  { lid := lid, pk := p.id, world := p.wid, prio := p.prio, dies := s.partition p.wid, ht := sha512 (code.map Prod.fst)
    codeBase := translatorBase, codeLen := p.field 40 4, codeEnd := p.field 40 4, pasid := p.pasid, nroll := p.nroll }

/-- The cycle in which a run that is prepared in a state fetches its first word. -/
def runReady (u : State) (p : Packet) : Nat :=
  u.cycle + 1 + Config.delay (u.draws + 2) % ((5000 + (p.field 40 4 + p.field 56 4) / 64 + (p.field 60 4 + p.field 64 4) / 1000 - 20)
    * 4284 / 10710)

/-- The run and its windows stand. -/
def withRun (s : State) (p : Packet) (code input : List (Byte × Bool)) (u : State) : State :=
  let k := runCore s p * 4
  [(0x100000000, 0x800), (0x200000000, p.field 56 4), (0x300000000, p.field 60 4), (0x400000000, p.field 64 4)].foldl
    (fun (s : State) w => s.raiseRange (.window k) w.1 w.2)
    { u with
      draws := u.draws + 3, nextLid := u.nextLid + 1, launches := u.launches.put u.nextLid (runLaunch s p code u.nextLid)
      runs := u.runs.put k (runFor p), windows := u.windows.set memDefault k (runWindows s.catalogue input) }

/-- The run is ready to begin. -/
def runPrepared (s : State) (p : Packet) (code input : List (Byte × Bool)) (t : State) : State :=
  let u := t.placeCode (s.partition p.wid) translatorBase (code.map Prod.fst)
  ((withRun s p code input u).modCore (runCore s p) (fun c => { c with code := [] })).setSlot (runCore s p * 4)
    (runSlotStart (runCore s p * 4) translatorBase (p.field 40 4) (p.field 44 4) (p.field 56 4) (p.field 60 4) (p.field 64 4) (runReady u p))

theorem translatePacket_miss {s s1 s2 : State} {p : Packet} {code input : List (Byte × Bool)}
    (hc : frontRead p.translator (p.field 32 8) (p.field 40 4) s = .ok (code, s1))
    (hi : frontRead p.translator (p.field 48 8) (p.field 56 4) s1 = .ok (input, s2))
    (dear : ∀ i, s.image (imageKey s p code input) p.wid = some i → p.field 44 4 < i.cost) :
    translatePacket p s = .ok ((), runPrepared s p code input (withKey s p code input s2)) := by
  have miss : (s.image (imageKey s p code input) p.wid).filter (fun i => decide (i.cost ≤ p.field 44 4)) = none := by
    cases found : s.image (imageKey s p code input) p.wid with
    | none => rfl
    | some i => simp [Option.filter, dear i found]
  unfold translatePacket
  refine (Front.bind_ok (x := s) (t := s) rfl).trans ((Front.bind_ok hc).trans ((Front.bind_ok hi).trans ?_))
  refine (Front.bind_ok (x := ()) (t := withKey s p code input s2) rfl).trans ?_
  unfold imageKey at miss
  simp only [miss]
  rfl

/-- A state in which a run is prepared at a slot. -/
def RunAt (s u : State) (p : Packet) (k : Nat) : Prop :=
  (∃ r, u.runs.find k = some r ∧ r.pk = p.id ∧ r.meter = p.field 44 4)
    ∧ (u.slot k).xlt = true ∧ (u.slot k).occupied = true ∧ s.cycle < (u.slot k).ready

/-- Only the versions of lines change. -/
def OnlyVersions (s t : State) : Prop := ∃ versions, t = { s with versions := versions }

theorem OnlyVersions.trans {s t u : State} (h : OnlyVersions s t) (g : OnlyVersions t u) : OnlyVersions s u := by
  obtain ⟨_, rfl⟩ := h
  obtain ⟨_, rfl⟩ := g
  exact ⟨_, rfl⟩

theorem OnlyVersions.foldl {α : Type} {f : State → α → State} (hf : ∀ s a, OnlyVersions s (f s a)) (l : List α) (s : State) :
    OnlyVersions s (l.foldl f s) := by
  induction l generalizing s with
  | nil => exact ⟨_, rfl⟩
  | cons a l ih => exact (hf s a).trans (ih _)

theorem OnlyVersions.raiseVersion (s : State) (p : Place) (a : Nat) : OnlyVersions s (s.raiseVersion p a) := by
  unfold State.raiseVersion
  split
  · split
    · exact ⟨_, rfl⟩
    · exact ⟨_, rfl⟩
  · exact ⟨_, rfl⟩

theorem OnlyVersions.raiseRange (s : State) (p : Place) (a n : Nat) : OnlyVersions s (s.raiseRange p a n) :=
  .foldl (fun s _ => .raiseVersion s p _) _ s

theorem withRun_fields (s : State) (p : Packet) (code input : List (Byte × Bool)) (u : State) :
    ∃ draws nextLid launches windows versions, withRun s p code input u = { u with
      draws := draws, nextLid := nextLid, launches := launches, windows := windows, versions := versions
      runs := u.runs.put (runCore s p * 4) (runFor p) } := by
  obtain ⟨_, raised⟩ := OnlyVersions.foldl (fun (v : State) (w : Nat × Nat) => .raiseRange v (.window (runCore s p * 4)) w.1 w.2)
    [(0x100000000, 0x800), (0x200000000, p.field 56 4), (0x300000000, p.field 60 4), (0x400000000, p.field 64 4)]
    { u with
      draws := u.draws + 3, nextLid := u.nextLid + 1, launches := u.launches.put u.nextLid (runLaunch s p code u.nextLid)
      runs := u.runs.put (runCore s p * 4) (runFor p)
      windows := u.windows.set memDefault (runCore s p * 4) (runWindows s.catalogue input) }
  exact ⟨_, _, _, _, _, raised⟩

theorem runPrepared_runs {s t : State} {p : Packet} {code input : List (Byte × Bool)} :
    RunAt t (runPrepared s p code input t) p (runCore s p * 4) := by
  unfold runPrepared
  simp only
  obtain ⟨_, placed⟩ := placeCode_fields t (s.partition p.wid) translatorBase (code.map Prod.fst)
  rw [placed]
  refine ⟨⟨runFor p, ?_, rfl, rfl⟩, ?_⟩
  · obtain ⟨_, _, _, _, _, stands⟩ := withRun_fields s p code input (t.placeCode (s.partition p.wid) translatorBase (code.map Prod.fst))
    rw [← placed, stands]
    exact Assoc.find_put_same _ _ _
  · rw [State.slot_setSlot_same]
    exact ⟨rfl, rfl, Nat.lt_of_lt_of_le (Nat.lt_succ_self _) (Nat.le_add_right _ _)⟩

theorem RunAt.wentThrough {s u : State} {p : Packet} {k id : Nat} (h : RunAt s u p k) : RunAt s (wentThrough u id) p k := h

theorem RunAt.of_withKey {s t u : State} {p p' : Packet} {k : Nat} {code input : List (Byte × Bool)}
    (h : RunAt (withKey s p' code input t) u p k) : RunAt t u p k := h

theorem translate_steps {s s1 s2 : State} {p q : Packet} {code input : List (Byte × Bool)} (h : Working s p)
    (new : s.launchOf p.id = none)
    (hc : frontRead p.translator (p.field 32 8) (p.field 40 4) s = .ok (code, s1))
    (hi : frontRead p.translator (p.field 48 8) (p.field 56 4) s1 = .ok (input, s2)) (hq : s2.packet p.id = some q)
    (open_ : q.result = none) :
    (∀ i, s.image (imageKey s p code input) p.wid = some i → i.cost ≤ p.field 44 4 →
      ∃ t, exec .translatePacket s = .next t ∧ Decided t p.id {})
    ∧ ((∀ i, s.image (imageKey s p code input) p.wid = some i → p.field 44 4 < i.cost) →
      ∃ t k r, exec .translatePacket s = .next t ∧ t.runs.find k = some r ∧ r.pk = p.id ∧ r.meter = p.field 44 4
        ∧ (t.slot k).xlt = true ∧ (t.slot k).occupied = true ∧ s2.cycle < (t.slot k).ready) := by
  refine ⟨fun i found cheap => ?_, fun dear => ?_⟩
  · refine ⟨_, ?_, withImage_decided (t := withKey s p code input s2) (key := imageKey s p code input) (i := i)
      (withKey_packet hq) open_⟩
    rw [exec_translatePacket h new, State.runFront_ok (translatePacket_hit hc hi found cheap)]
  · obtain ⟨⟨r, found, pk, meter⟩, xlt, occupied, later⟩ :=
      ((runPrepared_runs (s := s) (t := withKey s p code input s2) (p := p) (code := code)
        (input := input)).wentThrough (id := p.id)).of_withKey
    refine ⟨wentThrough (runPrepared s p code input (withKey s p code input s2)) p.id, _, r, ?_, found, pk, meter, xlt, occupied, later⟩
    rw [exec_translatePacket h new, State.runFront_ok (translatePacket_miss hc hi dear)]

/-! ## The loader's check -/

/-- A launch whose fields change is found with them. -/
theorem find_modLaunch {s : State} {lid : Nat} {l : Launch} (f : Launch → Launch) (h : s.launches.find lid = some l) :
    (s.modLaunch lid f).launches.find lid = some (f l) := by
  unfold State.modLaunch
  rw [h]
  exact Assoc.find_put_same _ _ _

/-- The end of a run stands: its launch has an ending, and its slot is free. -/
def runEnded (s : State) (k lid : Nat) (v : EndValues) : State :=
  ((s.modLaunch lid (fun l => { l with ending := some v })).endRun k).schedule s.cycle .launchEnd [lid]

theorem runEnded_ends {s : State} {k lid : Nat} {l : Launch} (v : EndValues) (h : s.launches.find lid = some l) :
    (runEnded s k lid v).launches.find lid = some { l with ending := some v }
      ∧ ((runEnded s k lid v).slot k).occupied = false ∧ (runEnded s k lid v).runOf k = none
      ∧ (runEnded s k lid v).images = s.images := by
  refine ⟨find_modLaunch _ h, ?_, Assoc.find_erase_same _ _, ?_⟩
  · exact congrArg Slot.occupied (State.slot_setSlot_same (s.modLaunch lid (fun l => { l with ending := some v })) k (slotDefault k))
  · unfold runEnded State.modLaunch
    rw [h]
    rfl

/-- The image that the loader makes of a run's output. -/
def imageOf (s : State) (k : Nat) (p : Packet) (o : Output) : Image :=
  let image := codeImage o.code s.library
  { key := p.key, wid := p.wid, code := image.1, codeLen := 8 * o.code.length, lib := image.2
    emulates := !(emulatedSites o.code).isEmpty, routes := o.routes, place := o.place, backMap := o.backMap
    cost := (s.slot k).retired.toNat, ht := p.ht, hc := s.catalogueHash, hcode := sha512 (image.1.take image.2), used := s.time }

/-- What the loader leaves before the run ends. -/
def validated (s : State) (k lid : Nat) (p : Packet) (o : Output) : State :=
  ((s.cacheImage (imageOf s k p o)).modPacket p.id (fun p => { p with cost := (s.slot k).retired.toNat })).modLaunch lid
    (fun l => { l with hcode := (imageOf s k p o).hcode })

theorem exec_loaderValidate {s : State} {k lid : Nat} {r : Run} {l : Launch} {p : Packet} (subject : s.subject = [k])
    (run : s.runOf k = some r) (launch : s.launches.find? (fun e => r.pk == e.2.pk) = some (lid, l)) (packet : s.packet r.pk = some p)
    (open_ : l.ending = none) :
    (∀ c off, checkOutput (s.memAt (.window k)) r.output = .error (c, off) → exec .loaderValidate s
      = .next (runEnded (s.modPacket r.pk (fun p => { p with cost := (s.slot k).retired.toNat })) k lid
          { status := statusLoader, code := c, xval := BitVec.ofNat 64 off }))
    ∧ ∀ o, checkOutput (s.memAt (.window k)) r.output = .ok o →
        exec .loaderValidate s = .next (runEnded (validated s k lid p o) k lid {}) := by
  have runs : exec .loaderValidate s = execLoaderValidate s := rfl
  unfold execLoaderValidate at runs
  have listed : s.launches.find? (fun e => (some r).any (fun r => r.pk == e.2.pk)) = some (lid, l) := launch
  rw [subject] at runs
  simp only [run, listed, packet, open_] at runs
  refine ⟨fun c off bad => ?_, fun o good => ?_⟩
  · rw [bad] at runs
    exact runs
  · rw [good] at runs
    exact runs

theorem loader_decides {s : State} {k lid : Nat} {r : Run} {l : Launch} {p : Packet} {o : Except (Nat × Nat) Output}
    (subject : s.subject = [k]) (run : s.runOf k = some r)
    (launch : s.launches.find? (fun e => r.pk == e.2.pk) = some (lid, l)) (found : s.launches.find lid = some l)
    (packet : s.packet r.pk = some p) (open_ : l.ending = none) (output : checkOutput (s.memAt (.window k)) r.output = o) :
    ∃ t v l', exec .loaderValidate s = .next t ∧ t.launches.find lid = some l' ∧ l'.ending = some v
      ∧ (t.slot k).occupied = false ∧ t.runOf k = none
      ∧ (∀ c off, o = .error (c, off) → v = { status := 0x45, code := c, xval := BitVec.ofNat 64 off })
      ∧ (∀ y, o = .ok y → v = {} ∧ ∃ i ∈ t.images, i.key = p.key ∧ i.wid = p.wid ∧ i.routes = y.routes ∧ i.place = y.place) := by
  obtain ⟨bad, good⟩ := exec_loaderValidate subject run launch packet open_
  cases o with
  | error e =>
    obtain ⟨c, off⟩ := e
    obtain ⟨ends, free, gone, -⟩ := runEnded_ends (s := s.modPacket r.pk (fun p => { p with cost := (s.slot k).retired.toNat }))
      (k := k) { status := statusLoader, code := c, xval := BitVec.ofNat 64 off } found
    refine ⟨_, _, _, bad c off output, ends, rfl, free, gone, fun _ _ h => ?_, fun _ h => ?_⟩
    · cases h
      rfl
    · cases h
  | ok y =>
    have loaded : (validated s k lid p y).launches.find lid = some { l with hcode := (imageOf s k p y).hcode } :=
      find_modLaunch (s := (s.cacheImage (imageOf s k p y)).modPacket p.id (fun p => { p with cost := (s.slot k).retired.toNat })) _ found
    obtain ⟨ends, free, gone, images⟩ := runEnded_ends (k := k) {} loaded
    have cached : (validated s k lid p y).images = (s.cacheImage (imageOf s k p y)).images := by
      unfold validated State.modLaunch
      split
      · rfl
      · rfl
    refine ⟨_, _, _, good y output, ends, rfl, free, gone, fun _ _ h => ?_, fun _ h => ?_⟩
    · cases h
    · cases h
      refine ⟨rfl, imageOf s k p y, ?_, rfl, rfl, rfl, rfl⟩
      rw [images, cached]
      exact List.mem_append_right _ (List.mem_singleton.mpr rfl)

end Sys2Proof.Statements
end

section
/-! SUPPORT. The drain and the reset of a partition, and the end of a launch (R310, R315, R364). -/

namespace Sys2Proof.Machine

open Sys2Proof.Statements

/-! ## Slots that are listed -/

/-- No slot is listed that was not. -/
def NoNewSlots (s t : State) : Prop := ∀ k ∈ t.slots.map Prod.fst, k ∈ s.slots.map Prod.fst

theorem NoNewSlots.of_eq {s t : State} (h : t.slots = s.slots) : NoNewSlots s t := fun k hk => h ▸ hk

theorem NoNewSlots.refl (s : State) : NoNewSlots s s := .of_eq rfl

theorem NoNewSlots.trans {s t u : State} (h : NoNewSlots s t) (g : NoNewSlots t u) : NoNewSlots s u :=
  fun k hk => h k (g k hk)

theorem NoNewSlots.foldl {α : Type} {f : State → α → State} (hf : ∀ s a, NoNewSlots s (f s a)) (l : List α) (s : State) :
    NoNewSlots s (l.foldl f s) := by
  induction l generalizing s with
  | nil => exact .refl s
  | cons a l ih => exact (hf s a).trans (ih _)

theorem MemMoves.noNewSlots {s t : State} (h : MemMoves s t) : NoNewSlots s t := by
  obtain ⟨_, _, _, _, _, _, _, _, _, _, _, _, rfl⟩ := h.fields
  exact .refl s

theorem Assoc.keys_set {α : Type} [DecidableEq α] {dflt : Nat → α} {m : Assoc α} {k j : Nat} {v : α}
    (h : j ∈ (m.set dflt k v).map Prod.fst) : j = k ∨ j ∈ m.map Prod.fst := by
  obtain ⟨e, he, rfl⟩ := List.mem_map.mp h
  unfold Assoc.set at he
  split at he
  · exact Or.inr (List.mem_map.mpr ⟨e, (List.mem_filter.mp he).1, rfl⟩)
  · rcases Assoc.mem_put he with rfl | he
    · exact Or.inl rfl
    · exact Or.inr (List.mem_map.mpr ⟨e, he, rfl⟩)

/-- A slot that is listed stays so, or goes. -/
theorem NoNewSlots.setSlot {s : State} {k : Nat} (v : Slot) (h : k ∈ s.slots.map Prod.fst) : NoNewSlots s (s.setSlot k v) :=
  fun _ hj => (Assoc.keys_set hj).elim (fun same => same ▸ h) id

/-- A slot whose ring holds something is listed. -/
theorem listed_of_ring {s : State} {k q i : Nat} {P : RingSlot → Bool}
    (h : (((s.slot k).rings.get ringDefault q).slots.find i).any P = true) : k ∈ s.slots.map Prod.fst := by
  by_contra gone
  have empty : s.slot k = slotDefault k := Assoc.get_unlisted _ fun e he same => gone (List.mem_map.mpr ⟨e, he, same⟩)
  rw [empty] at h
  cases h

theorem NoNewSlots.retireEntry (s : State) (e : Nat) : NoNewSlots s (s.retireEntry e) := by
  unfold State.retireEntry
  simp only
  split
  · split
    · exact .of_eq rfl
    · split
      · refine .of_eq ?_
        unfold State.settleHeldSlot State.modLaunch
        split
        · rfl
        · rfl
      · split
        next held => exact NoNewSlots.setSlot (s := s.setEntry e _) _ (listed_of_ring held)
        · exact .of_eq rfl
  · exact .refl s

theorem NoNewSlots.poisonTile (s : State) (e : Nat) : NoNewSlots s (s.poisonTile e) := by
  unfold State.poisonTile
  simp only
  generalize (if (s.entry e).scratch = true then s.savedScratch (s.entry e).lid (s.entry e).core (s.entry e).base.toNat else none) = saved
  split
  · exact (MemMoves.poisonHome _ _ _ _ _).noNewSlots
  · exact .of_eq rfl

theorem OnlyHandles.abandonEntry (s : State) (e : Nat) : OnlyHandles s (s.abandonEntry e) := by
  unfold State.abandonEntry
  simp only
  split
  · exact .refl s
  · refine OnlyHandles.trans ?_ (.retireEntry _ e)
    refine OnlyHandles.trans ?_ (.setEntry _ e _)
    split
    · exact .poisonTile s e
    · exact .refl s

theorem NoNewSlots.abandonEntry (s : State) (e : Nat) : NoNewSlots s (s.abandonEntry e) := by
  unfold State.abandonEntry
  simp only
  split
  · exact .refl s
  · refine NoNewSlots.trans ?_ (.retireEntry _ e)
    refine NoNewSlots.trans (t := if _ then _ else _) ?_ (.of_eq rfl)
    split
    · exact .poisonTile s e
    · exact .refl s

/-- Every entry homed on some dies is abandoned. -/
def State.abandonAll (s : State) (dies : List Nat) : State := dies.foldl State.abandonEntries s

theorem OnlyHandles.abandonAll (s : State) (dies : List Nat) : OnlyHandles s (s.abandonAll dies) :=
  .foldl (fun u _ => .foldl (fun v _ => .abandonEntry v _) _ u) dies s

theorem NoNewSlots.abandonAll (s : State) (dies : List Nat) : NoNewSlots s (s.abandonAll dies) :=
  .foldl (fun u _ => .foldl (fun v _ => .abandonEntry v _) _ u) dies s

/-! ## The reset of a partition -/

theorem State.preparePartition_slots (s : State) (dies : List Nat) (fuse : Nat → Bool) :
    ∀ k ∈ (s.preparePartition dies fuse).slots.map Prod.fst, dies.contains (dieOfCore (coreOfSlot k)) = false := by
  intro k hk
  obtain ⟨e, he, rfl⟩ := List.mem_map.mp hk
  have kept := (List.mem_filter.mp he).2
  rwa [Bool.not_eq_true'] at kept

theorem State.resetPartition_rest (s : State) (l : Launch) : SamePackage s (s.resetPartition l)
    ∧ (∀ e ∈ (s.resetPartition l).slots, l.dies.contains (dieOfCore (coreOfSlot e.1)) = false)
    ∧ (∀ e ∈ (s.resetPartition l).arena, l.dies.contains (dieOfCore e.1) = false)
    ∧ ∀ e ∈ (s.resetPartition l).scratch, l.dies.contains (dieOfCore e.1) = false := by
  have prepared := (OnlyEmpties.preparePartition s l.dies (fun _ => false)).samePackage
  have slots := s.preparePartition_slots l.dies (fun _ => false)
  have abandoned := (OnlyHandles.abandonAll (s.preparePartition l.dies (fun _ => false)) l.dies).samePackage
  have keys := NoNewSlots.abandonAll (s.preparePartition l.dies (fun _ => false)) l.dies
  refine ⟨prepared.trans (abandoned.trans ?_), fun e he => slots _ (keys _ (List.mem_map.mpr ⟨e, he, rfl⟩)), fun e he => ?_,
    fun e he => ?_⟩
  · exact ⟨rfl, rfl, rfl, rfl, rfl, rfl, rfl, fun _ h => h, rfl, fun _ h => h⟩
  · simpa using (List.mem_filter.mp he).2
  · simpa using (List.mem_filter.mp he).2

/-! ## The drain of a partition -/

/-- No message of a launch stays on its way once its messages are emptied. -/
theorem State.dropMessages_flying (s : State) (lid : Nat) : ∀ m ∈ (s.dropMessages lid).flying, m.lid ≠ lid := by
  have rest : SamePackage { s with
      flying := s.flying.filter (fun m => m.lid != lid), flyingEvents := s.flyingEvents.filter (fun m => m.lid != lid) }
      (s.dropMessages lid) := by
    refine SamePackage.trans (SamePackage.foldl (fun u c => .of_units ⟨_, _, _, _, _, _, _, _, _, _, rfl⟩) _ _)
      (SamePackage.foldl (fun u m => ?_) _ _)
    split
    · exact (OnlyHandles.dropWord _ _ _).samePackage
    · exact .refl u
  intro m hm
  simpa using (List.mem_filter.mp (rest.flying m hm)).2

theorem State.drainPartition_flying (s : State) (l : Launch) : ∀ m ∈ (s.drainPartition l).flying, m.lid ≠ l.lid := by
  unfold State.drainPartition
  simp only
  generalize List.foldl (fun s cl => State.dropCopies s l.lid cl) _ _ = u
  intro m hm
  refine State.dropMessages_flying u l.lid m ((SamePackage.dropPending (u.dropMessages l.lid) l.lid).flying m ?_)
  have requests : SamePackage ((u.dropMessages l.lid).dropPending l.lid).2
      (((u.dropMessages l.lid).dropPending l.lid).2.dropRequests (fun r => l.dies.contains r.die)) :=
    .of_units ⟨_, _, _, _, _, _, _, _, _, _, rfl⟩
  exact requests.flying m hm

end Sys2Proof.Machine

namespace Sys2Proof.Statements

open Sys2Proof.Machine

theorem drain_steps {s : State} {lid : Nat} {l : Launch} {v : EndValues} (subject : s.subject = [lid])
    (found : s.launches.find lid = some l) (number : l.lid = lid) (ended : l.ending = some v) (live : l.saved = false)
    (task : s.runs.all (fun e => e.2.pk != l.pk) = true) :
    ∃ t, exec .partitionDrainReset s = .next t
      ∧ (∀ e ∈ t.slots, l.dies.contains (dieOfCore (coreOfSlot e.1)) = false)
      ∧ (∀ m ∈ t.flying, m.lid ≠ lid) ∧ (∀ e ∈ t.arena, l.dies.contains (dieOfCore e.1) = false)
      ∧ (∀ e ∈ t.scratch, l.dies.contains (dieOfCore e.1) = false)
      ∧ ∃ d ∈ t.agenda, d.step = .launchEnd ∧ d.subject = [lid] ∧ s.cycle < d.at_ := by
  have noRun : s.runs.find? (fun e => e.2.pk == l.pk) = none := by
    rw [List.find?_eq_none]
    intro e he
    simpa using List.all_eq_true.mp task e he
  have runs : exec .partitionDrainReset s
      = .next (((s.drainPartition l).resetPartition l).scheduleWithin 49000 .launchEnd [lid]) := by
    refine (show exec .partitionDrainReset s = execPartitionDrainReset s from rfl).trans ?_
    unfold execPartitionDrainReset
    rw [subject]
    simp only [found, ended, noRun, live, ite_self]
    rfl
  have drained := SamePackage.drainPartition s l
  have flying := s.drainPartition_flying l
  obtain ⟨reset, slots, arena, scratch⟩ := (s.drainPartition l).resetPartition_rest l
  have now := reset.cycle.trans drained.cycle
  have left : ∀ m ∈ ((s.drainPartition l).resetPartition l).flying, m.lid ≠ lid := fun m hm =>
    number ▸ flying m (reset.flying m hm)
  revert runs slots arena scratch now left
  generalize (s.drainPartition l).resetPartition l = u
  intro runs slots arena scratch now left
  refine ⟨_, runs, slots, left, arena, scratch, _, agenda_schedule _ _ _ _, rfl, rfl, ?_⟩
  rw [← now]
  exact Nat.lt_of_lt_of_le (Nat.lt_succ_self _) (Nat.le_add_right _ _)

end Sys2Proof.Statements
end

section
/-! SUPPORT. The end of a launch (R315, R361, R364). -/

namespace Sys2Proof.Machine

open Sys2Proof.Statements

/-! ## Packets that stay -/

/-- Every packet stays, but for what its signals have told. -/
def KeepsPackets (s t : State) : Prop := ∀ id p, s.packet id = some p → ∃ v, t.packet id = some { p with verdict := v }

theorem KeepsPackets.of_eq {s t : State} (h : t.packets = s.packets) : KeepsPackets s t := by
  intro id p hp
  refine ⟨p.verdict, ?_⟩
  unfold State.packet at hp ⊢
  rw [h, hp]

theorem KeepsPackets.refl (s : State) : KeepsPackets s s := .of_eq rfl

theorem KeepsPackets.trans {s t u : State} (h : KeepsPackets s t) (g : KeepsPackets t u) : KeepsPackets s u := by
  intro id p hp
  obtain ⟨v, hv⟩ := h id p hp
  obtain ⟨w, hw⟩ := g id _ hv
  exact ⟨w, hw⟩

theorem KeepsPackets.foldl {α : Type} {f : State → α → State} (hf : ∀ s a, KeepsPackets s (f s a)) (l : List α) (s : State) :
    KeepsPackets s (l.foldl f s) := by
  induction l generalizing s with
  | nil => exact .refl s
  | cons a l ih => exact (hf s a).trans (ih _)

theorem KeepsPackets.of_verdicts {s t : State}
    (h : ∃ f : Packet → Option (Option Nat), t.packets = s.packets.map (fun p => { p with verdict := f p })) : KeepsPackets s t := by
  obtain ⟨f, ht⟩ := h
  intro id p hp
  refine ⟨f p, ?_⟩
  unfold State.packet at hp ⊢
  rw [ht, List.find?_map]
  exact congrArg (Option.map (fun p => ({ p with verdict := f p } : Packet))) hp

theorem KeepsPackets.performAll (s : State) (k : Nat) (beyond : Bool) (xs : List Acc) : KeepsPackets s (s.performAll k beyond xs) := by
  unfold State.performAll
  simp only
  split
  · exact (KeepsPackets.of_verdicts (Performs.performEach (k := k) xs s).packets).trans
      (.of_verdicts (Performs.sendHome (k := k) _ _).packets)
  · exact .of_verdicts (Performs.performEach (k := k) xs s).packets

theorem KeepsPackets.retireLaunch (s : State) (l : Launch) : KeepsPackets s (s.retireLaunch l) := by
  unfold State.retireLaunch
  refine KeepsPackets.trans ?_ (.of_eq rfl)
  exact (KeepsPackets.foldl (fun u k => .performAll u k true _) _ s).trans
    (.foldl (fun u c => .of_verdicts (MemMoves.cleanL1 u c).packets) _ _)

theorem State.retireLaunch_gone (s : State) (l : Launch) : (s.retireLaunch l).launches.find l.lid = none :=
  Assoc.find_erase_same _ _

/-! ## The end of an interval -/

/-- A launch that does not stand is not made by a change of launches. -/
theorem find_modLaunch_none {s : State} {lid j : Nat} {f : Launch → Launch} (h : s.launches.find lid = none) :
    (s.modLaunch j f).launches.find lid = none := by
  unfold State.modLaunch
  split
  · exact h
  next found =>
    by_cases same : lid = j
    · rw [same, found] at h
      cases h
    · exact (Assoc.find_put_ne _ _ same).trans h

theorem modLaunch_packets (s : State) (j : Nat) (f : Launch → Launch) : (s.modLaunch j f).packets = s.packets := by
  unfold State.modLaunch
  split
  · rfl
  · rfl

theorem markAll_rest {lid : Nat} (ls : List Launch) {s : State} (h : s.launches.find lid = none) :
    (ls.foldl State.markAway s).launches.find lid = none ∧ (ls.foldl State.markAway s).packets = s.packets := by
  induction ls generalizing s with
  | nil => exact ⟨h, rfl⟩
  | cons l ls ih =>
    obtain ⟨gone, packets⟩ := ih (s := s.markAway l) (find_modLaunch_none h)
    exact ⟨gone, packets.trans (modLaunch_packets s _ _)⟩

theorem State.endInterval_rest {s : State} {lid : Nat} (w : Nat) (h : s.launches.find lid = none) :
    (s.endInterval w).launches.find lid = none ∧ (s.endInterval w).packets = s.packets :=
  markAll_rest ((s.launches.map Prod.snd).filter (fun l => l.world == w && l.saved)) h

end Sys2Proof.Machine

namespace Sys2Proof.Statements

open Sys2Proof.Machine

/-! ## LAUNCH_END -/

/-- The packet of a launch that is over knows what the launch was. -/
def closed (s : State) (l : Launch) (v : EndValues) (boundary : Bool) : State :=
  s.modPacket l.pk (fun p => { p with
    working := false, released := boundary, dropt := l.dropped, bpos := if v.trap then l.bpos v.xpc else 0xFFFFFFFF
    tstart := if l.started then l.tstart else p.tstart
    dies := l.dies, ht := l.ht, hcode := l.hcode, npoison := l.npoison, nroll := l.nroll })

theorem closed_decided {s : State} {l : Launch} {p : Packet} (v : EndValues) (boundary : Bool) (h : s.packet l.pk = some p)
    (open_ : p.result = none) : Decided ((closed s l v boundary).decidePacket l.pk v) l.pk v := by
  refine ⟨_, State.packet_decidePacket (s := closed s l v boundary) (p := { p with
    working := false, released := boundary, dropt := l.dropped, bpos := if v.trap then l.bpos v.xpc else 0xFFFFFFFF
    tstart := if l.started then l.tstart else p.tstart
    dies := l.dies, ht := l.ht, hcode := l.hcode, npoison := l.npoison, nroll := l.nroll }) ?_ open_, rfl⟩
  refine (State.packet_modPacket (f := fun p => { p with
    working := false, released := boundary, dropt := l.dropped, bpos := if v.trap then l.bpos v.xpc else 0xFFFFFFFF
    tstart := if l.started then l.tstart else p.tstart
    dies := l.dies, ht := l.ht, hcode := l.hcode, npoison := l.npoison, nroll := l.nroll }) fun _ => rfl).trans ?_
  rw [h]
  rfl

theorem decided_launches (s : State) (l : Launch) (v : EndValues) (boundary : Bool) :
    ((closed s l v boundary).decidePacket l.pk v).launches = s.launches := by
  unfold State.decidePacket
  split
  · rfl
  · split
    · rfl
    · rfl

theorem launch_ends {s : State} {lid : Nat} {l : Launch} {p : Packet} {v : EndValues} (subject : s.subject = [lid])
    (found : s.launches.find lid = some l) (number : l.lid = lid) (ended : l.ending = some v) (packet : s.packet l.pk = some p)
    (open_ : p.result = none)
    (quiet : s.intervalWorlds.contains l.world = false ∨ p.type = 2 ∨ s.copiesDone l.dies = true) :
    ∃ t, exec .launchEnd s = .next t ∧ t.launches.find lid = none ∧ Decided t l.pk v := by
  subst number
  have runs : exec .launchEnd s = execLaunchEnd s := rfl
  unfold execLaunchEnd at runs
  rw [subject] at runs
  have waits : (s.intervalWorlds.contains l.world && !(p.type == 2) && !s.copiesDone l.dies) = false := by
    rcases quiet with h | h | h
    · rw [h]
      rfl
    · simp [h]
    · simp [h]
  have run : (s.packet l.pk).any (fun p => p.type == 2) = (p.type == 2) := by
    rw [packet]
    rfl
  simp only [found, ended, run] at runs
  rw [if_neg (by simp only [waits]; exact Bool.false_ne_true)] at runs
  obtain ⟨_, kept⟩ := KeepsPackets.retireLaunch s l _ _ packet
  have gone := s.retireLaunch_gone l
  revert runs kept gone
  generalize s.retireLaunch l = u
  intro runs kept gone
  generalize hb : (u.intervalWorlds.contains l.world && !(p.type == 2)) = boundary at runs
  obtain ⟨left, packets⟩ := u.endInterval_rest l.world gone
  cases boundary with
  | false => exact ⟨_, runs, (congrArg (fun ls => Assoc.find ls l.lid) (decided_launches u l v false)).trans gone,
      closed_decided v false kept open_⟩
  | true =>
    refine ⟨_, runs, (congrArg (fun ls => Assoc.find ls l.lid) (decided_launches (u.endInterval l.world) l v true)).trans left,
      closed_decided v true ((congrArg (fun ps : List Packet => ps.find? (fun q : Packet => q.id == l.pk)) packets).trans kept) open_⟩

end Sys2Proof.Statements
end

section
/-! PROOF. LAUNCH and TRANSLATE packets, the loader, and the end of a launch. -/

namespace Sys2Proof.Statements

open Sys2Proof.Machine

/-- Settles O55: each step is followed to the state that its work leaves; the plan, the place, the run, the check and the
end are each one lemma. -/
theorem launchesAndRuns : Obligations.LaunchesAndRuns := by
  unfold Obligations.LaunchesAndRuns
  refine ⟨?_, ?_, ?_, ?_, ?_, ?_, ?_, ?_, ?_⟩
  · exact fun s u p q x working new unplanned plan packet open_ still =>
      planned_steps working new unplanned plan packet open_ still
  · exact fun s p x working new planned ready hold far => load_waits working new planned ready hold far
  · exact fun s u p x working new planned ready reached placed => load_places working new planned ready reached placed
  · exact fun s p x base working new planned ready reached bare place =>
      load_places_all working new planned ready reached bare place
  · exact fun s p v working new fails => load_fails working new fails
  · exact fun s s1 s2 p q code input working new hc hi packet open_ => translate_steps working new hc hi packet open_
  · exact fun s k lid r l p o subject run launch _ found packet open_ output =>
      loader_decides subject run launch found packet open_ output
  · exact fun s lid l v subject found number ended live task => drain_steps subject found number ended live task
  · exact fun s lid l p v subject found number ended packet open_ quiet =>
      launch_ends subject found number ended packet open_ quiet

end Sys2Proof.Statements
end

section
/-! SUPPORT. The start event of a launch, its quiescence, and pre-emption up to the save (R23, R271, R286 to R289, R357). -/

namespace Sys2Proof.Machine

open Sys2Proof.Statements

/-! ## The first fetch -/

/-- The cycle from which a slot issues that fetches in a given cycle. -/
def State.fetchReady (s : State) (k now : Nat) : Nat :=
  match s.wordArrives (coreOfSlot k) (s.slot k).pc with
  | some t => max now t
  | none => now + missCycles (coreOfSlot k) (s.slot k).pc

theorem State.fetchFrom_rest (s : State) (k now : Nat) :
    (s.fetchFrom k now).slot k = { s.slot k with ready := s.fetchReady k now }
      ∧ (∀ j, j ≠ k → (s.fetchFrom k now).slot j = s.slot j)
      ∧ (s.fetchFrom k now).launches = s.launches ∧ (s.fetchFrom k now).cycle = s.cycle := by
  unfold State.fetchFrom State.fetchReady
  dsimp only
  cases s.wordArrives (coreOfSlot k) (s.slot k).pc with
  | some t => exact ⟨State.slot_setSlot_same _ _ _, fun j h => State.slot_setSlot_ne _ _ h, rfl, rfl⟩
  | none => exact ⟨State.slot_setSlot_same _ _ _, fun j h => State.slot_setSlot_ne _ _ h, rfl, rfl⟩

theorem State.fetchReady_le (s : State) (k now : Nat) : now ≤ s.fetchReady k now := by
  unfold State.fetchReady
  split
  · exact Nat.le_max_left _ _
  · exact Nat.le_add_right _ _

/-- An entry slot fetches its first word. -/
def State.startSlot (now : Nat) (s : State) (k : Nat) : State := (s.modSlot k (fun sl => { sl with parked := none })).fetchFrom k now

theorem State.startSlot_rest (s : State) (now k : Nat) :
    ((s.startSlot now k).slot k).ready = s.fetchReady k now ∧ (∀ j, j ≠ k → (s.startSlot now k).slot j = s.slot j)
      ∧ (s.startSlot now k).launches = s.launches := by
  obtain ⟨mine, others, launches, -⟩ := (s.modSlot k (fun sl => { sl with parked := none })).fetchFrom_rest k now
  have same : (s.modSlot k (fun sl => { sl with parked := none })).slot k = { s.slot k with parked := none } :=
    State.slot_setSlot_same _ _ _
  refine ⟨?_, fun j h => (others j h).trans (State.slot_setSlot_ne _ _ h), launches⟩
  refine (congrArg Slot.ready mine).trans ?_
  unfold State.fetchReady
  rw [same]
  rfl

/-- Every entry slot of a launch fetches. -/
theorem startSlots_ready (now : Nat) (ks : List Nat) (s : State) {k : Nat} (h : k ∈ ks ∨ now ≤ (s.slot k).ready) :
    now ≤ ((ks.foldl (State.startSlot now) s).slot k).ready := by
  induction ks generalizing s with
  | nil => exact h.elim (fun h => absurd h List.not_mem_nil) id
  | cons j ks ih =>
    obtain ⟨mine, others, -⟩ := s.startSlot_rest now j
    refine ih _ ?_
    by_cases same : k = j
    · subst same
      exact Or.inr (mine ▸ s.fetchReady_le k now)
    · rw [others k same]
      exact h.imp_left fun h => (List.mem_cons.mp h).resolve_left same

theorem startSlots_launches (now : Nat) (ks : List Nat) (s : State) : (ks.foldl (State.startSlot now) s).launches = s.launches := by
  induction ks generalizing s with
  | nil => rfl
  | cons j ks ih => exact (ih _).trans (s.startSlot_rest now j).2.2

/-- Steps are put on the agenda. -/
theorem foldl_schedule (at_ : Nat) (i : Instr) (cs : List Nat) (s : State) :
    ∃ agenda, cs.foldl (fun s c => s.schedule at_ i [c]) s = { s with agenda := agenda } := by
  induction cs generalizing s with
  | nil => exact ⟨_, rfl⟩
  | cons c cs ih =>
    obtain ⟨_, h⟩ := ih (s.schedule at_ i [c])
    exact ⟨_, h⟩

/-! ## Launches that keep what they are -/

/-- Every launch stays, but for what is held of it. -/
def KeepsLaunches (s t : State) : Prop :=
  ∀ lid l, s.launches.find lid = some l → ∃ h, t.launches.find lid = some { l with held := h }

theorem KeepsLaunches.of_eq {s t : State} (h : t.launches = s.launches) : KeepsLaunches s t := by
  intro lid l hl
  exact ⟨l.held, h ▸ hl⟩

theorem KeepsLaunches.refl (s : State) : KeepsLaunches s s := .of_eq rfl

theorem KeepsLaunches.trans {s t u : State} (h : KeepsLaunches s t) (g : KeepsLaunches t u) : KeepsLaunches s u := by
  intro lid l hl
  obtain ⟨_, h1⟩ := h lid l hl
  obtain ⟨x, h2⟩ := g lid _ h1
  exact ⟨x, h2⟩

theorem KeepsLaunches.foldl {α : Type} {f : State → α → State} (hf : ∀ s a, KeepsLaunches s (f s a)) (l : List α) (s : State) :
    KeepsLaunches s (l.foldl f s) := by
  induction l generalizing s with
  | nil => exact .refl s
  | cons a l ih => exact (hf s a).trans (ih _)

theorem MemMoves.keepsLaunches {s t : State} (h : MemMoves s t) : KeepsLaunches s t := by
  obtain ⟨_, _, _, _, _, _, _, _, _, _, _, _, rfl⟩ := h.fields
  exact .of_eq rfl

/-- A change of what is held of a launch. -/
theorem KeepsLaunches.modHeld {f : Launch → Launch} (hf : ∀ l, ∃ h, f l = { l with held := h }) (s : State) (j : Nat) :
    KeepsLaunches s (s.modLaunch j f) := by
  intro lid l hl
  by_cases same : lid = j
  · subst same
    obtain ⟨h, eq⟩ := hf l
    exact ⟨h, eq ▸ find_modLaunch f hl⟩
  · refine ⟨l.held, Eq.trans ?_ hl⟩
    unfold State.modLaunch
    split
    · rfl
    · exact Assoc.find_put_ne _ _ same

theorem KeepsLaunches.settleHeldSlot (s : State) (lid k q i : Nat) : KeepsLaunches s (s.settleHeldSlot lid k q i) := by
  refine .modHeld (fun l => ?_) s lid
  dsimp only
  split
  · exact ⟨_, rfl⟩
  · exact ⟨_, rfl⟩

theorem KeepsLaunches.retireEntry (s : State) (e : Nat) : KeepsLaunches s (s.retireEntry e) := by
  unfold State.retireEntry
  simp only
  split
  · split
    · exact .of_eq rfl
    · split
      · exact (KeepsLaunches.of_eq rfl).trans (.settleHeldSlot (s.setEntry e _) _ _ _ _)
      · split
        · exact .of_eq rfl
        · exact .of_eq rfl
  · exact .refl s

theorem KeepsLaunches.settleEntry (s : State) (e : Nat) (x : Entry) : KeepsLaunches s ((s.setEntry e x).retireEntry e) :=
  KeepsLaunches.trans (t := s.setEntry e x) (.of_eq rfl) (.retireEntry _ e)

theorem KeepsLaunches.settleFill (s : State) (e : Nat) (st : TileState) : KeepsLaunches s (s.settleFill e st) := by
  unfold State.settleFill
  simp only
  split
  · exact .refl s
  · split
    · exact .foldl (fun u m => .settleEntry u m _) _ s
    · exact (KeepsLaunches.foldl (fun u m => .settleEntry u m _) _ s).trans (.settleEntry _ e _)

theorem KeepsLaunches.poisonTile (s : State) (e : Nat) : KeepsLaunches s (s.poisonTile e) := by
  unfold State.poisonTile
  simp only
  generalize (if (s.entry e).scratch = true then s.savedScratch (s.entry e).lid (s.entry e).core (s.entry e).base.toNat else none) = saved
  split
  · exact (MemMoves.poisonHome _ _ _ _ _).keepsLaunches
  · exact .of_eq rfl

theorem KeepsLaunches.dropWord (s : State) (w : DWord) (publish : Bool) : KeepsLaunches s (s.dropWord w publish) := by
  unfold State.dropWord
  split
  · exact .refl s
  · split
    · exact .settleEntry s _ _
    · split
      · exact .settleFill _ _ _
      · exact (KeepsLaunches.foldl KeepsLaunches.poisonTile _ s).trans (.settleFill _ _ _)

/-- The step of `dropPending` for one core. -/
def dropCore (r : Nat × State) (c : Nat) : Nat × State :=
  let core := r.2.core c
  let held := (core.deque ++ core.spilled.map Spilled.desc).flatMap TaskDesc.handles
  let sent := core.inbox.filterMap (fun m => match m.kind with
    | .handle w _ => some w
    | _ => none)
  let wid := (r.2.die (dieOfCore c)).wid
  let s := (held ++ sent).foldl (fun s w =>
    if handleKind w = 0 || s.stale wid w then s else s.dropWord w false) r.2
  let s := s.modCore c (fun x => { x with deque := [], spilled := [], inbox := [], current := none, ports := [] })
  (r.1 + (core.deque.length + core.spilled.length), s)

theorem dropCore_keeps (r : Nat × State) (c : Nat) : KeepsLaunches r.2 (dropCore r c).2 ∧ (dropCore r c).2.cycle = r.2.cycle := by
  have each : ∀ (u : State) (w : DWord), KeepsLaunches u (if handleKind w = 0 || u.stale (r.2.die (dieOfCore c)).wid w then u
      else u.dropWord w false) := by
    intro u w
    split
    · exact .refl u
    · exact .dropWord u w false
  unfold dropCore
  exact ⟨(KeepsLaunches.foldl each _ r.2).trans (.of_eq rfl),
    (SamePackage.dropWords (fun w s => handleKind w = 0 || s.stale (r.2.die (dieOfCore c)).wid w) _ r.2).cycle⟩

theorem State.dropPending_keeps (s : State) (lid : Nat) : KeepsLaunches s (s.dropPending lid).2 ∧ (s.dropPending lid).2.cycle = s.cycle := by
  refine ⟨?_, (SamePackage.dropPending s lid).cycle⟩
  have all : ∀ (cs : List Nat) (r : Nat × State), KeepsLaunches r.2 (cs.foldl dropCore r).2 := by
    intro cs
    induction cs with
    | nil => exact fun r => .refl r.2
    | cons c cs ih => exact fun r => (dropCore_keeps r c).1.trans (ih _)
  unfold State.dropPending
  split
  · exact .refl s
  · exact all _ (0, s)

end Sys2Proof.Machine
end

section
/-! SUPPORT. What the start event, the second sample and a pre-emption leave (R271, R287, R289, R357, R358). -/

namespace Sys2Proof.Statements

open Sys2Proof.Machine

/-! ## The start event -/

/-- A launch has started in a state in which its entry slots fetch in the next cycle. -/
def started (s : State) (lid : Nat) (l : Launch) : State :=
  (l.dies.flatMap (l.entries.foldl (State.startSlot (s.cycle + 1)) (s.modLaunch lid (fun l => { l with
      started := true, start := some (s.cycle + 1), tstart := (s.time + s.period) / 4284, entries := [] }))).liveCores).foldl
    (fun u c => u.schedule (s.cycle + 1) .stealAttempt [c])
    (l.entries.foldl (State.startSlot (s.cycle + 1)) (s.modLaunch lid (fun l => { l with
      started := true, start := some (s.cycle + 1), tstart := (s.time + s.period) / 4284, entries := [] })))

theorem exec_startEvent {s : State} {lid : Nat} {l : Launch} (subject : s.subject = [lid]) (found : s.launches.find lid = some l)
    (fresh : l.started = false) (open_ : l.ending = none)
    (marked : s.intervalWorlds.contains l.world = true → l.checkpoint.isSome = true) :
    exec .startEvent s = .next (started s lid l) := by
  have runs : exec .startEvent s = execStartEvent s := rfl
  unfold execStartEvent at runs
  rw [subject] at runs
  have ready : (s.intervalWorlds.contains l.world && l.checkpoint.isNone) = false := by
    cases h : s.intervalWorlds.contains l.world with
    | false => rfl
    | true => simp [marked h]
  simp only [found, fresh, open_, ready] at runs
  exact runs

theorem started_slot (s : State) (lid : Nat) (l : Launch) (k : Nat) :
    (started s lid l).slot k = (l.entries.foldl (State.startSlot (s.cycle + 1)) (s.modLaunch lid (fun l => { l with
      started := true, start := some (s.cycle + 1), tstart := (s.time + s.period) / 4284, entries := [] }))).slot k := by
  unfold started
  obtain ⟨_, h⟩ := foldl_schedule (s.cycle + 1) .stealAttempt (l.dies.flatMap (l.entries.foldl (State.startSlot (s.cycle + 1))
    (s.modLaunch lid (fun l => { l with
      started := true, start := some (s.cycle + 1), tstart := (s.time + s.period) / 4284, entries := [] }))).liveCores)
    (l.entries.foldl (State.startSlot (s.cycle + 1)) (s.modLaunch lid (fun l => { l with
      started := true, start := some (s.cycle + 1), tstart := (s.time + s.period) / 4284, entries := [] })))
  rw [h]
  rfl

theorem started_launch {s : State} {lid : Nat} {l : Launch} (found : s.launches.find lid = some l) :
    (started s lid l).launches.find lid = some { l with
      started := true, start := some (s.cycle + 1), tstart := (s.time + s.period) / 4284, entries := [] } := by
  unfold started
  obtain ⟨_, h⟩ := foldl_schedule (s.cycle + 1) .stealAttempt (l.dies.flatMap (l.entries.foldl (State.startSlot (s.cycle + 1))
    (s.modLaunch lid (fun l => { l with
      started := true, start := some (s.cycle + 1), tstart := (s.time + s.period) / 4284, entries := [] }))).liveCores)
    (l.entries.foldl (State.startSlot (s.cycle + 1)) (s.modLaunch lid (fun l => { l with
      started := true, start := some (s.cycle + 1), tstart := (s.time + s.period) / 4284, entries := [] })))
  rw [h]
  exact (congrArg (fun ls => Assoc.find ls lid) (startSlots_launches _ _ _)).trans (find_modLaunch _ found)

theorem modLaunch_units (s : State) (lid : Nat) (f : Launch → Launch) :
    ∃ launches, s.modLaunch lid f = { s with launches := launches } := by
  unfold State.modLaunch
  split
  · exact ⟨_, rfl⟩
  · exact ⟨_, rfl⟩

theorem start_steps {s : State} {lid : Nat} {l : Launch} (subject : s.subject = [lid]) (found : s.launches.find lid = some l)
    (fresh : l.started = false) (open_ : l.ending = none)
    (marked : s.intervalWorlds.contains l.world = true → l.checkpoint.isSome = true) :
    ∃ t l', exec .startEvent s = .next t ∧ t.launches.find lid = some l' ∧ l'.started = true ∧ l'.start = some (s.cycle + 1)
      ∧ (∀ k ∈ l.entries, s.cycle + 1 ≤ (t.slot k).ready)
      ∧ ∀ k, l.entries = [k] →
        (∀ n, s.wordArrives (coreOfSlot k) (s.slot k).pc = some n → (t.slot k).ready = max (s.cycle + 1) n)
        ∧ (s.wordArrives (coreOfSlot k) (s.slot k).pc = none →
          (t.slot k).ready = s.cycle + 1 + missCycles (coreOfSlot k) (s.slot k).pc) := by
  refine ⟨_, _, exec_startEvent subject found fresh open_ marked, started_launch found, rfl, rfl, fun k hk => ?_, fun k only => ?_⟩
  · rw [started_slot]
    exact startSlots_ready _ _ _ (Or.inl hk)
  · have ready : ((started s lid l).slot k).ready = s.fetchReady k (s.cycle + 1) := by
      rw [started_slot, only]
      obtain ⟨_, units⟩ := modLaunch_units s lid (fun l => { l with
        started := true, start := some (s.cycle + 1), tstart := (s.time + s.period) / 4284, entries := [] })
      rw [units]
      exact (State.startSlot_rest _ _ _).1
    rw [ready]
    unfold State.fetchReady
    exact ⟨fun n h => by rw [h], fun h => by rw [h]⟩

/-! ## Quiescence -/

/-- A launch that is complete has its ending, and LAUNCH_END is due. -/
theorem completeLaunch_ends {s : State} {l m : Launch} (found : s.launches.find l.lid = some m) (live : m.deadlock = false) :
    ∃ l' v, (s.completeLaunch l).launches.find l.lid = some l' ∧ l'.ending = some v ∧ v.status = 0
      ∧ ∃ d ∈ (s.completeLaunch l).agenda, d.step = .launchEnd ∧ d.subject = [l.lid] ∧ d.at_ = s.cycle := by
  obtain ⟨keeps, now⟩ := s.dropPending_keeps l.lid
  obtain ⟨h, kept⟩ := keeps _ _ found
  unfold State.completeLaunch
  simp only
  refine ⟨_, _, find_modLaunch _ kept, rfl, ?_, _, agenda_schedule _ _ _ _, rfl, rfl, rfl⟩
  exact congrArg (fun d : Bool => if d then Cause.deadlock.code.toNat else 0) live

theorem sample_completes {s : State} {lid c n : Nat} {l : Launch} (subject : s.subject = [lid]) (found : s.launches.find lid = some l)
    (number : l.lid = lid) (sampled : l.sample = some (c, n, n)) (sent : l.sent = n) (received : l.received = n)
    (live : l.deadlock = false)
    (quiet : (s.modLaunch lid (fun l => { l with sample := some (s.cycle, l.sent, l.received) })).quiet l = true)
    (idle : (s.modLaunch lid (fun l => { l with sample := some (s.cycle, l.sent, l.received) })).allIdle l = true) :
    ∃ t l' v, exec .quiescenceSample s = .next t ∧ t.launches.find lid = some l' ∧ l'.ending = some v ∧ v.status = 0
      ∧ ∃ d ∈ t.agenda, d.step = .launchEnd ∧ d.subject = [lid] ∧ d.at_ = s.cycle := by
  have runs : exec .quiescenceSample s = execQuiescenceSample s := rfl
  unfold execQuiescenceSample at runs
  rw [subject] at runs
  simp only [found, sampled] at runs
  have marked := find_modLaunch (fun l => { l with sample := some (s.cycle, l.sent, l.received) }) found
  obtain ⟨_, units⟩ := modLaunch_units s lid (fun l => { l with sample := some (s.cycle, l.sent, l.received) })
  have now : (s.modLaunch lid (fun l => { l with sample := some (s.cycle, l.sent, l.received) })).cycle = s.cycle := by rw [units]
  revert quiet idle marked runs now
  generalize s.modLaunch lid (fun l => { l with sample := some (s.cycle, l.sent, l.received) }) = u
  intro quiet idle runs marked now
  rw [if_neg (by simp [quiet, sent, received]), if_pos idle] at runs
  subst number
  obtain ⟨l', v, ends, ending, status, d, listed, step, about, due⟩ := completeLaunch_ends marked live
  exact ⟨_, l', v, runs, ends, ending, status, d, listed, step, about, due.trans now⟩

theorem sample_deadlocks {s : State} {lid x : Nat} {l : Launch} (subject : s.subject = [lid, x])
    (found : s.launches.find lid = some l) (open_ : l.ending = none) : exec .quiescenceSample s = .next (s.deliverDeadlock l) := by
  refine (show exec .quiescenceSample s = execQuiescenceSample s from rfl).trans ?_
  unfold execQuiescenceSample
  rw [subject]
  simp only [found, open_]
  rfl

/-! ## Pre-emption -/

theorem foldl_modSlot_units (f : State → Nat → Slot → Slot) (ks : List Nat) (s : State) :
    ∃ slots, ks.foldl (fun s k => s.modSlot k (f s k)) s = { s with slots := slots } := by
  induction ks generalizing s with
  | nil => exact ⟨_, rfl⟩
  | cons k ks ih =>
    obtain ⟨_, h⟩ := ih (s.modSlot k (f s k))
    exact ⟨_, h⟩

theorem stopPartition_stops {s : State} {l : Launch} (checkpoint : Bool) (found : s.launches.find l.lid = some l) :
    (s.stopPartition l checkpoint).launches.find l.lid = some { l with
        preempting := some s.cycle, checkpointing := checkpoint, saving := false, quietSince := none, sample := none }
      ∧ ∃ d ∈ (s.stopPartition l checkpoint).agenda, d.step = .preemptTimeout ∧ d.subject = [l.lid, s.cycle]
        ∧ d.at_ = s.cycle + 65536 := by
  have marked := find_modLaunch (fun l => { l with
    preempting := some s.cycle, checkpointing := checkpoint, saving := false, quietSince := none, sample := none }) found
  obtain ⟨_, units⟩ := modLaunch_units s l.lid (fun l => { l with
    preempting := some s.cycle, checkpointing := checkpoint, saving := false, quietSince := none, sample := none })
  have now := congrArg State.cycle units
  unfold State.stopPartition
  revert marked now
  generalize s.modLaunch l.lid (fun l => { l with
    preempting := some s.cycle, checkpointing := checkpoint, saving := false, quietSince := none, sample := none }) = u
  intro marked now
  obtain ⟨_, stopped⟩ := foldl_modSlot_units (fun s k sl =>
    if sl.mode == .task && !s.midRecord k then { sl with request := none, granted := false } else sl) (u.slotsOn l) u
  simp only
  rw [stopped]
  have same : u.cycle = s.cycle := now
  refine ⟨marked, _, agenda_schedule _ _ _ _, rfl, ?_, ?_⟩
  · exact congrArg (fun c => [l.lid, c]) same
  · exact congrArg (· + 65536) same

theorem preempt_steps {s : State} {lid : Nat} {l : Launch} (subject : s.subject = [lid]) (found : s.launches.find lid = some l)
    (number : l.lid = lid) (runs : l.started = true) (open_ : l.ending = none) (free : l.preempting = none) (live : l.saved = false) :
    (l.preemptable = true → ∃ t l', exec .launchPreempt s = .next t ∧ t.launches.find lid = some l'
      ∧ l'.preempting = some s.cycle
      ∧ ∃ d ∈ t.agenda, d.step = .preemptTimeout ∧ d.subject = [lid, s.cycle] ∧ d.at_ = s.cycle + 65536)
    ∧ (l.preemptable = false → exec .launchPreempt s = .next s) := by
  have steps : exec .launchPreempt s = execLaunchPreempt s := rfl
  unfold execLaunchPreempt at steps
  rw [subject] at steps
  simp only [found, runs, open_, free, live] at steps
  subst number
  refine ⟨fun may => ?_, fun may => ?_⟩
  · rw [may] at steps
    obtain ⟨stopped, due⟩ := stopPartition_stops false found
    exact ⟨_, _, steps, stopped, rfl, due⟩
  · rw [may] at steps
    exact steps

theorem timeout_traps {s : State} {lid since k : Nat} {l : Launch} (subject : s.subject = [lid, since])
    (found : s.launches.find lid = some l) (asked : l.preempting = some since) (open_ : l.ending = none)
    (handler : (s.slotsOn l).find? (fun k => (s.slot k).occupied && (s.slot k).mode == .handler) = some k) :
    exec .preemptTimeout s = .next (s.takeTrap k .preempt (BitVec.ofNat 64 (s.cycle - since)) 0
      (s.codeWord (dieOfCore (coreOfSlot k)) (s.slot k).pc)) := by
  refine (show exec .preemptTimeout s = execPreemptTimeout s from rfl).trans ?_
  unfold execPreemptTimeout
  rw [subject]
  simp only [found, asked, open_, handler]
  rfl

end Sys2Proof.Statements
end

section
/-! SUPPORT. Saving, restoring and checkpoints of a launch (R357, R361). -/

namespace Sys2Proof.Machine

open Sys2Proof.Statements

/-! ## A partition that settles -/

/-- Launches, worlds and the time stay. -/
structure SameLaunches (s t : State) : Prop where
  launches : t.launches = s.launches
  worlds : t.worlds = s.worlds
  cycle : t.cycle = s.cycle

theorem SameLaunches.refl (s : State) : SameLaunches s s := ⟨rfl, rfl, rfl⟩

theorem SameLaunches.trans {s t u : State} (h : SameLaunches s t) (g : SameLaunches t u) : SameLaunches s u :=
  ⟨g.launches.trans h.launches, g.worlds.trans h.worlds, g.cycle.trans h.cycle⟩

theorem SameLaunches.foldl {α : Type} {f : State → α → State} (hf : ∀ s a, SameLaunches s (f s a)) (l : List α) (s : State) :
    SameLaunches s (l.foldl f s) := by
  induction l generalizing s with
  | nil => exact .refl s
  | cons a l ih => exact (hf s a).trans (ih _)

theorem MemMoves.sameLaunches {s t : State} (h : MemMoves s t) : SameLaunches s t := by
  obtain ⟨_, _, _, _, _, _, _, _, _, _, _, _, rfl⟩ := h.fields
  exact ⟨rfl, rfl, rfl⟩

theorem Performs.sameLaunches {k : Nat} {P : Nat → Prop} {s t : State} (h : Performs k P s t) : SameLaunches s t := by
  obtain ⟨_, _, _, _, _, _, _, _, _, _, _, _, _, rfl⟩ := h.fields
  exact ⟨rfl, rfl, rfl⟩

theorem OnlyEmpties.sameLaunches {s t : State} (h : OnlyEmpties s t) : SameLaunches s t := by
  obtain ⟨_, _, _, _, _, _, _, _, _, _, _, _, _, _, _, _, _, _, rfl⟩ := h.fields
  exact ⟨rfl, rfl, rfl⟩

theorem SameLaunches.performAll (s : State) (k : Nat) (beyond : Bool) (xs : List Acc) : SameLaunches s (s.performAll k beyond xs) := by
  unfold State.performAll
  simp only
  split
  · exact (Performs.performEach (k := k) xs s).sameLaunches.trans (Performs.sendHome _ _).sameLaunches
  · exact (Performs.performEach (k := k) xs s).sameLaunches

theorem SameLaunches.settleForSave (s : State) (k : Nat) : SameLaunches s (s.settleForSave k) :=
  (SameLaunches.performAll s k true (s.slot k).accs).trans ⟨rfl, rfl, rfl⟩

theorem SameLaunches.settlePartition (s : State) (l : Launch) : SameLaunches s (s.settlePartition l) :=
  (SameLaunches.foldl SameLaunches.settleForSave _ s).trans (.foldl (fun u c => (MemMoves.cleanL1 u c).sameLaunches) _ _)

theorem SameLaunches.preparePartition (s : State) (dies : List Nat) (fuse : Nat → Bool) :
    SameLaunches s (s.preparePartition dies fuse) := (OnlyEmpties.preparePartition s dies fuse).sameLaunches

/-! ## A partition that is left -/

theorem modLaunch_slots (s : State) (lid : Nat) (f : Launch → Launch) : (s.modLaunch lid f).slots = s.slots := by
  unfold State.modLaunch
  split
  · rfl
  · rfl

theorem State.leavePartition_rest {s : State} {l m : Launch} (found : s.launches.find l.lid = some m) :
    (∃ l', (s.leavePartition l).launches.find l.lid = some l' ∧ l'.saved = true ∧ l'.preempting = none)
      ∧ ∀ e ∈ (s.leavePartition l).slots, l.dies.contains (dieOfCore (coreOfSlot e.1)) = false := by
  have prepared := (SameLaunches.preparePartition s l.dies (fun _ => false)).launches
  have slots := s.preparePartition_slots l.dies (fun _ => false)
  have stands := (congrArg (fun ls => Assoc.find ls l.lid) prepared).trans found
  refine ⟨⟨_, find_modLaunch (fun x => { x with held := s.snapshot l, saved := true, preempting := none, saving := false }) stands,
    rfl, rfl⟩, fun e he => slots _ (List.mem_map.mpr ⟨e, ?_, rfl⟩)⟩
  have same := modLaunch_slots (s.preparePartition l.dies (fun _ => false)) l.lid
    (fun x => { x with held := s.snapshot l, saved := true, preempting := none, saving := false })
  exact same ▸ he

/-! ## A partition that is given back -/

theorem SameLaunches.foldl_modDie {α : Type} (k : α → Nat) (f : α → Die → Die) (es : List α) (s : State) :
    SameLaunches s (es.foldl (fun s e => s.modDie (k e) (f e)) s) :=
  SameLaunches.foldl (f := fun s e => s.modDie (k e) (f e)) (fun _ _ => ⟨rfl, rfl, rfl⟩) es s

theorem SameLaunches.setMemAt (s : State) (p : Place) (m : Mem) : SameLaunches s (s.setMemAt p m) :=
  (MemMoves.setMemAt s p m).sameLaunches

theorem OnlySends.sameLaunches {s t : State} (h : OnlySends s t) : SameLaunches s t := by
  obtain ⟨_, _, _, _, rfl⟩ := h
  exact ⟨rfl, rfl, rfl⟩

/-- The launch whose partition is given back runs again. -/
theorem State.returnPartition_rest {s : State} {l m : Launch} (b : Assoc Mem) (found : s.launches.find l.lid = some m) :
    ∃ l', (s.returnPartition l b).launches.find l.lid = some l' ∧ l'.saved = false ∧ l'.restoring = false := by
  have memory : ∀ (cs : List Nat) (u : State), SameLaunches u (cs.foldl (fun s c =>
      (s.setMemAt (.arena c) (({} : Mem).copyIn 0 0x40000 (b.get memDefault c) 0x10000)).setMemAt (.scratchpad c)
        (({} : Mem).copyIn 0 0x80000 (b.get memDefault c) 0x50000)) u) :=
    fun cs u => .foldl (fun v c => (SameLaunches.setMemAt v (.arena c) _).trans (.setMemAt _ (.scratchpad c) _)) cs u
  have sends : ∀ (cs : List Nat) (u : State), SameLaunches u (cs.foldl State.pump u) :=
    fun cs u => .foldl (fun v c => (OnlySends.pumpQueue c 4 v).sameLaunches) cs u
  unfold State.returnPartition
  simp only
  refine ⟨_, find_modLaunch _ (l := m) ?_, rfl, rfl⟩
  refine Eq.trans (congrArg (fun ls => Assoc.find ls l.lid) (SameLaunches.launches (s := s) ?_)) found
  refine SameLaunches.trans ?_ (sends _ _)
  refine SameLaunches.trans ?_ (.foldl_modDie Prod.fst (fun e d => { d with barriers := e.2 }) _ _)
  refine SameLaunches.trans ?_ (memory _ _)
  exact (SameLaunches.preparePartition s l.dies (fun _ => false)).trans ⟨rfl, rfl, rfl⟩

/-! ## A partition as a checkpoint holds it -/

theorem SameLaunches.clearPartition (s : State) (l : Launch) : SameLaunches s (s.clearPartition l) := ⟨rfl, rfl, rfl⟩

theorem SameLaunches.relaunchMessages (s : State) (h : Saved) : SameLaunches s (s.relaunchMessages h) := by
  unfold State.relaunchMessages
  simp only
  refine SameLaunches.trans (SameLaunches.trans (SameLaunches.trans ?_ (.foldl (fun u m => ?_) _ _)) (.foldl (fun u m => ?_) _ _))
    (.foldl (fun u m => ?_) _ _)
  · exact ⟨rfl, rfl, rfl⟩
  · exact ⟨rfl, rfl, rfl⟩
  · exact ⟨rfl, rfl, rfl⟩
  · exact ⟨rfl, rfl, rfl⟩

/-- A launch that is placed as its checkpoint holds it runs, and nothing of a save is under way. -/
theorem State.placeSaved_rest {s : State} {l m : Launch} (h : Saved) (found : s.launches.find l.lid = some m) :
    ∃ start, (s.placeSaved l h).launches.find l.lid = some { m with
      saved := false, restoring := false, held := {}
      preempting := none, checkpointing := false, saving := false, quietSince := none, sample := none, start := start } := by
  unfold State.placeSaved
  simp only
  refine ⟨_, find_modLaunch _ (Eq.trans (congrArg (fun ls => Assoc.find ls l.lid) (SameLaunches.launches (s := s) ?_)) found)⟩
  refine SameLaunches.trans ?_ (.foldl_modDie Prod.fst (fun e d => { d with barriers := e.2 }) _ _)
  exact ⟨rfl, rfl, rfl⟩

/-! ## A checkpoint -/

theorem SameLaunches.writeCheckpoint (s : State) (l : Launch) : SameLaunches s (s.writeCheckpoint l) := by
  unfold State.writeCheckpoint
  simp only
  refine SameLaunches.trans (SameLaunches.foldl (fun u c => ?_) _ s) (.foldl (fun u c => ?_) _ _)
  · exact ⟨rfl, rfl, rfl⟩
  · exact ⟨rfl, rfl, rfl⟩

theorem modLaunch_worlds (s : State) (lid : Nat) (f : Launch → Launch) :
    (s.modLaunch lid f).worlds = s.worlds ∧ (s.modLaunch lid f).cycle = s.cycle := by
  unfold State.modLaunch
  split
  · exact ⟨rfl, rfl⟩
  · exact ⟨rfl, rfl⟩

theorem State.takeCheckpoint_rest {s : State} {l m : Launch} (found : s.launches.find l.lid = some m) :
    (∃ l', (s.takeCheckpoint l).launches.find l.lid = some l' ∧ l'.checkpoint.isSome = true ∧ l'.preempting = none)
      ∧ (s.takeCheckpoint l).cycle = s.cycle := by
  have settled := (SameLaunches.settlePartition s l).trans (.writeCheckpoint _ l)
  have stands := (congrArg (fun ls => Assoc.find ls l.lid) settled.launches).trans found
  exact ⟨⟨_, find_modLaunch (fun x => { x with
    checkpoint := some { ((s.settlePartition l).writeCheckpoint l).snapshot l with whole := true }
    preempting := none, checkpointing := false, saving := false }) stands, rfl, rfl⟩,
    (modLaunch_worlds _ _ _).2.trans settled.cycle⟩

/-- The end of an interval leaves each launch what it is, but for a checkpoint that it may now have. -/
theorem State.markAway_keeps {s : State} {lid : Nat} {l' : Launch} (x : Launch) (found : s.launches.find lid = some l')
    (marked : l'.checkpoint.isSome = true) (free : l'.preempting = none) :
    ∃ y, (s.markAway x).launches.find lid = some y ∧ y.checkpoint.isSome = true ∧ y.preempting = none := by
  unfold State.markAway
  simp only
  by_cases same : lid = x.lid
  · subst same
    exact ⟨_, find_modLaunch _ found, rfl, free⟩
  · refine ⟨l', ?_, marked, free⟩
    unfold State.modLaunch
    split
    · exact found
    · exact (Assoc.find_put_ne _ _ same).trans found

theorem markAll_keeps {lid : Nat} (xs : List Launch) {s : State} {l' : Launch} (found : s.launches.find lid = some l')
    (marked : l'.checkpoint.isSome = true) (free : l'.preempting = none) :
    (∃ y, (xs.foldl State.markAway s).launches.find lid = some y ∧ y.checkpoint.isSome = true ∧ y.preempting = none)
      ∧ (xs.foldl State.markAway s).cycle = s.cycle := by
  induction xs generalizing s l' with
  | nil => exact ⟨⟨l', found, marked, free⟩, rfl⟩
  | cons x xs ih =>
    obtain ⟨y, stands, hy, hf⟩ := s.markAway_keeps x found marked free
    obtain ⟨rest, now⟩ := ih stands hy hf
    exact ⟨rest, now.trans (modLaunch_worlds _ _ _).2⟩

theorem State.endInterval_keeps {s : State} {lid : Nat} {l' : Launch} (w : Nat) (found : s.launches.find lid = some l')
    (marked : l'.checkpoint.isSome = true) (free : l'.preempting = none) :
    (∃ y, (s.endInterval w).launches.find lid = some y ∧ y.checkpoint.isSome = true ∧ y.preempting = none)
      ∧ ((s.endInterval w).world w).boundary = s.cycle ∧ ((s.endInterval w).world w).rolls = 0
      ∧ (∀ e ∈ (s.endInterval w).undo, e.1 ≠ w) ∧ ∀ e ∈ (s.endInterval w).commit, e.1 ≠ w := by
  obtain ⟨stands, now⟩ := markAll_keeps ((s.launches.map Prod.snd).filter (fun l => l.world == w && l.saved)) found marked free
  unfold State.endInterval
  simp only
  revert stands now
  generalize ((s.launches.map Prod.snd).filter (fun l => l.world == w && l.saved)).foldl State.markAway s = u
  intro stands now
  have world := State.world_modWorld_same (u.releaseInterval w) w (fun x => { x with boundary := u.cycle, rolls := 0 })
  refine ⟨stands, ?_, ?_, fun e he => ?_, fun e he => ?_⟩
  · rw [← now]
    exact congrArg World.boundary world
  · exact congrArg World.rolls world
  · simpa using (List.mem_filter.mp he).2
  · simpa using (List.mem_filter.mp he).2

end Sys2Proof.Machine

namespace Sys2Proof.Statements

open Sys2Proof.Machine

/-! ## The steps -/

/-- The work of PREEMPT_SAVE. -/
def saveWork (l : Launch) (p : Packet) : Front Unit := do
  Front.modify (fun s => s.settlePartition l)
  let s ← Front.state
  writePages l p.translator (s.contextBuffer l) (s.bufferPages l)
  Front.modify (fun s => s.leavePartition l)

theorem exec_preemptSave {s : State} {lid : Nat} {l : Launch} {p : Packet} (subject : s.subject = [lid])
    (found : s.launches.find lid = some l) (packet : s.packet l.pk = some p) (asked : l.preempting.isSome = true)
    (task : l.checkpointing = false) (open_ : l.ending = none) :
    exec .preemptSave s = .next (s.ifReady l (fun s => s.runForLaunch l p .preemptSave (saveWork l p))) := by
  have runs : exec .preemptSave s = execPreemptSave s := rfl
  unfold execPreemptSave at runs
  rw [subject] at runs
  have going : l.preempting.isNone = false := by
    cases h : l.preempting with
    | none =>
      rw [h] at asked
      cases asked
    | some _ => rfl
  simp only [found, packet, going, task, open_] at runs
  exact runs

theorem save_steps {s u : State} {lid : Nat} {l : Launch} {p : Packet} (subject : s.subject = [lid])
    (found : s.launches.find lid = some l) (number : l.lid = lid) (packet : s.packet l.pk = some p)
    (asked : l.preempting.isSome = true) (task : l.checkpointing = false) (open_ : l.ending = none) :
    (s.saveReady l = false → exec .preemptSave s = .next (s.modLaunch lid (fun l => { l with saving := false })))
    ∧ (s.saveReady l = true →
    let s1 := s.settlePartition l
    writePages l p.translator (s1.contextBuffer l) (s1.bufferPages l) s1 = .ok ((), u) → u.launches = s.launches →
    ∃ t l', exec .preemptSave s = .next t ∧ t.launches.find lid = some l' ∧ l'.saved = true ∧ l'.preempting = none
      ∧ (∀ e ∈ t.slots, l.dies.contains (dieOfCore (coreOfSlot e.1)) = false)) := by
  subst number
  have runs := exec_preemptSave subject found packet asked task open_
  unfold State.ifReady at runs
  refine ⟨fun busy => ?_, fun ready written kept => ?_⟩
  · rw [busy] at runs
    exact runs
  · rw [ready] at runs
    have done : saveWork l p s = .ok ((), u.leavePartition l) :=
      (Front.bind_ok (x := ()) (t := s.settlePartition l) rfl).trans ((Front.bind_ok (x := s.settlePartition l)
        (t := s.settlePartition l) rfl).trans ((Front.bind_ok written).trans rfl))
    obtain ⟨⟨l', stands, saved, free⟩, slots⟩ := State.leavePartition_rest
      ((congrArg (fun ls => Assoc.find ls l.lid) kept).trans found)
    rw [if_pos rfl] at runs
    beta_reduce at runs
    rw [State.runForLaunch, done] at runs
    exact ⟨_, l', runs, stands, saved, free, slots⟩

theorem readPages_onlyWalks (l : Launch) (t : Translator) (ps : List (Nat × Nat)) (b : Assoc Mem) : (readPages l t ps b).OnlyWalks := by
  induction ps generalizing b with
  | nil => exact Front.onlyWalks_pure _
  | cons r ps ih =>
    exact Front.onlyWalks_bind (frontPlace_onlyWalks _ _ _) fun _ => Front.onlyWalks_bind Front.onlyWalks_state fun _ => ih _

/-- CONTEXT_RESTORE of a launch that is saved and comes back. -/
theorem exec_contextRestore {s : State} {lid : Nat} {l : Launch} {p : Packet} (subject : s.subject = [lid])
    (found : s.launches.find lid = some l) (packet : s.packet l.pk = some p) (saved : l.saved = true)
    (back : l.restoring = true) (open_ : l.ending = none) (written : s.appending lid = false) :
    exec .contextRestore s = .next (if l.held.whole then
        (((s.preparePartition l.dies (fun _ => false)).clearPartition l).placeSaved l l.held).relaunchMessages l.held
      else s.runForLaunch l p .contextRestore (do
        let buffers ← readPages l p.translator (s.bufferPages l) []
        Front.modify (fun s => s.returnPartition l buffers))) := by
  have runs : exec .contextRestore s = execContextRestore s := rfl
  unfold execContextRestore at runs
  rw [subject] at runs
  simp only [found, packet, saved, back, open_, written] at runs
  exact runs

theorem restore_steps {s u : State} {lid : Nat} {l : Launch} {p : Packet} {b : Assoc Mem} (subject : s.subject = [lid])
    (found : s.launches.find lid = some l) (number : l.lid = lid) (packet : s.packet l.pk = some p) (saved : l.saved = true)
    (back : l.restoring = true) (open_ : l.ending = none) (written : s.appending lid = false) (parts : l.held.whole = false)
    (pages : readPages l p.translator (s.bufferPages l) [] s = .ok (b, u)) :
    ∃ t l', exec .contextRestore s = .next t ∧ t.launches.find lid = some l' ∧ l'.saved = false ∧ l'.restoring = false := by
  subst number
  have runs := exec_contextRestore subject found packet saved back open_ written
  rw [parts, if_neg Bool.false_ne_true, State.runForLaunch, Front.bind_ok pages] at runs
  obtain ⟨launches, -⟩ := walked_launches (readPages_onlyWalks _ _ _ _ _ _ _ pages)
  obtain ⟨l', stands, live, here⟩ := State.returnPartition_rest b ((congrArg (fun ls => Assoc.find ls l.lid) launches).trans found)
  exact ⟨_, l', runs, stands, live, here⟩

theorem restore_whole {s : State} {lid : Nat} {l : Launch} {p : Packet} (subject : s.subject = [lid])
    (found : s.launches.find lid = some l) (number : l.lid = lid) (packet : s.packet l.pk = some p) (saved : l.saved = true)
    (back : l.restoring = true) (open_ : l.ending = none) (written : s.appending lid = false) (whole : l.held.whole = true) :
    ∃ t l', exec .contextRestore s = .next t ∧ t.launches.find lid = some l' ∧ l'.saved = false ∧ l'.restoring = false
      ∧ l'.sent = l.sent ∧ l'.received = l.received := by
  subst number
  have runs := exec_contextRestore subject found packet saved back open_ written
  rw [whole, if_pos rfl] at runs
  have cleared := (SameLaunches.preparePartition s l.dies (fun _ => false)).trans (.clearPartition _ l)
  obtain ⟨_, placed⟩ := State.placeSaved_rest l.held ((congrArg (fun ls => Assoc.find ls l.lid) cleared.launches).trans found)
  have sent := SameLaunches.relaunchMessages
    (((s.preparePartition l.dies (fun _ => false)).clearPartition l).placeSaved l l.held) l.held
  exact ⟨_, _, runs, (congrArg (fun ls => Assoc.find ls l.lid) sent.launches).trans placed, rfl, rfl, rfl, rfl⟩

theorem boundary_steps {s : State} {lid : Nat} {l : Launch} (subject : s.subject = [lid]) (found : s.launches.find lid = some l)
    (number : l.lid = lid) (asked : l.preempting.isSome = true) (mark : l.checkpointing = true) (saving : l.saving = true)
    (open_ : l.ending = none) (ready : s.saveReady l = true) :
    ∃ t l', exec .intervalBoundary s = .next t ∧ t.launches.find lid = some l' ∧ l'.checkpoint.isSome = true
      ∧ l'.preempting = none ∧ (t.world l.world).boundary = s.cycle ∧ (t.world l.world).rolls = 0
      ∧ (∀ e ∈ t.undo, e.1 ≠ l.world) ∧ (∀ e ∈ t.commit, e.1 ≠ l.world) := by
  subst number
  have runs : exec .intervalBoundary s = execIntervalBoundary s := rfl
  unfold execIntervalBoundary at runs
  rw [subject] at runs
  simp only [found, asked, mark, saving, open_, State.ifReady, ready] at runs
  obtain ⟨⟨l', stands, marked, free⟩, now⟩ := State.takeCheckpoint_rest found
  obtain ⟨⟨y, rest, hy, hf⟩, boundary, rolls, undo, commit⟩ := State.endInterval_keeps l.world stands marked free
  exact ⟨_, y, runs, rest, hy, hf, boundary.trans now, rolls, undo, commit⟩

end Sys2Proof.Statements
end

section
/-! SUPPORT. What a rollback leaves of a launch (R361, R363). -/

namespace Sys2Proof.Machine

open Sys2Proof.Statements

/-! ## The interval is undone -/

theorem State.undoInterval_rest (s : State) (w : Nat) :
    (s.undoInterval w).launches = s.launches ∧ (s.undoInterval w).cycle = s.cycle ∧ (s.undoInterval w).runs = s.runs := by
  unfold State.undoInterval
  simp only
  generalize hv : ({ s.releaseInterval w with hostMem := _, dram := _ } : State) = v
  have same : v.launches = s.launches ∧ v.cycle = s.cycle ∧ v.runs = s.runs := by
    rw [← hv]
    exact ⟨rfl, rfl, rfl⟩
  generalize (_ ++ _ : List Piece) = ps
  obtain ⟨_, _, _, _, _, _, _, _, _, _, _, _, moved⟩ := (MemMoves.foldl MemMoves.wakeWords ps v).fields
  rw [moved]
  exact same

/-! ## One launch -/

theorem SameLaunches.emptyEngines (s : State) (l : Launch) : SameLaunches s (s.emptyEngines l) := ⟨rfl, rfl, rfl⟩

/-- What a checkpoint tells of its launch. -/
def rolledTo (l : Launch) (h : Saved) : Launch := { l with
  nroll := l.nroll + 1, ending := none, completing := false, dropped := 0
  sent := h.sent, received := h.received, barriers := h.worldBarriers, deadlock := h.deadlock }

/-- The state in which a launch has gone back to what its checkpoint tells, its units not yet. -/
def State.rolledBack (s : State) (l : Launch) (h : Saved) : State :=
  let u := s.emptyEngines l
  let u := { u with
    flying := u.flying.filter (fun m => m.lid != l.lid)
    flyingEvents := u.flyingEvents.filter (fun m => m.lid != l.lid)
    agenda := u.agenda.filter (fun d => !(isBarrierMessage l.lid d)) }
  h.handles.foldl (fun s e => s.modDie e.1 (fun d => { d with handles := e.2 })) (u.modLaunch l.lid (fun l => rolledTo l h))

theorem State.rollLaunch_eq (s : State) (l : Launch) (h : Saved) : s.rollLaunch l h
    = if l.saved then ((s.rolledBack l h).modLaunch l.lid (fun l => { l with held := h })).relaunchMessages h
      else if h.away then
        (((s.rolledBack l h).clearPartition l).modLaunch l.lid (fun l => { l with
          held := h, saved := true, preempting := none, checkpointing := false, saving := false })).relaunchMessages h
      else (((s.rolledBack l h).clearPartition l).placeSaved l h).relaunchMessages h := rfl

theorem State.rolledBack_launch {s : State} {l m : Launch} (h : Saved) (found : s.launches.find l.lid = some m) :
    (s.rolledBack l h).launches.find l.lid = some (rolledTo m h) := by
  unfold State.rolledBack
  simp only
  refine (congrArg (fun ls => Assoc.find ls l.lid)
    (SameLaunches.foldl_modDie Prod.fst (fun e d => { d with handles := e.2 }) h.handles _).launches).trans ?_
  exact find_modLaunch _ ((congrArg (fun ls => Assoc.find ls l.lid) (SameLaunches.emptyEngines s l).launches).trans found)

theorem State.rollLaunch_here {s : State} {l m : Launch} {h : Saved} (found : s.launches.find l.lid = some m)
    (live : l.saved = false) (here : h.away = false) :
    ∃ start, (s.rollLaunch l h).launches.find l.lid = some { rolledTo m h with
      saved := false, restoring := false, held := {}
      preempting := none, checkpointing := false, saving := false, quietSince := none, sample := none, start := start } := by
  have cleared := (congrArg (fun ls => Assoc.find ls l.lid) (SameLaunches.clearPartition (s.rolledBack l h) l).launches).trans
    (State.rolledBack_launch h found)
  obtain ⟨start, placed⟩ := State.placeSaved_rest h cleared
  rw [State.rollLaunch_eq, live, here]
  exact ⟨start, (congrArg (fun ls => Assoc.find ls l.lid) (SameLaunches.relaunchMessages _ h).launches).trans placed⟩

theorem State.rollLaunch_saved {s : State} {l m : Launch} {h : Saved} (found : s.launches.find l.lid = some m)
    (saved : l.saved = true) : (s.rollLaunch l h).launches.find l.lid = some { rolledTo m h with held := h } := by
  rw [State.rollLaunch_eq, saved]
  exact (congrArg (fun ls => Assoc.find ls l.lid) (SameLaunches.relaunchMessages _ h).launches).trans
    (find_modLaunch _ (State.rolledBack_launch h found))

theorem State.reload_rest (s : State) (l : Launch) : (s.reload l).launches.find l.lid = none
    ∧ { at_ := s.cycle, step := if s.isRun l then .translatePacket else .launchLoad, subject := [l.pk] } ∈ (s.reload l).agenda :=
  ⟨Assoc.find_erase_same _ _, agenda_schedule _ _ _ _⟩

/-- A launch that has no ending yet is aborted. -/
theorem State.abortAgain {s : State} {l m : Launch} (v : EndValues) (found : s.launches.find l.lid = some m) :
    ∃ l', ((s.modLaunch l.lid (fun l => { l with ending := none, completing := false })).abortLaunch l.lid v).launches.find l.lid
        = some l' ∧ l'.ending = some v := by
  have open_ := find_modLaunch (fun l => { l with ending := none, completing := false }) found
  unfold State.abortLaunch
  rw [open_]
  exact ⟨_, find_modLaunch _ open_, rfl⟩

end Sys2Proof.Machine

namespace Sys2Proof.Statements

open Sys2Proof.Machine

/-! ## The world -/

section
variable {s : State} {lid w site : Nat} {l : Launch}

theorem exec_rollback (subject : s.subject = [w, site]) : exec .rollback s = .next (s.rollBack w) := by
  refine (show exec .rollback s = execRollback s from rfl).trans ?_
  unfold execRollback
  rw [subject]

/-- The one launch of a world is rolled back with it. -/
theorem rolled_launches (one : s.launches = [(lid, l)]) (world : l.world = w) (rolls : l.rolls = true) :
    (s.launches.map Prod.snd).filter (fun l => l.world == w && l.rolls) = [l] := by
  rw [one]
  simp [world, rolls]

theorem third_rollback_aborts (one : s.launches = [(lid, l)]) (number : l.lid = lid) (world : l.world = w) (rolls : l.rolls = true)
    (third : 2 ≤ (s.world w).rolls) :
    ∃ l', (s.rollBack w).launches.find lid = some l' ∧ l'.ending = some { status := Cause.abort.code.toNat } := by
  have counted := State.world_modWorld_same s w (fun x => { x with rolls := x.rolls + 1 })
  have many : 3 ≤ ((s.modWorld w (fun x => { x with rolls := x.rolls + 1 })).world w).rolls := by
    rw [counted]
    exact Nat.succ_le_succ third
  have found : (s.modWorld w (fun x => { x with rolls := x.rolls + 1 })).launches.find l.lid = some l := by
    rw [show (s.modWorld w (fun x => { x with rolls := x.rolls + 1 })).launches = s.launches from rfl, one, number]
    simp [Assoc.find]
  unfold State.rollBack
  simp only
  rw [if_pos many, rolled_launches (s := s.modWorld w (fun x => { x with rolls := x.rolls + 1 })) one world rolls]
  exact number ▸ State.abortAgain _ found

/-- The state of a world that is taken back to its last boundary, its launches not yet. -/
def undone (s : State) (w : Nat) (ls : List Launch) : State :=
  let u := (s.modWorld w (fun x => { x with rolls := x.rolls + 1 })).undoInterval w
  { u with
    contributions := u.contributions.filter (fun c => c.world != w)
    poisonings := u.poisonings.filter (fun p => p.world != w)
      ++ ((ls.filterMap Launch.checkpoint).flatMap Saved.poisonings).eraseDups }

theorem undone_rest (s : State) (w : Nat) (ls : List Launch) :
    (undone s w ls).launches = s.launches ∧ (undone s w ls).cycle = s.cycle ∧ (undone s w ls).runs = s.runs :=
  State.undoInterval_rest (s.modWorld w (fun x => { x with rolls := x.rolls + 1 })) w

theorem rollBack_eq (one : s.launches = [(lid, l)]) (world : l.world = w) (rolls : l.rolls = true) (few : (s.world w).rolls < 2) :
    s.rollBack w = match l.checkpoint with
      | some h => (undone s w [l]).rollLaunch l h
      | none => (undone s w [l]).reload l := by
  have counted := State.world_modWorld_same s w (fun x => { x with rolls := x.rolls + 1 })
  have few : ¬ 3 ≤ ((s.modWorld w (fun x => { x with rolls := x.rolls + 1 })).world w).rolls := by
    rw [counted]
    exact fun h => absurd (Nat.le_of_succ_le_succ h) (Nat.not_le_of_lt few)
  unfold State.rollBack
  simp only
  rw [if_neg few, rolled_launches (s := s.modWorld w (fun x => { x with rolls := x.rolls + 1 })) one world rolls]
  rfl

theorem undone_found (one : s.launches = [(lid, l)]) (number : l.lid = lid) : (undone s w [l]).launches.find l.lid = some l := by
  rw [(undone_rest s w [l]).1, one, number]
  simp [Assoc.find]

theorem rollback_steps (subject : s.subject = [w, site]) (one : s.launches = [(lid, l)]) (number : l.lid = lid)
    (world : l.world = w) (rolls : l.rolls = true) :
    ((s.world w).rolls < 2 → l.checkpoint = none → ∃ t, exec .rollback s = .next t ∧ t.launches.find lid = none
      ∧ { at_ := s.cycle, step := if s.isRun l then .translatePacket else .launchLoad, subject := [l.pk] } ∈ t.agenda)
    ∧ (2 ≤ (s.world w).rolls → ∃ t l', exec .rollback s = .next t ∧ t.launches.find lid = some l'
      ∧ l'.ending = some { status := Cause.abort.code.toNat })
    ∧ (∀ h, (s.world w).rolls < 2 → l.checkpoint = some h → l.saved = false → h.away = false →
      ∃ t l', exec .rollback s = .next t ∧ t.launches.find lid = some l' ∧ l'.ending = none ∧ l'.nroll = l.nroll + 1
        ∧ l'.saved = false ∧ l'.sent = h.sent ∧ l'.received = h.received ∧ l'.deadlock = h.deadlock)
    ∧ (∀ h, (s.world w).rolls < 2 → l.checkpoint = some h → l.saved = true →
      ∃ t l', exec .rollback s = .next t ∧ t.launches.find lid = some l' ∧ l'.ending = none ∧ l'.nroll = l.nroll + 1
        ∧ l'.saved = true ∧ l'.held = h) := by
  have runs := exec_rollback subject
  have found := undone_found (w := w) one number
  obtain ⟨-, now, kept⟩ := undone_rest s w [l]
  subst number
  refine ⟨fun few first => ?_, fun third => ?_, fun h few mark live here => ?_, fun h few mark saved => ?_⟩
  · rw [rollBack_eq one world rolls few, first] at runs
    obtain ⟨gone, again⟩ := State.reload_rest (undone s w [l]) l
    refine ⟨_, runs, gone, ?_⟩
    unfold State.isRun at again
    rw [now, kept] at again
    exact again
  · obtain ⟨l', stands, ends⟩ := third_rollback_aborts one rfl world rolls third
    exact ⟨_, l', runs, stands, ends⟩
  · rw [rollBack_eq one world rolls few, mark] at runs
    obtain ⟨_, stands⟩ := State.rollLaunch_here found live here
    exact ⟨_, _, runs, stands, rfl, rfl, rfl, rfl, rfl, rfl⟩
  · rw [rollBack_eq one world rolls few, mark] at runs
    exact ⟨_, _, runs, State.rollLaunch_saved found saved, rfl, rfl, saved, rfl⟩

end

end Sys2Proof.Statements
end

section
/-! PROOF. Start events, quiescence, pre-emption, intervals and rollback. -/

namespace Sys2Proof.Statements

open Sys2Proof.Machine

/-- Settles O56: what each step leaves of its launch, followed through what the step does to slots, memory and messages,
none of which changes a launch but for what is held of it. -/
theorem launchesRunAndStop : Obligations.LaunchesRunAndStop := by
  unfold Obligations.LaunchesRunAndStop
  refine ⟨?_, ?_, ?_, ?_, ?_, ?_, ?_, ?_, ?_, ?_⟩
  · exact fun s lid l subject found fresh open_ _ marked => start_steps subject found fresh open_ marked
  · exact fun s lid c n l subject found number sampled sent received live quiet idle =>
      sample_completes subject found number sampled sent received live quiet idle
  · exact fun s lid x l subject found open_ => sample_deadlocks subject found open_
  · exact fun s lid l subject found number runs open_ free live => preempt_steps subject found number runs open_ free live
  · exact fun s lid since k l subject found asked open_ handler => timeout_traps subject found asked open_ handler
  · exact fun s u lid l p subject found number packet asked task open_ =>
      save_steps subject found number packet asked task open_
  · exact fun s u lid l p b subject found number packet saved back open_ written parts pages _ =>
      restore_steps subject found number packet saved back open_ written parts pages
  · exact fun s lid l p subject found number packet saved back open_ written whole =>
      restore_whole subject found number packet saved back open_ written whole
  · exact fun s lid l subject found number asked mark saving _ open_ ready =>
      boundary_steps subject found number asked mark saving open_ ready
  · exact fun s lid w site l subject one number world rolls => rollback_steps subject one number world rolls

end Sys2Proof.Statements
end

section
/-! SUPPORT. The traps of an address (R82, R83). -/

namespace Sys2Proof.Machine

open Sys2Proof.Statements

/-! ## One address -/

theorem addressOf_poison {f : MForm} {s : State} (h : (s.me.pair f.a.toNat).poison = true) :
    addressOf f true s = .error (.trap .poison f.a.toNat 0) := by
  rw [addressOf, Act.bind_rdp]
  exact Act.bind_trapIf_true h

theorem addressOf_align {f : MForm} {s : State} (clean : (s.me.pair f.a.toNat).poison = false) (h : addressIn s f % f.bytes ≠ 0) :
    addressOf f true s = .error (.trap .align (BitVec.ofNat 64 (addressIn s f)) (BitVec.ofNat 64 f.bytes)) := by
  rw [addressOf, Act.bind_rdp, Act.bind_trapIf_false clean]
  have odd : (true && addressIn s f % f.bytes != 0) = true := by simpa using h
  exact Act.bind_trapIf_true odd

/-- The spaces with a bound are not the global one. -/
theorem spaceBound_space {sp n code : Nat} (h : spaceBound sp = some (n, code)) :
    (sp = 1 ∧ n = 0x80000 ∧ code = 0x101) ∨ (sp = 2 ∧ n = 0x200000 ∧ code = 0x102) ∨ (sp = 3 ∧ n = 0x10000 ∧ code = 0x103) := by
  unfold spaceBound at h
  split at h
  · cases h
    exact Or.inl ⟨rfl, rfl, rfl⟩
  · cases h
    exact Or.inr (Or.inl ⟨rfl, rfl, rfl⟩)
  · cases h
    exact Or.inr (Or.inr ⟨rfl, rfl, rfl⟩)
  · cases h

/-- An address past the end of its space traps. -/
theorem target_past {d : Code} {sp addr len n code : Nat} {write : Bool} {s : State} (h : spaceBound sp = some (n, code))
    (past : n ≤ addr) : target d sp addr len write s = .error (.trap .prot (BitVec.ofNat 64 addr) (BitVec.ofNat 64 code)) := by
  rcases spaceBound_space h with ⟨rfl, rfl, rfl⟩ | ⟨rfl, rfl, rfl⟩ | ⟨rfl, rfl, rfl⟩
  · exact (Act.state_bind _ s).trans (Act.bind_trapIf_true (decide_eq_true past))
  · exact (Act.state_bind _ s).trans (Act.bind_trapIf_true (decide_eq_true past))
  · exact (Act.state_bind _ s).trans (Act.bind_trapIf_true (decide_eq_true past))

/-! ## Loads, stores and atomics -/

section
variable {s s1 : State} {f : MForm} {c : Cause} {v v2 : DWord}

/-- An address fails, or its place fails behind a good address of a bounded space. -/
def AddressFails (f : MForm) (s : State) (c : Cause) (v v2 : DWord) : Prop :=
  addressOf f true s = .error (.trap c v v2)
    ∨ addressOf f true s = .ok (addressIn s f, s) ∧ f.space ≠ 0
      ∧ ∀ write, target f.d f.space.toNat (addressIn s f) f.bytes write s = .error (.trap c v v2)

/-- An act that takes the address, then its place. -/
theorem AddressFails.bind (h : AddressFails f s c v v2) {rest : Nat → Act Unit}
    (hr : f.space ≠ 0 → (∀ write, target f.d f.space.toNat (addressIn s f) f.bytes write s = .error (.trap c v v2)) →
      rest (addressIn s f) s = .error (.trap c v v2)) :
    (addressOf f true >>= rest) s = .error (.trap c v v2) := by
  rcases h with bad | ⟨good, space, past⟩
  · exact Act.bind_error bad
  · exact (Act.bind_run good).trans (hr space past)

theorem waitLoad_fails {i : Instr} {sign : Bool} (hr : Ready i [f.srcA] [{ code := f.d, n := f.regs }] s)
    (h : AddressFails f s c v v2) : waitLoad f sign s = .error (.trap c v v2) := by
  rw [waitLoad, Act.bind_check hr]
  exact h.bind fun _ past => Act.bind_error (past false)

theorem atomic_fails {i : Instr} {k : AtomKind} {n srcs : Nat} {operand compare : List Val → List Byte} {vs : List Val}
    (idle : s.me.hostOp = none) (hr : Ready i [f.srcA, f.srcD srcs] [{ code := f.d, n := n }] s)
    (hv : readData f.d srcs s = .ok (vs, s1)) (h : AddressFails f s1 c v v2) :
    atomic f k n operand compare srcs s = .error (.trap c v v2) := by
  rw [atomic, Act.me_bind]
  simp only [idle]
  rw [Act.bind_check hr, Act.bind_run hv]
  refine h.bind fun space past => ?_
  refine (Act.state_bind _ s1).trans ?_
  simp only [if_neg space]
  exact Act.bind_error (past true)

theorem store_fails {i : Instr} {vs : List Val} {rest : List Val → List Piece → Act Unit}
    (hr : Ready i [f.srcA, f.srcD f.regs] [] s) (hv : readData f.d f.regs s = .ok (vs, s1)) (h : AddressFails f s1 c v v2) :
    (check [f.srcA, f.srcD f.regs] [] >>= fun _ => readData f.d f.regs >>= fun vs => addressOf f true >>= fun addr =>
      target f.d f.space.toNat addr f.bytes true >>= rest vs) s = .error (.trap c v v2) := by
  rw [Act.bind_check hr, Act.bind_run hv]
  exact h.bind fun _ past => Act.bind_error (past true)

theorem regs_ne_zero (f : MForm) : f.regs ≠ 0 := by
  unfold MForm.regs
  split
  · exact Nat.one_ne_zero
  · exact Nat.ne_of_gt (Nat.two_pow_pos _)

/-- An ACAS moves words. -/
theorem wfAcas_words {f : MForm} (h : f.wfAcas = true) : f.bytes / 4 ≠ 0 := by
  unfold MForm.wfAcas at h
  simp only [Bool.and_eq_true, Bool.or_eq_true, beq_iff_eq] at h
  unfold MForm.bytes
  rcases h.2 with ⟨size, -⟩ | ⟨⟨size, -⟩, -⟩
  · rw [size]
    decide
  · rw [size]
    decide

/-- An instruction whose address, or its place, fails traps. -/
theorem exec_addressed {i : Instr} {srcs dsts : Nat} (hi : addressedOf i = some (f, srcs, dsts)) (hd : DataRead i f srcs dsts s s1)
    (h : AddressFails f s1 c v v2) : exec i s = traps i s c v v2 := by
  obtain ⟨wf, hr, idle, data⟩ := hd
  have words := regs_ne_zero f
  cases i with
  | ld g =>
    cases hi
    rw [if_pos rfl] at data
    subst data
    rw [if_pos rfl, if_neg words] at hr
    exact issue_trap hr.1 (waitLoad_fails hr h)
  | lds g =>
    cases hi
    rw [if_pos rfl] at data
    subst data
    rw [if_pos rfl, if_neg words] at hr
    exact issue_trap hr.1 (waitLoad_fails hr h)
  | st g =>
    cases hi
    rw [if_neg words, if_pos rfl] at hr
    rw [if_neg words] at data
    obtain ⟨vs, hv⟩ := data
    exact issue_trap hr.1 (store_fails hr hv h)
  | atom g =>
    cases hi
    rw [if_neg words, if_neg words] at hr
    rw [if_neg words] at data
    obtain ⟨vs, hv⟩ := data
    exact issue_trap hr.1 (atomic_fails (idle rfl) hr hv h)
  | aswp g =>
    cases hi
    rw [if_neg words, if_neg words] at hr
    rw [if_neg words] at data
    obtain ⟨vs, hv⟩ := data
    exact issue_trap hr.1 (atomic_fails (idle rfl) hr hv h)
  | acas g =>
    cases hi
    have some_ := wfAcas_words wf
    have twice : 2 * (g.bytes / 4) ≠ 0 := Nat.mul_ne_zero (by decide) some_
    rw [if_neg twice, if_neg some_] at hr
    rw [if_neg twice] at data
    obtain ⟨vs, hv⟩ := data
    exact issue_trap hr.1 (atomic_fails (idle rfl) hr hv h)
  | _ => cases hi

end

end Sys2Proof.Machine
end

section
/-! SUPPORT. Where the units of a vector access stand (R176, R191 to R193). -/

namespace Sys2Proof.Machine

open Sys2Proof.Statements

/-! ## Places in order -/

/-- Where each of a list stands, in order: the first that fails decides. -/
def placeAll {α : Type} (locate : α → Act (List Piece)) : List α → Act (List (α × List Piece))
  | [] => pure []
  | x :: rest => do
    let ps ← locate x
    let more ← placeAll locate rest
    return (x, ps) :: more

section
variable {α : Type} {locate : α → Act (List Piece)}

/-- Everything has its place. -/
theorem placeAll_placed {xs : List (α × List Piece)} {s t : State} (h : Placed locate s xs t) :
    placeAll locate (xs.map Prod.fst) s = .ok (xs, t) := by
  induction xs generalizing s with
  | nil =>
    rw [show t = s from h]
    rfl
  | cons x xs ih =>
    obtain ⟨s', first, rest⟩ := h
    exact (Act.bind_run first).trans ((Act.bind_run (ih rest)).trans rfl)

/-- The first that has no place decides. -/
theorem placeAll_fails {xs : List (α × List Piece)} {x : α} {rest : List α} {s t : State} {e : Stop} (h : Placed locate s xs t)
    (bad : locate x t = .error e) : placeAll locate (xs.map Prod.fst ++ x :: rest) s = .error e := by
  induction xs generalizing s with
  | nil =>
    rw [← show t = s from h]
    exact Act.bind_error bad
  | cons y xs ih =>
    obtain ⟨s', first, more⟩ := h
    exact (Act.bind_run first).trans (Act.bind_error (ih more))

/-- Places that another search finds too. -/
theorem placed_mono {locate' : α → Act (List Piece)} {xs : List (α × List Piece)} {s t : State} (h : Placed locate s xs t)
    (same : ∀ x ∈ xs, ∀ u v, locate x.1 u = .ok (x.2, v) → locate' x.1 u = .ok (x.2, v)) : Placed locate' s xs t := by
  induction xs generalizing s with
  | nil => exact h
  | cons x xs ih =>
    obtain ⟨s', first, rest⟩ := h
    exact ⟨s', same x List.mem_cons_self _ _ first, ih rest fun y hy => same y (List.mem_cons_of_mem _ hy)⟩

end

theorem unitTargets_eq (locate : ViewPart → Act (List Piece)) (us : List ViewPart) : unitTargets locate us = placeAll locate us := by
  induction us with
  | nil => rfl
  | cons u us ih =>
    rw [unitTargets, placeAll, ih]

/-- Where an active element stands. -/
def laneTarget (base w : Nat) (write : Bool) (x : Lane) : Act (List Piece) := do
  let a := (((base : Int) + x.index * w) % 2 ^ 64).toNat
  Act.trapIf (a % w != 0) .align (BitVec.ofNat 64 a) (BitVec.ofNat 64 w)
  globalTarget a w write

theorem laneTargets_eq (base w : Nat) (write : Bool) (xs : List Lane) :
    laneTargets base w write xs = placeAll (laneTarget base w write) xs := by
  induction xs with
  | nil => rfl
  | cons x xs ih => rw [laneTargets, placeAll, laneTarget, ih, bind_assoc]

/-- The units of a view are those that the statements name. -/
theorem View.units_eq (v : View) : v.units = unitsOf v := by
  unfold View.units unitsOf rowUnits
  rw [List.flatMap]
  refine congrArg List.flatten (List.map_congr_left fun i _ => ?_)
  split
  · rw [List.map_map]
    rfl
  · split
    · rw [List.map_map]
      rfl
    · rw [List.map_map]
      rfl

end Sys2Proof.Machine
end

section
/-! SUPPORT. The traps of the vector memory instructions (R83, R143, R176, R191 to R193). -/

namespace Sys2Proof.Machine

open Sys2Proof.Statements

/-! ## Through a base -/

/-- A space with a bound has no host memory. -/
theorem target_local {d : Code} {sp addr len n code : Nat} {write : Bool} {s t : State} {ps : List Piece}
    (bound : spaceBound sp = some (n, code)) (h : target d sp addr len write s = .ok (ps, t)) :
    ps.any (fun p => p.place == .host) = false := by
  obtain ⟨_, _, state, h⟩ := Act.bind_ok.1 h
  cases state
  rcases spaceBound_space bound with ⟨rfl, -, -⟩ | ⟨rfl, -, -⟩ | ⟨rfl, -, -⟩
  · obtain ⟨_, _, -, h⟩ := Act.bind_ok.1 h
    cases h
    rfl
  · obtain ⟨_, _, -, h⟩ := Act.bind_ok.1 h
    cases h
    rfl
  · obtain ⟨_, _, -, h⟩ := Act.bind_ok.1 h
    obtain ⟨_, _, -, h⟩ := Act.bind_ok.1 h
    cases h
    rfl

/-- Where a unit of a view stands that is reached through a base. -/
def viewTarget (f : MForm) (org : Nat) (write : Bool) (u : ViewPart) : Act (List Piece) := do
  let ps ← target f.d f.space.toNat ((org + u.rel) % 2 ^ 64) u.len write
  Act.trapIf (u.low && write && ps.any (fun p => p.place == .host)) .prot (BitVec.ofNat 64 ((org + u.rel) % 2 ^ 64)) 0x110
  return ps

section
variable {f : MForm} {v : View} {write : Bool} {s : State}

theorem viewTargets_poison (h : (s.me.pair f.a.toNat).poison = true) :
    viewTargets f v write s = .error (.trap .poison f.a.toNat 0) := by
  rw [viewTargets, Act.bind_rdp]
  exact Act.bind_trapIf_true h

theorem viewTargets_align (clean : (s.me.pair f.a.toNat).poison = false) (h : addressIn s f % fmtAlign v.format ≠ 0) :
    viewTargets f v write s
      = .error (.trap .align (BitVec.ofNat 64 (addressIn s f)) (BitVec.ofNat 64 (fmtAlign v.format))) := by
  rw [viewTargets, Act.bind_rdp, Act.bind_trapIf_false clean]
  refine (Act.bind_trapIf_true (bne_iff_ne.2 h)).trans ?_
  rw [addressIn, BitVec.ofNat_toNat, BitVec.setWidth_eq]

theorem viewTargets_eq (clean : (s.me.pair f.a.toNat).poison = false) (h : addressIn s f % fmtAlign v.format = 0) :
    viewTargets f v write s = placeAll (viewTarget f (addressIn s f) write) (unitsOf v) s := by
  rw [viewTargets, Act.bind_rdp, Act.bind_trapIf_false clean]
  refine (Act.bind_trapIf_false ?_).trans ?_
  · exact bne_eq_false_iff_eq.2 h
  · rw [unitTargets_eq, View.units_eq]
    rfl

end

/-! ## Through a handle -/

/-- Where a unit of a view stands that is reached through a handle of a tile of this package. -/
def viewTileTarget (f : MForm) (len : Nat) (tiles : List Nat) (write : Bool) (u : ViewPart) : Act (List Piece) := do
  let off := f.off.toInt + u.rel
  Act.trapIf (decide (off < 0) || decide ((len : Int) < off + u.len)) .prot (BitVec.ofInt 64 off) 0x130
  let ps ← tileTargets off.toNat u.len write tiles
  Act.trapIf (u.low && write && ps.any (fun p => p.place == .host)) .prot (BitVec.ofInt 64 off) 0x110
  return ps

/-- The same for a tile of another package. -/
def viewAwayTarget (f : MForm) (w : DWord) (u : ViewPart) : Act (List Piece) := do
  let off := f.off.toInt + u.rel
  Act.trapIf (decide (off < 0) || decide ((Config.remoteLength w : Int) < off + u.len)) .prot (BitVec.ofInt 64 off) 0x130
  awayAccess w
  return []

section
variable {f : MForm} {v : View} {write : Bool} {tiles : List Nat} {w : DWord} {s : State}

theorem viewTileTargets_align (h : f.off.toInt % fmtAlign v.format ≠ 0) :
    viewTileTargets f v tiles write s
      = .error (.trap .align (BitVec.ofInt 64 f.off.toInt) (BitVec.ofNat 64 (fmtAlign v.format))) := by
  refine (Act.state_bind _ s).trans ?_
  exact Act.bind_trapIf_true (bne_iff_ne.2 h)

theorem viewAwayTargets_align (h : f.off.toInt % fmtAlign v.format ≠ 0) :
    viewAwayTargets f v w s
      = .error (.trap .align (BitVec.ofInt 64 f.off.toInt) (BitVec.ofNat 64 (fmtAlign v.format))) :=
  Act.bind_trapIf_true (bne_iff_ne.2 h)

theorem viewTileTargets_eq (h : f.off.toInt % fmtAlign v.format = 0) :
    viewTileTargets f v tiles write s = placeAll (viewTileTarget f (sharedLength s tiles) tiles write) (unitsOf v) s := by
  refine (Act.state_bind _ s).trans ?_
  refine (Act.bind_trapIf_false (bne_eq_false_iff_eq.2 h)).trans ?_
  rw [unitTargets_eq, View.units_eq]
  rfl

theorem viewAwayTargets_eq (h : f.off.toInt % fmtAlign v.format = 0) :
    viewAwayTargets f v w s = placeAll (viewAwayTarget f w) (unitsOf v) s := by
  refine (Act.bind_trapIf_false (bne_eq_false_iff_eq.2 h)).trans ?_
  rw [unitTargets_eq, View.units_eq]
  rfl

end

/-- A unit outside a tile traps. -/
theorem viewTileTarget_outside {f : MForm} {s t : State} {tiles : List Nat} {write : Bool} {u : ViewPart} (h : ¬ UnitInTiles s f tiles u) :
    viewTileTarget f (sharedLength s tiles) tiles write u t
      = .error (.trap .prot (BitVec.ofInt 64 (f.off.toInt + u.rel)) 0x130) := by
  refine Act.bind_trapIf_true ?_
  rw [Bool.or_eq_true, decide_eq_true_eq, decide_eq_true_eq]
  unfold UnitInTiles at h
  omega

theorem viewTileTarget_inside {f : MForm} {s u t : State} {tiles : List Nat} {write : Bool} {x : ViewPart × List Piece}
    (inside : UnitInTiles s f tiles x.1)
    (fits : write = true → x.1.low = true → x.2.all (fun p => p.place != .host) = true)
    (h : tileTargets (f.off.toInt + x.1.rel).toNat x.1.len write tiles u = .ok (x.2, t)) :
    viewTileTarget f (sharedLength s tiles) tiles write x.1 u = .ok (x.2, t) := by
  obtain ⟨low, high⟩ := inside
  refine (Act.bind_trapIf_false ?_).trans ((Act.bind_run h).trans ((Act.bind_trapIf_false ?_).trans rfl))
  · rw [Bool.or_eq_false_iff, decide_eq_false_iff_not, decide_eq_false_iff_not]
    omega
  · cases hl : x.1.low with
    | false => rfl
    | true =>
      cases write with
      | false => rfl
      | true =>
        have clean := List.all_eq_true.1 (fits rfl hl)
        rw [Bool.and_self, Bool.true_and, List.any_eq_false]
        intro p hp
        simpa using clean p hp

end Sys2Proof.Machine
end

section
/-! SUPPORT. The vector memory instructions up to the places of their units (R191 to R193). -/

namespace Sys2Proof.Machine

open Sys2Proof.Statements

/-- An instruction stops with an error of its act. -/
def Stops (i : Instr) (s : State) (e : Stop) : Prop := modeLegal i s.me.xlt = true ∧ ∃ a : Act Unit, exec i s = issue i a s ∧ a s = .error e

theorem Stops.traps {i : Instr} {s : State} {c : Cause} {v v2 : DWord} (h : Stops i s (.trap c v v2)) : exec i s = traps i s c v v2 := by
  obtain ⟨mode, a, runs, stops⟩ := h
  rw [runs, issue_trap mode stops]

theorem Stops.parks {i : Instr} {s : State} {w : Wait} (h : Stops i s (.park w)) : exec i s = parks s w := by
  obtain ⟨mode, a, runs, stops⟩ := h
  rw [runs, issue_park mode stops]

theorem view_stops {i : Instr} {f : MForm} {write : Bool} {s : State} {e : Stop} (h : ViewReady i f write s)
    (bad : viewTargets f (s.me.view f.d) write s = .error e) : Stops i s e := by
  obtain ⟨mode, ⟨rfl, rfl, ready⟩ | ⟨rfl, rfl, ready⟩⟩ := h
  · exact ⟨mode, _, rfl, (Act.bind_run ready).trans ((Act.state_bind _ s).trans (Act.bind_error bad))⟩
  · exact ⟨mode, _, rfl, (Act.bind_run ready).trans ((Act.state_bind _ s).trans (Act.bind_error bad))⟩

/-- Where the units of a view stand that is reached through a handle. -/
def handleTargets (f : MForm) (w : DWord) (write : Bool) (s : State) : Act (List (ViewPart × List Piece)) :=
  if s.away w then viewAwayTargets f (s.me.view f.d) w else viewTileTargets f (s.me.view f.d) (accessTiles s w write) write

theorem accessTiles_load (s : State) (w : DWord) : accessTiles s w false = (s.membersOf (handleEntry w)).take 1 := rfl

theorem accessTiles_store (s : State) (w : DWord) : accessTiles s w true = s.membersOf (handleEntry w) := List.take_length

/-- VLDH from a tile that its handle may see. -/
theorem vldh_sees {f : MForm} {w : DWord} {s : State} (seen : handleKind w = kindSee → (s.wordEntry w).state = .published
    ∧ (s.wordEntry w).settled ≠ some s.cycle) {rest : Act Unit} :
    (if handleKind w == kindSee then seeAccess f.a (bitSet f.epA 0) w >>= fun _ => rest else rest) s = rest s := by
  split
  next see =>
    obtain ⟨published, early⟩ := seen (eq_of_beq see)
    exact Act.bind_run (seeAccess_published published early)
  · rfl

theorem tileView_stops {i : Instr} {f : MForm} {write : Bool} {w : DWord} {s : State} {e : Stop} (h : TileViewReady i f write w s)
    (bad : handleTargets f w write s s = .error e) : Stops i s e := by
  unfold handleTargets at bad
  obtain ⟨mode, ⟨rfl, rfl, ready, word, seen⟩ | ⟨rfl, rfl, ready, word⟩⟩ := h
  · refine ⟨mode, _, rfl, (Act.bind_run ready).trans ((Act.bind_run word).trans ?_)⟩
    refine (vldh_sees seen).trans ?_
    refine (Act.state_bind _ s).trans ?_
    rw [accessTiles_load] at bad
    cases away : s.away w with
    | true =>
      rw [away, if_pos rfl] at bad
      simp only [if_true]
      exact Act.bind_error bad
    | false =>
      rw [away, if_neg Bool.false_ne_true] at bad
      simp only [Bool.false_eq_true, if_false]
      exact Act.bind_error bad
  · refine ⟨mode, _, rfl, (Act.bind_run ready).trans ((Act.bind_run word).trans ?_)⟩
    refine (Act.state_bind _ s).trans ?_
    rw [accessTiles_store] at bad
    cases away : s.away w with
    | true =>
      rw [away, if_pos rfl] at bad
      simp only [if_true]
      exact Act.bind_error bad
    | false =>
      rw [away, if_neg Bool.false_ne_true] at bad
      simp only [Bool.false_eq_true, if_false]
      exact Act.bind_error bad

end Sys2Proof.Machine
end

section
/-! SUPPORT. VGATH and VSCAT up to the places of their elements (R193). -/

namespace Sys2Proof.Machine

open Sys2Proof.Statements

/-- A shape that a source may have passes. -/
theorem checkShape_ok {code : Code} {rows cols : Nat} {s : State}
    (h : code.isView = true → ((s.me.view code).rows = rows ∨ (s.me.view code).rows = 1)
      ∧ ((s.me.view code).cols = cols ∨ (s.me.view code).cols = 1)) : checkShape code rows cols s = .ok ((), s) := by
  refine (Act.me_bind _ s).trans ?_
  refine Act.trapIf_ok.2 ⟨?_, rfl⟩
  cases view : code.isView with
  | false => rfl
  | true =>
    obtain ⟨hr, hc⟩ := h view
    rw [Bool.true_and, Bool.not_eq_false', Bool.and_eq_true, Bool.or_eq_true, Bool.or_eq_true]
    simp only [beq_iff_eq]
    exact ⟨hr, hc⟩

section
variable {f : RForm} {write : Bool} {s : State}

/-- Elements that are read clean are placed one after the other. -/
theorem laneList_eq (h : LanesRead s f) :
    laneList f write s = placeAll (laneTarget (s.me.pair f.a.toNat).w.toNat (laneBytes s f) write) (lanesOf s f) s := by
  obtain ⟨plain, index, shape, clean, read⟩ := h
  refine (Act.state_bind _ s).trans ?_
  refine (Act.bind_tformatIf_false (by rw [plain]; rfl)).trans ?_
  refine (Act.bind_tformatIf_false ?_).trans ?_
  · change (laneFormat s f != fmtS32 && laneFormat s f != fmtB32) = false
    rcases index with same | same
    · rw [same]
      rfl
    · rw [same]
      rfl
  · refine (Act.bind_run (checkShape_ok shape)).trans ?_
    refine Act.bind_rdp.trans ?_
    refine (Act.bind_trapIf_false clean).trans ?_
    have sound : (lanesOf s f).any Lane.poison = false := by
      rw [List.any_eq_false]
      intro x hx
      rw [read x hx]
      exact Bool.false_ne_true
    refine (Act.bind_trapIf_false sound).trans ?_
    rw [laneTargets_eq]
    rfl

/-- An element whose address is misaligned traps. -/
theorem laneTarget_align {x : Lane} {t : State} (h : laneAddress s f x % laneBytes s f ≠ 0) :
    laneTarget (s.me.pair f.a.toNat).w.toNat (laneBytes s f) write x t
      = .error (.trap .align (BitVec.ofNat 64 (laneAddress s f x)) (BitVec.ofNat 64 (laneBytes s f))) :=
  Act.bind_trapIf_true (bne_iff_ne.2 h)

theorem laneTarget_aligned {x : Lane} {t : State} (h : laneAddress s f x % laneBytes s f = 0) :
    laneTarget (s.me.pair f.a.toNat).w.toNat (laneBytes s f) write x t = globalTarget (laneAddress s f x) (laneBytes s f) write t :=
  Act.bind_trapIf_false (bne_eq_false_iff_eq.2 h)

end

theorem lanes_stop {i : Instr} {f : RForm} {write : Bool} {s : State} {e : Stop} (h : LanesReady i f write s)
    (bad : laneList f write s = .error e) : Stops i s e := by
  obtain ⟨mode, -, ⟨rfl, rfl, ready⟩ | ⟨rfl, rfl, ready⟩⟩ := h
  · exact ⟨mode, _, rfl, (Act.bind_run ready).trans (Act.bind_error bad)⟩
  · exact ⟨mode, _, rfl, (Act.bind_run ready).trans (Act.bind_error bad)⟩

/-! ## A tile of another package -/

theorem awayAccess_lost {w : DWord} {s : State} (h : s.awayLost w = true) :
    awayAccess w s = .error (.trap .page (Config.freeWord s.draws) 0x410) := by
  unfold awayAccess State.awayOutcome
  rw [h]
  rfl

theorem awayAccess_down {w : DWord} {s : State} (h : s.awayLost w = false) (down : s.pathsDown.has (handlePkg w).toNat = true) :
    awayAccess w s = .error (.park {}) := by
  unfold awayAccess State.awayOutcome
  rw [h, down]
  rfl

theorem viewAwayTarget_outside {f : MForm} {w : DWord} {u : ViewPart} {s : State}
    (h : f.off.toInt + u.rel < 0 ∨ (Config.remoteLength w : Int) < f.off.toInt + u.rel + u.len) :
    viewAwayTarget f w u s = .error (.trap .prot (BitVec.ofInt 64 (f.off.toInt + u.rel)) 0x130) := by
  refine Act.bind_trapIf_true ?_
  rw [Bool.or_eq_true, decide_eq_true_eq, decide_eq_true_eq]
  exact h

theorem viewAwayTarget_inside {f : MForm} {w : DWord} {u : ViewPart} {s : State}
    (h : ¬(f.off.toInt + u.rel < 0 ∨ (Config.remoteLength w : Int) < f.off.toInt + u.rel + u.len)) :
    viewAwayTarget f w u s = (awayAccess w >>= fun _ => pure []) s := by
  refine Act.bind_trapIf_false ?_
  rw [Bool.or_eq_false_iff, decide_eq_false_iff_not, decide_eq_false_iff_not]
  exact not_or.1 h

theorem placeAll_first {α : Type} {locate : α → Act (List Piece)} {x : α} {rest : List α} {s : State} {e : Stop}
    (bad : locate x s = .error e) : placeAll locate (x :: rest) s = .error e := Act.bind_error bad

end Sys2Proof.Machine
end

section
/-! PROOF. The traps of addresses. -/

namespace Sys2Proof.Statements

open Sys2Proof.Machine

theorem base_traps (i : Instr) (f : MForm) (write : Bool) (s : State) (h : ViewReady i f write s) :
    let al := fmtAlign (s.me.view f.d).format
    ((s.me.pair f.a.toNat).poison = true → exec i s = traps i s .poison f.a.toNat 0)
    ∧ ((s.me.pair f.a.toNat).poison = false → addressIn s f % al ≠ 0 →
      exec i s = traps i s .align (BitVec.ofNat 64 (addressIn s f)) (BitVec.ofNat 64 al))
    ∧ (∀ (s1 : State) (us : List (ViewPart × List Piece)) (u : ViewPart) (rest : List ViewPart) (n code : Nat),
      (s.me.pair f.a.toNat).poison = false → addressIn s f % al = 0 →
      let at_ := fun (u : ViewPart) => (addressIn s f + u.rel) % 2 ^ 64
      unitsOf (s.me.view f.d) = us.map Prod.fst ++ u :: rest →
      Placed (fun u => target f.d f.space.toNat (at_ u) u.len write) s us s1 →
      spaceBound f.space.toNat = some (n, code) → n ≤ at_ u →
      exec i s = traps i s .prot (BitVec.ofNat 64 (at_ u)) (BitVec.ofNat 64 code)) := by
  refine ⟨fun poison => (view_stops h (viewTargets_poison poison)).traps,
    fun clean odd => (view_stops h (viewTargets_align clean odd)).traps,
    fun s1 us u rest n code clean even units placed bound past => (view_stops h ?_).traps⟩
  rw [viewTargets_eq clean even, units]
  refine placeAll_fails (placed_mono placed fun x _ u v found => ?_) (Act.bind_error (target_past bound past))
  refine (Act.bind_run found).trans ((Act.bind_trapIf_false ?_).trans rfl)
  rw [target_local bound found, Bool.and_false]

theorem tile_traps (i : Instr) (f : MForm) (write : Bool) (w : DWord) (s : State) (h : TileViewReady i f write w s) :
    let al := fmtAlign (s.me.view f.d).format
    let off := f.off.toInt
    let tiles := accessTiles s w write
    (off % al ≠ 0 → exec i s = traps i s .align (BitVec.ofInt 64 off) (BitVec.ofNat 64 al))
    ∧ (∀ (s1 : State) (us : List (ViewPart × List Piece)) (u : ViewPart) (rest : List ViewPart),
      s.away w = false → off % al = 0 → unitsOf (s.me.view f.d) = us.map Prod.fst ++ u :: rest →
      (write = true → NibblesFit us) → (∀ x ∈ us, UnitInTiles s f tiles x.1) →
      Placed (fun u => tileTargets (off + u.rel).toNat u.len write tiles) s us s1 → ¬ UnitInTiles s f tiles u →
      exec i s = traps i s .prot (BitVec.ofInt 64 (off + u.rel)) 0x130)
    ∧ (∀ (u : ViewPart) (rest : List ViewPart), s.away w = true → off % al = 0 → unitsOf (s.me.view f.d) = u :: rest →
      s.awayLost w = true ∨ s.pathsDown.has (handlePkg w).toNat = true →
      exec i s = if off + u.rel < 0 ∨ Config.remoteLength w < off + u.rel + u.len then
          traps i s .prot (BitVec.ofInt 64 (off + u.rel)) 0x130
        else if s.awayLost w then traps i s .page (Config.freeWord s.draws) 0x410
        else parks s {}) := by
  intro al off tiles
  refine ⟨fun odd => (tileView_stops h ?_).traps, fun s1 us u rest here even units nibbles inside placed outside =>
    (tileView_stops h ?_).traps, fun u rest away even units gone => ?_⟩
  · unfold handleTargets
    split
    · exact viewAwayTargets_align odd
    · exact viewTileTargets_align odd
  · unfold handleTargets
    rw [here, if_neg Bool.false_ne_true, viewTileTargets_eq even, units]
    exact placeAll_fails (placed_mono placed fun x hx u v found =>
      viewTileTarget_inside (inside x hx) (fun hw => nibbles hw x hx) found) (viewTileTarget_outside outside)
  · have first : ∀ e, viewAwayTarget f w u s = .error e → Stops i s e := fun e bad => by
      refine tileView_stops h ?_
      unfold handleTargets
      rw [away, if_pos rfl, viewAwayTargets_eq even, units]
      exact placeAll_first bad
    split
    next outside => exact (first _ (viewAwayTarget_outside outside)).traps
    next inside =>
      split
      next lost =>
        refine (first _ ?_).traps
        exact (viewAwayTarget_inside inside).trans (Act.bind_error (awayAccess_lost lost))
      next near =>
        have near := Bool.eq_false_iff.2 near
        have down := gone.resolve_left (by rw [near]; exact Bool.false_ne_true)
        refine (first _ ?_).parks
        exact (viewAwayTarget_inside inside).trans (Act.bind_error (awayAccess_down near down))

/-- Settles O28: each check of an address comes before what it guards, and the first place that is not found decides. -/
theorem addressTraps : Obligations.AddressTraps := by
  unfold Obligations.AddressTraps
  refine ⟨fun i f srcs dsts s s1 hi hd => ?_, base_traps, tile_traps,
    fun i f write s s1 xs x rest ready lanes even placed odd => ?_⟩
  · refine ⟨fun poison => exec_addressed hi hd (Or.inl (addressOf_poison poison)),
      fun clean odd => exec_addressed hi hd (Or.inl (addressOf_align clean odd)),
      fun n code aligned bound past => exec_addressed hi hd (Or.inr ⟨addressOf_aligned aligned, ?_, fun _ => target_past bound past⟩)⟩
    intro global
    rw [global] at bound
    cases bound
  · have read := ready.2.1
    refine (lanes_stop ready ?_).traps
    rw [laneList_eq read, lanes]
    exact placeAll_fails (placed_mono placed fun y hy u v found => (laneTarget_aligned (even y hy)).trans found)
      (laneTarget_align odd)

end Sys2Proof.Statements
end

section
/-! SUPPORT. What the vector memory instructions put in flight (R191 to R193). -/

namespace Sys2Proof.Machine

open Sys2Proof.Statements

/-! ## Pieces -/

theorem piecesOf_ne (place : Place) (off n : Nat) : piecesOf place off n ≠ [] := by
  unfold piecesOf
  simp only
  have some_ : 0 < if place = Place.host then 8 else 32 := by split <;> decide
  revert some_
  generalize (if place = Place.host then 8 else 32) = unit
  intro some_
  split
  · exact List.cons_ne_nil _ _
  next large =>
    rw [Ne, List.map_eq_nil_iff, List.range_eq_nil, Nat.div_eq_zero_iff]
    omega

theorem globalTarget_ne {addr n : Nat} {write : Bool} {s t : State} {ps : List Piece} (h : globalTarget addr n write s = .ok (ps, t)) :
    ps ≠ [] := by
  rw [globalTarget, Act.state_bind] at h
  split at h
  · unfold windowTarget at h
    split at h
    · cases h
    · split at h
      · cases h
      · cases h
        exact List.cons_ne_nil _ _
  · obtain ⟨x, u, -, hu⟩ := Act.bind_ok.1 h
    cases hu
    exact piecesOf_ne _ _ _

theorem target_ne {d : Code} {sp addr n : Nat} {write : Bool} {s t : State} {ps : List Piece} (h : target d sp addr n write s = .ok (ps, t)) :
    ps ≠ [] := by
  rw [target, Act.state_bind] at h
  split at h
  · exact globalTarget_ne h
  · obtain ⟨_, _, -, hu⟩ := Act.bind_ok.1 h
    cases hu
    exact List.cons_ne_nil _ _
  · obtain ⟨_, _, -, hu⟩ := Act.bind_ok.1 h
    cases hu
    exact List.cons_ne_nil _ _
  · obtain ⟨_, _, -, hu⟩ := Act.bind_ok.1 h
    obtain ⟨_, _, -, hv⟩ := Act.bind_ok.1 hu
    cases hv
    exact List.cons_ne_nil _ _

theorem tileTargets_ne {off n : Nat} {write : Bool} {tiles : List Nat} {s t : State} {ps : List Piece} (some_ : tiles ≠ [])
    (h : tileTargets off n write tiles s = .ok (ps, t)) : ps ≠ [] := by
  cases tiles with
  | nil => exact absurd rfl some_
  | cons e rest =>
    obtain ⟨qs, u, first, more⟩ := Act.bind_ok.1 h
    obtain ⟨_, _, -, last⟩ := Act.bind_ok.1 more
    cases last
    refine List.append_ne_nil_of_left_ne_nil ?_ _
    unfold tileTarget at first
    rw [Act.state_bind] at first
    split at first
    · cases first
      exact List.cons_ne_nil _ _
    · obtain ⟨_, _, -, found⟩ := Act.bind_ok.1 first
      cases found
      exact piecesOf_ne _ _ _

theorem membersOf_ne (s : State) (e : Nat) : s.membersOf e ≠ [] := by
  unfold State.membersOf
  split
  · exact List.cons_ne_nil _ _
  next some_ => exact fun none_ => some_ (none_ ▸ rfl)

/-- Everything that has a place has pieces. -/
theorem placed_ne {α : Type} {locate : α → Act (List Piece)} (some_ : ∀ x s ps t, locate x s = .ok (ps, t) → ps ≠ [])
    {xs : List (α × List Piece)} {s t : State} (h : Placed locate s xs t) : ∀ x ∈ xs, x.2 ≠ [] := by
  induction xs generalizing s with
  | nil => exact fun x hx => absurd hx List.not_mem_nil
  | cons y xs ih =>
    obtain ⟨s', first, rest⟩ := h
    intro x hx
    rcases List.mem_cons.1 hx with rfl | hx
    · exact some_ _ _ _ _ first
    · exact ih rest x hx

/-! ## Accesses of units -/

/-- The load of a unit. -/
def unitLoad (rid base : Nat) (ord : BitVec 2) (scope : Nat) (evict rdc : BitVec 3) (u : ViewPart × List Piece) : Acc :=
  { id := 0, kind := .load, ord := ord, scope := scope, pieces := u.2, evict := evict, rdc := rdc
    dest := if u.1.low then .nibble rid (base + u.1.rel) false else .vector rid (base + u.1.rel) }

theorem startUnits_ok {rid base scope : Nat} {ord : BitVec 2} {evict rdc : BitVec 3} {us : List (ViewPart × List Piece)}
    (some_ : ∀ u ∈ us, u.2 ≠ []) (s : State) :
    startUnits rid base ord scope evict rdc us s = .ok ((), sendLoads s (us.map (unitLoad rid base ord scope evict rdc))) := by
  induction us generalizing s with
  | nil => rfl
  | cons u us ih =>
    obtain ⟨u, ps⟩ := u
    have present : ps.isEmpty = false := by simpa using some_ _ List.mem_cons_self
    rw [startUnits]
    simp only [present, Bool.false_eq_true, if_false]
    exact ih (fun x hx => some_ x (List.mem_cons_of_mem _ hx)) _

/-- The store of a unit. -/
def unitStore (f : MForm) (m : Mem) (base : Nat) (ord : BitVec 2) (scope copies : Nat) (u : ViewPart × List Piece) : Acc :=
  { id := 0, kind := if u.1.low then .nibble else .store, ord := ord, scope := scope, pieces := u.2
    data := (List.replicate copies (m.bytes (base + u.1.rel) u.1.len)).flatten
    poison := m.poisonIn (base + u.1.rel) u.1.len, evict := f.evict, rdc := f.rdc }

theorem storeUnits_ok {f : MForm} {s0 : State} {base scope copies : Nat} {ord : BitVec 2} (us : List (ViewPart × List Piece)) (s : State) :
    storeUnits f s0 base ord scope copies us s
      = .ok ((), sendStores s (us.map (unitStore f (s0.memAt (.arena s0.myCore)) base ord scope copies))) := by
  induction us generalizing s with
  | nil => rfl
  | cons u us ih => exact ih _

theorem startLanes_ok {rid : Nat} {g : Grid} (xs : List (Lane × List Piece)) (s : State) :
    startLanes rid g xs s = .ok ((), sendLoads s (xs.map (fun x =>
      { id := 0, kind := .load, pieces := x.2, dest := .vector rid (g.bytesOf x.1.i x.1.j).1 }))) := by
  induction xs generalizing s with
  | nil => rfl
  | cons x xs ih => exact ih _

theorem storeLanes_ok {s0 : State} {g : Grid} {chain : Nat} (xs : List (Lane × List Piece)) (s : State) :
    storeLanes s0 g chain xs s = .ok ((), sendStores s (xs.map (fun x =>
      { id := 0, kind := .store, pieces := x.2, data := (s0.memAt g.place).bytes (g.bytesOf x.1.i x.1.j).1 (g.bytesOf x.1.i x.1.j).2
        poison := (s0.memAt g.place).poisonIn (g.bytesOf x.1.i x.1.j).1 (g.bytesOf x.1.i x.1.j).2, chain := some chain }))) := by
  induction xs generalizing s with
  | nil => rfl
  | cons x xs ih => exact ih _

/-! ## Whole views -/

theorem loadView_ok {f : MForm} {us : List (ViewPart × List Piece)} {ord : BitVec 2} {scope : Nat} (some_ : ∀ u ∈ us, u.2 ≠ [])
    (s : State) : loadView f us ord scope s = .ok ((), viewLoading s f ord scope us) :=
  startUnits_ok (rid := s.nextId) (base := s.me.arenaOffset (s.me.view f.d).off.toNat) some_ (awaitsView s f.d (viewCycles s f.d))

theorem storeView_ok (f : MForm) (us : List (ViewPart × List Piece)) (ord : BitVec 2) (scope copies : Nat) (s : State) :
    storeView f us ord scope copies s = .ok ((), viewStoring s f ord scope copies us) :=
  storeUnits_ok us (s.occupy (viewCycles s f.d))

end Sys2Proof.Machine
end

section
/-! PROOF. The vector memory instructions. -/

namespace Sys2Proof.Statements

open Sys2Proof.Machine

section
variable {f : MForm} {s s1 : State} {us : List (ViewPart × List Piece)} {write : Bool}

/-- The units of a view that is reached through a base have their places. -/
theorem viewTargets_placed (clean : (s.me.pair f.a.toNat).poison = false)
    (even : addressIn s f % fmtAlign (s.me.view f.d).format = 0) (units : us.map Prod.fst = unitsOf (s.me.view f.d))
    (fits : write = true → NibblesFit us)
    (placed : Placed (fun u => target f.d f.space.toNat ((addressIn s f + u.rel) % 2 ^ 64) u.len write) s us s1) :
    viewTargets f (s.me.view f.d) write s = .ok (us, s1) := by
  rw [viewTargets_eq clean even, ← units]
  refine placeAll_placed (placed_mono placed fun x hx u v found => ?_)
  refine (Act.bind_run found).trans ((Act.bind_trapIf_false ?_).trans rfl)
  cases low : x.1.low with
  | false => rfl
  | true =>
    cases write with
    | false => rfl
    | true =>
      have remote := List.all_eq_true.1 (fits rfl x hx low)
      rw [Bool.and_self, Bool.true_and, List.any_eq_false]
      intro p hp
      simpa using remote p hp

/-- The units of a view that is reached through a handle have their places. -/
theorem viewTileTargets_placed {tiles : List Nat} (even : f.off.toInt % fmtAlign (s.me.view f.d).format = 0)
    (units : us.map Prod.fst = unitsOf (s.me.view f.d)) (fits : write = true → NibblesFit us)
    (inside : ∀ u ∈ us, UnitInTiles s f tiles u.1)
    (placed : Placed (fun u => tileTargets (f.off.toInt + u.rel).toNat u.len write tiles) s us s1) :
    viewTileTargets f (s.me.view f.d) tiles write s = .ok (us, s1) := by
  rw [viewTileTargets_eq even, ← units]
  exact placeAll_placed (placed_mono placed fun x hx u v found =>
    viewTileTarget_inside (inside x hx) (fun hw => fits hw x hx) found)

theorem vld_loads (mode : modeLegal (.vld f) s.me.xlt = true) (ready : vectorReady [f.srcA] [{ code := f.d }] [] true s = .ok ((), s))
    (clean : (s.me.pair f.a.toNat).poison = false) (even : addressIn s f % fmtAlign (s.me.view f.d).format = 0)
    (units : us.map Prod.fst = unitsOf (s.me.view f.d))
    (placed : Placed (fun u => target f.d f.space.toNat ((addressIn s f + u.rel) % 2 ^ 64) u.len false) s us s1) :
    exec (.vld f) s = retired s (viewLoading s1 f f.ord (cappedScope f.space.toNat f.scope.toNat) us) := by
  refine issue_ok mode ((Act.bind_run ready).trans ((Act.state_bind _ s).trans ((Act.bind_run
    (viewTargets_placed clean even units (fun h => Bool.noConfusion h) placed)).trans ?_)))
  exact loadView_ok (placed_ne (fun _ _ _ _ found => target_ne found) placed) s1

theorem vst_stores (mode : modeLegal (.vst f) s.me.xlt = true) (ready : vectorReady [f.srcA, f.srcD 1] [] [] false s = .ok ((), s))
    (clean : (s.me.pair f.a.toNat).poison = false) (even : addressIn s f % fmtAlign (s.me.view f.d).format = 0)
    (units : us.map Prod.fst = unitsOf (s.me.view f.d)) (fits : NibblesFit us)
    (placed : Placed (fun u => target f.d f.space.toNat ((addressIn s f + u.rel) % 2 ^ 64) u.len true) s us s1) :
    exec (.vst f) s = retired s (viewStoring s1 f f.ord (cappedScope f.space.toNat f.scope.toNat) 1 us) :=
  issue_ok mode ((Act.bind_run ready).trans ((Act.state_bind _ s).trans ((Act.bind_run
    (viewTargets_placed clean even units (fun _ => fits) placed)).trans (storeView_ok f us f.ord _ 1 s1))))

theorem vldh_loads {w : DWord} (mode : modeLegal (.vldh f) s.me.xlt = true)
    (ready : vectorReady [] [{ code := f.d }] [] true s = .ok ((), s)) (word : hget f.a .live s = .ok (w, s)) (here : s.away w = false)
    (seen : handleKind w = kindSee → Seen s (handleEntry w)) (even : f.off.toInt % fmtAlign (s.me.view f.d).format = 0)
    (units : us.map Prod.fst = unitsOf (s.me.view f.d))
    (inside : ∀ u ∈ us, UnitInTiles s f ((s.membersOf (handleEntry w)).take 1) u.1)
    (placed : Placed (fun u => tileTargets (f.off.toInt + u.rel).toNat u.len false ((s.membersOf (handleEntry w)).take 1)) s us s1) :
    exec (.vldh f) s = retired s (viewLoading s1 f (if handleKind w = kindSee then 1 else 0) (if handleKind w = kindSee then 4 else 0) us) := by
  have entry : s.wordEntry w = s.entry (handleEntry w) := by
    unfold State.wordEntry
    rw [here, if_neg Bool.false_ne_true]
  have published : handleKind w = kindSee → (s.wordEntry w).state = .published ∧ (s.wordEntry w).settled ≠ some s.cycle :=
    fun see => entry ▸ seen see
  have one : (s.membersOf (handleEntry w)).take 1 ≠ [] := by
    rw [Ne, List.take_eq_nil_iff]
    exact not_or.2 ⟨Nat.one_ne_zero, membersOf_ne s _⟩
  have found := viewTileTargets_placed (write := false) even units (fun h => Bool.noConfusion h) inside placed
  refine issue_ok mode ((Act.bind_run ready).trans ((Act.bind_run word).trans ?_))
  refine (vldh_sees published).trans ((Act.state_bind _ s).trans ?_)
  simp only [here, Bool.false_eq_true, if_false]
  refine (Act.bind_run found).trans ((loadView_ok (placed_ne (fun _ _ _ _ found => tileTargets_ne one found) placed) s1).trans ?_)
  simp only [State.dropScope, here, Bool.false_eq_true, if_false, beq_iff_eq]

theorem vsth_stores {w : DWord} (mode : modeLegal (.vsth f) s.me.xlt = true)
    (ready : vectorReady [f.srcD 1] [] [] false s = .ok ((), s)) (word : hget f.a .fill s = .ok (w, s)) (here : s.away w = false)
    (even : f.off.toInt % fmtAlign (s.me.view f.d).format = 0) (units : us.map Prod.fst = unitsOf (s.me.view f.d))
    (fits : NibblesFit us) (inside : ∀ u ∈ us, UnitInTiles s f (s.membersOf (handleEntry w)) u.1)
    (placed : Placed (fun u => tileTargets (f.off.toInt + u.rel).toNat u.len true (s.membersOf (handleEntry w))) s us s1) :
    exec (.vsth f) s = retired s (viewStoring s1 f 0 0 (s.membersOf (handleEntry w)).length us) := by
  refine issue_ok mode ((Act.bind_run ready).trans ((Act.bind_run word).trans ((Act.state_bind _ s).trans ?_)))
  simp only [here, Bool.false_eq_true, if_false]
  exact (Act.bind_run (viewTileTargets_placed even units (fun _ => fits) inside placed)).trans (storeView_ok f us 0 0 _ s1)

end

section
variable {f : RForm} {s s1 : State} {xs : List (Lane × List Piece)}

/-- Active elements that fit have their places. -/
theorem laneList_placed {write : Bool} (fit : LanesFit s f) (lanes : xs.map Prod.fst = lanesOf s f)
    (placed : Placed (fun x => globalTarget (laneAddress s f x) (laneBytes s f) write) s xs s1) :
    laneList f write s = .ok (xs, s1) := by
  obtain ⟨read, even⟩ := fit
  rw [laneList_eq read, ← lanes]
  refine placeAll_placed (placed_mono placed fun x hx u v found => (laneTarget_aligned (even x.1 ?_)).trans found)
  exact lanes ▸ List.mem_map.2 ⟨x, hx, rfl⟩

theorem vgath_loads (mode : modeLegal (.vgath f) s.me.xlt = true)
    (ready : vectorReady [f.srcA 2, f.srcB] [{ code := f.d }] [maskNumber f.c] true s = .ok ((), s)) (fit : LanesFit s f)
    (lanes : xs.map Prod.fst = lanesOf s f)
    (placed : Placed (fun x => globalTarget (laneAddress s f x) (laneBytes s f) false) s xs s1) :
    let t := sendLoads (awaitsView s1 f.d (laneCycles s1 f)) (xs.map (fun x =>
      { id := 0, kind := .load, pieces := x.2, dest := .vector s1.nextId ((s1.grid f.d).bytesOf x.1.i x.1.j).1 }))
    exec (.vgath f) s = retired s
      (if xs = [] then t.schedule (s1.cycle + laneCycles s1 f) .vectorWritesLand [s1.cur, s1.nextId] else t) := by
  intro t
  refine issue_ok mode ((Act.bind_run ready).trans ((Act.bind_run (laneList_placed fit lanes placed)).trans
    ((Act.state_bind _ s1).trans ?_)))
  change (startLanes s1.nextId (s1.grid f.d) xs >>= fun _ => if xs.isEmpty then
    Act.schedule (s1.cycle + laneCycles s1 f) .vectorWritesLand [s1.cur, s1.nextId] else pure ()) (awaitsView s1 f.d (laneCycles s1 f)) = _
  refine (Act.bind_run (startLanes_ok xs _)).trans ?_
  cases xs with
  | nil => rfl
  | cons x xs => rfl

theorem vscat_stores (mode : modeLegal (.vscat f) s.me.xlt = true)
    (ready : vectorReady [f.srcA 2, f.srcB, { code := f.d }] [] [maskNumber f.c] false s = .ok ((), s)) (fit : LanesFit s f)
    (lanes : xs.map Prod.fst = lanesOf s f)
    (placed : Placed (fun x => globalTarget (laneAddress s f x) (laneBytes s f) true) s xs s1) :
    let m := s1.memAt (s1.grid f.d).place
    let at_ := fun (x : Lane) => (s1.grid f.d).bytesOf x.i x.j
    exec (.vscat f) s = retired s (sendStores { s1.occupy (laneCycles s1 f) with nextId := s1.nextId + 1 } (xs.map (fun x =>
      { id := 0, kind := .store, pieces := x.2, data := m.bytes (at_ x.1).1 (at_ x.1).2
        poison := m.poisonIn (at_ x.1).1 (at_ x.1).2, chain := some s1.nextId }))) :=
  issue_ok mode ((Act.bind_run ready).trans ((Act.bind_run (laneList_placed fit lanes placed)).trans
    ((Act.state_bind _ s1).trans (storeLanes_ok xs { s1.occupy (laneCycles s1 f) with nextId := s1.nextId + 1 }))))

end

/-- Settles O37: the places are found first, in order; then the view is owed, or read, and each unit's access is sent. -/
theorem vectorMemory : Obligations.VectorMemory := by
  unfold Obligations.VectorMemory
  refine ⟨?_, ?_, ?_, ?_, ?_, ?_⟩
  · exact fun f s s1 us mode ready => fun clean even units placed => vld_loads mode ready clean even units placed
  · exact fun f s s1 us mode ready => fun clean even units fits placed => vst_stores mode ready clean even units fits placed
  · exact fun f s s1 w us mode ready word here seen => fun even units inside placed =>
      vldh_loads mode ready word here seen even units inside placed
  · exact fun f s s1 w us mode ready word here => fun even units fits inside placed =>
      vsth_stores mode ready word here even units fits inside placed
  · exact fun f s s1 xs mode ready fit lanes placed => vgath_loads mode ready fit lanes placed
  · exact fun f s s1 xs mode ready fit lanes placed => vscat_stores mode ready fit lanes placed

end Sys2Proof.Statements
end

section
/-! SUPPORT. The elementwise instructions (R172 to R176, R181 to R184). -/

namespace Sys2Proof.Statements

open Sys2Proof.Machine

/-! ## What each of them is -/

theorem vFloat_eq (f : VForm) (srcs : List Src) (factor : Nat) (g : Nat → List FVal → Exact) (s : State) :
    vFloat f srcs factor g = elementwise f { srcs := srcs, accept := acceptFloat, factor := factor } (rounded f g s) := rfl

theorem vFloatBits_eq (f : VForm) (srcs : List Src) (g : FFmt → Nat → Nat → Nat × FlagBits) (s : State) :
    vFloatBits f srcs g = elementwise f { srcs := srcs, accept := acceptFloat } (fromBits g s) := rfl

theorem vInt_eq (f : VForm) (accept : Accept) (g : Nat → Nat → Nat → Int) (s : State) :
    vInt f accept g = elementwise f { srcs := [f.srcA, f.srcB], accept := accept, integer := true } (modular g s) := rfl

theorem vArith_eq (f : VForm) (g : Int → Int → Int) (s : State) :
    vArith f g = elementwise f { srcs := [f.srcA, f.srcB], accept := acceptInt, integer := true } (saturating f g s) := rfl

theorem vInt_min (f : VForm) : vInt f acceptInt (fun w a b => min (readInt (f.sign == 1) w a) (readInt (f.sign == 1) w b))
    = vInt f acceptInt (fun w a b => if readInt (f.sign == 1) w a ≤ readInt (f.sign == 1) w b then readInt (f.sign == 1) w a
      else readInt (f.sign == 1) w b) := by
  simp only [min_def]

theorem vInt_max (f : VForm) : vInt f acceptInt (fun w a b => max (readInt (f.sign == 1) w a) (readInt (f.sign == 1) w b))
    = vInt f acceptInt (fun w a b => if readInt (f.sign == 1) w a ≤ readInt (f.sign == 1) w b then readInt (f.sign == 1) w b
      else readInt (f.sign == 1) w a) := by
  simp only [max_def]

/-- VIDX, whose columns are those of the view that it writes. -/
theorem exec_vidx (f : VForm) (s : State) : exec (.vidx f) s = issue (.vidx f)
    (elementwise f { srcs := [f.srcA], accept := acceptInt, integer := true, scalarOnly := true } (fun fd _ es i j _ =>
      elemResult es ((elemBits es 0 + i * (s.me.view f.d).cols + j) % 2 ^ fmtBits fd, 0))) s := by
  refine (show exec (.vidx f) s = execVidx f s from rfl).trans ?_
  exact issue_congr (Act.me_bind _ s)

/-- Every elementwise instruction is one: its sources, formats and function say all of it. -/
theorem exec_elementwiseOf {i : Instr} {e : Elementwise} (h : elementwiseOf i = some e) (s : State) :
    exec i s = issue i (elementwise e.f e.op (e.fn s)) s := by
  unfold elementwiseOf at h
  split at h
  case h_23 f =>
    cases h
    exact congrArg (fun a => issue (.vimin f) a s) (vInt_min f)
  case h_24 f =>
    cases h
    exact congrArg (fun a => issue (.vimax f) a s) (vInt_max f)
  case h_26 f =>
    cases h
    exact exec_vidx f s
  case h_28 => cases h
  all_goals
    cases h
    rfl

/-! ## What they leave -/

theorem raise_silent {s : State} {fl : FlagBits} (h : Silent s fl) : raise fl s = .ok ((), s.addFlags fl) :=
  if_neg (by rw [show fl &&& s.me.fenable = 0 from h]; exact Bool.false_ne_true)

theorem elementwise_ok {f : VForm} {op : VOp} {fn : ElemFn} {s : State} {fmts : List Nat} (checks : elementChecks f op s = .ok (fmts, s))
    (silent : Silent s (flagsOf (s.elementRows f op fn))) :
    elementwise f op fn s = .ok ((), (s.addFlags (flagsOf (s.elementRows f op fn))).putView f.d
      ((s.elementRows f op fn).map Prod.fst) (s.elementBusy f op fmts)) :=
  (Act.bind_run checks).trans ((Act.state_bind _ s).trans ((Act.bind_run (raise_silent silent)).trans rfl))

theorem elementwise_steps {i : Instr} {e : Elementwise} {s : State} {fmts : List Nat} (hi : elementwiseOf i = some e)
    (mode : modeLegal i s.me.xlt = true) (checks : elementChecks e.f e.op s = .ok (fmts, s))
    (silent : Silent s (flagsOf (s.elementRows e.f e.op (e.fn s)))) :
    exec i s = retired s ((s.addFlags (flagsOf (s.elementRows e.f e.op (e.fn s)))).putView e.f.d
      ((s.elementRows e.f e.op (e.fn s)).map Prod.fst) (s.elementBusy e.f e.op fmts)) := by
  rw [exec_elementwiseOf hi]
  exact issue_ok mode (elementwise_ok checks silent)

/-! ## Moves that raise no flag -/

theorem oweView_relisted {s : State} {slots : Assoc Slot} (h : slots.get slotDefault s.cur = s.me) (id : Nat) (code : Code) :
    ({ s with slots := slots } : State).oweView id code = { s.oweView id code with slots := slots } := by
  have me : ({ s with slots := slots } : State).me = s.me := h
  unfold State.oweView
  rw [me]
  rfl

theorem grid_relisted {s : State} {slots : Assoc Slot} (h : slots.get slotDefault s.cur = s.me) (code : Code) :
    ({ s with slots := slots } : State).grid code = s.grid code := by
  have me : ({ s with slots := slots } : State).me = s.me := h
  have slot : ({ s with slots := slots } : State).slot s.cur = s.slot s.cur := h
  unfold State.grid State.gridOf
  rw [me, slot]

theorem landLater_relisted (s : State) (slots : Assoc Slot) (r : Result) (cycles : Nat) :
    ({ s with slots := slots } : State).landLater r cycles = { s.landLater r cycles with slots := slots } := rfl

theorem occupy_relisted (s : State) (slots : Assoc Slot) (n : Nat) :
    ({ s with slots := slots } : State).occupy n = { s.occupy n with slots := slots } := rfl

/-- A view that is written does not depend on how the other slots are listed. -/
theorem putView_relisted {s : State} {slots : Assoc Slot} (h : slots.get slotDefault s.cur = s.me) (code : Code) (ws : List ElemWrite)
    (busy : Nat) : ({ s with slots := slots } : State).putView code ws busy = { s.putView code ws busy with slots := slots } := by
  unfold State.putView
  dsimp only
  rw [grid_relisted h, oweView_relisted h, occupy_relisted, landLater_relisted]
  rfl

/-- A view that is written while no flag has been raised. -/
theorem retired_putView_noFlags (s : State) (code : Code) (ws : List ElemWrite) (busy : Nat) :
    retired s ((s.addFlags 0).putView code ws busy) = retired s (s.putView code ws busy) := by
  have none_ : s.addFlags 0 = s.setMe s.me :=
    congrArg s.setMe (by rw [show s.me.fflags ||| 0 = s.me.fflags from BitVec.or_zero])
  have written := putView_relisted (s := s) (slots := s.slots.set slotDefault s.cur s.me) (State.me_setMe s s.me) code ws busy
  rw [none_]
  refine (congrArg (retired s) written).trans ?_
  exact congrArg Host.Outcome.next (State.retireAt_setSlot_self (s.putView code ws busy) s.cur s.me.pc (s.me.pc + 8))

/-- Elements that raise no flag gather none. -/
theorem flagsOf_silent (rs : List ElemWrite) : flagsOf (rs.map (fun w => (w, 0))) = 0 := by
  unfold flagsOf
  rw [List.foldl_map]
  induction rs with
  | nil => rfl
  | cons w rs ih =>
    rw [List.foldl_cons]
    have step : (if w.poison = true then (0 : FlagBits) else 0 ||| 0) = 0 := by split <;> rfl
    rw [step]
    exact ih

theorem filterMap_eq_map_filter {α β : Type} (p : α → Bool) (g : α → β) (l : List α) :
    l.filterMap (fun a => if p a then some (g a) else none) = (l.filter p).map g := by
  induction l with
  | nil => rfl
  | cons a l ih =>
    rw [List.filterMap_cons, List.filter_cons]
    cases p a with
    | true => exact congrArg (g a :: ·) ih
    | false => exact ih

/-- The elements that a move of active places writes. -/
theorem moveRows (f : VForm) (s : State) :
    s.elementRows f (moveOp f) (fun _ _ es _ _ _ => (es.getD 0 {}, 0)) = ((s.activePositions f).map (fun p =>
      ElemWrite.mk p.1 p.2 ((s.vOperand f.a (s.me.view f.d).format).at s p.1 p.2).bits
        ((s.vOperand f.a (s.me.view f.d).format).at s p.1 p.2).poison)).map (fun w => (w, 0)) := by
  unfold State.elementRows State.activePositions
  rw [List.map_map]
  refine Eq.trans ?_ (filterMap_eq_map_filter _ _ _)
  refine List.filterMap_congr fun p _ => ?_
  simp only [moveOp, Bool.or_false]
  rfl

theorem vmov_moves {f : VForm} {s : State} {fmts : List Nat} (mode : modeLegal (.vmov f) s.me.xlt = true)
    (plain : (s.me.view f.d).format ≠ fmtPx8) (checks : elementChecks f (moveOp f) s = .ok (fmts, s)) :
    exec (.vmov f) s = retired s (s.putView f.d ((s.activePositions f).map (fun p =>
      ElemWrite.mk p.1 p.2 ((s.vOperand f.a (s.me.view f.d).format).at s p.1 p.2).bits
        ((s.vOperand f.a (s.me.view f.d).format).at s p.1 p.2).poison)) (s.elementBusy f (moveOp f) fmts)) := by
  have rows := moveRows f s
  have silent : Silent s (flagsOf (s.elementRows f (moveOp f) (fun _ _ es _ _ _ => (es.getD 0 {}, 0)))) := by
    rw [rows, flagsOf_silent]
    exact BitVec.zero_and
  have moves := elementwise_ok checks silent
  rw [rows, flagsOf_silent, List.map_map] at moves
  refine (issue_ok mode (Eq.trans ?_ moves)).trans ?_
  · refine (Act.bind_run (x := (s.me.view f.d).format) (t := s) rfl).trans ?_
    rw [if_neg plain]
  · refine (retired_putView_noFlags s f.d _ _).trans ?_
    refine congrArg (fun ws => retired s (s.putView f.d ws _)) ?_
    exact (List.map_map ..).trans (List.map_congr_left fun p _ => rfl)

theorem px8_moves {f : VForm} {s : State} (mode : modeLegal (.vmov f) s.me.xlt = true) (block : (s.me.view f.d).format = fmtPx8)
    (checks : px8Checks f s = .ok ((), s)) :
    exec (.vmov f) s = retired s (s.putView f.d (s.px8Moves f) (vectorCycles (s.me.view f.d).rows (s.me.view f.d).cols [fmtPx8])) := by
  refine issue_ok mode ?_
  refine (Act.bind_run (x := (s.me.view f.d).format) (t := s) rfl).trans ?_
  rw [if_pos block]
  exact (Act.bind_run checks).trans rfl

theorem moveFrom_moves {i : Instr} {f : VForm} {shape : View → View → Act Unit} {pick : Nat → Nat → Nat × Nat} {s : State}
    (hi : moveFromOf i = some (f, shape, pick)) (mode : modeLegal i s.me.xlt = true) (checks : moveChecks f shape s = .ok ((), s)) :
    exec i s = retired s (s.putView f.d (s.moveWrites f pick)
      (vectorCycles (s.me.view f.d).rows (s.me.view f.d).cols [(s.me.view f.d).format])) := by
  have moves : moveFrom f shape pick s = .ok ((), s.putView f.d (s.moveWrites f pick)
      (vectorCycles (s.me.view f.d).rows (s.me.view f.d).cols [(s.me.view f.d).format])) := (Act.bind_run checks).trans rfl
  unfold moveFromOf at hi
  split at hi
  · cases hi
    exact issue_ok mode moves
  · cases hi
    exact issue_ok mode moves
  · cases hi

theorem lookup_looks {i : Instr} {x : Lookup} {s : State} (hi : lookupOf i = some x) (mode : modeLegal i s.me.xlt = true)
    (checks : lookupChecks x.f x.table x.index x.integer x.rowsOk s = .ok ((), s)) :
    exec i s = retired s (s.putView x.f.d (s.lookupWrites x.f x.table.code x.index.code)
      (vectorCycles (s.me.view x.f.d).rows (s.me.view x.f.d).cols
        ((s.me.view x.f.d).format :: (s.me.view x.table.code).format
          :: (if x.index.code.isView then [s.indexFormat x.index.code] else [])))) := by
  have looks : Machine.lookup x.f x.table x.index x.integer x.rowsOk s = .ok ((), s.putView x.f.d
      (s.lookupWrites x.f x.table.code x.index.code) (vectorCycles (s.me.view x.f.d).rows (s.me.view x.f.d).cols
        ((s.me.view x.f.d).format :: (s.me.view x.table.code).format
          :: (if x.index.code.isView then [s.indexFormat x.index.code] else [])))) := (Act.bind_run checks).trans rfl
  unfold lookupOf at hi
  split at hi
  · cases hi
    exact issue_ok mode looks
  · cases hi
    exact issue_ok mode looks
  · cases hi

end Sys2Proof.Statements
end

section
/-! PROOF. Elementwise vector instructions, moves and lookups. -/

namespace Sys2Proof.Statements

open Sys2Proof.Machine

/-- Settles O34: every one of them is its checks, then the elements that it reads now, then the view that it writes. -/
theorem vectorElements : Obligations.VectorElements := by
  unfold Obligations.VectorElements
  refine ⟨fun i e s fmts hi mode checks => fun silent => elementwise_steps hi mode checks silent,
    fun f s fmts mode plain checks => vmov_moves mode plain checks, fun f s mode block checks => px8_moves mode block checks,
    fun i f shape pick s hi mode checks => moveFrom_moves hi mode checks, fun i x s hi mode checks => lookup_looks hi mode checks⟩

end Sys2Proof.Statements
end

section
/-! SUPPORT. What VCMP, the reductions and VCVT have on its way, and what a vector result leaves where it lands (R186, R188
to R190, R170, R178). -/

namespace Sys2Proof.Machine



/-- Registers that are marked empty belong to the same window of registers. -/
theorem Slot.markEmpty_mode (sl : Slot) (code n : Nat) :
    (sl.markEmpty code n).mode = sl.mode ∧ (sl.markEmpty code n).views = sl.views := by
  induction n generalizing sl code with
  | zero => exact ⟨rfl, rfl⟩
  | succ n ih =>
    rw [Slot.markEmpty]
    refine ⟨(ih _ _).1.trans ?_, (ih _ _).2.trans ?_⟩
    · split
      · rfl
      · unfold Slot.setReg Slot.setRegAt
        split <;> rfl
    · split
      · rfl
      · unfold Slot.setReg Slot.setRegAt
        split <;> rfl

/-- A landed result leaves the masks and registers that its own writes leave. -/
theorem Slot.addCounts_kept (l : Assoc Nat) (u : Slot) : (u.addCounts l).masks = u.masks ∧ (u.addCounts l).regs = u.regs := by
  unfold Slot.addCounts
  induction l generalizing u with
  | nil => exact ⟨rfl, rfl⟩
  | cons e l ih => exact ⟨(ih _).1.trans rfl, (ih _).2.trans rfl⟩

theorem Slot.takeResult_mask (sl : Slot) (r : Result) {n : Nat} {m : MaskPair} (h : r.mask = some (n, m)) (hn : n ≠ 0) :
    (sl.takeResult r).mask n = m := by
  unfold Slot.takeResult Slot.mask
  rw [if_neg hn, (Slot.addCounts_kept _ _).1, h]
  exact Assoc.get_set_same _ _ _ _

theorem Slot.takeResult_regs (sl : Slot) (r : Result) :
    (sl.takeResult r).regs = (r.regs.foldl (fun sl e => sl.setRegAt e.1 e.2.toReg) sl).regs := by
  unfold Slot.takeResult
  rw [(Slot.addCounts_kept _ _).2]
  cases r.mask with
  | none => rfl
  | some m => rfl

theorem Slot.takeResult_regAt (sl : Slot) (r : Result) {e : Nat × Val} (h : r.regs = [e]) (he : e.1 ≠ 0) :
    (sl.takeResult r).regAt e.1 = e.2.toReg := by
  have regs : (sl.takeResult r).regs = (sl.setRegAt e.1 e.2.toReg).regs := by rw [Slot.takeResult_regs, h]; rfl
  have same : (sl.takeResult r).regAt e.1 = (sl.setRegAt e.1 e.2.toReg).regAt e.1 := by
    unfold Slot.regAt
    rw [regs]
  rw [same, Slot.regAt_setRegAt, if_pos ⟨rfl, he⟩]

/-- The spans of a result that has landed are owed no longer, and it is on its way no longer. -/
theorem withResult_over (s : State) (k : Nat) (r : Result) : (∀ x ∈ (s.withResult k r).spans, x.id = r.id → x.held = true)
    ∧ (∀ x ∈ (s.withResult k r).results, x.id ≠ r.id) := by
  refine ⟨fun x hx number => ?_, fun x hx => by simpa using (List.mem_filter.1 hx).2⟩
  have := (List.mem_filter.1 hx).2
  simpa [number] using this

end Sys2Proof.Machine

namespace Sys2Proof.Statements

open Sys2Proof.Machine

theorem vcmp_writes {rel : BitVec 6} {f : VForm} {s : State} {fa fb : Nat} (mode : modeLegal (.vcmp rel f) s.me.xlt = true)
    (checks : vcmpChecks rel f s = .ok ((fa, fb), s)) (silent : Silent s (predicateFlags (s.vcmpBits rel f))) :
    exec (.vcmp rel f) s = retired s (((s.addFlags (predicateFlags (s.vcmpBits rel f))).occupy
      (vectorCycles (s.me.view f.lead).rows (s.me.view f.lead).cols [fa, fb])).landLater
      { mask := some (maskNumber f.d, maskPairOf ((s.me.view f.lead).rows == 1) (s.vcmpBits rel f)) }
      (vectorCycles (s.me.view f.lead).rows (s.me.view f.lead).cols [fa, fb] + 3)) := by
  refine issue_ok mode ?_
  refine (Act.bind_run checks).trans ((Act.state_bind _ s).trans ((Act.bind_run (raise_silent silent)).trans ?_))
  exact modify_ok _ _

theorem withFlags_mode (s : State) (p : Bool) (fl : FlagBits) : (withFlags s p fl).me.mode = s.me.mode
    ∧ (withFlags s p fl).me.views = s.me.views ∧ ∀ code n, (withFlags s p fl).me.fullFrom code n = s.me.fullFrom code n := by
  unfold withFlags
  cases p with
  | true => exact ⟨rfl, rfl, fun _ _ => rfl⟩
  | false =>
    rw [if_neg Bool.false_ne_true, show (s.addFlags fl).me = { s.me with fflags := s.me.fflags ||| fl } from State.me_setMe _ _]
    exact ⟨rfl, rfl, Slot.fullFrom_fflags _ _⟩

theorem reducedWords_views {s t : State} (h : t.me.views = s.me.views) (f : VForm) (ix : Bool) (r : Reduced) :
    t.reducedWords f ix r = s.reducedWords f ix r := by
  unfold State.reducedWords State.reducesWide Slot.view
  rw [h]

theorem regWrites_mode {s t : State} (h : t.me.mode = s.me.mode) (d : Code) (words : List Word) (p : Bool) :
    t.regWrites d words p = s.regWrites d words p := by
  unfold State.regWrites
  rw [h]

/-- What a reduction that passes its checks leaves. -/
theorem reduction_ok {x : Reduction} {s : State} (checks : reductionChecks x.f x.accept x.ix s = .ok ((), s))
    (full : s.me.fullFrom x.f.d.toNat (s.reducedRegs x.f x.ix) = true)
    (quiet : Quiet s ((s.reducedElems x.f).any (fun y => y.2.poison))
      (x.fn x.f (roundMode s.me x.f.rnd) (s.me.view x.f.a).format (s.reducedElems x.f)).flags) :
    let p := (s.reducedElems x.f).any (fun y => y.2.poison)
    let r := x.fn x.f (roundMode s.me x.f.rnd) (s.me.view x.f.a).format (s.reducedElems x.f)
    let busy := vectorCycles (s.me.view x.f.a).rows (s.me.view x.f.a).cols [(s.me.view x.f.a).format]
    let t := withFlags s p r.flags
    reduction x.f x.accept x.ix x.fn s = .ok ((), ((t.setMe (t.me.markEmpty x.f.d.toNat (s.reducedRegs x.f x.ix))).occupy busy).landLater
      { regs := s.regWrites x.f.d (s.reducedWords x.f x.ix r) p } (busy + 8)) := by
  intro p r busy t
  obtain ⟨mode, views, sameFull⟩ := withFlags_mode s p r.flags
  refine (Act.bind_run checks).trans ((Act.state_bind _ s).trans ((Act.bind_run (raiseClean_quiet rfl quiet)).trans ?_))
  refine (Act.bind_run (markEmpty_full ((sameFull _ _).trans full))).trans ?_
  refine (modify_ok _ _).trans ?_
  have same : (t.setMe (t.me.markEmpty x.f.d.toNat (s.reducedRegs x.f x.ix))).me.mode = s.me.mode
      ∧ (t.setMe (t.me.markEmpty x.f.d.toNat (s.reducedRegs x.f x.ix))).me.views = s.me.views := by
    rw [State.me_setMe]
    exact ⟨(Slot.markEmpty_mode _ _ _).1.trans mode, (Slot.markEmpty_mode _ _ _).2.trans views⟩
  rw [regWrites_mode same.1, reducedWords_views same.2]

theorem exec_reductionOf {i : Instr} {x : Reduction} (h : reductionOf i = some x) (s : State) :
    exec i s = issue i (reduction x.f x.accept x.ix x.fn) s := by
  unfold reductionOf at h
  split at h
  case h_7 => cases h
  all_goals
    cases h
    rfl

theorem vcvt_converts {f : VForm} {s : State} (mode : modeLegal (.vcvt f) s.me.xlt = true) (checks : vcvtChecks f s = .ok ((), s))
    (silent : Silent s (flagsOf (if (s.me.view f.d).format = fmtPx8 then s.vcvtBlocks f else s.vcvtElems f))) :
    exec (.vcvt f) s = retired s ((s.addFlags (flagsOf (if (s.me.view f.d).format = fmtPx8 then s.vcvtBlocks f
      else s.vcvtElems f))).putView f.d ((if (s.me.view f.d).format = fmtPx8 then s.vcvtBlocks f else s.vcvtElems f).map Prod.fst)
        (vectorCycles (s.me.view f.d).rows (s.me.view f.d).cols [(s.me.view f.d).format, (s.me.view f.a).format])) := by
  refine issue_ok mode ?_
  refine (Act.bind_run checks).trans ((Act.state_bind _ s).trans ((Act.bind_run (raise_silent silent)).trans ?_))
  exact modify_ok _ _

/-- Settles O35. -/
theorem vectorResults : Obligations.VectorResults := by
  unfold Obligations.VectorResults
  refine ⟨⟨fun rel f s fa fb mode checks silent => vcmp_writes mode checks silent, ?_,
    fun f s mode checks silent => vcvt_converts mode checks silent⟩, ?_⟩
  · intro i x s hi mode checks full v xs p r quiet busy t
    exact (exec_reductionOf hi s).trans (issue_ok mode (reduction_ok checks full quiet))
  · intro s k r hs found running
    obtain ⟨place, others, slots, mine⟩ := withResult_landed s k r
    obtain ⟨spans, results⟩ := withResult_over s k r
    refine ⟨s.withResult k r, ?_, place, others, slots, ?_, ?_, ?_, ?_, spans, results⟩
    · simp only [exec, execVectorWritesLand, hs, landResult_eq found running]
    · intro n m hm hn
      rw [mine]
      exact Slot.takeResult_mask _ _ hm hn
    · rw [mine, (Slot.takeResult_flags _ _).1]
    · intro none_
      rw [mine, Slot.takeResult_regs, none_]
      rfl
    · intro e one he
      rw [mine]
      exact Slot.takeResult_regAt _ _ one he

end Sys2Proof.Statements

end

section
/-! SUPPORT. A granted TREV of whose record a second request is left, while the log has no record left (R258). -/

namespace Sys2Proof.Statements

open Sys2Proof.Machine Sys2Proof.Tests

/-- A second request that would keep the unit for four cycles. -/
def leftOver : Reversal := { prev := 0xFFFFFFFF, occ := 4, grad := none, shares := [] }

/-- Slot 0 holds a grant for it, but its log names no record. -/
def logEmptied : State := alone { task with trcur := 0xFFFFFFFF, granted := true, reversal := some leftOver }

/-- Refutes O41: with no record left at or above the mark TREV ends without asking what request is left over, so that the unit stays
free, where the clause on second requests has it busy for four cycles. -/
theorem not_reverseSteps : ¬ Obligations.ReverseSteps := by
  unfold Obligations.ReverseSteps
  rintro ⟨-, -, -, second⟩
  have ready : Ready (.trev { a := 1 }) [({ a := 1 } : RForm).srcA] [] logEmptied := by
    unfold Ready
    decide
  have fits : MarkFits logEmptied {} := by
    unfold MarkFits
    decide
  have grants := second { a := 1 } logEmptied logEmptied {} leftOver ready (by decide) fits (by decide) (by decide)
  have ends : ((after (exec (.trev { a := 1 }) logEmptied)).cluster 0).matrixBusy = 0 := by decide
  have busy : ((after (afterGrant logEmptied (secondGrant leftOver (suspended logEmptied)) 0)).cluster 0).matrixBusy = 4 := by decide
  rw [grants] at ends
  exact absurd (busy.symm.trans ends) (by decide)

end Sys2Proof.Statements

end

section
/-! SUPPORT. What a tile instruction leaves besides its results once these are on their way: it holds sources, writes its record and
pops rings (R195, R196, R204, R206, R243). -/

namespace Sys2Proof.Machine

open Sys2Proof.Statements

/-! ## Changes that leave alone what is under way -/

/-- What is on its way in s is still on its way in t, at the same cycle for the same slot; the memories stay, or P holds. -/
structure Carries (P : Prop) (s t : State) : Prop where
  turn : SameTurn s t
  results : t.results = s.results
  spans : ∀ x ∈ s.spans, x ∈ t.spans
  agenda : ∀ d ∈ s.agenda, d ∈ t.agenda
  mem : ∀ p, t.memAt p = s.memAt p ∨ P

section
variable {P : Prop} {s t u : State}

theorem Carries.refl (s : State) : Carries P s s := ⟨⟨rfl, rfl⟩, rfl, fun _ h => h, fun _ h => h, fun _ => .inl rfl⟩

theorem Carries.trans (h : Carries P s t) (g : Carries P t u) : Carries P s u := by
  refine ⟨h.turn.trans g.turn, g.results.trans h.results, fun x hx => g.spans x (h.spans x hx),
    fun d hd => g.agenda d (h.agenda d hd), fun p => ?_⟩
  rcases g.mem p with same | holds
  · rcases h.mem p with first | holds
    · exact .inl (same.trans first)
    · exact .inr holds
  · exact .inr holds

theorem Carries.foldl {α : Type} {f : State → α → State} (hf : ∀ s a, Carries P s (f s a)) (l : List α) (s : State) :
    Carries P s (l.foldl f s) := by
  induction l generalizing s with
  | nil => exact .refl s
  | cons a l ih => exact (hf s a).trans (ih _)

theorem Carries.schedule (s : State) (due : Nat) (i : Instr) (subject : List Nat) : Carries P s (s.schedule due i subject) :=
  ⟨⟨rfl, rfl⟩, rfl, fun _ h => h, fun _ h => mem_agendaInsert.2 (.inr h), fun p => .inl (by cases p <;> rfl)⟩

theorem Carries.addSpan (s : State) (x : Span) : Carries P s { s with spans := s.spans ++ [x] } :=
  ⟨⟨rfl, rfl⟩, rfl, fun _ h => List.mem_append_left _ h, fun _ h => h, fun p => .inl (by cases p <;> rfl)⟩

theorem Carries.nextId (s : State) (n : Nat) : Carries P s { s with nextId := n } :=
  ⟨⟨rfl, rfl⟩, rfl, fun _ h => h, fun _ h => h, fun p => .inl (by cases p <;> rfl)⟩

theorem Carries.draws (s : State) (n : Nat) : Carries P s { s with draws := n } :=
  ⟨⟨rfl, rfl⟩, rfl, fun _ h => h, fun _ h => h, fun p => .inl (by cases p <;> rfl)⟩

theorem Carries.setSlot (s : State) (k : Nat) (v : Slot) : Carries P s (s.setSlot k v) :=
  ⟨⟨rfl, rfl⟩, rfl, fun _ h => h, fun _ h => h, fun p => .inl (by cases p <;> rfl)⟩

theorem Carries.setEntry (s : State) (e : Nat) (v : Entry) : Carries P s (s.setEntry e v) :=
  ⟨⟨rfl, rfl⟩, rfl, fun _ h => h, fun _ h => h, fun p => .inl (by cases p <;> rfl)⟩

theorem Carries.modRing (s : State) (k q : Nat) (f : Ring → Ring) : Carries P s (s.modRing k q f) := .setSlot s k _

theorem Carries.settleRingSlot (s : State) (k q i : Nat) : Carries P s (s.settleRingSlot k q i) := by
  unfold State.settleRingSlot State.modRingSlot
  exact .modRing s k q _

theorem Carries.modLaunch (s : State) (lid : Nat) (f : Launch → Launch) : Carries P s (s.modLaunch lid f) := by
  unfold State.modLaunch
  split
  · exact .refl s
  · exact ⟨⟨rfl, rfl⟩, rfl, fun _ h => h, fun _ h => h, fun p => .inl (by cases p <;> rfl)⟩

/-- The last see handle of a tile may die. -/
theorem Carries.dropSee (s : State) (e : Nat) : Carries P s (s.dropSee e) := by
  refine Carries.trans (t := s.modEntry e (fun x => { x with sees := x.sees - 1 })) (.setEntry s e _) ?_
  unfold State.dropSee State.retireEntry
  simp only
  split
  · split
    · exact .setEntry _ _ _
    · split
      · exact (Carries.setEntry _ _ _).trans (.modLaunch _ _ _)
      · split
        · exact (Carries.setEntry _ _ _).trans (.settleRingSlot _ _ _ _)
        · exact .setEntry _ _ _
  · exact .refl _

theorem Carries.popAndDrop (s : State) (k q : Nat) : Carries P s (s.popAndDrop k q) := by
  unfold State.popAndDrop State.popRing
  exact ((Carries.modRing s k q _).trans (.modRing _ k q _)).trans (.dropSee _ _)

theorem Performs.carries {k : Nat} {Q : Nat → Prop} (h : Performs k Q s t) : Carries True s t := by
  have turn := h.sameTurn
  have agenda := h.agenda
  obtain ⟨_, _, _, _, _, _, _, _, _, _, _, _, _, rfl⟩ := h.fields
  exact ⟨turn, rfl, fun _ h => h, agenda, fun _ => .inr trivial⟩

/-- A store that goes into flight. -/
theorem Carries.sendStore (s : State) (x : Acc) : Carries True s (s.sendStore x) := by
  have joins : Carries True s (s.addAcc x) := .setSlot s s.cur _
  unfold State.sendStore
  split
  · exact (joins.trans (Performs.forceBefore_any (k := s.cur) _ x).carries).trans (Performs.performLocal (k := s.cur) _ x).carries
  · exact (joins.trans (.draws _ _)).trans (.schedule _ _ _ _)

end

/-! ## Actions that go through and do so -/

/-- An action stops nowhere and leaves alone what is under way. -/
def Carried {α : Type} (P : Prop) (a : Act α) : Prop := ∀ s, ∃ x t, a s = .ok (x, t) ∧ Carries P s t

section
variable {P : Prop}

theorem Carried.pure {α : Type} (x : α) : Carried P (Pure.pure x : Act α) := fun s => ⟨x, s, rfl, .refl s⟩

theorem Carried.bind {α β : Type} {a : Act α} {f : α → Act β} (ha : Carried P a) (hf : ∀ x, Carried P (f x)) : Carried P (a >>= f) := by
  intro s
  obtain ⟨x, t, run, carries⟩ := ha s
  obtain ⟨y, u, rest, more⟩ := hf x t
  exact ⟨y, u, (Act.bind_run run).trans rest, carries.trans more⟩

theorem Carried.modify {f : State → State} (h : ∀ s, Carries P s (f s)) : Carried P (Act.modify f) := fun s => ⟨(), f s, rfl, h s⟩

theorem Carried.state : Carried P Act.state := fun s => ⟨s, s, rfl, .refl s⟩

theorem Carried.fresh : Carried P Act.fresh := fun s => ⟨s.nextId, _, rfl, .nextId s _⟩

theorem Carried.draw : Carried P Act.draw := fun s => ⟨s.draws, _, rfl, .draws s _⟩

theorem Carried.schedule (due : Nat) (i : Instr) (subject : List Nat) : Carried P (Act.schedule due i subject) :=
  .modify fun s => .schedule s due i subject

/-- The span of a view source is held. -/
theorem Carried.holdViews (occ : Nat) (codes : List Code) : Carried P (holdViews occ codes) := by
  induction codes with
  | nil => exact .pure ()
  | cons code rest ih =>
    have hold : Carried P (holdView occ code) := by
      refine .bind .draw fun d => .bind .fresh fun id => .bind .state fun s => ?_
      exact .bind (.modify fun u => .addSpan u _) fun _ => .schedule _ _ _
    exact .bind hold fun _ => ih

/-- A ring slot has one reader more. -/
theorem Carried.readRings (occ : Nat) (rings : List Nat) : Carried P (readRings occ rings) := by
  induction rings with
  | nil => exact .pure ()
  | cons q rest ih =>
    have read : Carried P (readRing occ q) := by
      refine .bind .draw fun d => .bind .state fun s => ?_
      exact .bind (.modify fun u => .modRing u _ _ _) fun _ => .schedule _ _ _
    exact .bind read fun _ => ih

theorem Carried.storeRuns (lands : Option Nat) (ps : List Piece) (xs : List (List Byte × Bool)) : Carried True (storeRuns lands ps xs) := by
  induction xs generalizing ps with
  | nil => exact .pure ()
  | cons x rest ih =>
    refine .bind .fresh fun id => ?_
    cases lands with
    | none => exact .bind (.modify fun s => .sendStore s _) fun _ => ih _
    | some c =>
      refine .bind (.modify fun s => .setSlot s s.cur _) fun _ => .bind .state fun s => ?_
      exact .bind (.schedule _ _ _) fun _ => ih _

/-- A record is written. -/
theorem Carried.writeRecord (plan : RecordPlan) (descD : DWord) (sel : List (Byte × Bool)) (lands : Nat) :
    Carried True (writeRecord plan descD sel lands) := by
  refine .bind (.storeRuns none _ _) fun _ => ?_
  have last : ∀ f : Slot → Slot, Carried True (Act.modMe f) := fun f => .modify fun s => .setSlot s s.cur _
  dsimp only
  split
  · exact .bind (.storeRuns _ _ _) fun _ => last _
  · exact last _

theorem Carried.mono {Q : Prop} {α : Type} {a : Act α} (h : Carried P a) (hPQ : P → Q) : Carried Q a := by
  intro s
  obtain ⟨x, t, run, carries⟩ := h s
  exact ⟨x, t, run, carries.turn, carries.results, carries.spans, carries.agenda, fun p => (carries.mem p).imp_right hPQ⟩

end

/-! ## What a grant does -/

/-- The results of a job are on their way and D's view is owed. -/
def State.tileUnderWay (s : State) (j : TileJob) (plan : Option RecordPlan) : State :=
  let u := ({ s with nextId := s.nextId + 1 } : State).oweView s.nextId j.form.d
  ({ u with results := u.results ++ [{ u.tileResult j s.nextId (j.cells (s.tileInput j (s.grid j.form.d))) with
      selects := plan.isSome && j.selects }] } : State).schedule (s.cycle + j.occupancy + 10) .tileResultsLand [s.cur, s.nextId]

/-- The writing of a record, where there is one. -/
def recordOf (plan : Option RecordPlan) (descD : DWord) (sel : List (Byte × Bool)) (lands : Nat) : Act Unit :=
  match plan with
  | some p => writeRecord p descD sel lands
  | none => pure ()

theorem Carried.recordOf (plan : Option RecordPlan) (descD : DWord) (sel : List (Byte × Bool)) (lands : Nat) :
    Carried (plan.isSome = true) (recordOf plan descD sel lands) := by
  cases plan with
  | none => exact .pure ()
  | some p => exact (Carried.writeRecord p descD sel lands).mono fun _ => rfl

/-- What a granted instruction does once its results are on their way: it holds its sources, writes its record, and pops. -/
def tileFollows (j : TileJob) (plan : Option RecordPlan) (descD : DWord) (sel : List (Byte × Bool)) (lands : Nat) : Act Unit := do
  holdViews j.occupancy (((tileSources j.op j.form).map Src.code).filter (fun c => c == j.form.a || c == j.form.b)).eraseDups
  readRings j.occupancy ((tileRings j.op j.form).map (fun x => ringNumber x.1)).eraseDups
  recordOf plan descD sel lands
  Act.modify (fun s => j.pops.foldl (fun s q => s.popAndDrop s.cur q) s)

theorem Carried.tileFollows (j : TileJob) (plan : Option RecordPlan) (descD : DWord) (sel : List (Byte × Bool)) (lands : Nat) :
    Carried (plan.isSome = true) (tileFollows j plan descD sel lands) := by
  refine .bind (.holdViews _ _) fun _ => .bind (.readRings _ _) fun _ => .bind (.recordOf _ _ _ _) fun _ => ?_
  exact .modify fun s => .foldl (fun u q => .popAndDrop u u.cur q) _ s

/-- The unit is busy for the occupancy of a job. -/
def State.occupyMatrix (s : State) (n : Nat) : State :=
  s.modCluster (clusterOfCore s.myCore) (fun c => { c with matrixBusy := s.cycle + n })

theorem runTile_eq (j : TileJob) (plan : Option RecordPlan) (s : State) :
    runTile j plan s = (tileFollows j plan (s.me.descriptor j.form.d) (j.selection (j.cells (s.tileInput j (s.grid j.form.d))))
      (s.cycle + j.occupancy + 10) >>= fun _ => Act.modify (fun u => u.occupyMatrix j.occupancy)) (s.tileUnderWay j plan) := by
  unfold tileFollows
  simp only [bind_assoc]
  cases plan <;> rfl

theorem runTile_ok (j : TileJob) (plan : Option RecordPlan) (s : State) :
    ∃ u, Carries (plan.isSome = true) (s.tileUnderWay j plan) u ∧ runTile j plan s = .ok ((), u.occupyMatrix j.occupancy) := by
  obtain ⟨_, u, follows, carries⟩ := Carried.tileFollows j plan (s.me.descriptor j.form.d)
    (j.selection (j.cells (s.tileInput j (s.grid j.form.d)))) (s.cycle + j.occupancy + 10) (s.tileUnderWay j plan)
  exact ⟨u, carries, (runTile_eq j plan s).trans ((Act.bind_run follows).trans rfl)⟩

/-! ## What comes before the grant -/

theorem writeTargets_sameTurn {addr : Nat} (n : Nat) {s t : State} {ps : List Piece} (h : writeTargets addr n s = .ok (ps, t)) :
    SameTurn s t := by
  induction n generalizing addr s ps with
  | zero =>
    cases h
    exact ⟨rfl, rfl⟩
  | succ n ih =>
    obtain ⟨x, u, first, h⟩ := Act.bind_ok.1 h
    obtain ⟨rest, v, more, h⟩ := Act.bind_ok.1 h
    cases h
    exact (translateMe_ok first).sameTurn.trans (ih more)

/-- The plan of a record translates addresses and does nothing else. -/
theorem planRecord_sameTurn {j : TileJob} {iw : DWord} {s t : State} {plan : Option RecordPlan} (h : planRecord j iw s = .ok (plan, t)) :
    SameTurn s t := by
  unfold planRecord at h
  rw [Act.state_bind] at h
  dsimp only at h
  split at h
  · cases h
    exact ⟨rfl, rfl⟩
  · obtain ⟨_, u1, a1, h⟩ := Act.bind_ok.1 h
    obtain ⟨-, rfl⟩ := Act.trapIf_ok.1 a1
    obtain ⟨_, u2, a2, h⟩ := Act.bind_ok.1 h
    obtain ⟨-, rfl⟩ := Act.trapIf_ok.1 a2
    obtain ⟨_, u3, a3, h⟩ := Act.bind_ok.1 h
    obtain ⟨-, rfl⟩ := Act.trapIf_ok.1 a3
    obtain ⟨ps, u4, a4, h⟩ := Act.bind_ok.1 h
    cases h
    exact writeTargets_sameTurn _ a4

theorem tileShapes_form {op : Nat} {f : TForm} {s t : State} {j : TileJob} (h : tileShapes op f s = .ok (j, t)) : j.form = f := by
  unfold tileShapes at h
  rw [Act.me_bind] at h
  dsimp only at h
  split at h
  · obtain ⟨_, _, _, h⟩ := Act.bind_ok.1 h
    obtain ⟨_, _, _, h⟩ := Act.bind_ok.1 h
    rw [Act.state_bind] at h
    cases h
    rfl
  · obtain ⟨_, _, _, h⟩ := Act.bind_ok.1 h
    obtain ⟨_, _, _, h⟩ := Act.bind_ok.1 h
    rw [Act.state_bind] at h
    cases h
    rfl

/-- The job is that of the instruction. -/
theorem tilePrep_form {op : Nat} {f : TForm} {s t : State} {j : TileJob} (h : tilePrep op f s = .ok (j, t)) : j.form = f := by
  unfold tilePrep at h
  obtain ⟨_, _, _, h⟩ := Act.bind_ok.1 h
  rw [Act.state_bind] at h
  obtain ⟨_, _, _, h⟩ := Act.bind_ok.1 h
  obtain ⟨_, _, _, h⟩ := Act.bind_ok.1 h
  obtain ⟨x, _, shaped, h⟩ := Act.bind_ok.1 h
  obtain ⟨_, _, _, h⟩ := Act.bind_ok.1 h
  obtain ⟨_, _, _, h⟩ := Act.bind_ok.1 h
  obtain ⟨_, _, _, h⟩ := Act.bind_ok.1 h
  cases h
  exact tileShapes_form shaped

end Sys2Proof.Machine

namespace Sys2Proof.Statements

open Sys2Proof.Machine

theorem exec_tileOf {i : Instr} {op : Nat} {f : TForm} (h : tileOf i = some (op, f)) (s : State) :
    exec i s = issue i (tile op f (wordOf i)) s := by
  unfold tileOf at h
  split at h
  case h_11 => cases h
  all_goals
    cases h
    rfl

/-- Without a grant the request is posted. -/
theorem tile_asks {op : Nat} {f : TForm} {iw : DWord} {s : State} {j : TileJob} (prep : tilePrep op f s = .ok (j, s))
    (record : recordParks j iw s = .ok ((), s)) (none_ : s.me.granted = false) :
    tile op f iw s = .error (.wait (waitUnit 0) (requesting s)) := by
  refine (Act.bind_run prep).trans ((Act.bind_run record).trans ((Act.me_bind _ s).trans ?_))
  rw [none_]
  rfl

/-- With a grant the plan of the record is made, and the instruction issues. -/
theorem tile_issues {op : Nat} {f : TForm} {iw : DWord} {s s1 : State} {j : TileJob} {plan : Option RecordPlan}
    (prep : tilePrep op f s = .ok (j, s)) (record : recordParks j iw s = .ok ((), s)) (planned : planRecord j iw s = .ok (plan, s1))
    (grant : s.me.granted = true) : tile op f iw s = runTile j plan s1 := by
  refine (Act.bind_run prep).trans ((Act.bind_run record).trans ((Act.me_bind _ s).trans ?_))
  rw [grant]
  exact Act.bind_run planned

/-- Settles O38. -/
theorem tileInstructions : Obligations.TileInstructions := by
  unfold Obligations.TileInstructions
  refine ⟨fun i op f s j hi mode prep record none_ => ?_, fun i op f s s1 j plan hi mode prep record planned grant => ?_⟩
  · exact (exec_tileOf hi s).trans (issue_error mode (tile_asks prep record none_))
  · obtain ⟨u, carries, runs⟩ := runTile_ok j plan s1
    obtain ⟨cur, cycle⟩ := planRecord_sameTurn planned
    obtain rfl := tilePrep_form prep
    obtain ⟨uCur, uCycle⟩ := carries.turn
    have here : u.myCore = s.myCore := congrArg coreOfSlot (uCur.trans cur)
    have busy : ((u.occupyMatrix j.occupancy).cluster (clusterOfCore s.myCore)).matrixBusy = s.cycle + j.occupancy := by
      rw [State.occupyMatrix, here, State.modCluster_eq, State.cluster_setCluster_same, show u.cycle = s.cycle from uCycle.trans cycle]
    have core : s1.myCore = s.myCore := congrArg coreOfSlot cur
    refine ⟨_, (exec_tileOf hi s).trans (issue_ok mode ((tile_issues prep record planned grant).trans runs)), busy, ?_, ?_, ?_, ?_⟩
    · refine (congrArg (_ ∈ ·) (show _ = _ from carries.results)).mpr ?_
      exact List.mem_append_right _ (List.mem_singleton.2 rfl)
    · refine carries.spans _ ?_
      rw [← cur, ← core]
      exact List.mem_append_right _ (List.mem_singleton.2 rfl)
    · refine carries.agenda _ (mem_agendaInsert.2 (.inl ?_))
      rw [← cur, ← cycle]
    · intro p
      refine (carries.mem p).imp_left fun same => ?_
      refine (by cases p <;> rfl : _ = u.memAt p).trans (same.trans ?_)
      cases p <;> rfl

end Sys2Proof.Statements

end

section
/-! SUPPORT. SET_ROOT, the requests for queues and windows, and a DEBUG_UNLOCK whose token is not good (R332, R372, R376, R384,
R390). Which tokens are good is open (log entry 70); where none is, the statement O58 holds. -/

namespace Sys2Proof.Statements

open Sys2Proof.Machine

/-- A request of its kind is served. -/
theorem Requested.runs {s : State} {op a : Nat} (h : Requested s op a) {i : Instr} {f : State → State}
    (hi : exec i s = .next (s.serving op f)) : exec i s = .next (f s) :=
  hi.trans (congrArg Host.Outcome.next (State.serving_requested h f))

/-- An answer leaves the queues, the TLBs and the health of the device. -/
theorem State.answer_fields {s : State} {op a : Nat} (h : Requested s op a) (code : Nat) : (s.answer code).queues = s.queues
    ∧ (s.answer code).tlb = s.tlb ∧ (s.answer code).health = s.health := by
  obtain ⟨u, moves, eq, -⟩ := State.answer_busy h.1 code
  obtain ⟨_, _, _, _, _, _, _, _, _, _, _, _, rfl⟩ := moves.fields
  rw [eq]
  exact ⟨rfl, rfl, rfl⟩

/-- What the mailbox and the host's memory hold decides whether a request has been answered. -/
theorem Answered.kept {s t : State} {a code : Nat} (h : Answered s a code)
    (same : t.mailbox = s.mailbox ∧ t.hostDown = s.hostDown ∧ t.hostMem = s.hostMem) : Answered t a code := by
  obtain ⟨mailbox, hostDown, hostMem⟩ := same
  unfold Answered State.hostBytes
  rw [mailbox, hostDown, hostMem]
  exact h

theorem modQueue_fields (s : State) (q : Nat) (f : Queue → Queue) : ∃ queues, s.modQueue q f = { s with queues := queues } := by
  unfold State.modQueue
  split
  · exact ⟨_, rfl⟩
  · exact ⟨_, rfl⟩

theorem checkDrain_fields (s : State) (q : Nat) : ∃ agenda, s.checkDrain q = { s with agenda := agenda } := by
  unfold State.checkDrain
  split
  · split
    · exact ⟨_, rfl⟩
    · exact ⟨_, rfl⟩
  · exact ⟨_, rfl⟩

theorem rootSet {s : State} {a : Nat} (asked : Requested s 0x07 a) (zero : s.requestWid = 0) (aligned : s.arg 0 % 0x1000 = 0)
    (owned : s.ownsDram 0 (s.arg 0) 0x1000 = true) :
    (s.launches.any (fun e => e.2.world == 0 && !s.isRun e.2) = false → ∃ t, exec .setRoot s = .next t ∧ Answered t a 0
      ∧ (t.world 0).ptroot = some (s.arg 0) ∧ ∀ e ∈ t.tlb, e.world = 0 → e.pasid ≠ none)
    ∧ (s.launches.any (fun e => e.2.world == 0 && !s.isRun e.2) = true → ∃ t, exec .setRoot s = .next t ∧ Answered t a 2
      ∧ t.worlds = s.worlds) := by
  have good : ¬ (s.requestWid != 0 || s.arg 0 % 0x1000 != 0 || !s.ownsDram 0 (s.arg 0) 0x1000) = true := by
    simp [zero, aligned, owned]
  let x : State := { s with tlb := s.tlb.filter (fun e => !(e.world == 0 && e.pasid.isNone)) }
  let y := x.modWorld 0 (fun x => { x with ptroot := some (s.arg 0) })
  have runs : exec .setRoot s = .next (if s.launches.any (fun e => e.2.world == 0 && !s.isRun e.2) then s.answer 2 else y.answer 0) :=
    (asked.runs rfl).trans (congrArg Host.Outcome.next (if_neg good))
  have askedThen : Requested y 0x07 a := asked
  refine ⟨fun free => ⟨_, runs, ?_⟩, fun loaded => ⟨_, runs, ?_⟩⟩
  · rw [free]
    refine ⟨State.answer_answered askedThen.1 0, ?_, fun e he world none_ => ?_⟩
    · rw [if_neg Bool.false_ne_true, State.answer_world, State.world_modWorld_same]
    · rw [if_neg Bool.false_ne_true, (State.answer_fields askedThen 0).2.1] at he
      have kept := (List.mem_filter.1 he).2
      simp [world, none_] at kept
  · rw [loaded]
    exact asked.answer_kept 2

theorem queueCreated {s : State} {a : Nat} (asked : Requested s 0x10 a) (number : s.arg 1 < 2048) (aligned : s.arg 0 % 64 = 0)
    (alive : s.worldAlive s.requestWid = true) (legal : queueRecordLegal (s.hostBytes (s.arg 0) 64) = true) :
    (s.queue (s.arg 1) = none → ∃ t, exec .createQueue s = .next t ∧ Answered t a 0
      ∧ t.queue (s.arg 1) = some (queueOf s.requestWid (s.hostBytes (s.arg 0) 64)))
    ∧ ((s.queue (s.arg 1)).isSome = true → ∃ t, exec .createQueue s = .next t ∧ Answered t a 2 ∧ t.queues = s.queues) := by
  have good : ¬ (2048 ≤ s.arg 1 || s.arg 0 % 64 != 0 || !s.worldAlive s.requestWid || !queueRecordLegal (s.hostBytes (s.arg 0) 64)) = true := by
    simp [number, aligned, alive, legal]
  let y : State := { s with queues := s.queues.put (s.arg 1) (queueOf s.requestWid (s.hostBytes (s.arg 0) 64)) }
  have runs : exec .createQueue s = .next (if (s.queue (s.arg 1)).isSome then s.answer 2 else y.answer 0) :=
    (asked.runs rfl).trans (congrArg Host.Outcome.next (if_neg good))
  have askedThen : Requested y 0x10 a := asked
  refine ⟨fun free => ⟨_, runs, ?_⟩, fun taken => ⟨_, runs, ?_⟩⟩
  · rw [free]
    refine ⟨State.answer_answered askedThen.1 0, ?_⟩
    exact (State.queue_of_queues_eq (State.answer_fields askedThen 0).1 _).trans (Assoc.find_put_same _ _ _)
  · rw [taken]
    exact ⟨State.answer_answered asked.1 2, (State.answer_fields asked 2).1⟩

theorem queueDestroyed {s : State} {a : Nat} {x : Queue} (asked : Requested s 0x11 a) (here : s.queue (s.arg 0) = some x)
    (own : x.wid = s.requestWid) : ∃ t, exec .destroyQueue s = .next t ∧ Answered t a 0
      ∧ t.queue (s.arg 0) = some { x with draining := true, destroying := true } := by
  let y := (s.answer 0).modQueue (s.arg 0) (fun x => { x with draining := true, destroying := true })
  have runs : exec .destroyQueue s = .next (y.checkDrain (s.arg 0)) := by
    refine (asked.runs rfl).trans (congrArg Host.Outcome.next ?_)
    simp only [here, own, bne_self_eq_false, Bool.false_eq_true, if_false]
    rfl
  have still : (s.answer 0).queue (s.arg 0) = some x := (State.queue_of_queues_eq (State.answer_fields asked 0).1 _).trans here
  refine ⟨_, runs, (State.answer_answered asked.1 0).kept ?_, ?_⟩
  · obtain ⟨queues, marked⟩ := modQueue_fields (s.answer 0) (s.arg 0) (fun x => { x with draining := true, destroying := true })
    obtain ⟨agenda, drained⟩ := checkDrain_fields y (s.arg 0)
    rw [drained, show y = _ from marked]
    exact ⟨rfl, rfl, rfl⟩
  · exact (State.queue_of_queues_eq (State.checkDrain_queues _ _) _).trans (State.queue_modQueue_same _ still)

/-- The window that a request names lies apart from those of its world. -/
theorem windowSet {s : State} {a : Nat} (asked : Requested s 0x20 a) (alive : s.worldAlive s.requestWid = true)
    (base : s.arg 0 % 0x1000 = 0) (len : s.arg 1 % 0x1000 = 0) (some_ : 0 < s.arg 1) (most : s.arg 1 ≤ 0x40000000) (home : s.arg 2 < 256)
    (apart : ∀ x ∈ (s.world s.requestWid).windows, s.arg 0 + s.arg 1 ≤ x.1 ∨ x.1 + x.2.1 ≤ s.arg 0)
    (idle : s.idleWorld s.requestWid = true) :
    ((s.world s.requestWid).windows.length < 16 → ∃ t, exec .setWindow s = .next t ∧ Answered t a 0
      ∧ (t.world s.requestWid).windows = (s.world s.requestWid).windows ++ [(s.arg 0, s.arg 1, s.arg 2)])
    ∧ (16 ≤ (s.world s.requestWid).windows.length → ∃ t, exec .setWindow s = .next t ∧ Answered t a 6 ∧ t.worlds = s.worlds) := by
  have free : (s.world s.requestWid).windows.any (fun x => decide (s.arg 0 < x.1 + x.2.1) && decide (x.1 < s.arg 0 + s.arg 1)) = false := by
    refine List.any_eq_false.2 fun x hx => ?_
    simp only [Bool.and_eq_true, decide_eq_true_eq, not_and_or, not_lt]
    exact (apart x hx).symm
  have good : ¬ (!s.worldAlive s.requestWid || s.arg 0 % 0x1000 != 0 || s.arg 1 % 0x1000 != 0 || decide (s.arg 1 = 0)
      || decide (0x40000000 < s.arg 1)
      || (s.world s.requestWid).windows.any (fun x => decide (s.arg 0 < x.1 + x.2.1) && decide (x.1 < s.arg 0 + s.arg 1))
      || decide (255 < s.arg 2)) = true := by
    rw [free]
    simp [alive, base, len, Nat.pos_iff_ne_zero.1 some_, Nat.not_lt.2 most, Nat.le_of_lt_succ home]
  let y := s.modWorld s.requestWid (fun x => { x with windows := x.windows ++ [(s.arg 0, s.arg 1, s.arg 2)] })
  have runs : exec .setWindow s = .next (if 16 ≤ (s.world s.requestWid).windows.length then s.answer 6 else y.answer 0) := by
    have served := asked.runs (i := .setWindow) rfl
    refine served.trans (congrArg Host.Outcome.next ((if_neg good).trans ?_))
    rw [idle]
    rfl
  have askedThen : Requested y 0x20 a := asked
  refine ⟨fun room => ⟨_, runs, ?_⟩, fun full => ⟨_, runs, ?_⟩⟩
  · rw [if_neg (Nat.not_le.2 room)]
    exact ⟨State.answer_answered askedThen.1 0, by rw [State.answer_world, State.world_modWorld_same]⟩
  · rw [if_pos full]
    exact asked.answer_kept 6

theorem windowCleared {s : State} {a : Nat} (asked : Requested s 0x21 a)
    (here : (s.world s.requestWid).windows.any (fun x => x.1 == s.arg 0) = true) (idle : s.idleWorld s.requestWid = true) :
    ∃ t, exec .clearWindow s = .next t ∧ Answered t a 0
      ∧ (t.world s.requestWid).windows = (s.world s.requestWid).windows.filter (fun y => y.1 != s.arg 0) := by
  let y := s.modWorld s.requestWid (fun x => { x with windows := x.windows.filter (fun y => y.1 != s.arg 0) })
  have runs : exec .clearWindow s = .next (y.answer 0) := by
    refine (asked.runs rfl).trans (congrArg Host.Outcome.next ?_)
    simp only [here, idle, Bool.not_true, Bool.false_eq_true, if_false]
    rfl
  have askedThen : Requested y 0x21 a := asked
  exact ⟨_, runs, State.answer_answered askedThen.1 0, by rw [State.answer_world, State.world_modWorld_same]⟩

/-- A token that is not good. -/
theorem unlockRefused {s : State} {a : Nat} (asked : Requested s 0x30 a) :
    (Config.tokenVerdict (s.hostBytes (s.arg 0) 0x2000) = 1 → ∃ t, exec .debugUnlock s = .next t ∧ Answered t a 3
      ∧ t.health = s.health ∧ t.worlds = s.worlds)
    ∧ (Config.tokenVerdict (s.hostBytes (s.arg 0) 0x2000) ≠ 0 → Config.tokenVerdict (s.hostBytes (s.arg 0) 0x2000) ≠ 1 →
      ∃ t, exec .debugUnlock s = .next t ∧ Answered t a 7 ∧ t.health = s.health ∧ t.worlds = s.worlds) := by
  have runs := asked.runs (i := .debugUnlock) rfl
  have answers : ∀ code, Answered (s.answer code) a code ∧ (s.answer code).health = s.health ∧ (s.answer code).worlds = s.worlds :=
    fun code => ⟨State.answer_answered asked.1 code, (State.answer_fields asked code).2.2, State.answer_worlds s code⟩
  refine ⟨fun spent => ⟨_, runs.trans ?_, answers 3⟩, fun bad0 bad1 => ⟨_, runs.trans ?_, answers 7⟩⟩
  · simp only [spent]
    rfl
  · generalize Config.tokenVerdict (s.hostBytes (s.arg 0) 0x2000) = v at bad0 bad1 ⊢
    match v with
    | 0 => exact absurd rfl bad0
    | 1 => exact absurd rfl bad1
    | 2 => rfl

/-- The statement O58, as long as no token is good. -/
theorem rootsQueuesAndWindows_of_no_token (none_ : ∀ bs, Config.tokenVerdict bs ≠ 0) : Obligations.RootsQueuesAndWindows := by
  unfold Obligations.RootsQueuesAndWindows
  refine ⟨fun s a asked zero aligned owned => rootSet asked zero aligned owned, ?_, fun s a x asked here own => queueDestroyed asked here own,
    fun s a asked alive base len some_ most home apart idle => windowSet asked alive base len some_ most home apart idle,
    fun s a asked here idle => windowCleared asked here idle, fun s a asked => ⟨fun good => absurd good (none_ _), unlockRefused asked⟩⟩
  intro s a asked r number aligned alive legal
  obtain ⟨created, taken⟩ := queueCreated asked number aligned alive legal
  refine ⟨fun free => ?_, taken⟩
  obtain ⟨t, runs, answered, made⟩ := created free
  exact ⟨t, _, runs, answered, made, rfl, rfl, rfl, rfl, rfl, rfl, rfl, rfl, rfl⟩

end Sys2Proof.Statements
end

section
/-! SUPPORT. Why the statement O58 cannot be proved: were a certain token good, it would fail. With what is proved above it hangs on
Config.tokenVerdict, of which nothing can be proved (log entry 70). -/

namespace Sys2Proof.Statements

open Sys2Proof.Machine Sys2Proof.Tests

/-- A line of the mailbox's record that makes of it a RECLAIM from world 2, once it goes home. -/
def rewritten : Line :=
  { bytes := [(0, { val := 4, dirty := true, poison := false }), (2, { val := 2, dirty := true, poison := false })] }

/-- A packet of world 3 whose completion signal stands where the record's RESULT does. -/
def signalling : Packet :=
  { id := 5, queue := 9, idx := 0, wid := 3, pasid := some 1, prio := 0, type := 8, taken := 0
    bytes := List.replicate 8 0 ++ [0x20, 0x90] ++ List.replicate 118 0 }

/-- DEBUG_UNLOCK is asked for: world 1 holds that line on die 0, a frame of world 2 is asked for, and world 3 has that packet. -/
def threeWorlds : State :=
  { Tests.requesting (askFor 0x30 0 [0x1000]) [] with
    dies := [(0, { wid := 1 })]
    cores := [(0, { lines := [(lineKey .host 0x9000, rewritten)] })]
    worlds := [(1, { alive := true, vf := 7 }), (2, { alive := true, vf := 8, frames := [{ pa := 0x1000, size := 0, asked := true }] }),
      (3, { alive := true, vf := 9 })]
    tlb := [{ die := 8, world := 3, pasid := some 1, va := 0, size := 0x100000, base := 0, r := true, w := true }]
    packets := [signalling] }

/-- Every confidential world is destroyed. -/
def unlocking (s : State) : State := s.confidential.foldl (fun u w => u.destroyWorld w s.someReason.1 statusWorld) s.someReason.2

/-- A destruction has answered already: nothing is left to be answered. -/
theorem debugUnlock_answered {s : State} {a : Nat} (asked : Requested s 0x30 a)
    (good : Config.tokenVerdict (s.hostBytes (s.arg 0) 0x2000) = 0) (free : (unlocking s).mailbox.busy = none) :
    exec .debugUnlock s = .next { unlocking s with health := { (unlocking s).health with debug := true } } := by
  have served := asked.runs (i := .debugUnlock) rfl
  rw [good] at served
  refine served.trans (congrArg Host.Outcome.next ?_)
  show State.answer { unlocking s with health := { (unlocking s).health with debug := true } } 0 = _
  unfold State.answer
  simp only [free]

/-- An answer, told of a state but for its health. -/
theorem answered_relabelled {s : State} {h : Health} {a code : Nat} (answered : Answered { s with health := h } a code)
    (up : s.hostDown = false) : s.hostBytes (a + 32) 4 = le32 code := answered.2.2 up

theorem threeWorlds_asked : Requested threeWorlds 0x30 0x9000 := by
  unfold Requested
  decide +kernel

/-- The end of world 1 rewrites the record, that of world 2 answers it, and that of world 3 writes over the answer. -/
theorem threeWorlds_overwritten : (unlocking threeWorlds).mailbox.busy = none ∧ (unlocking threeWorlds).hostDown = false
    ∧ (unlocking threeWorlds).hostBytes (0x9000 + 32) 4 ≠ le32 0 := by
  decide +kernel

/-- Not the statement O58, were the token of this state good. -/
theorem not_rootsQueuesAndWindows_of_token (good : Config.tokenVerdict (threeWorlds.hostBytes (threeWorlds.arg 0) 0x2000) = 0) :
    ¬ Obligations.RootsQueuesAndWindows := by
  unfold Obligations.RootsQueuesAndWindows
  rintro ⟨-, -, -, -, -, unlock⟩
  obtain ⟨t, runs, answered, -⟩ := (unlock threeWorlds 0x9000 threeWorlds_asked).1 good
  obtain ⟨free, up, other⟩ := threeWorlds_overwritten
  have ends := (Host.Outcome.next.inj (runs.symm.trans (debugUnlock_answered threeWorlds_asked good free)))
  rw [ends] at answered
  exact other (answered_relabelled answered up)

end Sys2Proof.Statements
end
